-- ==== Sys2Proof/Word.lean ====
section
/-! DEFINITION. The plain index and word types of the module (R2, R11, R14, R18, R22). -/

namespace Sys2Proof

/-- One byte. -/
abbrev Byte := BitVec 8
/-- A run of bytes in address order; multi-byte values are little-endian (R6). -/
abbrev Bytes := List (BitVec 8)
/-- A 32-bit scalar of the control core (R134). -/
abbrev U32 := BitVec 32
/-- A 64-bit register word of the object dictionary (R387). -/
abbrev U64 := BitVec 64

/-- Die index n of R11, 0 to 7. -/
abbrev DieIx := Fin 8
/-- Core index c of R18, 0 to 31. -/
abbrev CoreIx := Fin 32
/-- Off-module port number of R14, 0 to 23. -/
abbrev PortIx := Fin 24
/-- Commanded rail k in the order of R376: VCORE0 to 7, VDRAM, VWL, VSER 0.75 V, VSER 1.2 V. -/
abbrev RailIx := Fin 12
/-- DRAM channel of a die, 16·c + j (R234). -/
abbrev ChanIx := Fin 512

/-- One core of the module. -/
structure CoreRef where
  die  : DieIx
  core : CoreIx
  deriving DecidableEq, Repr

/-- A link end: an off-module port of R14 or the package end of a die on one axis (R12, R13). -/
inductive LinkEnd where
  | port (p : PortIx)
  | pkg (die : DieIx) (axis : Fin 3)
  deriving DecidableEq, Repr

end Sys2Proof
end

