-- ==== Sys2Proof/Syntax.lean ====
section
/-! DEFINITION. The commands of the block: one constructor of `Instr` for each row of spec/opcode_table.json, with the
operand structures they share. Word-slot operations carry the fields of chapters 05 and 06; part events carry the unit
they occur at and what the environment contributes; dictionary commands carry the request they arrive in. -/

namespace Sys2Proof

/-! ### Fields of the word-slot operations -/

/-- Fields of `wload` (R71, R163). -/
structure WloadF where
  wh : BitVec 6
  wsh : BitVec 6
  woff : BitVec 16
  fmtW : BitVec 4
  sclW : BitVec 2
  deriving DecidableEq, Repr

/-- Fields of `mpass` (R77, R163). -/
structure MpassF where
  amask : BitVec 4
  ah : BitVec 6
  sah : BitVec 6
  aoff : BitVec 16
  m : BitVec 8
  dst : BitVec 2
  acc : Bool
  last : Bool
  sw : Bool
  fmtA : BitVec 4
  sclA : BitVec 2
  ftz : Bool
  deriving DecidableEq, Repr

/-- Fields of the element-wise operations (R100, R165). -/
structure ElemF where
  vl : BitVec 12
  dh : BitVec 6
  ah : BitVec 6
  bh : BitVec 6
  so : BitVec 4
  fmtD : BitVec 4
  fmtS : BitVec 4
  sclD : BitVec 2
  sclS : BitVec 2
  rnd : BitVec 2
  ovf : Bool
  ftz : Bool
  za : Bool
  zb : Bool
  sg : BitVec 4
  deriving DecidableEq, Repr

/-- Fields of the reductions (R105, R165). -/
structure RedF where
  vl : BitVec 12
  dh : BitVec 6
  ah : BitVec 6
  vsd : BitVec 3
  vsw : Bool
  so : BitVec 4
  fmtD : BitVec 4
  fmtS : BitVec 4
  sclS : BitVec 2
  rnd : BitVec 2
  ovf : Bool
  ftz : Bool
  sg : BitVec 4
  deriving DecidableEq, Repr

/-- Fields of `vacc` (R110, R167). -/
structure VaccF where
  amask : BitVec 4
  half : BitVec 2
  rel : Bool
  w256 : Bool
  ra : Bool
  rah : BitVec 6
  rw : Bool
  rwh : BitVec 6
  be : Bool
  bh : BitVec 6
  dh : BitVec 6
  so : BitVec 4
  fmtD : BitVec 4
  sclD : BitVec 2
  rnd : BitVec 2
  ovf : Bool
  ftz : Bool
  deriving DecidableEq, Repr

/-- Fields of `vtld` (R116, R167). -/
structure VtldF where
  sh : BitVec 6
  so : BitVec 4
  t : BitVec 2
  arm : Bool
  deriving DecidableEq, Repr

/-- Fields of `ldd`, `sfill`, `scopy`, `std` and `str` (R171, R177); `ih` holds `rsc` in `str`, `setv` is bit [7]. -/
structure StreamF where
  su : BitVec 3
  sh : BitVec 6
  ih : BitVec 6
  so : BitVec 4
  sc : BitVec 6
  len : BitVec 12
  rows : BitVec 12
  kind : BitVec 2
  sig : Bool
  setv : Bool
  deriving DecidableEq, Repr

/-- Fields of `scount` (R176). -/
structure ScountF where
  su : BitVec 3
  sh : BitVec 6
  so : BitVec 4
  sc : BitVec 6
  cnt : BitVec 24
  rel : BitVec 2
  sig : Bool
  vsd : BitVec 3
  fmt : BitVec 4
  deriving DecidableEq, Repr

/-- Fields of `msend` (R180). -/
structure MsendF where
  sh : BitVec 6
  so : BitVec 4
  q : BitVec 4
  len : BitVec 8
  ack : BitVec 6
  nak : BitVec 6
  tag : BitVec 16
  hd : Bool
  deriving DecidableEq, Repr

/-- Fields of `wait` (R182, R183). -/
structure WaitF where
  sc : BitVec 6
  so : BitVec 4
  tmo : BitVec 20
  vsd : BitVec 3
  vsw : Bool
  deriving DecidableEq, Repr

/-- Fields of `pwait` (R182, R183). -/
structure PwaitF where
  h : BitVec 6
  so : BitVec 4
  tmo : BitVec 20
  vsd : BitVec 3
  vsw : Bool
  cond : BitVec 3
  deriving DecidableEq, Repr

/-- Fields of `qsel` (R182, R183, R286). -/
structure QselF where
  qmask : BitVec 16
  rot : Bool
  tmo : BitVec 20
  vsd : BitVec 3
  deriving DecidableEq, Repr

/-- The two vector ports (R94). -/
inductive VPort where
  | vec0 | vec1
  deriving DecidableEq, Repr

/-! ### The CTL operations as one type, shared by the commands and the word decoder -/

/-- Two-register and register-immediate operations (R137). -/
inductive AluOp where
  | add | sub | and | or | xor | shl | shr | sra
  deriving DecidableEq, Repr

/-- A CTL word-slot operation (R136, R137). -/
inductive CtlOp where
  | cnop
  | alu (op : AluOp) (rd ra rb : BitVec 4)
  | mov (rd ra : BitVec 4)
  | aluImm (op : AluOp) (rd ra : BitVec 4) (imm : BitVec 16)
  | movi (rd : BitVec 4) (imm : BitVec 16)
  | movhi (rd : BitVec 4) (imm : BitVec 16)
  | lset (lc : BitVec 3) (ra : BitVec 4)
  | lseti (lc : BitVec 3) (imm : BitVec 23)
  | lget (rd : BitVec 4) (lc : BitVec 3)
  | cmpr (cmp : BitVec 2) (cond : BitVec 3) (u : Bool) (ra rb : BitVec 4)
  | cmpi (cmp : BitVec 2) (cond : BitVec 3) (u : Bool) (ra : BitVec 4) (imm : BitVec 16)
  | cmpv (cmp : BitVec 2) (cond : BitVec 3) (vs : BitVec 3) (rb : BitVec 4)
  | rdvs (rd : BitVec 4) (vs : BitVec 3)
  | rdfn (rd : BitVec 4)
  | jmp (tgt : BitVec 16)
  | bc (cmp : BitVec 2) (tgt : BitVec 16)
  | bnc (cmp : BitVec 2) (tgt : BitVec 16)
  | bloop (lc : BitVec 3) (tgt : BitVec 16)
  | iarm
  | fend
  deriving DecidableEq, Repr

/-- Element-wise vector operations (R101). -/
inductive ElemOp where
  | vnop | vadd | vsub | vmul | vfma | vmin | vmax | vclt | vcle | vceq | vsel | vcvt | vfn | vrand
  deriving DecidableEq, Repr

/-- Reductions (R105). -/
inductive RedOp where
  | vsum | vmaxr | vargmax | vsumsq
  deriving DecidableEq, Repr

/-- Descriptor operations of LD and ST that move bytes (R170, R177). -/
inductive StreamOp where
  | ldd | sfill | scopy | std | str
  deriving DecidableEq, Repr

/-- A decoded operation of one of the seven word slots outside CTL (chapter 06). -/
inductive SlotOp where
  | nop
  | wload (f : WloadF)
  | mpass (f : MpassF)
  | elem (op : ElemOp) (f : ElemF)
  | red (op : RedOp) (f : RedF)
  | vacc (f : VaccF)
  | vtld (f : VtldF)
  | stream (op : StreamOp) (f : StreamF)
  | scount (f : ScountF)
  | msend (f : MsendF)
  | sig (sc : BitVec 6) (so : BitVec 4) (rem : Bool) (n : BitVec 8)
  | cons (sc : BitVec 6) (n : BitVec 8)
  | wait (f : WaitF)
  | pwait (f : PwaitF)
  | qsel (f : QselF)
  | qrp (q : BitVec 4) (so : BitVec 4)
  | hswap (h : BitVec 6)
  | hval (h : BitVec 6) (role v : Bool)
  | harm
  deriving DecidableEq, Repr

/-! ### What the environment contributes to an event -/

/-- What a sector read brings from the cells: single-bit errors the inner code corrects (R238), the outer-code
symbols in error as (symbol, difference) (R239), and bits of the tag changed. -/
structure SectorErr where
  inner   : Nat
  symbols : List (Fin 36 × BitVec 16)
  tagFlip : BitVec 16
  deriving DecidableEq, Repr

/-- What identifies the message that a packet's head flit begins or that a record answers: whether a host sent it, its ring,
tag and sequence number, and the host session of a message from or to a host (zero elsewhere). -/
structure MsgId where
  ho  : Bool
  q   : BitVec 4
  tag : BitVec 16
  seq : BitVec 32
  ses : BitVec 16
  deriving DecidableEq, Repr

/-- A Larkspur flit as received (R318), with its check word and trailer as they stand on the wire. -/
structure Flit where
  fk : BitVec 4
  vl : BitVec 2
  dl : Bool
  kep : Bool
  ng : BitVec 4
  lst : Bool
  fseq : BitVec 12
  fack : BitVec 12
  cvl : BitVec 2
  ccl : Bool
  cred : BitVec 8
  hops : BitVec 7
  dst : BitVec 23
  job : BitVec 8
  body : Bytes
  fcrc : BitVec 32
  trailer : Bytes
  /-- body granules whose data carry a poison mark: R278 keeps the marks of a message that crosses links, and the layout
  of R318 gives them no bits (log entry 23) -/
  marks : BitVec 14
  /-- the flit counter under which an off-module link sealed the flit (R328; log entry 25) -/
  ctr : Nat
  /-- on a head flit of a message packet, the message: R338 and R349 answer it, and the layout of R320 does not show it to
  a router or a bridge; on a record that answers a message or names a lost one, that message: the layout of R323 does not say
  whether a host sent it (log entry 26) -/
  msg : Option MsgId
  deriving DecidableEq, Repr

/-- What the far end sends in the key-agreement step of training (R415), and whether lanes and markers locked. -/
structure PeerHello where
  lanesLocked : Bool
  identKey    : Bytes
  cert        : Bytes
  ekey        : Bytes
  ekeySig     : Bytes
  capsule     : Bytes
  deriving DecidableEq, Repr

/-- A message packet a host sends through the host-facing port (R288, R414). -/
structure HostPacket where
  session : BitVec 16
  dst     : BitVec 23
  q       : BitVec 4
  len     : BitVec 8
  tag     : BitVec 16
  seq     : BitVec 32
  pctr    : BitVec 48
  cipher  : Bytes
  tagBytes : Bytes
  deriving DecidableEq, Repr

/-- A regulator's answer to a poll (R357): none where the rail fails to answer. -/
structure RailReading where
  mv     : Nat
  ma     : Nat
  temp8  : Int
  status : BitVec 16
  ocWarn : Bool
  deriving DecidableEq, Repr

/-- Which sensor a reading belongs to (R362). -/
inductive SensorId where
  | logic (die : DieIx) (k : Fin 16)
  | dram (die : DieIx) (layer k : Fin 4)
  | hub (k : Fin 2)
  | standby (k : Fin 2)
  deriving DecidableEq, Repr

/-- The two access routes of the dictionary (R377). -/
inductive Route where
  | fieldPort | inBand
  deriving DecidableEq, Repr

/-- Role codes of R407. -/
inductive Role where
  | operator | tenant | vendor
  deriving DecidableEq, Repr

/-- The frame around a dictionary request (R377, R392, R394, R395): session, sequence number, whether its tag verified, the
route it came by, and whether a commit to the MRAM that it causes succeeds. -/
structure Req where
  ses   : BitVec 16
  rseq  : BitVec 32
  tagOk : Bool
  route : Route := .fieldPort
  mramOk : Bool := true
  deriving DecidableEq, Repr

/-- A handle-table entry (R215). -/
abbrev HandleEntry := BitVec 64

/-- A sequence of slot-table entries, one list of P entries per link-direction (R196). -/
structure SlotTables where
  period : Nat
  tables : List (List (BitVec 6))
  deriving DecidableEq, Repr

/-- A plan's clear sections for one core (R186): program, registers, declarations. -/
structure CorePlan where
  program  : Bytes
  regs     : List U32
  handles  : List HandleEntry
  handles2 : Option (List HandleEntry)
  counters : List (Fin 64 × BitVec 48)
  rings    : List (Fin 16 × BitVec 64)
  tables   : List (Fin 4 × Bytes)
  deriving DecidableEq, Repr

/-- A plan's clear sections for one die (R186, R196, R203). -/
structure DiePlan where
  cores   : List (Fin 32 × CorePlan)
  slots   : SlotTables
  lam     : Nat
  delta   : Nat
  double  : Bool
  offsets : List Nat
  deriving DecidableEq, Repr

/-- The clear sections the dies read from a container they have opened (R186). The envelope of R412 is read from the
container's own bytes; how its decrypted sections are laid out is not given, so their content is an operand
(log entry 12). -/
structure ClearPlan where
  seqSlots : List (Fin 512)
  seed     : U32
  boxOrigin : Nat × Nat × Nat
  boxSize   : Nat × Nat × Nat
  frameLen : Nat
  theta    : Nat
  allow    : Nat
  dies     : List (DieIx × DiePlan)
  deriving DecidableEq, Repr

/-- Standby sections of one core (R198, R221, R384). -/
structure StandbyCore where
  handles : Option (List HandleEntry)
  program : Option Bytes
  deriving DecidableEq, Repr

/-- The clear standby sections that end standby applies to one die. -/
structure StandbyDie where
  slots : Option SlotTables
  cores : List (Fin 32 × StandbyCore)
  deriving DecidableEq, Repr

/-- The clear standby sections of a standby load (R384). -/
structure ClearStandby where
  dies : List (DieIx × StandbyDie)
  deriving DecidableEq, Repr

/-- The new state of a port in a fault report, and the cause that the report carries (R343, R433, R452). -/
structure PortChange where
  st    : BitVec 8
  cause : BitVec 8
  deriving DecidableEq, Repr

/-! ### The commands -/

/-- One constructor for each row of the opcode table. -/
inductive Instr where
  -- control core (R137)
  | cnop (a : CoreRef)
  | add (a : CoreRef) (rd ra rb : BitVec 4)
  | sub (a : CoreRef) (rd ra rb : BitVec 4)
  | and (a : CoreRef) (rd ra rb : BitVec 4)
  | or (a : CoreRef) (rd ra rb : BitVec 4)
  | xor (a : CoreRef) (rd ra rb : BitVec 4)
  | shl (a : CoreRef) (rd ra rb : BitVec 4)
  | shr (a : CoreRef) (rd ra rb : BitVec 4)
  | sra (a : CoreRef) (rd ra rb : BitVec 4)
  | mov (a : CoreRef) (rd ra : BitVec 4)
  | addi (a : CoreRef) (rd ra : BitVec 4) (imm : BitVec 16)
  | movi (a : CoreRef) (rd : BitVec 4) (imm : BitVec 16)
  | movhi (a : CoreRef) (rd : BitVec 4) (imm : BitVec 16)
  | andi (a : CoreRef) (rd ra : BitVec 4) (imm : BitVec 16)
  | ori (a : CoreRef) (rd ra : BitVec 4) (imm : BitVec 16)
  | xori (a : CoreRef) (rd ra : BitVec 4) (imm : BitVec 16)
  | shli (a : CoreRef) (rd ra : BitVec 4) (imm : BitVec 16)
  | shri (a : CoreRef) (rd ra : BitVec 4) (imm : BitVec 16)
  | srai (a : CoreRef) (rd ra : BitVec 4) (imm : BitVec 16)
  | lset (a : CoreRef) (lc : BitVec 3) (ra : BitVec 4)
  | lseti (a : CoreRef) (lc : BitVec 3) (imm : BitVec 23)
  | lget (a : CoreRef) (rd : BitVec 4) (lc : BitVec 3)
  | cmpr (a : CoreRef) (cmp : BitVec 2) (cond : BitVec 3) (u : Bool) (ra rb : BitVec 4)
  | cmpi (a : CoreRef) (cmp : BitVec 2) (cond : BitVec 3) (u : Bool) (ra : BitVec 4) (imm : BitVec 16)
  | cmpv (a : CoreRef) (cmp : BitVec 2) (cond : BitVec 3) (vs : BitVec 3) (rb : BitVec 4)
  | rdvs (a : CoreRef) (rd : BitVec 4) (vs : BitVec 3)
  | rdfn (a : CoreRef) (rd : BitVec 4)
  | jmp (a : CoreRef) (tgt : BitVec 16)
  | bc (a : CoreRef) (cmp : BitVec 2) (tgt : BitVec 16)
  | bnc (a : CoreRef) (cmp : BitVec 2) (tgt : BitVec 16)
  | bloop (a : CoreRef) (lc : BitVec 3) (tgt : BitVec 16)
  | iarm (a : CoreRef)
  | fend (a : CoreRef)
  -- words and holds (R130, R88, R191)
  | wordCheckStage (a : CoreRef)
  | holdRelease (a : CoreRef) (slot : Fin 8)
  | timedHoldEnd (d : DieIx)
  -- matrix arrays
  | mnop (a : CoreRef)
  | wload (a : CoreRef) (f : WloadF)
  | mpass (a : CoreRef) (f : MpassF)
  | wloadComplete (a : CoreRef)
  | passComplete (a : CoreRef)
  -- vector engine
  | vnop (a : CoreRef) (p : VPort)
  | vadd (a : CoreRef) (p : VPort) (f : ElemF)
  | vsub (a : CoreRef) (p : VPort) (f : ElemF)
  | vmul (a : CoreRef) (p : VPort) (f : ElemF)
  | vfma (a : CoreRef) (p : VPort) (f : ElemF)
  | vmin (a : CoreRef) (p : VPort) (f : ElemF)
  | vmax (a : CoreRef) (p : VPort) (f : ElemF)
  | vclt (a : CoreRef) (p : VPort) (f : ElemF)
  | vcle (a : CoreRef) (p : VPort) (f : ElemF)
  | vceq (a : CoreRef) (p : VPort) (f : ElemF)
  | vsel (a : CoreRef) (p : VPort) (f : ElemF)
  | vcvt (a : CoreRef) (p : VPort) (f : ElemF)
  | vfn (a : CoreRef) (p : VPort) (f : ElemF)
  | vrand (a : CoreRef) (p : VPort) (f : ElemF)
  | vsum (a : CoreRef) (p : VPort) (f : RedF)
  | vmaxr (a : CoreRef) (p : VPort) (f : RedF)
  | vargmax (a : CoreRef) (p : VPort) (f : RedF)
  | vsumsq (a : CoreRef) (p : VPort) (f : RedF)
  | vacc (a : CoreRef) (p : VPort) (f : VaccF)
  | vtld (a : CoreRef) (p : VPort) (f : VtldF)
  | vtldComplete (a : CoreRef) (p : VPort)
  | vecResultWrite (a : CoreRef)
  | accHalfRelease (a : CoreRef)
  -- streams and DRAM path
  | lnop (a : CoreRef)
  | ldd (a : CoreRef) (f : StreamF)
  | sfill (a : CoreRef) (f : StreamF)
  | scopy (a : CoreRef) (f : StreamF)
  | scount (a : CoreRef) (f : ScountF)
  | snop (a : CoreRef)
  | std (a : CoreRef) (f : StreamF)
  | str (a : CoreRef) (f : StreamF)
  | descriptorStart (a : CoreRef) (u : Fin 6)
  | descriptorComplete (a : CoreRef) (u : Fin 6)
  | wheelServe (a : CoreRef) (j : Fin 16)
  | sectorDecode (a : CoreRef) (j : Fin 16) (err : SectorErr)
  -- network
  | nnop (a : CoreRef)
  | msend (a : CoreRef) (f : MsendF)
  | flitInject (a : CoreRef)
  -- sync
  | ynop (a : CoreRef)
  | sig (a : CoreRef) (sc : BitVec 6) (so : BitVec 4) (rem : Bool) (n : BitVec 8)
  | cons (a : CoreRef) (sc : BitVec 6) (n : BitVec 8)
  | wait (a : CoreRef) (f : WaitF)
  | pwait (a : CoreRef) (f : PwaitF)
  | qsel (a : CoreRef) (f : QselF)
  | qrp (a : CoreRef) (q so : BitVec 4)
  | hswap (a : CoreRef) (h : BitVec 6)
  | hval (a : CoreRef) (h : BitVec 6) (role v : Bool)
  | harm (a : CoreRef)
  | waitTimeout (a : CoreRef)
  | incrementLand (a : CoreRef) (sc : Fin 64)
  | messageDecision (a : CoreRef)
  | messageVisible (a : CoreRef) (q : Fin 16)
  | lossNotice (a : CoreRef)
  | remoteArrivalWrite (a : CoreRef)
  | storeSegmentClose (a : CoreRef)
  | storeCompletion (a : CoreRef)
  -- frames
  | tickRecognition (d : DieIx)
  | tickOverrun (d : DieIx)
  | lateFrameRecognition (d : DieIx)
  | holdWatchdogAbort (d : DieIx)
  | runWatchdogAbort (d : DieIx)
  | throttleWindow (d : DieIx)
  | frequencyWindow (d : DieIx)
  | vcoreRaise (d : DieIx)
  | vcoreLower (d : DieIx)
  | droopStretch (d : DieIx) (region : Fin 8) (demand : Fin 9)
  -- time
  | dieTimeAlign (d : DieIx)
  | timeExchangeStart (p : PortIx)
  | timeSync (p : PortIx) (tex : BitVec 16) (frac : BitVec 8)
  | timeFollowUp (p : PortIx) (tex : BitVec 16) (t1 : BitVec 72) (trt : Bool) (frac : BitVec 8)
  | timeDelayRequest (p : PortIx) (tex : BitVec 16) (frac : BitVec 8)
  | timeResponse (p : PortIx) (tex : BitVec 16) (t4 : BitVec 72) (trt : Bool) (thops : BitVec 8)
  | timeHoldover
  -- DRAM rounds
  | refreshWindowRound (d : DieIx) (ch : ChanIx) (err : SectorErr)
  | refreshIntervalRound (d : DieIx) (ch : ChanIx) (err : SectorErr)
  | preTickRefresh (d : DieIx) (errs : List (ChanIx × SectorErr))
  | forcedRefresh (d : DieIx) (ch : ChanIx) (errs : List (ChanIx × SectorErr))
  | refreshRoundEnd (d : DieIx) (ch : ChanIx)
  | dramRateCompare (d : DieIx) (layer : Fin 4) (t0 t1 t2 t3 : Int)
  | bulkClearComplete (d : DieIx)
  | mgmtLaneFail (d : DieIx) (routerWorks : Bool)
  -- links and torus
  | flitReceive (e : LinkEnd) (f : Flit) (corr unc : Nat)
  | retryRequest (e : LinkEnd) (fseq : BitVec 12)
  | replayTimeout (e : LinkEnd)
  | linkDown (e : LinkEnd) (noValidFlit : Bool)
  | trainingRetry (e : LinkEnd)
  | trainingComplete (e : LinkEnd) (h : PeerHello)
  | linkKeyRenewal (p : PortIx) (h : PeerHello)
  | linkKeyExpiry (p : PortIx)
  | routerForward (d : DieIx) (input : Fin 7)
  | packetDeliver (d : DieIx)
  | hostPacket (pk : HostPacket)
  | hostCreditTimeout
  | hostAdapterAck (spaceLeft : Bool)
  | routeSwap (d : DieIx)
  | announcementSend (p : PortIx)
  | announcementReceive (p : PortIx) (body : Bytes)
  | neighbourLost (p : PortIx)
  -- power and sensors
  | powerCapCompute
  | thermalProtect
  | avsbusRead (d : DieIx) (r : Option RailReading)
  | pmbusPoll (k : RailIx) (r : Option RailReading)
  | sensorRead (id : SensorId) (value : Int)
  | thermtrip
  | inletRead (value : Option U32)
  | inletStale
  | railGood (k : RailIx)
  | railTimeout (k : RailIx)
  | railDischargeTimeout (k : RailIx)
  | pwrgdTimeout
  | pwrgdFall
  | rstNAssert (lowNs : Nat)
  | rstNRelease
  | refclkLoss
  -- bring-up and states
  | hubRomBoot
  | firmwareStart
  | dramTraining (d : DieIx) (ok : Bool)
  | bringupLinkStep
  | bringupDiscovery
  | bringupAttestation
  | marigoldWatchdog
  | powerStateRequest (r : Req) (v : BitVec 8)
  | powerTransition
  | quiesceEnd
  | dieFence (r : Req) (d : DieIx)
  | dieRelease (r : Req) (d : DieIx)
  | removalRequest (r : Req)
  | removalCancel (r : Req)
  | removalDrainEnd
  | admissionRelease (r : Req)
  -- firmware update
  | updateBegin (r : Req)
  | updateChunk (r : Req) (chunk : Bytes)
  | updateVerify (r : Req)
  | updateActivate (r : Req)
  | updateAbort (r : Req)
  | updateRestart (r : Req)
  | updateCommit (r : Req)
  -- sessions and dictionary
  | sessionOpenRequest (route : Route) (role : Role) (key : Bytes) (enrol cert : Option Bytes)
  | sessionProof (challenge : Nat) (cipher proofSig : Bytes)
  | sessionClose (r : Req)
  | sessionTimeout (ses : BitVec 16)
  | discoveryRead (route : Route) (idx : BitVec 16) (sub : BitVec 8) (off : BitVec 32) (len : BitVec 16)
  | dictRead (r : Req) (idx : BitVec 16) (sub : BitVec 8) (off : BitVec 32) (len : BitVec 16)
  | dictWrite (r : Req) (idx : BitVec 16) (sub : BitVec 8) (off tot : BitVec 32) (more : Bool) (value : Bytes)
  -- plan loading
  | loadBegin (r : Req)
  | planChunk (r : Req) (chunk : Bytes)
  | loadEnd (r : Req) (plan : ClearPlan)
  | planLoadApply
  | standbyBegin (r : Req)
  | standbyEnd (r : Req) (content : ClearStandby)
  | loadAbort (r : Req)
  | planUnload (r : Req)
  | flipArm (r : Req)
  | flipDisarm (r : Req)
  | imemStandbyWrite (a : CoreRef) (bank : Bool) (addr : BitVec 18) (data : Bytes)
  | openHostSession (r : Req) (job : BitVec 8)
  | closeHostSession (r : Req) (host : BitVec 16)
  | framePeriodWrite (r : Req) (v : U32)
  | powerCapWrite (r : Req) (v : U32)
  | coordinateWrite (r : Req) (size : Bool) (v : U32)
  | routeImageWrite (r : Req) (d : DieIx) (image : Bytes)
  | routeSwapArm (r : Req) (d : DieIx) (v : U64)
  | passThroughWrite (r : Req) (d : DieIx) (v : BitVec 8)
  | portAutomatic (r : Req) (p : PortIx)
  | portDisable (r : Req) (p : PortIx)
  | portLowRate (r : Req) (p : PortIx)
  | portReenable (r : Req) (p : PortIx)
  -- security
  | attestationNonce (r : Req) (nonce : Bytes)
  | attestationReady
  | jobKeyOffer (r : Req) (off : BitVec 32) (len : BitVec 16)
  | jobKeyCapsule (r : Req) (capsule : Bytes)
  | jobKeyExpiry (job : BitVec 8)
  | debugUnlockToken (r : Req) (token : Bytes)
  | restoreDefaults (r : Req) (v : BitVec 16)
  -- recorder, standby power, JTAG
  | recorderEmpty (r : Req)
  | mirrorEmpty (r : Req)
  | eventEngineTake
  | optimeStore
  | standbyPowerApply
  | standbyPowerLoss (tornMirror : Option (Fin 1024))
  | pwrgdRise
  | railDischarged (k : RailIx)
  | refclkReturn
  | plcaNodeNumberEffect
  | faultReportArrival (base : BitVec 32) (port : BitVec 8) (portState : PortChange) (nbState : BitVec 8) (gen : BitVec 32)
  | jtagTckEdge (tms tdi : Bool) (pins : BitVec 12)
  | trstNAssert
  deriving DecidableEq, Repr

end Sys2Proof
end

