-- ==== Sys2Proof/Decode.lean ====
section
/-! DEFINITION. The command that a word of the opcode table spells. The table gives none of its rows bits: the
commands of this block are events and requests, and the long instruction word that a core fetches (chapter 05) is
decoded in Machine/Words.lean, inside the command WORD_CHECK_STAGE. -/

namespace Sys2Proof

/-- No row of spec/opcode_table.json gives bits, so no word spells a command. -/
def decodeTableWord (_nbits _w : Nat) : Option Instr := none

end Sys2Proof
end

