-- ==== Sys2Proof/Config.lean ====
section
/-! DEFINITION. What an implementation fixes or leaves open: free values (no body: nothing can be proved of
them) and the cryptographic functions of the named external standards, which stay uninterpreted. -/

namespace Sys2Proof.Config

/-- Free bytes: the random bytes of nonces, challenges, encapsulation keys and PUF responses (R391, R400, R407,
R410, R419), and the payload of a void record (R279). The first argument is the draw number, the second the length. -/
opaque freshBytes : Nat → Nat → Bytes

/-- Free word: a value the spec does not state, one for each draw number (log entry 1). -/
opaque freeValue : Nat → BitVec 64

/-- SHA3-256 (R344, R369, R400, R404, R412). -/
opaque sha3 : Bytes → Bytes
/-- The first n bytes of SHAKE256 (R400, R407, R410, R411, R415). -/
opaque shake : Nat → Bytes → Bytes
/-- KMAC256 tag of a record under K_mram (R401). -/
opaque kmac : Bytes → Bytes → Bytes
/-- ML-DSA-44 public key from a seed (R400). -/
opaque dsaPublic : Bytes → Bytes
/-- ML-DSA-44 signature by the key of a seed, with a context string, over a message (R406, R407, R410, R415). -/
opaque dsaSign : Bytes → String → Bytes → Bytes
/-- ML-DSA-44 verification: key, context string, message, signature (R370, R402, R407 to R409, R412, R419). -/
opaque dsaVerify : Bytes → String → Bytes → Bytes → Bool
/-- ML-KEM-768 encapsulation key from a seed (R407, R410, R415). -/
opaque kemPublic : Bytes → Bytes
/-- ML-KEM-768 decapsulation: seed of the key, ciphertext (R407, R410). -/
opaque kemDecap : Bytes → Bytes → Bytes
/-- ML-KEM-768 encapsulation to a key with random coins: shared secret and ciphertext (R415). -/
opaque kemEncap : Bytes → Bytes → Bytes × Bytes
/-- Key stream of AES-256-GCM: key, nonce, length in bytes (R321, R328, R412; log entry 24). -/
opaque gcmStream : Bytes → Bytes → Nat → Bytes
/-- Authentication tag of AES-256-GCM: key, nonce, additional data, ciphertext (R321, R328, R412; log entry 24). -/
opaque gcmTag : Bytes → Bytes → Bytes → Bytes → Bytes
/-- The Yilzon public key held in the hub ROM (R355, R402). -/
opaque yilzonKey : Bytes
/-- Context string of a firmware image's signature, which R369 and R402 leave unnamed. -/
opaque firmwareContext : String
/-- M_rom, the measurement of the hub ROM (R403). -/
opaque mRom : Bytes
/-- The serial of 0x1018.04 (R382). -/
opaque serial : Bytes
/-- The MAC address of 0x1100.03 (R382). -/
opaque macAddress : Bytes
/-- Seed S that the fuzzy extractor yields at a start of Marigold from the PUF's response and the helper data (R400): the
response by draw number. -/
opaque pufSeed : Nat → Bytes → Bytes
/-- The identity-records region (R356, R400 to R402), which nothing writes after manufacture: the extractor's helper data,
the identity public key as it was then, the signature of the endorsement certificate, and the tags of the digest, the
helper data and the certificate. -/
opaque helperData : Bytes
opaque manufactureKey : Bytes
opaque endorsementSig : Bytes
opaque identityTag : Fin 3 → Bytes
/-- Tags of the boot record and of the floor as manufacture leaves them in the authenticated region (R401). -/
opaque bootTag : Bytes
opaque floorTag : Bytes
/-- Tags of the tenant slots, the enrolment counter and the debug-unlock count as manufacture leaves them (R401, R409, R420). -/
opaque recordTag : Fin 3 → Bytes
/-- Address on the 10BASE-T1S segment of the node with a number, which R363 and R397 do not give (log entry 129). -/
opaque nodeMac : BitVec 8 → Bytes
/-- Whether a module beyond the neighbours is reachable that offers itself as time root and has a lower base than the one given,
by the announcements heard (R304; log entry 84). -/
opaque fartherRoot : Nat → List Bytes → Bool
/-- Calibrated operating voltage of a die in MRAM, in mV (R299). -/
opaque calibratedMv : Fin 8 → Nat
end Sys2Proof.Config
end

