-- ==== Sys2Proof/Machine/Bits.lean ====
section
/-! DEFINITION. Bit fields, byte order, sparse memories and sets: the helpers that every meaning shares. -/

namespace Sys2Proof.Machine

/-- A sparse memory: (address, value) cells, addresses strictly rising, no cell holding 0; an unlisted address reads
as 0 (log entry 2). -/
abbrev Cells (w : Nat) := List (Nat × BitVec w)
/-- Byte memories (`Host.Cell`). -/
abbrev Mem := Cells 8

/-- The canonical form: every address is at least `lo`, addresses rise strictly, and no cell equals what an unlisted
address reads as. -/
def Cells.wfFrom {w : Nat} (lo : Nat) : Cells w → Bool
  | [] => true
  | (a, b) :: r => decide (lo ≤ a) && b != 0 && Cells.wfFrom (a + 1) r

/-- The canonical form of a whole memory. -/
def Cells.wf {w : Nat} (m : Cells w) : Bool := Cells.wfFrom 0 m

/-- Read one cell. -/
def Cells.get {w : Nat} : Cells w → Nat → BitVec w
  | [], _ => 0
  | (a, b) :: r, x => if x = a then b else if x < a then 0 else Cells.get r x

/-- Put a value in front where it is not what an unlisted address reads as. -/
def Cells.put {w : Nat} (x : Nat) (v : BitVec w) (r : Cells w) : Cells w := if v = 0 then r else (x, v) :: r

/-- Write one cell, keeping the canonical form. -/
def Cells.set {w : Nat} : Cells w → Nat → BitVec w → Cells w
  | [], x, v => Cells.put x v []
  | (a, b) :: r, x, v =>
    if x < a then Cells.put x v ((a, b) :: r)
    else if x = a then Cells.put x v r
    else (a, b) :: Cells.set r x v

/-- Read n cells from an address. -/
def Cells.getN {w : Nat} (m : Cells w) (a : Nat) : Nat → List (BitVec w)
  | 0 => []
  | n + 1 => Cells.get m a :: Cells.getN m (a + 1) n

/-- Write a run of cells from an address. -/
def Cells.setN {w : Nat} (m : Cells w) (a : Nat) : List (BitVec w) → Cells w
  | [] => m
  | v :: vs => Cells.setN (Cells.set m a v) (a + 1) vs

/-- A set of numbers, rising. -/
abbrev NatSet := List Nat

def NatSet.has (s : NatSet) (x : Nat) : Bool := s.contains x

def NatSet.add : NatSet → Nat → NatSet
  | [], x => [x]
  | a :: r, x => if x < a then x :: a :: r else if x = a then a :: r else a :: NatSet.add r x

def NatSet.del (s : NatSet) (x : Nat) : NatSet := s.filter (· != x)

def NatSet.addAll (s : NatSet) (xs : List Nat) : NatSet := xs.foldl NatSet.add s

/-- Replace one element of a vector. -/
def vupd {α : Type} {n : Nat} (v : Vector α n) (i : Fin n) (f : α → α) : Vector α n := v.set i (f v[i]) i.isLt

/-- Apply a function to every element of a vector with its index, in increasing order, from a start value. -/
def vfold {α σ : Type} {n : Nat} (v : Vector α n) (s : σ) (f : σ → α → σ) : σ := v.toList.foldl f s

/-- Bits [hi:lo] of a number. -/
def bits (x hi lo : Nat) : Nat := (x / 2 ^ lo) % 2 ^ (hi - lo + 1)

/-- Bit n of a word of any width. -/
def bit {w : Nat} (x : BitVec w) (n : Nat) : Bool := x.getLsbD n

/-- A field of `width` bits at bit `lo`, as a number to be summed into a word. -/
def field (lo width v : Nat) : Nat := (v % 2 ^ width) * 2 ^ lo

def b2n (b : Bool) : Nat := if b then 1 else 0

/-- A 64-bit word from the sum of its fields. -/
def word64 (fs : List Nat) : U64 := BitVec.ofNat 64 (fs.foldl (· + ·) 0)

/-- Set bit n of a fault word. -/
def setBit {w : Nat} (x : BitVec w) (n : Nat) : BitVec w := x ||| (BitVec.ofNat w (2 ^ n))

/-- Clear bit n of a fault word. -/
def clrBit {w : Nat} (x : BitVec w) (n : Nat) : BitVec w := x &&& ~~~(BitVec.ofNat w (2 ^ n))

/-- n little-endian bytes of a number (R6). -/
def leBytes : Nat → Nat → Bytes
  | 0, _ => []
  | n + 1, x => BitVec.ofNat 8 x :: leBytes n (x / 256)

/-- The number that little-endian bytes spell (R6). -/
def leNat : Bytes → Nat
  | [] => 0
  | b :: r => b.toNat + 256 * leNat r

/-- Bytes [off, off + n) of a run; bytes beyond its end read 0. -/
def slice (bs : Bytes) (off n : Nat) : Bytes :=
  let got := (bs.drop off).take n
  got ++ List.replicate (n - got.length) 0

/-- Little-endian number at a byte offset. -/
def leAt (bs : Bytes) (off n : Nat) : Nat := leNat (slice bs off n)

/-- Cut a run into pieces of n bytes; the last may be shorter. The fuel bounds the pieces. -/
def chunks (n : Nat) : Nat → Bytes → List Bytes
  | 0, _ => []
  | fuel + 1, bs => if bs.isEmpty then [] else bs.take n :: chunks n fuel (bs.drop n)

/-- One byte of the header check's CRC-8 (R128): x^8 + x^2 + x + 1, most significant bit first. -/
def crc8Step (crc : BitVec 8) : BitVec 8 := if bit crc 7 then (crc <<< 1) ^^^ 0x07 else crc <<< 1

def iter {α : Type} (f : α → α) : Nat → α → α
  | 0, x => x
  | n + 1, x => iter f n (f x)

/-- The CRC-8 of R128 over a run of bytes, from 0xFF. -/
def crc8 (bs : Bytes) : BitVec 8 := bs.foldl (fun c b => iter crc8Step 8 (c ^^^ b)) 0xff

/-- One bit of the IEEE 802.3 frame check sequence (R319), reflected. -/
def crc32Step (crc : BitVec 32) : BitVec 32 := if bit crc 0 then (crc >>> 1) ^^^ 0xEDB88320 else crc >>> 1

/-- The CRC-32 of the IEEE 802.3 frame check sequence (R319). -/
def crc32 (bs : Bytes) : BitVec 32 :=
  ~~~(bs.foldl (fun c b => iter crc32Step 8 (c ^^^ b.zeroExtend 32)) 0xFFFFFFFF)

/-- Saturating addition of counts held in w bits. -/
def satAdd {w : Nat} (x : BitVec w) (n : Nat) : BitVec w := BitVec.ofNat w (min (x.toNat + n) (2 ^ w - 1))

/-- ⌈a ÷ b⌉. -/
def ceilDiv (a b : Nat) : Nat := (a + b - 1) / b

/-- Number of bits set. -/
def popCount {w : Nat} (x : BitVec w) : Nat := ((List.range w).filter (bit x)).length

/-- Indexes of the bits set, in increasing order. -/
def onesOf {w : Nat} (x : BitVec w) : List Nat := (List.range w).filter (bit x)

/-- Dies of a mask. -/
def maskDies (m : BitVec 8) : List DieIx := (List.finRange 8).filter (fun n => bit m n.val)

/-- An index below n from any number (used where the number is already known to be below n). -/
def fin16 (x : BitVec 4) : Fin 16 := x.toFin
def fin64 (x : BitVec 6) : Fin 64 := x.toFin
def fin8 (x : BitVec 3) : Fin 8 := x.toFin
def fin4 (x : BitVec 2) : Fin 4 := x.toFin

/-- Update the elements of a list that satisfy a predicate. -/
def updWhere {α : Type} (p : α → Bool) (f : α → α) (l : List α) : List α := l.map (fun x => if p x then f x else x)

/-- An exact value: ± n/d · 2^e (d > 0; n = 0 is a signed zero), an infinity, or NaN. -/
inductive Num where
  | fin (neg : Bool) (n d : Nat) (e : Int)
  | inf (neg : Bool)
  | nan
  deriving DecidableEq, Repr

end Sys2Proof.Machine
end

