-- ==== Sys2Proof/Machine/CoreState.lean ====
section
/-! DEFINITION. The state of one core (R22): control core, instruction memory, matrix arrays, vector engine,
scratchpad, handles, stream units, counters, rings and its vault group's channels. -/

namespace Sys2Proof.Machine

/-- A summary register (R108). Types: 0 never written, 1 FP32, 2 U32. -/
structure Summary where
  val    : U32 := 0
  ty     : BitVec 2 := 0
  poison : Bool := false
  deriving DecidableEq, Repr

/-- A summary write on its way (R96, R109, R162): it lands at the end of run cycle `due`, or of clock cycle `due` with
`onClk`. A higher rank stands:
5 the tick's, 4 VEC1, 3 VEC0, 2 `scount` (then the lowest unit), 1 SYN. -/
structure SummaryWrite where
  due    : Nat
  onClk  : Bool
  rank   : Nat
  unit   : Nat
  vs     : Fin 8
  val    : U32
  ty     : BitVec 2
  poison : Bool
  deriving DecidableEq, Repr

/-- A comparator (R134, R139). -/
structure Comparator where
  result : Bool := false
  poison : Bool := false
  deriving DecidableEq, Repr

/-- State of a standby instruction bank (R147). -/
inductive BankState where
  | empty | loading | complete
  deriving DecidableEq, Repr

/-- The capture register of illegal slots and failed words (R154). -/
structure Capture where
  cnt   : BitVec 16 := 0
  addr  : BitVec 16 := 0
  bank  : Bool := false
  slot  : BitVec 4 := 0
  cause : BitVec 4 := 0
  valid : Bool := false
  frame : BitVec 16 := 0
  deriving DecidableEq, Repr

/-- A checked word slot that has not issued (R130, R131): its plan cycle, its mask bit, its operation, the scalar
values it read, and the word address it stands at. -/
structure Checked where
  due  : Int
  slot : Fin 8
  op   : SlotOp
  regs : Vector U32 16
  pc   : BitVec 16
  deriving DecidableEq, Repr

/-- Control core (R134) and its instruction memory (R146 to R150). -/
structure Ctl where
  s        : Vector U32 16
  lc       : Vector (BitVec 24) 8
  cmp      : Vector Comparator 4
  pc       : BitVec 16
  /-- plan cycle of the next word's check stage -/
  nextChk  : Int
  /-- the core has ended its frame (R144) or stopped (R153) -/
  ended    : Bool
  stopped  : Bool
  /-- `fend` executed: the plan cycle after the word's last cycle -/
  endAt    : Option Int
  failRun  : Nat
  imem0    : Mem
  imem1    : Mem
  act      : Bool
  sbState  : BankState
  wrRef    : BitVec 16
  cap      : Capture
  fault    : U64
  checked  : List Checked
  /-- `qrp`, `hswap` and `hval` issued in the plan cycle in progress: they take effect at its end (R185) -/
  ends     : List Checked
  deriving DecidableEq, Repr

/-- A weight tile (R67, R71): recorded format and mode, number of columns, rows of weight bytes, rows of scale bytes. -/
structure Tile where
  fmt    : BitVec 4
  scl    : BitVec 2
  cols   : Nat
  rows   : List Bytes
  scales : List Bytes
  poison : Bool
  deriving DecidableEq, Repr

/-- A `wload` bound to its bytes at issue (R71, R212). -/
structure TileLoad where
  fmt      : BitVec 4
  scl      : BitVec 2
  cols     : Nat
  src      : Nat
  rowBytes : Nat
  sclSrc   : Nat
  sclBytes : Nat
  beats    : Nat
  deriving DecidableEq, Repr

/-- The shadow registers (R73). -/
inductive Shadow where
  | empty
  /-- load, run cycle of its first beat, bytes taken in, and whether one was poisoned -/
  | filling (l : TileLoad) (start : Nat) (raw : Bytes) (pz : Bool)
  | complete (t : Tile)
  deriving DecidableEq, Repr

/-- State of an accumulator half (R83). -/
inductive HalfState where
  | free | opened | closing | closed
  deriving DecidableEq, Repr

/-- Accumulation kind recorded for a half (R61, R83). -/
inductive AccKind where
  | none | fp32 | int32
  deriving DecidableEq, Repr

structure Half where
  st   : HalfState := .free
  kind : AccKind := .none
  deriving DecidableEq, Repr

/-- One vector's sums of a pass (R62): the words per tile column, poison, and whether an addition saturated. -/
structure Sums where
  words  : List U32
  poison : Bool
  sat    : Bool
  deriving DecidableEq, Repr

/-- A pass in flight on one array (R77, R78). -/
structure Pass where
  array    : Fin 4
  start    : Nat
  src      : Nat
  rowBytes : Nat
  sclSrc   : Nat
  sclBytes : Nat
  vecs     : Nat
  cyc      : Nat
  fmt      : BitVec 4
  scl      : BitVec 2
  ftz      : Bool
  dst      : BitVec 2
  acc      : Bool
  last     : Bool
  kind     : AccKind
  tile     : Tile
  sums     : List Sums
  deriving DecidableEq, Repr

/-- Matrix arrays of a core (R67, R83). Accumulator word of array a, row r, column k has key (256·a + r)·128 + k. -/
structure Mtx where
  front    : Option Tile
  shadow   : Shadow
  queue    : Option TileLoad
  acc      : Cells 32
  rowPz    : NatSet
  halves   : Vector Half 8
  passes   : List Pass
  /-- run cycle from which each array may take a next pass (R78) -/
  freeAt   : Vector Nat 4
  deriving DecidableEq, Repr

/-- One bank of a function table (R113): its descriptor, its entries, and the 4-byte words of the 4,112 bytes that were marked
where `vtld` read them (R66): 0 to 3 of the descriptor, 4 + i for entry i. -/
structure FtBank where
  desc  : Bytes := []
  y     : List U32 := []
  valid : Bool := false
  pz    : NatSet := []
  deriving DecidableEq, Repr

/-- A function table (R113, R117). -/
structure FnTable where
  bank0 : FtBank := {}
  bank1 : FtBank := {}
  act   : Bool := false
  arm   : Bool := false
  deriving DecidableEq, Repr

/-- A buffer bound at issue (R212): byte address of element 0, format, row length in elements. -/
structure Bound where
  base : Nat
  fmt  : BitVec 4
  g    : Nat
  deriving DecidableEq, Repr

/-- Scale buffers of a bound operand (R99): mode, block scales, row scales. -/
structure BoundScale where
  mode  : BitVec 2
  blk   : Nat
  row   : Nat
  deriving DecidableEq, Repr

/-- A vector instruction in execution (R94): bound operands, register values, elements taken in. -/
structure VecRun where
  op      : SlotOp
  regs    : Vector U32 16
  n       : Nat
  taken   : Nat
  start   : Nat
  frame   : Nat
  d       : Bound
  dScl    : BoundScale
  a       : Bound
  aScl    : BoundScale
  b       : Bound
  bScl    : BoundScale
  /-- function-table bank read by a `vfn`, bound at issue (R117) -/
  table   : FtBank
  tabBank : Bool
  /-- destination bases of the arrays of a `vacc` -/
  dst4    : List Nat
  dst4Blk : List Nat
  dst4Row : List Nat
  rowA4   : List Nat
  /-- values taken in so far by a reduction, with their marks -/
  inVals  : List (Num × Bool)
  /-- bytes of a `vtld` read so far (R116), and their 4-byte words that were marked (R66) -/
  raw     : Bytes
  rawPz   : NatSet
  /-- run cycle of the last beat made -/
  lastBeat : Option Nat
  deriving DecidableEq, Repr

/-- One encoded element write: buffer, element index, code, mark (R43, R211). -/
structure ElemWrite where
  into   : Bound
  ix   : Nat
  code : U32
  pz   : Bool
  deriving DecidableEq, Repr

/-- Results of one beat on their way to the scratchpad (R96). -/
structure VecWrite where
  due   : Nat
  port  : VPort
  elems : List ElemWrite
  scale : List (Nat × BitVec 8 × Bool)
  deriving DecidableEq, Repr

/-- A half that a released `vacc` frees in a run cycle (R112). -/
structure HalfRelease where
  due  : Nat
  half : Fin 8
  deriving DecidableEq, Repr

/-- Vector engine of a core. -/
structure Vec where
  run0     : Option VecRun
  run1     : Option VecRun
  writes   : List VecWrite
  releases : List HalfRelease
  vs       : Vector Summary 8
  sumQ     : List SummaryWrite
  /-- summary writes that have landed in the cycle in progress: they meet those that land at its end (R109, R162) -/
  sumNow   : List SummaryWrite
  ft       : Vector FnTable 4
  fault    : U64
  seed     : U32
  deriving DecidableEq, Repr

/-- Run state of a handle (R217). -/
structure RunState where
  v0   : Bool := false
  v1   : Bool := false
  role : Bool := false
  deriving DecidableEq, Repr

/-- A half whose valid bit a completed descriptor of a unit sets at the end of the cycle (R175). -/
structure Filled where
  unit   : Fin 6
  handle : Fin 64
  half   : Bool
  deriving DecidableEq, Repr

/-- Handle table of a core (R220 to R224). -/
structure Handles where
  bank0  : Vector HandleEntry 64
  bank1  : Vector HandleEntry 64
  act    : Bool
  armP   : Bool
  armB   : Bool
  loading : Bool
  wrRef  : BitVec 16
  fault  : U64
  run    : Vector RunState 64
  /-- halves filled by `setv` in the plan cycle in progress: their bits rise at its end, after what `hswap` and `hval` clear
  (R185, R219) -/
  sets   : List Filled
  deriving DecidableEq, Repr

/-- Source of a descriptor: which word slot it came from and what it does. -/
inductive DescOp where
  | ldd | sfill | scopy | scount | std | str
  deriving DecidableEq, Repr

/-- A descriptor in a stream unit's place (R171 to R179), bound at issue (R212). -/
structure Desc where
  op      : DescOp
  kind    : BitVec 2
  /-- scratchpad byte address of row 0 (destination of LD operations, source of ST operations) -/
  sp      : Nat
  spStride : Nat
  /-- own-DRAM offset of row 0, or the second scratchpad address of `scopy`, and its stride -/
  dr      : Nat
  drStride : Nat
  rowBytes : Nat
  rows    : Nat
  pattern : U32
  idxBase : Nat
  /-- `scount`: element range, relation, threshold, summary register -/
  cntFirst : Nat
  cntN    : Nat
  cntFmt  : BitVec 4
  cntRel  : BitVec 2
  cntVsd  : Fin 8
  cntAcc  : Nat
  cntPz   : Bool
  sig     : Bool
  sc      : BitVec 6
  setv    : Bool
  handle  : Fin 64
  half    : Bool
  /-- false once an exchange cleared the handle's run state (R223) -/
  live    : Bool
  dest    : BitVec 23
  rsc     : BitVec 6
  dtag    : BitVec 16
  started : Option Nat
  /-- run cycle from which sectors are offered (R225) -/
  offerAt : Nat
  /-- per row: destination row selected by its index (none: zeroed or discarded), and its mark -/
  index   : List (Option Nat × Bool)
  /-- next sector index to look at, per channel -/
  next    : Vector Nat 16
  /-- sectors not yet written (or, for `str`, not yet read) -/
  left    : Nat
  /-- in-memory operations: bytes done; `ldd`: zero-row bytes still to write -/
  done    : Nat
  zeroLeft : Nat
  deriving DecidableEq, Repr

/-- A stream unit (R225, R231). -/
structure Stream where
  places : List Desc
  ndone  : U32
  /-- a descriptor has completed in the plan cycle in progress: its place is free, and the next starts, from the next one on
  (R175) -/
  ended  : Bool
  fault  : U64
  deriving DecidableEq, Repr

/-- A sync counter (R255). -/
structure Counter where
  s     : BitVec 48 := 0
  c     : BitVec 48 := 0
  depth : BitVec 48 := 0
  decl  : Bool := false
  deriving DecidableEq, Repr

/-- The answer to a send: code 0 for an ACK, else the NAK code of R283; ring, tag and sequence number of the send. -/
structure Answer where
  code : BitVec 4
  ring : BitVec 4
  tag  : BitVec 16
  seq  : BitVec 32
  deriving DecidableEq, Repr

/-- An increment on the signal network (R257, R259): it lands at the end of clock cycle `due`. -/
structure Inc where
  due : Nat
  sc  : Fin 64
  onC : Bool
  amt : Nat
  /-- another core sent it, and which (R274) -/
  rem : Bool
  src : BitVec 23
  job : BitVec 8
  /-- an ACK or a NAK of a send (R283, R284) -/
  ans : Option Answer
  deriving DecidableEq, Repr

/-- Capture of a counter fault (R274). -/
structure CtrCapture where
  sc    : BitVec 6 := 0
  kind  : BitVec 2 := 0
  rem   : Bool := false
  src   : BitVec 23 := 0
  valid : Bool := false
  deriving DecidableEq, Repr

/-- Wait capture (R269); `c` is C at the abort, carried by the event (R433). -/
structure WaitCapture where
  wk    : BitVec 2 := 0
  wsc   : BitVec 6 := 0
  wexp  : BitVec 48 := 0
  wv    : Bool := false
  ws    : BitVec 48 := 0
  frame : BitVec 16 := 0
  c     : BitVec 48 := 0
  deriving DecidableEq, Repr

/-- What a waiting word slot waits for (R182, R264, R267). -/
inductive WaitFor where
  | count (sc : Fin 64) (e : BitVec 48)
  | word (h : Fin 64) (addr : Nat) (cond : BitVec 3) (ref : U32)
  | ring (mask : BitVec 16) (rot : Bool)
  deriving DecidableEq, Repr

/-- A wait in evaluation (R264): first clock cycle, timeout, what it writes, and the hold request it belongs to. -/
structure Waiting where
  what : WaitFor
  v0   : Nat
  tmo  : Nat
  vsd  : Fin 8
  vsw  : Bool
  due  : Int
  deriving DecidableEq, Repr

/-- Counters of a core (R255 to R274). -/
structure Sync where
  ctr   : Vector Counter 64
  incs  : List Inc
  fault : U64
  cap   : CtrCapture
  wcap  : WaitCapture
  waits : List Waiting
  deriving DecidableEq, Repr

/-- A message header (R277). -/
structure MsgHdr where
  ho  : Bool
  pz  : Bool
  q   : BitVec 4
  len : BitVec 8
  tag : BitVec 16
  src : BitVec 23
  seq : BitVec 32
  frm : BitVec 16
  deriving DecidableEq, Repr

/-- A reservation in a ring that is not yet visible (R281, R282). -/
structure Resv where
  hdr   : MsgHdr
  start : Nat
  size  : Nat
  /-- ring pointer of a wrap marker that is still to be written (R281) -/
  wrapAt : Option Nat
  got   : Nat
  void  : Bool
  /-- clock cycle whose end completed the record, once complete -/
  full  : Option Nat
  /-- physical designator of a sender on another die, or of a bridge; none for a sender of this die -/
  from_ : Option (BitVec 23)
  job   : BitVec 8
  deriving DecidableEq, Repr

/-- A receive ring (R275, R276). -/
structure Ring where
  en    : Bool := false
  host  : Bool := false
  qsz   : BitVec 4 := 0
  base  : BitVec 11 := 0
  wp    : U32 := 0
  rp    : U32 := 0
  wres  : U32 := 0
  nacc  : U32 := 0
  nref  : BitVec 16 := 0
  resv  : List Resv := []
  deriving DecidableEq, Repr

/-- A message, or one flit of it, on its way into a ring: header, where it came from, job, payload granules with marks. -/
structure MsgIn where
  hdr   : MsgHdr
  from_ : Option (BitVec 23)
  job   : BitVec 8
  body : List (Bytes × Bool)
  deriving DecidableEq, Repr

/-- Something that has arrived at a core and waits (R200, R280). -/
inductive Arrival where
  /-- flit i of n of a message that crossed the mesh or entered from the core's own NET word slot -/
  | mesh (m : MsgIn) (i n : Nat)
  /-- a whole message in the inbound buffer, and the flit of it to write next -/
  | link (m : MsgIn) (i : Nat)
  deriving DecidableEq, Repr

/-- A loss notice on the signal network (R285). -/
structure Loss where
  due : Nat
  /-- a host sent the message; its source is then its session number -/
  ho  : Bool
  q   : BitVec 4
  tag : BitVec 16
  src : BitVec 23
  seq : BitVec 32
  from_ : Option (BitVec 23)
  job : BitVec 8
  deriving DecidableEq, Repr

/-- A send with flits still to inject (R181, R197). -/
structure Send where
  f     : MsendF
  src   : Nat
  gran  : Nat
  dest  : BitVec 32
  seq   : U32
  frm   : BitVec 16
  flits : Nat
  sent  : Nat
  deriving DecidableEq, Repr

/-- A send that awaits its answer (R181, R283): what its answer names, and the designator it was sent to. -/
structure OutSend where
  seq : U32
  q   : BitVec 4
  tag : BitVec 16
  dest : BitVec 32
  ack : BitVec 6
  nak : BitVec 6
  deriving DecidableEq, Repr

/-- Rings and sends of a core (R275 to R292). -/
structure Rings where
  q      : Vector Ring 16
  arrive : List Arrival
  losses : List Loss
  /-- messages of this die that have had a NAK: source and sequence number. Their flits and notices are discarded -/
  refusedMsgs : List (BitVec 23 × BitVec 32)
  rot    : BitVec 4
  nout   : Nat
  outs   : List OutSend
  nkLast : BitVec 4
  nkRing : BitVec 4
  nkTag  : BitVec 16
  nkCnt  : U32
  sends  : List Send
  seq    : U32
  /-- run cycle in which the core last injected (R197) -/
  injAt  : Option Nat
  fault  : U64
  deriving DecidableEq, Repr

/-- A sector read that the wheel served (R229, R240). -/
structure Served where
  unit   : Fin 6
  chan   : Fin 16
  at_    : Nat
  sector : Nat
  into     : Nat
  data   : Bytes
  pz     : Bool
  decoded : Bool
  /-- its descriptor was discarded by an abort: it is decoded, and written nowhere (R233, R252) -/
  drop   : Bool
  deriving DecidableEq, Repr

/-- A write to own DRAM in progress (R229): due in run cycles (`std`) or clock cycles (remote). -/
structure DramWrite where
  due    : Nat
  onClk  : Bool
  unit   : Fin 6
  sector : Nat
  data   : Bytes
  pz     : Bool
  src    : BitVec 23
  tag    : BitVec 16
  deriving DecidableEq, Repr

/-- How a refresh round came about (R245, R246). -/
inductive RoundKind where
  | window | outside | forced
  deriving DecidableEq, Repr

/-- A refresh round in progress: kind and start on the time counter, with the fraction below its lowest bit (R244). -/
structure Round where
  kind  : RoundKind
  start : Nat
  frac  : Nat := 0
  deriving DecidableEq, Repr

/-- One DRAM channel (R242 to R254). -/
structure Chan where
  fault   : U64
  icCnt   : BitVec 32
  ocRd    : BitVec 16
  ocSc    : BitVec 16
  ueCnt   : BitVec 16
  ueSec   : BitVec 21
  ueSrc   : Bool
  ueValid : Bool
  patPos  : BitVec 21
  patPass : BitVec 4
  /-- clock cycle in which the channel last served a sector (R228) -/
  servedAt : Option Nat
  /-- write-back queue: sector index and corrected data (R242) -/
  wb      : List (Nat × Bytes)
  round   : Option Round
  /-- time-counter value at which the present interval started (R244) -/
  since   : Nat
  /-- next patrol sector due at this time-counter value (R247) -/
  scrubAt : Nat
  /-- sectors corrected by scrub in this pass and in the one before (R249) -/
  fixedNow : NatSet
  fixedPrev : NatSet
  deriving DecidableEq, Repr

/-- A remote-store sector waiting for the remote share (R228). -/
structure RemoteSector where
  sector : Nat
  data   : Bytes
  pz     : Bool
  src    : BitVec 23
  tag    : BitVec 16
  /-- it came over the inbound router link and takes its place in the inbound buffer (R200) -/
  link   : Bool
  deriving DecidableEq, Repr

/-- The store-completion record of a descriptor (R322, R323): total sectors, counter, job. -/
structure StoreTotal where
  /-- clock cycle at whose end the signal may land at the earliest (R262) -/
  due   : Nat
  total : Nat
  rsc   : BitVec 6
  job   : BitVec 8
  deriving DecidableEq, Repr

/-- Sectors written here for one descriptor of one source core (R262, R322). -/
structure Tally where
  src     : BitVec 23
  tag     : BitVec 16
  written : Nat
  total   : Option StoreTotal
  deriving DecidableEq, Repr

/-- Own DRAM of a core (R234 to R243). -/
structure Vault where
  mem    : Mem
  /-- sector numbers (offset ÷ 64) stored with a poison tag -/
  tags   : NatSet
  chans  : Vector Chan 16
  served : List Served
  writes : List DramWrite
  /-- remote sectors waiting for the remote share, oldest first -/
  remote : List RemoteSector
  tally  : List Tally
  deriving DecidableEq, Repr

/-- A core of a compute die (R22). -/
structure Core where
  ctl     : Ctl
  mtx     : Mtx
  vec     : Vec
  scratch : Mem
  pz      : NatSet
  hdl     : Handles
  st      : Vector Stream 6
  /-- counts the `str` descriptors of the core (R322) -/
  dtag    : BitVec 16
  sync    : Sync
  rings   : Rings
  vault   : Vault
  /-- core fault word (R428) -/
  fault   : U64
  deriving DecidableEq, Repr

def Ctl.init : Ctl where
  s := .replicate 16 0
  lc := .replicate 8 0
  cmp := .replicate 4 {}
  pc := 0
  nextChk := -4
  ended := true
  stopped := false
  endAt := none
  failRun := 0
  imem0 := []
  imem1 := []
  act := false
  sbState := .empty
  wrRef := 0
  cap := {}
  fault := 0
  checked := []
  ends := []

def Mtx.init : Mtx where
  front := none
  shadow := .empty
  queue := none
  acc := []
  rowPz := []
  halves := .replicate 8 {}
  passes := []
  freeAt := .replicate 4 0

def Vec.init : Vec where
  run0 := none
  run1 := none
  writes := []
  releases := []
  vs := .replicate 8 {}
  sumQ := []
  sumNow := []
  ft := .replicate 4 {}
  fault := 0
  seed := 0

def Handles.init : Handles where
  bank0 := .replicate 64 0
  bank1 := .replicate 64 0
  act := false
  armP := false
  armB := false
  loading := false
  wrRef := 0
  fault := 0
  run := .replicate 64 {}
  sets := []

def Stream.init : Stream := { places := [], ndone := 0, ended := false, fault := 0 }

def Sync.init : Sync where
  ctr := .replicate 64 {}
  incs := []
  fault := 0
  cap := {}
  wcap := {}
  waits := []

def Rings.init : Rings where
  q := .replicate 16 {}
  arrive := []
  losses := []
  refusedMsgs := []
  rot := 0xF
  nout := 0
  outs := []
  nkLast := 0
  nkRing := 0
  nkTag := 0
  nkCnt := 0
  sends := []
  seq := 0
  injAt := none
  fault := 0

def Chan.init : Chan where
  fault := 0
  icCnt := 0
  ocRd := 0
  ocSc := 0
  ueCnt := 0
  ueSec := 0
  ueSrc := false
  ueValid := false
  patPos := 0
  patPass := 0
  servedAt := none
  wb := []
  round := none
  since := 0
  scrubAt := 0
  fixedNow := []
  fixedPrev := []

def Vault.init : Vault where
  mem := []
  tags := []
  chans := .replicate 16 .init
  served := []
  writes := []
  remote := []
  tally := []

def Core.init : Core where
  ctl := .init
  mtx := .init
  vec := .init
  scratch := []
  pz := []
  hdl := .init
  st := .replicate 6 .init
  dtag := 0
  sync := .init
  rings := .init
  vault := .init
  fault := 0

end Sys2Proof.Machine
end

