-- ==== Sys2Proof/Machine/DieState.lean ====
section
/-! DEFINITION. The state of one compute die and of the link ends: holds, frames, clocks, on-die network, router,
DRAM controllers' die-level state, plan and power. -/

namespace Sys2Proof.Machine

/-- Hold causes of R192, by code 0x0 to 0xB. -/
abbrev HoldCause := Fin 12

/-- A predicted hold request (R191): the plan cycle it is for, its core and word slot, its cause, and the clock cycle
of its release once the failing check has passed. -/
structure HoldReq where
  forCyc  : Int
  core    : CoreIx
  slot    : Fin 8
  cause   : HoldCause
  release : Option Nat
  deriving DecidableEq, Repr

/-- A timed hold (R191): it holds clock cycles `first` to `last`. -/
structure TimedHold where
  cause : HoldCause
  first : Nat
  last  : Nat
  deriving DecidableEq, Repr

/-- Hold state of a die (R190 to R193, R205 to R208). -/
structure Holds where
  reqs     : List HoldReq
  timed    : List TimedHold
  /-- bank conflict of the next plan cycle (R202): 0 not yet predicted, else held cycles still owed plus one -/
  conflict : Nat
  hcnt     : Vector U64 13
  /-- consecutive held cycles (R207) -/
  run      : Nat
  /-- held cycles of this frame outside throttling (R206) -/
  inFrame  : Nat
  /-- the last clock cycle was held -/
  held     : Bool
  fault    : U64
  capture  : U64
  wd       : Nat
  margin   : Nat
  deriving DecidableEq, Repr

/-- Frame state of a die (R306 to R312, R270). -/
structure Frames where
  frun      : Bool
  fnum      : BitVec 48
  flate     : Bool
  ovr       : BitVec 32
  skip      : BitVec 32
  lateFrame : BitVec 48
  lateAny   : Bool
  invFrame  : BitVec 48
  invAny    : Bool
  invCnt    : BitVec 15
  /-- vs7 is to be written at the next recognition (R270) -/
  invMark   : Bool
  /-- the frame in force has been marked invalid -/
  invThis   : Bool
  /-- tick values that fell during the running frame, oldest first (R309) -/
  fallen    : List Nat
  /-- next tick value that the die has not yet met (R306) -/
  nextTick  : Nat
  /-- the tick value before which the rounds of R245 have begun, or are left out -/
  preDone   : Option Nat
  fault     : U64
  deriving DecidableEq, Repr

/-- A forced refresh on its way (R246): the clock cycle in which every channel starts its round, and the errors that the
command gives to the scrubs of those rounds. -/
structure Forced where
  start : Nat
  errs  : List (ChanIx × SectorErr)
  deriving DecidableEq, Repr

/-- Clocks of a die (R293 to R301, R311). -/
structure Clock where
  clk      : Nat
  rc       : Nat
  pcyc     : Int
  /-- progress of region 0's cycle in progress, in sixteenths of a nominal period (R294) -/
  phase    : Nat
  /-- how much later than region 0's each region's present cycle begins, in sixteenths of a nominal period (R296) -/
  lag      : Vector Int 8
  /-- demands of the eight regions in this cycle and the four before it, newest first (R295) -/
  demand   : List (Vector (Fin 9) 8)
  rsCnt    : Vector U32 8
  rsMax    : Vector (BitVec 4) 8
  tc       : U64
  tcFrac   : Nat
  /-- ρ in parts per 10^9 (R301) -/
  rho      : Int
  fwCount  : Nat
  fwStart  : Nat
  fwLast   : BitVec 10
  fwMin    : BitVec 10
  thrDuty  : BitVec 10
  thrMax   : BitVec 10
  /-- duty sent by Marigold, in force from the next window boundary (R311) -/
  thrNext  : BitVec 10
  /-- clock cycle of the last tick recognition: windows of 1,000 are counted from it -/
  winBase  : Nat
  /-- last window in which the throttle was raised, and whether this frame has recorded `thr_over` -/
  winDone  : Option Nat
  /-- clocks gated in Idle (R360, R446) -/
  gated    : Bool
  /-- this die's counter has been aligned since its VCORE last rose (R449) -/
  aligned  : Bool
  deriving DecidableEq, Repr

/-- What one mesh flit carries (R195). -/
inductive FlitLoad where
  | msg (m : MsgIn) (i n : Nat)
  /-- sectors of a remote store, each with its destination offset, data and mark -/
  | store (sectors : List (Nat × Bytes × Bool)) (tag : BitVec 16)
  deriving DecidableEq, Repr

/-- A flit on the mesh (R195): source and destination cores, link-directions still to cross. -/
structure MeshFlit where
  src   : CoreIx
  dst   : CoreIx
  route : List (Fin 136)
  load  : FlitLoad
  /-- dropped under R199: its sectors, zero and marked, still arrive at their time -/
  ghost : Bool
  deriving DecidableEq, Repr

/-- On-die network of a die (R194 to R199). -/
structure Net where
  slots0 : SlotTables
  slots1 : SlotTables
  act    : Bool
  /-- writes aimed at the active slot-table bank: how many were refused, and the sticky bit of it (R220; log entry 108) -/
  wrRef  : BitVec 16
  wrAct  : Bool
  mesh   : List MeshFlit
  /-- messages for which a loss notice has been sent: source core and sequence number (R285) -/
  lost   : List (CoreIx × BitVec 32)
  deriving DecidableEq, Repr

/-- A store segment being formed for one core's descriptor (R322). -/
structure Segment where
  core    : CoreIx
  dtag    : BitVec 16
  dest    : BitVec 23
  off     : Nat
  sectors : List (Bytes × Bool)
  total   : Nat
  rsc     : BitVec 6
  idleAt  : Nat
  deriving DecidableEq, Repr

/-- A message awaiting its router packet: granules collected from the outbound router link. -/
structure OutMsg where
  core  : CoreIx
  m     : MsgIn
  dest  : BitVec 32
  hd    : Bool
  deriving DecidableEq, Repr

/-- The packet in progress on a router input and lane (R333): its output (6 for the own cores), whether the hop enters data
class 1, and what its head flit says. -/
structure Routed where
  out : Fin 7
  dl  : Bool
  dst : BitVec 23
  src : BitVec 23
  job : BitVec 8
  msg : Option MsgId
  deriving DecidableEq, Repr

/-- Router of a die (R333 to R342, R353). -/
structure Router where
  /-- physical coordinate of the die (R15) -/
  phys   : Nat × Nat × Nat
  image0 : Bytes
  image1 : Bytes
  act    : Bool
  arm    : Bool
  notReady : Bool
  pthru  : Bool
  frame  : BitVec 48
  /-- the tick value of the next route-swap decision (R339) -/
  nextSwap : Nat
  /-- queues of the seven inputs (R333) -/
  inq    : Vector (List Flit) 7
  /-- the packet in progress on each input and lane (2·input, plus 1 for the host lane) -/
  route  : Vector (Option Routed) 14
  /-- discard the rest of the packet in progress on this input and lane -/
  drop   : Vector Bool 14
  /-- flits of the packet in progress for the die's own cores, by input and lane, oldest first -/
  rx     : Vector (List Flit) 14
  /-- whole packets and records for the die's own cores, each with the input it came by, oldest first -/
  local_ : List (Fin 7 × List Flit)
  outMsgs : List OutMsg
  segs   : List Segment
  pctr   : BitVec 48
  fault  : U64
  /-- requests in-band that went on: the designator, the input they came by and the output they left by, newest first: a
  response retraces that way (R398) -/
  back   : List (BitVec 23 × Fin 7 × Fin 7)
  /-- outputs whose queue has reached 384 flits and not yet fallen to 256 (R201) -/
  bpQ    : List (Fin 7)
  deriving DecidableEq, Repr

/-- States of a link end (R317), by code. -/
inductive LinkState where
  | unused | down | training | lowRate | up | disabled | host
  deriving DecidableEq, Repr

/-- A link end (R316 to R329). -/
structure Link where
  st       : LinkState
  /-- outbound queues: link control and sync, management, host, data (R327) -/
  ctlq     : List Flit
  outq     : List Flit
  replay   : List Flit
  /-- flits to send again, oldest first (R324) -/
  resend   : List Flit
  nextSeq  : BitVec 12
  expect   : BitVec 12
  /-- a replay is awaited; time of the last retry request (R324) -/
  await    : Bool
  reqAt    : Nat
  /-- when each flit of the replay buffer was last sent; replays made without advance (R325) -/
  times    : List Nat
  stuck    : Nat
  /-- credits: data class 0, data class 1, sync, management, host (R326) -/
  credits  : Vector Nat 5
  owed     : Vector Nat 5
  /-- position in the run of 16 flit times (R327) and flit-time phase -/
  share    : Nat
  phase    : Nat
  /-- flit counters under the present keys: of the next flit out, of the next new flit in, and one above that of the last
  sequenced flit taken; keys and salts out and in, epoch parity (R328, R329) -/
  txCtr    : Nat
  rxCtr    : Nat
  inCtr    : Nat
  txKey    : Bytes
  rxKey    : Bytes
  kep      : Bool
  rxKep    : Bool
  enc      : Bool
  renewing : Bool
  nextTx   : Bytes
  nextRx   : Bytes
  /-- the key in before the last change, for replays sealed under it (R324, R329) -/
  prevRx   : Bytes
  /-- last flit sent, as an observer of the link sees it -/
  sent     : Option Flit
  /-- wall time of the next training attempt of an end that is Down, and of the end of one in progress (R317) -/
  retryAt  : Nat
  /-- wall time at which the last training attempt began -/
  trainAt  : Nat
  /-- training attempts that have failed since the end was last trained (R442) -/
  failed   : Nat
  deriving DecidableEq, Repr

/-- Neighbour states of R345, by code. -/
inductive NbState where
  | none_ | seen | verified | admitted
  deriving DecidableEq, Repr

/-- A time exchange on a port (R303, R347). -/
structure Exchange where
  tex : BitVec 16
  t1  : Option (BitVec 72)
  t2  : Option (BitVec 72)
  t3  : Option (BitVec 72)
  bad : Bool
  deriving DecidableEq, Repr

/-- An off-module port (R317, R344 to R354). -/
structure Port where
  link    : Link
  nb      : NbState
  trnCnt  : BitVec 8
  keyCnt  : U32
  crcErr  : U32
  rplCnt  : U32
  fecCorr : U32
  fecUnc  : BitVec 16
  tagErr  : BitVec 16
  fault   : U64
  lastAnn : Bytes
  annAt   : Option Nat
  /-- last announcement with `an_pst` 0 (R452) -/
  finalAt : Option Nat
  /-- bits of the fault word set in this cycle (R7) -/
  setNow  : U64
  annCnt  : U32
  cmd     : BitVec 8
  peerId  : Bytes
  oldId   : Bytes
  /-- seed of the own fresh encapsulation key, what this end sent with it, and its own capsule (R415) -/
  kemSeed : Bytes
  hello   : Bytes
  capsule : Bytes
  tagFails : List Nat
  /-- wall time of the last announcement sent and of the last time exchange started -/
  annSentAt : Nat
  exAt    : Nat
  ex      : Option Exchange
  /-- since when a move to full rate waits for its request to leave (R330) -/
  rising  : Option Nat
  deriving DecidableEq, Repr

/-- One event on its way to the recorder (R432, R435): everything but the numbers the engine gives. -/
structure Event where
  sev   : Nat
  unitk : BitVec 8
  unit  : BitVec 16
  rule  : Nat
  bit   : BitVec 8
  frame : Option (BitVec 48)
  onDie : Bool
  time  : U64
  /-- clock cycle of the die at the event: events of one cycle are ordered; none where no clock runs (R435) -/
  cyc   : Option Nat
  det   : Bytes
  /-- hub die's wall time at which it reached the engine, once it has; the model's own (R435) -/
  arr   : Option Nat := none
  deriving DecidableEq, Repr

/-- What a loaded plan fixes on a die (R186, R203, R204, R412). -/
structure Loaded where
  job      : BitVec 8
  meas     : Bytes
  planSerial : BitVec 64
  tenant   : Bytes
  seqSlots : List (Fin 512)
  frameLen : Nat
  theta    : Nat
  allow    : Nat
  lam      : Nat
  delta    : Nat
  double   : Bool
  offsets  : List Nat
  boxOrigin : Nat × Nat × Nat
  boxSize  : Nat × Nat × Nat
  deriving DecidableEq, Repr

/-- Bring-up result of a die (R456), by code. -/
inductive DieResult where
  | notUp | ready | dramFailed | vcoreFailed | fencedCmd
  deriving DecidableEq, Repr

/-- Power and service state of a die (R20, R340, R368, R449). -/
structure DiePower where
  vcoreOn : Bool
  vcoreMv : Nat
  lane    : Bool
  fenced  : Bool
  result  : DieResult
  trained : Bool
  selfRef : Bool
  /-- a plan load has cleared the die and bulk clear is in progress (R250) -/
  clearing : Bool
  /-- wall time at which the clear began -/
  clearAt : Nat
  /-- the lane failed during a frame: no further frame starts (R20) -/
  noMore  : Bool
  /-- the die enters pass-through when its frame ends (R20) -/
  passAtEnd : Bool
  /-- the die has left pass-through, and clears its DRAM before it accepts a plan (R340) -/
  leaving : Bool
  deriving DecidableEq, Repr

/-- A compute die. -/
structure Die where
  /-- die index n (R11), fixed -/
  ix      : DieIx
  /-- the model's own counter of free values drawn on this die (log entry 1) -/
  draws   : Nat
  cores   : Vector Core 32
  hold    : Holds
  frm     : Frames
  clock   : Clock
  /-- a forced refresh on its way (R246) -/
  forced  : Option Forced
  net     : Net
  router  : Router
  pkg     : Vector Link 3
  flipArm : Bool
  plan    : Option Loaded
  /-- every covered die's content awaits the end of its frame (R384) -/
  loadAtEnd : Bool
  unloadAtEnd : Bool
  keyReg  : Bytes
  dbl     : BitVec 4
  temps   : Vector Int 16
  logic   : Vector Int 16
  repair  : List (BitVec 32)
  pow     : DiePower
  evq     : List Event
  evLost  : Nat
  /-- events already recorded in this frame: unit kind, unit, rule, bit (R426) -/
  once    : List (BitVec 8 × BitVec 16 × Nat × BitVec 8)
  /-- fault bits set in this cycle: unit kind, unit, bit (R7) -/
  setNow  : List (BitVec 8 × BitVec 16 × Nat)
  deriving DecidableEq, Repr

/-- No slot tables: every position idle. -/
def noSlots : SlotTables := { period := 1, tables := [] }

def Holds.init : Holds where
  reqs := []
  timed := []
  conflict := 0
  hcnt := .replicate 13 0
  run := 0
  inFrame := 0
  held := false
  fault := 0
  capture := 0
  wd := 1048576
  margin := 1048576

def Frames.init : Frames where
  frun := false
  fnum := 0
  flate := false
  ovr := 0
  skip := 0
  lateFrame := 0
  lateAny := false
  invFrame := 0
  invAny := false
  invCnt := 0
  invMark := false
  invThis := false
  fallen := []
  nextTick := 2000000
  preDone := none
  fault := 0

def Clock.init : Clock where
  clk := 0
  rc := 0
  pcyc := 0
  phase := 0
  lag := .replicate 8 0
  demand := []
  rsCnt := .replicate 8 0
  rsMax := .replicate 8 0
  tc := 0
  tcFrac := 0
  rho := 0
  fwCount := 0
  fwStart := 0
  fwLast := 0
  fwMin := 0x3FF
  thrDuty := 0
  thrMax := 0
  thrNext := 0
  winBase := 0
  winDone := none
  gated := false
  aligned := false

def Net.init : Net := { slots0 := noSlots, slots1 := noSlots, act := false, wrRef := 0, wrAct := false, mesh := [], lost := [] }

def Router.init : Router where
  phys := (0, 0, 0)
  image0 := []
  image1 := []
  act := false
  arm := false
  notReady := false
  pthru := false
  frame := 0
  nextSwap := 2000000
  inq := .replicate 7 []
  route := .replicate 14 none
  drop := .replicate 14 false
  rx := .replicate 14 []
  local_ := []
  outMsgs := []
  segs := []
  pctr := 0
  fault := 0
  back := []
  bpQ := []

def Link.init : Link where
  st := .unused
  ctlq := []
  outq := []
  replay := []
  resend := []
  nextSeq := 0
  expect := 0
  await := false
  reqAt := 0
  times := []
  stuck := 0
  credits := .replicate 5 0
  owed := .replicate 5 0
  share := 0
  phase := 0
  txCtr := 0
  rxCtr := 0
  inCtr := 0
  txKey := []
  rxKey := []
  kep := false
  rxKep := false
  enc := false
  renewing := false
  nextTx := []
  nextRx := []
  prevRx := []
  sent := none
  retryAt := 0
  trainAt := 0
  failed := 0

def Port.init : Port where
  link := .init
  nb := .none_
  trnCnt := 0
  keyCnt := 0
  crcErr := 0
  rplCnt := 0
  fecCorr := 0
  fecUnc := 0
  tagErr := 0
  fault := 0
  lastAnn := []
  annAt := none
  finalAt := none
  setNow := 0
  annCnt := 0
  cmd := 0
  peerId := []
  oldId := []
  kemSeed := []
  hello := []
  capsule := []
  tagFails := []
  annSentAt := 0
  exAt := 0
  ex := none
  rising := none

def DiePower.init : DiePower where
  vcoreOn := false
  vcoreMv := 0
  lane := false
  fenced := false
  result := .notUp
  trained := false
  selfRef := false
  clearing := false
  clearAt := 0
  noMore := false
  passAtEnd := false
  leaving := false

def Die.init (n : DieIx) : Die where
  ix := n
  draws := 0
  cores := .replicate 32 .init
  hold := .init
  frm := .init
  clock := .init
  forced := none
  net := .init
  router := { Router.init with phys := (n.val % 2, n.val / 2 % 2, n.val / 4) }
  pkg := .replicate 3 .init
  flipArm := false
  plan := none
  loadAtEnd := false
  unloadAtEnd := false
  keyReg := []
  dbl := 0
  temps := .replicate 16 0
  logic := .replicate 16 0
  repair := []
  pow := .init
  evq := []
  evLost := 0
  once := []
  setNow := []

end Sys2Proof.Machine
end

