-- ==== Sys2Proof/Machine/HubState.lean ====
section
/-! DEFINITION. The state of the hub die (chapter 15 to 19): Marigold, power, sensors, firmware, dictionary, sessions,
plan loading, security, event recorder and test access port. -/

namespace Sys2Proof.Machine

/-- Time of the hub die (R301 to R305, R308). -/
structure HubTime where
  tc       : U64
  /-- wall time in counts of 4 ns: as the counter runs, without its steps; every interval is measured by it -/
  wall     : Nat
  frac     : Nat
  rho      : Int
  align    : BitVec 8
  offset   : BitVec 32
  upstream : BitVec 8
  hops     : BitVec 8
  good     : Nat
  lastEx   : Nat
  exNum    : BitVec 16
  root     : Bool
  period   : U32
  inForce  : U32
  lastTick : U64
  /-- next tick value that the hub die has not yet met (R306, R308) -/
  nextTick : Nat
  /-- the tick value that the hub die has met last -/
  lastAt   : Nat
  deriving DecidableEq, Repr

/-- A commanded rail (R357, R358). -/
structure Rail where
  enabled  : Bool := false
  good     : Bool := false
  enabledAt : Nat := 0
  offAt    : Nat := 0
  /-- stands above 10 % of its target, as far as Marigold has read it (R358, R476) -/
  high     : Bool := false
  /-- has answered with its voltage since its last enable (R465) -/
  read     : Bool := false
  /-- disabled and not yet read below 10 % (R358, R465) -/
  falling  : Bool := false
  target   : Nat := 0
  mv       : Nat := 0
  ma       : Nat := 0
  temp8    : Int := 0
  status   : BitVec 16 := 0
  /-- polls of the PMBus, and reads of the AVSBus, in a row without an answer (R359) -/
  missed   : Nat := 0
  missedA  : Nat := 0
  /-- a fault has been answered since its last enable (R359) -/
  failed   : Bool := false
  ocWarn   : Bool := false
  addr     : BitVec 8 := 0
  /-- VOUT_OV_FAULT_LIMIT in mV and IOUT_OC_WARN_LIMIT in A as written at the last enable (R357, R462) -/
  ovMv     : Nat := 0
  ocAmp    : Nat := 0
  deriving DecidableEq, Repr

/-- What the power-down or power-up of the rails serves (R358, R446, R451). -/
inductive RailGoal where
  | hold
  /-- bring the listed rails up, first one next -/
  | up (order : List RailIx)
  /-- take the listed rails down, first one next; then lower PWR_EN, or run step 4 again, if asked -/
  | down (order : List RailIx) (lowerEn again : Bool)
  /-- the board takes the rails down by itself, since a wall time: the others once every VCORE rail is below 10 % (R466); then
  run step 4, if asked -/
  | board (since : Nat) (again : Bool)
  deriving DecidableEq, Repr

/-- Steps of a transition between power states (R446, R447). -/
inductive TransStep where
  | quiesce | portsLow | portsUp | portsUnused | portsDisabled | linksDown | linksUp | selfRefresh
  | railsDown (rails : List RailIx) | railsUp (rails : List RailIx)
  | train | align | exitRefresh | announce | gate | ungate | pwrEnLow
  /-- a fatal record reaches the mirror (R438) -/
  | commit
  /-- PWR_EN falls under rails that are up, so that the board takes them down (R466, R470) -/
  | supplyOff
  deriving DecidableEq, Repr

/-- A transition in progress (R446). -/
structure Trans where
  target : BitVec 8
  /-- steps to come, the one in progress first -/
  steps  : List TransStep
  /-- the first step has begun -/
  begun  : Bool
  /-- wall time at which the step in progress began -/
  since  : Nat := 0
  deriving DecidableEq, Repr

/-- Marigold's power management (R360 to R368, R299). -/
structure Power where
  state    : BitVec 8
  request  : BitVec 8
  /-- 0x2000.01 as last written (R376, R379) -/
  written  : BitVec 8
  trans    : Option Trans
  /-- a request for Off taken while a transition runs (R448) -/
  wantOff  : Bool
  rails    : Vector Rail 12
  goal     : RailGoal
  /-- the rails not to be raised in step 4 after a VCORE failure (R444) -/
  skipRails : List RailIx
  railTries : Nat
  /-- last ten AVSBus powers of each VCORE rail, in µW, newest first (R365) -/
  avs      : Vector (List Nat) 8
  cap      : U32
  capForce : U32
  /-- a cap whose tick has come, while frames that began before the tick run on (R27) -/
  capDue   : Option U32
  /-- P in µW -/
  powerUw  : Nat
  duty     : Nat
  shortRun : Nat
  overRun  : Nat
  calmRun  : Nat
  prot     : Bool
  protVcore : BitVec 8
  raiseAt  : Vector Nat 8
  /-- a window below 870 cycles awaits its raise (R299) -/
  raiseDue : Vector Bool 8
  /-- windows of 920 cycles or more in a row, and the last window seen, per die (R299) -/
  fast     : Vector Nat 8
  protDuty : Vector Nat 8
  /-- wall time since which a logic sensor has read 105 °C or above, a DRAM sensor above 98 °C, and the duty has stood at
  500 under a condition (R367) -/
  hotSince : Vector (Option Nat) 8
  dramSince : Vector (Option Nat) 8
  maxSince : Vector (Option Nat) 8
  /-- dies on which the first and the second condition of R367 last -/
  hotLogic : BitVec 8
  hotDram  : BitVec 8
  /-- the hub die reads 110 °C or above (R367) -/
  hubHot   : Bool
  quietAt  : Nat
  quiesceAt : Nat
  deriving DecidableEq, Repr

/-- Sensors of the hub die and the coolant (R362, R363). -/
structure Sensors where
  hub     : Vector Int 2
  standby : Vector Int 2
  inlet   : U32
  inletStale : Bool
  inletAt : Nat
  badSeen : List SensorId
  thermtripLow : Bool
  deriving DecidableEq, Repr

/-- Board signals (R441, R467, R470). -/
structure Board where
  rstLow  : Bool
  pwrEn   : Bool
  pwrgd   : Bool
  refclk  : Bool
  standby : Bool
  deriving DecidableEq, Repr

/-- Bring-up and removal (R442 to R451, R456). -/
structure BringUp where
  step    : BitVec 8
  started : Nat
  ready   : U32
  stepAt  : Nat
  removal : BitVec 8
  gate    : BitVec 8
  released : Bool
  /-- Off has been taken, or a power-up has failed for good, since RST_N: step 4 waits for a write, and the gate is not consulted
  (R444, R445, R470) -/
  offSeen  : Bool
  /-- `an_flg`[1] (R443) -/
  attested : Bool
  /-- 10 s have passed in step 8 (R443) -/
  late8    : Bool
  romOnly : Bool
  /-- standby only after a failed power-up (R444) -/
  standbyOnly : Bool
  deriving DecidableEq, Repr

/-- Update states of R371. -/
inductive UpdState where
  | idle | receiving | verified | failed | pending
  deriving DecidableEq, Repr

/-- Firmware and its update (R369 to R373). -/
structure Firmware where
  slotA    : Mem
  slotB    : Mem
  pref     : Bool
  trial    : Bool
  tries    : Nat
  fallback : Bool
  floor    : U32
  /-- 0 A, 1 B, 0xFF hub ROM only -/
  booted   : BitVec 8
  /-- measurement and security version of the booted image -/
  meas     : Bytes
  svn      : U32
  upd      : UpdState
  /-- the hub ROM has found a fallback that the firmware records (R372) -/
  noteFall : Bool
  /-- KMAC256 tags of the boot record and of the floor as they stand in the MRAM (R401) -/
  bootTag  : Bytes
  floorTag : Bytes
  running  : Bool
  deriving DecidableEq, Repr

/-- A response to a request (R394), with the entry and offset of the request. -/
structure Response where
  pt    : BitVec 8
  st    : BitVec 8
  ty    : BitVec 8
  tot   : Nat
  value : Bytes
  idx   : BitVec 16 := 0
  sub   : BitVec 8 := 0
  off   : BitVec 32 := 0
  deriving DecidableEq, Repr

/-- A dictionary session (R391, R392, R396). -/
structure Session where
  num    : BitVec 16
  role   : Role
  key    : Bytes
  aes    : Bytes
  salt   : Bytes
  rseq   : BitVec 32
  resp   : Option Response
  bad    : Nat
  lastAt : Nat
  job    : BitVec 8
  mask   : BitVec 8
  pos    : U32
  seg    : Option (BitVec 16 × BitVec 8 × Nat × Bytes)
  host   : BitVec 16
  offer  : Option (BitVec 8 × Bytes)
  deriving DecidableEq, Repr

/-- An open request that has been challenged (R391, R407). -/
structure Challenge where
  id    : Nat
  role  : Role
  key   : Bytes
  nonce : Bytes
  seed  : Bytes
  cert  : Option Bytes
  route : Route
  sent  : Bytes
  deriving DecidableEq, Repr

/-- A job root key held in the security engine (R410, R411). -/
structure JobKey where
  job    : BitVec 8
  tenant : Bytes
  key    : Bytes
  at_    : Nat
  maxSerial : BitVec 64
  loaded : Bool
  deriving DecidableEq, Repr

/-- States of 0x4000.02. -/
inductive LoadSt where
  | idle | receiving | checking | done | refused
  deriving DecidableEq, Repr

/-- The load operation of the module (R383, R384). -/
structure LoadOp where
  st      : LoadSt
  owner   : BitVec 16
  tenant  : Bytes
  job     : BitVec 8
  mask    : BitVec 8
  standby : Bool
  reason  : BitVec 16
  data    : Mem
  size    : Nat
  /-- the checked plan waiting for the dies' frames to end (R384) -/
  plan    : Option (ClearPlan × Bytes × BitVec 64)
  deriving DecidableEq, Repr

/-- A PDU that has come in-band: the die and router input that it came by, the designator it was sent to, and its bytes
(R398). -/
structure InPdu where
  die   : DieIx
  input : Fin 7
  dst   : BitVec 23
  bytes : Bytes
  deriving DecidableEq, Repr

/-- A host-origin message that awaits its answer at the bridge (R288): session, destination, ring, sequence number, tag. -/
structure HostOut where
  ses : BitVec 16
  dst : BitVec 23
  q   : BitVec 4
  seq : BitVec 32
  tag : BitVec 16
  deriving DecidableEq, Repr

/-- A packet to the host at the bridge (R349): since when it waits, its flits, its sender, its message and job, and whether
it has been sent to the adapter. -/
structure ToHost where
  since : Nat
  flits : List Flit
  src   : BitVec 23
  msg   : MsgId
  job   : BitVec 8
  sent  : Bool
  deriving DecidableEq, Repr

/-- Dictionary data of the hub (R354, R381 to R386). -/
structure Dict where
  sessions   : List Session
  challenges : List Challenge
  chalCount  : Nat
  lastOpen   : Option Response
  lastDisc   : Option Response
  plcaNode   : BitVec 8
  plcaCount  : BitVec 8
  plcaInForce : BitVec 8
  plcaAt     : Nat
  base       : U32
  size       : U32
  hostPort   : BitVec 8
  bridge     : U32
  topoGen    : U32
  groupLog   : List Bytes
  coolant    : BitVec 8
  wd         : U32
  margin     : U32
  /-- the same as the last tick found them: what frames that begin take (R27) -/
  wdForce     : U32
  marginForce : U32
  /-- power state asked for and waiting for the tick (R27, R361) -/
  statePending : Bool
  hostSes    : List (BitVec 16 × BitVec 8)
  bindings   : List (BitVec 8 × Bytes)
  load       : LoadOp
  /-- packets to the host, oldest first (R349) -/
  toHost     : List ToHost
  /-- host-origin messages that await an answer (R288) -/
  hostOuts   : List HostOut
  /-- flits of a host-origin packet in progress on the host-facing port -/
  hostRx     : List Flit
  /-- bytes of the in-band PDUs in progress, by die and input, and whole ones for Marigold, oldest first (R398) -/
  inPart     : List ((DieIx × Fin 7) × Bytes)
  inPdus     : List InPdu
  /-- segments of an open request or a proof in session 0 (R396) -/
  openSeg    : Bytes
  /-- frames at the 10BASE-T1S port that Marigold has not yet taken, oldest first, and the frames of its last answer (R397) -/
  fieldIn    : List Bytes
  fieldOut   : List Bytes
  deriving DecidableEq, Repr

/-- Security engine (R400 to R424). -/
structure Sec where
  fault   : U64
  /-- its bits set in this cycle (R7) -/
  setNow  : U64
  seed    : Bytes
  idKey   : Bytes
  puffed  : Bool
  /-- the endorsement certificate as the identity-records region gives it; empty where its record counts as absent (R401,
  R402) -/
  cert    : Bytes
  tenants : Vector (Option Bytes) 16
  enrCtr  : Nat
  /-- KMAC256 tags of the tenant slots, of the enrolment counter and of the debug-unlock count in the MRAM (R401) -/
  slotTag : Bytes
  ctrTag  : Bytes
  unlockTag : Bytes
  opKeys  : Vector Bytes 8
  keys    : List JobKey
  nonce   : Bytes
  report  : Bytes
  snap    : Bytes
  readyAt : Option Nat
  mCfg    : Bytes
  unlocks : BitVec 24
  scope   : BitVec 8
  chal    : Bytes
  deriving DecidableEq, Repr

/-- A written record of the recorder or the mirror (R432). -/
structure Record where
  seq    : BitVec 48
  seqB   : BitVec 48
  ev     : Event
  optime : U32
  pwr    : U32
  deriving DecidableEq, Repr

/-- The event recorder and its mirror (R431 to R440). -/
structure Recorder where
  /-- filled slots by slot number, rising: 8,192 slots in RAM, 1,024 in the mirror; a slot not listed is empty -/
  slots   : List (Nat × Record)
  mirror  : List (Nat × Record)
  seq     : BitVec 48
  dropped : U32
  newest  : BitVec 48
  minSev  : BitVec 8
  queue   : List Event
  optime  : U32
  stored  : U32
  optFrac : Nat
  pwr     : U32
  slowSeen : BitVec 8
  /-- hub events already recorded in this frame (R426, R427) -/
  once    : List (BitVec 8 × BitVec 16 × Nat × BitVec 8)
  /-- wall time at which the engine took its last event (R435) -/
  takenAt : Option Nat
  /-- the slot that the engine is writing, in the RAM and in the mirror, with what its last six bytes still hold (R437) -/
  cut     : Option (Nat × BitVec 48)
  cutMirror : Option (Nat × BitVec 48)
  deriving DecidableEq, Repr

/-- TAP controller states of IEEE 1149.1. -/
inductive TapState where
  | reset | idle | selDr | capDr | shDr | ex1Dr | pauDr | ex2Dr | updDr
  | selIr | capIr | shIr | ex1Ir | pauIr | ex2Ir | updIr
  deriving DecidableEq, Repr

/-- The test access port (R475, R476). -/
structure Tap where
  st      : TapState
  ir      : BitVec 8
  irShift : BitVec 8
  idShift : BitVec 32
  byp     : Bool
  bsShift : BitVec 36
  bsOut   : BitVec 36
  tdo     : Bool
  deriving DecidableEq, Repr

/-- The hub die. -/
structure Hub where
  time    : HubTime
  power   : Power
  sens    : Sensors
  board   : Board
  bring   : BringUp
  fw      : Firmware
  dict    : Dict
  sec     : Sec
  rec_    : Recorder
  tap     : Tap
  /-- Marigold's fault word (R375), and its bits set in this cycle (R7) -/
  fault   : U64
  setNow  : U64
  /-- MRAM repair maps of the dies (R248, R356) -/
  repair  : Vector (List (BitVec 32)) 8
  deriving DecidableEq, Repr

def HubTime.init : HubTime where
  tc := 0
  wall := 0
  frac := 0
  rho := 0
  align := 0
  offset := 0
  upstream := 0xFF
  hops := 0xFF
  good := 0
  lastEx := 0
  exNum := 0
  root := false
  period := 8000
  inForce := 8000
  lastTick := 0
  nextTick := 2000000
  lastAt := 0

def Power.init : Power where
  state := 0
  request := 4
  written := 4
  trans := none
  wantOff := false
  rails := .replicate 12 {}
  goal := .hold
  skipRails := []
  railTries := 0
  avs := .replicate 8 []
  cap := 3400
  capForce := 3400
  capDue := none
  powerUw := 0
  duty := 0
  shortRun := 0
  overRun := 0
  calmRun := 0
  prot := false
  protVcore := 0
  raiseAt := .replicate 8 0
  raiseDue := .replicate 8 false
  fast := .replicate 8 0
  protDuty := .replicate 8 0
  hotSince := .replicate 8 none
  dramSince := .replicate 8 none
  hotLogic := 0
  hotDram := 0
  hubHot := false
  maxSince := .replicate 8 none
  quietAt := 0
  quiesceAt := 0

def Sensors.init : Sensors where
  hub := .replicate 2 0
  standby := .replicate 2 0
  inlet := 0
  inletStale := false
  inletAt := 0
  badSeen := []
  thermtripLow := false

def Board.init : Board where
  rstLow := false
  pwrEn := false
  pwrgd := false
  refclk := true
  standby := true

def BringUp.init : BringUp where
  step := 3
  started := 0
  ready := 0
  stepAt := 0
  removal := 0
  gate := 0
  released := false
  offSeen := false
  attested := false
  late8 := false
  romOnly := false
  standbyOnly := false

def Firmware.init : Firmware where
  slotA := []
  slotB := []
  pref := false
  trial := false
  tries := 0
  fallback := false
  floor := 0
  booted := 0xFF
  meas := []
  svn := 0
  upd := .idle
  noteFall := false
  bootTag := Config.bootTag
  floorTag := Config.floorTag
  running := false

def LoadOp.init : LoadOp where
  st := .idle
  owner := 0
  tenant := []
  job := 0
  mask := 0
  standby := false
  reason := 0
  data := []
  size := 0
  plan := none

def Dict.init : Dict where
  sessions := []
  challenges := []
  chalCount := 0
  lastOpen := none
  lastDisc := none
  plcaNode := 0xFF
  plcaCount := 8
  plcaInForce := 0xFF
  plcaAt := 0
  base := 0
  size := 0x00020202
  hostPort := 0xFF
  bridge := 0xFFFFFFFF
  topoGen := 0
  groupLog := []
  coolant := 0
  wd := 1048576
  margin := 1048576
  wdForce := 1048576
  marginForce := 1048576
  statePending := false
  hostSes := []
  bindings := []
  load := .init
  toHost := []
  hostOuts := []
  hostRx := []
  inPart := []
  inPdus := []
  openSeg := []
  fieldIn := []
  fieldOut := []

def Sec.init : Sec where
  fault := 0
  setNow := 0
  seed := []
  idKey := []
  puffed := false
  cert := []
  tenants := .replicate 16 none
  enrCtr := 0
  slotTag := Config.recordTag 0
  ctrTag := Config.recordTag 1
  unlockTag := Config.recordTag 2
  opKeys := .replicate 8 []
  keys := []
  nonce := []
  report := []
  snap := []
  readyAt := none
  mCfg := []
  unlocks := 0
  scope := 0
  chal := []

def Recorder.init : Recorder where
  slots := []
  mirror := []
  seq := 0
  dropped := 0
  newest := 0
  minSev := 2
  queue := []
  optime := 0
  stored := 0
  optFrac := 0
  pwr := 1
  slowSeen := 0
  once := []
  takenAt := none
  cut := none
  cutMirror := none

def Tap.init : Tap where
  st := .reset
  ir := 0x01
  irShift := 0
  idShift := 0
  byp := false
  bsShift := 0
  bsOut := 0
  tdo := false

def Hub.init : Hub where
  time := .init
  power := .init
  sens := .init
  board := .init
  bring := .init
  fw := .init
  dict := .init
  sec := .init
  rec_ := .init
  tap := .init
  fault := 0
  setNow := 0
  repair := .replicate 8 []

end Sys2Proof.Machine
end

