-- ==== Sys2Proof/Machine/State.lean ====
section
/-! DEFINITION. The state of the module as plain data, the reasons a step can stop, and the state after reset. -/

namespace Sys2Proof.Machine

/-- The module: eight compute dies (R11), 24 off-module ports (R14), the hub die, and the commands that wait. -/
structure State where
  dies  : Vector Die 8
  ports : Vector Port 24
  hub   : Hub
  /-- the model's own counter of free values drawn so far (log entry 1) -/
  draws : Nat
  /-- commands waiting, first in, first out -/
  pending : List Instr
  deriving DecidableEq, Repr

/-- Faults of a step. The part has no exception and no trap (R26), so no meaning raises one. -/
inductive Fault where
  /-- Raised by nothing in this model; kept so that the type of step faults is inhabited. Safe. -/
  | none_
  deriving DecidableEq, Repr

/-- Refusals of a step. -/
inductive Refusal where
  /-- A command whose meaning is not modelled, by its mnemonic. Raised by the dispatcher alone. Safe: the step stops. -/
  | notModelled (mnemonic : String)
  /-- A shift of a private JTAG instruction while a debug unlock has opened it: what private instructions do then is
  not given (R418, R475). Raised by JTAG_TCK_EDGE. Safe: the step stops. -/
  | privateJtag
  deriving DecidableEq, Repr

/-- The module right after RST_N is released (R8, R441, R442): every field at the Reset column's value, or at the value
INVENTORY.md names. -/
def State.reset : State where
  dies := Vector.ofFn Die.init
  ports := .replicate 24 .init
  hub := .init
  draws := 0
  pending := []

end Sys2Proof.Machine
end

