-- ==== Sys2Proof/Machine/Flags.lean ====
section
/-! DEFINITION. Fault bits and events: every bit of every fault word (R425 to R429) with its severity, rule and scope,
setting a bit with its record (R426, R433), and the queues of R435. -/

namespace Sys2Proof.Machine

/-- A fault-word bit: unit kind of its record (R432), position, severity (0: not recorded), the rule under which it is
recorded, and whether a plan load clears it (R425). -/
structure FBit where
  kind : BitVec 8
  bit  : Nat
  sev  : Nat
  rule : Nat
  job  : Bool
  deriving DecidableEq, Repr

/-! Control core (R155). -/
def illSlot : FBit := ⟨0x01, 0, 3, 151, true⟩
def hdrChk : FBit := ⟨0x01, 1, 4, 152, true⟩
def ctlPoison : FBit := ⟨0x01, 2, 3, 139, true⟩
def fetchLost : FBit := ⟨0x01, 3, 4, 153, true⟩
def pcRange : FBit := ⟨0x01, 4, 4, 153, true⟩
def imemFlipLate : FBit := ⟨0x01, 5, 3, 149, true⟩
def imemWrAct : FBit := ⟨0x01, 6, 3, 148, false⟩
/-! Core (R428). -/
def ternInv : FBit := ⟨0x02, 0, 2, 41, true⟩
def accSat : FBit := ⟨0x02, 1, 2, 63, true⟩
def mtxPoison : FBit := ⟨0x02, 2, 4, 90, true⟩
/-! Vector engine (R122). -/
def cvtInv : FBit := ⟨0x03, 0, 2, 57, true⟩
def ftBad : FBit := ⟨0x03, 1, 4, 116, true⟩
def ftSwapLate : FBit := ⟨0x03, 2, 3, 117, true⟩
def vsClash : FBit := ⟨0x03, 3, 3, 109, true⟩
def vsPoison : FBit := ⟨0x03, 4, 4, 108, true⟩
/-! Stream unit (R231). -/
def idxBad : FBit := ⟨0x04, 0, 2, 174, true⟩
def setvLost : FBit := ⟨0x04, 1, 3, 223, true⟩
def abortDrop : FBit := ⟨0x04, 2, 0, 233, true⟩
/-! Handle table (R224). -/
def hdlSwapLate : FBit := ⟨0x05, 0, 3, 222, true⟩
def hdlLoadBad : FBit := ⟨0x05, 1, 4, 221, true⟩
def hdlWrAct : FBit := ⟨0x05, 2, 3, 221, false⟩
/-! Sync counters (R273). -/
def scOvf : FBit := ⟨0x06, 0, 4, 258, true⟩
def scUnf : FBit := ⟨0x06, 1, 4, 258, true⟩
def scTop : FBit := ⟨0x06, 2, 4, 258, true⟩
def scUndecl : FBit := ⟨0x06, 3, 3, 263, true⟩
def scForeign : FBit := ⟨0x06, 4, 3, 263, true⟩
def wtTmo : FBit := ⟨0x06, 5, 2, 264, true⟩
/-! Rings (R292). -/
def qFull : FBit := ⟨0x07, 0, 2, 283, true⟩
def qDis : FBit := ⟨0x07, 1, 3, 283, true⟩
def qBig : FBit := ⟨0x07, 2, 4, 283, true⟩
def qHost : FBit := ⟨0x07, 3, 3, 283, true⟩
def qVoid : FBit := ⟨0x07, 4, 4, 285, true⟩
/-! DRAM channel (R253). -/
def ueRead : FBit := ⟨0x08, 0, 4, 239, true⟩
def wbDrop : FBit := ⟨0x08, 1, 3, 242, true⟩
def trefr : FBit := ⟨0x08, 2, 3, 246, true⟩
def refrLate : FBit := ⟨0x08, 3, 3, 246, true⟩
def scrubUe : FBit := ⟨0x08, 4, 4, 247, false⟩
def repFull : FBit := ⟨0x08, 5, 3, 249, false⟩
def dramHot : FBit := ⟨0x08, 6, 4, 244, false⟩
/-! Die schedule (R205). -/
def netColl : FBit := ⟨0x09, 0, 4, 199, true⟩
def netUnsched : FBit := ⟨0x09, 1, 3, 199, true⟩
def bankConf : FBit := ⟨0x09, 2, 2, 202, true⟩
def portBp : FBit := ⟨0x09, 3, 3, 201, true⟩
def wdAbort : FBit := ⟨0x09, 4, 4, 207, true⟩
def holdOver : FBit := ⟨0x09, 5, 3, 206, true⟩
def lenOver : FBit := ⟨0x09, 6, 3, 206, true⟩
def runAbort : FBit := ⟨0x09, 7, 4, 208, true⟩
/-! Die clock and frame (R312). -/
def fbBreach : FBit := ⟨0x0A, 0, 3, 298, true⟩
def frOvr : FBit := ⟨0x0A, 1, 3, 309, true⟩
def frSkip : FBit := ⟨0x0A, 2, 4, 309, true⟩
def thrOver : FBit := ⟨0x0A, 3, 3, 311, true⟩
def vTop : FBit := ⟨0x0A, 4, 4, 299, false⟩
/-! Router (R353). -/
def rtUnreach : FBit := ⟨0x0B, 0, 3, 338, false⟩
def hopLim : FBit := ⟨0x0B, 1, 4, 338, false⟩
def sealFail : FBit := ⟨0x0B, 2, 5, 321, false⟩
def jobMis : FBit := ⟨0x0B, 3, 3, 342, false⟩
def rtSwapLate : FBit := ⟨0x0B, 4, 3, 339, false⟩
def rtLoadBad : FBit := ⟨0x0B, 5, 4, 339, false⟩
/-! Off-module port (R352). -/
def lnkLost : FBit := ⟨0x0C, 0, 4, 343, false⟩
def keyExp : FBit := ⟨0x0C, 1, 3, 329, false⟩
def tamper : FBit := ⟨0x0C, 2, 5, 329, false⟩
def nbMis : FBit := ⟨0x0C, 3, 3, 345, false⟩
def rplLim : FBit := ⟨0x0C, 4, 4, 325, false⟩
def nbLost : FBit := ⟨0x0C, 5, 3, 346, false⟩
/-! Marigold (R375). -/
def railFlt : FBit := ⟨0x0E, 0, 4, 359, false⟩
def capShort : FBit := ⟨0x0E, 1, 3, 366, false⟩
def protThr : FBit := ⟨0x0E, 2, 4, 367, false⟩
def dieFenced : FBit := ⟨0x0E, 3, 5, 368, false⟩
def sensBad : FBit := ⟨0x0E, 4, 3, 362, false⟩
def inletHot : FBit := ⟨0x0E, 5, 3, 363, false⟩
def inletStaleBit : FBit := ⟨0x0E, 6, 3, 363, false⟩
def ttrip : FBit := ⟨0x0E, 7, 6, 364, false⟩
def fwFallback : FBit := ⟨0x0E, 8, 4, 372, false⟩
/-! Security (R423). -/
def pufFail : FBit := ⟨0x0F, 0, 6, 401, false⟩
def enrBad : FBit := ⟨0x0F, 1, 3, 409, false⟩
def planSig : FBit := ⟨0x0F, 2, 4, 413, false⟩
def dbgBad : FBit := ⟨0x0F, 3, 3, 419, false⟩
def dbgUnl : FBit := ⟨0x0F, 4, 5, 420, false⟩
def mramTag : FBit := ⟨0x0F, 5, 5, 401, false⟩

/-- Every bit that a plan load leaves set, by unit kind, as a mask: the device-scope bits of the units of a die. -/
def deviceMask (kind : BitVec 8) : U64 :=
  match kind.toNat with
  | 1 => 0x40 | 5 => 0x4 | 8 => 0x70 | 0x0A => 0x10 | _ => 0

/-! ### Units of a die and their fault words -/

/-- Where a fault word of a compute die stands. -/
inductive DieUnit where
  | ctl (c : CoreIx) | core (c : CoreIx) | vec (c : CoreIx) | stream (c : CoreIx) (u : Fin 6) | hdl (c : CoreIx)
  | sync (c : CoreIx) | rings (c : CoreIx) | chan (c : CoreIx) (j : Fin 16) | sched | clock | router
  deriving DecidableEq, Repr

/-- Update one core of a die. -/
def Die.modCore (d : Die) (c : CoreIx) (f : Core → Core) : Die := { d with cores := vupd d.cores c f }

/-- Update one die. -/
def State.modDie (s : State) (n : DieIx) (f : Die → Die) : State := { s with dies := vupd s.dies n f }

/-- Update one core of the module. -/
def State.modCore (s : State) (a : CoreRef) (f : Core → Core) : State := s.modDie a.die (fun d => d.modCore a.core f)

/-- Update one off-module port. -/
def State.modPort (s : State) (p : PortIx) (f : Port → Port) : State := { s with ports := vupd s.ports p f }

/-- Update the hub die. -/
def State.modHub (s : State) (f : Hub → Hub) : State := { s with hub := f s.hub }

/-- The next free value (log entry 1). -/
def State.draw (s : State) : Nat × State := (s.draws, { s with draws := s.draws + 1 })

/-- The core a reference names. -/
def State.core (s : State) (a : CoreRef) : Core := s.dies[a.die].cores[a.core]

/-- The fault word of a unit. -/
def Die.faultOf (d : Die) : DieUnit → U64
  | .ctl c => d.cores[c].ctl.fault
  | .core c => d.cores[c].fault
  | .vec c => d.cores[c].vec.fault
  | .stream c u => d.cores[c].st[u].fault
  | .hdl c => d.cores[c].hdl.fault
  | .sync c => d.cores[c].sync.fault
  | .rings c => d.cores[c].rings.fault
  | .chan c j => d.cores[c].vault.chans[j].fault
  | .sched => d.hold.fault
  | .clock => d.frm.fault
  | .router => d.router.fault

/-- Apply a function to the fault word of a unit. -/
def Die.modFault (d : Die) (f : U64 → U64) : DieUnit → Die
  | .ctl c => d.modCore c (fun k => { k with ctl := { k.ctl with fault := f k.ctl.fault } })
  | .core c => d.modCore c (fun k => { k with fault := f k.fault })
  | .vec c => d.modCore c (fun k => { k with vec := { k.vec with fault := f k.vec.fault } })
  | .stream c u => d.modCore c (fun k => { k with st := vupd k.st u (fun x => { x with fault := f x.fault }) })
  | .hdl c => d.modCore c (fun k => { k with hdl := { k.hdl with fault := f k.hdl.fault } })
  | .sync c => d.modCore c (fun k => { k with sync := { k.sync with fault := f k.sync.fault } })
  | .rings c => d.modCore c (fun k => { k with rings := { k.rings with fault := f k.rings.fault } })
  | .chan c j => d.modCore c (fun k =>
      { k with vault := { k.vault with chans := vupd k.vault.chans j (fun x => { x with fault := f x.fault }) } })
  | .sched => { d with hold := { d.hold with fault := f d.hold.fault } }
  | .clock => { d with frm := { d.frm with fault := f d.frm.fault } }
  | .router => { d with router := { d.router with fault := f d.router.fault } }

/-- The capture register of R154 as a word. -/
def Capture.word (c : Capture) : U64 :=
  word64 [field 0 16 c.cnt.toNat, field 16 16 c.addr.toNat, field 32 1 (b2n c.bank), field 33 4 c.slot.toNat,
    field 37 4 c.cause.toNat, field 47 1 (b2n c.valid), field 48 16 c.frame.toNat]

/-- The counter capture of R274 as a word. -/
def CtrCapture.word (c : CtrCapture) : U64 :=
  word64 [field 0 6 c.sc.toNat, field 6 2 c.kind.toNat, field 8 1 (b2n c.rem), field 32 23 c.src.toNat,
    field 63 1 (b2n c.valid)]

/-- The wait capture of R269, its two words. -/
def WaitCapture.word0 (c : WaitCapture) : U64 :=
  word64 [field 0 2 c.wk.toNat, field 2 6 c.wsc.toNat, field 8 48 c.wexp.toNat, field 63 1 (b2n c.wv)]

def WaitCapture.word1 (c : WaitCapture) : U64 := word64 [field 0 48 c.ws.toNat, field 48 16 c.frame.toNat]

/-- The capture register a unit has, else zero (R433). -/
def Die.captureOf (d : Die) : DieUnit → U64
  | .ctl c => d.cores[c].ctl.cap.word
  | .sync c => d.cores[c].sync.cap.word
  | .sched => d.hold.capture
  | _ => 0

/-- The unit index of a record (R432): die, core and sub-unit. -/
def unitIx (die core sub : Nat) : BitVec 16 := BitVec.ofNat 16 (die + core * 8 + sub * 256)

/-- Unit index of a unit, with a sub-unit for units that have one per ring. -/
def DieUnit.index (n : DieIx) (sub : Nat) : DieUnit → BitVec 16
  | .ctl c | .core c | .vec c | .hdl c | .sync c => unitIx n.val c.val 0
  | .rings c => unitIx n.val c.val sub
  | .stream c u => unitIx n.val c.val u.val
  | .chan c j => unitIx n.val c.val j.val
  | .sched | .clock | .router => unitIx n.val 0 0

/-- Unit kind of a unit's records (R432). -/
def DieUnit.kind : DieUnit → BitVec 8
  | .ctl _ => 0x01 | .core _ => 0x02 | .vec _ => 0x03 | .stream _ _ => 0x04 | .hdl _ => 0x05 | .sync _ => 0x06
  | .rings _ => 0x07 | .chan _ _ => 0x08 | .sched => 0x09 | .clock => 0x0A | .router => 0x0B

/-- Set a bit of a unit's fault word; a clear in the same cycle will not take it away (R7). -/
def Die.setFault (d : Die) (u : DieUnit) (b : Nat) : Die :=
  Die.modFault { d with setNow := (u.kind, u.index d.ix 0, b) :: d.setNow } (fun w => setBit w b) u

/-- Bits of a unit's fault word set in this cycle. -/
def Die.setThisCycle (d : Die) (u : DieUnit) : U64 :=
  (d.setNow.filter (fun x => x.1 = u.kind && x.2.1 = u.index d.ix 0)).foldl (fun w x => setBit w x.2.2) 0

/-! ### Events -/

/-- Order of the events of one clock cycle (R435): unit kind, then unit, then bit. -/
def Event.before (a b : Event) : Bool :=
  a.unitk.toNat < b.unitk.toNat || (a.unitk = b.unitk && (a.unit.toNat < b.unit.toNat ||
    (a.unit = b.unit && a.bit.toNat < b.bit.toNat)))

/-- Put an event in the queue after every event that comes before it: those of earlier cycles, and those of its own
cycle that do not come after it. -/
def queueEvent (e : Event) : List Event → List Event
  | [] => [e]
  | x :: r => if x.cyc.isSome && x.cyc = e.cyc && e.before x then e :: x :: r else x :: queueEvent e r

/-- Events a die's queue holds (R435). -/
def eventQueueLen : Nat := 32

/-- Put an event into a die's queue: with the queue full, the last of the order is discarded and counted (R435). -/
def Die.enqueue (d : Die) (e : Event) : Die :=
  let q := queueEvent e d.evq
  if q.length ≤ eventQueueLen then { d with evq := q } else { d with evq := q.take eventQueueLen, evLost := d.evLost + 1 }

/-- The clock cycle that an event of a die belongs to; none while its clocks stand still. -/
def Die.evCycle (d : Die) : Option Nat := if d.pow.vcoreOn && !d.clock.gated then some d.clock.clk else none

/-- Frame number a record of a die carries: the number of the frame that runs (`ev_flag` [0] clear between frames). -/
def Die.evFrame (d : Die) : Option (BitVec 48) := if d.frm.frun then some d.frm.fnum else none

/-- Raise an event on a compute die (R432, R434). -/
def Die.event (d : Die) (sev : Nat) (unitk : BitVec 8) (unit : BitVec 16) (rule : Nat) (bit : BitVec 8) (det : Bytes) : Die :=
  d.enqueue { sev := sev, unitk := unitk, unit := unit, rule := rule, bit := bit, frame := d.evFrame, onDie := true,
              time := d.clock.tc, cyc := d.evCycle, det := det }

/-- Raise an event at most once per unit per frame (R426). -/
def Die.eventOnce (d : Die) (sev : Nat) (unitk : BitVec 8) (unit : BitVec 16) (rule : Nat) (bit : BitVec 8) (det : Bytes) : Die :=
  let key := (unitk, unit, rule, bit)
  if d.once.contains key then d
  else Die.event { d with once := key :: d.once } sev unitk unit rule bit det

/-- Detail of a fault bit's record (R433): the fault word after the event and the capture. -/
def faultDet (word cap : U64) : Bytes := leBytes 8 word.toNat ++ leBytes 8 cap.toNat

/-- Record a fault bit of a die's unit as its fault word stands, at most once per unit per frame (R426, R433). -/
def Die.faultRecord (d : Die) (u : DieUnit) (b : FBit) (sub : Nat := 0) : Die :=
  if b.sev = 0 then d
  else d.eventOnce b.sev b.kind (u.index d.ix sub) b.rule (BitVec.ofNat 8 b.bit) (faultDet (d.faultOf u) (d.captureOf u))

/-- Set a fault bit of a die's unit and record it, at most once per unit per frame (R425, R426, R433). -/
def Die.fault (d : Die) (u : DieUnit) (b : FBit) (sub : Nat := 0) : Die := (d.setFault u b.bit).faultRecord u b sub

/-- Set a fault bit of a die's unit and record it every time: the rules of `fr_ovr` and `fr_skip` give each tick its own
record (R309, R426). -/
def Die.faultEach (d : Die) (u : DieUnit) (b : FBit) : Die :=
  let d := d.setFault u b.bit
  d.event b.sev b.kind (u.index d.ix 0) b.rule (BitVec.ofNat 8 b.bit) (faultDet (d.faultOf u) (d.captureOf u))

/-- Clear the job-scope bits of a unit's fault word (R425). -/
def Die.clearJobFaults (d : Die) (kind : BitVec 8) (u : DieUnit) : Die := d.modFault (fun w => w &&& deviceMask kind) u

/-! ### Events of the hub die -/

/-- Raise an event on the hub die. -/
def Hub.event (h : Hub) (sev : Nat) (unitk : BitVec 8) (unit : BitVec 16) (rule : Nat) (bit : BitVec 8) (det : Bytes) : Hub :=
  let e : Event :=
    { sev := sev, unitk := unitk, unit := unit, rule := rule, bit := bit, frame := none, onDie := false,
      time := h.time.tc, cyc := none, det := det }
  { h with rec_ := { h.rec_ with queue := h.rec_.queue ++ [e] } }

/-- Raise a hub event at most once per unit per frame (R426, R427). -/
def Hub.eventOnce (h : Hub) (sev : Nat) (unitk : BitVec 8) (unit : BitVec 16) (rule : Nat) (bit : BitVec 8) (det : Bytes) : Hub :=
  let key := (unitk, unit, rule, bit)
  if h.rec_.once.contains key then h
  else Hub.event { h with rec_ := { h.rec_ with once := key :: h.rec_.once } } sev unitk unit rule bit det

/-- Set a bit of Marigold's fault word; a clear in the same cycle will not take it away (R7). -/
def Hub.setMrg (h : Hub) (b : FBit) : Hub := { h with fault := setBit h.fault b.bit, setNow := setBit h.setNow b.bit }

/-- Set a bit of Marigold's fault word and record it (R375); the unit names a rail, a sensor or a die where it has one. -/
def Hub.mrgFault (h : Hub) (b : FBit) (unit : BitVec 16 := 0) (det : Option Bytes := none) : Hub :=
  let h := h.setMrg b
  h.eventOnce b.sev b.kind unit b.rule (BitVec.ofNat 8 b.bit) (det.getD (faultDet h.fault 0))

/-- Set a bit of the security fault word and record it (R423). -/
def Hub.secFault (h : Hub) (b : FBit) (det : Option Bytes := none) : Hub :=
  let h := { h with sec := { h.sec with fault := setBit h.sec.fault b.bit, setNow := setBit h.sec.setNow b.bit } }
  h.eventOnce b.sev b.kind 0 b.rule (BitVec.ofNat 8 b.bit) (det.getD (faultDet h.sec.fault 0))

/-- The die that a port belongs to (R14). -/
def portDie (p : PortIx) : DieIx := Fin.ofNat 8 (p.val / 3)

/-- Set a bit of a port's fault word and record it: the event goes through the queue of the port's die, once per frame of
that die (R352, R427, R435). -/
def State.portFault (s : State) (p : PortIx) (b : FBit) (det : Option Bytes := none) : State :=
  let s := s.modPort p (fun x => { x with fault := setBit x.fault b.bit, setNow := setBit x.setNow b.bit })
  s.modDie (portDie p) (fun d => d.eventOnce b.sev b.kind (BitVec.ofNat 16 p.val) b.rule (BitVec.ofNat 8 b.bit)
    (det.getD (faultDet s.ports[p].fault 0)))

/-- `ev_det` of a port or neighbour change (R433). -/
def portDet (p : PortIx) (old new cause nb : Nat) : Bytes :=
  [BitVec.ofNat 8 p.val, BitVec.ofNat 8 old, BitVec.ofNat 8 new, BitVec.ofNat 8 cause, BitVec.ofNat 8 nb]

end Sys2Proof.Machine
end

