-- ==== Sys2Proof/Machine/Formats.lean ====
section
/-! DEFINITION. Number formats (chapter 02): exact values, decoding and encoding of the eleven formats and of the block
scales, rounding, conversion, packing, and the FP32 arithmetic of the arrays and the vector engine. -/

namespace Sys2Proof.Machine

/-- The eleven formats of R32. -/
inductive Fmt where
  | fp32 | bf16 | fp16 | e4m3 | e5m2 | e3m2 | e2m3 | e2m1 | int8 | int4 | tern
  deriving DecidableEq, Repr

/-- Format code of R32; codes 0xB to 0xF are reserved (R33). -/
def Fmt.ofCode (c : BitVec 4) : Option Fmt :=
  match c.toNat with
  | 0 => some .fp32 | 1 => some .bf16 | 2 => some .fp16 | 3 => some .e4m3 | 4 => some .e5m2 | 5 => some .e3m2
  | 6 => some .e2m3 | 7 => some .e2m1 | 8 => some .int8 | 9 => some .int4 | 10 => some .tern | _ => none

/-- Element width in bits (R32); a TERN element takes a fifth of a byte and is handled apart. -/
def Fmt.width : Fmt → Nat
  | .fp32 => 32 | .bf16 => 16 | .fp16 => 16 | .e4m3 => 8 | .e5m2 => 8 | .e3m2 => 6 | .e2m3 => 6 | .e2m1 => 4
  | .int8 => 8 | .int4 => 4 | .tern => 2

/-- Exponent bits, mantissa bits, bias of a floating-point format (R32). -/
def Fmt.fp : Fmt → Option (Nat × Nat × Int)
  | .fp32 => some (8, 23, 127) | .bf16 => some (8, 7, 127) | .fp16 => some (5, 10, 15) | .e4m3 => some (4, 3, 7)
  | .e5m2 => some (5, 2, 15) | .e3m2 => some (3, 2, 3) | .e2m3 => some (2, 3, 1) | .e2m1 => some (2, 1, 1)
  | _ => none

def Fmt.isFp (f : Fmt) : Bool := f.fp.isSome

/-- Formats that follow the IEEE pattern of infinities and NaN (chapter 02). -/
def Fmt.ieee : Fmt → Bool
  | .fp32 | .bf16 | .fp16 | .e5m2 => true
  | _ => false

/-- Formats that have a NaN (R36). -/
def Fmt.hasNan (f : Fmt) : Bool := f.ieee || f = .e4m3

/-- Canonical NaN codes of R38; formats without NaN give 0. -/
def Fmt.nanCode : Fmt → Nat
  | .fp32 => 0x7FC00000 | .bf16 => 0x7FC0 | .fp16 => 0x7E00 | .e4m3 => 0x7F | .e5m2 => 0x7E | _ => 0

/-- Code of the largest finite magnitude (R36, R39). -/
def Fmt.maxCode : Fmt → Nat
  | .fp32 => 0x7F7FFFFF | .bf16 => 0x7F7F | .fp16 => 0x7BFF | .e4m3 => 0x7E | .e5m2 => 0x7B
  | .e3m2 => 0x1F | .e2m3 => 0x1F | .e2m1 => 0x7 | .int8 => 0x7F | .int4 => 0x7 | .tern => 2

/-- Least and greatest integer of an integer format or TERN (R39). -/
def Fmt.intRange : Fmt → Int × Int
  | .int8 => (-128, 127) | .int4 => (-8, 7) | _ => (-1, 1)

/-- A signed zero. -/
def Num.zero (neg : Bool) : Num := .fin neg 0 1 0

def Num.ofInt (i : Int) : Num := .fin (decide (i < 0)) i.natAbs 1 0

def Num.isZero : Num → Bool
  | .fin _ n _ _ => n = 0
  | _ => false

def Num.isNan : Num → Bool
  | .nan => true
  | _ => false

def Num.isInf : Num → Bool
  | .inf _ => true
  | _ => false

def Num.negative : Num → Bool
  | .fin s _ _ _ => s
  | .inf s => s
  | .nan => false

def Num.negate : Num → Num
  | .fin s n d e => .fin (!s) n d e
  | .inf s => .inf (!s)
  | .nan => .nan

/-- 2 to an integer power as a pair (numerator factor, denominator factor). -/
def pow2 (e : Int) : Nat × Nat := if 0 ≤ e then (2 ^ e.toNat, 1) else (1, 2 ^ (-e).toNat)

/-- The exact product under IEEE 754 (R62, R89). -/
def Num.mul : Num → Num → Num
  | .nan, _ => .nan
  | _, .nan => .nan
  | .inf s, .inf t => .inf (s != t)
  | .inf s, .fin t n _ _ => if n = 0 then .nan else .inf (s != t)
  | .fin s n _ _, .inf t => if n = 0 then .nan else .inf (s != t)
  | .fin s n d e, .fin t n' d' e' => .fin (s != t) (n * n') (d * d') (e + e')

/-- The exact quotient by a finite non-zero value (R60). -/
def Num.div : Num → Num → Num
  | .nan, _ => .nan
  | _, .nan => .nan
  | .inf s, .fin t _ _ _ => .inf (s != t)
  | .fin s n d e, .fin t n' d' e' => .fin (s != t) (n * d') (d * n') (e - e')
  | _, _ => .nan

/-- Signed numerators of two finite values over one denominator and one exponent. -/
def align (n d : Nat) (e : Int) (n' d' : Nat) (e' : Int) : Nat × Nat × Nat × Int :=
  let m := min e e'
  (n * d' * 2 ^ (e - m).toNat, n' * d * 2 ^ (e' - m).toNat, d * d', m)

/-- The exact sum under IEEE 754: an exact zero is +0 unless both terms are −0 (R37). -/
def Num.add : Num → Num → Num
  | .nan, _ => .nan
  | _, .nan => .nan
  | .inf s, .inf t => if s = t then .inf s else .nan
  | .inf s, _ => .inf s
  | _, .inf t => .inf t
  | .fin s n d e, .fin t n' d' e' =>
    let (a, b, dd, m) := align n d e n' d' e'
    if s = t then .fin s (a + b) dd m
    else if a = b then Num.zero false
    else if b < a then .fin s (a - b) dd m
    else .fin t (b - a) dd m

def Num.sub (x y : Num) : Num := x.add y.negate

/-- Order of two values that are not NaN; −0 and +0 are equal (R102, R139). -/
def Num.lt (x y : Num) : Bool :=
  match x, y with
  | .nan, _ => false
  | _, .nan => false
  | .inf s, .inf t => s && !t
  | .inf s, _ => s
  | _, .inf t => !t
  | .fin s n d e, .fin t n' d' e' =>
    let (a, b, _, _) := align n d e n' d' e'
    let i : Int := if s then -(a : Int) else a
    let j : Int := if t then -(b : Int) else b
    decide (i < j)

/-- Equality of two values that are not NaN; −0 equals +0. -/
def Num.eqv (x y : Num) : Bool := !x.isNan && !y.isNan && !x.lt y && !y.lt x

/-- Order with −0 below +0 (R102, R106). -/
def Num.ltz (x y : Num) : Bool := x.lt y || (x.isZero && y.isZero && x.negative && !y.negative)

/-- ⌊log2⌋ of a positive n/d · 2^e. -/
def ilog2 (n d : Nat) (e : Int) : Int :=
  let k : Int := (Nat.log2 n : Int) - (Nat.log2 d : Int)
  let (u, v) := pow2 k
  (if d * u ≤ n * v then k else k - 1) + e

/-- The integer part q of n/d · 2^e ÷ 2^lsb, with the remainder over its denominator. -/
def quotient (n d : Nat) (e lsb : Int) : Nat × Nat × Nat :=
  let (u, v) := pow2 (e - lsb)
  (n * u / (d * v), n * u % (d * v), d * v)

/-- Round a magnitude n/d · 2^e to a multiple of 2^lsb under `rnd` of R53, with the 16-bit draw of R54. -/
def roundMag (rnd : BitVec 2) (draw : Nat) (n d : Nat) (e lsb : Int) : Nat :=
  let (q, r, den) := quotient n d e lsb
  match rnd.toNat with
  | 1 => q
  | 2 => if draw < r * 65536 / den then q + 1 else q
  | _ => if 2 * r < den then q else if den < 2 * r then q + 1 else if q % 2 = 0 then q else q + 1

/-- Smallest unit exponent of a floating-point format with mb mantissa bits. -/
def unitExp (mb : Nat) (bias : Int) : Int := 1 - bias - (mb : Int)

/-- Encode a magnitude q · 2^lsb that fits the format: the code without its sign. -/
def packMag (mb : Nat) (bias : Int) (q : Nat) (lsb : Int) : Nat :=
  let (q, lsb) := if 2 ^ (mb + 1) ≤ q then (q / 2, lsb + 1) else (q, lsb)
  if q < 2 ^ mb then q else (lsb + (mb : Int) + bias).toNat * 2 ^ mb + (q - 2 ^ mb)

/-- What a code without its sign is worth, as q · 2^lsb. -/
def magOf (mb : Nat) (bias : Int) (c : Nat) : Nat × Int :=
  let e := c / 2 ^ mb
  let m := c % 2 ^ mb
  if e = 0 then (m, unitExp mb bias) else (2 ^ mb + m, (e : Int) - bias - (mb : Int))

/-- Decode a floating-point code (R32, R36). -/
def decodeFp (f : Fmt) (eb mb : Nat) (bias : Int) (code : Nat) : Num :=
  let neg := decide (code / 2 ^ (eb + mb) % 2 = 1)
  let c := code % 2 ^ (eb + mb)
  let e := c / 2 ^ mb
  if f.ieee && e = 2 ^ eb - 1 then (if c % 2 ^ mb = 0 then .inf neg else .nan)
  else if f = .e4m3 && c = 0x7F then .nan
  else let (q, l) := magOf mb bias c; .fin neg q 1 l

/-- Two's complement of w bits. -/
def signed (w code : Nat) : Int := if code < 2 ^ (w - 1) then code else (code : Int) - (2 ^ w : Nat)

/-- Decode one element code; a TERN element is given as its digit (R39, R40). -/
def decode (f : Fmt) (code : Nat) : Num :=
  match f.fp with
  | some (eb, mb, bias) => decodeFp f eb mb bias code
  | none =>
    match f with
    | .int8 => Num.ofInt (signed 8 (code % 256))
    | .int4 => Num.ofInt (signed 4 (code % 16))
    | _ => Num.ofInt ((code % 3 : Nat) - (1 : Int))

/-- A subnormal element: non-zero, smaller than the format's smallest normal (R58). -/
def subnormalCode (f : Fmt) (code : Nat) : Bool :=
  match f.fp with
  | some (eb, mb, _) => let c := code % 2 ^ (eb + mb); decide (0 < c ∧ c < 2 ^ mb)
  | none => false

/-- Decode with the flush of R58. -/
def decodeFtz (ftz : Bool) (f : Fmt) (code : Nat) : Num :=
  if ftz && subnormalCode f code then Num.zero (decode f code).negative else decode f code

/-- Value of an FP32 code. -/
def fp32 (x : U32) : Num := decode .fp32 x.toNat

/-- The result of a conversion: the code, and whether a NaN met a format without NaN (R57). -/
structure Conv where
  code : Nat
  bad  : Bool
  deriving DecidableEq, Repr

/-- Sign bit of a floating-point code. -/
def signBit (f : Fmt) (neg : Bool) : Nat := if neg then 2 ^ (f.width - 1) else 0

/-- A magnitude above the largest finite value, or an infinity (R56). -/
def overflowFp (f : Fmt) (ovf neg : Bool) : Nat :=
  if ovf && f.ieee then signBit f neg + (match f.fp with | some (eb, mb, _) => (2 ^ eb - 1) * 2 ^ mb | none => 0)
  else if ovf && f = .e4m3 then f.nanCode
  else signBit f neg + f.maxCode

/-- Code of an integer in an integer format or TERN after clamping (R56). -/
def intCode (f : Fmt) (i : Int) : Nat :=
  let (lo, hi) := f.intRange
  let c := max lo (min hi i)
  match f with
  | .int8 => (c % 256).toNat
  | .int4 => (c % 16).toNat
  | _ => (c + 1).toNat

/-- Convert an exact value to a format (R52 to R58): one rounding, then overflow and special values. -/
def convert (f : Fmt) (rnd : BitVec 2) (ovf ftz : Bool) (draw : Nat) (x : Num) : Conv :=
  match f.fp with
  | some (_, mb, bias) =>
    match x with
    | .nan => if f.hasNan then ⟨f.nanCode, false⟩ else ⟨0, true⟩
    | .inf s => ⟨overflowFp f ovf s, false⟩
    | .fin s n d e =>
      if n = 0 then ⟨signBit f s, false⟩
      else
        let lsb := max (ilog2 n d e - (mb : Int)) (unitExp mb bias)
        let q := roundMag rnd draw n d e lsb
        let (mq, ml) := magOf mb bias f.maxCode
        let (u, v) := pow2 (lsb - ml)
        if mq * v < q * u then ⟨overflowFp f ovf s, false⟩
        else if ftz && decide (0 < q) && decide (q < 2 ^ mb) then ⟨signBit f s, false⟩
        else ⟨signBit f s + packMag mb bias q lsb, false⟩
  | none =>
    match x with
    | .nan => ⟨intCode f 0, true⟩
    | .inf s => ⟨intCode f (if s then f.intRange.1 else f.intRange.2), false⟩
    | .fin s n d e =>
      let q : Int := roundMag rnd draw n d e 0
      ⟨intCode f (if s then -q else q), false⟩

/-- Round to FP32, nearest even, overflowing to infinity (R62, R102). -/
def roundF (ftz : Bool) (x : Num) : Num := decode .fp32 (convert .fp32 0 true ftz 0 x).code

/-- FP32 code of a value rounded to nearest even. -/
def toF (x : Num) : U32 := BitVec.ofNat 32 (convert .fp32 0 true false 0 x).code

/-! ### Scales -/

/-- E8M0 block scale (R48). -/
def decodeE8M0 (c : BitVec 8) : Num := if c = 0xff then .nan else .fin false 1 1 ((c.toNat : Int) - 127)

/-- UE5M3 block scale (R49). -/
def decodeUE5M3 (c : BitVec 8) : Num :=
  if c = 0xff then .nan else let (q, l) := magOf 3 15 c.toNat; .fin false q 1 l

/-- Block size of a scaling mode (R44); 0 where there are no blocks. -/
def blockSize (scl : BitVec 2) : Nat := match scl.toNat with | 1 => 32 | 2 => 16 | _ => 0

/-- The factor of R48: an MXINT8 code n is worth n × 2^−6. -/
def elemFactor (f : Fmt) (scl : BitVec 2) (x : Num) : Num :=
  if f = .int8 && scl = 1 then x.mul (.fin false 1 1 (-6)) else x

/-- Value of a block-scale byte under a mode. -/
def blockScale (scl : BitVec 2) (c : BitVec 8) : Num :=
  match scl.toNat with | 1 => decodeE8M0 c | 2 => decodeUE5M3 c | _ => Num.ofInt 1

/-- Legal pairs of format and scaling mode (R45). -/
def legalPair (f : Fmt) (scl : BitVec 2) : Bool :=
  match scl.toNat with
  | 1 => match f with | .e4m3 | .e5m2 | .e3m2 | .e2m3 | .e2m1 | .int8 => true | _ => false
  | 2 => match f with | .fp32 | .bf16 | .fp16 => false | _ => true
  | _ => true

/-- `emax` of R60. -/
def emax : Fmt → Int
  | .e4m3 => 8 | .e5m2 => 15 | .e3m2 => 4 | .e2m3 => 2 | .e2m1 => 2 | _ => 0

/-- `maxelem` of R60. -/
def maxElem : Fmt → Num
  | .e4m3 => Num.ofInt 448 | .e5m2 => Num.ofInt 57344 | .e3m2 => Num.ofInt 28 | .e2m3 => .fin false 15 1 (-1)
  | .e2m1 => Num.ofInt 6 | .int8 => Num.ofInt 127 | .int4 => Num.ofInt 7 | _ => Num.ofInt 1

/-- |x|. -/
def Num.abs : Num → Num
  | .fin _ n d e => .fin false n d e
  | .inf _ => .inf false
  | .nan => .nan

/-- The largest magnitude of a block without NaN. -/
def maxAbs (xs : List Num) : Num := xs.foldl (fun a x => if a.lt x.abs then x.abs else a) (Num.zero false)

/-- The code of +0. -/
def zeroCode (f : Fmt) : Nat := intCode f 0 * (if f.isFp then 0 else 1)

/-- A converted block: its scale byte, its codes, and whether `cvt_inv` is set. -/
structure Block where
  scale : BitVec 8
  codes : List Nat
  bad   : Bool
  deriving DecidableEq, Repr

/-- Convert with a draw per element. -/
def convertAll (f : Fmt) (rnd : BitVec 2) (ovf ftz : Bool) : List (Num × Nat) → List Conv
  | [] => []
  | (x, r) :: t => convert f rnd ovf ftz r x :: convertAll f rnd ovf ftz t

/-- MX32 output of one block (R60). -/
def mx32Block (f : Fmt) (rnd : BitVec 2) (ftz : Bool) (xs : List (Num × Nat)) : Block :=
  let vs := xs.map (·.1)
  if vs.any (fun v => v.isNan || v.isInf) then ⟨0xff, vs.map (fun _ => zeroCode f), false⟩
  else
    let e : Int := match maxAbs vs with
      | .fin _ n d e => if n = 0 then -127 else max (-127) (min 127 (ilog2 n d e - emax f))
      | _ => -127
    let k : Int := if f = .int8 then 6 else 0
    let cs := convertAll f rnd false ftz (xs.map (fun (v, r) => (v.mul (.fin false 1 1 (k - e)), r)))
    ⟨BitVec.ofNat 8 (e + 127).toNat, cs.map (·.code), cs.any (·.bad)⟩

/-- The smallest UE5M3 code whose value is at least x, or 0xFE (R60). -/
def ue5m3Up (x : Num) : BitVec 8 :=
  match (List.range 255).find? (fun c => !(decodeUE5M3 (BitVec.ofNat 8 c)).lt x) with
  | some c => BitVec.ofNat 8 c
  | none => 0xFE

/-- A row scale that no output can use: zero, infinite or NaN (R60). -/
def badRowScale (s : Num) : Bool := s.isZero || s.isInf || s.isNan

/-- TS16 output of one block under row scale s (R60). -/
def ts16Block (f : Fmt) (rnd : BitVec 2) (ovf ftz : Bool) (s : Num) (xs : List (Num × Nat)) : Block :=
  if badRowScale s then ⟨0xff, xs.map (fun _ => zeroCode f), true⟩
  else
    let us := xs.map (fun (v, r) => (v.div s, r))
    if us.any (fun u => u.1.isNan) then ⟨0xff, xs.map (fun _ => zeroCode f), false⟩
    else
      let a := maxAbs (us.map (·.1))
      let b := ue5m3Up (a.div (maxElem f))
      if b = 0 then ⟨0, xs.map (fun _ => zeroCode f), false⟩
      else
        let cs := convertAll f rnd ovf ftz (us.map (fun (u, r) => (u.div (decodeUE5M3 b), r)))
        ⟨b, cs.map (·.code), cs.any (·.bad)⟩

/-- Per-row output of one element (R60). -/
def perRow (f : Fmt) (rnd : BitVec 2) (ovf ftz : Bool) (s : Num) (x : Num) (r : Nat) : Conv :=
  if badRowScale s then ⟨zeroCode f, true⟩ else convert f rnd ovf ftz r (x.div s)

/-! ### Packing in memory (R42, R43) -/

/-- Bytes of a row of L elements (R42). -/
def rowBytes (f : Fmt) (l : Nat) : Nat :=
  match f with
  | .fp32 => 4 * l | .bf16 | .fp16 => 2 * l | .e4m3 | .e5m2 | .int8 => l
  | .e3m2 | .e2m3 => 3 * ceilDiv l 4
  | .e2m1 | .int4 => ceilDiv l 2
  | .tern => ceilDiv l 5

/-- Byte offset and length of the group that holds element j of a row, and the bit offset within it. -/
def elemPlace (f : Fmt) (j : Nat) : Nat × Nat × Nat :=
  match f with
  | .fp32 => (4 * j, 4, 0) | .bf16 | .fp16 => (2 * j, 2, 0) | .e4m3 | .e5m2 | .int8 => (j, 1, 0)
  | .e3m2 | .e2m3 => (3 * (j / 4), 3, 6 * (j % 4))
  | .e2m1 | .int4 => (j / 2, 1, 4 * (j % 2))
  | .tern => (j / 5, 1, j % 5)

/-- Read element j of a packed row: its code (for TERN its digit) and whether a TERN byte was invalid (R41). -/
def unpack (f : Fmt) (row : Bytes) (j : Nat) : Nat × Bool :=
  let (o, n, s) := elemPlace f j
  let g := leNat (slice row o n)
  match f with
  | .tern => if 243 ≤ g then (1, true) else (g / 3 ^ s % 3, false)
  | _ => (g / 2 ^ s % 2 ^ f.width, false)

/-- Replace element j within its group of bytes. An invalid TERN byte counts as five zeros (R41). -/
def packInto (f : Fmt) (g : Nat) (s code : Nat) : Nat :=
  match f with
  | .tern => let g := if 243 ≤ g then 121 else g; g - (g / 3 ^ s % 3) * 3 ^ s + (code % 3) * 3 ^ s
  | _ => g - (g / 2 ^ s % 2 ^ f.width) * 2 ^ s + (code % 2 ^ f.width) * 2 ^ s

/-- A TERN row of L elements holds an invalid byte (R41, R43). -/
def ternInvalid (f : Fmt) (row : Bytes) : Bool := f = .tern && row.any (fun b => decide (243 ≤ b.toNat))

/-- Decode a packed row of l elements with the flush of R58. -/
def decodeRow (ftz : Bool) (f : Fmt) (row : Bytes) (l : Nat) : List Num :=
  (List.range l).map (fun j => decodeFtz ftz f (unpack f row j).1)

end Sys2Proof.Machine
end

