-- ==== Sys2Proof/Machine/Ops.lean ====
section
/-! DEFINITION. The named operations over memories, coordinates, time and the hold state that every meaning shares. -/

namespace Sys2Proof.Machine

/-! ### Time -/

/-- Counts of the time counter in a number of microseconds: one count is 4 ns (R301). -/
def usCounts (us : Nat) : Nat := 250 * us
def msCounts (ms : Nat) : Nat := 250000 * ms
def secCounts (sec : Nat) : Nat := 250000000 * sec

/-- Wall time of the model in counts of 4 ns: the hub die's counter without its steps. -/
def State.now (s : State) : Nat := s.hub.time.wall

/-- The first tick value after a time-counter value, with period T in µs (R306). -/
def firstTick (tc period : Nat) : Nat := (tc / (250 * period) + 1) * (250 * period)

/-- The tick value that ends the frame which the tick at t opens: the first multiple of 250·T that is at least
t + 250·T (R308). -/
def tickAfter (t period : Nat) : Nat := ceilDiv (t + 250 * period) (250 * period) * (250 * period)

/-- The period that ticks follow from a tick value on: the one in force where the hub die has met that tick, else the one
written (R308). -/
def State.periodFrom (s : State) (t : Nat) : Nat :=
  if t < s.hub.time.nextTick then s.hub.time.inForce.toNat else s.hub.time.period.toNat

/-! ### Scratchpad (R209, R211) -/

def scratchBytes : Nat := 0x800000

/-- Bank and line of a scratchpad byte (R209). -/
def bankOf (a : Nat) : Nat := a / 64 % 64
def lineOf (a : Nat) : Nat := a / 4096

/-- Granules that n bytes from a touch. -/
def granules (a n : Nat) : List Nat := (List.range (ceilDiv (a % 16 + n) 16)).map (a / 16 + ·)

/-- Granules that n bytes from a cover whole. -/
def wholeGranule (a n g : Nat) : Bool := decide (a ≤ 16 * g ∧ 16 * g + 16 ≤ a + n)

def Core.readScratch (k : Core) (a n : Nat) : Bytes := Cells.getN k.scratch a n

/-- Some granule that n bytes from a touch carries a mark. -/
def Core.poisoned (k : Core) (a n : Nat) : Bool := (granules a n).any k.pz.has

/-- The mark bits after a write of marked or unmarked data (R211). -/
def markWrite (pz : NatSet) (a n : Nat) (mk : Bool) : NatSet :=
  (granules a n).foldl (fun pz g => if mk then pz.add g else if wholeGranule a n g then pz.del g else pz) pz

/-- Write a run of bytes with one mark (R211). -/
def Core.writeScratch (k : Core) (a : Nat) (bs : Bytes) (mk : Bool) : Core :=
  { k with scratch := Cells.setN k.scratch a bs, pz := markWrite k.pz a bs.length mk }

/-- One byte of a write of one cycle: `full` says that the write covers the whole byte. -/
structure ByteWrite where
  a    : Nat
  v    : Byte
  mark : Bool
  full : Bool
  deriving DecidableEq, Repr

/-- The mark of one granule after the byte writes of one unit in one cycle (R211). -/
def granuleMark (ws : List ByteWrite) (pz : NatSet) (g : Nat) : NatSet :=
  let mine := ws.filter (fun w => w.a / 16 == g)
  let mk := mine.any (·.mark)
  let whole := (List.range 16).all (fun i => mine.any (fun w => w.full && w.a == 16 * g + i))
  if mk then pz.add g else if whole then pz.del g else pz

/-- Apply the byte writes of one unit in one cycle. -/
def Core.applyWrites (k : Core) (ws : List ByteWrite) : Core :=
  { k with scratch := ws.foldl (fun m w => Cells.set m w.a w.v) k.scratch,
           pz := (ws.map (fun w => w.a / 16)).eraseDups.foldl (granuleMark ws) k.pz }

/-! ### Own DRAM (R234 to R237) -/

def dramBytes : Nat := 0x80000000

def Vault.readSector (v : Vault) (sector : Nat) : Bytes := Cells.getN v.mem (64 * sector) 64

/-- Write a sector with its tag. -/
def Vault.writeSector (v : Vault) (sector : Nat) (data : Bytes) (pz : Bool) : Vault :=
  { v with mem := Cells.setN v.mem (64 * sector) data, tags := if pz then v.tags.add sector else v.tags.del sector }

/-- Channel of a sector: a[9:6] (R227). -/
def chanOf (sector : Nat) : Fin 16 := Fin.ofNat 16 sector

/-! ### Coordinates (R15, R18, R160, R335) -/

/-- Entry of a map of the active route image: bits [5:0] where bit [7] marks it valid. -/
def mapEntry (image : Bytes) (off axis v : Nat) : Option Nat :=
  let b := (image.getD (off + 64 * axis + v) 0).toNat
  if 128 ≤ b then some (b % 64) else none

def Router.image (r : Router) : Bytes := if r.act then r.image1 else r.image0

/-- Virtual coordinate of a physical one; left physical where the map has no valid entry (R335, R289). -/
def Router.toVirtual (r : Router) (axis p : Nat) : Nat := (mapEntry r.image 864 axis p).getD p

/-- Physical coordinate of a virtual one; none is unreachable (R335). Without any valid entry in the image the
coordinates are physical (log entry 13). -/
def Router.toPhysical (r : Router) (axis v : Nat) : Option Nat :=
  if (List.range 64).any (fun i => (mapEntry r.image 672 axis i).isSome) then mapEntry r.image 672 axis v else some v

/-- A designator from coordinates and a core (R160). -/
def designator (x y z core : Nat) : BitVec 23 :=
  BitVec.ofNat 23 (x % 64 * 131072 + y % 64 * 2048 + z % 64 * 32 + core % 32)

def desX (v : Nat) : Nat := bits v 22 17
def desY (v : Nat) : Nat := bits v 16 11
def desZ (v : Nat) : Nat := bits v 10 5
def desCore (v : Nat) : CoreIx := Fin.ofNat 32 v

/-- The die's coordinate in force (R160). -/
def Die.coord (d : Die) : Nat × Nat × Nat :=
  (d.router.toVirtual 0 d.router.phys.1, d.router.toVirtual 1 d.router.phys.2.1, d.router.toVirtual 2 d.router.phys.2.2)

/-- Designator of a core of a die. -/
def Die.designator (d : Die) (c : CoreIx) : BitVec 23 :=
  Sys2Proof.Machine.designator d.coord.1 d.coord.2.1 d.coord.2.2 c.val

/-- A register value is a designator in range (R160). -/
def desigOk (v : U32) : Bool := decide (v.toNat < 2 ^ 23)

/-- A designator names a core of this die. -/
def Die.isLocal (d : Die) (v : Nat) : Bool := desX v = d.coord.1 && desY v = d.coord.2.1 && desZ v = d.coord.2.2

def rowOf (c : CoreIx) : Nat := c.val / 8
def colOf (c : CoreIx) : Nat := c.val % 8

/-- |a − b|. -/
def absDiff (a b : Nat) : Nat := (a - b) + (b - a)

/-- Mesh hops between two cores (R18, R259). -/
def hops (a b : CoreIx) : Nat := absDiff (rowOf a) (rowOf b) + absDiff (colOf a) (colOf b)

/-- Clock cycle at whose end an increment from a unit of core `a`, leaving in cycle `u`, lands on a counter of core
`b` of the same die (R259). -/
def landCycle (u : Nat) (a b : CoreIx) : Nat := if a = b then u + 2 else u + 6 + 2 * hops a b

/-! ### Holds (R190, R191) -/

/-- A timed hold covers the present clock cycle. -/
def Die.timedHeld (d : Die) : Bool := d.hold.timed.any (fun h => decide (h.first ≤ d.clock.clk ∧ d.clock.clk ≤ h.last))

/-- A predicted request still holds the next plan cycle: it is for this plan cycle or an earlier one and its release is
less than four clock cycles back. -/
def HoldReq.holds (d : Die) (r : HoldReq) : Bool :=
  decide (r.forCyc ≤ d.clock.pcyc) && match r.release with
    | none => true
    | some v => decide (d.clock.clk < v + 4)

def Die.reqHeld (d : Die) : Bool := d.hold.reqs.any (HoldReq.holds d)

/-- Raise a timed cause at the present clock cycle v: it holds cycles v + 4 to v + 3 + dur (R191). -/
def Die.timedHold (d : Die) (cause : HoldCause) (dur : Nat) : Die :=
  { d with hold := { d.hold with timed := d.hold.timed ++ [⟨cause, d.clock.clk + 4, d.clock.clk + 3 + dur⟩] } }

/-- The die's present clock cycle is held (R191, R193); the bank conflict of R202 is owed before it. -/
def Die.heldNow (d : Die) : Bool := d.frm.frun && (d.timedHeld || d.reqHeld || decide (1 < d.hold.conflict))

/-- An item due in run cycle `due` may act now: its cycle is past, or is the present one and is not held. -/
def Die.dueRun (d : Die) (due : Nat) : Bool := decide (due < d.clock.rc) || (decide (due = d.clock.rc) && !d.heldNow)

/-- Run cycle of a plan cycle, seen from the present one. -/
def Die.rcOf (d : Die) (cyc : Int) : Nat := d.clock.rc + (cyc - d.clock.pcyc).toNat

/-- The die's management lane has not failed: Marigold reaches the die (R19, R20). -/
def Die.reached (d : Die) : Bool := !d.pow.noMore

/-! ### Free values (log entry 1) -/

/-- The key of this die's next free value. -/
def Die.drawKey (d : Die) : Nat := 16 * d.draws + d.ix.val

def Die.drew (d : Die) : Die := { d with draws := d.draws + 1 }

/-- The key of the hub's next free value. -/
def State.hubKey (s : State) : Nat := 16 * s.draws + 8

def State.drew (s : State) : State := { s with draws := s.draws + 1 }

/-! ### Outcomes -/

/-- The outcome of a command that completes. -/
abbrev Out := Host.Outcome State Fault Refusal

/-- The outcome of a command: while RST_N is low the hub die and every compute die are held in reset, and nothing happens
(R441, R468). -/
def act (s t : State) : Out := .next (if s.hub.board.rstLow then s else t)

/-- The clocked parts of a die run: it is not held in reset, and its VCORE is on (R441, R449). -/
def State.runs (s : State) (n : DieIx) : Bool := !s.hub.board.rstLow && s.dies[n].pow.vcoreOn

/-- Apply a die's change, as a command's outcome: while VCORE of the die is off, its cores, routers and controllers do not run
(R449). -/
def onDie (s : State) (n : DieIx) (f : Die → Die) : Out := .next (if s.runs n then s.modDie n f else s)

/-- Fold a function over the cores of a die in increasing number. -/
def Die.forCores (d : Die) (f : Die → CoreIx → Die) : Die := (List.finRange 32).foldl f d

end Sys2Proof.Machine
end

