-- ==== Sys2Proof/Machine/Operands.lean ====
section
/-! DEFINITION. Every operand form of the word slots: handles and halves (R215 to R218), register groups (R159),
packed elements in rows (R42, R43, R99) and scale buffers (R47). -/

namespace Sys2Proof.Machine

/-! ### Handles -/

def entryValid (e : HandleEntry) : Bool := bit e 0
def entryPair (e : HandleEntry) : Bool := bit e 1
def entryFmt (e : HandleEntry) : BitVec 4 := e.extractLsb' 2 4
def entryBase (e : HandleEntry) : Nat := 64 * bits e.toNat 24 8
def entrySize (e : HandleEntry) : Nat := 64 * (bits e.toNat 41 25 + 1)

/-- The rule of R216 for a valid entry: it ends inside the scratchpad and its format is not reserved. -/
def entryOk (e : HandleEntry) : Bool :=
  !entryValid e || (decide (entryBase e + (if entryPair e then 2 else 1) * entrySize e ≤ scratchBytes)
    && (Fmt.ofCode (entryFmt e)).isSome)

/-- Active bank of the handle table. -/
def Handles.bank (h : Handles) : Vector HandleEntry 64 := if h.act then h.bank1 else h.bank0

/-- A resolved buffer: first byte, bytes, recorded format, the pairing, and the half taken. -/
structure Buf where
  base : Nat
  size : Nat
  fmt  : BitVec 4
  pair : Bool
  half : Bool
  deriving DecidableEq, Repr

/-- The half of a handle with the fill role or the compute role (R217). -/
def halfOf (r : RunState) (fill : Bool) : Bool := if fill then !r.role else r.role

/-- Valid bit of a half. -/
def halfValid (r : RunState) (half : Bool) : Bool := if half then r.v1 else r.v0

def setHalf (r : RunState) (half v : Bool) : RunState := if half then { r with v1 := v } else { r with v0 := v }

/-- Resolve handle number h (R218): none where it exceeds 63 or is not valid. -/
def Core.buf (k : Core) (h : Nat) (fill : Bool := false) : Option Buf :=
  if hh : h < 64 then
    let e := k.hdl.bank[h]
    if entryValid e then
      let half := halfOf k.hdl.run[h] fill && entryPair e
      some { base := entryBase e + (if half then entrySize e else 0), size := entrySize e, fmt := entryFmt e,
             pair := entryPair e, half := half }
    else none
  else none

/-- The readiness condition on a valid bit: met for an unpaired handle (R217). -/
def Core.bufReady (k : Core) (h : Nat) : Bool :=
  if hh : h < 64 then !entryPair k.hdl.bank[h] || halfValid k.hdl.run[h] k.hdl.run[h].role else true

/-- Register s[(so + i) mod 16] (R159). -/
def regAt (s : Vector U32 16) (so : BitVec 4) (i : Nat) : U32 := s[(so + BitVec.ofNat 4 i).toFin]

/-! ### Packed elements -/

/-- First byte of a row of g elements. -/
def rowStart (f : Fmt) (g e : Nat) : Nat := e / g * rowBytes f g

/-- Bytes that a buffer of n rows of g elements of a format covers from element 0 to element e − 1. -/
def extentBytes (f : Fmt) (g e : Nat) : Nat := e / g * rowBytes f g + rowBytes f (e % g)

/-- Bytes of an element within its group (its first byte and how many). -/
def elemBytes (f : Fmt) (j : Nat) : Nat × Nat :=
  let (o, n, s) := elemPlace f j
  match f with
  | .e3m2 | .e2m3 => (o + s / 8, (s + 5) / 8 - s / 8 + 1)
  | _ => (o, n)

/-- An element as read: its code, its mark, and whether its TERN byte is invalid. -/
structure Elem where
  code : Nat
  pz   : Bool
  bad  : Bool
  deriving DecidableEq, Repr

/-- Read element e of a buffer laid out in rows of g elements (R42, R99, R211). -/
def Core.readElem (k : Core) (base g : Nat) (f : Fmt) (e : Nat) : Elem :=
  let row := base + rowStart f g e
  let (o, n, s) := elemPlace f (e % g)
  let v := leNat (k.readScratch (row + o) n)
  let (po, pn) := elemBytes f (e % g)
  let pz := k.poisoned (row + po) pn
  match f with
  | .tern => if 243 ≤ v then ⟨1, pz, true⟩ else ⟨v / 3 ^ s % 3, pz, false⟩
  | _ => ⟨v / 2 ^ s % 2 ^ f.width, pz, false⟩

/-- FP32 element e of a buffer, with its mark. -/
def Core.readF32 (k : Core) (base e : Nat) : U32 × Bool :=
  (BitVec.ofNat 32 (leNat (k.readScratch (base + 4 * e) 4)), k.poisoned (base + 4 * e) 4)

/-- Elements in a group: those whose codes share bytes. -/
def groupLen : Fmt → Nat
  | .e3m2 | .e2m3 => 4 | .e2m1 | .int4 => 2 | .tern => 5 | _ => 1

/-- The group of an element: its number in the row. -/
def groupOf (f : Fmt) (e g : Nat) : Nat × Nat := (e / g, e % g / groupLen f)

/-- Codes of +0 in the padding positions of a group (R43): positions at or beyond the row's end. -/
def padGroup (f : Fmt) (g gi v : Nat) : Nat :=
  (List.range (groupLen f)).foldl (fun v i =>
    if g ≤ gi * groupLen f + i then packInto f v (if f = .tern then i else f.width * i) (if f = .tern then 1 else 0) else v) v

/-- The byte writes of the elements of one group: old bytes merged with the new codes (R43). The merge of some elements into a
TERN byte that is invalid keeps its other elements as zeros and is no decode that sets `tern_inv` (R41; DESIGN CHOICE, log entry
110). A marked element marks every byte of its group, also those that hold no bit of it (R66; DESIGN CHOICE, log entry 111). -/
def groupWrite (k : Core) (base g : Nat) (f : Fmt) (row gi : Nat) (els : List (Nat × Nat × Bool)) : List ByteWrite :=
  let (o, n, _) := elemPlace f (gi * groupLen f)
  let a := base + row * rowBytes f g + o
  let old := leNat (k.readScratch a n)
  let v := els.foldl (fun v (e, c, _) => packInto f v (elemPlace f (e % g)).2.2 c) old
  let v := padGroup f g gi v
  let full := decide (min (groupLen f) (g - gi * groupLen f) ≤ els.length)
  let mk := els.any (·.2.2)
  (leBytes n v).mapIdx (fun i b => ⟨a + i, b, mk, full⟩)

/-- The byte writes of a run of elements (index, code, mark) of one buffer in one cycle. -/
def elemWrites (k : Core) (base g : Nat) (f : Fmt) (els : List (Nat × Nat × Bool)) : List ByteWrite :=
  let gs := (els.map (fun (e, _, _) => groupOf f e g)).eraseDups
  gs.flatMap (fun (row, gi) => groupWrite k base g f row gi (els.filter (fun (e, _, _) => groupOf f e g == (row, gi))))

/-- Scratchpad lines (bank and line as one number a ÷ 64) that n bytes from a cover. -/
def linesOf (a n : Nat) : List Nat := if n = 0 then [] else (List.range ((a + n - 1) / 64 - a / 64 + 1)).map (a / 64 + ·)

end Sys2Proof.Machine
end

