-- ==== Sys2Proof/Machine/Legal.lean ====
section
/-! DEFINITION. Which word slots are illegal, and under which causes of R154: R86 for MTX, R120 for VEC, R170 to R179
for LD and ST, R180, R181, R284 for NET, R182 to R184, R287 for SYN. Each function lists every condition that fails;
the lowest cause is the one captured. -/

namespace Sys2Proof.Machine

/-- A cause where a condition fails. -/
def failIf (b : Bool) (cause : Nat) : List Nat := if b then [cause] else []

/-- Format codes that are reserved (R33). -/
def fmtReserved (c : BitVec 4) : Bool := (Fmt.ofCode c).isNone

/-- Format and scaling mode form an illegal pair (R45). -/
def pairIllegal (c : BitVec 4) (scl : BitVec 2) : Bool :=
  match Fmt.ofCode c with
  | some f => !legalPair f scl
  | none => false

def scaledBlock (scl : BitVec 2) : Bool := scl = 1 || scl = 2
def scaledRow (scl : BitVec 2) : Bool := scl = 2 || scl = 3

/-- A handle that is not valid or beyond h63: cause 0x3. -/
def badHandle (k : Core) (h : Nat) : List Nat := failIf (k.buf h).isNone 3

/-- A handle's recorded format differs: cause 0x4. -/
def badFmt (k : Core) (h : Nat) (f : BitVec 4) : List Nat :=
  match k.buf h with
  | some b => failIf (b.fmt ≠ f) 4
  | none => []

/-- Bytes [off, off + n) lie outside the buffer or half: cause 0x5. -/
def badExtent (k : Core) (h off n : Nat) (fill : Bool := false) : List Nat :=
  match k.buf h fill with
  | some b => failIf (decide (b.size < off + n)) 5
  | none => []

/-! ### MTX (R68, R71, R82, R86) -/

/-- Columns of a tile of a weight format (R68). -/
def tileCols (f : Fmt) : Nat :=
  match f with
  | .e3m2 | .e2m3 | .e2m1 | .int4 | .tern => 256
  | _ => 128

/-- Block-scale bytes per 128-element row. -/
def scaleBytes (scl : BitVec 2) : Nat := if scl = 1 then 4 else if scl = 2 then 8 else 0

/-- Format, scaling mode and columns of a tile. -/
structure TileKind where
  fmt  : BitVec 4
  scl  : BitVec 2
  cols : Nat
  deriving DecidableEq, Repr

/-- The tile that the shadow holds or is taking in. -/
def Shadow.tileKind : Shadow → Option TileKind
  | .empty => none
  | .filling l _ _ _ => some ⟨l.fmt, l.scl, l.cols⟩
  | .complete t => some ⟨t.fmt, t.scl, t.cols⟩

/-- The tile that will be in front of a pass. -/
def Mtx.frontKind (m : Mtx) (sw : Bool) : Option TileKind :=
  if sw then m.shadow.tileKind else m.front.map (fun t => ⟨t.fmt, t.scl, t.cols⟩)

def intLike (c : BitVec 4) : Bool := match Fmt.ofCode c with | some .int8 | some .int4 | some .tern => true | _ => false

/-- Accumulation kind of a pass (R61). -/
def accKindOf (fmtA : BitVec 4) (sclA : BitVec 2) (t : TileKind) : AccKind :=
  if intLike fmtA && intLike t.fmt && !scaledBlock sclA && !scaledBlock t.scl then .int32 else .fp32

/-- Greatest number of vectors a target takes (R82). -/
def maxVecs (dst : BitVec 2) (cols : Nat) : Nat := (if dst = 2 then 256 else 128) / (cols / 128)

/-- Halves that a `dst` or `half` code names on array a, as indexes 2·a + half. -/
def halvesOf (a : Fin 4) (code : BitVec 2) : List (Fin 8) :=
  let h (i : Nat) : Fin 8 := Fin.ofNat 8 (2 * a.val + i)
  match code.toNat with | 0 => [h 0] | 1 => [h 1] | _ => [h 0, h 1]

/-- Arrays of an `amask`, rising. -/
def arraysOf (m : BitVec 4) : List (Fin 4) := (List.finRange 4).filter (fun a => bit m a.val)

def illegalWload (k : Core) (f : WloadF) : List Nat :=
  failIf (fmtReserved f.fmtW) 1 ++ failIf (pairIllegal f.fmtW f.sclW) 2 ++ badHandle k f.wh.toNat
  ++ badFmt k f.wh.toNat f.fmtW
  ++ (if scaledBlock f.sclW then badHandle k f.wsh.toNat else [])
  ++ match Fmt.ofCode f.fmtW with
    | some w =>
      let rows := f.woff.toNat + tileCols w
      badExtent k f.wh.toNat 0 (rows * rowBytes w 128)
      ++ (if scaledBlock f.sclW then badExtent k f.wsh.toNat 0 (rows * scaleBytes f.sclW) else [])
    | none => []

/-- Causes of an illegal `mpass` (R86). The M limit of R82 binds a pass alone, which needs an array (DESIGN CHOICE, log entry
93). -/
def illegalMpass (k : Core) (f : MpassF) : List Nat :=
  let as := arraysOf f.amask
  let vecs := f.m.toNat + 1
  let kind := k.mtx.frontKind f.sw
  failIf (fmtReserved f.fmtA) 1 ++ failIf (f.dst = 3) 1 ++ failIf (pairIllegal f.fmtA f.sclA) 2
  ++ failIf (f.amask = 0 && !f.sw) 7
  ++ as.flatMap (fun a =>
      badHandle k (f.ah.toNat + a.val) ++ badFmt k (f.ah.toNat + a.val) f.fmtA
      ++ (if scaledBlock f.sclA then badHandle k (f.sah.toNat + a.val)
            ++ badExtent k (f.sah.toNat + a.val) 0 ((f.aoff.toNat + vecs) * scaleBytes f.sclA) else [])
      ++ match Fmt.ofCode f.fmtA with
        | some x => badExtent k (f.ah.toNat + a.val) 0 ((f.aoff.toNat + vecs) * rowBytes x 128)
        | none => [])
  ++ failIf (!f.sw && k.mtx.front.isNone) 7
  ++ (match kind with
      | some t => failIf (!as.isEmpty && decide (maxVecs f.dst t.cols < vecs)) 5
          ++ as.flatMap (fun a => (halvesOf a f.dst).flatMap (fun h =>
              failIf (f.acc && k.mtx.halves[h].kind ≠ accKindOf f.fmtA f.sclA t) 7))
      | none => [])
  ++ as.flatMap (fun a => (halvesOf a f.dst).flatMap (fun h =>
      let st := k.mtx.halves[h].st
      failIf (if f.acc then st ≠ .opened else st = .opened || st = .closing) 7))

/-! ### VEC (R98 to R121) -/

/-- Which operands an element-wise operation uses (R166): d as a source, a, b, and the format of the sources. -/
structure ElemUse where
  dSrc : Bool
  a    : Bool
  b    : Bool
  deriving DecidableEq, Repr

def elemUse : ElemOp → ElemUse
  | .vnop | .vrand => ⟨false, false, false⟩
  | .vfma | .vsel => ⟨true, true, true⟩
  | .vcvt | .vfn => ⟨false, true, false⟩
  | _ => ⟨false, true, true⟩

def narrowFmt (c : BitVec 4) : Bool :=
  match Fmt.ofCode c with | some .e3m2 | some .e2m3 | some .e2m1 | some .int4 | some .tern => true | _ => false

/-- Row length g = 2^sg. -/
def rowLen (sg : BitVec 4) : Nat := 2 ^ sg.toNat

/-- Conditions on one vector operand (R120): handle, scale handles, format, extent, and block alignment. -/
def illegalOperand (k : Core) (h off cnt n g : Nat) (fmt : BitVec 4) (scl : BitVec 2) : List Nat :=
  badHandle k h ++ badFmt k h fmt
  ++ (if scaledBlock scl then badHandle k (h + 16) else [])
  ++ (if scaledRow scl then badHandle k (h + 32) else [])
  ++ (match Fmt.ofCode fmt with
      | some f => badExtent k h 0 (extentBytes f g (off + cnt))
      | none => [])
  ++ (if scaledBlock scl then
        let bs := blockSize scl
        failIf (g % bs ≠ 0 || n % bs ≠ 0 || off % bs ≠ 0) 2
      else [])

def illegalElem (k : Core) (op : ElemOp) (f : ElemF) (r : Vector U32 16) : List Nat :=
  if op = .vnop then
    failIf (f ≠ ⟨0, 0, 0, 0, 0, 0, 0, 0, 0, 0, false, false, false, false, 0⟩) 6
  else
    let u := elemUse op
    let n := f.vl.toNat + 1
    let src := u.a || u.b
    let sgUsed := op = .vrand || f.rnd = 2 || f.sclD ≠ 0 || (src && f.sclS ≠ 0) || narrowFmt f.fmtD || (src && narrowFmt f.fmtS)
    let g := if 12 < f.sg.toNat then 1 else rowLen f.sg
    failIf (fmtReserved f.fmtD) 1 ++ failIf (src && fmtReserved f.fmtS) 1 ++ failIf (f.rnd = 3) 1
    ++ failIf (op = .vrand && f.rnd = 2) 1
    ++ failIf (sgUsed && decide (12 < f.sg.toNat)) 1
    ++ failIf (pairIllegal f.fmtD f.sclD) 2 ++ failIf (src && pairIllegal f.fmtS f.sclS) 2
    ++ illegalOperand k f.dh.toNat (regAt r f.so 0).toNat n n g f.fmtD f.sclD
    ++ (if u.a then illegalOperand k f.ah.toNat (regAt r f.so 1).toNat (if f.za then 1 else n) n g f.fmtS f.sclS else [])
    ++ (if u.b then illegalOperand k f.bh.toNat (regAt r f.so 2).toNat (if f.zb then 1 else n) n g f.fmtS f.sclS else [])
    ++ failIf (!u.a && (f.ah ≠ 0 || f.za || f.fmtS ≠ 0 || f.sclS ≠ 0)) 6
    ++ failIf (!u.b && op ≠ .vfn && f.bh ≠ 0) 6 ++ failIf (!u.b && f.zb) 6
    ++ failIf (op = .vfn && decide (4 ≤ f.bh.toNat)) 6
    ++ failIf (u.dSrc && f.sclD ≠ 0) 7
    ++ (if op = .vfn then
          let t := k.vec.ft[fin4 (f.bh.extractLsb' 0 2)]
          failIf (!(if t.act then t.bank1.valid else t.bank0.valid)) 7
        else [])

def illegalRed (k : Core) (op : RedOp) (f : RedF) (r : Vector U32 16) : List Nat :=
  let n := f.vl.toNat + 1
  let g := if 12 < f.sg.toNat then 1 else rowLen f.sg
  failIf (fmtReserved f.fmtD) 1 ++ failIf (fmtReserved f.fmtS) 1 ++ failIf (f.rnd = 3) 1
  ++ failIf (decide (12 < f.sg.toNat)) 1
  ++ failIf (pairIllegal f.fmtS f.sclS) 2
  ++ illegalOperand k f.dh.toNat (regAt r f.so 0).toNat (n / g) n g f.fmtD 0
  ++ illegalOperand k f.ah.toNat (regAt r f.so 1).toNat n n g f.fmtS f.sclS
  ++ failIf (n % g ≠ 0) 5
  ++ failIf (op = .vargmax && f.fmtD ≠ 0) 7

def illegalVacc (k : Core) (f : VaccF) (r : Vector U32 16) : List Nat :=
  let as := arraysOf f.amask
  let rows := if f.half = 2 then 256 else 128
  let vecs := if f.w256 then rows / 2 else rows
  let cols := if f.w256 then 256 else 128
  failIf (fmtReserved f.fmtD) 1 ++ failIf (f.rnd = 3) 1 ++ failIf (f.half = 3) 1
  ++ failIf (pairIllegal f.fmtD f.sclD) 2
  ++ failIf (f.amask = 0) 7
  ++ as.flatMap (fun a =>
      illegalOperand k (f.dh.toNat + a.val) ((regAt r f.so 0).toNat * 128) (rows * 128) (rows * 128) 128 f.fmtD f.sclD
      ++ (if f.ra then badHandle k (f.rah.toNat + a.val)
            ++ badExtent k (f.rah.toNat + a.val) (4 * (regAt r f.so 1).toNat) (4 * vecs) else [])
      ++ (halvesOf a f.half).flatMap (fun h => failIf (k.mtx.halves[h].st = .free) 7))
  ++ (if f.rw then badHandle k f.rwh.toNat ++ badExtent k f.rwh.toNat (4 * (regAt r f.so 2).toNat) (4 * cols) else [])
  ++ (if f.be then badHandle k f.bh.toNat ++ badExtent k f.bh.toNat (4 * (regAt r f.so 2).toNat) (4 * cols) else [])

/-- Bytes a `vtld` copies (R116). -/
def tableBytes : Nat := 4112

def illegalVtld (k : Core) (f : VtldF) (r : Vector U32 16) : List Nat :=
  badHandle k f.sh.toNat ++ badFmt k f.sh.toNat 0 ++ badExtent k f.sh.toNat (4 * (regAt r f.so 0).toNat) tableBytes

/-! ### LD and ST (R170 to R179) -/

/-- Bytes that rows of rb bytes spaced by a stride cover from their first byte. -/
def rowsExtent (rows rb stride : Nat) : Nat := (rows - 1) * stride + rb

def illegalStream (self : BitVec 23) (k : Core) (op : StreamOp) (f : StreamF) (r : Vector U32 16) : List Nat :=
  let rb := (f.len.toNat + 1) * 64
  let n := f.rows.toNat + 1
  let v (i : Nat) : Nat := (regAt r f.so i).toNat
  let twoD := f.kind = 1
  let ind := f.kind = 2
  let mul64 (x : Nat) : List Nat := failIf (x % 64 ≠ 0) 5
  let idxBuf := f.ih.toNat
  let idxBad : List Nat := badHandle k idxBuf ++ badFmt k idxBuf 0 ++ badExtent k idxBuf (4 * v 3) (4 * n)
  failIf (decide (6 ≤ f.su.toNat)) 5 ++
  match op with
  | .ldd =>
    badHandle k f.sh.toNat ++ failIf (f.kind = 3) 1 ++ failIf (!ind && f.ih ≠ 0) 6
    ++ mul64 (v 0) ++ mul64 (v 1) ++ failIf (decide (dramBytes - 64 < v 0)) 5
    ++ (if twoD || ind then mul64 (v 2) else []) ++ (if twoD then mul64 (v 3) ++ failIf (decide (v 3 < rb)) 5 else [])
    ++ badExtent k f.sh.toNat (v 1) (rowsExtent n rb (if twoD then v 3 else rb)) true
    ++ (if ind then idxBad else failIf (decide (dramBytes < v 0 + rowsExtent n rb (if twoD then v 2 else rb))) 5)
    ++ (match k.buf f.sh.toNat with | some b => failIf (f.setv && !b.pair) 7 | none => [])
  | .sfill =>
    badHandle k f.sh.toNat ++ failIf (f.kind ≠ 0) 1 ++ failIf (f.ih ≠ 0) 6 ++ mul64 (v 0)
    ++ badExtent k f.sh.toNat (v 0) (n * rb) true
    ++ (match k.buf f.sh.toNat with | some b => failIf (f.setv && !b.pair) 7 | none => [])
  | .scopy =>
    badHandle k f.sh.toNat ++ badHandle k idxBuf ++ failIf (f.kind ≠ 0) 1 ++ mul64 (v 0) ++ mul64 (v 1)
    ++ badExtent k f.sh.toNat (v 0) (n * rb) true ++ badExtent k idxBuf (v 1) (n * rb)
    ++ (match k.buf f.sh.toNat with | some b => failIf (f.setv && !b.pair) 7 | none => [])
  | .std => -- R178 exchanges source and destination of R173, the stride case with them: DEDUCED, log entry 34
    badHandle k f.sh.toNat ++ failIf (f.kind = 3) 1 ++ failIf (!ind && f.ih ≠ 0) 6 ++ failIf f.setv 6
    ++ mul64 (v 0) ++ mul64 (v 1) ++ failIf (decide (dramBytes - 64 < v 0)) 5
    ++ (if twoD || ind then mul64 (v 2) else []) ++ (if twoD then mul64 (v 3) ++ failIf (decide (v 3 < rb)) 5 else [])
    ++ badExtent k f.sh.toNat (v 1) (rowsExtent n rb (if twoD then v 3 else rb))
    ++ (if ind then idxBad else failIf (decide (dramBytes < v 0 + rowsExtent n rb (if twoD then v 2 else rb))) 5)
  | .str =>
    badHandle k f.sh.toNat ++ failIf (f.kind = 3 || ind) 1 ++ failIf f.setv 6
    ++ mul64 (v 0) ++ mul64 (v 1) ++ failIf (decide (dramBytes - 64 < v 0)) 5
    ++ (if twoD then mul64 (v 2) ++ mul64 (v 3) ++ failIf (decide (v 2 < rb)) 5 else [])
    ++ badExtent k f.sh.toNat (v 1) (rowsExtent n rb (if twoD then v 3 else rb))
    ++ failIf (decide (dramBytes < v 0 + rowsExtent n rb (if twoD then v 2 else rb))) 5
    ++ failIf (!desigOk (regAt r f.so 4) || decide (v 4 = self.toNat)) 5

def illegalScount (k : Core) (f : ScountF) (r : Vector U32 16) : List Nat :=
  failIf (decide (6 ≤ f.su.toNat)) 5 ++ failIf (f.rel = 3) 1 ++ failIf (fmtReserved f.fmt) 1
  ++ badHandle k f.sh.toNat ++ badFmt k f.sh.toNat f.fmt
  ++ match Fmt.ofCode f.fmt with
    | some x => badExtent k f.sh.toNat 0 (rowBytes x ((regAt r f.so 0).toNat + f.cnt.toNat + 1))
    | none => []

/-! ### NET (R180, R181, R284) -/

/-- Payload granules of a `len` field. -/
def granulesOf (len : BitVec 8) : Nat := if len = 0 then 256 else len.toNat

def declared (k : Core) (sc : BitVec 6) : Bool := k.sync.ctr[fin64 sc].decl

def illegalMsend (k : Core) (f : MsendF) (r : Vector U32 16) : List Nat :=
  let off := (regAt r f.so 0).toNat
  let dst := regAt r f.so 1
  badHandle k f.sh.toNat ++ failIf (off % 16 ≠ 0) 5 ++ badExtent k f.sh.toNat off (16 * granulesOf f.len)
  ++ failIf (if f.hd then decide (2 ^ 16 ≤ dst.toNat) else !desigOk dst) 5
  ++ failIf (f.ack = f.nak) 7 ++ failIf (!declared k f.ack || !declared k f.nak) 7

/-! ### SYN (R182 to R184, R287) -/

def condReserved (c : BitVec 3) : Bool := decide (6 ≤ c.toNat)

def pairBad (k : Core) (h : BitVec 6) : List Nat :=
  match k.buf h.toNat with
  | some b => failIf (!b.pair) 7
  | none => [3]

def illegalSyn (k : Core) (r : Vector U32 16) : SlotOp → List Nat
  | .sig sc so rem _ => if rem then failIf (!desigOk (regAt r so 0)) 5 else failIf (!declared k sc) 7
  | .cons sc _ => failIf (!declared k sc) 7
  | .wait f =>
    failIf (!declared k f.sc) 7 ++ failIf (decide (2 ^ 16 ≤ (regAt r f.so 1).toNat)) 5
  | .pwait f =>
    badHandle k f.h.toNat ++ failIf (condReserved f.cond) 1 ++ failIf ((regAt r f.so 0).toNat % 4 ≠ 0) 5
    ++ badExtent k f.h.toNat (regAt r f.so 0).toNat 4
  | .qsel f =>
    failIf (f.qmask = 0) 7 ++ failIf ((List.finRange 16).any (fun q => bit f.qmask q.val && !k.rings.q[q].en)) 7
  | .qrp q so =>
    let g := k.rings.q[fin16 q]
    let v := regAt r so 0
    failIf (!g.en) 7 ++ failIf (v.toNat % 16 ≠ 0 || decide ((g.wp - g.rp).toNat < (v - g.rp).toNat)) 5
  | .hswap h => pairBad k h
  | .hval h _ _ => pairBad k h
  | _ => []

/-! ### All slots -/

/-- Every cause under which a decoded word slot is illegal on a core with designator `self`. -/
def illegalCauses (self : BitVec 23) (k : Core) (r : Vector U32 16) : SlotOp → List Nat
  | .nop => []
  | .wload f => illegalWload k f
  | .mpass f => illegalMpass k f
  | .elem op f => illegalElem k op f r
  | .red op f => illegalRed k op f r
  | .vacc f => illegalVacc k f r
  | .vtld f => illegalVtld k f r
  | .stream op f => illegalStream self k op f r
  | .scount f => illegalScount k f r
  | .msend f => illegalMsend k f r
  | op => illegalSyn k r op

/-- The lowest cause (R154). -/
def lowestCause (cs : List Nat) : Option Nat := cs.foldl (fun m c => match m with | none => some c | some x => some (min x c)) none

end Sys2Proof.Machine
end

