-- ==== Sys2Proof/Machine/Issue.lean ====
section
/-! DEFINITION. Readiness of a word slot (R86, R121, R161) and what its issue does inside its core: binding of buffers
(R212), tile swaps, half states, ports, places, sends, roles and arms. The lookahead of R87 applies the same issue. -/

namespace Sys2Proof.Machine

/-! ### Matrix arrays -/

/-- Run cycle in which a load whose first beat falls in cycle `start` is complete (R73). -/
def TileLoad.doneAt (l : TileLoad) (start : Nat) : Nat := start + l.beats

/-- The shadow is complete by run cycle t (R87). -/
def Shadow.completeBy (sh : Shadow) (t : Nat) : Bool :=
  match sh with
  | .empty => false
  | .filling l start _ _ => decide (l.doneAt start ≤ t)
  | .complete _ => true

def readyWload (k : Core) (f : WloadF) : Bool :=
  k.bufReady f.wh.toNat && (!scaledBlock f.sclW || k.bufReady f.wsh.toNat) && k.mtx.queue.isNone

def readyMpass (k : Core) (t : Nat) (f : MpassF) : Bool :=
  let as := arraysOf f.amask
  as.all (fun a =>
    (f.acc || (halvesOf a f.dst).all (fun h => k.mtx.halves[h].st = .free))
    && k.bufReady (f.ah.toNat + a.val) && (!scaledBlock f.sclA || k.bufReady (f.sah.toNat + a.val))
    && decide (k.mtx.freeAt[a] ≤ t))
  && (!f.sw || (k.mtx.shadow.completeBy t && k.mtx.freeAt.toList.all (fun x => decide (x ≤ t))))

/-- Cycles a vector occupies its array (R69, R70). -/
def passCyc (fmtA : BitVec 4) (t : TileKind) : Nat :=
  let w (c : BitVec 4) : Nat := match Fmt.ofCode c with | some f => if f = .tern then 2 else f.width | none => 8
  let wide := max (w fmtA) (w t.fmt)
  let ternD := t.fmt = 0xA && (fmtA = 3 || fmtA = 4 || fmtA = 8)
  let base := if ternD then 1 else if wide ≤ 6 then 1 else if wide = 8 then 2 else if wide = 16 then 4 else 32
  if t.cols = 256 then base else if wide ≤ 8 then 1 else if wide = 16 then 2 else 16

/-- The load a `wload` binds (R71, R72). -/
def Core.tileLoad (k : Core) (f : WloadF) : TileLoad :=
  let w := (Fmt.ofCode f.fmtW).getD .fp32
  let n := tileCols w
  let rb := rowBytes w 128
  let sb := scaleBytes f.sclW
  { fmt := f.fmtW, scl := f.sclW, cols := n,
    src := ((k.buf f.wh.toNat).map (·.base)).getD 0 + f.woff.toNat * rb, rowBytes := rb,
    sclSrc := if sb = 0 then 0 else ((k.buf f.wsh.toNat).map (·.base)).getD 0 + f.woff.toNat * sb, sclBytes := sb,
    beats := ceilDiv (n * (rb + sb)) 256 }

/-- Issue of a `wload` in run cycle t (R73). -/
def Core.issueWload (k : Core) (t : Nat) (f : WloadF) : Core :=
  let l := k.tileLoad f
  match k.mtx.shadow with
  | .empty => { k with mtx := { k.mtx with shadow := .filling l t [] false } }
  | _ => { k with mtx := { k.mtx with queue := some l } }

/-- The tile a completed load leaves, from the bytes taken in (R71, R74): weight rows first, then block scales. -/
def TileLoad.tile (l : TileLoad) (raw : Bytes) (pz : Bool) : Tile :=
  let w := raw.take (l.cols * l.rowBytes)
  let s := raw.drop (l.cols * l.rowBytes)
  { fmt := l.fmt, scl := l.scl, cols := l.cols, rows := chunks l.rowBytes l.cols w,
    scales := if l.sclBytes = 0 then [] else chunks l.sclBytes l.cols s, poison := pz }

/-- The tile in the shadow as it becomes the front tile (R75). -/
def Shadow.toTile : Shadow → Option Tile
  | .empty => none
  | .filling l _ raw pz => some (l.tile raw pz)
  | .complete t => some t

/-- The swap of R75 in run cycle t. -/
def Mtx.swap (m : Mtx) (t : Nat) : Mtx :=
  { m with front := m.shadow.toTile,
           shadow := match m.queue with | some l => .filling l t [] false | none => .empty,
           queue := none }

/-- The state a half takes at issue (R83). -/
def Mtx.openHalf (m : Mtx) (f : MpassF) (kind : AccKind) (h : Fin 8) : Mtx :=
  { m with halves := vupd m.halves h (fun x =>
      { x with st := if f.last then .closing else .opened, kind := if f.acc then x.kind else kind }) }

/-- Issue of one array's pass in run cycle t (R77, R78). -/
def Core.issuePass (t : Nat) (f : MpassF) (k : Core) (a : Fin 4) : Core :=
  match k.mtx.front with
  | none => k
  | some tile =>
    let tk : TileKind := ⟨tile.fmt, tile.scl, tile.cols⟩
    let kind := accKindOf f.fmtA f.sclA tk
    let c := passCyc f.fmtA tk
    let vecs := f.m.toNat + 1
    let w := (Fmt.ofCode f.fmtA).getD .fp32
    let rb := rowBytes w 128
    let sb := scaleBytes f.sclA
    let p : Pass :=
      { array := a, start := t, src := ((k.buf (f.ah.toNat + a.val)).map (·.base)).getD 0 + f.aoff.toNat * rb,
        rowBytes := rb,
        sclSrc := if sb = 0 then 0 else ((k.buf (f.sah.toNat + a.val)).map (·.base)).getD 0 + f.aoff.toNat * sb,
        sclBytes := sb, vecs := vecs, cyc := c, fmt := f.fmtA, scl := f.sclA, ftz := f.ftz, dst := f.dst, acc := f.acc,
        last := f.last, kind := kind, tile := tile, sums := [] }
    let m := (halvesOf a f.dst).foldl (fun m h => m.openHalf f kind h) k.mtx
    { k with mtx := { m with passes := m.passes ++ [p], freeAt := m.freeAt.set a.val (t + vecs * c) a.isLt } }

/-- Issue of an `mpass` in run cycle t: the swap first, then a pass on each array of `amask` (R75, R77). -/
def Core.issueMpass (k : Core) (t : Nat) (f : MpassF) : Core :=
  let k := if f.sw then { k with mtx := k.mtx.swap t } else k
  (arraysOf f.amask).foldl (fun k a => k.issuePass t f a) k

/-! ### Vector engine -/

/-- Rate of an operation with all the lanes (R95, R104); 0 for one that uses no lanes. -/
def plain16 (fmt : BitVec 4) (scl : BitVec 2) : Bool := (fmt = 1 || fmt = 2) && scl = 0

def fullRate : SlotOp → Nat
  | .elem .vnop _ => 0
  | .elem .vfn _ => 256
  | .elem .vrand _ => 512
  | .elem op f =>
    let u := elemUse op
    if plain16 f.fmtD f.sclD && (!(u.a || u.b) || plain16 f.fmtS f.sclS) then 1024 else 512
  | .red _ _ => 512
  | .vacc _ => 512
  | _ => 0

/-- Elements of an operation (R168); a `vtld` counts its 17 beats. -/
def elemCount : SlotOp → Nat
  | .elem .vnop _ => 0
  | .elem _ f => f.vl.toNat + 1
  | .red _ f => f.vl.toNat + 1
  | .vacc f => popCount f.amask * (if f.half = 2 then 256 else 128) * 128
  | .vtld _ => 17
  | _ => 0

/-- Progress of a port for the projection of R121: elements left and full rate. -/
structure PortLoad where
  left : Nat
  rate : Nat
  deriving DecidableEq, Repr

def VecRun.load (r : VecRun) : PortLoad := ⟨r.n - r.taken, fullRate r.op⟩

def runLoad : Option VecRun → PortLoad
  | some r => r.load
  | none => ⟨0, 0⟩

/-- Elements a port takes in one cycle, beside another port's load (R95). -/
def portTake (p other : PortLoad) : Nat :=
  if p.rate = 0 then min 1 p.left
  else min p.left (if decide (0 < other.left) && decide (0 < other.rate) then p.rate / 2 else p.rate)

def PortLoad.step (p other : PortLoad) : PortLoad := { p with left := p.left - portTake p other }

/-- Loads of both ports after n cycles, where `start i` gives the operations that issue in the i-th of them. -/
def projectPorts (start : Nat → Option PortLoad × Option PortLoad) : Nat → Nat → PortLoad → PortLoad → PortLoad × PortLoad
  | 0, _, p, q => (p, q)
  | n + 1, i, p, q =>
    let p := (start i).1.getD p
    let q := (start i).2.getD q
    projectPorts start n (i + 1) (p.step q) (q.step p)

/-- Handles whose valid bits a VEC operation's readiness needs (R121): those it reads, with their scale handles. -/
def sourceHandles : SlotOp → List Nat
  | .elem op f =>
    let u := elemUse op
    let scl (h : Nat) : List Nat :=
      (if scaledBlock f.sclS then [h + 16] else []) ++ (if scaledRow f.sclS then [h + 32] else [])
    (if op = .vnop then [] else if scaledRow f.sclD then [f.dh.toNat + 32] else [])
    ++ (if u.a then f.ah.toNat :: scl f.ah.toNat else []) ++ (if u.b then f.bh.toNat :: scl f.bh.toNat else [])
    ++ (if u.dSrc then [f.dh.toNat] else [])
  | .red _ f => f.ah.toNat :: ((if scaledBlock f.sclS then [f.ah.toNat + 16] else [])
      ++ (if scaledRow f.sclS then [f.ah.toNat + 32] else []))
  | .vacc f => (if f.ra then (arraysOf f.amask).map (fun a => f.rah.toNat + a.val) else [])
      ++ (if f.rw then [f.rwh.toNat] else []) ++ (if f.be then [f.bh.toNat] else [])
      ++ (if scaledRow f.sclD then (arraysOf f.amask).map (fun a => f.dh.toNat + a.val + 32) else [])
  | .vtld f => [f.sh.toNat]
  | _ => []

/-- Run cycle of the end of the closing pass of a half: all its passes done (R78, R83). -/
def Mtx.closesAt (m : Mtx) (a : Fin 4) (h : Fin 8) : Nat :=
  (m.passes.filter (fun p => p.array = a && (halvesOf a p.dst).contains h)).foldl
    (fun x p => max x (p.start + p.vecs * p.cyc + 254)) 0

/-- An accumulator half reads as closed in run cycle t (R121). -/
def Mtx.closedBy (m : Mtx) (t : Nat) (a : Fin 4) (h : Fin 8) : Bool :=
  match m.halves[h].st with
  | .closed => true
  | .closing => decide (m.closesAt a h < t)
  | _ => false

/-- A `vfn` in execution that reads a bank of a function table (R117). -/
def readsBank (r : Option VecRun) (t : Fin 4) (bank : Bool) : Bool :=
  match r with
  | some x => match x.op with
    | .elem .vfn f => (fin4 (f.bh.extractLsb' 0 2) = t) && (x.tabBank == bank)
    | _ => false
  | none => false

/-- Conditions of R121 other than those on the ports' progress. -/
def readyVec (k : Core) (t : Nat) (op : SlotOp) : Bool :=
  (sourceHandles op).all k.bufReady
  && match op with
    | .vacc f => (arraysOf f.amask).all (fun a => (halvesOf a f.half).all (k.mtx.closedBy t a))
    | _ => true

/-- A bound buffer at issue (R212). -/
def Core.bound (k : Core) (h : Nat) (off g : Nat) : Bound × Nat :=
  match k.buf h with
  | some b => (⟨b.base, b.fmt, g⟩, off)
  | none => (⟨0, 0, g⟩, off)

def Core.baseOf (k : Core) (h : Nat) : Nat := ((k.buf h).map (·.base)).getD 0

def Core.boundScale (k : Core) (h : Nat) (scl : BitVec 2) : BoundScale :=
  { mode := scl, blk := if scaledBlock scl then k.baseOf (h + 16) else 0, row := if scaledRow scl then k.baseOf (h + 32) else 0 }

/-- Binding of a VEC operation at issue in run cycle t (R94, R212). -/
def Core.bindVec (k : Core) (t frame : Nat) (op : SlotOp) (r : Vector U32 16) : VecRun :=
  let nob : Bound := ⟨0, 0, 1⟩
  let nos : BoundScale := ⟨0, 0, 0⟩
  let z : VecRun :=
    { op := op, regs := r, n := elemCount op, taken := 0, start := t, frame := frame, d := nob, dScl := nos, a := nob,
      aScl := nos, b := nob, bScl := nos, table := {}, tabBank := false, dst4 := [], dst4Blk := [], dst4Row := [],
      rowA4 := [], inVals := [], raw := [], rawPz := [], lastBeat := none }
  match op with
  | .elem o f =>
    let g := if 12 < f.sg.toNat then 1 else rowLen f.sg
    let tab := k.vec.ft[fin4 (f.bh.extractLsb' 0 2)]
    { z with d := ⟨k.baseOf f.dh.toNat, f.fmtD, g⟩, dScl := k.boundScale f.dh.toNat f.sclD,
             a := ⟨k.baseOf f.ah.toNat, f.fmtS, g⟩, aScl := k.boundScale f.ah.toNat f.sclS,
             b := ⟨k.baseOf f.bh.toNat, f.fmtS, g⟩, bScl := k.boundScale f.bh.toNat f.sclS,
             table := if o = .vfn then (if tab.act then tab.bank1 else tab.bank0) else {}, tabBank := tab.act }
  | .red _ f =>
    { z with d := ⟨k.baseOf f.dh.toNat, f.fmtD, rowLen f.sg⟩, a := ⟨k.baseOf f.ah.toNat, f.fmtS, rowLen f.sg⟩,
             aScl := k.boundScale f.ah.toNat f.sclS }
  | .vacc f =>
    let as := arraysOf f.amask
    { z with d := ⟨0, f.fmtD, 128⟩, dScl := ⟨f.sclD, 0, 0⟩, a := ⟨k.baseOf f.rwh.toNat, 0, 1⟩, b := ⟨k.baseOf f.bh.toNat, 0, 1⟩,
             dst4 := as.map (fun a => k.baseOf (f.dh.toNat + a.val)),
             dst4Blk := as.map (fun a => k.baseOf (f.dh.toNat + a.val + 16)),
             dst4Row := as.map (fun a => k.baseOf (f.dh.toNat + a.val + 32)),
             rowA4 := as.map (fun a => k.baseOf (f.rah.toNat + a.val)) }
  | .vtld f => { z with a := ⟨k.baseOf f.sh.toNat + 4 * (regAt r f.so 0).toNat, 0, 1⟩ }
  | _ => z

/-- Issue of a VEC operation on a port; a `vnop` does nothing, and an arming `vtld` arms its table (R116). -/
def Core.issueVec (k : Core) (p : VPort) (t frame : Nat) (op : SlotOp) (r : Vector U32 16) : Core :=
  if elemCount op = 0 then k
  else
    let run := k.bindVec t frame op r
    let v := match p with | .vec0 => { k.vec with run0 := some run } | .vec1 => { k.vec with run1 := some run }
    let v := match op with
      | .vtld f => { v with ft := vupd v.ft (fin4 f.t) (fun x =>
          let b : FtBank := if x.act then { x.bank0 with valid := false } else { x.bank1 with valid := false }
          let x := if x.act then { x with bank0 := b } else { x with bank1 := b }
          if f.arm then { x with arm := true } else x) }
      | _ => v
    { k with vec := v }

/-! ### Stream units -/

/-- The stream unit a field names. -/
def unitOf (su : BitVec 3) : Fin 6 := Fin.ofNat 6 su.toNat

/-- A unit has a free place (R161); one that frees in the present cycle is free from the next (R175). -/
def placeFree (k : Core) (su : BitVec 3) : Bool :=
  decide (k.st[unitOf su].places.length + b2n k.st[unitOf su].ended < 4)

/-- The descriptor of a stream operation, bound at issue in run cycle t (R171 to R179, R212). -/
def Core.descOf (k : Core) (op : StreamOp) (f : StreamF) (r : Vector U32 16) : Desc :=
  let rb := (f.len.toNat + 1) * 64
  let n := f.rows.toNat + 1
  let v (i : Nat) : Nat := (regAt r f.so i).toNat
  let twoD := f.kind = 1
  let ind := f.kind = 2
  let fill := match op with | .ldd | .sfill | .scopy => true | _ => false
  let b := k.buf f.sh.toNat fill
  let base := (b.map (·.base)).getD 0
  let z : Desc :=
    { op := .ldd, kind := f.kind, sp := base + v 1, spStride := if twoD then v 3 else rb, dr := v 0,
      drStride := if twoD || ind then v 2 else rb, rowBytes := rb, rows := n, pattern := 0,
      idxBase := if ind then k.baseOf f.ih.toNat + 4 * v 3 else 0, cntFirst := 0, cntN := 0, cntFmt := 0, cntRel := 0,
      cntVsd := 0, cntAcc := 0, cntPz := false, sig := f.sig, sc := f.sc, setv := f.setv && (b.map (·.pair)).getD false,
      handle := fin64 f.sh, half := (b.map (·.half)).getD false, live := true, dest := 0, rsc := 0, dtag := 0,
      started := none, offerAt := 0, index := [], next := .replicate 16 0, left := n * (rb / 64), done := 0, zeroLeft := 0 }
  match op with
  | .ldd => z
  | .sfill => { z with op := .sfill, sp := base + v 0, pattern := regAt r f.so 1 }
  | .scopy => { z with op := .scopy, sp := base + v 0, dr := k.baseOf f.ih.toNat + v 1 }
  | .std => { z with op := .std, setv := false }
  | .str => { z with op := .str, setv := false, dest := BitVec.ofNat 23 (v 4), rsc := f.ih, dtag := k.dtag }

def Core.scountDesc (k : Core) (f : ScountF) (r : Vector U32 16) : Desc :=
  { op := .scount, kind := 0, sp := k.baseOf f.sh.toNat, spStride := 0, dr := 0, drStride := 0, rowBytes := 0, rows := 0,
    pattern := regAt r f.so 1, idxBase := 0, cntFirst := (regAt r f.so 0).toNat, cntN := f.cnt.toNat + 1, cntFmt := f.fmt,
    cntRel := f.rel, cntVsd := fin8 f.vsd, cntAcc := 0, cntPz := false, sig := f.sig, sc := f.sc, setv := false,
    handle := fin64 f.sh, half := false, live := true, dest := 0, rsc := 0, dtag := 0, started := none, offerAt := 0,
    index := [], next := .replicate 16 0, left := 0, done := 0, zeroLeft := 0 }

/-- Take a place (R225): the descriptor starts at once where the unit is idle. -/
def Core.takePlace (k : Core) (u : Fin 6) (d : Desc) : Core :=
  { k with st := vupd k.st u (fun x => { x with places := x.places ++ [d] }) }

/-- Issue of a stream operation; an `str` also counts the descriptor tag (R322). -/
def Core.issueStream (k : Core) (op : StreamOp) (f : StreamF) (r : Vector U32 16) : Core :=
  let k' := k.takePlace (unitOf f.su) (k.descOf op f r)
  if op = .str then { k' with dtag := k.dtag + 1 } else k'

/-! ### NET -/

/-- Issue of an `msend` (R180, R181, R278). -/
def Core.issueMsend (k : Core) (frame : BitVec 16) (f : MsendF) (r : Vector U32 16) : Core :=
  let g := granulesOf f.len
  let s : Send :=
    { f := f, src := k.baseOf f.sh.toNat + (regAt r f.so 0).toNat, gran := g, dest := regAt r f.so 1, seq := k.rings.seq,
      frm := frame, flits := ceilDiv (16 + 16 * g) 128, sent := 0 }
  { k with rings := { k.rings with sends := k.rings.sends ++ [s], seq := k.rings.seq + 1, nout := k.rings.nout + 1,
                                   outs := k.rings.outs ++ [⟨k.rings.seq, f.q, f.tag, regAt r f.so 1, f.ack, f.nak⟩] } }

/-! ### SYN: roles, arms and read pointers -/

/-- `hswap` (R219). -/
def Core.issueHswap (k : Core) (h : Fin 64) : Core :=
  { k with hdl := { k.hdl with run := vupd k.hdl.run h (fun x => { setHalf x x.role false with role := !x.role }) } }

/-- `hval` (R182): set or clear the valid bit of the half with the fill role (0) or the compute role (1). -/
def Core.issueHval (k : Core) (h : Fin 64) (role v : Bool) : Core :=
  { k with hdl := { k.hdl with run := vupd k.hdl.run h (fun x => setHalf x (if role then x.role else !x.role) v) } }

/-- `qrp` (R287). -/
def Core.issueQrp (k : Core) (q : Fin 16) (v : U32) : Core :=
  { k with rings := { k.rings with q := vupd k.rings.q q (fun x => { x with rp := v }) } }

def Core.issueHarm (k : Core) : Core := { k with hdl := { k.hdl with armP := true } }

/-- A local `sig` or `cons` lands at the end of its issue cycle (R185, R258). -/
def Core.localInc (k : Core) (clk : Nat) (sc : Fin 64) (onC : Bool) (amt : Nat) : Core :=
  let i : Inc := { due := clk, sc := sc, onC := onC, amt := amt, rem := false, src := 0, job := 0, ans := none }
  { k with sync := { k.sync with incs := k.sync.incs ++ [i] } }

/-! ### All slots -/

/-- The mask bit of a VEC port. -/
def portOf (slot : Fin 8) : VPort := if slot = 3 then .vec1 else .vec0

/-- What the issue of a legal, ready word slot does inside its core, in run cycle t and clock cycle clk. A remote `sig`
leaves the core and is no part of it. -/
def Core.issue (k : Core) (t clk frame : Nat) (slot : Fin 8) (op : SlotOp) (r : Vector U32 16) : Core :=
  match op with
  | .wload f => k.issueWload t f
  | .mpass f => k.issueMpass t f
  | .elem _ _ | .red _ _ | .vacc _ | .vtld _ => k.issueVec (portOf slot) t frame op r
  | .stream o f => k.issueStream o f r
  | .scount f => k.takePlace (unitOf f.su) (k.scountDesc f r)
  | .msend f => k.issueMsend (BitVec.ofNat 16 frame) f r
  | .sig sc _ rem n => if rem then k else k.localInc clk (fin64 sc) false (n.toNat + 1)
  | .cons sc n => k.localInc clk (fin64 sc) true (n.toNat + 1)
  | .qrp q so => k.issueQrp (fin16 q) (regAt r so 0)
  | .hswap h => k.issueHswap (fin64 h)
  | .hval h role v => k.issueHval (fin64 h) role v
  | .harm => k.issueHarm
  | .wait _ | .pwait _ | .qsel _ | .nop => k

/-- Operations of SYN that take effect at the end of their issue cycle and not within it: `qrp`, `hswap` and `hval` (R185).
A local `sig` or `cons` lands there of itself. -/
def endsCycle : SlotOp → Bool
  | .qrp _ _ | .hswap _ | .hval _ _ _ => true
  | _ => false

/-- Hold conditions on one state (R86, R121, R161) but for the ports, for run cycle t. -/
def readyOn (k : Core) (t : Nat) : SlotOp → Bool
  | .wload f => readyWload k f
  | .mpass f => readyMpass k t f
  | .elem o f => readyVec k t (.elem o f)
  | .red o f => readyVec k t (.red o f)
  | .vacc f => readyVec k t (.vacc f)
  | .vtld f => readyVec k t (.vtld f)
  | .stream _ f => placeFree k f.su
  | .scount f => placeFree k f.su
  | .msend _ => decide (k.rings.nout < 4)
  | _ => true

/-- Hold cause of a word slot (R161, R192). -/
def causeOf : SlotOp → HoldCause
  | .elem _ _ | .red _ _ | .vacc _ | .vtld _ => 1
  | .stream _ _ | .scount _ => 2
  | .msend _ => 3
  | .wait _ => 4
  | .pwait _ => 5
  | .qsel _ => 6
  | _ => 0

end Sys2Proof.Machine
end

