-- ==== Sys2Proof/Machine/Ctl.lean ====
section
/-! DEFINITION. The control core (chapter 05): its operations, refused word slots and captures, the stop of a core, and
the commands of the CTL word slot. -/

namespace Sys2Proof.Machine

/-! ### Marks of a frame (R270) -/

/-- Mark the outputs of the frame in force invalid, once per frame (R270). -/
def Die.markInvalid (d : Die) : Die :=
  if d.frm.invThis then d
  else { d with frm := { d.frm with invFrame := d.frm.fnum, invAny := true, invCnt := satAdd d.frm.invCnt 1,
                                    invMark := true, invThis := true } }

/-! ### Refused slots and words (R151 to R154) -/

/-- Count a refusal and capture it where the capture is empty (R151, R152, R154). -/
def Ctl.refuse (k : Ctl) (frame : BitVec 16) (slot cause : Nat) (addr : BitVec 16) : Ctl :=
  let cnt := satAdd k.cap.cnt 1
  if k.cap.valid then { k with cap := { k.cap with cnt := cnt } }
  else { k with cap := { cnt := cnt, addr := addr, bank := k.act, slot := BitVec.ofNat 4 slot,
                         cause := BitVec.ofNat 4 cause, valid := true, frame := frame } }

def Die.frame16 (d : Die) : BitVec 16 := d.frm.fnum.extractLsb' 0 16

/-- An illegal word slot is skipped, counted, and captured and recorded where the capture is empty (R151). -/
def Die.refuseSlot (d : Die) (c : CoreIx) (slot cause : Nat) (addr : BitVec 16) : Die :=
  let first := !d.cores[c].ctl.cap.valid
  let d := d.modCore c (fun k => { k with ctl := k.ctl.refuse d.frame16 slot cause addr })
  let d := d.setFault (.ctl c) illSlot.bit
  if first then
    d.event illSlot.sev illSlot.kind (unitIx d.ix.val c.val 0) illSlot.rule (BitVec.ofNat 8 illSlot.bit)
      (faultDet (d.faultOf (.ctl c)) (d.captureOf (.ctl c)))
  else d

/-- A failed word (R152). -/
def Die.refuseWord (d : Die) (c : CoreIx) (cause : Nat) (addr : BitVec 16) : Die :=
  let d := d.modCore c (fun k => { k with ctl := k.ctl.refuse d.frame16 8 cause addr })
  d.fault (.ctl c) hdrChk

/-- A core stops for the rest of its frame, after plan cycle `last` (R153). -/
def Die.stopCore (d : Die) (c : CoreIx) (b : FBit) (last : Int) : Die :=
  let d := d.modCore c (fun k => { k with ctl := { k.ctl with stopped := true, endAt := some last } })
  (d.fault (.ctl c) b).markInvalid

/-! ### Operations (R137 to R140) -/

/-- Conditions of R139 from an order: equal and less. -/
def condHolds (cond : BitVec 3) (eq lt : Bool) : Bool :=
  match cond.toNat with
  | 0 => eq | 1 => !eq | 2 => lt | 3 => !lt | 4 => lt || eq | 5 => !lt && !eq | _ => false

def condInt (cond : BitVec 3) (u : Bool) (a b : U32) : Bool :=
  condHolds cond (a == b) (if u then a.ult b else a.slt b)

/-- Comparison as FP32 values: a NaN makes every condition false except "not equal" (R139). -/
def condF32 (cond : BitVec 3) (a b : U32) : Bool :=
  let x := fp32 a
  let y := fp32 b
  if x.isNan || y.isNan then cond = 1 else condHolds cond (x.eqv y) (x.lt y)

def aluVal (op : AluOp) (a b : U32) : U32 :=
  match op with
  | .add => a + b
  | .sub => a - b
  | .and => a &&& b
  | .or => a ||| b
  | .xor => a ^^^ b
  | .shl => a <<< (b.toNat % 32)
  | .shr => a >>> (b.toNat % 32)
  | .sra => a.sshiftRight (b.toNat % 32)

/-- The 32-bit operand of an immediate form: sign-extended for `addi`, zero-extended else. -/
def immVal (op : AluOp) (imm : BitVec 16) : U32 :=
  match op with
  | .add => imm.signExtend 32
  | _ => imm.zeroExtend 32

/-- Cause under which a CTL slot is illegal (R138, R139, R158). -/
def ctlIllegal : CtlOp → Option Nat
  | .aluImm .shl _ _ imm | .aluImm .shr _ _ imm | .aluImm .sra _ _ imm => if imm.toNat < 32 then none else some 6
  | .cmpr _ cond _ _ _ | .cmpi _ cond _ _ _ | .cmpv _ cond _ _ => if condReserved cond then some 1 else none
  | .jmp tgt | .bc _ tgt | .bnc _ tgt | .bloop _ tgt => if 0xC000 ≤ tgt.toNat then some 5 else none
  | _ => none

/-- What a CTL operation does: the control core after it, the branch target if taken, whether a branch cycle follows,
whether it used a poisoned value, and whether it arms the flip or ends the frame. -/
structure CtlRes where
  ctl    : Ctl
  target : Option (BitVec 16) := none
  branch : Bool := false
  poison : Bool := false
  arm    : Bool := false
  fend   : Bool := false

def Ctl.setS (k : Ctl) (rd : BitVec 4) (v : U32) : Ctl := { k with s := k.s.set rd.toNat v (BitVec.isLt rd) }

def Ctl.setLc (k : Ctl) (lc : BitVec 3) (v : BitVec 24) : Ctl := { k with lc := k.lc.set lc.toNat v (BitVec.isLt lc) }

def Ctl.setCmp (k : Ctl) (c : BitVec 2) (r p : Bool) : Ctl := { k with cmp := k.cmp.set c.toNat ⟨r, p⟩ (BitVec.isLt c) }

/-- A compare of a summary register (R139): FP32, unsigned, or 0 for a register never written. -/
def condVs (cond : BitVec 3) (v : Summary) (b : U32) : Bool :=
  match v.ty.toNat with
  | 1 => condF32 cond v.val b
  | 2 => condInt cond true v.val b
  | _ => false

/-- The CTL operations of R137 on a legal slot, with the summary registers and the frame number as inputs. -/
def Ctl.run (k : Ctl) (vs : Vector Summary 8) (fnum : BitVec 48) : CtlOp → CtlRes
  | .cnop => { ctl := k }
  | .alu op rd ra rb => { ctl := k.setS rd (aluVal op k.s[ra.toFin] k.s[rb.toFin]) }
  | .mov rd ra => { ctl := k.setS rd k.s[ra.toFin] }
  | .aluImm op rd ra imm => { ctl := k.setS rd (aluVal op k.s[ra.toFin] (immVal op imm)) }
  | .movi rd imm => { ctl := k.setS rd (imm.zeroExtend 32) }
  | .movhi rd imm => { ctl := k.setS rd (imm ++ k.s[rd.toFin].extractLsb' 0 16) }
  | .lset lc ra => { ctl := k.setLc lc (k.s[ra.toFin].extractLsb' 0 24) }
  | .lseti lc imm => { ctl := k.setLc lc (imm.zeroExtend 24) }
  | .lget rd lc => { ctl := k.setS rd (k.lc[lc.toFin].zeroExtend 32) }
  | .cmpr cmp cond u ra rb => { ctl := k.setCmp cmp (condInt cond u k.s[ra.toFin] k.s[rb.toFin]) false }
  | .cmpi cmp cond u ra imm =>
    { ctl := k.setCmp cmp (condInt cond u k.s[ra.toFin] (if u then imm.zeroExtend 32 else imm.signExtend 32)) false }
  | .cmpv cmp cond v rb => { ctl := k.setCmp cmp (condVs cond vs[v.toFin] k.s[rb.toFin]) vs[v.toFin].poison }
  | .rdvs rd v => { ctl := k.setS rd vs[v.toFin].val, poison := vs[v.toFin].poison }
  | .rdfn rd => { ctl := k.setS rd (fnum.extractLsb' 0 32) }
  | .jmp tgt => { ctl := k, target := some tgt, branch := true }
  | .bc c tgt =>
    { ctl := k, target := if k.cmp[c.toFin].result then some tgt else none, branch := true, poison := k.cmp[c.toFin].poison }
  | .bnc c tgt =>
    { ctl := k, target := if k.cmp[c.toFin].result then none else some tgt, branch := true, poison := k.cmp[c.toFin].poison }
  | .bloop lc tgt =>
    let v := k.lc[lc.toFin]
    if v = 0 then { ctl := k, branch := true }
    else { ctl := k.setLc lc (v - 1), target := if v = 1 then none else some tgt, branch := true }
  | .iarm => { ctl := k, arm := true }
  | .fend => { ctl := k, fend := true }

/-- Run a legal CTL slot on a core of a die whose word's last plan cycle is `last`: everything but the word address. -/
def Die.runCtl (d : Die) (c : CoreIx) (op : CtlOp) (last : Int) : Die × CtlRes :=
  let k := d.cores[c]
  let r := k.ctl.run k.vec.vs d.frm.fnum op
  let d := d.modCore c (fun k => { k with ctl := if r.fend then { r.ctl with endAt := some last } else r.ctl })
  let d := if r.poison then d.fault (.ctl c) ctlPoison else d
  (if r.arm then { d with flipArm := true } else d, r)

/-- A CTL operation as a command: the check stage of its slot (R130, R137). An illegal one is refused (R151); a taken
branch moves the word address, and every legal branch adds its branch cycle (R141). -/
def Die.ctlOp (c : CoreIx) (op : CtlOp) (d : Die) : Die :=
  match ctlIllegal op with
  | some cause => d.refuseSlot c 0 cause d.cores[c].ctl.pc
  | none =>
    let (d, r) := d.runCtl c op d.clock.pcyc
    d.modCore c (fun k => { k with ctl := { k.ctl with
      pc := r.target.getD k.ctl.pc, nextChk := if r.branch then k.ctl.nextChk + 1 else k.ctl.nextChk } })

/-- The outcome of a CTL operation on a core. -/
def ctl (s : State) (a : CoreRef) (op : CtlOp) : Out := onDie s a.die (Die.ctlOp a.core op)

/-! ### Commands -/

def execCnop (a : CoreRef) (s : State) : Out := ctl s a .cnop
def execAdd (a : CoreRef) (rd ra rb : BitVec 4) (s : State) : Out := ctl s a (.alu .add rd ra rb)
def execSub (a : CoreRef) (rd ra rb : BitVec 4) (s : State) : Out := ctl s a (.alu .sub rd ra rb)
def execAnd (a : CoreRef) (rd ra rb : BitVec 4) (s : State) : Out := ctl s a (.alu .and rd ra rb)
def execOr (a : CoreRef) (rd ra rb : BitVec 4) (s : State) : Out := ctl s a (.alu .or rd ra rb)
def execXor (a : CoreRef) (rd ra rb : BitVec 4) (s : State) : Out := ctl s a (.alu .xor rd ra rb)
def execShl (a : CoreRef) (rd ra rb : BitVec 4) (s : State) : Out := ctl s a (.alu .shl rd ra rb)
def execShr (a : CoreRef) (rd ra rb : BitVec 4) (s : State) : Out := ctl s a (.alu .shr rd ra rb)
def execSra (a : CoreRef) (rd ra rb : BitVec 4) (s : State) : Out := ctl s a (.alu .sra rd ra rb)
def execMov (a : CoreRef) (rd ra : BitVec 4) (s : State) : Out := ctl s a (.mov rd ra)
def execAddi (a : CoreRef) (rd ra : BitVec 4) (imm : BitVec 16) (s : State) : Out := ctl s a (.aluImm .add rd ra imm)
def execMovi (a : CoreRef) (rd : BitVec 4) (imm : BitVec 16) (s : State) : Out := ctl s a (.movi rd imm)
def execMovhi (a : CoreRef) (rd : BitVec 4) (imm : BitVec 16) (s : State) : Out := ctl s a (.movhi rd imm)
def execAndi (a : CoreRef) (rd ra : BitVec 4) (imm : BitVec 16) (s : State) : Out := ctl s a (.aluImm .and rd ra imm)
def execOri (a : CoreRef) (rd ra : BitVec 4) (imm : BitVec 16) (s : State) : Out := ctl s a (.aluImm .or rd ra imm)
def execXori (a : CoreRef) (rd ra : BitVec 4) (imm : BitVec 16) (s : State) : Out := ctl s a (.aluImm .xor rd ra imm)
def execShli (a : CoreRef) (rd ra : BitVec 4) (imm : BitVec 16) (s : State) : Out := ctl s a (.aluImm .shl rd ra imm)
def execShri (a : CoreRef) (rd ra : BitVec 4) (imm : BitVec 16) (s : State) : Out := ctl s a (.aluImm .shr rd ra imm)
def execSrai (a : CoreRef) (rd ra : BitVec 4) (imm : BitVec 16) (s : State) : Out := ctl s a (.aluImm .sra rd ra imm)
def execLset (a : CoreRef) (lc : BitVec 3) (ra : BitVec 4) (s : State) : Out := ctl s a (.lset lc ra)
def execLseti (a : CoreRef) (lc : BitVec 3) (imm : BitVec 23) (s : State) : Out := ctl s a (.lseti lc imm)
def execLget (a : CoreRef) (rd : BitVec 4) (lc : BitVec 3) (s : State) : Out := ctl s a (.lget rd lc)
def execCmpr (a : CoreRef) (cmp : BitVec 2) (cond : BitVec 3) (u : Bool) (ra rb : BitVec 4) (s : State) : Out :=
  ctl s a (.cmpr cmp cond u ra rb)
def execCmpi (a : CoreRef) (cmp : BitVec 2) (cond : BitVec 3) (u : Bool) (ra : BitVec 4) (imm : BitVec 16) (s : State) : Out :=
  ctl s a (.cmpi cmp cond u ra imm)
def execCmpv (a : CoreRef) (cmp : BitVec 2) (cond vs : BitVec 3) (rb : BitVec 4) (s : State) : Out :=
  ctl s a (.cmpv cmp cond vs rb)
def execRdvs (a : CoreRef) (rd : BitVec 4) (vs : BitVec 3) (s : State) : Out := ctl s a (.rdvs rd vs)
def execRdfn (a : CoreRef) (rd : BitVec 4) (s : State) : Out := ctl s a (.rdfn rd)
def execJmp (a : CoreRef) (tgt : BitVec 16) (s : State) : Out := ctl s a (.jmp tgt)
def execBc (a : CoreRef) (cmp : BitVec 2) (tgt : BitVec 16) (s : State) : Out := ctl s a (.bc cmp tgt)
def execBnc (a : CoreRef) (cmp : BitVec 2) (tgt : BitVec 16) (s : State) : Out := ctl s a (.bnc cmp tgt)
def execBloop (a : CoreRef) (lc : BitVec 3) (tgt : BitVec 16) (s : State) : Out := ctl s a (.bloop lc tgt)
def execIarm (a : CoreRef) (s : State) : Out := ctl s a .iarm
def execFend (a : CoreRef) (s : State) : Out := ctl s a .fend

end Sys2Proof.Machine
end

