-- ==== Sys2Proof/Machine/Words.lean ====
section
/-! DEFINITION. The long instruction word (chapter 05, 06): header, header check, extent, and the decoding of the eight
word slots. -/

namespace Sys2Proof.Machine

/-- A decoded slot: its operation and the causes its encoding alone gives (0x0 reserved opcode, 0x6 reserved field). -/
structure SlotDec where
  op     : SlotOp
  causes : List Nat
  deriving DecidableEq, Repr

/-- Bits [lo + n − 1 : lo] of a slot. -/
abbrev fld (w : BitVec 64) (lo n : Nat) : BitVec n := w.extractLsb' lo n

/-- A slot whose bits outside `used` must be zero (R158). -/
def slot (w used : BitVec 64) (op : SlotOp) : SlotDec := ⟨op, failIf (w &&& ~~~used ≠ 0) 6⟩

def badOpcode : SlotDec := ⟨.nop, [0]⟩

/-- MTX (R163). -/
def decodeMtx (w : BitVec 64) : SlotDec :=
  match (fld w 60 4).toNat with
  | 0 => slot w 0xF000000000000000 .nop
  | 1 => slot w 0xFFFFFFFFFC000000
      (.wload { wh := fld w 54 6, wsh := fld w 48 6, woff := fld w 32 16, fmtW := fld w 28 4, sclW := fld w 26 2 })
  | 2 => slot w 0xFFFFFFFFFFFFFF00
      (.mpass { amask := fld w 56 4, ah := fld w 50 6, sah := fld w 44 6, aoff := fld w 28 16, m := fld w 20 8,
                dst := fld w 18 2, acc := bit w 17, last := bit w 16, sw := bit w 15, fmtA := fld w 11 4,
                sclA := fld w 9 2, ftz := bit w 8 })
  | _ => badOpcode

def elemOpOf : Nat → Option ElemOp
  | 0 => some .vnop | 1 => some .vadd | 2 => some .vsub | 3 => some .vmul | 4 => some .vfma | 5 => some .vmin
  | 6 => some .vmax | 7 => some .vclt | 8 => some .vcle | 9 => some .vceq | 10 => some .vsel | 11 => some .vcvt
  | 12 => some .vfn | 13 => some .vrand | _ => none

def redOpOf : Nat → Option RedOp
  | 16 => some .vsum | 17 => some .vmaxr | 18 => some .vargmax | 19 => some .vsumsq | _ => none

def elemFields (w : BitVec 64) : ElemF :=
  { vl := fld w 46 12, dh := fld w 40 6, ah := fld w 34 6, bh := fld w 28 6, so := fld w 24 4, fmtD := fld w 20 4,
    fmtS := fld w 16 4, sclD := fld w 14 2, sclS := fld w 12 2, rnd := fld w 10 2, ovf := bit w 9, ftz := bit w 8,
    za := bit w 7, zb := bit w 6, sg := fld w 2 4 }

def redFields (w : BitVec 64) : RedF :=
  { vl := fld w 46 12, dh := fld w 40 6, ah := fld w 34 6, vsd := fld w 31 3, vsw := bit w 30, so := fld w 24 4,
    fmtD := fld w 20 4, fmtS := fld w 16 4, sclS := fld w 12 2, rnd := fld w 10 2, ovf := bit w 9, ftz := bit w 8,
    sg := fld w 2 4 }

def vaccFields (w : BitVec 64) : VaccF :=
  { amask := fld w 54 4, half := fld w 52 2, rel := bit w 51, w256 := bit w 50, ra := bit w 49, rah := fld w 43 6,
    rw := bit w 42, rwh := fld w 36 6, be := bit w 35, bh := fld w 29 6, dh := fld w 23 6, so := fld w 19 4,
    fmtD := fld w 15 4, sclD := fld w 13 2, rnd := fld w 11 2, ovf := bit w 10, ftz := bit w 9 }

/-- VEC0 and VEC1 (R165, R167). -/
def decodeVec (w : BitVec 64) : SlotDec :=
  let op := (fld w 58 6).toNat
  match elemOpOf op with
  | some e => slot w 0xFFFFFFFFFFFFFFFC (.elem e (elemFields w))
  | none =>
    match redOpOf op with
    | some r => slot w 0xFFFFFFFFCFFF3F3C (.red r (redFields w))
    | none =>
      match op with
      | 24 => slot w 0xFFFFFFFFFFFFFE00 (.vacc (vaccFields w))
      | 28 => slot w 0xFC0000FC0FE00000
          (.vtld { sh := fld w 34 6, so := fld w 24 4, t := fld w 22 2, arm := bit w 21 })
      | _ => badOpcode

def streamFields (w : BitVec 64) : StreamF :=
  { su := fld w 57 3, sh := fld w 51 6, ih := fld w 45 6, so := fld w 41 4, sc := fld w 35 6, len := fld w 23 12,
    rows := fld w 11 12, kind := fld w 9 2, sig := bit w 8, setv := bit w 7 }

/-- LD (R170, R171, R176). -/
def decodeLd (w : BitVec 64) : SlotDec :=
  match (fld w 60 4).toNat with
  | 0 => slot w 0xF000000000000000 .nop
  | 1 => slot w 0xFFFFFFFFFFFFFF80 (.stream .ldd (streamFields w))
  | 2 => slot w 0xFFFFFFFFFFFFFF80 (.stream .sfill (streamFields w))
  | 3 => slot w 0xFFFFFFFFFFFFFF80 (.stream .scopy (streamFields w))
  | 4 => slot w 0xFFF81FFFFFFFFFFE
      (.scount { su := fld w 57 3, sh := fld w 51 6, so := fld w 41 4, sc := fld w 35 6, cnt := fld w 11 24,
                 rel := fld w 9 2, sig := bit w 8, vsd := fld w 5 3, fmt := fld w 1 4 })
  | _ => badOpcode

/-- ST (R177). -/
def decodeSt (w : BitVec 64) : SlotDec :=
  match (fld w 60 4).toNat with
  | 0 => slot w 0xF000000000000000 .nop
  | 1 => slot w 0xFFFFFFFFFFFFFF80 (.stream .std (streamFields w))
  | 2 => slot w 0xFFFFFFFFFFFFFF80 (.stream .str (streamFields w))
  | _ => badOpcode

/-- NET (R180). -/
def decodeNet (w : BitVec 64) : SlotDec :=
  match (fld w 60 4).toNat with
  | 0 => slot w 0xF000000000000000 .nop
  | 1 => slot w 0xFFFFFFFFFFFFFE00
      (.msend { sh := fld w 54 6, so := fld w 50 4, q := fld w 46 4, len := fld w 38 8, ack := fld w 32 6,
                nak := fld w 26 6, tag := fld w 10 16, hd := bit w 9 })
  | _ => badOpcode

/-- SYN (R182). -/
def decodeSyn (w : BitVec 64) : SlotDec :=
  match (fld w 60 4).toNat with
  | 0 => slot w 0xF000000000000000 .nop
  | 1 => slot w 0xFFFFFE0000000000 (.sig (fld w 54 6) (fld w 50 4) (bit w 49) (fld w 41 8))
  | 2 => slot w 0xFFC1FE0000000000 (.cons (fld w 54 6) (fld w 41 8))
  | 3 => slot w 0xFFFFFFFFFC000000
      (.wait { sc := fld w 54 6, so := fld w 50 4, tmo := fld w 30 20, vsd := fld w 27 3, vsw := bit w 26 })
  | 4 => slot w 0xFFFFFFFFFF800000
      (.pwait { h := fld w 54 6, so := fld w 50 4, tmo := fld w 30 20, vsd := fld w 27 3, vsw := bit w 26,
                cond := fld w 23 3 })
  | 5 => slot w 0xFFFFFFFFFFF00000
      (.qsel { qmask := fld w 44 16, rot := bit w 43, tmo := fld w 23 20, vsd := fld w 20 3 })
  | 6 => slot w 0xFF3C000000000000 (.qrp (fld w 56 4) (fld w 50 4))
  | 7 => slot w 0xFFC0000000000000 (.hswap (fld w 54 6))
  | 8 => slot w 0xFFF0000000000000 (.hval (fld w 54 6) (bit w 53) (bit w 52))
  | 9 => slot w 0xF000000000000000 .harm
  | _ => badOpcode

/-- The word slot of a mask bit 1 to 7 (R124). -/
def decodeSlot (b : Fin 8) (w : BitVec 64) : SlotDec :=
  match b.val with
  | 1 => decodeMtx w | 2 | 3 => decodeVec w | 4 => decodeLd w | 5 => decodeSt w | 6 => decodeNet w | _ => decodeSyn w

/-! ### CTL (R136, R137) -/

/-- A decoded CTL slot and whether a reserved field is not zero; none for a reserved opcode. -/
structure CtlDec where
  op  : CtlOp
  bad : Bool
  deriving DecidableEq, Repr

abbrev cfld (w : BitVec 32) (lo n : Nat) : BitVec n := w.extractLsb' lo n

/-- A CTL slot whose bits of `resv` must be zero. -/
def cdec (w resv : BitVec 32) (op : CtlOp) : Option CtlDec := some ⟨op, w &&& resv ≠ 0⟩

def aluOf : Nat → Option AluOp
  | 1 => some .add | 2 => some .sub | 3 => some .and | 4 => some .or | 5 => some .xor | 6 => some .shl | 7 => some .shr
  | 8 => some .sra | _ => none

/-- Operation of an immediate opcode 0x10 and 0x13 to 0x18. -/
def immOf : Nat → Option AluOp
  | 0x10 => some .add | 0x13 => some .and | 0x14 => some .or | 0x15 => some .xor | 0x16 => some .shl | 0x17 => some .shr
  | 0x18 => some .sra | _ => none

def decodeCtl (w : BitVec 32) : Option CtlDec :=
  let op := (cfld w 26 6).toNat
  let rd := cfld w 22 4
  let ra := cfld w 18 4
  match aluOf op with
  | some a => cdec w 0x3FFF (.alu a rd ra (cfld w 14 4))
  | none =>
    match immOf op with
    | some a => cdec w (if 0x16 ≤ op then 0x3FFE0 else 0x30000) (.aluImm a rd ra (cfld w 0 16))
    | none =>
      match op with
      | 0x00 => cdec w 0x3FFFFFF .cnop
      | 0x09 => cdec w 0x3FFFF (.mov rd ra)
      | 0x11 => cdec w 0x3F0000 (.movi rd (cfld w 0 16))
      | 0x12 => cdec w 0x3F0000 (.movhi rd (cfld w 0 16))
      | 0x20 => cdec w 0x7FFFF (.lset (cfld w 23 3) (cfld w 19 4))
      | 0x21 => cdec w 0 (.lseti (cfld w 23 3) (cfld w 0 23))
      | 0x22 => cdec w 0x7FFFF (.lget rd (cfld w 19 3))
      | 0x28 => cdec w 0xFFF (.cmpr (cfld w 24 2) (cfld w 21 3) (bit w 20) (cfld w 16 4) (cfld w 12 4))
      | 0x29 => cdec w 0 (.cmpi (cfld w 24 2) (cfld w 21 3) (bit w 20) (cfld w 16 4) (cfld w 0 16))
      | 0x2A => cdec w 0x110FFF (.cmpv (cfld w 24 2) (cfld w 21 3) (cfld w 17 3) (cfld w 12 4))
      | 0x2B => cdec w 0x7FFFF (.rdvs rd (cfld w 19 3))
      | 0x2C => cdec w 0x3FFFFF (.rdfn rd)
      | 0x30 => cdec w 0x3FF0000 (.jmp (cfld w 0 16))
      | 0x31 => cdec w 0xFF0000 (.bc (cfld w 24 2) (cfld w 0 16))
      | 0x32 => cdec w 0xFF0000 (.bnc (cfld w 24 2) (cfld w 0 16))
      | 0x33 => cdec w 0x7F0000 (.bloop (cfld w 23 3) (cfld w 0 16))
      | 0x34 => cdec w 0x3FFFFFF .iarm
      | 0x3F => cdec w 0x3FFFFFF .fend
      | _ => none

/-- Lowest cause of a CTL slot; none where it is legal. -/
def ctlCause (w : BitVec 32) : Option Nat :=
  match decodeCtl w with
  | none => some 0
  | some dec => lowestCause ((ctlIllegal dec.op).toList ++ failIf dec.bad 6)

/-! ### The word (R124 to R129) -/

/-- Bytes of a word from its mask (R126). -/
def wordLen (mask : BitVec 8) : Nat := 4 + 4 * (mask.toNat % 2) + 8 * popCount (mask.extractLsb' 1 7)

/-- The CRC of R128 over a word's bytes but byte 3. -/
def wordCrc (bs : Bytes) : BitVec 8 := crc8 (bs.take 3 ++ bs.drop 4)

/-- A fetched word: header fields, its bytes and its extent. -/
structure Word where
  mask  : BitVec 8
  rep   : BitVec 8
  resv  : BitVec 8
  chk   : BitVec 8
  bytes : Bytes
  deriving DecidableEq, Repr

/-- Bytes in an instruction bank (R146). -/
def bankBytes : Nat := 0x30000

def Ctl.bank (k : Ctl) : Mem := if k.act then k.imem1 else k.imem0

def fetchWord (m : Mem) (addr : Nat) : Word :=
  let mask := Cells.get m addr
  { mask := mask, rep := Cells.get m (addr + 1), resv := Cells.get m (addr + 2), chk := Cells.get m (addr + 3),
    bytes := Cells.getN m addr (wordLen mask) }

/-- Cause of a failed word (R129, R154): 8 for the header check, 9 for the reserved field. -/
def Word.failed (w : Word) : Option Nat :=
  if wordCrc w.bytes ≠ w.chk then some 8 else if w.resv ≠ 0 then some 9 else none

/-- Byte offset of a mask bit's slot within the word (R124). -/
def slotOffset (mask : BitVec 8) (b : Nat) : Nat :=
  4 + (if b = 0 then 0 else 4 * (mask.toNat % 2)) + 8 * ((List.range b).filter (fun i => decide (0 < i) && bit mask i)).length

/-- The CTL slot of a word. -/
def Word.ctlBits (w : Word) : BitVec 32 := BitVec.ofNat 32 (leAt w.bytes 4 4)

/-- The slot of mask bit b. -/
def Word.slotBits (w : Word) (b : Nat) : BitVec 64 := BitVec.ofNat 64 (leAt w.bytes (slotOffset w.mask b) 8)

end Sys2Proof.Machine
end

