-- ==== Sys2Proof/Machine/Mtx.lean ====
section
/-! DEFINITION. The matrix arrays (chapter 03): beats of the weight bus, entry of activation vectors and the sums of
R62 and R63, the completion of loads and passes, and the commands WLOAD_COMPLETE and PASS_COMPLETE. -/

namespace Sys2Proof.Machine

/-! ### Weight bus (R71 to R74) -/

/-- Byte address of byte i of a load: weight rows first, then block scales (log entry 20). -/
def TileLoad.addr (l : TileLoad) (i : Nat) : Nat :=
  if i < l.cols * l.rowBytes then l.src + i else l.sclSrc + (i - l.cols * l.rowBytes)

def TileLoad.total (l : TileLoad) : Nat := l.cols * (l.rowBytes + l.sclBytes)

/-- Scratchpad ranges (first byte, bytes) that beat i of a load reads. -/
def TileLoad.ranges (l : TileLoad) (i : Nat) : List (Nat × Nat) :=
  let w := l.cols * l.rowBytes
  let lo := 256 * i
  let hi := min (lo + 256) l.total
  let a := if lo < w then [(l.src + lo, min hi w - lo)] else []
  let b := if w < hi then [(l.sclSrc + (max lo w - w), hi - max lo w)] else []
  a ++ b

/-- One beat of the weight bus in run cycle t, once (R72, R74). -/
def Die.weightBeat (d : Die) (c : CoreIx) (t : Nat) : Die :=
  let k := d.cores[c]
  match k.mtx.shadow with
  | .filling l start raw pz =>
    let i := t - start
    if decide (start ≤ t) && raw.length == 256 * i && decide (i < l.beats) then
      let rs := l.ranges i
      let got := rs.flatMap (fun (a, n) => k.readScratch a n)
      let p := rs.any (fun (a, n) => k.poisoned a n)
      let wN := min got.length (l.cols * l.rowBytes - raw.length)
      let bad := l.fmt = 0xA && (got.take wN).any (fun b => decide (243 ≤ b.toNat))
      let d := d.modCore c (fun k => { k with mtx := { k.mtx with shadow := .filling l start (raw ++ got) (pz || p) } })
      if bad then d.fault (.core c) ternInv else d
    else d
  | _ => d

/-- The load in progress is complete once its last beat is made (R73). -/
def Core.finishLoad (k : Core) : Core :=
  match k.mtx.shadow with
  | .filling l _ raw pz => if l.total ≤ raw.length then { k with mtx := { k.mtx with shadow := .complete (l.tile raw pz) } } else k
  | _ => k

/-! ### Sums (R61 to R63, R89) -/

/-- A product enters FP32 accumulation exactly unless it lies outside the normal range (R62). -/
def roundProduct (ftz : Bool) (p : Num) : Num :=
  match p with
  | .fin _ n d e =>
    if n = 0 then p
    else
      let x := ilog2 n d e
      if -126 ≤ x ∧ x ≤ 127 ∧ !(Num.lt (.fin false 16777215 1 104) p.abs) then p else roundF ftz p
  | _ => p

/-- An operand of a pass, decoded: value, block scale, and whether a TERN weight skips its term. A zero weight skips unless
its block scale is the NaN code, under which it decodes as NaN (R50, R62; log entry 30). -/
structure Factor where
  val  : Num
  skip : Bool
  deriving DecidableEq, Repr

/-- Elements of a row with their block scales applied exactly (R48 to R51, R62). -/
def factors (ftz : Bool) (fmt : BitVec 4) (scl : BitVec 2) (row scales : Bytes) (weight : Bool) : List Factor :=
  match Fmt.ofCode fmt with
  | none => []
  | some f =>
    (List.range 128).map (fun k =>
      let code := (unpack f row k).1
      let x := elemFactor f scl (decodeFtz ftz f code)
      let s := if scaledBlock scl then blockScale scl (scales.getD (k / blockSize scl) 0) else Num.ofInt 1
      ⟨x.mul s, weight && f = .tern && code = 1 && !s.isNan⟩)

/-- FP32 sum in the order of R62. -/
def sumFp (ftz : Bool) : List Factor → List Factor → Num → Num
  | a :: as, w :: ws, s =>
    let p := if w.skip then Num.zero false else roundProduct ftz (a.val.mul w.val)
    sumFp ftz as ws (roundF ftz (s.add p))
  | _, _, s => s

/-- An integer of the INT32 range, saturated, and whether it saturated (R63). -/
def satInt (x : Int) : Int × Bool :=
  let lo : Int := -2147483648
  let hi : Int := 2147483647
  if x < lo then (lo, true) else if hi < x then (hi, true) else (x, false)

/-- Integer value of an integer or TERN code. -/
def Num.toInt : Num → Int
  | .fin s n _ e => let m : Int := n * (2 ^ e.toNat : Nat); if s then -m else m
  | _ => 0

def sumInt : List Factor → List Factor → Int → Bool → Int × Bool
  | a :: as, w :: ws, s, sat =>
    let (x, b) := satInt (s + a.val.toInt * w.val.toInt)
    sumInt as ws x (sat || b)
  | _, _, s, sat => (s, sat)

def u32OfInt (i : Int) : U32 := BitVec.ofInt 32 i

/-- The sum of one output column as an accumulator word (R62, R63, R89). -/
def columnSum (kind : AccKind) (ftz : Bool) (a w : List Factor) : U32 × Bool :=
  match kind with
  | .int32 => let (x, sat) := sumInt a w 0 false; (u32OfInt x, sat)
  | _ => (toF (sumFp ftz a w (Num.zero false)), false)

/-- Sums of vector m of a pass, read from the scratchpad in the first cycle of its entry (R78, R90). -/
def Core.vectorSums (k : Core) (p : Pass) (m : Nat) : Sums :=
  let a := p.src + m * p.rowBytes
  let row := k.readScratch a p.rowBytes
  let sa := p.sclSrc + m * p.sclBytes
  let scl := k.readScratch sa p.sclBytes
  let pz := k.poisoned a p.rowBytes || (decide (0 < p.sclBytes) && k.poisoned sa p.sclBytes) || p.tile.poison
  let fa := factors p.ftz p.fmt p.scl row scl false
  let cols := (List.range p.tile.cols).map (fun j =>
    columnSum p.kind p.ftz fa (factors p.ftz p.tile.fmt p.tile.scl (p.tile.rows.getD j []) (p.tile.scales.getD j []) true))
  { words := cols.map (·.1), poison := pz, sat := cols.any (·.2) }

/-- The vector of a pass that enters in run cycle t, if one does and has not been read (R78). -/
def Pass.entering (p : Pass) (t : Nat) : Bool :=
  decide (p.start ≤ t) && decide (p.sums.length < p.vecs) && t == p.start + p.sums.length * p.cyc

/-- Entry of activation vectors in run cycle t on every array of a core (R78, R90, R91). -/
def Die.passBeat (d : Die) (c : CoreIx) (t : Nat) : Die :=
  let k := d.cores[c]
  let bad := k.mtx.passes.any (fun p => p.entering t && p.fmt = 0xA
    && ternInvalid .tern (k.readScratch (p.src + p.sums.length * p.rowBytes) p.rowBytes))
  let d := d.modCore c (fun k => { k with mtx := { k.mtx with
    passes := updWhere (·.entering t) (fun p => { p with sums := p.sums ++ [k.vectorSums p p.sums.length] }) k.mtx.passes } })
  if bad then d.fault (.core c) ternInv else d

/-! ### Accumulators (R80 to R83, R90) -/

/-- Accumulator row of output (m, j) of a pass, and column (R81). -/
def Pass.place (p : Pass) (m j : Nat) : Nat × Nat :=
  let base := if p.dst = 1 then 128 else 0
  let h := if p.dst = 2 then 256 else 128
  if j < 128 then (base + m, j) else (base + h / 2 + m, j - 128)

def accKey (a r k : Nat) : Nat := (256 * a + r) * 128 + k

/-- acc = round(acc + s), or acc = s (R62, R63). -/
def accWord (p : Pass) (old s : U32) : U32 × Bool :=
  if p.acc then
    match p.kind with
    | .int32 => let (x, sat) := satInt (old.toInt + s.toInt); (u32OfInt x, sat)
    | _ => (toF (roundF p.ftz ((fp32 old).add (fp32 s))), false)
  else (s, false)

/-- Write the sums of one vector. -/
def Pass.writeVector (p : Pass) (st : Cells 32 × Bool) (ms : Nat × Sums) : Cells 32 × Bool :=
  (ms.2.words.mapIdx (fun j w => (j, w))).foldl (fun (acc, sat) (j, w) =>
    let (r, k) := p.place ms.1 j
    let key := accKey p.array.val r k
    let (v, b) := accWord p (Cells.get acc key) w
    (Cells.set acc key v, sat || b)) st

/-- Rows that vector m writes. -/
def Pass.rowsOf (p : Pass) (m : Nat) : List Nat :=
  let r (j : Nat) : Nat := 256 * p.array.val + (p.place m j).1
  if p.tile.cols = 256 then [r 0, r 128] else [r 0]

/-- The poison bits after one vector (R90). -/
def Pass.markVector (p : Pass) (pz : NatSet) (ms : Nat × Sums) : NatSet :=
  (p.rowsOf ms.1).foldl (fun pz r => if ms.2.poison then pz.add r else if p.acc then pz else pz.del r) pz

/-- Last run cycle of a pass (R78). -/
def Pass.doneAt (p : Pass) : Nat := p.start + p.vecs * p.cyc + 254

/-- A pass is written: accumulators, poison bits, and the half states if it closes its chain (R79, R83). `acc_sat` and
`mtx_poison` rise here, with the words, so that a pass discarded before sets neither (R63; DESIGN CHOICE, log entry 112). -/
def Die.finishPass (d : Die) (c : CoreIx) (p : Pass) : Die :=
  let ms := p.sums.mapIdx (fun m s => (m, s))
  let k := d.cores[c]
  let (acc, sat) := ms.foldl p.writeVector (k.mtx.acc, false)
  let pz := ms.foldl p.markVector k.mtx.rowPz
  let d := d.modCore c (fun k => { k with mtx := { k.mtx with
    acc := acc, rowPz := pz, passes := k.mtx.passes.erase p,
    halves := if p.last then (halvesOf p.array p.dst).foldl (fun hs h => vupd hs h (fun x => { x with st := .closed })) k.mtx.halves
              else k.mtx.halves } })
  let d := if sat || p.sums.any (·.sat) then d.fault (.core c) accSat else d
  if p.sums.any (·.poison) then d.fault (.core c) mtxPoison else d

/-- Passes of a core that are written by the end of run cycle t, in issue order (R79). -/
def Die.passesDone (d : Die) (c : CoreIx) (t : Nat) : Die :=
  (d.cores[c].mtx.passes.filter (fun p => decide (p.doneAt ≤ t) && p.sums.length == p.vecs)).foldl (fun d p => d.finishPass c p) d

/-! ### Commands -/

/-- WLOAD_COMPLETE: the last beat of the load in progress and the shadow's completion (R73). -/
def Die.wloadComplete (c : CoreIx) (d : Die) : Die :=
  match d.cores[c].mtx.shadow with
  | .filling l start _ _ =>
    if d.dueRun (start + l.beats - 1) then (d.weightBeat c (start + l.beats - 1)).modCore c Core.finishLoad else d
  | _ => d

def execWloadComplete (a : CoreRef) (s : State) : Out := onDie s a.die (Die.wloadComplete a.core)

/-- PASS_COMPLETE: every pass whose last accumulation falls by now is written (R78, R79, R83). -/
def Die.passComplete (c : CoreIx) (d : Die) : Die :=
  d.passesDone c (if d.heldNow then d.clock.rc - 1 else d.clock.rc)

def execPassComplete (a : CoreRef) (s : State) : Out := onDie s a.die (Die.passComplete a.core)

end Sys2Proof.Machine
end

