-- ==== Sys2Proof/Machine/Vec.lean ====
section
/-! DEFINITION. The vector engine (chapter 04): random draws, element-wise operations, function tables, reductions,
accumulator reads, the beats of both ports, result and summary writes, and their commands. -/

namespace Sys2Proof.Machine

/-! ### Philox4x32-10 (R55, R118; constants of the named generator, log entry 21) -/

structure PhiloxCtr where
  c0 : U32
  c1 : U32
  c2 : U32
  c3 : U32
  deriving DecidableEq, Repr

/-- High and low words of a 32-bit product. -/
def mulHi (a b : U32) : U32 := BitVec.ofNat 32 (a.toNat * b.toNat / 2 ^ 32)
def mulLo (a b : U32) : U32 := a * b

def philoxRound (c : PhiloxCtr) (k0 k1 : U32) : PhiloxCtr :=
  { c0 := mulHi 0xCD9E8D57 c.c2 ^^^ c.c1 ^^^ k0, c1 := mulLo 0xCD9E8D57 c.c2,
    c2 := mulHi 0xD2511F53 c.c0 ^^^ c.c3 ^^^ k1, c3 := mulLo 0xD2511F53 c.c0 }

def philoxRounds : Nat → PhiloxCtr → U32 → U32 → PhiloxCtr
  | 0, c, _, _ => c
  | n + 1, c, k0, k1 => philoxRounds n (philoxRound c k0 k1) (k0 + 0x9E3779B9) (k1 + 0xBB67AE85)

/-- The 128-bit output number of R55. -/
def philox (c : PhiloxCtr) (k0 k1 : U32) : Nat :=
  let o := philoxRounds 10 c k0 k1
  o.c0.toNat + o.c1.toNat * 2 ^ 32 + o.c2.toNat * 2 ^ 64 + o.c3.toNat * 2 ^ 96

/-- The 16-bit draw of element i under a sequence slot (R55, R118). -/
def drawOf (seed : U32) (p : VPort) (r : Vector U32 16) (so : BitVec 4) (i slot : Nat) : Nat :=
  let k1 := BitVec.ofNat 32 ((regAt r so 3).toNat / 512 * 512 + slot % 512)
  let c1 : U32 := match p with | .vec0 => 0 | .vec1 => 1
  philox ⟨BitVec.ofNat 32 (i / 8), c1, regAt r so 4, regAt r so 5⟩ seed k1 / 2 ^ (16 * (i % 8)) % 65536

/-- Sequence slot at an offset from s[so + 3][8:0]. -/
def seqSlot (r : Vector U32 16) (so : BitVec 4) (off : Nat) : Nat := ((regAt r so 3).toNat % 512 + off) % 512

/-! ### Sources (R98, R99, R102) -/

/-- A value taken in: exact, with its mark and whether a TERN byte was invalid. -/
structure Taken where
  val : Num
  pz  : Bool
  bad : Bool
  deriving DecidableEq, Repr

/-- Element e of a bound operand with its scales (R48 to R51, R66). -/
def Core.takeElem (k : Core) (b : Bound) (s : BoundScale) (ftz : Bool) (e : Nat) : Taken :=
  match Fmt.ofCode b.fmt with
  | none => ⟨Num.zero false, false, false⟩
  | some f =>
    let x := k.readElem b.base b.g f e
    let v := elemFactor f s.mode (decodeFtz ftz f x.code)
    let (v, pb) := if scaledBlock s.mode then
        let a := s.blk + e / blockSize s.mode
        (v.mul (blockScale s.mode (Cells.get k.scratch a)), k.poisoned a 1)
      else (v, false)
    let (v, pr) := if scaledRow s.mode then
        let (w, p) := k.readF32 s.row (e / b.g)
        (v.mul (fp32 w), p)
      else (v, false)
    ⟨v, x.pz || pb || pr, x.bad⟩

/-! ### Element-wise operations (R101, R102, R115) -/

def boolNum (b : Bool) : Num := Num.ofInt (if b then 1 else 0)

/-- The exact result of an element-wise operation before its rounding to FP32. -/
def elemExact (op : ElemOp) (a b d : Num) : Num :=
  match op with
  | .vadd => a.add b
  | .vsub => a.sub b
  | .vmul => a.mul b
  | .vfma => (a.mul b).add d
  | .vmin => if a.isNan || b.isNan then .nan else if b.ltz a then b else a
  | .vmax => if a.isNan || b.isNan then .nan else if a.ltz b then b else a
  | .vclt => boolNum (a.lt b)
  | .vcle => boolNum (a.lt b || a.eqv b)
  | .vceq => boolNum (a.eqv b)
  | .vsel => if d.isZero then b else a
  | _ => a

/-- ⌊x⌋ of a finite value. -/
def Num.floor : Num → Int
  | .fin s n d e =>
    let (u, v) := pow2 e
    let q : Int := if s then -(n * u : Nat) else (n * u : Nat)
    q / ((d * v : Nat) : Int)
  | _ => 0

/-- x · 2^e. -/
def Num.scale (x : Num) (e : Int) : Num := x.mul (.fin false 1 1 e)

def infOf (neg : Bool) : Num := .inf neg

/-- Word i of a function table's entries. -/
def FtBank.entry (b : FtBank) (i : Nat) : Num := fp32 (b.y.getD i 0)

/-- What a table gives: a value, and the entries of the table that it was formed from. -/
structure Looked where
  val  : Num
  used : List Nat := []

/-- Entry i itself. -/
def FtBank.look (b : FtBank) (i : Nat) : Looked := ⟨b.entry i, [i]⟩

/-- A further step on a value. -/
def Looked.then (x : Looked) (f : Num → Num) : Looked := { x with val := f x.val }

/-- The interpolation of R115 at a position p from 0 to 1,023, each step rounded. -/
def FtBank.interp (b : FtBank) (ftz : Bool) (p : Num) : Looked :=
  let i : Nat := min 1022 p.floor.toNat
  let f := roundF ftz (p.sub (Num.ofInt i))
  let dy := roundF ftz ((b.entry (i + 1)).sub (b.entry i))
  ⟨roundF ftz ((b.entry i).add (roundF ftz (f.mul dy))), [i, i + 1]⟩

/-- The interpolation mode of a bank's descriptor (R114). -/
def FtBank.mode (b : FtBank) : Nat := leAt b.desc 0 1 % 4

/-- Clamp to [0, 1,023]. -/
def clampPos (p : Num) : Num := if p.lt (Num.zero false) then Num.zero false else if (Num.ofInt 1023).lt p then Num.ofInt 1023 else p

/-- Function table evaluation (R115). -/
def FtBank.eval (b : FtBank) (ftz : Bool) (x : Num) : Looked :=
  let pexp := signed 4 (leAt b.desc 0 1 / 16)
  let x0 := fp32 (BitVec.ofNat 32 (leAt b.desc 4 4))
  let k := fp32 (BitVec.ofNat 32 (leAt b.desc 8 4))
  if x.isNan then ⟨.nan, []⟩
  else
    match b.mode with
    | 0 =>
      let p := roundF ftz ((roundF ftz (x.sub x0)).mul k)
      if p.isNan then ⟨.nan, []⟩ else b.interp ftz (clampPos p)
    | 1 =>
      let u := roundF ftz (x.mul k)
      if u.isNan then ⟨.nan, []⟩
      else if !(u.lt (Num.ofInt 128)) then ⟨.inf false, []⟩
      else if u.lt (Num.ofInt (-150)) then ⟨Num.zero false, []⟩
      else
        let n := u.floor
        let p := roundF ftz ((roundF ftz (u.sub (Num.ofInt n))).mul (Num.ofInt 1023))
        (b.interp ftz p).then (fun y => roundF ftz (y.scale n))
    | 2 =>
      if x.isZero then (if pexp < 0 then ⟨.inf false, []⟩ else if 0 < pexp then ⟨Num.zero false, []⟩ else b.look 0)
      else if x.negative then ⟨.nan, []⟩
      else match x with
        | .inf _ => if pexp < 0 then ⟨Num.zero false, []⟩ else if 0 < pexp then ⟨.inf false, []⟩ else b.look 1023
        | .fin _ n d e =>
          let q := ilog2 n d e / 2
          let m := x.scale (-(2 * q))
          let p := roundF ftz ((roundF ftz (m.sub (Num.ofInt 1))).mul (Num.ofInt 341))
          (b.interp ftz p).then (fun y => roundF ftz (y.scale (q * pexp)))
        | .nan => ⟨.nan, []⟩
    | _ =>
      if x.isZero then ⟨(infOf true).mul k, []⟩
      else if x.negative then ⟨.nan, []⟩
      else match x with
        | .inf _ => ⟨(infOf false).mul k, []⟩
        | .fin _ n d e =>
          let ex := ilog2 n d e
          let m := x.scale (-ex)
          let p := roundF ftz ((roundF ftz (m.sub (Num.ofInt 1))).mul (Num.ofInt 1023))
          (b.interp ftz p).then (fun y => roundF ftz ((roundF ftz (y.add (Num.ofInt ex))).mul k))
        | .nan => ⟨.nan, []⟩

/-- Words of the descriptor that hold fields of its mode (R114). -/
def FtBank.descWords (b : FtBank) : List Nat := match b.mode with | 0 => [0, 1, 2] | 2 => [0] | _ => [0, 2]

/-- A result is marked where a word of the table that it was formed from was marked when it was loaded (R66; DEDUCED, log
entry 95). -/
def FtBank.marks (b : FtBank) (x : Looked) : Bool := (b.descWords ++ x.used.map (· + 4)).any b.pz.has

/-! ### Results of a beat -/

/-- One result before its conversion: destination element, value, mark, draw. -/
structure Result where
  ix   : Nat
  val  : Num
  pz   : Bool
  draw : Nat
  deriving DecidableEq, Repr

/-- Converted results: element writes, scale bytes, and whether `cvt_inv` is set (R57, R60). -/
structure Converted where
  elems : List ElemWrite
  scale : List (Nat × BitVec 8 × Bool)
  bad   : Bool

/-- Conversion controls of an instruction. -/
structure ConvCtl where
  fmt : Fmt
  rnd : BitVec 2
  ovf : Bool
  ftz : Bool

/-- Cut results into blocks of n. -/
def resBlocks (n : Nat) : Nat → List Result → List (List Result)
  | 0, _ => []
  | fuel + 1, rs => if rs.isEmpty then [] else rs.take n :: resBlocks n fuel (rs.drop n)

def convBlock (cc : ConvCtl) (into : Bound) (s : BoundScale) (rowScale : Nat → U32 × Bool) (rs : List Result) : Converted :=
  let e0 := (rs.head?.map (·.ix)).getD 0
  let (w, wp) := rowScale (e0 / into.g)
  let xs := rs.map (fun r => (r.val, r.draw))
  let blk := if s.mode = 1 then mx32Block cc.fmt cc.rnd cc.ftz xs else ts16Block cc.fmt cc.rnd cc.ovf cc.ftz (fp32 w) xs
  let pz := rs.any (·.pz) || (s.mode = 2 && wp)
  { elems := List.zipWith (fun r c => ⟨into, r.ix, BitVec.ofNat 32 c, pz⟩) rs blk.codes,
    scale := [(s.blk + e0 / blockSize s.mode, blk.scale, pz)], bad := blk.bad }

def Converted.append (x y : Converted) : Converted := ⟨x.elems ++ y.elems, x.scale ++ y.scale, x.bad || y.bad⟩

/-- Conversion of a run of results to a bound destination (R52 to R60, R66). -/
def convertRun (cc : ConvCtl) (into : Bound) (s : BoundScale) (rowScale : Nat → U32 × Bool) (rs : List Result) : Converted :=
  if scaledBlock s.mode then
    (resBlocks (blockSize s.mode) rs.length rs).foldl (fun c b => c.append (convBlock cc into s rowScale b)) ⟨[], [], false⟩
  else
    let one (r : Result) : ElemWrite × Bool :=
      if s.mode = 3 then
        let (w, wp) := rowScale (r.ix / into.g)
        let x := perRow cc.fmt cc.rnd cc.ovf cc.ftz (fp32 w) r.val r.draw
        (⟨into, r.ix, BitVec.ofNat 32 x.code, r.pz || wp⟩, x.bad)
      else
        let x := convert cc.fmt cc.rnd cc.ovf cc.ftz r.draw r.val
        (⟨into, r.ix, BitVec.ofNat 32 x.code, r.pz⟩, x.bad)
    let ys := rs.map one
    ⟨ys.map (·.1), [], ys.any (·.2)⟩

/-- What the elements i of one beat of an element-wise operation give (R101 to R103). -/
def elemResult (k : Core) (seed : U32) (p : VPort) (run : VecRun) (op : ElemOp) (f : ElemF) (i : Nat) : Result × Bool :=
  let off (j : Nat) : Nat := (regAt run.regs f.so j).toNat
  let e := off 0 + i
  let u := elemUse op
  let none_ : Taken := ⟨Num.zero false, false, false⟩
  let a := if u.a then k.takeElem run.a run.aScl f.ftz (off 1 + (if f.za then 0 else i)) else none_
  let b := if u.b then k.takeElem run.b run.bScl f.ftz (off 2 + (if f.zb then 0 else i)) else none_
  let d := if u.dSrc then k.takeElem run.d ⟨0, 0, 0⟩ f.ftz e else none_
  let r := drawOf seed p run.regs f.so i (seqSlot run.regs f.so (i / run.d.g))
  let draw := if f.rnd = 2 then r else 0
  let v := match op with
    | .vcvt => a.val
    | .vrand => .fin false r 1 (-16)
    | .vfn => (run.table.eval f.ftz a.val).val
    | _ => roundF f.ftz (elemExact op a.val b.val d.val)
  let pz := match op with
    | .vsel => d.pz || (if d.val.isZero then b.pz else a.pz)
    | .vrand => false
    | .vfn => a.pz || run.table.marks (run.table.eval f.ftz a.val)
    | _ => a.pz || b.pz || d.pz
  (⟨e, v, pz, draw⟩, a.bad || b.bad || d.bad)

def beatRange (run : VecRun) (n : Nat) : List Nat := (List.range n).map (run.taken + ·)

/-- One word of the accumulators taken in by a `vacc` (R111): the array's rank and number, region row and column. -/
structure AccIx where
  p : Nat
  a : Fin 4
  r : Nat
  k : Nat
  deriving DecidableEq, Repr

def vaccRows (f : VaccF) : Nat := if f.half = 2 then 256 else 128

def vaccIx (f : VaccF) (i : Nat) : AccIx :=
  let h := vaccRows f
  let p := i / (h * 128)
  { p := p, a := (arraysOf f.amask).getD p 0, r := i / 128 % h, k := i % 128 }

/-- Half that holds region row r (as 2·a + half). -/
def accHalf (f : VaccF) (x : AccIx) : Fin 8 := Fin.ofNat 8 (2 * x.a.val + (if f.half = 1 || 128 ≤ x.r then 1 else 0))

def accRow (f : VaccF) (r : Nat) : Nat := if f.half = 1 then 128 + r else r

/-- A word of the accumulators as a value (R61, R111). -/
def accValue (kind : AccKind) (ftz : Bool) (w : U32) : Num :=
  match kind with
  | .int32 => roundF false (Num.ofInt w.toInt)
  | _ => decodeFtz ftz .fp32 w.toNat

def vaccResult (k : Core) (seed : U32) (p : VPort) (run : VecRun) (f : VaccF) (i : Nat) : Result :=
  let x := vaccIx f i
  let v := if f.w256 then vaccRows f / 2 else vaccRows f
  let m := x.r % v
  let j := x.k + 128 * (x.r / v)
  let off (n : Nat) : Nat := (regAt run.regs f.so n).toNat
  let row := accRow f x.r
  let kind := k.mtx.halves[accHalf f x].kind
  let val := accValue kind f.ftz (Cells.get k.mtx.acc (accKey x.a.val row x.k))
  let pz := k.mtx.rowPz.has (256 * x.a.val + row)
  let (val, pz) := if f.ra then
      let (w, q) := k.readF32 (run.rowA4.getD x.p 0) (off 1 + m)
      (roundF f.ftz (val.mul (fp32 w)), pz || q) else (val, pz)
  let (val, pz) := if f.rw then
      let (w, q) := k.readF32 run.a.base (off 2 + j)
      (roundF f.ftz (val.mul (fp32 w)), pz || q) else (val, pz)
  let (val, pz) := if f.be then
      let (w, q) := k.readF32 run.b.base (off 2 + j)
      (roundF f.ftz (val.add (decodeFtz f.ftz .fp32 w.toNat)), pz || q) else (val, pz)
  let draw := if f.rnd = 2 then drawOf seed p run.regs f.so i (seqSlot run.regs f.so (x.p * v + m)) else 0
  ⟨(off 0 + x.r) * 128 + x.k, val, pz, draw⟩

/-- Destination of a `vacc` for the array of rank p. -/
def vaccDest (run : VecRun) (f : VaccF) (p : Nat) : Bound × BoundScale :=
  (⟨run.dst4.getD p 0, f.fmtD, 128⟩, ⟨f.sclD, run.dst4Blk.getD p 0, run.dst4Row.getD p 0⟩)

/-! ### Reductions (R64, R105 to R107) -/

def roundOpt (ftz : Bool) : Option Num → Option Num → Option Num
  | some a, some b => some (roundF ftz (a.add b))
  | some a, none => some a
  | none, b => b

/-- One level of the tree (R64). -/
def treeLevel (ftz : Bool) : List (Option Num) → List (Option Num)
  | a :: b :: r => roundOpt ftz a b :: treeLevel ftz r
  | r => r

/-- The lane sums of step 1: `sq` for a sum of squares. -/
def laneSum (ftz sq : Bool) : Option Num → Num → Option Num
  | none, x => some (roundF ftz (if sq then x.mul x else x))
  | some s, x => some (roundF ftz (s.add (if sq then x.mul x else x)))

/-- Elements l, l + 512, … of a segment. -/
def laneElems (xs : List Num) (l : Nat) : List Num := (xs.mapIdx (fun i x => (i, x))).filterMap (fun (i, x) => if i % 512 = l then some x else none)

def sumSegment (ftz sq : Bool) (xs : List Num) : Num :=
  let lanes := (List.range 512).map (fun l => (laneElems xs l).foldl (laneSum ftz sq) none)
  ((iter (treeLevel ftz) 9 lanes).head?.join).getD (Num.zero false)

/-- Largest element, −0 below +0, NaN if any is NaN (R106). -/
def maxSegment : List Num → Num
  | [] => Num.zero false
  | x :: r => r.foldl (fun m y => if m.isNan || y.isNan then .nan else if m.ltz y then y else m) x

/-- Index of the first NaN, else of the first largest element, with −0 below +0 as in `vmaxr` (R106; log entry 31). -/
def argmaxSegment (xs : List Num) : Nat :=
  match xs.findIdx? Num.isNan with
  | some i => i
  | none => (xs.findIdx? (fun x => xs.all (fun y => !(x.ltz y)))).getD 0

def segValue (op : RedOp) (ftz : Bool) (xs : List Num) : Num :=
  match op with
  | .vsum => sumSegment ftz false xs
  | .vsumsq => sumSegment ftz true xs
  | .vmaxr => roundF ftz (maxSegment xs)
  | .vargmax => Num.ofInt (argmaxSegment xs)

def segments (g : Nat) : Nat → List (Num × Bool) → List (List (Num × Bool))
  | 0, _ => []
  | fuel + 1, xs => if xs.isEmpty then [] else xs.take g :: segments g fuel (xs.drop g)

/-! ### Beats -/

/-- Set or clear the instruction of a port. -/
def Vec.setRun (v : Vec) (p : VPort) (r : Option VecRun) : Vec :=
  match p with | .vec0 => { v with run0 := r } | .vec1 => { v with run1 := r }

def Vec.run (v : Vec) (p : VPort) : Option VecRun := match p with | .vec0 => v.run0 | .vec1 => v.run1

/-- Rank of a port among the writers of a summary register (R109). -/
def portRank : VPort → Nat | .vec0 => 3 | .vec1 => 4

/-- The instruction after a beat: gone once its last beat is made (R94). -/
def VecRun.after (r : VecRun) (n t : Nat) : Option VecRun :=
  if r.n ≤ r.taken + n then none else some { r with taken := r.taken + n, lastBeat := some t }

def Core.queueWrite (k : Core) (w : VecWrite) : Core := { k with vec := { k.vec with writes := k.vec.writes ++ [w] } }

/-- A `vcvt` between one format and itself, both unscaled, returns its input bits, but for the flush of R58 and for TERN
(R38). -/
def sameBits (k : Core) (run : VecRun) (f : ElemF) (is : List Nat) (ws : List ElemWrite) : List ElemWrite :=
  match Fmt.ofCode f.fmtD with
  | some x =>
    if f.fmtD = f.fmtS && f.sclD = 0 && f.sclS = 0 && x ≠ .tern then
      List.zipWith (fun i w =>
        let c := (k.readElem run.a.base run.a.g x ((regAt run.regs f.so 1).toNat + (if f.za then 0 else i))).code
        if f.ftz && subnormalCode x c then w else { w with code := BitVec.ofNat 32 c }) is ws
    else ws
  | none => ws

/-- Beat of an element-wise operation: n elements in run cycle t. -/
def elemBeat (k : Core) (p : VPort) (run : VecRun) (op : ElemOp) (f : ElemF) (n t : Nat) : Core × Bool × Bool :=
  let xs := (beatRange run n).map (elemResult k k.vec.seed p run op f)
  let cc : ConvCtl := ⟨(Fmt.ofCode f.fmtD).getD .fp32, f.rnd, f.ovf, f.ftz⟩
  let cv := convertRun cc run.d run.dScl (k.readF32 run.dScl.row) (xs.map (·.1))
  let elems := if op = .vcvt then sameBits k run f (beatRange run n) cv.elems else cv.elems
  let k := k.queueWrite { due := t + 11, port := p, elems := elems, scale := cv.scale }
  ({ k with vec := k.vec.setRun p (run.after n t) }, xs.any (·.2), cv.bad)

/-- Summary write of a reduction: segment 0 in FP32, or the index of a `vargmax` as a U32 (R107). -/
def redSummary (op : RedOp) (f : RedF) (p : VPort) (due : Nat) (seg : List (Num × Bool)) (r : Result) : SummaryWrite where
  due := due
  onClk := false
  rank := portRank p
  unit := 0
  vs := fin8 f.vsd
  val := if op = .vargmax then BitVec.ofNat 32 (argmaxSegment (seg.map (·.1))) else toF r.val
  ty := if op = .vargmax then 2 else 1
  poison := r.pz

/-- Beat of a reduction; the last one forms the results, due at T + 20 with the summary (R96, R107). -/
def redBeat (k : Core) (p : VPort) (run : VecRun) (op : RedOp) (f : RedF) (n t : Nat) : Core × Bool × Bool :=
  let off := (regAt run.regs f.so 1).toNat
  let xs : List Taken := (beatRange run n).map (fun i => k.takeElem run.a run.aScl f.ftz (off + i))
  let run' := { run with inVals := run.inVals ++ xs.map (fun (x : Taken) => (x.val, x.pz)) }
  let tern := xs.any (·.bad)
  if run.n ≤ run.taken + n then
    let segs := segments run.d.g run.n run'.inVals
    let rs := segs.mapIdx (fun j s =>
      let v := segValue op f.ftz (s.map (·.1))
      let draw := if f.rnd = 2 then drawOf k.vec.seed p run.regs f.so j (seqSlot run.regs f.so j) else 0
      (⟨(regAt run.regs f.so 0).toNat + j, v, s.any (·.2), draw⟩ : Result))
    let cc : ConvCtl := ⟨(Fmt.ofCode f.fmtD).getD .fp32, f.rnd, f.ovf, f.ftz⟩
    let cv := convertRun cc run.d ⟨0, 0, 0⟩ (fun _ => (0, false)) rs
    let k := k.queueWrite { due := t + 20, port := p, elems := cv.elems, scale := [] }
    let sum : List SummaryWrite := match rs.head? with
      | some r => if f.vsw then [redSummary op f p (t + 20) (segs.headD []) r] else []
      | none => []
    ({ k with vec := { k.vec.setRun p none with sumQ := k.vec.sumQ ++ sum } }, tern, cv.bad)
  else ({ k with vec := k.vec.setRun p (run'.after n t) }, tern, false)

/-- Runs of results of one array. -/
def vaccWrite (k : Core) (run : VecRun) (f : VaccF) (rs : List (Nat × Result)) (p : Nat) : Converted :=
  let (into, s) := vaccDest run f p
  let cc : ConvCtl := ⟨(Fmt.ofCode f.fmtD).getD .fp32, f.rnd, f.ovf, f.ftz⟩
  convertRun cc into s (k.readF32 s.row) (rs.filterMap (fun (q, r) => if q = p then some r else none))

/-- Beat of a `vacc`, with the release of each half after its last word (R111, R112). -/
def vaccBeat (k : Core) (p : VPort) (run : VecRun) (f : VaccF) (n t : Nat) : Core × Bool × Bool :=
  let ixs := beatRange run n
  let rs := ixs.map (fun i => ((vaccIx f i).p, vaccResult k k.vec.seed p run f i))
  let cv := (rs.map (·.1)).eraseDups.foldl (fun (c : Converted) q => c.append (vaccWrite k run f rs q)) ⟨[], [], false⟩
  let rel := if f.rel then
      (ixs.filter (fun i => i % (128 * 128) = 128 * 128 - 1)).map (fun i => (⟨t, accHalf f (vaccIx f i)⟩ : HalfRelease)) else []
  let k := k.queueWrite { due := t + 11, port := p, elems := cv.elems, scale := cv.scale }
  ({ k with vec := { k.vec.setRun p (run.after n t) with releases := k.vec.releases ++ rel } }, false, cv.bad)

/-- Beat i of a `vtld` reads 256 bytes (log entry 22) with the marks of their words; the instruction stays for its completion
(R66, R116). -/
def vtldBeat (k : Core) (p : VPort) (run : VecRun) (t : Nat) : Core :=
  let m := run.raw.length
  let n := min 256 (tableBytes - m)
  let bad := (List.range (n / 4)).filter (fun i => k.poisoned (run.a.base + m + 4 * i) 4)
  let run' := { run with raw := run.raw ++ k.readScratch (run.a.base + m) n, rawPz := run.rawPz.addAll (bad.map (m / 4 + ·)),
                         taken := run.taken + 1, lastBeat := some t }
  { k with vec := k.vec.setRun p (some run') }

/-- One port's beat of n elements in run cycle t. `cvt_inv` rises in the cycle that takes the elements in (DESIGN CHOICE, log
entry 94). -/
def Die.portBeat (d : Die) (c : CoreIx) (p : VPort) (n t : Nat) : Die :=
  let k := d.cores[c]
  match k.vec.run p with
  | none => d
  | some run =>
    if n = 0 || run.lastBeat = some t then d
    else
      let (k', tern, bad) := match run.op with
        | .elem op f => elemBeat k p run op f n t
        | .red op f => redBeat k p run op f n t
        | .vacc f => vaccBeat k p run f n t
        | .vtld _ => (vtldBeat k p run t, false, false)
        | _ => (k, false, false)
      let d := d.modCore c (fun _ => k')
      let d := if tern then d.fault (.core c) ternInv else d
      if bad then d.fault (.vec c) cvtInv else d

/-- Beats of both ports in run cycle t, each with the share it holds in that cycle (R95). Both read the state before
the cycle's writes. -/
def Die.vecBeats (d : Die) (c : CoreIx) (t : Nat) : Die :=
  let v := d.cores[c].vec
  let p := runLoad v.run0
  let q := runLoad v.run1
  (d.portBeat c .vec0 (portTake p q) t).portBeat c .vec1 (portTake q p) t

/-! ### Function tables (R114, R116) -/

/-- The reserved bits of a descriptor are zero (R114). -/
def descOk (b : Bytes) : Bool :=
  let mode := leAt b 0 1 % 4
  let w0 := leAt b 0 4
  w0 / 4 % 4 == 0 && w0 / 256 == 0 && (mode == 2 || w0 / 16 % 16 == 0)
  && (mode == 0 || leAt b 4 4 == 0) && (mode != 2 || leAt b 8 4 == 0) && leAt b 12 4 == 0

/-- A bank from the 4,112 bytes of a table, with the words read marked (R66, R116). -/
def tableBank (raw : Bytes) (pz : NatSet) : FtBank :=
  { pz := pz, desc := slice raw 0 16, y := (List.range 1024).map (fun i => BitVec.ofNat 32 (leAt raw (16 + 4 * i) 4)),
    valid := descOk (slice raw 0 16) }

def FnTable.setStandby (t : FnTable) (b : FtBank) : FnTable := if t.act then { t with bank0 := b } else { t with bank1 := b }

/-- Completion of a `vtld` on a port: the descriptor is checked and the standby bank marked (R116). -/
def Die.finishVtld (d : Die) (c : CoreIx) (p : VPort) : Die :=
  match d.cores[c].vec.run p with
  | some run =>
    match run.op with
    | .vtld f =>
      if run.n ≤ run.taken then
        let b := tableBank run.raw run.rawPz
        let d := d.modCore c (fun k =>
          { k with vec := { k.vec.setRun p none with ft := vupd k.vec.ft (fin4 f.t) (·.setStandby b) } })
        if b.valid then d else d.fault (.vec c) ftBad
      else d
    | _ => d
  | none => d

/-- VTLD_COMPLETE: the last of the 17 cycles, and the check of the descriptor (R116). -/
def Die.vtldComplete (c : CoreIx) (p : VPort) (d : Die) : Die :=
  match d.cores[c].vec.run p with
  | some run =>
    match run.op with
    | .vtld _ => if decide (run.n ≤ run.taken + 1) && d.dueRun (run.start + 16) then
        (if run.n ≤ run.taken then d else d.portBeat c p 1 (run.start + 16)).finishVtld c p else d
    | _ => d
  | none => d

def execVtldComplete (a : CoreRef) (p : VPort) (s : State) : Out := onDie s a.die (Die.vtldComplete a.core p)

/-! ### Writes (R96, R109, R112, R162) -/

/-- Element writes of one unit in one cycle as byte writes, buffer by buffer. -/
def writesOf (k : Core) (ws : List ElemWrite) : List ByteWrite :=
  ((ws.map (·.into)).eraseDups).flatMap (fun into =>
    match Fmt.ofCode into.fmt with
    | some f => elemWrites k into.base into.g f ((ws.filter (fun w => w.into = into)).map (fun w => (w.ix, w.code.toNat, w.pz)))
    | none => [])

def VecWrite.apply (k : Core) (w : VecWrite) : Core :=
  k.applyWrites (writesOf k w.elems ++ w.scale.map (fun (a, b, pz) => ⟨a, b, pz, true⟩))

/-- One summary write, by its rank: higher rank first, then the lower unit (R109, R162). -/
def SummaryWrite.beats (a b : SummaryWrite) : Bool := b.rank < a.rank || (a.rank == b.rank && a.unit ≤ b.unit)

/-- Of the summary writes that meet in a register in one cycle, the one that stands. -/
def SummaryWrite.top (w : SummaryWrite) (rest : List SummaryWrite) : SummaryWrite :=
  rest.foldl (fun a b => if a.beats b then a else b) w

/-- Land summary writes at the end of the cycle in progress: of those that meet in a register one stands, also against those
that a command has landed in the same cycle (R109, R162). -/
def Die.landSummary (d : Die) (c : CoreIx) (ws : List SummaryWrite) (r : Fin 8) : Die :=
  match ws.filter (fun w => w.vs = r) with
  | [] => d
  | w :: rest =>
    let met := d.cores[c].vec.sumNow.filter (fun w => w.vs = r)
    let top := w.top (rest ++ met)
    let d := d.modCore c (fun k => { k with vec := { k.vec with vs := vupd k.vec.vs r (fun _ => ⟨top.val, top.ty, top.poison⟩) } })
    let d := if top.poison then d.fault (.vec c) vsPoison else d
    if (rest ++ met).isEmpty then d else d.fault (.vec c) vsClash

/-- Land every summary write of a core due by the end of run cycle t, or of the present clock cycle. -/
def Die.landSummaries (d : Die) (c : CoreIx) (t : Option Nat) : Die :=
  let now (w : SummaryWrite) : Bool :=
    if w.onClk then decide (w.due ≤ d.clock.clk) else match t with | some t => decide (w.due ≤ t) | none => false
  let ws := d.cores[c].vec.sumQ.filter now
  let d := d.modCore c (fun k => { k with vec := { k.vec with sumQ := k.vec.sumQ.filter (fun w => !now w) } })
  let d := (List.finRange 8).foldl (fun d r => d.landSummary c ws r) d
  if ws.isEmpty then d else d.modCore c (fun k => { k with vec := { k.vec with sumNow := k.vec.sumNow ++ ws } })

/-- A cycle's summary writes are done: those of the next meet none of them. -/
def Core.sumsDone (k : Core) : Core := if k.vec.sumNow.isEmpty then k else { k with vec := { k.vec with sumNow := [] } }

/-- Vector results due by the end of run cycle t: VEC0's before VEC1's (R96, R169). -/
def Die.vecWrites (d : Die) (c : CoreIx) (t : Nat) : Die :=
  d.modCore c (fun k =>
    let due := k.vec.writes.filter (fun w => decide (w.due ≤ t))
    let k := { k with vec := { k.vec with writes := k.vec.writes.filter (fun w => decide (t < w.due)) } }
    let k := (due.filter (fun w => w.port = .vec0)).foldl VecWrite.apply k
    (due.filter (fun w => w.port = .vec1)).foldl VecWrite.apply k)

/-- Halves whose release falls by the end of run cycle t become free (R83, R112). -/
def Core.releaseHalves (k : Core) (t : Nat) : Core :=
  let due := k.vec.releases.filter (fun r => decide (r.due ≤ t))
  { k with vec := { k.vec with releases := k.vec.releases.filter (fun r => decide (t < r.due)) },
           mtx := { k.mtx with halves := due.foldl (fun hs r => vupd hs r.half (fun _ => {})) k.mtx.halves } }

/-- The last run cycle that is past or runs now. -/
def Die.runNow (d : Die) : Option Nat := if d.heldNow then (if d.clock.rc = 0 then none else some (d.clock.rc - 1)) else some d.clock.rc

/-- VEC_RESULT_WRITE: results and summaries due by now are written (R96, R109). -/
def Die.vecResultWrite (c : CoreIx) (d : Die) : Die :=
  match d.runNow with
  | some t => (d.vecWrites c t).landSummaries c (some t)
  | none => d.landSummaries c none

def execVecResultWrite (a : CoreRef) (s : State) : Out := onDie s a.die (Die.vecResultWrite a.core)

/-- ACC_HALF_RELEASE (R112). -/
def Die.accHalfRelease (c : CoreIx) (d : Die) : Die :=
  match d.runNow with
  | some t => d.modCore c (fun k => k.releaseHalves t)
  | none => d

def execAccHalfRelease (a : CoreRef) (s : State) : Out := onDie s a.die (Die.accHalfRelease a.core)

end Sys2Proof.Machine
end

