-- ==== Sys2Proof/Machine/Streams.lean ====
section
/-! DEFINITION. The stream units and the DRAM wheel (chapter 08): start and completion of descriptors, in-memory
operations, index reads, served sectors, writes to own DRAM, and the commands DESCRIPTOR_START, DESCRIPTOR_COMPLETE and
WHEEL_SERVE. -/

namespace Sys2Proof.Machine

/-! ### Sectors of a descriptor (R172, R178, R225) -/

/-- Sectors in a row. -/
def Desc.perRow (x : Desc) : Nat := x.rowBytes / 64

def Desc.sectors (x : Desc) : Nat := x.rows * x.perRow

/-- Row of own DRAM that row r of the descriptor moves; none for a row zeroed or discarded for its index. -/
def Desc.rowSel (x : Desc) (r : Nat) : Option Nat :=
  if x.kind = 2 then (x.index.getD r (none, false)).1 else some r

/-- Own-DRAM offset and scratchpad address of sector i of a descriptor. -/
def Desc.place (x : Desc) (i : Nat) : Option (Nat × Nat) :=
  let r := i / x.perRow
  let col := i % x.perRow
  (x.rowSel r).map (fun q => (x.dr + q * x.drStride + 64 * col, x.sp + r * x.spStride + 64 * col))

/-- The next sector from index i on that lies on channel j: its index, own-DRAM sector number, scratchpad address. -/
def Desc.find (x : Desc) (j : Fin 16) : Nat → Nat → Option (Nat × Nat × Nat)
  | 0, _ => none
  | fuel + 1, i =>
    match x.place i with
    | some (a, sp) => if chanOf (a / 64) = j then some (i, a / 64, sp) else x.find j fuel (i + 1)
    | none => x.find j fuel (i + 1)

/-- The sector that channel j would take next. -/
def Desc.offered (x : Desc) (j : Fin 16) : Option (Nat × Nat × Nat) := x.find j (x.sectors - x.next[j]) x.next[j]

/-- The head descriptor offers its sectors in run cycle t (R225). -/
def Desc.offering (x : Desc) (t : Nat) : Bool :=
  (match x.started with | some s => decide (s ≤ t) | none => false) && decide (x.offerAt ≤ t)
  && (x.kind ≠ 2 || x.index.length == x.rows)

/-! ### Index elements (R174, R178, R225) -/

/-- The integer an index element holds, where it is valid for a descriptor. -/
def Desc.indexOf (x : Desc) (w : U32) : Option Nat :=
  let v := fp32 w
  let i := v.floor
  if v.eqv (Num.ofInt i) && decide (0 ≤ i ∧ i < 16777216) && decide (x.dr + i.toNat * x.drStride + x.rowBytes ≤ dramBytes)
  then some i.toNat else none

/-- One index element as a row selection, its mark, and whether it sets `idx_bad`: a poisoned index zeroes (or, for a
`std`, discards) its row. -/
def Core.readIndex (k : Core) (x : Desc) (r : Nat) : (Option Nat × Bool) × Bool :=
  let (w, pz) := k.readF32 x.idxBase r
  let ok := x.indexOf w
  if pz then ((none, x.op = .ldd), ok.isNone || x.op = .std) else ((ok, false), ok.isNone)

/-- Zeroed rows of a descriptor. -/
def Desc.zeroRows (x : Desc) : List (Nat × Bool) :=
  (x.index.mapIdx (fun r e => (r, e))).filterMap (fun (r, e) => if e.1.isNone then some (r, e.2) else none)

/-- The descriptor after the index elements `es` are read in run cycle t; the last read fixes what is left to move. -/
def Desc.addIndex (x : Desc) (es : List (Option Nat × Bool)) (t : Nat) : Desc :=
  let x := { x with index := x.index ++ es }
  if x.index.length < x.rows then x
  else
    let n := x.zeroRows.length
    { x with offerAt := t + 1, left := (x.rows - n) * x.perRow, zeroLeft := if x.op = .ldd then n * x.rowBytes else 0 }

/-- Index elements read in one cycle: 1,024 bytes. -/
def indexPerCycle : Nat := 256

/-- The index read of run cycle t, once (R225): the descriptor after it and whether `idx_bad` is set. -/
def Core.indexBeat (k : Core) (x : Desc) (t : Nat) : Desc × Bool :=
  match x.started with
  | none => (x, false)
  | some s =>
    if x.kind = 2 && decide (s ≤ t) && x.index.length == indexPerCycle * (t - s) && decide (x.index.length < x.rows) then
      let n := min indexPerCycle (x.rows - x.index.length)
      let es := (List.range n).map (fun i => k.readIndex x (x.index.length + i))
      (x.addIndex (es.map (·.1)) t, es.any (·.2))
    else (x, false)

/-! ### In-memory operations (R175, R176, R213, R214) -/

/-- A write to the scratchpad by a stream unit. -/
structure SpWrite where
  a  : Nat
  bs : Bytes
  mark : Bool
  deriving DecidableEq, Repr

def Core.spWrites (k : Core) (ws : List SpWrite) : Core := ws.foldl (fun k w => k.writeScratch w.a w.bs w.mark) k

/-- Bytes of `sfill` from byte `off` of its destination. -/
def patternBytes (pattern : U32) (off n : Nat) : Bytes :=
  (List.range n).map (fun i => BitVec.ofNat 8 (pattern.toNat / 2 ^ (8 * ((off + i) % 4))))

/-- One 64-byte line copied, each granule with its mark (R211). -/
def Core.copyLine (k : Core) (dst src : Nat) : List SpWrite :=
  (List.range 4).map (fun g => ⟨dst + 16 * g, k.readScratch (src + 16 * g) 16, k.poisoned (src + 16 * g) 16⟩)

/-- A `scopy` step of n lines from byte `off`: lines in increasing order, each seeing the lines before it (R172). -/
def Core.copyStep (k : Core) (dst src off : Nat) : Nat → List SpWrite
  | 0 => []
  | n + 1 =>
    let ws := k.copyLine (dst + off) (src + off)
    ws ++ (k.spWrites ws).copyStep dst src (off + 64) n

/-- First element index whose byte position is at or beyond byte `b` of a packed row. -/
def elemsWithin (f : Fmt) (b : Nat) : Nat := match f with | .tern => 5 * b | _ => 8 * b / f.width

/-- First byte of element e and the byte after it, in a packed row. -/
def elemSpan (f : Fmt) (e : Nat) : Nat × Nat :=
  match f with
  | .tern => (e / 5, e / 5 + 1)
  | _ => (e * f.width / 8, (e * f.width + f.width + 7) / 8)

/-- Cycles of a `scount` (R175). -/
def Desc.countBeats (x : Desc) (f : Fmt) : Nat :=
  ceilDiv ((elemSpan f (x.cntFirst + x.cntN - 1)).2 - (elemSpan f x.cntFirst).1) 1024

/-- Relation of R176 between an element and the threshold. A threshold that is a NaN satisfies no relation either (DESIGN CHOICE,
log entry 114). -/
def countHit (rel : BitVec 2) (v th : Num) : Bool :=
  match rel.toNat with
  | 0 => th.lt v
  | 1 => v.eqv th
  | _ => v.lt th

/-- Beat i of a `scount`: elements counted, whether one was poisoned, and whether a TERN byte was invalid. The buffer is one
packed row (DESIGN CHOICE, log entry 92). -/
def Core.countBeat (k : Core) (x : Desc) (f : Fmt) (i : Nat) : Nat × Bool × Bool :=
  let b0 := (elemSpan f x.cntFirst).1
  let last := x.cntFirst + x.cntN
  let lo := if i = 0 then x.cntFirst else max x.cntFirst (elemsWithin f (b0 + 1024 * i))
  let hi := min last (elemsWithin f (b0 + 1024 * (i + 1)))
  let th := fp32 x.pattern
  let es := (List.range (hi - lo)).map (fun n => k.readElem x.sp 8589934592 f (lo + n))
  ((es.filter (fun e => countHit x.cntRel (decode f e.code) th)).length, es.any (·.pz), es.any (·.bad))

/-! ### One cycle of a unit -/

/-- What a unit does in a run cycle: its head descriptor after it, writes, and fault bits raised. -/
structure UnitBeat where
  desc   : Desc
  writes : List SpWrite
  idx    : Bool
  tern   : Bool

/-- Lines of the zero rows of an `ldd` from byte `off` on. -/
def Desc.zeroLines (x : Desc) (off n : Nat) : List SpWrite :=
  let zs := x.zeroRows
  (List.range n).filterMap (fun i =>
    let q := off / 64 + i
    (zs[q / x.perRow]?).map (fun (r, pz) => ⟨x.sp + r * x.spStride + 64 * (q % x.perRow), List.replicate 64 0, pz⟩))

/-- The work of run cycle t on a head descriptor, once: in-memory operations, index reads and zero rows. Served sectors
land by `Die.landSectors`. -/
def Core.unitBeat (k : Core) (x : Desc) (t : Nat) : UnitBeat :=
  match x.started with
  | none => ⟨x, [], false, false⟩
  | some s =>
    if t < s then ⟨x, [], false, false⟩
    else
      match x.op with
      | .sfill =>
        if x.done = 1024 * (t - s) then
          let n := min 1024 (x.rows * x.rowBytes - x.done)
          ⟨{ x with done := x.done + n }, [⟨x.sp + x.done, patternBytes x.pattern x.done n, false⟩], false, false⟩
        else ⟨x, [], false, false⟩
      | .scopy =>
        if x.done = 512 * (t - s) then
          let n := min 512 (x.rows * x.rowBytes - x.done)
          ⟨{ x with done := x.done + n }, k.copyStep x.sp x.dr x.done (n / 64), false, false⟩
        else ⟨x, [], false, false⟩
      | .scount =>
        match Fmt.ofCode x.cntFmt with
        | none => ⟨x, [], false, false⟩
        | some f =>
          if x.done = t - s && decide (x.done < x.countBeats f) then
            let (n, pz, bad) := k.countBeat x f x.done
            ⟨{ x with done := x.done + 1, cntAcc := x.cntAcc + n, cntPz := x.cntPz || pz }, [], false, bad⟩
          else ⟨x, [], false, false⟩
      | .ldd =>
        let (x, bad) := k.indexBeat x t
        if decide (0 < x.zeroLeft) && decide (x.offerAt ≤ t) then
          let total := x.zeroRows.length * x.rowBytes
          let off := total - x.zeroLeft
          if off = 1024 * (t - x.offerAt) then
            let n := min 1024 x.zeroLeft
            ⟨{ x with zeroLeft := x.zeroLeft - n }, x.zeroLines off (n / 64), bad, false⟩
          else ⟨x, [], bad, false⟩
        else ⟨x, [], bad, false⟩
      | .std => let (x, bad) := k.indexBeat x t; ⟨x, [], bad, false⟩
      | .str => ⟨x, [], false, false⟩

/-- Update the head descriptor of a unit. -/
def Core.setHead (k : Core) (u : Fin 6) (f : Desc → Desc) : Core :=
  { k with st := vupd k.st u (fun x => { x with places := match x.places with | h :: r => f h :: r | [] => [] }) }

/-- Served sectors of a unit that are written at the end of run cycle t (R229). -/
def Core.dueSectors (k : Core) (u : Fin 6) (t : Nat) : List Served :=
  k.vault.served.filter (fun s => s.unit = u && !s.drop && decide (s.at_ + 24 ≤ t))

/-- The stream writes of one unit in run cycle t, with the die after its descriptor's progress. -/
def Die.streamBeat (d : Die) (c : CoreIx) (t : Nat) (u : Fin 6) : Die × List SpWrite :=
  let k := d.cores[c]
  let land := k.dueSectors u t
  let ws := land.map (fun s => (⟨s.into, s.data, s.pz⟩ : SpWrite))
  let d := d.modCore c (fun k =>
    ({ k with vault := { k.vault with served := k.vault.served.filter (fun s => !(s.unit = u && decide (s.at_ + 24 ≤ t))) } } : Core).setHead u
      (fun x => { x with left := x.left - land.length }))
  match d.cores[c].st[u].places with
  | [] => (d, ws)
  | x :: _ =>
    let b := k.unitBeat x t
    let d := d.modCore c (fun k => k.setHead u (fun _ => b.desc))
    let d := if b.idx then d.fault (.stream c u) idxBad else d
    let d := if b.tern then d.fault (.core c) ternInv else d
    (d, ws ++ b.writes)

/-- Stream writes of all units of a core in run cycle t, in the order `st0` to `st5`: every read comes before them. -/
def Die.streamBeats (d : Die) (c : CoreIx) (t : Nat) : Die × List SpWrite :=
  (List.finRange 6).foldl (fun (d, ws) u => let (d, w) := d.streamBeat c t u; (d, ws ++ w)) (d, [])

/-! ### Start and completion (R175, R219, R225) -/

/-- The head descriptor of a unit starts, if it has not; in the cycle in which the one ahead of it completed it does not
(R175, R225). -/
def Core.startHead (k : Core) (rc : Nat) (u : Fin 6) : Core :=
  if k.st[u].ended then k
  else k.setHead u (fun x => match x.started with | none => { x with started := some rc, offerAt := rc } | some _ => x)

def Core.startHeads (k : Core) (rc : Nat) : Core := (List.finRange 6).foldl (fun k u => k.startHead rc u) k

/-- Everything a descriptor has to write or read is done (R175). -/
def Desc.finished (x : Desc) : Bool :=
  x.started.isSome && match x.op with
    | .sfill | .scopy => decide (x.rows * x.rowBytes ≤ x.done)
    | .scount => match Fmt.ofCode x.cntFmt with | some f => decide (x.countBeats f ≤ x.done) | none => true
    | .str => x.left == 0
    | .ldd | .std => x.left == 0 && x.zeroLeft == 0 && (x.kind ≠ 2 || x.index.length == x.rows)

/-- Designator of the core and job of its plan, for an increment it sends. -/
def Die.jobOf (d : Die) : BitVec 8 := (d.plan.map (·.job)).getD 0

/-- An increment of 1 on S by a unit of the same core, leaving in the present clock cycle (R259). -/
def Die.ownInc (d : Die) (c : CoreIx) (sc : BitVec 6) : Die :=
  let i : Inc := { due := landCycle d.clock.clk c c, sc := fin64 sc, onC := false, amt := 1, rem := false, src := 0,
                   job := d.jobOf, ans := none }
  d.modCore c (fun k => { k with sync := { k.sync with incs := k.sync.incs ++ [i] } })

/-- The summary write of a `scount` in run cycle t (R162, R176). -/
def countSummary (x : Desc) (u : Fin 6) (t : Nat) : SummaryWrite where
  due := t
  onClk := false
  rank := 2
  unit := u.val
  vs := x.cntVsd
  val := BitVec.ofNat 32 x.cntAcc
  ty := 2
  poison := x.cntPz

/-- The head descriptor of a unit completes in run cycle t, where it is finished: what it sets rises with the end of the
cycle (`Core.cycleEnds`; R175, R219, R223). -/
def Die.finishDesc (d : Die) (c : CoreIx) (t : Nat) (u : Fin 6) : Die :=
  match d.cores[c].st[u].places with
  | [] => d
  | x :: rest =>
    if x.finished then
      let d := d.modCore c (fun k =>
        { k with st := vupd k.st u (fun s => { s with places := rest, ndone := s.ndone + 1, ended := true }),
                 vec := if x.op = .scount then { k.vec with sumQ := k.vec.sumQ ++ [countSummary x u t] } else k.vec,
                 hdl := if x.setv && x.live then { k.hdl with sets := k.hdl.sets ++ [⟨u, x.handle, x.half⟩] } else k.hdl })
      let d := if x.setv && !x.live then d.fault (.stream c u) setvLost else d
      if x.sig then d.ownInc c x.sc else d
    else d

/-- The last of what a plan cycle ends with: the valid bits of `setv` rise, whatever `hswap` and `hval` have cleared, and a
completed descriptor's place is free (R175, R185, R219). -/
def Core.cycleEnds (k : Core) : Core :=
  { k with
    hdl := { k.hdl with run := k.hdl.sets.foldl (fun v x => vupd v x.handle (fun r => setHalf r x.half true)) k.hdl.run, sets := [] }
    st := k.st.map (fun (u : Stream) => { u with ended := false }) }

def Die.finishDescs (d : Die) (c : CoreIx) (t : Nat) : Die := (List.finRange 6).foldl (fun d u => d.finishDesc c t u) d

/-! ### The DRAM wheel (R227 to R230) -/

/-- Class of a wheel position: 0 local read, 1 local write, 2 remote. -/
def wheelClass (pcyc : Int) (j : Fin 16) : Nat :=
  let w := ((pcyc + j.val) % 16).toNat
  if w < 10 then 0 else if w < 13 then 1 else 2

/-- Plan cycles since the present window of a channel began; none outside its windows (R203). -/
def Loaded.inWindow (p : Loaded) (c : CoreIx) (j : Fin 16) (pcyc : Int) : Option Nat :=
  let s : Int := p.offsets.getD (16 * c.val + j.val) 0
  if p.delta = 0 || pcyc < s then none
  else
    let n := (pcyc - s).toNat % p.delta
    if n < p.lam then some n else none

/-- A refresh round is in effect on a channel. -/
def Die.inRound (d : Die) (c : CoreIx) (j : Fin 16) : Bool := d.cores[c].vault.chans[j].round.isSome

/-- The channel serves nothing in this clock cycle (R228, R245). A held cycle is closed by a round alone (DESIGN CHOICE, log
entry 99). -/
def Die.chanClosed (d : Die) (c : CoreIx) (j : Fin 16) : Bool :=
  d.inRound c j || (d.frm.frun && !d.heldNow && match d.plan with
    | some p => (p.inWindow c j d.clock.pcyc).isSome
    | none => false)

def Core.modChan (k : Core) (j : Fin 16) (f : Chan → Chan) : Core :=
  { k with vault := { k.vault with chans := vupd k.vault.chans j f } }

/-- The lowest unit whose head descriptor of an operation offers a sector on channel j in run cycle t. -/
def Core.offer (k : Core) (op : DescOp) (j : Fin 16) (t : Nat) : Option (Fin 6 × Nat × Nat × Nat) :=
  (List.finRange 6).findSome? (fun u =>
    match k.st[u].places with
    | x :: _ => if x.op = op && x.offering t then (x.offered j).map (fun (i, sec, sp) => (u, i, sec, sp)) else none
    | [] => none)

/-- A sector served to an `ldd`: from the write-back queue where it is queued (R242), else from the array. -/
def Core.serveRead (k : Core) (j : Fin 16) (t : Nat) : Core :=
  match k.offer .ldd j t with
  | none => k
  | some (u, i, sec, sp) =>
    let s : Served := match k.vault.chans[j].wb.find? (fun q => q.1 = sec) with
      | some q => { unit := u, chan := j, at_ := t, sector := sec, into := sp, data := q.2, pz := false, decoded := true,
                    drop := false }
      | none => { unit := u, chan := j, at_ := t, sector := sec, into := sp, data := k.vault.readSector sec,
                  pz := k.vault.tags.has sec, decoded := false, drop := false }
    let k := k.setHead u (fun x => { x with next := x.next.set j.val (i + 1) j.isLt })
    { k with vault := { k.vault with served := k.vault.served ++ [s] } }

/-- A sector served to a `std`: read from the scratchpad now, written to DRAM by the end of run cycle t + 8. -/
def Core.serveWrite (k : Core) (j : Fin 16) (t : Nat) : Core :=
  match k.offer .std j t with
  | none => k
  | some (u, i, sec, sp) =>
    let w : DramWrite := { due := t + 8, onClk := false, unit := u, sector := sec, data := k.readScratch sp 64,
                           pz := k.poisoned sp 64, src := 0, tag := 0 }
    let k := k.setHead u (fun x => { x with next := x.next.set j.val (i + 1) j.isLt })
    { k with vault := { k.vault with writes := k.vault.writes ++ [w] } }

/-- The oldest waiting remote sector of channel j, written eight clock cycles later. -/
def Core.serveRemote (k : Core) (j : Fin 16) (clk : Nat) : Core :=
  match k.vault.remote.find? (fun r => chanOf r.sector = j) with
  | none => k
  | some r =>
    let w : DramWrite := { due := clk + 8, onClk := true, unit := 0, sector := r.sector, data := r.data, pz := r.pz,
                           src := r.src, tag := r.tag }
    { k with vault := { k.vault with remote := k.vault.remote.erase r, writes := k.vault.writes ++ [w] } }

/-- One channel serves at most one sector of its position's class in this clock cycle; in a held cycle a remote one
(R228, R230). -/
def Die.wheelServe (c : CoreIx) (j : Fin 16) (d : Die) : Die :=
  if d.cores[c].vault.chans[j].servedAt = some d.clock.clk || d.chanClosed c j then d
  else
    let t := d.clock.rc
    let cls := if d.heldNow then 2 else wheelClass d.clock.pcyc j
    d.modCore c (fun k =>
      let k := if cls = 0 then k.serveRead j t else if cls = 1 then k.serveWrite j t else k.serveRemote j d.clock.clk
      k.modChan j (fun x => { x with servedAt := some d.clock.clk }))

def Die.wheelServeAll (d : Die) (c : CoreIx) : Die := (List.finRange 16).foldl (fun d j => Die.wheelServe c j d) d

/-! ### Writes to own DRAM (R229, R242, R243) -/

/-- A write of newer data removes the queued correction of its sector (R242). -/
def Core.dramWrite (k : Core) (w : DramWrite) : Core :=
  let k := { k with vault := k.vault.writeSector w.sector w.data w.pz }
  k.modChan (chanOf w.sector) (fun x => { x with wb := x.wb.filter (fun q => q.1 ≠ w.sector) })

/-- One more sector of a remote descriptor has been written here (R262, R322). -/
def addTally (src : BitVec 23) (tag : BitVec 16) : List Tally → List Tally
  | [] => [{ src := src, tag := tag, written := 1, total := none }]
  | y :: r => if y.src = src && y.tag = tag then { y with written := y.written + 1 } :: r else y :: addTally src tag r

def DramWrite.isDue (w : DramWrite) (t : Option Nat) (clk : Nat) : Bool :=
  if w.onClk then decide (w.due ≤ clk) else match t with | some t => decide (w.due ≤ t) | none => false

/-- Writes to own DRAM due by the end of run cycle t (`std`) and of clock cycle clk (remote sectors). -/
def Core.landWrites (k : Core) (t : Option Nat) (clk : Nat) : Core :=
  let due := k.vault.writes.filter (·.isDue t clk)
  let k := { k with vault := { k.vault with writes := k.vault.writes.filter (fun w => !w.isDue t clk) } }
  due.foldl (fun k w =>
    let k := k.dramWrite w
    if w.onClk then { k with vault := { k.vault with tally := addTally w.src w.tag k.vault.tally } }
    else k.setHead w.unit (fun x => { x with left := x.left - 1 })) k

/-! ### Commands -/

/-- DESCRIPTOR_START: the head descriptor starts, with its first index read if this cycle runs (R225). -/
def Die.descriptorStart (c : CoreIx) (u : Fin 6) (d : Die) : Die :=
  let d := d.modCore c (fun k => k.startHead d.clock.rc u)
  if d.heldNow then d
  else
    match d.cores[c].st[u].places with
    | x :: _ =>
      let (x, bad) := d.cores[c].indexBeat x d.clock.rc
      let d := d.modCore c (fun k => k.setHead u (fun _ => x))
      if bad then d.fault (.stream c u) idxBad else d
    | [] => d

def execDescriptorStart (a : CoreRef) (u : Fin 6) (s : State) : Out := onDie s a.die (Die.descriptorStart a.core u)

/-- DESCRIPTOR_COMPLETE: the writes of a unit due by now, and the completion of its head descriptor where that was its
last; in a plan cycle that runs its valid bit rises with the cycle's end (R175, R185, R219, R223, R229). -/
def Die.descriptorComplete (c : CoreIx) (u : Fin 6) (d : Die) : Die :=
  match d.runNow with
  | none => d
  | some t =>
    let (d, ws) := d.streamBeat c t u
    let d := (d.modCore c (fun k => (k.spWrites ws).landWrites (some t) d.clock.clk)).finishDesc c t u
    if d.heldNow then d.modCore c Core.cycleEnds else d

def execDescriptorComplete (a : CoreRef) (u : Fin 6) (s : State) : Out := onDie s a.die (Die.descriptorComplete a.core u)

def execWheelServe (a : CoreRef) (j : Fin 16) (s : State) : Out := onDie s a.die (Die.wheelServe a.core j)

end Sys2Proof.Machine
end

