-- ==== Sys2Proof/Machine/Dram.lean ====
section
/-! DEFINITION. The DRAM controllers (chapter 09): decoding of sectors, corrections and write-back, refresh rounds,
patrol scrub, repair candidates, rates and bulk clear, and their commands. -/

namespace Sys2Proof.Machine

/-! ### Outcomes of a read (R239) -/

inductive Verdict where
  | clean | corrected | uncorrectable | poisoned
  deriving DecidableEq, Repr

/-- A decoded sector: outcome, data delivered, mark. -/
structure Decoded where
  verdict : Verdict
  data    : Bytes
  pz      : Bool
  deriving DecidableEq, Repr

/-- Difference at one symbol, from all that the read brings for it. -/
def symbolDiff (es : List (Fin 36 × BitVec 16)) (i : Fin 36) : BitVec 16 :=
  es.foldl (fun x e => if e.1 = i then x ^^^ e.2 else x) 0

/-- Symbols in error. -/
def errorWeight (es : List (Fin 36 × BitVec 16)) : Nat := ((List.finRange 36).filter (fun i => symbolDiff es i ≠ 0)).length

/-- Data symbols as they stand with the errors: symbol i is bytes 2i and 2i + 1 (R237). -/
def withErrors (data : Bytes) (es : List (Fin 36 × BitVec 16)) : Bytes :=
  data.mapIdx (fun n b =>
    let x := symbolDiff es (Fin.ofNat 36 (n / 2))
    b ^^^ x.extractLsb' (8 * (n % 2)) 8)

def zeroSector : Bytes := List.replicate 64 0

/-- Tag of a stored sector (R237). -/
def tagOf (pz : Bool) : BitVec 16 := if pz then 0xA5A5 else 0

/-! ### The outer code (R237, R239)

Addition in GF(2^16) is `^^^`. Symbol i of the codeword stands at the power x^(35 − i): log entry 8. -/

/-- Product by α: reduction by x^16 + x^12 + x^3 + x + 1. -/
def gfDouble (a : BitVec 16) : BitVec 16 := (a <<< 1) ^^^ (if a.msb then 0x100B else 0)

/-- Product in the field. -/
def gfMul (a b : BitVec 16) : BitVec 16 :=
  (List.range 16).foldl (fun x i => gfDouble x ^^^ (if bit b (15 - i) then a else 0)) 0

/-- α to the n. -/
def gfAlpha (n : Nat) : BitVec 16 := iter gfDouble n 1

/-- Inverse of a number of the field that is not zero: its power 2^16 − 2. -/
def gfInv (a : BitVec 16) : BitVec 16 :=
  ((List.range 15).foldl (fun (x : BitVec 16 × BitVec 16) _ => let q := gfMul x.2 x.2; (gfMul x.1 q, q)) (1, a)).1

/-- The generator (x + 1)(x + α)(x + α²)(x + α³): its coefficients below x^4, the constant one first. -/
def rsGenerator : List (BitVec 16) :=
  (List.range 4).foldl (fun (g : List (BitVec 16)) j =>
    ((0 :: g).zip (g ++ [0])).map (fun (x : BitVec 16 × BitVec 16) => x.1 ^^^ gfMul (gfAlpha j) x.2)) [1]

/-- Check symbols 32 to 35 of data symbols 0 to 31: the remainder by the generator. -/
def checkSymbols (data : List (BitVec 16)) : List (BitVec 16) :=
  let g := (rsGenerator.take 4).reverse
  data.foldl (fun (r : List (BitVec 16)) d =>
    let f := d ^^^ r.headD 0
    (((r.drop 1) ++ [0]).zip g).map (fun (x : BitVec 16 × BitVec 16) => x.1 ^^^ gfMul f x.2)) [0, 0, 0, 0]

/-- Data symbol i: bytes 2i and 2i + 1. -/
def dataSymbols (data : Bytes) : List (BitVec 16) := (List.range 32).map (fun i => BitVec.ofNat 16 (leAt data (2 * i) 2))

/-- Unit 4 of a stored sector: check symbols, tag, and reserved bits of zero (R237). -/
def storedUnit4 (data : Bytes) (pz : Bool) : BitVec 128 :=
  BitVec.ofNat 128 (leNat ((checkSymbols (dataSymbols data)).flatMap (fun x => leBytes 2 x.toNat)) + (tagOf pz).toNat * 2 ^ 64)

/-- Locator of symbol i. -/
def locator (i : Fin 36) : BitVec 16 := gfAlpha (35 - i.val)

/-- Syndrome j of an error pattern: its value at α^j. -/
def syndrome (es : List (Fin 36 × BitVec 16)) (j : Nat) : BitVec 16 :=
  (List.finRange 36).foldl (fun x i =>
    let e := symbolDiff es i
    if e = 0 then x else x ^^^ gfMul e (gfAlpha (j * (35 - i.val)))) 0

/-- The one or two symbols, with what is to be added to each, that give the four syndromes: none where no such pair
exists, the empty list where the syndromes are zero. -/
def rsSolve (s0 s1 s2 s3 : BitVec 16) : Option (List (Fin 36 × BitVec 16)) :=
  if s0 = 0 && s1 = 0 && s2 = 0 && s3 = 0 then some []
  else
    match (List.finRange 36).find? (fun i =>
      let x := locator i
      s0 ≠ 0 && s1 = gfMul s0 x && s2 = gfMul s1 x && s3 = gfMul s2 x) with
    | some i => some [(i, s0)]
    | none => (List.finRange 36).findSome? (fun i => (List.finRange 36).findSome? (fun k =>
        let x := locator i
        let y := locator k
        let p := gfMul x y
        if i.val < k.val && s2 = gfMul (x ^^^ y) s1 ^^^ gfMul p s0 && s3 = gfMul (x ^^^ y) s2 ^^^ gfMul p s1 then
          let e := gfMul (s1 ^^^ gfMul s0 y) (gfInv (x ^^^ y))
          if e = 0 || s0 ^^^ e = 0 then none else some [(i, e), (k, s0 ^^^ e)]
        else none))

/-- The decoder of R239 on a stored sector and what the read brings. A pattern of five or more symbols is decoded as the
code decodes it: it passes as clean, is miscorrected, or is found uncorrectable. -/
def decodeSector (data : Bytes) (pz : Bool) (e : SectorErr) : Decoded :=
  let w := errorWeight e.symbols
  let raw := withErrors data e.symbols
  if tagOf pz ^^^ e.tagFlip ≠ 0 then ⟨.poisoned, raw, true⟩
  else if w = 0 then ⟨.clean, data, false⟩
  else if w ≤ 2 then ⟨.corrected, data, false⟩
  else if w ≤ 4 then ⟨.uncorrectable, zeroSector, true⟩
  else
    let s := syndrome e.symbols
    match rsSolve (s 0) (s 1) (s 2) (s 3) with
    | some [] => ⟨.clean, raw, false⟩
    | some fix => ⟨.corrected, withErrors raw fix, false⟩
    | none => ⟨.uncorrectable, zeroSector, true⟩

/-! ### Repair candidates (R248, R249) -/

def entryBank (e : BitVec 32) : Nat := bits e.toNat 3 0
def entryRow (e : BitVec 32) : Nat := bits e.toNat 16 4
def entryChan (e : BitVec 32) : Nat := bits e.toNat 25 17
def entrySpare (e : BitVec 32) : Nat := bits e.toNat 30 26

/-- Bank and row of a sector within its channel (R236). -/
def sectorBank (sec : Nat) : Nat := sec / 16 % 16
def sectorRow (sec : Nat) : Nat := sec / 4096

def repairEntry (bank row ch spare : Nat) : BitVec 32 :=
  BitVec.ofNat 32 (field 0 4 bank + field 4 13 row + field 17 9 ch + field 26 5 spare + 2 ^ 31)

/-- Marigold adds a failing row to the die's MRAM map, or sets `rep_full` (R249). A row whose entry already waits for its
load is not added again. -/
def State.candidate (s : State) (a : CoreRef) (j : Fin 16) (sec : Nat) : State :=
  let ch := 16 * a.core.val + j.val
  let bank := sectorBank sec
  let row := sectorRow sec
  let map := s.hub.repair[a.die]
  let same (e : BitVec 32) : Bool := bit e 31 && entryBank e == bank && entryRow e == row && entryChan e == ch
  if map.any (fun e => same e && !s.dies[a.die].repair.contains e) then s
  else
    let used := (map.filter (fun e => bit e 31 && entryBank e == bank && entryChan e == ch)).map entrySpare
    match (List.range 32).find? (fun x => !used.contains x) with
    | none => s.modDie a.die (fun d => d.fault (.chan a.core j) repFull)
    | some x => s.modHub (fun h =>
        Hub.event { h with repair := vupd h.repair a.die (· ++ [repairEntry bank row ch x]) } 2 0x08
          (unitIx a.die.val a.core.val j.val) 249 0xFF [])

/-! ### A sector served to a stream (R239 to R242) -/

/-- The oldest served sector of a channel whose decode cycle has come. -/
def Die.toDecode (d : Die) (c : CoreIx) (j : Fin 16) : Option Nat :=
  d.cores[c].vault.served.findIdx? (fun s => s.chan = j && !s.decoded && d.dueRun (s.at_ + 16))

/-- Put corrected data in the write-back queue (R242), also where a write has reached the sector since the serve (DESIGN CHOICE,
log entry 98). -/
def Die.queueBack (d : Die) (c : CoreIx) (j : Fin 16) (sec : Nat) (data : Bytes) : Die :=
  let q := d.cores[c].vault.chans[j].wb
  if q.any (fun x => x.1 = sec) then
    d.modCore c (fun k => k.modChan j (fun x => { x with wb := updWhere (fun y => y.1 = sec) (fun _ => (sec, data)) x.wb }))
  else if q.length < 8 then d.modCore c (fun k => k.modChan j (fun x => { x with wb := x.wb ++ [(sec, data)] }))
  else d.fault (.chan c j) wbDrop

/-- Record an uncorrectable outcome in the scrub report (R254). -/
def Chan.uncorrectable (x : Chan) (sec : Nat) (scrub : Bool) : Chan :=
  { x with ueCnt := satAdd x.ueCnt 1, ueSec := BitVec.ofNat 21 (sec / 16), ueSrc := scrub, ueValid := true }

/-- What an outcome of a read for the wheel does: counts, correction hold, write-back, fault. -/
def Die.readOutcome (d : Die) (c : CoreIx) (j : Fin 16) (sec : Nat) (r : Decoded) : Die :=
  match r.verdict with
  | .corrected =>
    let d := d.modCore c (fun k => k.modChan j (fun x => { x with ocRd := satAdd x.ocRd 1 }))
    let d := d.queueBack c j sec r.data
    if d.frm.frun then d.timedHold 8 24 else d
  | .uncorrectable => (d.modCore c (fun k => k.modChan j (·.uncorrectable sec false))).fault (.chan c j) ueRead
  | _ => d

/-- The decode of one served sector (R240, R241): outside a frame a corrected sector is written 24 cycles later. Where the frame's
end cuts its hold short it is written at run cycle t + 24 of its serve, with no further 24 cycles (DESIGN CHOICE, log entry
118). -/
def Die.decodeServed (d : Die) (c : CoreIx) (j : Fin 16) (i : Nat) (e : SectorErr) : Die × Option (Nat × Decoded) :=
  match d.cores[c].vault.served[i]? with
  | none => (d, none)
  | some s =>
    let r := decodeSector s.data s.pz e
    let late := if r.verdict = .corrected && !d.frm.frun then 24 else 0
    let s' := { s with data := r.data, pz := r.pz, decoded := true, at_ := s.at_ + late }
    let d := d.modCore c (fun k =>
      ({ k with vault := { k.vault with served := k.vault.served.set i s' } } : Core).modChan j
        (fun x => { x with icCnt := satAdd x.icCnt e.inner }))
    (d.readOutcome c j s.sector r, some (s.sector, r))

/-- SECTOR_DECODE. -/
def execSectorDecode (a : CoreRef) (j : Fin 16) (err : SectorErr) (s : State) : Out :=
  match s.dies[a.die].toDecode a.core j with
  | none => .next s
  | some i =>
    let (d, r) := s.dies[a.die].decodeServed a.core j i err
    let s := s.modDie a.die (fun _ => d)
    match r with
    | some (sec, x) => .next (if x.verdict = .uncorrectable then s.candidate a j sec else s)
    | none => .next s

/-! ### Refresh rounds (R244 to R246) -/

/-- Counts in a round of 1.2 µs. -/
def roundCounts : Nat := 300

/-- Interval of a channel's layer: 16 µs at double rate, else 32 µs. -/
def Die.interval (d : Die) (j : Fin 16) : Nat := if bit d.dbl (j.val / 4) then 4000 else 8000

/-- A channel's interval has run out. -/
def Die.intervalOut (d : Die) (c : CoreIx) (j : Fin 16) : Bool :=
  decide (d.cores[c].vault.chans[j].since + d.interval j ≤ d.clock.tc.toNat)

/-- The DRAM of the die is in service: refresh runs. -/
def Die.dramOn (d : Die) : Bool := d.pow.trained && !d.pow.selfRef

/-- A round starts on a channel: its interval restarts and its queue is written back (R242, R245). Outside frames the queue
drains at a round's start alone (DESIGN CHOICE, log entry 98). -/
def Die.startRound (d : Die) (c : CoreIx) (j : Fin 16) (kind : RoundKind) : Die :=
  let tc := d.clock.tc.toNat
  d.modCore c (fun k =>
    let k := (k.vault.chans[j].wb).foldl (fun (k : Core) q => { k with vault := k.vault.writeSector q.1 q.2 false }) k
    k.modChan j (fun x => { x with wb := [], round := some ⟨kind, tc, d.clock.tcFrac⟩, since := tc }))

/-- What one patrol scrub leaves (R247): the core and what the outcome was. -/
def Core.scrubStep (k : Core) (j : Fin 16) (e : SectorErr) : Core × Option Decoded :=
  let x := k.vault.chans[j]
  let sec := 16 * x.patPos.toNat + j.val
  let wrap := decide (x.patPos.toNat = 2 ^ 21 - 1)
  let k := k.modChan j (fun x =>
    { x with patPos := x.patPos + 1, patPass := if wrap then x.patPass + 1 else x.patPass, scrubAt := x.scrubAt + msCounts 32,
             fixedPrev := if wrap then x.fixedNow else x.fixedPrev, fixedNow := if wrap then [] else x.fixedNow })
  match x.wb.find? (fun q => q.1 = sec) with
  | some q =>
    (({ k with vault := k.vault.writeSector sec q.2 false } : Core).modChan j
      (fun x => { x with wb := x.wb.filter (fun y => y.1 ≠ sec) }), none)
  | none =>
    let r := decodeSector (k.vault.readSector sec) (k.vault.tags.has sec) e
    let k := k.modChan j (fun x => { x with icCnt := satAdd x.icCnt e.inner })
    match r.verdict with
    | .corrected =>
      (({ k with vault := k.vault.writeSector sec r.data false } : Core).modChan j (fun y =>
        { y with ocSc := satAdd y.ocSc 1, fixedNow := if wrap then y.fixedNow else y.fixedNow.add sec,
                 fixedPrev := if wrap then y.fixedPrev.add sec else y.fixedPrev }), some r)
    | .uncorrectable =>
      (({ k with vault := k.vault.writeSector sec zeroSector true } : Core).modChan j (·.uncorrectable sec true), some r)
    | _ => (k, some r)

/-- The patrol scrub due to a channel, if one is due, in the round that has just started (R247, R249). -/
def State.scrubDue (s : State) (a : CoreRef) (j : Fin 16) (e : SectorErr) : State :=
  let d := s.dies[a.die]
  let x := d.cores[a.core].vault.chans[j]
  if d.clock.tc.toNat < x.scrubAt then s
  else
    let sec := 16 * x.patPos.toNat + j.val
    let (k, r) := d.cores[a.core].scrubStep j e
    let s := s.modDie a.die (fun d => d.modCore a.core (fun _ => k))
    match r with
    | some o =>
      match o.verdict with
      | .uncorrectable => (s.modDie a.die (fun d => d.fault (.chan a.core j) scrubUe)).candidate a j sec
      | .corrected => if x.fixedPrev.has sec then s.candidate a j sec else s
      | _ => s
    | none => s

/-- Core and channel of a die channel 16·c + j (R234). -/
def chanCore (ch : ChanIx) : CoreIx := Fin.ofNat 32 (ch.val / 16)
def chanIn (ch : ChanIx) : Fin 16 := Fin.ofNat 16 ch.val

def noErr : SectorErr := { inner := 0, symbols := [], tagFlip := 0 }

/-- A round of a channel with the scrub due to it. The queue is written back first, so a queued sector that is due is read and
decoded like any other (DESIGN CHOICE, log entry 117). -/
def State.round (s : State) (n : DieIx) (ch : ChanIx) (kind : RoundKind) (e : SectorErr) : State :=
  let s := s.modDie n (fun d => d.startRound (chanCore ch) (chanIn ch) kind)
  s.scrubDue ⟨n, chanCore ch⟩ (chanIn ch) e

/-- A window of the plan begins on a channel in a plan cycle (R245). -/
def Die.windowAt (d : Die) (c : CoreIx) (j : Fin 16) (pcyc : Int) : Bool :=
  match d.plan with
  | some p => p.inWindow c j pcyc == some 0
  | none => false

/-- A window of the plan begins on a channel in the present plan cycle. -/
def Die.windowStart (d : Die) (c : CoreIx) (j : Fin 16) : Bool := d.frm.frun && !d.heldNow && d.windowAt c j d.clock.pcyc

/-- A window that begins while a round still runs extends that round by no time, and the interval restarts (R245). -/
def Die.restartInterval (d : Die) (c : CoreIx) (j : Fin 16) : Die :=
  d.modCore c (fun k => k.modChan j (fun x => { x with since := d.clock.tc.toNat }))

/-- A window begins on a channel: a round starts, or the one that still runs counts as started now. -/
def State.windowBegins (s : State) (n : DieIx) (ch : ChanIx) (err : SectorErr) : State :=
  match s.dies[n].cores[chanCore ch].vault.chans[chanIn ch].round with
  | some _ => s.modDie n (fun d => d.restartInterval (chanCore ch) (chanIn ch))
  | none => s.round n ch .window err

/-- REFRESH_INTERVAL_ROUND: outside a frame, when the interval runs out. -/
def State.intervalRound (s : State) (n : DieIx) (ch : ChanIx) (err : SectorErr) : State :=
  let d := s.dies[n]
  if !d.frm.frun && d.dramOn && d.intervalOut (chanCore ch) (chanIn ch)
      && (d.cores[chanCore ch].vault.chans[chanIn ch].round).isNone then s.round n ch .outside err
  else s

def execRefreshIntervalRound (d : DieIx) (ch : ChanIx) (err : SectorErr) (s : State) : Out := .next (s.intervalRound d ch err)

/-- Counts before a tick at which every channel starts a round (R245). -/
def preTickCounts : Nat := 325

/-- The die's counter stands less than 325 counts before its next tick value. -/
def Die.beforeTick (d : Die) : Bool :=
  decide (d.frm.nextTick ≤ d.clock.tc.toNat + preTickCounts) && decide (d.clock.tc.toNat < d.frm.nextTick)

/-- The rounds before the coming tick are due: the die is outside a frame less than 325 counts before its next tick value,
and they have not begun. A frame that ends then with a tick fallen during it leaves them out (`Die.frameEnd`). -/
def Die.preTick (d : Die) : Bool :=
  !d.frm.frun && d.dramOn && d.beforeTick && d.frm.preDone ≠ some d.frm.nextTick

def errFor (errs : List (ChanIx × SectorErr)) (ch : ChanIx) : SectorErr := ((errs.find? (fun e => e.1 = ch)).map (·.2)).getD noErr

/-- PRE_TICK_REFRESH: every channel of the die starts a round. -/
def State.preTickRound (s : State) (n : DieIx) (errs : List (ChanIx × SectorErr)) : State :=
  if s.dies[n].preTick then
    (List.finRange 512).foldl (fun s ch => s.round n ch .outside (errFor errs ch))
      (s.modDie n (fun d => { d with frm := { d.frm with preDone := some d.frm.nextTick } }))
  else s

def execPreTickRefresh (d : DieIx) (errs : List (ChanIx × SectorErr)) (s : State) : Out := .next (s.preTickRound d errs)

/-- Last cycle of a hold whose end is not yet known. -/
def openEnd : Nat := 2 ^ 64

/-- A channel needs a forced round: its interval is out inside a frame, no round of its own is under way or begins with a
window of this plan cycle, and no forced round is on its way (R246). -/
def Die.forcedDue (d : Die) (ch : ChanIx) : Bool :=
  d.frm.frun && d.dramOn && d.forced.isNone && d.intervalOut (chanCore ch) (chanIn ch)
  && (d.cores[chanCore ch].vault.chans[chanIn ch].round).isNone && !d.windowStart (chanCore ch) (chanIn ch)

/-- The fault of a forced round, recorded once per frame (R246). -/
def Die.forcedFault (d : Die) (c : CoreIx) (j : Fin 16) : Die :=
  let declared := (d.plan.map (·.double)).getD false
  let b := if bit d.dbl (j.val / 4) && !declared then trefr else refrLate
  if d.once.any (fun k => k.1 = 0x08 && k.2.2.1 = 246) then d.setFault (.chan c j) b.bit
  else d.fault (.chan c j) b

/-- FORCED_REFRESH: the cause is raised now; every channel's round starts four cycles later. -/
def State.forcedRound (s : State) (n : DieIx) (ch : ChanIx) (errs : List (ChanIx × SectorErr)) : State :=
  let d := s.dies[n]
  if d.forcedDue ch then
    let v := d.clock.clk
    s.modDie n (fun d =>
      let d := { d with forced := some ⟨v + 4, errs⟩,
                        hold := { d.hold with timed := d.hold.timed ++ [(⟨9, v + 4, openEnd⟩ : TimedHold)] } }
      d.forcedFault (chanCore ch) (chanIn ch))
  else s

def execForcedRefresh (d : DieIx) (ch : ChanIx) (errs : List (ChanIx × SectorErr)) (s : State) : Out :=
  .next (s.forcedRound d ch errs)

/-- The clock cycle of a forced round has come: every channel of the die starts a round, with the scrub due to it, and its
interval restarts (R246). Where the frame has ended meanwhile the rounds are outside it. -/
def State.forcedBegins (s : State) (n : DieIx) : State :=
  match s.dies[n].forced with
  | none => s
  | some f =>
    if s.dies[n].clock.clk < f.start then s
    else
      let kind : RoundKind := if s.dies[n].frm.frun then .forced else .outside
      (List.finRange 512).foldl (fun s ch => s.round n ch kind (errFor f.errs ch)) (s.modDie n (fun d => { d with forced := none }))

/-- A channel's round has run its time, to the fraction of a count. -/
def Die.roundOver (d : Die) (c : CoreIx) (j : Fin 16) : Bool :=
  match d.cores[c].vault.chans[j].round with
  | some r => decide (r.start + roundCounts < d.clock.tc.toNat)
      || (d.clock.tc.toNat == r.start + roundCounts && decide (r.frac ≤ d.clock.tcFrac))
  | none => false

/-- A forced round is under way on some channel. -/
def Die.forcedOn (d : Die) : Bool :=
  d.cores.toList.any (fun k => k.vault.chans.toList.any (fun x => match x.round with | some r => r.kind = .forced | none => false))

/-- The clock cycle that has most lately begun to end: the one in progress where it began a period ago or more (it is
stretched), else the one before it. -/
def Clock.lastClk (k : Clock) : Nat := if k.phase < 16 then k.clk - 1 else k.clk

/-- REFRESH_ROUND_END: the round of a channel ends after 1.2 µs; the last forced round ends its hold with the clock cycle
in which it ends (R244, R246). -/
def Die.roundEnd (c : CoreIx) (j : Fin 16) (d : Die) : Die :=
  if d.roundOver c j then
    let d := d.modCore c (fun k => k.modChan j (fun x => { x with round := none }))
    if d.hold.timed.any (fun h => h.cause = 9 && h.last = openEnd) && !d.forcedOn && d.forced.isNone then
      { d with hold := { d.hold with timed := updWhere (fun h => h.cause = 9 && h.last = openEnd) (fun h => { h with last := d.clock.lastClk }) d.hold.timed } }
    else d
  else d

def execRefreshRoundEnd (d : DieIx) (ch : ChanIx) (s : State) : Out := onDie s d (Die.roundEnd (chanCore ch) (chanIn ch))

/-! ### Rate, clear (R244, R250) -/

/-- Channels of a layer. -/
def layerChans (l : Fin 4) : List (Fin 16) := (List.finRange 16).filter (fun j => j.val / 4 == l.val)

/-- The comparison of R244 on the four sensors of a layer, in eighths of a degree. -/
def Die.rateCompare (l : Fin 4) (d : Die) : Die :=
  let t (i : Nat) : Int := d.temps.toList.getD (4 * l.val + i) 0
  let ts := [t 0, t 1, t 2, t 3]
  let m : BitVec 4 := BitVec.ofNat 4 (2 ^ l.val)
  let dbl := if ts.any (fun x => decide (680 < x)) then d.dbl ||| m
    else if ts.all (fun x => decide (x ≤ 664)) then d.dbl &&& ~~~m else d.dbl
  let d := { d with dbl := dbl }
  if ts.any (fun x => decide (760 < x)) then
    d.forCores (fun d c => (layerChans l).foldl (fun d j => d.fault (.chan c j) dramHot) d)
  else d

/-- Counts in the 2.2 ms of a bulk clear. -/
def clearCounts : Nat := 550000

/-- A cleared vault group: zeros, no tags, empty queues; the patrol position stays (R250). -/
def Vault.clear (v : Vault) : Vault :=
  { v with mem := [], tags := [], chans := v.chans.map (fun x => { x with wb := [] }) }

/-- The clear of R250 completes; after training the die is ready (R442). -/
def Die.clearDone (d : Die) : Die :=
  { d with cores := d.cores.map (fun k => { k with vault := k.vault.clear }),
           pow := { d.pow with clearing := false, leaving := false,
                               result := if d.pow.result = .notUp && d.pow.trained then .ready else d.pow.result } }

/-- BULK_CLEAR_COMPLETE. -/
def State.bulkClear (s : State) (n : DieIx) : State :=
  let p := s.dies[n].pow
  if p.clearing && decide (p.clearAt + clearCounts ≤ s.now) then s.modDie n Die.clearDone else s

def execBulkClearComplete (d : DieIx) (s : State) : Out := .next (s.bulkClear d)

end Sys2Proof.Machine
end

