-- ==== Sys2Proof/Machine/Packets.lean ====
section
/-! DEFINITION. What leaves a die (R318 to R323): flits, increment records, message packets, store segments and their
seals, and the answers to sends (R283). -/

namespace Sys2Proof.Machine

/-! ### Sealing (AES-256-GCM as key stream and tag, log entry 24) -/

def xorBytes (a b : Bytes) : Bytes := List.zipWith (· ^^^ ·) a b

/-- Ciphertext and 16-byte tag. -/
def gcmSeal (key nonce aad plain : Bytes) : Bytes × Bytes :=
  let c := xorBytes plain (slice (Config.gcmStream key nonce plain.length) 0 plain.length)
  (c, slice (Config.gcmTag key nonce aad c) 0 16)

/-- Clear text where the tag verifies. -/
def gcmOpen (key nonce aad cipher tag : Bytes) : Option Bytes :=
  if slice (Config.gcmTag key nonce aad cipher) 0 16 = tag then
    some (xorBytes cipher (slice (Config.gcmStream key nonce cipher.length) 0 cipher.length))
  else none

/-- The bytes of a context string. -/
def strBytes (s : String) : Bytes := s.toList.map (fun c => BitVec.ofNat 8 c.toNat)

/-- The first n bytes of SHAKE256. -/
def shakeN (n : Nat) (x : Bytes) : Bytes := slice (Config.shake n x) 0 n

/-- K_trf and K_host(s) of R411 from K_J. -/
def trafficKey (kj : Bytes) : Bytes := shakeN 32 (kj ++ strBytes "traffic")
def hostKey (kj : Bytes) (session : BitVec 16) : Bytes := shakeN 32 (kj ++ strBytes "host" ++ leBytes 2 session.toNat)

/-- The nonce of R321: `psrc` in 32 bits, sealer field, packet counter. -/
def packetNonce (psrc : BitVec 23) (sealer : Nat) (pctr : BitVec 48) : Bytes :=
  leBytes 4 psrc.toNat ++ leBytes 2 sealer ++ leBytes 6 pctr.toNat

/-! ### Designators across maps (R335) -/

/-- Physical designator of a virtual one; none is unreachable. -/
def Router.physOf (r : Router) (v : Nat) : Option (BitVec 23) :=
  match r.toPhysical 0 (desX v), r.toPhysical 1 (desY v), r.toPhysical 2 (desZ v) with
  | some x, some y, some z => some (designator x y z (desCore v).val)
  | _, _, _ => none

/-- Virtual designator of a physical one, coordinate by coordinate. -/
def Router.virtOf (r : Router) (p : Nat) : BitVec 23 :=
  designator (r.toVirtual 0 (desX p)) (r.toVirtual 1 (desY p)) (r.toVirtual 2 (desZ p)) (desCore p).val

/-- Physical designator of a core of a die. -/
def Die.physDesignator (d : Die) (c : CoreIx) : BitVec 23 :=
  Machine.designator d.router.phys.1 d.router.phys.2.1 d.router.phys.2.2 c.val

/-! ### Flits (R318) -/

/-- A flit as a router forms it: sequence numbers, credits and check word are the link end's. -/
def mkFlit (fk : BitVec 4) (vl : BitVec 2) (ng : Nat) (lst : Bool) (dst : BitVec 23) (job : BitVec 8) (body : Bytes)
    (marks : BitVec 14) : Flit :=
  { fk := fk, vl := vl, dl := false, kep := false, ng := BitVec.ofNat 4 ng, lst := lst, fseq := 0, fack := 0, cvl := 0,
    ccl := false, cred := 0, hops := 0, dst := dst, job := job, body := slice body 0 224, fcrc := 0, trailer := [],
    marks := marks, ctr := 0, msg := none }

/-- Put flits into the core-side input queue of the die's router (R333). -/
def Die.routeIn (d : Die) (fs : List Flit) : Die :=
  { d with router := { d.router with inq := vupd d.router.inq (6 : Fin 7) (· ++ fs) } }

/-! ### Increment records (R323) -/

structure Rec where
  idst  : BitVec 23
  isc   : BitVec 6
  iamt  : BitVec 8
  ik    : BitVec 3
  icode : BitVec 4
  isrc  : BitVec 23
  ijob  : BitVec 8
  iq    : BitVec 4
  itag  : BitVec 16
  iseq  : BitVec 32
  deriving DecidableEq, Repr

def Rec.bytes (r : Rec) : Bytes :=
  leBytes 16 (field 0 23 r.idst.toNat + field 23 6 r.isc.toNat + field 29 8 r.iamt.toNat + field 38 3 r.ik.toNat
    + field 41 4 r.icode.toNat + field 45 23 r.isrc.toNat + field 68 8 r.ijob.toNat + field 76 4 r.iq.toNat
    + field 80 16 r.itag.toNat + field 96 32 r.iseq.toNat)

def recOf (b : Bytes) : Rec :=
  let x := leAt b 0 16
  let f (hi lo n : Nat) : BitVec n := BitVec.ofNat n (bits x hi lo)
  { idst := f 22 0 23, isc := f 28 23 6, iamt := f 36 29 8, ik := f 40 38 3, icode := f 44 41 4, isrc := f 67 45 23,
    ijob := f 75 68 8, iq := f 79 76 4, itag := f 95 80 16, iseq := f 127 96 32 }

/-- Send a record: a sync-lane flit for the die of its destination, a physical designator (R323). -/
def Die.sendRec (d : Die) (r : Rec) (msg : Option MsgId := none) : Die :=
  d.routeIn [{ mkFlit 3 1 1 true r.idst r.ijob r.bytes 0 with msg := msg }]

/-! ### Message headers (R277) -/

/-- The 16 bytes of a header; `kind` 01 message, 10 wrap marker, 11 void record. -/
def MsgHdr.bytes (h : MsgHdr) (kind : Nat) : Bytes :=
  leBytes 16 (field 0 2 kind + field 2 1 (b2n h.ho) + field 3 1 (b2n h.pz) + field 4 4 h.q.toNat + field 8 8 h.len.toNat
    + field 16 16 h.tag.toNat + field 32 23 h.src.toNat + field 64 32 h.seq.toNat + field 96 16 h.frm.toNat)

def hdrOf (b : Bytes) : MsgHdr :=
  let x := leAt b 0 16
  { ho := bits x 2 2 = 1, pz := bits x 3 3 = 1, q := BitVec.ofNat 4 (bits x 7 4), len := BitVec.ofNat 8 (bits x 15 8),
    tag := BitVec.ofNat 16 (bits x 31 16), src := BitVec.ofNat 23 (bits x 54 32), seq := BitVec.ofNat 32 (bits x 95 64),
    frm := BitVec.ofNat 16 (bits x 111 96) }

/-- Payload granules of a message. -/
def MsgHdr.granules (h : MsgHdr) : Nat := granulesOf h.len

/-- Bytes of a message with its header. -/
def MsgHdr.size (h : MsgHdr) : Nat := 16 + 16 * h.granules

/-- 128-byte flits of a message on the mesh (R181). -/
def MsgHdr.flits (h : MsgHdr) : Nat := ceilDiv h.size 128

/-- What identifies a core's message. -/
def MsgHdr.id (h : MsgHdr) : MsgId := { ho := false, q := h.q, tag := h.tag, seq := h.seq, ses := 0 }

/-! ### Packets (R320, R321, R414) -/

def packetHeader (pk : Nat) (psrc : BitVec 23) (pn poff : Nat) (ptag : BitVec 16) (pctr : BitVec 48) : Bytes :=
  leBytes 16 (field 0 2 pk + field 2 23 psrc.toNat + field 25 5 pn + field 32 31 poff + field 64 16 ptag.toNat
    + field 80 48 pctr.toNat)

/-- Cut a packet's bytes into flits, with the marks of its granules and the message its head begins. -/
def packetFlits (vl : BitVec 2) (dst : BitVec 23) (job : BitVec 8) (bytes : Bytes) (marks : List Bool) (msg : Option MsgId) :
    List Flit :=
  let bs := chunks 224 (bytes.length + 1) bytes
  bs.mapIdx (fun i b =>
    let ms := (List.range 14).filter (fun g => marks.getD (14 * i + g) false)
    let f := mkFlit (if i = 0 then 1 else 2) vl (ceilDiv b.length 16) (i + 1 == bs.length) dst job b
      (ms.foldl (fun x g => x ||| BitVec.ofNat 14 (2 ^ g)) 0)
    { f with msg := if i = 0 then msg else none })

/-- A sealed message packet: on the host lane the message header stays clear and is authenticated (R414). -/
def messagePacket (key : Bytes) (psrc : BitVec 23) (pctr : BitVec 48) (sealer : Nat) (host : Bool) (h : MsgHdr)
    (body : List (Bytes × Bool)) : Bytes × List Bool :=
  let ph := packetHeader 1 psrc 0 0 0 pctr
  let mh := h.bytes 1
  let pl := body.flatMap (·.1)
  let nonce := packetNonce psrc sealer pctr
  let marks := [false, false] ++ body.map (·.2) ++ [false]
  if host then
    let (c, t) := gcmSeal key nonce (ph ++ mh) pl
    (ph ++ mh ++ c ++ t, marks)
  else
    let (c, t) := gcmSeal key nonce ph (mh ++ pl)
    (ph ++ c ++ t, marks)

/-- A sealed store segment of consecutive sectors. -/
def segmentPacket (key : Bytes) (psrc : BitVec 23) (pctr : BitVec 48) (off : Nat) (tag : BitVec 16)
    (sectors : List (Bytes × Bool)) : Bytes × List Bool :=
  let ph := packetHeader 2 psrc (sectors.length - 1) off tag pctr
  let (c, t) := gcmSeal key (packetNonce psrc 0 pctr) ph (sectors.flatMap (·.1))
  (ph ++ c ++ t, false :: sectors.flatMap (fun s => [s.2, s.2, s.2, s.2]) ++ [false])

/-! ### Answers to sends (R259, R283) -/

def Die.pushInc (d : Die) (c : CoreIx) (i : Inc) : Die :=
  d.modCore c (fun k => { k with sync := { k.sync with incs := k.sync.incs ++ [i] } })

/-- The counter an answer goes to: the `ack` or `nak` of the send it belongs to. -/
def Rings.answerCounter (r : Rings) (a : Answer) : Option (BitVec 6) :=
  (r.outs.find? (fun o => o.seq = a.seq && o.q = a.ring && o.tag = a.tag)).map (fun o => if a.code = 0 then o.ack else o.nak)

/-- An answer to a send of core `src` of this die, landing in clock cycle `due`; `by_` is the core that answers. -/
def Die.answerOwn (d : Die) (src by_ : CoreIx) (a : Answer) (due : Nat) : Die :=
  match d.cores[src].rings.answerCounter a with
  | some sc => d.pushInc src { due := due, sc := fin64 sc, onC := false, amt := 1, rem := src ≠ by_,
                               src := d.designator by_, job := d.jobOf, ans := some a }
  | none => d

/-- An answer to a sender on another die or to a bridge, as a record; `m` is the message it answers (R283, R323). -/
def Die.answerAway (d : Die) (into : BitVec 23) (by_ : CoreIx) (job : BitVec 8) (m : MsgId) (a : Answer) : Die :=
  d.sendRec { idst := into, isc := 0, iamt := 0, ik := if a.code = 0 then 1 else 2, icode := a.code,
              isrc := d.physDesignator by_, ijob := job, iq := a.ring, itag := a.tag, iseq := a.seq } (some m)

/-- What identifies a message in its answer: a host's message carries its session in `src` (R288). -/
def Answer.of (a : Answer) (ho : Bool) (src : BitVec 23) : MsgId :=
  { ho := ho, q := a.ring, tag := a.tag, seq := a.seq, ses := if ho then src.extractLsb' 0 16 else 0 }

/-- Answer a message of a sender, a host with `ho`, at core `by_` in the present clock cycle u (R283). -/
def Die.answer (d : Die) (by_ : CoreIx) (from_ : Option (BitVec 23)) (ho : Bool) (src : BitVec 23) (job : BitVec 8) (a : Answer) :
    Die :=
  match from_ with
  | some p => d.answerAway p by_ job (a.of ho src) a
  | none => d.answerOwn (desCore src.toNat) by_ a (landCycle d.clock.clk by_ (desCore src.toNat))

/-! ### Leaving over the outbound router link (R195, R322) -/

/-- Take the next packet counter of the router (R321). -/
def Die.nextPctr (d : Die) : BitVec 48 × Die := (d.router.pctr, { d with router := { d.router with pctr := d.router.pctr + 1 } })

/-- Send a message of core c as a packet to a physical designator, on the data lane or for a host session (R320, R349). -/
def Die.packMessage (d : Die) (c : CoreIx) (dst : BitVec 23) (host : Option (BitVec 16)) (m : MsgIn) : Die :=
  let (n, d) := d.nextPctr
  let key := match host with | some s => hostKey d.keyReg s | none => trafficKey d.keyReg
  let psrc := d.physDesignator c
  let hdr := { m.hdr with src := psrc, pz := m.hdr.pz || m.body.any (·.2) }
  let (bs, marks) := messagePacket key psrc n 0 host.isSome hdr m.body
  let id : MsgId := { hdr.id with ses := host.getD 0 }
  d.routeIn (packetFlits (if host.isSome then 3 else 0) dst m.job bs marks (some id))

/-- The router of the sending die cannot route a message: NAK 0x7 to the sending core (R283, R338, R349). -/
def Die.noRoute (d : Die) (c : CoreIx) (h : MsgHdr) : Die :=
  d.answerOwn c c { code := 7, ring := h.q, tag := h.tag, seq := h.seq } (landCycle d.clock.clk c c)

/-- A complete message of core c for a designator leaves (R335). -/
def Die.sendMessage (d : Die) (c : CoreIx) (m : MsgIn) (dest : Nat) : Die :=
  match d.router.physOf dest with
  | some p => d.packMessage c p none m
  | none => (d.noRoute c m.hdr).fault .router rtUnreach

/-- Close a store segment: one sealed packet (R322). -/
def Die.closeSegment (d : Die) (g : Segment) : Die :=
  let d := { d with router := { d.router with segs := d.router.segs.filter (fun x => !(x.core = g.core && x.dtag = g.dtag)) } }
  if g.sectors.isEmpty then d
  else
    match d.router.physOf g.dest.toNat with
    | some p =>
      let (n, d) := d.nextPctr
      let (bs, marks) := segmentPacket (trafficKey d.keyReg) (d.physDesignator g.core) n g.off g.dtag g.sectors
      d.routeIn (packetFlits 0 p d.jobOf bs marks none)
    | none => d.fault .router rtUnreach

/-- One sector of an `str` reaches the router; it joins its descriptor's segment, which closes at 24 sectors, at the end
of a row or with the last sector (R322). After the last segment goes the store-completion record. -/
def Die.storeSector (d : Die) (c : CoreIx) (x : Desc) (off : Nat) (data : Bytes) (pz rowEnd last : Bool) : Die :=
  let g : Segment := match d.router.segs.find? (fun g => g.core = c && g.dtag = x.dtag) with
    | some g => { g with sectors := g.sectors ++ [(data, pz)], idleAt := d.clock.clk + 32 }
    | none => { core := c, dtag := x.dtag, dest := x.dest, off := off, sectors := [(data, pz)], total := x.sectors,
                rsc := x.rsc, idleAt := d.clock.clk + 32 }
  let d := { d with router := { d.router with
    segs := d.router.segs.filter (fun y => !(y.core = c && y.dtag = x.dtag)) ++ [g] } }
  let d := if decide (24 ≤ g.sectors.length) || rowEnd || last then d.closeSegment g else d
  if last then
    match d.router.physOf x.dest.toNat with
    | some p => d.sendRec { idst := p, isc := x.rsc, iamt := 0, ik := 4, icode := 0, isrc := d.physDesignator c,
                            ijob := d.jobOf, iq := 0, itag := x.dtag, iseq := BitVec.ofNat 32 x.sectors }
    | none => d.fault .router rtUnreach
  else d

/-- STORE_SEGMENT_CLOSE: 32 cycles without a further sector close a core's segments (R322). -/
def Die.segmentClose (c : CoreIx) (d : Die) : Die :=
  (d.router.segs.filter (fun g => g.core = c && decide (g.idleAt ≤ d.clock.clk))).foldl Die.closeSegment d

def execStoreSegmentClose (a : CoreRef) (s : State) : Out := onDie s a.die (Die.segmentClose a.core)

end Sys2Proof.Machine
end

