-- ==== Sys2Proof/Machine/Sync.lean ====
section
/-! DEFINITION. Sync counters and waits (chapter 10): landing of increments, captures, store completions, the evaluation
of `wait`, `pwait` and `qsel`, and the commands INCREMENT_LAND, STORE_COMPLETION and WAIT_TIMEOUT. -/

namespace Sys2Proof.Machine

def maxCount : Nat := 2 ^ 48 - 1

/-! ### One cycle's increments on one counter (R258) -/

/-- What R258 makes of a counter: its new value and the steps that changed one, in their order (kind code of R274). -/
structure Applied where
  ctr   : Counter
  kinds : List Nat
  deriving DecidableEq, Repr

/-- Steps 1 to 5 of R258 with the sums of the S and C increments. -/
def Counter.apply (x : Counter) (ds dc : Nat) : Applied :=
  let s := x.s.toNat + ds
  let c := x.c.toNat + dc
  let top := decide (maxCount < s) || decide (maxCount < c)
  let s := min s maxCount
  let c := min c maxCount
  let unf := decide (s < c)
  let c := min c s
  let ovf := decide (x.depth.toNat < s - c)
  let s := min s (c + x.depth.toNat)
  { ctr := { x with s := BitVec.ofNat 48 s, c := BitVec.ofNat 48 c },
    kinds := (if top then [2] else []) ++ (if unf then [1] else []) ++ (if ovf then [0] else []) }

/-- Fault bit of an event kind of R274. -/
def counterBit : Nat → FBit
  | 0 => scOvf | 1 => scUnf | 2 => scTop | _ => scUndecl

/-- Capture of R274, while it holds nothing: the lowest source among the other cores whose increments landed. -/
def CtrCapture.take (x : CtrCapture) (sc : Fin 64) (kind : Nat) (incs : List Inc) : CtrCapture :=
  if x.valid then x
  else
    let srcs := (incs.filter (·.rem)).map (·.src.toNat)
    { sc := BitVec.ofNat 6 sc.val, kind := BitVec.ofNat 2 kind, rem := !srcs.isEmpty,
      src := BitVec.ofNat 23 (srcs.foldl min (srcs.headD 0)), valid := true }

/-- Set a counter fault: captured while the capture is empty, and recorded once per counter, kind and frame (R258, R263). A later
step of the frame captures again where the capture has been rearmed (DESIGN CHOICE, log entry 100). -/
def Die.counterFault (d : Die) (c : CoreIx) (sc : Fin 64) (kind : Nat) (incs : List Inc) : Die :=
  let b := counterBit kind
  let d := d.modCore c (fun k => { k with sync := { k.sync with cap := k.sync.cap.take sc kind incs } })
  let d := d.setFault (.sync c) b.bit
  let key := (b.kind, unitIx d.ix.val c.val (sc.val + 1), b.rule, BitVec.ofNat 8 b.bit)
  if d.once.contains key then d
  else Die.event { d with once := key :: d.once } b.sev b.kind (unitIx d.ix.val c.val 0) b.rule (BitVec.ofNat 8 b.bit)
    (faultDet (d.faultOf (.sync c)) (d.captureOf (.sync c)))

/-- An increment is discarded at the die (R263): no plan, a load in progress, or another job's plan. -/
def Die.foreign (d : Die) (i : Inc) : Bool :=
  match d.plan with
  | none => true
  | some p => d.pow.clearing || (i.rem && i.job ≠ p.job)

/-- The answer to a send reaches its core (R181, R284). -/
def Rings.answered (r : Rings) (a : Answer) : Rings :=
  let r := { r with outs := r.outs.filter (fun o => o.seq ≠ a.seq), nout := r.nout - 1 }
  if a.code = 0 then r
  else { r with nkLast := a.code, nkRing := a.ring, nkTag := a.tag, nkCnt := r.nkCnt + 1 }

/-- Sum of the amounts on one count. -/
def amounts (incs : List Inc) (onC : Bool) : Nat := ((incs.filter (fun i => i.onC == onC)).map (·.amt)).foldl (· + ·) 0

/-- Every increment on a counter that lands by the end of the present clock cycle, applied together (R258, R263). -/
def Die.landCounter (d : Die) (c : CoreIx) (sc : Fin 64) : Die :=
  let due (i : Inc) : Bool := decide (i.sc = sc) && decide (i.due ≤ d.clock.clk)
  let all := d.cores[c].sync.incs.filter due
  if all.isEmpty then d
  else
    let bad := all.filter d.foreign
    let good := all.filter (fun i => !d.foreign i)
    let d := d.modCore c (fun k => { k with
      sync := { k.sync with incs := k.sync.incs.filter (fun i => !due i) },
      rings := (good.filterMap (·.ans)).foldl Rings.answered k.rings })
    let d := if !bad.isEmpty && d.plan.isSome then d.fault (.sync c) scForeign else d
    if good.isEmpty then d
    else
      let x := d.cores[c].sync.ctr[sc]
      if x.decl then
        let r := x.apply (amounts good false) (amounts good true)
        let d := d.modCore c (fun k => { k with sync := { k.sync with ctr := vupd k.sync.ctr sc (fun _ => r.ctr) } })
        r.kinds.foldl (fun d kind => d.counterFault c sc kind good) d
      else d.counterFault c sc 3 good

/-- Counters of a core with an increment due. -/
def Die.dueCounters (d : Die) (c : CoreIx) : List (Fin 64) :=
  ((d.cores[c].sync.incs.filter (fun i => decide (i.due ≤ d.clock.clk))).map (·.sc)).eraseDups

def Die.landIncs (d : Die) (c : CoreIx) : Die := (d.dueCounters c).foldl (fun d sc => d.landCounter c sc) d

/-- INCREMENT_LAND. -/
def execIncrementLand (a : CoreRef) (sc : Fin 64) (s : State) : Out := onDie s a.die (fun d => d.landCounter a.core sc)

/-! ### Store completion (R179, R262) -/

/-- Attach a completion record to its tally. -/
def setTotal (src : BitVec 23) (tag : BitVec 16) (t : StoreTotal) : List Tally → List Tally
  | [] => [{ src := src, tag := tag, written := 0, total := some t }]
  | y :: r => if y.src = src && y.tag = tag then { y with total := some t } :: r else y :: setTotal src tag t r

def Tally.ready (clk : Nat) (y : Tally) : Bool :=
  match y.total with
  | some t => decide (t.total ≤ y.written) && decide (t.due ≤ clk)
  | none => false

/-- The signal of a tally whose sectors are all written. -/
def Tally.signal (clk : Nat) (y : Tally) : Option Inc :=
  y.total.map (fun t => { due := clk, sc := fin64 t.rsc, onC := false, amt := 1, rem := true, src := y.src, job := t.job, ans := none })

/-- Signals of stores whose every sector is written and whose own latency has passed (R262). -/
def Die.storesDone (d : Die) (c : CoreIx) : Die :=
  let clk := d.clock.clk
  let ready := d.cores[c].vault.tally.filter (·.ready clk)
  if ready.isEmpty then d
  else d.modCore c (fun k => { k with
    vault := { k.vault with tally := k.vault.tally.filter (fun y => !y.ready clk) },
    sync := { k.sync with incs := k.sync.incs ++ ready.filterMap (·.signal clk) } })

/-- STORE_COMPLETION: the signals of completed stores land. -/
def execStoreCompletion (a : CoreRef) (s : State) : Out := onDie s a.die (fun d => (d.storesDone a.core).landIncs a.core)

/-! ### Waits (R182, R183, R264 to R268, R286) -/

def ringBase (r : Ring) : Nat := 4096 * r.base.toNat
def ringSize (r : Ring) : Nat := 4096 * 2 ^ r.qsz.toNat

/-- Scratchpad byte of a ring pointer (R276). -/
def ringAddr (r : Ring) (p : Nat) : Nat := ringBase r + p % ringSize r

/-- A ring holds a visible record. -/
def Ring.waiting (r : Ring) : Bool := r.en && r.wp ≠ r.rp

/-- The ring a `qsel` selects (R286). -/
def Rings.select (r : Rings) (mask : BitVec 16) (rot : Bool) : Option (Fin 16) :=
  let order := if rot then (List.finRange 16).map (fun i => Fin.ofNat 16 (r.rot.toNat + 1 + i.val)) else List.finRange 16
  order.find? (fun q => bit mask q.val && (r.q[q]).waiting)

/-- The condition of a wait on the present state (R264). -/
def Core.waitMet (k : Core) : WaitFor → Bool
  | .count sc e => decide (e.toNat ≤ k.sync.ctr[sc].s.toNat)
  | .word _ addr cond ref => condInt cond true (BitVec.ofNat 32 (leNat (k.readScratch addr 4))) ref
  | .ring mask rot => (k.rings.select mask rot).isSome

/-- The head word of R286 for the record at `rp`. -/
def Core.headWord (k : Core) (q : Fin 16) : U32 :=
  let r := k.rings.q[q]
  let at0 := k.readScratch (ringAddr r r.rp.toNat) 16
  let wrap := leAt at0 0 1 % 4 == 2
  let b := if wrap then k.readScratch (ringBase r) 16 else at0
  let h := hdrOf b
  BitVec.ofNat 32 (field 0 9 (1 + h.granules) + field 9 1 (b2n wrap) + field 10 1 (b2n h.ho) + field 11 1 (b2n h.pz)
    + field 12 1 (b2n (leAt b 0 1 % 4 == 3)) + field 16 16 h.tag.toNat)

/-- A summary of a SYN word slot, at the end of the present clock cycle. -/
def synSummary (clk : Nat) (vs : Fin 8) (val : U32) (pz : Bool) : SummaryWrite where
  due := clk
  onClk := true
  rank := 1
  unit := 0
  vs := vs
  val := val
  ty := 2
  poison := pz

/-- The summaries a wait writes when it ends, and the rotation pointer it leaves (R183, R265, R268, R286). -/
def Core.waitEnds (k : Core) (clk : Nat) (w : Waiting) (met : Bool) : Core :=
  match w.what with
  | .count _ _ =>
    if w.vsw then { k with vec := { k.vec with sumQ := k.vec.sumQ ++ [synSummary clk w.vsd (if met then 1 else 0) false] } } else k
  | .word _ addr _ _ =>
    if w.vsw then
      { k with vec := { k.vec with sumQ := k.vec.sumQ ++ [synSummary clk w.vsd (if met then 1 else 0) (k.poisoned addr 4)] } }
    else k
  | .ring mask rot =>
    let sel := if met then k.rings.select mask rot else none
    let v : U32 := match sel with | some q => BitVec.ofNat 32 q.val | none => 16
    let h : U32 := match sel with | some q => k.headWord q | none => 0
    { k with
      vec := { k.vec with sumQ := k.vec.sumQ ++ [synSummary clk w.vsd v false, synSummary clk (w.vsd + 1) h false] },
      rings := match sel with
        | some q => if rot then { k.rings with rot := BitVec.ofNat 4 q.val } else k.rings
        | none => k.rings }

/-- Give the hold request of a waiting slot its release (R88, R265). -/
def Die.releaseWait (d : Die) (c : CoreIx) (due : Int) (v : Nat) : Die :=
  let mine (r : HoldReq) : Bool := r.core = c && r.slot = 7 && r.forCyc == due && r.release.isNone
  { d with hold := { d.hold with reqs := updWhere mine (fun r => { r with release := some v }) d.hold.reqs } }

/-- A wait ends: its summaries, its hold request's release at v, and the timeout's fault. -/
def Die.endWait (d : Die) (c : CoreIx) (w : Waiting) (met : Bool) (v : Nat) : Die :=
  let clk := d.clock.clk
  let d := d.modCore c (fun k =>
    let k := k.waitEnds clk w met
    { k with sync := { k.sync with waits := k.sync.waits.erase w } })
  let d := d.releaseWait c w.due v
  if met then d else d.fault (.sync c) wtTmo

/-- Evaluation at the start of a clock cycle after the first (R264, R265). -/
def Die.evalWaits (d : Die) (c : CoreIx) : Die :=
  let clk := d.clock.clk
  (d.cores[c].sync.waits.filter (fun w => decide (w.v0 < clk))).foldl (fun d w =>
    if d.cores[c].waitMet w.what then d.endWait c w true clk else d) d

/-- Last cycle of a wait (R264). -/
def Waiting.last (w : Waiting) : Nat := w.v0 + w.tmo - 1

/-- The waits of a core whose last cycle is the present one. -/
def Die.lastWaits (d : Die) (c : CoreIx) : List Waiting :=
  d.cores[c].sync.waits.filter (fun w => w.tmo ≠ 0 && decide (w.last ≤ d.clock.clk))

/-- The final evaluation of waits at the end of their last cycle, after that cycle's landings (R264, R265). -/
def Die.judgeWaits (d : Die) (c : CoreIx) (ws : List Waiting) : Die :=
  ws.foldl (fun d w => d.endWait c w (d.cores[c].waitMet w.what) (d.clock.clk + 1)) d

def Die.finalWaits (d : Die) (c : CoreIx) : Die := d.judgeWaits c (d.lastWaits c)

/-- The wait's own hold request holds the present cycle. -/
def Die.holdsItself (d : Die) (c : CoreIx) (w : Waiting) : Bool :=
  w.due == d.clock.pcyc && d.hold.reqs.any (fun q => q.core = c && q.slot = 7 && q.forCyc == w.due && q.release.isNone)

/-- A `sig` or `cons` of the core's own that issues in the present plan cycle lands at its end (R185). -/
def Die.incIssues (d : Die) (c : CoreIx) : Bool :=
  d.cores[c].ctl.checked.any (fun x => decide (x.due ≤ d.clock.pcyc) && match x.op with | .sig _ _ _ _ | .cons _ _ => true | _ => false)

/-- What a SYN word slot waits for (R182), bound on the core as it stands when the slot issues (R212). -/
def Core.waitFor (k : Core) (r : Vector U32 16) : SlotOp → Option (WaitFor × Nat × Fin 8 × Bool)
  | .wait f =>
    let e := BitVec.ofNat 48 ((regAt r f.so 0).toNat + (regAt r f.so 1).toNat % 65536 * 2 ^ 32)
    some (.count (fin64 f.sc) e, f.tmo.toNat, fin8 f.vsd, f.vsw)
  | .pwait f =>
    some (.word (fin64 f.h) (k.baseOf f.h.toNat + (regAt r f.so 0).toNat) f.cond (regAt r f.so 1), f.tmo.toNat, fin8 f.vsd, f.vsw)
  | .qsel f => some (.ring f.qmask f.rot, f.tmo.toNat, fin8 f.vsd, true)
  | _ => none

/-- First evaluation of a waiting slot due in plan cycle `due`, in the present clock cycle (R264): met, it writes its
summary; else it waits and requests a hold. `k` is the core as it stands when the slot issues: its binding is the
slot's (R212). -/
def Die.startWait (d : Die) (c : CoreIx) (k : Core) (due : Int) (op : SlotOp) (r : Vector U32 16) : Die :=
  match k.waitFor r op with
  | none => d
  | some (what, tmo, vsd, vsw) =>
    let clk := d.clock.clk
    let w : Waiting := { what := what, v0 := clk, tmo := tmo, vsd := vsd, vsw := vsw, due := due }
    if d.cores[c].waitMet what then d.modCore c (fun k => k.waitEnds clk w true)
    else
      let q : HoldReq := { forCyc := due, core := c, slot := 7, cause := causeOf op, release := none }
      let d := d.modCore c (fun k => { k with sync := { k.sync with waits := k.sync.waits ++ [w] } })
      { d with hold := { d.hold with reqs := d.hold.reqs ++ [q] } }

end Sys2Proof.Machine
end

