-- ==== Sys2Proof/Machine/Net.lean ====
section
/-! DEFINITION. The on-die network (R194 to R199): routes, slot tables, and the choice and injection of flits. -/

namespace Sys2Proof.Machine

/-! ### Link-directions and routes (R194, R195) -/

def link (n : Nat) : Fin 136 := Fin.ofNat 136 n

/-- Link-directions along a row from column a to column b. -/
def alongRow (row a b : Nat) : List (Fin 136) :=
  if a ≤ b then (List.range (b - a)).map (fun i => link (2 * (7 * row + (a + i))))
  else (List.range (a - b)).map (fun i => link (2 * (7 * row + (a - 1 - i)) + 1))

/-- Link-directions along a column from row a to row b. -/
def alongCol (col a b : Nat) : List (Fin 136) :=
  if a ≤ b then (List.range (b - a)).map (fun i => link (56 + 2 * (8 * (a + i) + col)))
  else (List.range (a - b)).map (fun i => link (56 + 2 * (8 * (a - 1 - i) + col) + 1))

/-- The fixed route between two cores: along the row, then along the column. -/
def meshRoute (a b : CoreIx) : List (Fin 136) := alongRow (rowOf a) (colOf a) (colOf b) ++ alongCol (colOf b) (rowOf a) (rowOf b)

/-- Outbound router link of a core. -/
def outLink (c : CoreIx) : Fin 136 := link (104 + c.val)

/-! ### Slot tables (R196) -/

def Net.slots (n : Net) : SlotTables := if n.act then n.slots1 else n.slots0

/-- Position of a plan cycle, taken mod P. -/
def slotPos (period : Nat) (pcyc : Int) : Nat := (pcyc % (period : Int)).toNat

/-- The core that a link-direction belongs to in a plan cycle; none where it is idle. -/
def Net.owner (n : Net) (l : Fin 136) (pcyc : Int) : Option Nat :=
  let t := n.slots
  let e := (t.tables.getD l.val []).getD (slotPos t.period pcyc) 0
  if bit e 5 then some (e.toNat % 32) else none

def Net.gives (n : Net) (l : Fin 136) (pcyc : Int) (c : CoreIx) : Bool := n.owner l pcyc == some c.val

/-! ### The choice of flits (R181, R197) -/

/-- The three paths of a core. -/
inductive NetPath where
  | mesh (into : CoreIx) | router | own
  deriving DecidableEq, Repr

/-- What is injected: the next flit of a send, by its place in the list, or of a unit's head `str`. -/
inductive Inject where
  | send (n : Nat) (p : NetPath)
  | store (u : Fin 6) (p : NetPath)
  deriving DecidableEq, Repr

/-- Path to a designator from core c. -/
def Die.pathTo (d : Die) (c : CoreIx) (dest : Nat) : NetPath :=
  if d.isLocal dest then (if desCore dest = c then .own else .mesh (desCore dest)) else .router

def Die.sendPath (d : Die) (c : CoreIx) (s : Send) : NetPath := if s.f.hd then .router else d.pathTo c s.dest.toNat

/-- Paths already taken in this plan cycle. -/
structure PathUse where
  mesh   : Bool := false
  router : Bool := false
  own    : Bool := false
  deriving DecidableEq, Repr

def PathUse.taken (u : PathUse) : NetPath → Bool
  | .mesh _ => u.mesh | .router => u.router | .own => u.own

def PathUse.take (u : PathUse) : NetPath → PathUse
  | .mesh _ => { u with mesh := true } | .router => { u with router := true } | .own => { u with own := true }

/-- The slot tables permit a flit of core c on a path in the present plan cycle. -/
def Die.permits (d : Die) (c : CoreIx) : NetPath → Bool
  | .mesh into => match meshRoute c into with
    | l :: _ => d.net.gives l d.clock.pcyc c
    | [] => true
  | .router => d.net.gives (outLink c) d.clock.pcyc c
  | .own => true

def Die.mayInject (d : Die) (c : CoreIx) (u : PathUse) (p : NetPath) : Bool := !u.taken p && d.permits c p

/-- Flits of sends, taken in issue order: on each path the first that is permitted (R181, R197; DEDUCED, log entry 35). -/
def Die.pickSends (d : Die) (c : CoreIx) : List Send → Nat → PathUse → List Inject × PathUse
  | [], _, u => ([], u)
  | s :: r, n, u =>
    let p := d.sendPath c s
    if d.mayInject c u p then
      let (xs, u) := d.pickSends c r (n + 1) (u.take p)
      (.send n p :: xs, u)
    else d.pickSends c r (n + 1) u

/-- Flits of remote stores, `st0` to `st5`. -/
def Die.pickStores (d : Die) (c : CoreIx) : List (Fin 6) → PathUse → List Inject
  | [], _ => []
  | w :: r, u =>
    match d.cores[c].st[w].places with
    | x :: _ =>
      let p := d.pathTo c x.dest.toNat
      if x.op = .str && x.started.isSome && decide (0 < x.left) && d.mayInject c u p then
        .store w p :: d.pickStores c r (u.take p)
      else d.pickStores c r u
    | [] => d.pickStores c r u

/-- The flits that a core injects in the present plan cycle (R197); a core that has ended its frame injects in the next
one (R290). -/
def Die.injections (d : Die) (c : CoreIx) : List Inject :=
  if !d.frm.frun || d.cores[c].ctl.ended || d.heldNow || d.cores[c].rings.injAt = some d.clock.rc then []
  else
    let (xs, u) := d.pickSends c d.cores[c].rings.sends 0 {}
    xs ++ d.pickStores c (List.finRange 6) u

/-! ### What a flit carries -/

/-- Payload granules in flit i of a message: first and one past the last. -/
def flitGranules (g i : Nat) : Nat × Nat := (8 * i - 1, min g (8 * i + 7))

/-- Payload granules of flit i of a send, with their marks, read now (R181). -/
def Core.sendGranules (k : Core) (s : Send) : List (Bytes × Bool) :=
  let (lo, hi) := flitGranules s.gran s.sent
  (List.range (hi - lo)).map (fun i =>
    let a := s.src + 16 * (lo + i)
    (k.readScratch a 16, k.poisoned a 16))

/-- Header of a send's message (R277, R278). -/
def Die.sendHeader (d : Die) (c : CoreIx) (s : Send) : MsgHdr :=
  { ho := false, pz := false, q := s.f.q, len := s.f.len, tag := s.f.tag, src := d.designator c, seq := s.seq, frm := s.frm }

/-- Sectors (index in the descriptor, scratchpad address, destination offset) that the next flit of an `str` carries. -/
def Desc.flitSectors (x : Desc) : List (Nat × Nat × Nat) :=
  let n := x.sectors
  ((List.range (min 2 x.left)).map (fun i => n - x.left + i)).map (fun i =>
    (i, x.sp + i / x.perRow * x.spStride + 64 * (i % x.perRow), x.dr + i / x.perRow * x.drStride + 64 * (i % x.perRow)))

/-- Scratchpad bytes that an injection reads (first byte, bytes), with its unit: 6 is NET. -/
def Core.injectReads (k : Core) : Inject → Nat × List (Nat × Nat)
  | .send n _ => match k.rings.sends[n]? with
    | some s => let (lo, hi) := flitGranules s.gran s.sent; (6, [(s.src + 16 * lo, 16 * (hi - lo))])
    | none => (6, [])
  | .store u _ => match k.st[u].places with
    | x :: _ => (u.val, x.flitSectors.map (fun (_, a, _) => (a, 64)))
    | [] => (u.val, [])

/-! ### Injection -/

/-- Put a flit on the mesh with its whole route. -/
def Die.toMesh (d : Die) (c into : CoreIx) (load : FlitLoad) : Die :=
  let f : MeshFlit := { src := c, dst := into, route := meshRoute c into, load := load, ghost := false }
  { d with net := { d.net with mesh := d.net.mesh ++ [f] } }

/-- A flit of a message reaches the router (R195): with the last one the message leaves, or, for a host session, waits
for the bridge to be found. -/
def Die.toRouter (d : Die) (c : CoreIx) (s : Send) (part : MsgIn) (last : Bool) : Die :=
  let o : OutMsg := match d.router.outMsgs.find? (fun o => o.core = c && o.m.hdr.seq = s.seq) with
    | some o => { o with m := { o.m with body := o.m.body ++ part.body } }
    | none => { core := c, m := part, dest := s.dest, hd := s.f.hd }
  let rest := d.router.outMsgs.filter (fun o => !(o.core = c && o.m.hdr.seq = s.seq))
  if last && !s.f.hd then
    Die.sendMessage { d with router := { d.router with outMsgs := rest } } c o.m s.dest.toNat
  else { d with router := { d.router with outMsgs := rest ++ [o] } }

/-- Inject the next flit of a send. -/
def Die.injectSend (d : Die) (c : CoreIx) (n : Nat) (p : NetPath) : Die :=
  match d.cores[c].rings.sends[n]? with
  | none => d
  | some s =>
    let part : MsgIn := { hdr := d.sendHeader c s, from_ := none, job := d.jobOf, body := d.cores[c].sendGranules s }
    let d := d.modCore c (fun k => { k with rings := { k.rings with sends := k.rings.sends.set n { s with sent := s.sent + 1 } } })
    match p with
    | .mesh into => d.toMesh c into (.msg part s.sent s.flits)
    | .own => d.modCore c (fun k => { k with rings := { k.rings with arrive := k.rings.arrive ++ [.mesh part s.sent s.flits] } })
    | .router => d.toRouter c s part (s.sent + 1 == s.flits)

/-- The completion record of an on-die store: its signal leaves with the last flit (R259, R262). -/
def Die.storeLeft (d : Die) (c into : CoreIx) (x : Desc) : Die :=
  let t : StoreTotal := { due := landCycle d.clock.clk c into, total := x.sectors, rsc := x.rsc, job := d.jobOf }
  d.modCore into (fun k => { k with vault := { k.vault with tally := setTotal (d.designator c) x.dtag t k.vault.tally } })

/-- Inject the next flit of a unit's head `str`: up to two sectors, read now (R179, R229). -/
def Die.injectStore (d : Die) (c : CoreIx) (u : Fin 6) (p : NetPath) : Die :=
  match d.cores[c].st[u].places with
  | [] => d
  | x :: _ =>
    let k := d.cores[c]
    let secs := x.flitSectors.map (fun (i, a, off) => (i, off, k.readScratch a 64, k.poisoned a 64))
    let left := x.left - secs.length
    let d := d.modCore c (fun k => k.setHead u (fun y => { y with left := left }))
    match p with
    | .mesh into =>
      let d := d.toMesh c into (.store (secs.map (fun (_, off, b, pz) => (off, b, pz))) x.dtag)
      if left = 0 then d.storeLeft c into x else d
    | .router =>
      secs.foldl (fun d (i, off, b, pz) =>
        d.storeSector c x off b pz (i % x.perRow + 1 == x.perRow) (i + 1 == x.sectors)) d
    | .own => d

/-- FLIT_INJECT inside the die: every permitted flit of a core in the present plan cycle. -/
def Die.flitInject (c : CoreIx) (d : Die) : Die :=
  let xs := d.injections c
  if xs.isEmpty then d
  else
    let d := xs.foldl (fun d x => match x with
      | .send n p => d.injectSend c n p
      | .store u p => d.injectStore c u p) d
    d.modCore c (fun k => { k with rings := { k.rings with
      sends := k.rings.sends.filter (fun s => decide (s.sent < s.flits)), injAt := some d.clock.rc } })

end Sys2Proof.Machine
end

