-- ==== Sys2Proof/Machine/Banks.lean ====
section
/-! DEFINITION. Scratchpad accesses of a plan cycle (R210) and the bank conflicts among them (R202, R205), and the banks
that the schedule leaves free for arrivals (R200). -/

namespace Sys2Proof.Machine

/-- Accesses of one unit in a cycle: the lines (byte address ÷ 64) it touches, each once. -/
abbrev UnitLines := List Nat

/-- Distinct lines of some byte ranges. -/
def rangeLines (rs : List (Nat × Nat)) : UnitLines := (rs.flatMap (fun (a, n) => linesOf a n)).eraseDups

/-- Byte ranges of elements e to e + n − 1 of a buffer in rows of g. -/
def elemRanges (f : Fmt) (base g e n : Nat) : List (Nat × Nat) :=
  if n = 0 then []
  else
    let r0 := e / g
    let r1 := (e + n - 1) / g
    (List.range (r1 - r0 + 1)).map (fun i =>
      let r := r0 + i
      let lo := if i = 0 then e % g else 0
      let hi := if r = r1 then (e + n - 1) % g else g - 1
      let (a, _) := elemBytes f lo
      let (b, m) := elemBytes f hi
      (base + r * rowBytes f g + a, b + m - a))

/-- Ranges of the scales of elements e to e + n − 1. -/
def scaleRanges (s : BoundScale) (g e n : Nat) : List (Nat × Nat) :=
  if n = 0 then []
  else
    (if scaledBlock s.mode then
      let b := blockSize s.mode
      [(s.blk + e / b, (e + n - 1) / b - e / b + 1)] else [])
    ++ (if scaledRow s.mode then [(s.row + 4 * (e / g), 4 * ((e + n - 1) / g - e / g + 1))] else [])

def operandRanges (b : Bound) (s : BoundScale) (e n : Nat) : List (Nat × Nat) :=
  match Fmt.ofCode b.fmt with
  | some f => elemRanges f b.base b.g e n ++ scaleRanges s b.g e n
  | none => []

/-- Bytes that a beat of n elements of a vector instruction reads. -/
def VecRun.reads (r : VecRun) (n : Nat) : List (Nat × Nat) :=
  let off (f : BitVec 4) (j : Nat) : Nat := (regAt r.regs f j).toNat
  match r.op with
  | .elem op f =>
    let u := elemUse op
    (if u.a then (if f.za then operandRanges r.a r.aScl (off f.so 1) 1 else operandRanges r.a r.aScl (off f.so 1 + r.taken) n) else [])
    ++ (if u.b then (if f.zb then operandRanges r.b r.bScl (off f.so 2) 1 else operandRanges r.b r.bScl (off f.so 2 + r.taken) n) else [])
    ++ (if u.dSrc then operandRanges r.d ⟨0, 0, 0⟩ (off f.so 0 + r.taken) n else [])
    ++ (if scaledRow r.dScl.mode then scaleRanges ⟨3, 0, r.dScl.row⟩ r.d.g (off f.so 0 + r.taken) n else [])
  | .red _ f => operandRanges r.a r.aScl (off f.so 1 + r.taken) n
  | .vacc f =>
    ((List.range n).map (fun i => vaccIx f (r.taken + i))).flatMap (fun x =>
      let v := if f.w256 then vaccRows f / 2 else vaccRows f
      let m := x.r % v
      let j := x.k + 128 * (x.r / v)
      (if f.ra then [(r.rowA4.getD x.p 0 + 4 * (off f.so 1 + m), 4)] else [])
      ++ (if f.rw then [(r.a.base + 4 * (off f.so 2 + j), 4)] else [])
      ++ (if f.be then [(r.b.base + 4 * (off f.so 2 + j), 4)] else [])
      ++ (if scaledRow f.sclD then [(r.dst4Row.getD x.p 0 + 4 * (off f.so 0 + x.r), 4)] else []))
  | .vtld _ => [(r.a.base + r.raw.length, min 256 (tableBytes - r.raw.length))]
  | _ => []

/-- Bytes that the results due in run cycle t write. -/
def VecWrite.ranges (w : VecWrite) : List (Nat × Nat) :=
  w.elems.filterMap (fun e => (Fmt.ofCode e.into.fmt).map (fun f =>
    let (a, n) := elemBytes f (e.ix % e.into.g)
    (e.into.base + rowStart f e.into.g e.ix + a, n)))
  ++ w.scale.map (fun (a, _, _) => (a, 1))

/-- Lines of a port in run cycle t: its beat of n elements and its results. -/
def portLines (v : Vec) (p : VPort) (n t : Nat) : UnitLines :=
  rangeLines ((match v.run p with | some r => if n = 0 then [] else r.reads n | none => [])
    ++ (v.writes.filter (fun w => w.port = p && w.due = t)).flatMap VecWrite.ranges)

/-- Bytes a stream unit touches in run cycle t: the work of its head descriptor and the sectors that land. -/
def Core.streamRanges (k : Core) (u : Fin 6) (t : Nat) : List (Nat × Nat) :=
  (k.dueSectors u t).map (fun s => (s.into, 64))
  ++ match k.st[u].places with
    | [] => []
    | x :: _ =>
      match x.started with
      | none => []
      | some s =>
        let b := k.unitBeat x t
        b.writes.map (fun w => (w.a, w.bs.length))
        ++ match x.op with
          | .scopy => if x.done = 512 * (t - s) then [(x.dr + x.done, min 512 (x.rows * x.rowBytes - x.done))] else []
          | .scount => match Fmt.ofCode x.cntFmt with
            | some f =>
              let lo := x.sp + (elemSpan f x.cntFirst).1
              let hi := x.sp + (elemSpan f (x.cntFirst + x.cntN - 1)).2
              if x.done = t - s && decide (lo + 1024 * x.done < hi) then [(lo + 1024 * x.done, min 1024 (hi - lo - 1024 * x.done))] else []
            | none => []
          | _ => if b.desc.index.length = x.index.length then [] else [(x.idxBase + 4 * x.index.length, 4 * (b.desc.index.length - x.index.length))]

/-- Bytes that the `std` descriptors of a unit read for the channels that serve them in this plan cycle. -/
def Die.stdRanges (d : Die) (c : CoreIx) (u : Fin 6) : List (Nat × Nat) :=
  let k := d.cores[c]
  (List.finRange 16).filterMap (fun j =>
    if wheelClass d.clock.pcyc j = 1 && k.vault.chans[j].servedAt ≠ some d.clock.clk && !d.chanClosed c j then
      match k.offer .std j d.clock.rc with
      | some (w, _, _, sp) => if w = u then some (sp, 64) else none
      | none => none
    else none)

/-! ### Mesh deliveries -/

/-- Flits on the mesh that reach their destination in this cycle, were none dropped. -/
def Net.arriving (n : Net) (c : CoreIx) : List MeshFlit := n.mesh.filter (fun f => f.dst = c && f.route.length = 1)

/-- What R281 decides for a message of B bytes: refused under a NAK code, or accepted with the tail space to skip. -/
inductive RingChoice where
  | refuse (code : Nat)
  | accept (tail : Nat)
  deriving DecidableEq, Repr

def Ring.choose (r : Ring) (ho : Bool) (b : Nat) : RingChoice :=
  let size := ringSize r
  let tail := size - r.wres.toNat % size
  let free := size - (r.wres - r.rp).toNat
  if !r.en then .refuse 2
  else if ho && !r.host then .refuse 4
  else if size < b then .refuse 3
  else if b ≤ tail && b ≤ free then .accept 0
  else if tail < b && tail + b ≤ free then .accept tail
  else .refuse 1

/-- The message has already had its one answer (R285). -/
def Rings.isAnswered (r : Rings) (src : BitVec 23) (seq : BitVec 32) : Bool := r.refusedMsgs.contains (src, seq)

/-- A reservation awaits flits of this message: the same sender and number, not void and not yet whole. -/
def Resv.awaits (x : Resv) (m : MsgIn) : Bool :=
  x.from_ = m.from_ && x.hdr.ho = m.hdr.ho && x.hdr.src = m.hdr.src && x.hdr.seq = m.hdr.seq && !x.void && x.full.isNone

/-- Scratchpad bytes that flit i of a message writes as it arrives at its ring, none where it is discarded, and the rings
with the reservation that its decision makes (R281). -/
def Rings.landing (r : Rings) (m : MsgIn) (i : Nat) : List (Nat × Nat) × Rings :=
  let x := fin16 m.hdr.q
  let q := r.q[x]
  let len := min 128 (m.hdr.size - 128 * i)
  if i = 0 then
    if m.from_.isNone && r.isAnswered m.hdr.src m.hdr.seq then ([], r)
    else
      match q.choose m.hdr.ho m.hdr.size with
      | .refuse _ => ([], r)
      | .accept tail =>
        let at_ := q.wres.toNat + tail
        ([(ringAddr q at_, len)], { r with q := vupd r.q x (fun q => { q with wres := BitVec.ofNat 32 (at_ + m.hdr.size) }) })
  else
    match q.resv.find? (fun x => x.awaits m) with
    | some x => ([(ringAddr q (x.start + 128 * i), len)], r)
    | none => ([], r)

/-- The source designator that orders mesh deliveries of one cycle (R280). -/
def Arrival.order : Arrival → Nat
  | .mesh m _ _ => m.hdr.src.toNat
  | .link _ _ => 2 ^ 24

def Arrival.isMesh : Arrival → Bool
  | .mesh _ _ _ => true
  | .link _ _ => false

/-- Put an arrival after those of lower or equal order. -/
def insertArrival (x : Arrival) : List Arrival → List Arrival
  | [] => [x]
  | y :: r => if x.order < y.order then x :: y :: r else y :: insertArrival x r

/-- Mesh arrivals of a core in the order of R280, then the inbound buffer in its own order. -/
def sortArrivals (xs : List Arrival) : List Arrival :=
  (xs.filter (·.isMesh)).foldl (fun l x => insertArrival x l) [] ++ xs.filter (fun x => !x.isMesh)

/-- The messages' flits among what a core receives from the mesh in this cycle. -/
def meshMsgs (fs : List MeshFlit) : List Arrival :=
  fs.filterMap (fun f => match f.load with | .msg m i n => some (.mesh m i n) | .store _ _ => none)

/-- Scratchpad bytes that arrivals of one cycle write, decided in the order of R280. -/
def Rings.landings (r : Rings) (xs : List Arrival) : List (Nat × Nat) :=
  (xs.foldl (fun (x : List (Nat × Nat) × Rings) a => match a with
    | .mesh m i _ => let (l, r) := x.2.landing m i; (x.1 ++ l, r)
    | .link _ _ => x) ([], r)).1

/-! ### Conflicts (R202, R205) -/

/-- The die with every flit injected that enters in the present plan cycle: a flit of one hop, and one for the sender's own
ring, is delivered at the end of it (R195). -/
def Die.injected (d : Die) : Die := d.forCores (fun d c => Die.flitInject c d)

/-- Lines of every unit of a core in the present plan cycle, in the order of R202; `e` is the die with this cycle's flits
injected. -/
def Die.coreAccesses (d e : Die) (c : CoreIx) : List UnitLines :=
  let k := d.cores[c]
  let t := d.clock.rc
  let feeders := (List.finRange 4).map (fun a =>
    rangeLines ((k.mtx.passes.filter (fun p => p.array = a && p.entering t)).flatMap (fun p =>
      [(p.src + p.sums.length * p.rowBytes, p.rowBytes), (p.sclSrc + p.sums.length * p.sclBytes, p.sclBytes)])))
  let bus := match k.mtx.shadow with
    | .filling l s raw _ => if decide (s ≤ t) && raw.length == 256 * (t - s) && decide (t - s < l.beats)
        then rangeLines (l.ranges (t - s)) else []
    | _ => []
  let p := runLoad k.vec.run0
  let q := runLoad k.vec.run1
  let inj := (d.injections c).map k.injectReads
  let streams := (List.finRange 6).map (fun u =>
    rangeLines (k.streamRanges u t ++ d.stdRanges c u ++ (inj.filter (fun x => x.1 = u.val)).flatMap (·.2)))
  let net := rangeLines ((inj.filter (fun x => x.1 = 6)).flatMap (·.2))
  let mesh := rangeLines (k.rings.landings (sortArrivals (meshMsgs (e.net.arriving c) ++ e.cores[c].rings.arrive)))
  feeders ++ [bus, portLines k.vec .vec0 (portTake p q) t, portLines k.vec .vec1 (portTake q p) t] ++ streams ++ [net, mesh]

/-- Accesses that meet in each bank: the count for a bank over the units of a core. -/
def bankCount (us : List UnitLines) (b : Nat) : Nat := (us.map (fun ls => (ls.filter (fun l => l % 64 == b)).length)).foldl (· + ·) 0

/-- The greatest count over a core's banks, with the lowest bank that has it. -/
def worstBank (us : List UnitLines) : Nat × Nat :=
  if us.all (·.isEmpty) then (0, 0)
  else (List.range 64).foldl (fun (m, mb) b => let n := bankCount us b; if m < n then (n, b) else (m, mb)) (0, 0)

/-- The capture of a bank conflict (R205). -/
def conflictCapture (pcyc : Int) (c : CoreIx) (bank n : Nat) : U64 :=
  word64 [field 0 26 (pcyc + 4).toNat, field 26 8 0xFF, field 34 5 c.val, field 39 6 bank, field 45 4 (min n 15), field 49 1 1,
    field 63 1 1]

/-- Every core with its greatest count of meeting accesses and the bank of it. -/
def Die.worstBanks (d : Die) : List (CoreIx × Nat × Nat) :=
  let e := d.injected
  (List.finRange 32).map (fun c => (c, worstBank (d.coreAccesses e c)))

/-- A conflict of k accesses: k − 1 held cycles are owed, the first conflict is captured, and the event is recorded. -/
def Die.oweConflict (d : Die) (k : Nat) (cap : U64) : Die :=
  let cap := if bit d.hold.capture 63 then d.hold.capture else cap
  Die.fault { d with hold := { d.hold with conflict := k, capture := cap } } .sched bankConf

/-- The bank conflict of the present plan cycle, on the die with that cycle's words issued: the count of accesses that
meet, and the capture of the first (R202, R205). -/
def Die.conflictNow (d : Die) : Option (Nat × U64) :=
  let worst := d.worstBanks
  (worst.find? (fun w => decide (1 < w.2.1))).map (fun w =>
    (worst.foldl (fun m w => max m w.2.1) 0, conflictCapture d.clock.pcyc w.1 w.2.2 w.2.1))

/-- The banks of the lines that the schedule uses in the present clock cycle: none in a held cycle (R200). -/
def Die.busyBanks (d : Die) (c : CoreIx) : List Nat :=
  if d.heldNow then [] else ((d.coreAccesses d.injected c).flatMap id).map (· % 64)

end Sys2Proof.Machine
end

