-- ==== Sys2Proof/Machine/Rings.lean ====
section
/-! DEFINITION. Message rings (chapter 11) and the crossing of the mesh: decisions, records, visibility, answers, lost
flits, and the commands MESSAGE_DECISION, MESSAGE_VISIBLE, LOSS_NOTICE and REMOTE_ARRIVAL_WRITE. -/

namespace Sys2Proof.Machine

def Core.modRing (k : Core) (q : Fin 16) (f : Ring → Ring) : Core :=
  { k with rings := { k.rings with q := vupd k.rings.q q f } }

/-! ### Writing a message into its span (R277, R282) -/

/-- Write granules, each with its mark, from a ring pointer on. -/
def Core.writeGranules (k : Core) (r : Ring) : Nat → List (Bytes × Bool) → Core
  | _, [] => k
  | p, (b, pz) :: rest => (k.writeScratch (ringAddr r p) (slice b 0 16) pz).writeGranules r (p + 16) rest

/-- Write the payload granules of flit i of a reservation (its header granule is granule 0 of flit 0). -/
def Core.writeFlit (k : Core) (q : Fin 16) (x : Resv) (i : Nat) (body : List (Bytes × Bool)) : Core :=
  k.writeGranules k.rings.q[q] (x.start + 16 + 16 * (flitGranules x.hdr.granules i).1) body

def Core.writeHeader (k : Core) (q : Fin 16) (x : Resv) (kind : Nat) : Core :=
  k.writeScratch (ringAddr k.rings.q[q] x.start) (x.hdr.bytes kind) false

/-- One flit of a reservation is in: its granules are written; with the last, the header as it stands at the end. -/
def Core.takeFlit (k : Core) (q : Fin 16) (x : Resv) (i clk : Nat) (body : List (Bytes × Bool)) : Core :=
  let y := { x with got := x.got + 1, hdr := { x.hdr with pz := x.hdr.pz || body.any (·.2) } }
  let full := decide (y.hdr.flits ≤ y.got)
  let y := if full then { y with full := some clk } else y
  let k := k.writeFlit q x i body
  let k := k.writeHeader q y 1
  k.modRing q (fun r => { r with resv := updWhere (fun z => z.start = x.start) (fun _ => y) r.resv })

/-! ### Decision (R280, R281, R283) -/

/-- Fault bit of a NAK code of the ring hardware. -/
def nakBit : Nat → FBit
  | 1 => qFull | 2 => qDis | 3 => qBig | _ => qHost

/-- Wrap marker of R279. -/
def wrapMarker : Bytes := leBytes 16 2

/-- The decision on a message whose header flit is here, in the present clock cycle. -/
def Die.decideMsg (d : Die) (c : CoreIx) (m : MsgIn) : Die :=
  let q := fin16 m.hdr.q
  let r := d.cores[c].rings.q[q]
  match r.choose m.hdr.ho m.hdr.size with
  | .refuse code =>
    let d := d.modCore c (fun k =>
      let k := k.modRing q (fun r => { r with nref := satAdd r.nref 1 })
      if m.from_.isNone then { k with rings := { k.rings with refusedMsgs := (m.hdr.src, m.hdr.seq) :: k.rings.refusedMsgs } } else k)
    let d := d.fault (.rings c) (nakBit code) q.val
    d.answer c m.from_ m.hdr.ho m.hdr.src m.job { code := BitVec.ofNat 4 code, ring := m.hdr.q, tag := m.hdr.tag, seq := m.hdr.seq }
  | .accept tail =>
    let x : Resv := { hdr := m.hdr, start := (r.wres.toNat + tail) % 2 ^ 32, size := m.hdr.size,
                      wrapAt := if 0 < tail then some r.wres.toNat else none,
                      got := 0, void := false, full := none, from_ := m.from_, job := m.job }
    d.modCore c (fun k =>
      let k := k.modRing q (fun r => { r with wres := BitVec.ofNat 32 (x.start + x.size), resv := r.resv ++ [x] })
      k.takeFlit q x 0 d.clock.clk m.body)

/-- Flit i > 0 of a message: written into its span, or discarded (R282, R285). -/
def Die.laterFlit (d : Die) (c : CoreIx) (m : MsgIn) (i : Nat) : Die :=
  let q := fin16 m.hdr.q
  match d.cores[c].rings.q[q].resv.find? (fun x => x.awaits m) with
  | some x => d.modCore c (fun k => k.takeFlit q x i d.clock.clk m.body)
  | none => d

/-- A flit of a message that arrived from the mesh or from the core itself. -/
def Die.meshFlitIn (d : Die) (c : CoreIx) (m : MsgIn) (i : Nat) : Die :=
  if i = 0 then (if d.cores[c].rings.isAnswered m.hdr.src m.hdr.seq then d else d.decideMsg c m) else d.laterFlit c m i

/-- The wrap markers of a core that are still to be written: ring and pointer (R281). -/
def Rings.markers (r : Rings) : List (Fin 16 × Nat) :=
  (List.finRange 16).flatMap (fun q => (r.q[q].resv.filterMap (·.wrapAt)).map (fun p => (q, p)))

/-- A core has something of the link side in hand: a message in the inbound buffer or a wrap marker to write. -/
def Rings.inHand (r : Rings) : Bool := !r.arrive.isEmpty || !r.markers.isEmpty

/-- A wrap marker is written, where its bank is in none of the banks in use: with it that bank is (R200, R281). -/
def Core.writeMarker (x : Core × List Nat) (m : Fin 16 × Nat) : Core × List Nat :=
  let (k, busy) := x
  let a := ringAddr k.rings.q[m.1] m.2
  let bank := a / 64 % 64
  if busy.contains bank then (k, busy)
  else ((k.writeScratch a wrapMarker false).modRing m.1 (fun r => { r with
      resv := updWhere (fun x => x.wrapAt = some m.2) (fun x => { x with wrapAt := none }) r.resv }), bank :: busy)

/-- Every wrap marker of a core whose bank is free is written. -/
def Core.writeMarkers (k : Core) (busy : List Nat) : Core := (k.rings.markers.foldl Core.writeMarker (k, busy)).1

/-- Wrap markers of the cores in hand, each with the banks that the present cycle uses. -/
def Die.markersOut (d : Die) (banks : List (CoreIx × List Nat)) : Die :=
  banks.foldl (fun d x => if d.cores[x.1].rings.markers.isEmpty then d else d.modCore x.1 (·.writeMarkers x.2)) d

/-- Banks that flit i of a message writes as it arrives. -/
def Rings.flitBanks (r : Rings) (m : MsgIn) (i : Nat) : List Nat := (rangeLines (r.landing m i).1).map (· % 64)

/-- Flit i of a message in the inbound buffer writes in none of the banks in use (R200). A message that is refused writes nothing:
it is decided as soon as it stands at the front (DESIGN CHOICE, log entry 120). -/
def Die.linkFree (d : Die) (busy : List Nat) (c : CoreIx) (m : MsgIn) (i : Nat) : Bool :=
  (d.cores[c].rings.flitBanks m i).all (fun b => !busy.contains b)

/-- Flit i of a buffered message: its granules. -/
def MsgIn.part (m : MsgIn) (i : Nat) : MsgIn :=
  let (lo, hi) := flitGranules m.hdr.granules i
  { m with body := (m.body.drop lo).take (hi - lo) }

/-- A message of the inbound buffer writes one flit, the first with its decision; it leaves the buffer when it is
refused or all in (R280). -/
def Die.linkFlitIn (d : Die) (c : CoreIx) (m : MsgIn) (i : Nat) (rest : List Arrival) : Die :=
  let refused := match d.cores[c].rings.q[fin16 m.hdr.q].choose m.hdr.ho m.hdr.size with | .refuse _ => true | _ => false
  let d := if i = 0 then d.decideMsg c (m.part 0) else d.laterFlit c (m.part i) i
  let done := decide (m.hdr.flits ≤ i + 1) || (i == 0 && refused)
  d.modCore c (fun k => { k with rings := { k.rings with arrive := if done then rest else .link m (i + 1) :: rest } })

/-- Take the front arrival of a core: a mesh flit at once, a buffered message where its banks are free. -/
def Die.takeArrival (d : Die) (c : CoreIx) : Die :=
  match sortArrivals d.cores[c].rings.arrive with
  | [] => d
  | .mesh m i _ :: rest =>
    (d.modCore c (fun k => { k with rings := { k.rings with arrive := rest } })).meshFlitIn c m i
  | .link m i :: rest => if d.linkFree (d.busyBanks c) c m i then d.linkFlitIn c m i rest else d

/-- The front message of the inbound buffer writes one flit, where the banks in use leave its banks free; with the banks in use
after it. -/
def Die.takeLink (d : Die) (c : CoreIx) (busy : List Nat) : Die × List Nat :=
  match d.cores[c].rings.arrive with
  | .link m i :: rest =>
    if d.linkFree busy c m i then (d.linkFlitIn c m i rest, d.cores[c].rings.flitBanks m i ++ busy) else (d, busy)
  | _ => (d, busy)

/-- Banks that the front arrival of a core writes. -/
def Rings.frontBanks (r : Rings) : List Nat :=
  match sortArrivals r.arrive with
  | .mesh m i _ :: _ | .link m i :: _ => r.flitBanks m i
  | [] => []

/-- MESSAGE_DECISION: the front arrival is decided; wrap markers are written in the same cycle where their banks are free. -/
def Die.messageDecision (c : CoreIx) (d : Die) : Die :=
  let e := d.takeArrival c
  if e.cores[c].rings.markers.isEmpty then e
  else e.modCore c (·.writeMarkers (d.cores[c].rings.frontBanks ++ d.busyBanks c))

def execMessageDecision (a : CoreRef) (s : State) : Out := onDie s a.die (Die.messageDecision a.core)

/-! ### Visibility (R282, R283) -/

/-- The first reservation of a ring becomes visible, where it is complete and its wrap marker stands (R281, R282). -/
def Die.showNext (d : Die) (c : CoreIx) (q : Fin 16) : Die :=
  match d.cores[c].rings.q[q].resv with
  | [] => d
  | x :: rest =>
    if x.full.isSome && x.wrapAt.isNone then
      let d := d.modCore c (fun k => k.modRing q (fun r => { r with
        resv := rest, wp := BitVec.ofNat 32 (x.start + x.size), nacc := if x.void then r.nacc else r.nacc + 1 }))
      if x.void then d
      else d.answer c x.from_ x.hdr.ho x.hdr.src x.job { code := 0, ring := x.hdr.q, tag := x.hdr.tag, seq := x.hdr.seq }
    else d

/-- Every record of a ring that can, becomes visible in order. -/
def Die.showRing (d : Die) (c : CoreIx) (q : Fin 16) : Die := iter (fun d => d.showNext c q) d.cores[c].rings.q[q].resv.length d

/-- MESSAGE_VISIBLE. -/
def execMessageVisible (a : CoreRef) (q : Fin 16) (s : State) : Out := onDie s a.die (fun d => d.showRing a.core q)

def Die.showRings (d : Die) (c : CoreIx) : Die :=
  if d.cores[c].rings.q.toList.all (fun r => r.resv.isEmpty) then d
  else (List.finRange 16).foldl (fun d q => d.showRing c q) d

/-! ### Lost flits (R279, R285) -/

/-- A reservation becomes a void record: its payload is undefined. -/
def Die.voidResv (d : Die) (c : CoreIx) (q : Fin 16) (x : Resv) : Die :=
  let free := slice (Config.freshBytes d.drawKey (x.size - 16)) 0 (x.size - 16)
  d.drew.modCore c (fun k =>
    let cells : List (Nat × Byte) := free.mapIdx (fun i b => (ringAddr k.rings.q[q] (x.start + 16 + i), b))
    let k := { k with scratch := cells.foldl (fun m (ab : Nat × Byte) => Cells.set m ab.1 ab.2) k.scratch }
    let k := k.writeHeader q x 3
    k.modRing q (fun r => { r with
      resv := updWhere (fun z => z.start = x.start) (fun z => { z with void := true, full := some d.clock.clk }) r.resv }))

/-- A notice names this message: from where the notice comes, of a core or of a host, with its source, which is a host's session
number, its ring, tag and sequence number. -/
def Loss.names (x : Loss) (from_ : Option (BitVec 23)) (h : MsgHdr) : Bool :=
  from_ = x.from_ && h.ho == x.ho && h.src = x.src && h.seq = x.seq && h.q = x.q && h.tag = x.tag

def Arrival.isOf (x : Loss) : Arrival → Bool
  | .mesh m _ _ | .link m _ => x.names m.from_ m.hdr

/-- A loss notice lands (R285). -/
def Die.lossLands (d : Die) (c : CoreIx) (x : Loss) : Die :=
  let q := fin16 x.q
  if x.from_.isNone && d.cores[c].rings.isAnswered x.src x.seq then d
  else
    let d := match d.cores[c].rings.q[q].resv.find? (fun y => x.names y.from_ y.hdr) with
      | some y => d.voidResv c q y
      | none => d.modCore c (fun k => { k with rings := { k.rings with arrive := k.rings.arrive.filter (fun a => !a.isOf x) } })
    let d := if x.from_.isNone then
        d.modCore c (fun k => { k with rings := { k.rings with refusedMsgs := (x.src, x.seq) :: k.rings.refusedMsgs } }) else d
    let d := d.fault (.rings c) qVoid q.val
    d.answer c x.from_ x.ho x.src x.job { code := 5, ring := x.q, tag := x.tag, seq := x.seq }

/-- LOSS_NOTICE: the notices of a core due by now. -/
def Die.lossNotices (c : CoreIx) (d : Die) : Die :=
  let due := d.cores[c].rings.losses.filter (fun x => decide (x.due ≤ d.clock.clk))
  if due.isEmpty then d
  else
    due.foldl (fun d x => d.lossLands c x)
      (d.modCore c (fun k => { k with rings := { k.rings with losses := k.rings.losses.filter (fun x => decide (d.clock.clk < x.due)) } }))

def execLossNotice (a : CoreRef) (s : State) : Out := onDie s a.die (Die.lossNotices a.core)

/-- What lands at one core at the end of a clock cycle: completed stores, increments, notices, and the records that become
visible (R259, R262, R282, R285). -/
def Die.arrivalsLand (d : Die) (c : CoreIx) : Die := (Die.lossNotices c ((d.storesDone c).landIncs c)).showRings c

/-- What is still to come in the present clock cycle, beside the landings that are due, leaves a wait as it is: nothing waits
at the router; and the wait's own request holds the cycle, with nothing of the link side in hand, or it is a count that no
`sig` or `cons` of the cycle changes. -/
def Die.waitSettled (d : Die) (c : CoreIx) (w : Waiting) : Bool :=
  d.router.local_.isEmpty && d.router.inq.toList.all List.isEmpty
  && ((d.holdsItself c w && !d.cores[c].rings.inHand)
      || match w.what with | .count _ _ => !d.incIssues c | _ => false)

/-- WAIT_TIMEOUT: the last cycle of a wait ends (R264). The wait is evaluated as at the cycle's start; then what lands in the
cycle is applied, and a wait still unmet is judged. Where more may land, the end of the cycle judges it (log entry 15). -/
def Die.waitTimeout (c : CoreIx) (d : Die) : Die :=
  if (d.lastWaits c).isEmpty then d
  else
    let e := d.evalWaits c
    let ws := (e.lastWaits c).filter (e.waitSettled c)
    let e := if ws.isEmpty then e
      else ((e.modCore c (fun k => k.landWrites none e.clock.clk)).arrivalsLand c).judgeWaits c ws
    e.landSummaries c none

def execWaitTimeout (a : CoreRef) (s : State) : Out := onDie s a.die (Die.waitTimeout a.core)

/-! ### Messages that have had their answer (R283, R285) -/

/-- A flit or a notice of a message of this die's core is still under way: its send has flits to inject, or one is on the
mesh or at a core. -/
def Die.underWay (d : Die) (src : CoreIx) (seq : BitVec 32) : Bool :=
  let at_ (h : MsgHdr) : Bool := !h.ho && h.src = d.designator src && h.seq = seq
  d.cores[src].rings.sends.any (fun s => s.seq = seq)
  || d.net.mesh.any (fun f => match f.load with | .msg m _ _ => at_ m.hdr | .store _ _ => false)
  || d.cores.toList.any (fun k =>
      k.rings.arrive.any (fun a => match a with | .mesh m _ _ => at_ m.hdr | .link _ _ => false)
      || k.rings.losses.any (fun x => x.from_.isNone && x.src = d.designator src && x.seq = seq))

/-- An answered message is forgotten once nothing of it is under way: its sequence number may come again. -/
def Die.forgetAnswered (d : Die) : Die :=
  let d := if d.net.lost.isEmpty then d else { d with net := { d.net with lost := d.net.lost.filter (fun x => d.underWay x.1 x.2) } }
  if d.cores.toList.all (fun k => k.rings.refusedMsgs.isEmpty) then d
  else { d with cores := d.cores.map (fun k => if k.rings.refusedMsgs.isEmpty then k else { k with rings := { k.rings with
      refusedMsgs := k.rings.refusedMsgs.filter (fun x => d.underWay (desCore x.1.toNat) x.2) } }) }

/-- The router sends one loss notice for a message of this die (R285). -/
def Die.sendLoss (d : Die) (src dst : CoreIx) (m : MsgIn) : Die :=
  if d.net.lost.contains (src, m.hdr.seq) then d
  else
    let x : Loss := { due := landCycle d.clock.clk src dst, ho := false, q := m.hdr.q, tag := m.hdr.tag, src := m.hdr.src, seq := m.hdr.seq,
                      from_ := m.from_, job := m.job }
    Die.modCore { d with net := { d.net with lost := (src, m.hdr.seq) :: d.net.lost } } dst
      (fun k => { k with rings := { k.rings with losses := k.rings.losses ++ [x] } })

/-! ### Remote sectors (R195, R199, R200) -/

/-- A sector for a core's own DRAM waits for the remote share; over the inbound router link it comes into the inbound
buffer (R200). -/
def Die.sectorIn (d : Die) (c : CoreIx) (off : Nat) (data : Bytes) (pz : Bool) (src : BitVec 23) (tag : BitVec 16)
    (link : Bool) : Die :=
  d.modCore c (fun k => { k with vault := { k.vault with
    remote := k.vault.remote ++ [⟨off / 64, data, pz, src, tag, link⟩] } })

/-- REMOTE_ARRIVAL_WRITE: waiting sectors are served where a channel's position allows it, and those due are written
(R200, R228, R229). -/
def Die.remoteArrival (c : CoreIx) (d : Die) : Die :=
  let js := ((d.cores[c].vault.remote.map (fun r => chanOf r.sector)).eraseDups).filter (fun j => d.heldNow || wheelClass d.clock.pcyc j = 2)
  let d := js.foldl (fun d j => Die.wheelServe c j d) d
  d.modCore c (fun k => k.landWrites d.runNow d.clock.clk)

def execRemoteArrivalWrite (a : CoreRef) (s : State) : Out := onDie s a.die (Die.remoteArrival a.core)

/-! ### One cycle of the mesh (R193, R195, R199) -/

/-- A flit reaches its destination core. -/
def Die.meshDeliver (d : Die) (f : MeshFlit) : Die :=
  match f.load with
  | .msg m i n => d.modCore f.dst (fun k => { k with rings := { k.rings with arrive := k.rings.arrive ++ [.mesh m i n] } })
  | .store secs tag => secs.foldl (fun d (off, b, pz) => d.sectorIn f.dst off b pz (d.designator f.src) tag false) d

/-- Capture of a collision (R205). -/
def collisionCapture (pcyc : Int) (l : Fin 136) (dropped : CoreIx) (n : Nat) : U64 :=
  word64 [field 0 26 (pcyc + 4).toNat, field 26 8 l.val, field 34 5 dropped.val, field 45 4 (min n 15), field 63 1 1]

def Die.capture (d : Die) (w : U64) : Die :=
  if bit d.hold.capture 63 then d else { d with hold := { d.hold with capture := w } }

/-- A flit crosses the first link of its route: it is delivered at the end of it, or waits in the next register. -/
def Die.crossOne (d : Die) (f : MeshFlit) : Die :=
  let rest := f.route.drop 1
  if rest.isEmpty then d.meshDeliver f
  else { d with net := { d.net with mesh := d.net.mesh ++ [{ f with route := rest }] } }

/-- A dropped flit (R199): a message's loss notice is sent; a store's sectors go on as marked zeros. -/
def Die.dropFlit (d : Die) (f : MeshFlit) : Die :=
  match f.load with
  | .msg m _ _ => d.sendLoss f.src f.dst m
  | .store secs tag =>
    d.crossOne { f with ghost := true, load := .store (secs.map (fun (off, _, _) => (off, zeroSector, true))) tag }

/-- The flits that need one link-direction: the lowest source crosses (R199). -/
def Die.crossLink (d : Die) (l : Fin 136) (fs : List MeshFlit) : Die :=
  match fs with
  | [] => d
  | [f] =>
    let d := if d.frm.frun && !d.net.gives l d.clock.pcyc f.src then d.fault .sched netUnsched else d
    d.crossOne f
  | f :: r =>
    let win := r.foldl (fun a b => if b.src.val < a.src.val then b else a) f
    let lost := fs.filter (· ≠ win)
    let low := lost.foldl (fun a b => if b.src.val < a.val then b.src else a) ((lost.head?.map (·.src)).getD win.src)
    let d := (d.capture (collisionCapture d.clock.pcyc l low fs.length)).fault .sched netColl
    lost.foldl Die.dropFlit (d.crossOne win)

/-- Every flit on the mesh crosses one link in an unheld clock cycle. -/
def Die.crossMesh (d : Die) : Die :=
  let all := d.net.mesh
  if all.isEmpty then d
  else
    let d := { d with net := { d.net with mesh := [] } }
    let ghosts := all.filter (·.ghost)
    let live := all.filter (fun f => !f.ghost)
    let links := ((live.filterMap (·.route.head?)).eraseDups)
    let d := links.foldl (fun d l => d.crossLink l (live.filter (fun f => f.route.head? = some l))) d
    ghosts.foldl Die.crossOne d

end Sys2Proof.Machine
end

