-- ==== Sys2Proof/Machine/Check.lean ====
section
/-! DEFINITION. Check and issue of word slots (R86 to R88, R121, R130, R131, R151 to R153, R161): the check stage of a
word, the lookahead of R87, hold requests and their release, and the commands of the seven word slots outside CTL. -/

namespace Sys2Proof.Machine

/-! ### Issue -/

/-- A `sig` to the core a designator names leaves at the end of the present clock cycle (R185, R259, R323). -/
def Die.sendSig (d : Die) (c : CoreIx) (sc : BitVec 6) (n : BitVec 8) (dest : Nat) : Die :=
  if d.isLocal dest then
    let into := desCore dest
    d.pushInc into { due := landCycle d.clock.clk c into, sc := fin64 sc, onC := false, amt := n.toNat + 1, rem := c ≠ into,
                     src := d.designator c, job := d.jobOf, ans := none }
  else
    match d.router.physOf dest with
    | some p => d.sendRec { idst := p, isc := sc, iamt := n, ik := 0, icode := 0, isrc := d.physDesignator c, ijob := d.jobOf,
                            iq := 0, itag := 0, iseq := 0 }
    | none => d.fault .router rtUnreach

/-- A legal, ready word slot issues in the present cycle; what takes effect at the cycle's end waits for it (R185). -/
def Die.issueSlot (d : Die) (c : CoreIx) (x : Checked) : Die :=
  let d := d.modCore c (fun k =>
    if endsCycle x.op then { k with ctl := { k.ctl with ends := k.ctl.ends ++ [x] } }
    else k.issue d.clock.rc d.clock.clk d.frm.fnum.toNat x.slot x.op x.regs)
  match x.op with
  | .sig sc so rem n => if rem then d.sendSig c sc n (regAt x.regs so 0).toNat else d
  | _ => d

/-- The half that an `hval` with `v` = 1 makes valid, by the role as it stands. -/
def Core.hvalSets (k : Core) (x : Checked) : Option (Fin 64 × Bool) :=
  match x.op with
  | .hval h role true => some (fin64 h, halfOf k.hdl.run[fin64 h] (!role))
  | _ => none

/-- The end of a plan cycle: the `qrp`, `hswap` and `hval` issued in it take effect (R185). Each `hval` names its half by the
role before the cycle's swaps, and a valid bit that is set and cleared ends the cycle set (R219; DEDUCED, log entry 109). -/
def Core.endOps (k : Core) (rc clk frame : Nat) : Core :=
  let swap (x : Checked) : Bool := match x.op with | .hswap _ => true | _ => false
  let e := (k.ctl.ends.filter (fun x => !swap x) ++ k.ctl.ends.filter swap).foldl
    (fun k x => k.issue rc clk frame x.slot x.op x.regs) { k with ctl := { k.ctl with ends := [] } }
  let run := (k.ctl.ends.filterMap k.hvalSets).foldl (fun v x => vupd v x.1 (fun r => setHalf r x.2 true)) e.hdl.run
  { e with hdl := { e.hdl with run := run } }

def Die.endOps (d : Die) (c : CoreIx) : Die :=
  if d.cores[c].ctl.ends.isEmpty then d else d.modCore c (fun k => k.endOps d.clock.rc d.clock.clk d.frm.fnum.toNat)

/-! ### Lookahead (R87) -/

/-- A checked slot comes before another one: an earlier word, or the LD slot beside the ST slot of one word (R161). -/
def Checked.precedes (y x : Checked) : Bool := decide (y.due < x.due) || (y.due == x.due && y.slot = 4 && x.slot = 5)

/-- Operations of earlier words that take effect before this slot issues, in their order: those that the present cycle's
end brings, and the checked slots. -/
def Core.earlier (k : Core) (x : Checked) : List Checked :=
  k.ctl.ends.filter (fun y => decide (y.due < x.due)) ++ k.ctl.checked.filter (·.precedes x)

/-- Apply a checked slot as it will issue. -/
def Core.applyChecked (k : Core) (rc clk frame : Nat) (pcyc : Int) (y : Checked) : Core :=
  k.issue (rc + (y.due - pcyc).toNat) clk frame y.slot y.op y.regs

/-- The core as it stands and after each earlier checked slot. -/
def Core.prefixes (k : Core) (rc clk frame : Nat) (pcyc : Int) : List Checked → List Core
  | [] => [k]
  | y :: r => k :: (k.applyChecked rc clk frame pcyc y).prefixes rc clk frame pcyc r

/-- The core with every earlier checked slot applied: legality is judged on it. -/
def Die.aheadCore (d : Die) (c : CoreIx) (x : Checked) : Core :=
  (d.cores[c].earlier x).foldl (fun k y => k.applyChecked d.clock.rc d.clock.clk d.frm.fnum.toNat d.clock.pcyc y) d.cores[c]

/-- Load that a checked operation puts on its port. -/
def Checked.load (x : Checked) : PortLoad := ⟨elemCount x.op, fullRate x.op⟩

/-- Port loads that checked slots put on the ports in the i-th cycle from now. -/
def Core.portStarts (k : Core) (pcyc : Int) (i : Nat) : Option PortLoad × Option PortLoad :=
  let now := k.ctl.checked.filter (fun y => (y.due - pcyc).toNat = i && elemCount y.op ≠ 0)
  ((now.find? (fun y => portOf y.slot = .vec0)).map Checked.load, (now.find? (fun y => portOf y.slot = .vec1)).map Checked.load)

/-- Loads of both ports at the start of plan cycle t. -/
def Die.portsAt (d : Die) (c : CoreIx) (t : Int) : PortLoad × PortLoad :=
  let k := d.cores[c]
  projectPorts (k.portStarts d.clock.pcyc) (t - d.clock.pcyc).toNat 0 (runLoad k.vec.run0) (runLoad k.vec.run1)

/-- The port is out of execution by plan cycle t (R121); a slot that costs no beats needs no port. -/
def Die.portFree (d : Die) (c : CoreIx) (x : Checked) : Bool :=
  if elemCount x.op = 0 then true
  else
    let (p, q) := d.portsAt c x.due
    decide ((match portOf x.slot with | .vec0 => p | .vec1 => q).left = 0)

/-- The instruction that a port executes now has made its last beat before plan cycle t: nothing of it is left, or another
one issues on the port before. -/
def Die.portEnded (d : Die) (c : CoreIx) (p : VPort) (t : Int) : Bool :=
  let (x, y) := d.portsAt c t
  decide ((match p with | .vec0 => x | .vec1 => y).left = 0)
  || d.cores[c].ctl.checked.any (fun z => decide (z.due < t) && decide (elemCount z.op ≠ 0) && portOf z.slot = p)

/-- No `vfn` of an earlier frame still reads the standby bank that a `vtld` writes (R117, R121). -/
def Die.bankFree (d : Die) (c : CoreIx) (x : Checked) : Bool :=
  match x.op with
  | .vtld f =>
    let v := d.cores[c].vec
    let bank := !v.ft[fin4 f.t].act
    (!readsBank v.run0 (fin4 f.t) bank || d.portEnded c .vec0 x.due)
    && (!readsBank v.run1 (fin4 f.t) bank || d.portEnded c .vec1 x.due)
  | _ => true

/-- Every hold condition of a checked slot is met: on the core as it stands and after every earlier checked slot. What the
slots of the present cycle do at its start, the swap of R75 among it, the core as it stands shows already (R87). -/
def Die.slotReady (d : Die) (c : CoreIx) (x : Checked) : Bool :=
  let k := d.cores[c]
  let t := d.rcOf x.due
  (k.prefixes d.clock.rc d.clock.clk d.frm.fnum.toNat d.clock.pcyc (k.earlier x)).all (fun k => readyOn k t x.op)
  && d.portFree c x && d.bankFree c x

/-! ### Queueing and holds (R88) -/

/-- Insert a checked slot in order of plan cycle and mask bit. -/
def insertChecked (x : Checked) : List Checked → List Checked
  | [] => [x]
  | y :: r => if x.due < y.due || (x.due == y.due && x.slot < y.slot) then x :: y :: r else y :: insertChecked x r

def Die.queueChecked (d : Die) (c : CoreIx) (x : Checked) : Die :=
  d.modCore c (fun k => { k with ctl := { k.ctl with checked := insertChecked x k.ctl.checked } })

/-- A failed readiness check requests a hold for its plan cycle. -/
def Die.requestHold (d : Die) (c : CoreIx) (x : Checked) : Die :=
  let q : HoldReq := { forCyc := x.due, core := c, slot := x.slot, cause := causeOf x.op, release := none }
  { d with hold := { d.hold with reqs := d.hold.reqs ++ [q] } }

/-- The hold request of a checked slot is released in the first clock cycle in which its check passes. -/
def Die.reevalReq (d : Die) (q : HoldReq) : HoldReq :=
  if q.release.isSome then q
  else
    match d.cores[q.core].ctl.checked.find? (fun x => x.due == q.forCyc && x.slot = q.slot) with
    | some x => if d.slotReady q.core x then { q with release := some d.clock.clk } else q
    | none => q

/-- Repeat the failing checks of the requests that satisfy `p` (R88). -/
def Die.reevalReqs (d : Die) (p : HoldReq → Bool) : Die :=
  if d.hold.reqs.any (fun q => q.release.isNone && q.slot ≠ 7 && p q) then
    { d with hold := { d.hold with reqs := d.hold.reqs.map (fun q => if q.slot ≠ 7 && p q then d.reevalReq q else q) } }
  else d

/-- HOLD_RELEASE: the failing checks of a word slot are repeated; a waiting SYN slot is evaluated, and what it writes lands with
the cycle's other writes at its end (R88, R162, R264). -/
def Die.holdRelease (c : CoreIx) (slot : Fin 8) (d : Die) : Die :=
  if slot = 7 then d.evalWaits c else d.reevalReqs (fun q => q.core = c && q.slot = slot)

def execHoldRelease (a : CoreRef) (slot : Fin 8) (s : State) : Out := onDie s a.die (Die.holdRelease a.core slot)

/-- TIMED_HOLD_END: timed holds whose last cycle is past are over (R191). -/
def Die.timedHoldEnd (d : Die) : Die :=
  { d with hold := { d.hold with timed := d.hold.timed.filter (fun h => decide (d.clock.clk ≤ h.last)) } }

def execTimedHoldEnd (n : DieIx) (s : State) : Out := onDie s n Die.timedHoldEnd

/-! ### The check stage (R130) -/

/-- The check of one word slot outside CTL: refused, waiting, or queued for plan cycle `t` with the hold it may need. -/
def Die.checkSlot (d : Die) (c : CoreIx) (t : Int) (b : Fin 8) (dec : SlotDec) (regs : Vector U32 16) (pc : BitVec 16) : Die :=
  let x : Checked := { due := t, slot := b, op := dec.op, regs := regs, pc := pc }
  match lowestCause (dec.causes ++ illegalCauses (d.designator c) (d.aheadCore c x) regs dec.op) with
  | some cause => d.refuseSlot c b.val cause pc
  | none =>
    match dec.op with
    | .nop => d
    | .wait _ | .pwait _ | .qsel _ => d.startWait c (d.aheadCore c x) t dec.op regs
    | _ =>
      let ready := d.slotReady c x
      let d := d.queueChecked c x
      if ready then d else d.requestHold c x

/-- The CTL slot of a word in its check stage. -/
def Die.checkCtl (d : Die) (c : CoreIx) (w : BitVec 32) (last : Int) (pc : BitVec 16) : Die :=
  match ctlCause w, decodeCtl w with
  | none, some dec =>
    let (d, r) := d.runCtl c dec.op last
    d.modCore c (fun k => { k with ctl := { k.ctl with
      pc := r.target.getD k.ctl.pc, nextChk := if r.branch then k.ctl.nextChk + 1 else k.ctl.nextChk } })
  | cause, _ => d.refuseSlot c 0 (cause.getD 0) pc

/-- A good word in its check stage: CTL executes, and the other slots are checked in the order of their mask bits. -/
def Die.goodWord (d : Die) (c : CoreIx) (w : Word) : Die :=
  let k := d.cores[c]
  let pc := k.ctl.pc
  let regs := k.ctl.s
  let t := d.clock.pcyc + 4
  let step : Int := w.rep.toNat + 1
  let d := d.modCore c (fun k => { k with ctl := { k.ctl with
    pc := pc + BitVec.ofNat 16 (wordLen w.mask / 4), nextChk := d.clock.pcyc + step, failRun := 0 } })
  let d := if bit w.mask 0 then d.checkCtl c w.ctlBits (t + w.rep.toNat) pc else d
  (List.finRange 8).foldl (fun d b =>
    if b ≠ 0 && bit w.mask b.val then d.checkSlot c t b (decodeSlot b (w.slotBits b.val)) regs pc else d) d

/-- A failed word in its check stage; the eighth in a row stops the core (R152, R153). -/
def Die.failedWord (d : Die) (c : CoreIx) (w : Word) (cause : Nat) : Die :=
  let pc := d.cores[c].ctl.pc
  let n := d.cores[c].ctl.failRun + 1
  let d := d.refuseWord c cause pc
  let d := d.modCore c (fun k => { k with ctl := { k.ctl with
    pc := pc + BitVec.ofNat 16 (wordLen w.mask / 4), nextChk := d.clock.pcyc + 1, failRun := n } })
  if 8 ≤ n then d.stopCore c fetchLost (d.clock.pcyc + 4) else d

/-- The next word of a core is due for its check stage. -/
def Die.checkDue (d : Die) (c : CoreIx) : Bool :=
  let k := d.cores[c].ctl
  d.frm.frun && !k.ended && !k.stopped && k.endAt.isNone && decide (k.nextChk ≤ d.clock.pcyc) && !d.heldNow

/-- WORD_CHECK_STAGE (R129, R130, R153). The extent is judged before the header (DESIGN CHOICE, log entry 96). -/
def Die.checkStage (c : CoreIx) (d : Die) : Die :=
  if d.checkDue c then
    let k := d.cores[c].ctl
    let addr := 4 * k.pc.toNat
    let w := fetchWord k.bank addr
    if bankBytes ≤ addr || bankBytes < addr + wordLen w.mask then d.stopCore c pcRange (d.clock.pcyc + 3)
    else
      match w.failed with
      | some cause => d.failedWord c w cause
      | none => d.goodWord c w
  else d

def execWordCheckStage (a : CoreRef) (s : State) : Out := onDie s a.die (Die.checkStage a.core)

/-! ### Word-slot commands: check and issue in the present plan cycle -/

/-- A word-slot operation as a command (R86, R88, R151): refused where it is illegal; else it issues in the present plan
cycle, or waits for its conditions under a hold request for that cycle. -/
def Die.slotOp (c : CoreIx) (slot : Fin 8) (op : SlotOp) (d : Die) : Die :=
  let k := d.cores[c]
  let x : Checked := { due := d.clock.pcyc, slot := slot, op := op, regs := k.ctl.s, pc := k.ctl.pc }
  match lowestCause (illegalCauses (d.designator c) k k.ctl.s op) with
  | some cause => d.refuseSlot c slot.val cause k.ctl.pc
  | none =>
    match op with
    | .wait _ | .pwait _ | .qsel _ => d.startWait c (d.aheadCore c x) d.clock.pcyc op k.ctl.s
    | _ => if d.slotReady c x then d.issueSlot c x else (d.queueChecked c x).requestHold c x

/-- The outcome of a word-slot operation on a core. -/
def slotOut (s : State) (a : CoreRef) (slot : Fin 8) (op : SlotOp) : Out := onDie s a.die (Die.slotOp a.core slot op)

/-- The mask bit of a port. -/
def VPort.slot : VPort → Fin 8
  | .vec0 => 2
  | .vec1 => 3

def execMnop (a : CoreRef) (s : State) : Out := slotOut s a 1 .nop
def execWload (a : CoreRef) (f : WloadF) (s : State) : Out := slotOut s a 1 (.wload f)
def execMpass (a : CoreRef) (f : MpassF) (s : State) : Out := slotOut s a 1 (.mpass f)

/-- An element-wise operation on a port. -/
def elemOut (s : State) (a : CoreRef) (p : VPort) (op : ElemOp) (f : ElemF) : Out := slotOut s a (VPort.slot p) (.elem op f)

def execVnop (a : CoreRef) (p : VPort) (s : State) : Out := slotOut s a (VPort.slot p) .nop
def execVadd (a : CoreRef) (p : VPort) (f : ElemF) (s : State) : Out := elemOut s a p .vadd f
def execVsub (a : CoreRef) (p : VPort) (f : ElemF) (s : State) : Out := elemOut s a p .vsub f
def execVmul (a : CoreRef) (p : VPort) (f : ElemF) (s : State) : Out := elemOut s a p .vmul f
def execVfma (a : CoreRef) (p : VPort) (f : ElemF) (s : State) : Out := elemOut s a p .vfma f
def execVmin (a : CoreRef) (p : VPort) (f : ElemF) (s : State) : Out := elemOut s a p .vmin f
def execVmax (a : CoreRef) (p : VPort) (f : ElemF) (s : State) : Out := elemOut s a p .vmax f
def execVclt (a : CoreRef) (p : VPort) (f : ElemF) (s : State) : Out := elemOut s a p .vclt f
def execVcle (a : CoreRef) (p : VPort) (f : ElemF) (s : State) : Out := elemOut s a p .vcle f
def execVceq (a : CoreRef) (p : VPort) (f : ElemF) (s : State) : Out := elemOut s a p .vceq f
def execVsel (a : CoreRef) (p : VPort) (f : ElemF) (s : State) : Out := elemOut s a p .vsel f
def execVcvt (a : CoreRef) (p : VPort) (f : ElemF) (s : State) : Out := elemOut s a p .vcvt f
def execVfn (a : CoreRef) (p : VPort) (f : ElemF) (s : State) : Out := elemOut s a p .vfn f
def execVrand (a : CoreRef) (p : VPort) (f : ElemF) (s : State) : Out := elemOut s a p .vrand f

/-- A reduction on a port. -/
def redOut (s : State) (a : CoreRef) (p : VPort) (op : RedOp) (f : RedF) : Out := slotOut s a (VPort.slot p) (.red op f)

def execVsum (a : CoreRef) (p : VPort) (f : RedF) (s : State) : Out := redOut s a p .vsum f
def execVmaxr (a : CoreRef) (p : VPort) (f : RedF) (s : State) : Out := redOut s a p .vmaxr f
def execVargmax (a : CoreRef) (p : VPort) (f : RedF) (s : State) : Out := redOut s a p .vargmax f
def execVsumsq (a : CoreRef) (p : VPort) (f : RedF) (s : State) : Out := redOut s a p .vsumsq f
def execVacc (a : CoreRef) (p : VPort) (f : VaccF) (s : State) : Out := slotOut s a (VPort.slot p) (.vacc f)
def execVtld (a : CoreRef) (p : VPort) (f : VtldF) (s : State) : Out := slotOut s a (VPort.slot p) (.vtld f)

def execLnop (a : CoreRef) (s : State) : Out := slotOut s a 4 .nop
def execLdd (a : CoreRef) (f : StreamF) (s : State) : Out := slotOut s a 4 (.stream .ldd f)
def execSfill (a : CoreRef) (f : StreamF) (s : State) : Out := slotOut s a 4 (.stream .sfill f)
def execScopy (a : CoreRef) (f : StreamF) (s : State) : Out := slotOut s a 4 (.stream .scopy f)
def execScount (a : CoreRef) (f : ScountF) (s : State) : Out := slotOut s a 4 (.scount f)
def execSnop (a : CoreRef) (s : State) : Out := slotOut s a 5 .nop
def execStd (a : CoreRef) (f : StreamF) (s : State) : Out := slotOut s a 5 (.stream .std f)
def execStr (a : CoreRef) (f : StreamF) (s : State) : Out := slotOut s a 5 (.stream .str f)

def execNnop (a : CoreRef) (s : State) : Out := slotOut s a 6 .nop
def execMsend (a : CoreRef) (f : MsendF) (s : State) : Out := slotOut s a 6 (.msend f)

def execYnop (a : CoreRef) (s : State) : Out := slotOut s a 7 .nop
def execSig (a : CoreRef) (sc : BitVec 6) (so : BitVec 4) (rem : Bool) (n : BitVec 8) (s : State) : Out :=
  slotOut s a 7 (.sig sc so rem n)
def execCons (a : CoreRef) (sc : BitVec 6) (n : BitVec 8) (s : State) : Out := slotOut s a 7 (.cons sc n)
def execWait (a : CoreRef) (f : WaitF) (s : State) : Out := slotOut s a 7 (.wait f)
def execPwait (a : CoreRef) (f : PwaitF) (s : State) : Out := slotOut s a 7 (.pwait f)
def execQsel (a : CoreRef) (f : QselF) (s : State) : Out := slotOut s a 7 (.qsel f)
def execQrp (a : CoreRef) (q so : BitVec 4) (s : State) : Out := slotOut s a 7 (.qrp q so)
def execHswap (a : CoreRef) (h : BitVec 6) (s : State) : Out := slotOut s a 7 (.hswap h)
def execHval (a : CoreRef) (h : BitVec 6) (role v : Bool) (s : State) : Out := slotOut s a 7 (.hval h role v)
def execHarm (a : CoreRef) (s : State) : Out := slotOut s a 7 .harm

end Sys2Proof.Machine
end

