-- ==== Sys2Proof/Machine/Links.lean ====
section
/-! DEFINITION. Link ends (R316 to R330): flit layout, check word and link encryption, lanes and credits, the choice of
the next flit, retry and replay, with the commands RETRY_REQUEST and REPLAY_TIMEOUT. -/

namespace Sys2Proof.Machine

/-! ### Ends, ports and router inputs (R13, R14) -/

/-- Local coordinate bit of a die on an axis (R11). -/
def dieBit (n : DieIx) (axis : Nat) : Bool := n.val / 2 ^ axis % 2 == 1

def portAxis (p : PortIx) : Fin 3 := Fin.ofNat 3 p.val
def portOfDie (n : DieIx) (axis : Fin 3) : PortIx := Fin.ofNat 24 (3 * n.val + axis.val)

/-- The die of a link end. -/
def endDie : LinkEnd → DieIx
  | .port p => portDie p
  | .pkg n _ => n

/-- Partner of a die on an axis (R12). -/
def partner (n : DieIx) (axis : Fin 3) : DieIx := Fin.ofNat 8 (if dieBit n axis.val then n.val - 2 ^ axis.val else n.val + 2 ^ axis.val)

/-- Router index of a link end: +x, −x, +y, −y, +z, −z (R333). -/
def inputOf : LinkEnd → Fin 7
  | .port p => Fin.ofNat 7 (2 * (portAxis p).val + (if dieBit (portDie p) (portAxis p).val then 0 else 1))
  | .pkg n a => Fin.ofNat 7 (2 * a.val + (if dieBit n a.val then 1 else 0))

/-- Link end of a die at a router index 0 to 5 (R13). -/
def endOf (n : DieIx) (i : Fin 7) : LinkEnd :=
  let a : Fin 3 := Fin.ofNat 3 (i.val / 2)
  if (i.val % 2 == 0) == dieBit n a.val then .port (portOfDie n a) else .pkg n a

def State.link (s : State) : LinkEnd → Link
  | .port p => s.ports[p].link
  | .pkg n a => s.dies[n].pkg[a]

def State.modLink (s : State) (e : LinkEnd) (f : Link → Link) : State :=
  match e with
  | .port p => s.modPort p (fun x => { x with link := f x.link })
  | .pkg n a => s.modDie n (fun d => { d with pkg := vupd d.pkg a f })

/-- Every link end: the 24 ports and the 24 package ends. -/
def allEnds : List LinkEnd :=
  (List.finRange 24).map LinkEnd.port ++ (List.finRange 8).flatMap (fun n => (List.finRange 3).map (fun a => LinkEnd.pkg n a))

/-- States in which flits are exchanged (R317). -/
def Link.trained (l : Link) : Bool := l.st = .lowRate || l.st = .up || l.st = .host

/-- State code of R317. -/
def LinkState.code : LinkState → Nat
  | .unused => 0 | .down => 1 | .training => 2 | .lowRate => 3 | .up => 4 | .disabled => 5 | .host => 6

def NbState.code : NbState → Nat
  | .none_ => 0 | .seen => 1 | .verified => 2 | .admitted => 3

/-! ### Flit layout (R318, R319) -/

/-- Header bytes 0 to 11. -/
def flitHead (f : Flit) : Bytes :=
  leBytes 12 (field 0 4 f.fk.toNat + field 4 2 f.vl.toNat + field 6 1 (b2n f.dl) + field 7 1 (b2n f.kep) + field 8 4 f.ng.toNat
    + field 12 1 (b2n f.lst) + field 16 12 f.fseq.toNat + field 28 12 f.fack.toNat + field 40 2 f.cvl.toNat
    + field 42 1 (b2n f.ccl) + field 43 8 f.cred.toNat + field 51 7 f.hops.toNat + field 64 23 f.dst.toNat + field 87 8 f.job.toNat)

/-- The check word of a flit as it stands on the wire. -/
def flitCrc (f : Flit) : BitVec 32 := crc32 (flitHead f ++ f.body ++ f.trailer)

/-- Idle and link-control flits are not sequenced (R318). -/
def flitSequenced (f : Flit) : Bool := f.fk ≠ 0 && f.fk ≠ 4

/-! ### Lanes and credits (R326) -/

/-- Buffer of a flit: data class 0, data class 1, sync, management, host. -/
def laneIx (vl : BitVec 2) (dl : Bool) : Fin 5 :=
  match vl.toNat with
  | 0 => if dl then 1 else 0
  | 1 => 2
  | 2 => 3
  | _ => 4

/-- Lane and class of a buffer, as the fields of a credit return name them. -/
def laneCode (i : Fin 5) : BitVec 2 × Bool :=
  match i.val with
  | 0 => (0, false) | 1 => (0, true) | 2 => (1, false) | 3 => (2, false) | _ => (3, false)

/-- Buffer places of a receiving end, which are the sender's credits at training. A port in Low-rate has credits for the
management lane alone (R330), a host-facing port for the host and management lanes (R348). -/
def startCredits (e : LinkEnd) (st : LinkState) : Vector Nat 5 :=
  match e, st with
  | .port _, .lowRate => #v[0, 0, 0, 16, 0]
  | .port _, .host => #v[0, 0, 0, 16, 64]
  | .port _, _ => #v[192, 192, 32, 16, 64]
  | .pkg _ _, _ => #v[64, 64, 16, 8, 32]

/-- Places of the replay buffer (R324). -/
def replayLen : LinkEnd → Nat
  | .port _ => 512
  | .pkg _ _ => 128

/-- The receiver has passed a flit on: its place is owed to the sender. -/
def State.oweCredit (s : State) (e : LinkEnd) (f : Flit) : State :=
  s.modLink e (fun l => { l with owed := vupd l.owed (laneIx f.vl f.dl) (· + 1) })

/-- Put a flit into a link end's outbound queue. -/
def State.enqueueFlit (s : State) (e : LinkEnd) (f : Flit) : State := s.modLink e (fun l => { l with outq := l.outq ++ [f] })

/-- A management flit of Marigold on a port (R330). -/
def mgmtFlit (fk : BitVec 4) (dst : BitVec 23) (body : Bytes) : Flit := mkFlit fk 2 (ceilDiv body.length 16) true dst 0 body 0

/-! ### The next flit (R325, R327, R328) -/

/-- The nonce of R328. -/
def linkNonce (key : Bytes) (ctr : Nat) : Bytes := slice key 32 4 ++ leBytes 8 ctr

/-- A flit as it goes onto the wire: acknowledgement, credit return, key parity, encryption and check word. -/
def Link.wire (l : Link) (f : Flit) : Flit :=
  let give := (List.finRange 5).find? (fun i => decide (0 < l.owed[i]))
  let (lane, cls) := laneCode (give.getD 0)
  let n := match give with | some i => min 255 l.owed[i] | none => 0
  let f := { f with fack := l.expect - 1, cvl := lane, ccl := cls, cred := BitVec.ofNat 8 n, kep := l.enc && l.kep, ctr := l.txCtr }
  let (body, tag) := if l.enc then gcmSeal (slice l.txKey 0 32) (linkNonce l.txKey l.txCtr) (flitHead f) f.body
                     else (f.body, List.replicate 16 0)
  let f := { f with body := body, trailer := tag }
  { f with fcrc := flitCrc f }

/-- The credit return that a sent flit carries has been made. -/
def Link.paid (l : Link) (f : Flit) : Link := { l with owed := vupd l.owed (laneIx f.cvl f.ccl) (· - f.cred.toNat) }

def idleFlit : Flit := mkFlit 0 0 0 false 0 0 [] 0

/-- A link-control retry request for a sequence number (R324; its body's layout is the model's, log entry 27). -/
def retryFlit (fseq : BitVec 12) : Flit := mkFlit 4 0 1 false 0 0 (leBytes 2 fseq.toNat) 0

/-- Send an unsequenced flit. -/
def Link.sendPlain (l : Link) (f : Flit) : Link :=
  let w := l.wire f
  { l.paid w with sent := some w, txCtr := l.txCtr + 1 }

/-- Send a sequenced flit from the queue: it takes a number, a credit and a place in the replay buffer. -/
def Link.sendSeq (l : Link) (now : Nat) (f : Flit) : Link :=
  let w := l.wire { f with fseq := l.nextSeq }
  { l.paid w with
    sent := some w, txCtr := l.txCtr + 1, nextSeq := l.nextSeq + 1, replay := l.replay ++ [w], times := l.times ++ [now],
    credits := vupd l.credits (laneIx f.vl f.dl) (· - 1), outq := l.outq.erase f }

/-- The flit of the outbound queue that may go next on a lane: the first of the lane, with a credit for its class. -/
def Link.laneHead (l : Link) (vl : BitVec 2) : Option Flit :=
  match l.outq.find? (fun f => f.vl = vl) with
  | some f => if 0 < l.credits[laneIx f.vl f.dl] then some f else none
  | none => none

/-- Order of the lanes in a flit time of R327: in each run of 16, shares of 2 for management, 2 for host and 12 for data;
a share left unused goes to data, then host, then management. -/
def shareOrder (pos : Nat) : List (BitVec 2) :=
  if pos % 16 < 2 then [2, 0, 3] else if pos % 16 < 4 then [3, 0, 2] else [0, 3, 2]

/-- The next sequenced flit of a link end. -/
def Link.pick (l : Link) (room : Bool) : Option Flit :=
  if room then (1 :: shareOrder l.share).findSome? l.laneHead else none

/-- One flit time of a link end (R327): a control flit that is due, a replay, a sequenced flit, else an idle flit. -/
def Link.flitTime (l : Link) (e : LinkEnd) (now : Nat) : Link :=
  match l.ctlq, l.resend with
  | f :: r, _ => ({ l with ctlq := r } : Link).sendPlain f
  | [], f :: r => { l with resend := r, sent := some f }
  | [], [] =>
    match l.pick (decide (l.replay.length < replayLen e)) with
    | some f =>
      let l := l.sendSeq now f
      if f.vl = 1 then l else { l with share := (l.share + 1) % 16 }
    | none => { l.sendPlain idleFlit with share := (l.share + 1) % 16 }

/-! ### Retry (R324, R325) -/

/-- Ask for a replay from the expected flit, at most once per microsecond. -/
def Link.askRetry (l : Link) (now : Nat) : Link :=
  if !l.await || decide (l.reqAt + usCounts 1 ≤ now) then
    { l with await := true, reqAt := now, ctlq := l.ctlq ++ [retryFlit l.expect] }
  else l

/-- When the oldest flit of the replay buffer was last sent. -/
def Link.oldestAt (l : Link) : Nat := l.times.headD 0

/-- Free the replay buffer up to an acknowledged sequence number. -/
def Link.acked (l : Link) (fack : BitVec 12) : Link :=
  match l.replay.findIdx? (fun f => f.fseq = fack) with
  | some i =>
    let rest := l.replay.drop (i + 1)
    { l with replay := rest, times := l.times.drop (i + 1), resend := l.resend.filter (fun f => rest.contains f), stuck := 0 }
  | none => l

/-- Start a replay from a sequence number. -/
def Link.replayFrom (l : Link) (now : Nat) (fseq : BitVec 12) : Link :=
  let again := l.replay.dropWhile (fun f => f.fseq ≠ fseq)
  { l with resend := again, stuck := l.stuck + 1,
           times := l.times.take (l.replay.length - again.length) ++ List.replicate again.length now }

/-- Count a replay on a port (R351). -/
def State.countReplay (s : State) : LinkEnd → State
  | .port p => s.modPort p (fun x => { x with rplCnt := satAdd x.rplCnt 1 })
  | .pkg _ _ => s

/-- A packet is under way on a lane of a queue: its last flit there does not end it. -/
def openPacket (q : List Flit) (vl : BitVec 2) : Bool :=
  match (q.filter (fun f => f.vl = vl && (f.fk = 1 || f.fk = 2))).getLast? with
  | some f => !f.lst
  | none => false

end Sys2Proof.Machine
end

