-- ==== Sys2Proof/Machine/Time.lean ====
section
/-! DEFINITION. Time (R301 to R305, R347): alignment of the dies' counters, exchanges between modules, the choice of the
upstream neighbour and the alignment state, with their commands. -/

namespace Sys2Proof.Machine

/-- Denominator of the fraction below a time counter's lowest bit: one nominal clock period is 25·10^9/94·10^9 of a count
times 10^9 (log entry 3). -/
def fracUnit : Nat := 94000000000

/-- The limit of ρ in parts per 10^9 (R301). -/
def rhoLimit : Int := 250000

def clampRho (x : Int) : Int := max (-rhoLimit) (min rhoLimit x)

/-- No die has a loaded plan or a plan load in progress: a counter may step (R301). -/
def State.mayStep (s : State) : Bool :=
  s.dies.toList.all (fun d => d.plan.isNone && !d.pow.clearing) && s.hub.dict.load.st ≠ .receiving && s.hub.dict.load.st ≠ .checking

/-- Detail of a counter step (R433). -/
def stepDet (old new : U64) : Bytes := leBytes 8 old.toNat ++ leBytes 8 new.toNat

/-- A channel's times move with its die's counter when the counter is stepped: no interval changes its length. -/
def Chan.shift (old new : Nat) (x : Chan) : Chan :=
  let into (t : Nat) : Nat := new + t - old
  { x with since := into x.since, scrubAt := into x.scrubAt, round := x.round.map (fun r => { r with start := into r.start }) }

/-- The same of a whole die. -/
def Die.shiftTimes (old new : Nat) (d : Die) : Die :=
  if old = new then d
  else { d with cores := d.cores.map (fun k => { k with vault := { k.vault with chans := k.vault.chans.map (Chan.shift old new) } }) }

/-- A counter's value in 1/256 counts. -/
def fine (tc : U64) (frac : Nat) : Int := (tc.toNat * 256 + frac * 256 / fracUnit : Nat)

/-- How far the hub die's counter is ahead of a die's, in 1/256 counts, as their exchange finds it (R302, R303). -/
def State.dieOffset (s : State) (n : DieIx) : Int :=
  fine s.hub.time.tc s.hub.time.frac - fine s.dies[n].clock.tc s.dies[n].clock.tcFrac

/-- 1 µs in 1/256 counts: a larger offset is stepped where R301 allows (R304). -/
def farOffset : Nat := 64000

/-- The window of the frequency monitor begins anew at the next whole µs of the die's counter (R298). -/
def Die.freshWindow (d : Die) : Die :=
  { d with clock := { d.clock with fwCount := 0, fwStart := (d.clock.tc.toNat / 250 + 1) * 250 } }

/-- A die's counter steps to the hub die's value. -/
def Die.stepTo (d : Die) (t : HubTime) : Die :=
  let d := Die.event (Die.freshWindow { d.shiftTimes d.clock.tc.toNat t.tc.toNat with
    clock := { d.clock with tc := t.tc, tcFrac := t.frac }
    frm := { d.frm with nextTick := firstTick t.tc.toNat t.inForce.toNat, preDone := none }
    router := { d.router with nextSwap := firstTick t.tc.toNat t.inForce.toNat } })
    2 0x0A (unitIx d.ix.val 0 0) 301 0xFF (stepDet d.clock.tc t.tc)
  { d with clock := { d.clock with rho := t.rho, aligned := true } }

/-- An offset within the ±4 ns of R302, in 1/256 counts. -/
def boundOffset : Nat := 256

/-- DIE_TIME_ALIGN: the exchange on the die's lane. An offset above 1 µs is stepped where no plan is on the module; any other is
worked off through ρ over the next 1 ms. A counter is aligned once an exchange has found it within the bound of R302 (R301 to
R304, R449; DEDUCED, log entry 122). -/
def State.dieAlign (s : State) (n : DieIx) : State :=
  let d := s.dies[n]
  if !d.pow.vcoreOn || !d.pow.lane then s
  else
    let off := s.dieOffset n
    if s.mayStep && decide (farOffset < off.natAbs) then s.modDie n (fun d => d.stepTo s.hub.time)
    else
      let near := decide (off.natAbs ≤ boundOffset)
      s.modDie n (fun d => { d with clock := { d.clock with
        rho := clampRho (s.hub.time.rho + off * 125 / 8), aligned := d.clock.aligned || near } })

def execDieTimeAlign (n : DieIx) (s : State) : Out := .next (s.dieAlign n)

/-! ### Exchanges between modules (R303, R347) -/

/-- Body of a time flit. -/
def timeBody (tk : Nat) (trt : Bool) (tex : BitVec 16) (tts : BitVec 72) (hops : BitVec 8) : Bytes :=
  leBytes 1 tk ++ leBytes 1 (b2n trt) ++ leBytes 2 tex.toNat ++ leBytes 9 tts.toNat ++ leBytes 1 hops.toNat

def State.sendTime (s : State) (p : PortIx) (body : Bytes) : State := s.enqueueFlit (.port p) (mgmtFlit 5 0 body)

/-- A timestamp: the hub die's counter with 8 bits of fraction. -/
def State.stamp (s : State) (frac : BitVec 8) : BitVec 72 := BitVec.ofNat 72 (s.hub.time.tc.toNat * 256 + frac.toNat)

/-- Fraction of the hub die's counter at this moment. -/
def State.frac8 (s : State) : BitVec 8 := BitVec.ofNat 8 (s.hub.time.frac * 256 / fracUnit)

/-- Counts between two exchanges on a port: 62.5 ms. -/
def exchangeCounts : Nat := 15625000

/-- A port carries management flits: Up or Low-rate. -/
def Port.talks (x : Port) : Bool := x.link.st = .up || x.link.st = .lowRate

/-- TIME_EXCHANGE_START: the upstream side sends a sync flit; its departure gives t1 and calls for the follow-up. -/
def State.exchangeStart (s : State) (p : PortIx) : State :=
  let x := s.ports[p]
  if x.talks && (x.exAt = 0 || decide (x.exAt + exchangeCounts ≤ s.now)) && s.hub.time.upstream.toNat ≠ p.val then
    let tex := s.hub.time.exNum
    let s := s.modHub (fun h => { h with time := { h.time with exNum := h.time.exNum + 1 } })
    let s := s.modPort p (fun x =>
      { x with exAt := s.now, ex := some { tex := tex, t1 := none, t2 := none, t3 := none, bad := false } })
    s.sendTime p (timeBody 1 false tex 0 s.hub.time.hops)
  else s

def execTimeExchangeStart (p : PortIx) (s : State) : Out := .next (s.exchangeStart p)

/-- TIME_SYNC: the downstream side notes t2. -/
def State.timeSync (s : State) (p : PortIx) (tex : BitVec 16) (frac : BitVec 8) : State :=
  if s.ports[p].talks then
    let t2 := s.stamp frac
    s.modPort p (fun x => { x with ex := some { tex := tex, t1 := none, t2 := some t2, t3 := none, bad := x.link.await } })
  else s

def execTimeSync (p : PortIx) (tex : BitVec 16) (frac : BitVec 8) (s : State) : Out := .next (s.timeSync p tex frac)

/-- TIME_FOLLOW_UP: t1 arrives; the downstream side sends its delay request, whose departure gives t3. -/
def State.timeFollowUp (s : State) (p : PortIx) (tex : BitVec 16) (t1 : BitVec 72) (trt : Bool) (_frac : BitVec 8) : State :=
  match s.ports[p].ex with
  | some e =>
    if e.tex = tex && e.t2.isSome && s.ports[p].talks then
      let s := s.modPort p (fun x => { x with ex := some { e with t1 := some t1, bad := e.bad || trt || x.link.await } })
      s.sendTime p (timeBody 3 false tex 0 s.hub.time.hops)
    else s
  | none => s

def execTimeFollowUp (p : PortIx) (tex : BitVec 16) (t1 : BitVec 72) (trt : Bool) (frac : BitVec 8) (s : State) : Out :=
  .next (s.timeFollowUp p tex t1 trt frac)

/-- TIME_DELAY_REQUEST: the upstream side returns t4, saying whether it replayed a flit of the exchange. -/
def State.timeDelayRequest (s : State) (p : PortIx) (tex : BitVec 16) (frac : BitVec 8) : State :=
  match s.ports[p].ex with
  | some e =>
    if e.tex = tex && s.ports[p].talks then
      s.sendTime p (timeBody 4 e.bad tex (s.stamp frac) s.hub.time.hops)
    else s
  | none => s

def execTimeDelayRequest (p : PortIx) (tex : BitVec 16) (frac : BitVec 8) (s : State) : Out := .next (s.timeDelayRequest p tex frac)

/-- The time flits of a port as they leave: at the departure of a sync flit t1 is noted and the follow-up that carries it is
queued; at that of a delay request t3 is noted; a follow-up and a response say whether a flit of the exchange was replayed
(R303, R347). The flit that leaves is the first of its kind in the queue; the second part is the flit to send in its place. -/
def State.timeLeaves (s : State) (p : PortIx) (f : Flit) : State × Flit :=
  let tex : BitVec 16 := BitVec.ofNat 16 (leAt f.body 2 2)
  match s.ports[p].ex with
  | none => (s, f)
  | some e =>
    if e.tex ≠ tex then (s, f)
    else
      match leAt f.body 0 1 with
      | 1 =>
        let t1 := s.stamp s.frac8
        let s := s.modPort p (fun x => { x with ex := some { e with t1 := some t1 } })
        (s.sendTime p (timeBody 2 false tex t1 s.hub.time.hops), f)
      | 3 => (s.modPort p (fun x => { x with ex := some { e with t3 := some (s.stamp s.frac8) } }), f)
      | _ => (s, if e.bad then { f with body := f.body.take 1 ++ [1] ++ f.body.drop 2 } else f)

/-! ### The alignment state (R304) -/

/-- A change of the alignment state, recorded at info, or at warning on entry to holdover. -/
def Hub.setAlign (h : Hub) (st : BitVec 8) : Hub :=
  if h.time.align = st then h
  else Hub.event { h with time := { h.time with align := st } } (if st = 3 then 3 else 2) 0x0E 0 304 0xFF []

/-- The offset of an exchange in 1/256 counts (R303). -/
def exchangeOffset (t1 t2 t3 t4 : BitVec 72) : Int :=
  (((t2.toNat : Int) - t1.toNat) - ((t4.toNat : Int) - t3.toNat)) / 2

/-- An offset in ps: 1/256 count is 15.625 ps. -/
def offsetPs (o : Int) : Int := o * 125 / 8

/-- The I32 of 0x4110.04. -/
def offsetEntry (o : Int) : BitVec 32 := BitVec.ofInt 32 (max (-(2 ^ 31)) (min (2 ^ 31 - 1) (offsetPs o)))

/-- 20 ns in 1/256 counts. -/
def nearOffset : Nat := 1280

/-- ρ that brings an offset to zero over the next interval (R303). -/
def rhoFor (o : Int) : Int := clampRho (-(o * 1000000000) / (256 * exchangeCounts))

/-- The dies that follow the hub die's counter take a change of its rate with it, so that none leaves the bound of R302 before
its next exchange. -/
def State.followRho (s : State) (rho : Int) : State :=
  { s with dies := s.dies.map (fun d =>
      if d.pow.vcoreOn && d.pow.lane && d.clock.aligned then
        { d with clock := { d.clock with rho := clampRho (rho + (d.clock.rho - s.hub.time.rho)) } } else d) }

/-- A valid exchange at the downstream side. -/
def State.applyOffset (s : State) (o : Int) (hops : BitVec 8) : State :=
  let step := decide (farOffset < o.natAbs) && s.mayStep
  let old := s.hub.time.tc
  let new : U64 := if step then BitVec.ofInt 64 ((old.toNat : Int) - o / 256) else old
  let rho := if step then s.hub.time.rho else rhoFor o
  let s := s.followRho rho
  s.modHub (fun h =>
    let good := if o.natAbs ≤ nearOffset then h.time.good + 1 else 0
    let h := { h with time := { h.time with
      offset := offsetEntry o, tc := new, rho := rho, good := good, lastEx := h.time.wall,
      nextTick := if step then firstTick new.toNat h.time.inForce.toNat else h.time.nextTick,
      hops := if hops = 0xFF then 0xFF else hops + 1 } }
    let h := if step then h.event 2 0x0E 0 301 0xFF (stepDet old new) else h
    if farOffset < o.natAbs then h.setAlign 1 else if 4 ≤ good then h.setAlign 2 else h)

/-- TIME_RESPONSE: the offset of the exchange on the upstream port; an exchange with a replay is discarded (R303, R347). -/
def State.timeResponse (s : State) (p : PortIx) (tex : BitVec 16) (t4 : BitVec 72) (trt : Bool) (thops : BitVec 8) : State :=
  match s.ports[p].ex with
  | some { tex := n, t1 := some t1, t2 := some t2, t3 := some t3, bad := bad } =>
    if n = tex then
      let awaits := s.ports[p].link.await
      let s := s.modPort p (fun x => { x with ex := none })
      if bad || trt || awaits || s.hub.time.upstream.toNat ≠ p.val then s
      else s.applyOffset (exchangeOffset t1 t2 t3 t4) thops
    else s
  | _ => s

def execTimeResponse (p : PortIx) (tex : BitVec 16) (t4 : BitVec 72) (trt : Bool) (thops : BitVec 8) (s : State) : Out :=
  .next (s.timeResponse p tex t4 trt thops)

/-- TIME_HOLDOVER: no valid exchange for 1 s (R304). -/
def State.holdover (s : State) : State :=
  let t := s.hub.time
  if (t.align = 1 || t.align = 2) && decide (t.lastEx + secCounts 1 ≤ s.now) then
    s.modHub (fun h => h.setAlign 3)
  else s

def execTimeHoldover (s : State) : Out := .next s.holdover

/-! ### Upstream neighbour and root -/

/-- Every off-module port. -/
def allPorts : List PortIx := List.finRange 24


/-- Fields of a port's last announcement (R344). -/
def annHops (a : Bytes) : Nat := leAt a 30 1
def annFlags (a : Bytes) : Nat := leAt a 31 1
def annBase (a : Bytes) : Nat := leAt a 20 4

/-- Order of base coordinates: X0, then Y0, then Z0. -/
def baseKey (b : Nat) : Nat := bits b 5 0 * 4096 + bits b 13 8 * 64 + bits b 21 16

/-- Ports whose neighbour is heard. -/
def State.heard (s : State) : List PortIx :=
  (List.finRange 24).filter (fun p => s.ports[p].talks && s.ports[p].nb ≠ .none_ && !s.ports[p].lastAnn.isEmpty)

/-- This module is the time root: it offers itself, and no reachable module that offers itself has a lower base (R304). An
announcement shows that of a neighbour alone; of modules beyond the neighbours it is a free value (log entry 84). -/
def State.isRoot (s : State) : Bool :=
  s.hub.time.root && s.heard.all (fun p =>
    let a := s.ports[p].lastAnn
    !(annFlags a / 4 % 2 == 1 && decide (baseKey (annBase a) < baseKey s.hub.dict.base.toNat)))
  && (s.heard.isEmpty || !Config.fartherRoot (baseKey s.hub.dict.base.toNat) (s.heard.map (fun p => s.ports[p].lastAnn)))

/-- The neighbour with the fewest hops to the root; ties go to the lowest port. -/
def State.bestUpstream (s : State) : Option PortIx :=
  (s.heard.filter (fun p => decide (annHops s.ports[p].lastAnn < 255))).foldl (fun b p =>
    match b with
    | none => some p
    | some q => if annHops s.ports[p].lastAnn < annHops s.ports[q].lastAnn then some p else b) none

/-- Choose the upstream neighbour anew (R304): at the root, Free with none; else Acquiring where it changes. -/
def State.chooseUpstream (s : State) : State :=
  if s.isRoot then
    s.modHub (fun h => ({ h with time := { h.time with upstream := 0xFF, hops := 0 } } : Hub).setAlign 0)
  else
    match s.bestUpstream with
    | none => s.modHub (fun h => { h with time := { h.time with upstream := 0xFF, hops := 0xFF } })
    | some p =>
      let hops := BitVec.ofNat 8 (annHops s.ports[p].lastAnn + 1)
      if s.hub.time.upstream.toNat = p.val then s.modHub (fun h => { h with time := { h.time with hops := hops } })
      else
        s.modHub (fun h =>
          ({ h with time := { h.time with upstream := BitVec.ofNat 8 p.val, hops := hops, good := 0, lastEx := h.time.wall } } : Hub).setAlign 1)

/-- A port that has left the trained states for more than an attempt at training. -/
def LinkState.away : LinkState → Bool
  | .unused | .down | .disabled | .host => true
  | .training | .lowRate | .up => false

/-- Marigold's firmware chooses anew once a neighbour that the choice may rest on is gone: the upstream one, or any, of a module
that offers itself (R304). -/
def State.upstreamLost (s : State) : State :=
  let t := s.hub.time
  let gone := allPorts.any (fun p => p.val = t.upstream.toNat && s.ports[p].link.st.away)
  if s.hub.fw.running && (gone || (t.root && t.hops ≠ 0 && s.isRoot)) then s.chooseUpstream else s

end Sys2Proof.Machine
end

