-- ==== Sys2Proof/Machine/Torus.lean ====
section
/-! DEFINITION. The torus (chapter 14): answers of routers and of the bridge, link ends that go Down, fault reports,
training and link keys, announcements and neighbour states, route images and their swap, with their commands. -/

namespace Sys2Proof.Machine

/-! ### Answers by a router or the bridge (R283, R288, R338) -/

/-- The host-facing port, where the module is a bridge (R28). -/
def State.hostEnd (s : State) : Option PortIx :=
  if h : s.hub.dict.hostPort.toNat < 24 then some ⟨s.hub.dict.hostPort.toNat, h⟩ else none

/-- `psrc` of a head flit (R320). -/
def flitSrc (f : Flit) : BitVec 23 := BitVec.ofNat 23 (bits (leAt f.body 0 16) 24 2)

/-- A head flit of a host-origin message: `ho` of the clear header (R414). -/
def hostOrigin (f : Flit) : Bool := f.vl = 3 && bits (leAt f.body 16 1) 2 2 = 1

/-- The 16-byte host notice of R288. -/
def hostNotice (code : Nat) (o : HostOut) : Bytes :=
  leBytes 16 (field 0 4 code + field 16 16 o.ses.toNat + field 32 32 o.seq.toNat + field 64 23 o.dst.toNat + field 87 4 o.q.toNat)

/-- Send a host notice over the host-facing port. -/
def State.notifyHost (s : State) (code : Nat) (o : HostOut) : State :=
  match s.hostEnd with
  | some p => s.enqueueFlit (.port p) (mkFlit 3 3 1 true 0 0 (hostNotice code o) 0)
  | none => s

/-- The host-origin messages that an answer may belong to: of the message's ring, tag and sequence number, of its session where
that is known, and to the core that answers where that is known; the oldest is first. -/
def State.hostOutsOf (s : State) (m : MsgId) (by_ : Option (BitVec 23)) : List HostOut :=
  s.hub.dict.hostOuts.filter (fun o => o.q = m.q && o.tag = m.tag && o.seq = m.seq && (m.ses = 0 || o.ses = m.ses)
    && by_.all (fun b => b = o.dst))

/-- A host-origin message is answered: its notice goes to the host. -/
def State.answerHost (s : State) (code : Nat) (m : MsgId) (by_ : Option (BitVec 23) := none) : State :=
  match (s.hostOutsOf m by_).head? with
  | some o => (s.modHub (fun h => { h with dict := { h.dict with hostOuts := h.dict.hostOuts.erase o } })).notifyHost code o
  | none => s

/-- The die of the host-facing port. -/
def State.bridgeDie (s : State) : Option DieIx := s.hostEnd.map portDie

/-- An answer reaches this die for a sender with a physical designator of it: the host at the bridge, or a core. -/
def State.answerHere (s : State) (n : DieIx) (c by_ : CoreIx) (code : Nat) (m : MsgId) (host : Bool) : State :=
  if host then s.answerHost code m
  else s.modDie n (fun d => d.answerOwn c by_ { code := BitVec.ofNat 4 code, ring := m.q, tag := m.tag, seq := m.seq }
    (landCycle d.clock.clk by_ c))

/-- The router of die n answers the message of a head flit (R338); the bridge answers in the name of core 0 (R289). -/
def State.answerFlit (s : State) (n : DieIx) (f : Flit) (code : Nat) (bridge : Bool := false) : State :=
  match f.msg with
  | none => s
  | some m =>
    match (List.finRange 32).find? (fun c => s.dies[n].physDesignator c = flitSrc f) with
    | some c => s.answerHere n c (if bridge then 0 else c) code m (hostOrigin f)
    | none => s.modDie n (fun d => d.answerAway (flitSrc f) 0 f.job { m with ho := hostOrigin f }
        { code := BitVec.ofNat 4 code, ring := m.q, tag := m.tag, seq := m.seq })

/-- Remove a packet to the host and answer its sender from the bridge. -/
def State.hostDone (s : State) (x : ToHost) (code : Nat) : State :=
  let s := s.modHub (fun h => { h with dict := { h.dict with toHost := h.dict.toHost.erase x } })
  match s.bridgeDie, x.flits with
  | some n, f :: _ => s.answerFlit n f code true
  | _, _ => s

/-! ### An input goes Down (R338) -/

def laneBit (host : Bool) : BitVec 2 := if host then 3 else 0

/-- Index of a router input and packet lane. -/
def laneOf (i : Fin 7) (host : Bool) : Fin 14 := Fin.ofNat 14 (2 * i.val + b2n host)

/-- What the head flit of a packet says, once it has been routed. -/
def routedOf (f : Flit) (out : Fin 7) (dl : Bool) : Routed :=
  { out := out, dl := dl, dst := f.dst, src := flitSrc f, job := f.job, msg := f.msg }

/-- The loss notice of a message of which a part is missing (R285, R323). -/
def Die.lossAway (d : Die) (r : Routed) : Die :=
  match r.msg with
  | some m => d.sendRec { idst := r.dst, isc := 0, iamt := 0, ik := 3, icode := 0, isrc := r.src, ijob := r.job, iq := m.q,
                          itag := m.tag, iseq := m.seq } (some m)
  | none => d

/-- The partly received packet of an input's lane is discarded; for a message its loss notice is sent. -/
def Die.cutLane (d : Die) (i : Fin 7) (host : Bool) : Die :=
  let x := laneOf i host
  let mine (f : Flit) : Bool := f.vl = laneBit host && (f.fk = 1 || f.fk = 2)
  let q := d.router.inq[i]
  if openPacket q (laneBit host) then
    match (q.filter mine).findIdx? (fun f => f.fk = 1), ((q.filter mine).filter (fun f => f.fk = 1)).getLast? with
    | some _, some h =>
      let keep := (q.filter mine).take ((q.filter mine).length - ((q.filter mine).reverse.findIdx (fun f => f.fk = 1) + 1))
      let d := { d with router := { d.router with
        inq := vupd d.router.inq i (fun q => q.filter (fun f => !mine f || keep.contains f)) } }
      d.lossAway (routedOf h 0 false)
    | _, _ =>
      let r := d.router.route[x]
      let d := { d with router := { d.router with
        inq := vupd d.router.inq i (fun q => q.filter (fun f => !mine f)), route := vupd d.router.route x (fun _ => none),
        drop := vupd d.router.drop x (fun _ => false), rx := vupd d.router.rx x (fun _ => []) } }
      match r with | some r => d.lossAway r | none => d
  else if (q.filter mine).isEmpty then
    let r := d.router.route[x]
    let d := { d with router := { d.router with
      route := vupd d.router.route x (fun _ => none), drop := vupd d.router.drop x (fun _ => false),
      rx := vupd d.router.rx x (fun _ => []) } }
    match r with | some r => d.lossAway r | none => d
  else d

/-- The queue of an output that goes Down: messages are answered with NAK 0x7, all else is discarded. With the host-facing port
every packet sent to the adapter and not acknowledged is lost, and answered so from the bridge (R289, R349; DEDUCED, log entry
123). -/
def State.flushOut (s : State) (e : LinkEnd) : State :=
  let n := endDie e
  let q := (s.link e).outq
  let s := if (s.link e).st = .host then (s.hub.dict.toHost.filter (·.sent)).foldl (fun s x => s.hostDone x 7) s
    else (q.filter (fun f => f.fk = 1)).foldl (fun s f => s.answerFlit n f 7) s
  let s := if q.any (fun f => f.fk = 1 || f.fk = 3) then s.modDie n (fun d => d.fault .router rtUnreach) else s
  s.modDie n (fun d => { d with router := { d.router with
    drop := d.router.drop.mapIdx (fun x b => b || (d.router.route.toList.getD x none).any (fun r => r.out = inputOf e)) } })

/-! ### Fault reports (R343) -/

/-- Physical designator of core 0 of the bridge die that an entry 0x3000.04 names (R349). -/
def bridgeDesig (b : U32) : BitVec 23 :=
  let n := bits b.toNat 31 24 / 3
  designator (bits b.toNat 5 0 + n % 2) (bits b.toNat 13 8 + n / 2 % 2) (bits b.toNat 21 16 + n / 4 % 2) 0

/-- The record of R343 (its layout is the model's, log entry 28). -/
def reportBytes (base : U32) (port st nb cause : Nat) (gen : U32) : Bytes :=
  leBytes 4 base.toNat ++ leBytes 1 port ++ leBytes 1 st ++ leBytes 1 nb ++ leBytes 1 cause ++ leBytes 4 gen.toNat ++ leBytes 4 0

/-- The bridge adds a record, newest last, of up to 256. -/
def Hub.addReport (h : Hub) (r : Bytes) : Hub :=
  let l := h.dict.groupLog ++ [r]
  { h with dict := { h.dict with groupLog := l.drop (l.length - 256) } }

/-- FAULT_REPORT_ARRIVAL: at a bridge. -/
def State.reportArrival (s : State) (base : U32) (port st nb cause : BitVec 8) (gen : U32) : State :=
  if s.hostEnd.isSome then s.modHub (·.addReport (reportBytes base port.toNat st.toNat nb.toNat cause.toNat gen)) else s

def execFaultReportArrival (base : U32) (port : BitVec 8) (portState : PortChange) (nbState : BitVec 8) (gen : U32) (s : State) : Out :=
  act s (s.reportArrival base port portState.st nbState portState.cause gen)

/-- The byte before a fault report in a management flit: no PDU begins with it (log entry 28). -/
def reportMark : Byte := 0xFF

/-- Report a port to the group's bridge, with the cause (R452): this module, or over the management lane. -/
def State.report (s : State) (p : PortIx) (cause : Nat) : State :=
  let b := s.hub.dict.bridge
  let r := reportBytes s.hub.dict.base p.val s.ports[p].link.st.code s.ports[p].nb.code cause s.hub.dict.topoGen
  if b = 0xFFFFFFFF then s
  else if bits b.toNat 21 0 = bits s.hub.dict.base.toNat 21 0 then s.modHub (·.addReport r)
  else s.modDie (portDie p) (fun d => if d.pow.vcoreOn then d.routeIn [mgmtFlit 7 (bridgeDesig b) (reportMark :: r)] else d)

/-- Raise 0x3000.05. -/
def State.raiseTopo (s : State) : State := s.modHub (fun h => { h with dict := { h.dict with topoGen := h.dict.topoGen + 1 } })

/-! ### A link end goes Down (R317, R343, R346) -/

/-- Counts of 250 ms and 100 ms (R317). -/
def retryCounts : Nat := msCounts 250
def trainCounts : Nat := msCounts 100

/-- First 16 bytes of a neighbour's identity digest as it announced them. -/
def annId (a : Bytes) : Bytes := slice a 4 16

/-- A link end leaves the trained states: its partly received packets are cut, its queue is answered or discarded, and it
takes a new state. -/
def State.dropLink (s : State) (e : LinkEnd) (new : LinkState) : State :=
  let n := endDie e
  let s := s.flushOut e
  let s := s.modDie n (fun d => (d.cutLane (inputOf e) false).cutLane (inputOf e) true)
  s.modLink e (fun _ => { Link.init with st := new, retryAt := s.now + retryCounts })

/-- The cause a record carries: a managed removal where a final announcement came within the last second (R452). -/
def State.downCause (s : State) (p : PortIx) (cause : Nat) : Nat :=
  match s.ports[p].finalAt with
  | some t => if s.now ≤ t + secCounts 1 then 6 else cause
  | none => cause

/-- A port leaves the trained states: its neighbour is lost, the choice of the upstream neighbour made anew where it was that one
(R304), and the change is recorded, counted and reported. -/
def State.portDown (s : State) (p : PortIx) (new : LinkState) (cause : Nat) : State :=
  let x := s.ports[p]
  let cause := if new = .down then s.downCause p cause else cause
  let s := s.dropLink (.port p) new
  let s := s.modPort p (fun y => { y with
    nb := .none_, oldId := if x.nb = .none_ then y.oldId else annId x.lastAnn, annAt := none, ex := none, rising := none })
  let s := s.upstreamLost
  let det := portDet p x.link.st.code new.code cause 0
  let s := if new = .down then s.portFault p lnkLost det
           else s.modHub (·.event 4 0x0C (BitVec.ofNat 16 p.val) 343 0xFF det)
  s.raiseTopo.report p cause

/-- A link end goes Down, or to another untrained state, for a cause of R433. -/
def State.linkDown (s : State) (e : LinkEnd) (new : LinkState) (cause : Nat) : State :=
  if (s.link e).trained then
    match e with
    | .port p => s.portDown p new cause
    | .pkg _ _ => s.dropLink e new
  else s

/-- LINK_DOWN: marker lock is lost, or no flit has passed its CRC for 10 µs. -/
def execLinkDown (e : LinkEnd) (noValidFlit : Bool) (s : State) : Out := .next (s.linkDown e .down (if noValidFlit then 2 else 1))

/-! ### Replays (R324, R325) -/

/-- The time exchange in progress on a port is to be discarded (R303, R347). -/
def State.spoilExchange (s : State) (p : PortIx) : State := s.modPort p (fun x => { x with ex := x.ex.map (fun y => { y with bad := true }) })

/-- A receiving end asks for a replay. -/
def State.askReplay (s : State) (e : LinkEnd) : State :=
  let s := s.modLink e (·.askRetry s.now)
  match e with
  | .port p => s.spoilExchange p
  | .pkg _ _ => s

/-- Replay from a sequence number; once sixteen replays have been made without advance the end goes to Down. A port's exchange
is spoilt where one of its flits is sent again (R303, R347). -/
def State.replay (s : State) (e : LinkEnd) (fseq : BitVec 12) : State :=
  if 16 ≤ (s.link e).stuck then
    let s := match e with | .port p => s.portFault p rplLim | .pkg _ _ => s
    s.linkDown e .down 3
  else
    let s := (s.countReplay e).modLink e (·.replayFrom s.now fseq)
    match e with
    | .port p => if (s.link e).resend.any (fun f => f.fk = 5) then s.spoilExchange p else s
    | .pkg _ _ => s

/-- RETRY_REQUEST. -/
def State.retryRequest (s : State) (e : LinkEnd) (fseq : BitVec 12) : State :=
  if (s.link e).trained && (s.link e).replay.any (fun f => f.fseq = fseq) then s.replay e fseq else s

def execRetryRequest (e : LinkEnd) (fseq : BitVec 12) (s : State) : Out := .next (s.retryRequest e fseq)

/-- REPLAY_TIMEOUT: the oldest flit has gone unacknowledged for 10 µs. -/
def State.replayTimeout (s : State) (e : LinkEnd) : State :=
  match (s.link e).replay with
  | f :: _ => if (s.link e).trained && decide ((s.link e).oldestAt + usCounts 10 ≤ s.now) then s.replay e f.fseq else s
  | [] => s

def execReplayTimeout (e : LinkEnd) (s : State) : Out := .next (s.replayTimeout e)

/-! ### Training and link keys (R317, R328, R329, R415) -/

/-- The transition in progress holds the package links Down: it has taken them down, or trains them in a later step (R446). -/
def Trans.holdsLinks (t : Trans) : Bool :=
  let todo := if t.begun then t.steps.drop 1 else t.steps
  todo.contains .linksUp || (decide (t.target.toNat ≤ 2) && !todo.contains .linksDown)

/-- What holds an end Down: a package link end while VCORE of either of its dies is off (R449) or a transition holds it so (R446);
a port of a fenced die (R368), or while its VSER rails or REFCLK are away (R449, R470). -/
def State.endHeld (s : State) (e : LinkEnd) : Bool :=
  match e with
  | .pkg n a => !s.dies[n].pow.vcoreOn || !s.dies[partner n a].pow.vcoreOn || s.hub.power.trans.any Trans.holdsLinks
  | .port p => s.dies[portDie p].pow.fenced || !s.hub.board.refclk
      || !(s.hub.power.rails[10].good && s.hub.power.rails[11].good)

/-- The axis of a port is more than one module deep, or the port is host-facing (R16, R317, R332). -/
def State.portUsed (s : State) (p : PortIx) : Bool :=
  s.hostEnd = some p || decide (2 < bits s.hub.dict.size.toNat (8 * (portAxis p).val + 5) (8 * (portAxis p).val))

def State.endUsed (s : State) : LinkEnd → Bool
  | .port p => s.portUsed p
  | .pkg _ _ => true

/-- The endorsement certificate of the module as its identity-records region holds it (R402). -/
def ownCert : Bytes :=
  leBytes 4 0x43455A59 ++ leBytes 4 0x0000B8A0 ++ slice (Config.serial.take 16) 0 16 ++ slice Config.manufactureKey 0 1312
    ++ slice Config.endorsementSig 0 2420

/-- ξ, from which the identity key pair comes (R400). -/
def Sec.identitySeed (x : Sec) : Bytes := shakeN 32 (strBytes "YZB8 identity" ++ x.seed)

/-- A signature by the identity key. -/
def Sec.sign (x : Sec) (context : String) (message : Bytes) : Bytes := slice (Config.dsaSign x.identitySeed context message) 0 2420

/-- The key-agreement step at this end of a port (R415): a fresh encapsulation key is drawn, and the identity key, the
endorsement and that key, signed, are sent. A host-facing port agrees no keys. -/
def State.sendHello (s : State) (p : PortIx) : State :=
  let seed := slice (Config.freshBytes s.hubKey 64) 0 64
  let ek := slice (Config.kemPublic seed) 0 1184
  let hello := slice s.hub.sec.idKey 0 1312 ++ slice s.hub.sec.cert 0 3756 ++ ek ++ s.hub.sec.sign "YZB8 link" ek
  if s.hostEnd = some p then s else s.drew.modPort p (fun x => { x with kemSeed := seed, hello := hello, capsule := [] })

/-- Package links and ports are trained from step 6 of bring-up on (R442). -/
def State.trains (s : State) : Bool := decide (6 ≤ s.hub.bring.step.toNat)

/-- TRAINING_RETRY: an end that is Down begins another attempt; a module whose identity failed trains no port (R401). -/
def State.trainingRetry (s : State) (e : LinkEnd) : State :=
  let l := s.link e
  let isPort := match e with | .port _ => true | .pkg _ _ => false
  if l.st = .down && decide (l.retryAt ≤ s.now) && s.trains && !(isPort && s.hub.sec.puffed) && !s.endHeld e && s.endUsed e then
    let s := s.modLink e (fun l => { l with st := .training, retryAt := s.now + trainCounts, trainAt := s.now })
    match e with
    | .port p => (s.modPort p (fun x => { x with trnCnt := satAdd x.trnCnt 1 })).sendHello p
    | .pkg _ _ => s
  else s

def execTrainingRetry (e : LinkEnd) (s : State) : Out := .next (s.trainingRetry e)

/-- A training attempt fails: the end is Down until its next retry, 250 ms after the attempt began. -/
def State.trainingFails (s : State) (e : LinkEnd) : State :=
  (s.modLink e (fun l => { l with st := .down, retryAt := max s.now (l.trainAt + retryCounts), failed := l.failed + 1 })).upstreamLost

/-- Order of byte strings. -/
def bytesLt : Bytes → Bytes → Bool
  | _, [] => false
  | [], _ :: _ => true
  | a :: r, b :: t => decide (a.toNat < b.toNat) || (a = b && bytesLt r t)

/-- The endorsement certificate of a key (R402). -/
def certOk (key cert : Bytes) : Bool :=
  cert.length = 3756 && leAt cert 0 4 = 0x43455A59 && leAt cert 4 4 = 0x0000B8A0 && slice cert 24 1312 = key
  && Config.dsaVerify Config.yilzonKey "YZB8 endorse" (slice cert 0 1336) (slice cert 1336 2420)

/-- The checks of R415 on what the far end sends; the announced identity is compared where one has been announced. -/
def State.peerOk (s : State) (p : PortIx) (h : PeerHello) : Bool :=
  certOk h.identKey h.cert && Config.dsaVerify h.identKey "YZB8 link" h.ekey h.ekeySig
  && (s.ports[p].annAt.isNone || annId s.ports[p].lastAnn = slice (Config.sha3 h.identKey) 0 16)
  && Config.sha3 h.identKey ≠ Config.sha3 s.hub.sec.idKey

/-- The encapsulation to the far end's key: the shared secret and the capsule sent; its coins are drawn. -/
def State.encap (s : State) (h : PeerHello) : Bytes × Bytes := Config.kemEncap h.ekey (slice (Config.freshBytes s.hubKey 32) 0 32)

/-- The 72 bytes of R415 as the keys and salts out and in, from the own encapsulation and the far end's to the own fresh
key. -/
def State.linkKeys (s : State) (p : PortIx) (h : PeerHello) : Bytes × Bytes :=
  let mine := (s.encap h).1
  let theirs := Config.kemDecap s.ports[p].kemSeed h.capsule
  let own := Config.sha3 s.hub.sec.idKey
  let far := Config.sha3 h.identKey
  let low := bytesLt own far
  let k := shakeN 72 (strBytes "YZB8 link" ++ (if low then mine ++ theirs ++ own ++ far else theirs ++ mine ++ far ++ own))
  if low then (slice k 0 36, slice k 36 36) else (slice k 36 36, slice k 0 36)

/-- The module sleeps in Doze or Deep, or goes there (R446). -/
def State.sleeps (s : State) : Bool :=
  match s.hub.power.trans with
  | some t => t.target = 1 || t.target = 2
  | none => s.hub.power.state = 1 || s.hub.power.state = 2

/-- State a trained port takes: Host where it is host-facing, Low-rate where it was commanded or the module sleeps. -/
def State.trainedState (s : State) (p : PortIx) : LinkState :=
  if s.hostEnd = some p then .host
  else if s.ports[p].cmd = 2 || s.sleeps then .lowRate else .up

/-- A link end comes up with fresh numbers and full credits. -/
def freshLink (e : LinkEnd) (st : LinkState) : Link := { Link.init with st := st, credits := startCredits e st }

/-- The request by which one end moves the other between full rate and Low-rate (its layout is the model's, log entry 87). -/
def moveMark : Byte := 0xFE
def moveFlit (low : Bool) : Flit := mgmtFlit 7 0 [moveMark, BitVec.ofNat 8 (b2n low)]

/-- A neighbour that fails a check takes a port from one state to another, with the neighbour state it leaves (R345, R415). R433
names no cause for it: the record gives none (DESIGN CHOICE, log entry 125). -/
def State.mismatch (s : State) (p : PortIx) (new : LinkState) (nb : NbState) : State :=
  s.portFault p nbMis (portDet p s.ports[p].link.st.code new.code 0 nb.code)

/-- TRAINING_COMPLETE. An end that comes up in Low-rate asks the far end to move with it. A module whose identity failed takes no
port beyond Down (R401). -/
def State.trainingComplete (s : State) (e : LinkEnd) (h : PeerHello) : State :=
  if (s.link e).st ≠ .training then s
  else if !h.lanesLocked then s.trainingFails e
  else
    match e with
    | .pkg _ _ => s.modLink e (fun _ => freshLink e .up)
    | .port p =>
      let st := s.trainedState p
      let up (s : State) (l : Link) : State :=
        s.modPort p (fun x => { x with link := l, nb := .none_, annCnt := 0, annAt := none, annSentAt := 0,
                                       ex := none, exAt := 0, tagFails := [], rising := none })
      if s.hub.sec.puffed then s.trainingFails e
      else if st = .host then up s (freshLink e st)
      else if s.peerOk p h then
        let (tx, rx) := s.linkKeys p h
        let s := (up s { freshLink e st with enc := true, txKey := tx, rxKey := rx }).modPort p (fun x => { x with
          peerId := Config.sha3 h.identKey, kemSeed := [], capsule := (s.encap h).2 }) |>.drew
        if st = .lowRate then s.enqueueFlit e (moveFlit true) else s
      else (s.mismatch p .down .none_).trainingFails e

def execTrainingComplete (e : LinkEnd) (h : PeerHello) (s : State) : Out := .next (s.trainingComplete e h)

/-- LINK_KEY_RENEWAL: at 2^31 flits a new key is agreed, from fresh encapsulation keys at both ends (R415); the sender's key parity changes with its next flit, and the
receiver follows the far end's. A failed check takes the port to Down. -/
def State.keyRenewal (s : State) (p : PortIx) (h : PeerHello) : State :=
  let l := s.ports[p].link
  if l.enc && l.trained && (decide (2 ^ 31 ≤ l.txCtr) || decide (2 ^ 31 ≤ l.rxCtr)) then
    if s.peerOk p h then
      let s := s.sendHello p
      let (tx, rx) := s.linkKeys p h
      (s.modPort p (fun x => { x with keyCnt := x.keyCnt + 1, kemSeed := [], capsule := (s.encap h).2, link := { x.link with
        txKey := tx, txCtr := 0, kep := !x.link.kep, nextRx := rx, prevRx := [] } })).drew
    else (s.mismatch p .down .none_).linkDown (.port p) .down 1
  else s

def execLinkKeyRenewal (p : PortIx) (h : PeerHello) (s : State) : Out := .next (s.keyRenewal p h)

/-- LINK_KEY_EXPIRY: 2^32 flits under one key take the port to Down. -/
def State.keyExpiry (s : State) (p : PortIx) : State :=
  if s.ports[p].link.enc && s.ports[p].link.trained && decide (2 ^ 32 ≤ s.ports[p].link.txCtr) then
    (s.portFault p keyExp).linkDown (.port p) .down 4
  else s

def execLinkKeyExpiry (p : PortIx) (s : State) : Out := .next (s.keyExpiry p)

/-- A port trains anew within a time: its partly received packets are cut, and the neighbour's state is None (R330, R345,
R346). In a module whose identity failed it goes Down instead, as by a command (R401; DESIGN CHOICE, log entry 125). -/
def State.retrain (s : State) (p : PortIx) (limit : Nat) : State :=
  if s.hub.sec.puffed then s.linkDown (.port p) .down 6
  else
  let had := s.ports[p].nb
  let s := s.dropLink (.port p) .training
  let s := s.modPort p (fun x => { x with
    trnCnt := satAdd x.trnCnt 1, nb := .none_, oldId := if had = .none_ then x.oldId else annId x.lastAnn, annAt := none, ex := none,
    rising := none, link := { x.link with retryAt := s.now + limit, trainAt := s.now } })
  (if had = .none_ then s else s.raiseTopo).sendHello p

/-! ### Low-rate (R330) -/

/-- The longest that a move from Low-rate to Up takes, training included (R330). -/
def riseCounts : Nat := msCounts 50

/-- A port moves from Up to Low-rate, and asks the far end to: only the management lane goes on, and the neighbour is admitted
no longer (R330). -/
def State.toLowRate (s : State) (p : PortIx) : State :=
  if s.ports[p].link.st = .up then
    let e := LinkEnd.port p
    let s := s.flushOut e
    let s := s.modDie (portDie p) (fun d => (d.cutLane (inputOf e) false).cutLane (inputOf e) true)
    s.modLink e (fun l => { l with st := .lowRate, outq := moveFlit true :: l.outq.filter (fun f => f.vl = 2),
                                   credits := l.credits.mapIdx (fun i c => if i = 3 then c else 0) })
  else s

/-- A port in Low-rate asks the far end to move to full rate with it (R330). -/
def State.toFullRate (s : State) (p : PortIx) : State :=
  if s.ports[p].link.st = .lowRate && s.ports[p].rising.isNone then
    (s.enqueueFlit (.port p) (moveFlit false)).modPort p (fun x => { x with rising := some s.now })
  else s

/-- The request has left, or its time is up: the port trains for full rate in what is left of the move's time. -/
def State.riseNext (s : State) (p : PortIx) : State :=
  match s.ports[p].rising with
  | some t =>
    if s.ports[p].link.st = .lowRate && (!(s.ports[p].link.outq.contains (moveFlit false)) || decide (t + riseCounts ≤ s.now)) then
      s.retrain p (t + riseCounts - s.now)
    else s
  | none => s

/-- The far end asks for a move. -/
def State.moveIn (s : State) (p : PortIx) (low : Bool) : State :=
  if low then s.toLowRate p
  else if s.ports[p].link.st = .lowRate then s.retrain p riseCounts else s

/-! ### Announcements and neighbour states (R344 to R346) -/

/-- Body of an announcement that gives a power state. -/
def State.annBody (s : State) (p : PortIx) (pst : BitVec 8) : Bytes :=
  let h := s.hub
  let flg := b2n s.hostEnd.isSome + 2 * b2n h.bring.attested + 4 * b2n h.time.root
  slice (leBytes 4 s.ports[p].annCnt.toNat ++ slice (Config.sha3 h.sec.idKey) 0 16 ++ leBytes 4 h.dict.base.toNat
    ++ leBytes 4 h.dict.size.toNat ++ leBytes 1 p.val ++ leBytes 1 pst.toNat ++ leBytes 1 h.time.hops.toNat
    ++ leBytes 1 flg ++ leBytes 4 h.dict.bridge.toNat ++ leBytes 4 h.dict.topoGen.toNat) 0 224

/-- Send an announcement that gives a power state on a port now. -/
def State.announceAs (s : State) (p : PortIx) (pst : BitVec 8) : State :=
  let s := s.modPort p (fun x => { x with annCnt := x.annCnt + 1, annSentAt := s.now })
  s.enqueueFlit (.port p) (mgmtFlit 6 0 (s.annBody p pst))

/-- Send an announcement on a port now. -/
def State.announce (s : State) (p : PortIx) : State := s.announceAs p s.hub.power.state

/-- ANNOUNCEMENT_SEND: every 100 ms on a port that is Up or Low-rate, while the firmware runs (R344, R374). -/
def State.announcementSend (s : State) (p : PortIx) : State :=
  let x := s.ports[p]
  if x.talks && s.hub.fw.running && (x.annCnt = 0 || decide (x.annSentAt + msCounts 100 ≤ s.now)) then s.announce p else s

def execAnnouncementSend (p : PortIx) (s : State) : Out := .next (s.announcementSend p)

/-- A coordinate word with one axis moved by ±2 modulo the system size: the base that a port faces (R332). -/
def facingBase (base size : U32) (p : PortIx) : Nat :=
  let a := (portAxis p).val
  let sh := 8 * a
  let x := bits base.toNat (sh + 5) sh
  let d := bits size.toNat (sh + 5) sh
  let y := if dieBit (portDie p) a then (x + 2) % d else (x + d - 2) % d
  base.toNat % 2 ^ 22 - field sh 6 x + field sh 6 y

/-- The port that a port faces: die n xor 2^a at its own number (R332). -/
def facingPort (p : PortIx) : PortIx := portOfDie (partner (portDie p) (portAxis p)) (portAxis p)

/-- The third row of R345. -/
def State.verified (s : State) (p : PortIx) (a : Bytes) : Bool :=
  let h := s.hub
  slice s.ports[p].peerId 0 16 = annId a && leAt a 24 4 = h.dict.size.toNat
  && annBase a = facingBase h.dict.base h.dict.size p && leAt a 28 1 = (facingPort p).val

/-- Neighbour state that an announcement gives: the own module counts as verified from step 9 of bring-up on (log entry 85). -/
def State.nbAfter (s : State) (p : PortIx) (a : Bytes) : NbState :=
  if s.verified p a then
    if annFlags a / 2 % 2 = 1 && decide (9 ≤ s.hub.bring.step.toNat) && s.portUsed p then .admitted else .verified
  else .seen

/-- ANNOUNCEMENT_RECEIVE. -/
def State.announcementIn (s : State) (p : PortIx) (a : Bytes) : State :=
  let x := s.ports[p]
  if !x.talks then s
  else
    let a := slice a 0 224
    let s := s.modPort p (fun x => { x with lastAnn := a, annAt := some s.now,
                                            finalAt := if leAt a 29 1 = 0 then some s.now else x.finalAt })
    let nb := s.nbAfter p a
    let s := if nb = .seen then s.mismatch p x.link.st .seen else s
    let s := if x.nb = .none_ && !x.oldId.isEmpty && x.oldId ≠ annId a then
        s.modHub (·.event 2 0x0C (BitVec.ofNat 16 p.val) 346 0xFF (portDet p x.link.st.code x.link.st.code 8 nb.code)) else s
    let s := if x.nb = .none_ then s.modPort p (fun x => { x with oldId := annId a }) else s
    let s := s.modPort p (fun x => { x with nb := nb })
    (if nb = x.nb then s else s.raiseTopo).chooseUpstream

def execAnnouncementReceive (p : PortIx) (body : Bytes) (s : State) : Out := .next (s.announcementIn p body)

/-- NEIGHBOUR_LOST: no announcement for 300 ms while the link stays up. The neighbour returns through training with fresh link
keys, which begins at once. -/
def State.neighbourLost (s : State) (p : PortIx) : State :=
  let x := s.ports[p]
  match x.annAt with
  | some t =>
    if x.talks && x.nb ≠ .none_ && decide (t + msCounts 300 ≤ s.now) then
      let s := s.retrain p trainCounts
      let det := portDet p x.link.st.code s.ports[p].link.st.code 7 0
      let s := s.portFault p nbLost det
      let s := s.modHub (·.event 4 0x0C (BitVec.ofNat 16 p.val) 343 0xFF det)
      (s.report p 7).chooseUpstream
    else s
  | none => s

def execNeighbourLost (p : PortIx) (s : State) : Out := .next (s.neighbourLost p)

/-! ### Route images (R333, R334, R336, R339) -/

/-- Size of an axis. -/
def axisSize (size : U32) (a : Nat) : Nat := bits size.toNat (8 * a + 5) (8 * a)

/-- A default entry of R336 for a die at coordinate c with its local bit, towards d, on an axis of size n. `dl` is set on
the hops between coordinates n − 1 and 0, which on an axis of size 2 are both hops (log entry 36). -/
def defaultEntry (n c d a : Nat) (bitSet : Bool) : Nat :=
  if n ≤ d then 7
  else if d = c then 6
  else
    let f := (d + n - c) % n
    let plus := if n = 2 then !bitSet else decide (f ≤ n - f)
    let dl := if plus then c + 1 == n || (c == 0 && n == 2) else c == 0 || (c == 1 && n == 2)
    2 * a + (if plus then 0 else 1) + 8 * b2n dl

/-- Two four-bit entries in a byte. -/
def packNibbles : List Nat → Bytes
  | a :: b :: r => BitVec.ofNat 8 (a % 16 + 16 * (b % 16)) :: packNibbles r
  | _ => []

/-- The default image of a die at physical coordinate `co` (R336). -/
def defaultImage (size : U32) (co : Nat × Nat × Nat) (n : DieIx) : Bytes :=
  let coord (a : Nat) : Nat := if a = 0 then co.1 else if a = 1 then co.2.1 else co.2.2
  let stage (a : Nat) : List Nat := (List.range 64).map (fun k => defaultEntry (axisSize size a) (coord a) k a (dieBit n a))
  let one := stage 0 ++ stage 1 ++ stage 2
  let ident (a : Nat) : Bytes := (List.range 64).map (fun v => BitVec.ofNat 8 (if v < axisSize size a then v + 128 else 0))
  let maps := ident 0 ++ ident 1 ++ ident 2
  packNibbles ((List.range 7).flatMap (fun _ => one)) ++ maps ++ maps

/-- A die's physical coordinate from the base coordinate (R15), and the default image in both its banks (R336), where its lane
works (R19). -/
def State.defaultRoute (s : State) (n : DieIx) : State :=
  let b := s.hub.dict.base.toNat
  s.modDie n (fun d =>
    if !d.reached then d
    else
    let co := (bits b 5 0 + n.val % 2, bits b 13 8 + n.val / 2 % 2, bits b 21 16 + n.val / 4)
    let im := defaultImage s.hub.dict.size co n
    { d with router := { d.router with phys := co, image0 := im, image1 := im, notReady := false } })

/-- The same of every die. -/
def State.defaultRoutes (s : State) : State := (List.finRange 8).foldl State.defaultRoute s

/-- The maps of an image on one axis: in range, one to one, and inverse to one another (R339). -/
def mapsOk (im : Bytes) (size : Nat) (a : Nat) : Bool :=
  let v2p (v : Nat) := mapEntry im 672 a v
  let p2v (p : Nat) := mapEntry im 864 a p
  (List.range 64).all (fun v =>
    (match v2p v with | some p => decide (v < size) && decide (p < size) && p2v p == some v | none => true)
    && (match p2v v with | some w => decide (v < size) && decide (w < size) && v2p w == some v | none => true)
    && (im.getD (672 + 64 * a + v) 0).toNat / 64 % 2 == 0 && (im.getD (864 + 64 * a + v) 0).toNat / 64 % 2 == 0)

/-- The check of a route image (R339). -/
def imageOk (im : Bytes) (size : U32) : Bool :=
  im.length = 1056 && (List.range 3).all (fun a => mapsOk im (axisSize size a) a)

/-- Write a die's standby route image (R339): a failing one is refused. -/
def State.writeImage (s : State) (n : DieIx) (im : Bytes) : State × Bool :=
  if imageOk im s.hub.dict.size then
    (s.modDie n (fun d => { d with router :=
      if d.router.act then { d.router with image0 := im, notReady := false } else { d.router with image1 := im, notReady := false } }), true)
  else (s.modDie n (fun d => d.fault .router rtLoadBad), false)

/-- ROUTE_SWAP: the die's counter has reached a tick value, and a swap armed for a frame not later is decided at it
(R339): the banks exchange, or the swap waits for a later tick value. -/
def State.routeSwap (s : State) (n : DieIx) : State :=
  let r := s.dies[n].router
  if s.dies[n].clock.tc.toNat < r.nextSwap then s
  else
    let s := s.modDie n (fun d => { d with router := { d.router with nextSwap := tickAfter r.nextSwap (s.periodFrom r.nextSwap) } })
    if r.arm && decide (62500 * r.frame.toNat ≤ r.nextSwap) then
      if r.notReady then s.modDie n (fun d => d.fault .router rtSwapLate)
      else s.modDie n (fun d => { d with router := { d.router with act := !d.router.act, arm := false } })
    else s

def execRouteSwap (n : DieIx) (s : State) : Out := .next (s.routeSwap n)

end Sys2Proof.Machine
end

