-- ==== Sys2Proof/Machine/Router.lean ====
section
/-! DEFINITION. Routers and the host bridge (R201, R285, R288, R289, R320 to R323, R333 to R342, R348, R349, R398, R414,
R450): forwarding, delivery, packets to and from the host, and the commands of these steps. -/

namespace Sys2Proof.Machine

/-! ### Route decisions (R333, R334) -/

/-- The four-bit entry of an input, a stage and a coordinate. -/
def imageEntry (im : Bytes) (i stage k : Nat) : Nat :=
  let ix := 192 * i + 64 * stage + k
  let b := (im.getD (ix / 2) 0).toNat
  if ix % 2 = 0 then b % 16 else b / 16

/-- The output a flit takes from an input, and whether the hop enters data class 1; none is unreachable. -/
def Router.chooseOut (r : Router) (i : Fin 7) (dst : BitVec 23) : Option (Fin 7 × Bool) :=
  let e (stage k : Nat) : Nat := imageEntry r.image i.val stage k
  let out (x : Nat) : Option (Fin 7 × Bool) := if x % 8 = 7 then none else some (Fin.ofNat 7 (x % 8), x / 8 == 1)
  let ex := e 0 (desX dst.toNat)
  if ex % 8 ≠ 6 then out ex
  else
    let ey := e 1 (desY dst.toNat)
    if ey % 8 ≠ 6 then out ey else out (e 2 (desZ dst.toNat))

/-- A port carries routed traffic: a package link that is up, or a port that is up and admitted, on an axis more than one module
deep (R16, R345). -/
def State.routes (s : State) (e : LinkEnd) : Bool :=
  match e with
  | .port p => s.ports[p].link.st = .up && s.ports[p].nb = .admitted && s.portUsed p
  | .pkg _ _ => (s.link e).st = .up

/-- Places of an outbound queue (R201). -/
def outQueueLen : Nat := 512

/-- The class in which a flit leaves (R326). -/
def leaveClass (f : Flit) (i out : Fin 7) (dl : Bool) : Bool :=
  f.vl = 0 && (dl || (f.dl && decide (i.val < 6) && i.val / 2 == out.val / 2))

/-! ### Port back-pressure (R201) -/

/-- Outputs under back-pressure after a change of the queues. -/
def State.pressed (s : State) (n : DieIx) : List (Fin 7) :=
  ((List.finRange 7).filter (fun i => decide (i.val < 6))).filter (fun i =>
    let len := (s.link (endOf n i)).outq.length
    decide (384 ≤ len) || (decide (256 < len) && s.dies[n].router.bpQ.contains i))

/-- Raise the hold of port back-pressure inside a frame, or end it. -/
def Die.setPressure (d : Die) (q : List (Fin 7)) : Die :=
  let v := d.clock.clk
  let was := d.hold.timed.any (fun h => h.cause = 11 && h.last = openEnd)
  let d := { d with router := { d.router with bpQ := q } }
  let closed := updWhere (fun (h : TimedHold) => h.cause = 11 && h.last = openEnd) (fun h => { h with last := v + 3 }) d.hold.timed
  if q.isEmpty then { d with hold := { d.hold with timed := closed } }
  else if d.frm.frun && !was then
    Die.fault { d with hold := { d.hold with timed := d.hold.timed ++ [⟨11, v + 4, openEnd⟩] } } .sched portBp
  else d

def State.backPressure (s : State) (n : DieIx) : State :=
  let q := s.pressed n
  if q = s.dies[n].router.bpQ && (q.isEmpty || s.dies[n].hold.timed.any (fun h => h.cause = 11)) then s
  else s.modDie n (·.setPressure q)

/-! ### Forwarding (R333, R338) -/

/-- Take a flit out of an input queue. -/
def Die.outOfQueue (d : Die) (i : Fin 7) (f : Flit) : Die :=
  { d with router := { d.router with inq := vupd d.router.inq i (·.erase f) } }

/-- The buffer place of a flit that came by an input is owed to its sender (R326). -/
def State.freePlace (s : State) (n : DieIx) (i : Fin 7) (f : Flit) : State := if i.val < 6 then s.oweCredit (endOf n i) f else s

/-- Take a flit out of an input queue and pass it on: its buffer place is free. -/
def State.takeIn (s : State) (n : DieIx) (i : Fin 7) (f : Flit) : State := (s.modDie n (fun d => d.outOfQueue i f)).freePlace n i f

/-- Change what the router knows of the packet in progress on an input and lane. -/
def Die.setRoute (d : Die) (x : Fin 14) (r : Option Routed) (drop : Bool) (rx : List Flit) : Die :=
  { d with router := { d.router with route := vupd d.router.route x (fun _ => r), drop := vupd d.router.drop x (fun _ => drop),
                                     rx := vupd d.router.rx x (fun _ => rx) } }

/-- Discard a head flit, and the rest of its packet with it; a message is answered with NAK 0x7 (R338). -/
def State.discardHead (s : State) (n : DieIx) (i : Fin 7) (f : Flit) (b : FBit) : State :=
  let s := (s.takeIn n i f).modDie n (fun d => (d.setRoute (laneOf i (f.vl = 3)) none (!f.lst) []).fault .router b)
  s.answerFlit n f 7

/-- Send a flit out of a port, one hop further; a flit of the data, sync or host lane ends the quiet of R447. -/
def State.sendOut (s : State) (n : DieIx) (i out : Fin 7) (dl : Bool) (f : Flit) : State :=
  let s := if f.vl = 2 then s else s.modHub (fun h => { h with power := { h.power with quietAt := h.time.wall } })
  (s.takeIn n i f).enqueueFlit (endOf n out) { f with hops := f.hops + 1, dl := leaveClass f i out dl }

/-- Another input holds the output on this lane until its packet ends (R326). -/
def Router.locked (r : Router) (i out : Fin 7) (host : Bool) : Bool :=
  (List.finRange 7).any (fun j => j ≠ i && out.val ≠ 6 && match r.route[laneOf j host] with
    | some y => decide (y.out = out) | none => false)

/-- A flit of a packet for the own cores joins its packet; with the last flit the packet waits for delivery. It keeps its buffer
place until the core's inbound buffer takes it (R200). -/
def Die.collect (d : Die) (i : Fin 7) (x : Fin 14) (r : Routed) (f : Flit) : Die :=
  let got := d.router.rx[x] ++ [f]
  if f.lst then
    let d := d.setRoute x none false []
    { d with router := { d.router with local_ := d.router.local_ ++ [(i, got)] } }
  else d.setRoute x (some r) false got

/-- Forward a packet flit along its route. -/
def State.forwardOn (s : State) (n : DieIx) (i : Fin 7) (r : Routed) (f : Flit) : Option State :=
  let x := laneOf i (f.vl = 3)
  if r.out.val = 6 then some (s.modDie n (fun d => (d.outOfQueue i f).collect i x r f))
  else if outQueueLen ≤ (s.link (endOf n r.out)).outq.length then none
  else
    some ((s.sendOut n i r.out r.dl f).modDie n (fun d =>
      d.setRoute x (if f.lst then none else some r) false []))

/-- A head flit: routed, blocked, or discarded. -/
def State.forwardHead (s : State) (n : DieIx) (i : Fin 7) (f : Flit) : Option State :=
  if 64 ≤ f.hops.toNat then some (s.discardHead n i f hopLim)
  else
    match s.dies[n].router.chooseOut i f.dst with
    | none => some (s.discardHead n i f rtUnreach)
    | some (out, dl) =>
      if out.val < 6 && !s.routes (endOf n out) then some (s.discardHead n i f rtUnreach)
      else if s.dies[n].router.locked i out (f.vl = 3) then none
      else (s.modDie n (fun d => d.setRoute (laneOf i (f.vl = 3)) none false [])).forwardOn n i (routedOf f out dl) f

/-- A continuation flit follows its head; one whose head was discarded or lost is discarded. -/
def State.forwardNext (s : State) (n : DieIx) (i : Fin 7) (f : Flit) : Option State :=
  let x := laneOf i (f.vl = 3)
  let r := s.dies[n].router
  if r.drop[x] then some ((s.takeIn n i f).modDie n (fun d => d.setRoute x none (!f.lst) []))
  else
    match r.route[x] with
    | some y => s.forwardOn n i y f
    | none => some (s.takeIn n i f)

/-- A designator names a die of this module (R15). -/
def State.inModule (s : State) (dst : BitVec 23) : Bool :=
  let b := s.hub.dict.base.toNat
  desX dst.toNat / 2 == bits b 5 0 / 2 && desY dst.toNat / 2 == bits b 13 8 / 2 && desZ dst.toNat / 2 == bits b 21 16 / 2

/-- The Low-rate port of a die that faces the module of a designator (R450). -/
def State.lowRateTo (s : State) (n : DieIx) (dst : BitVec 23) : Option PortIx :=
  ((List.finRange 3).map (portOfDie n)).find? (fun p =>
    let b := facingBase s.hub.dict.base s.hub.dict.size p
    s.ports[p].link.st = .lowRate && desX dst.toNat / 2 == bits b 5 0 / 2 && desY dst.toNat / 2 == bits b 13 8 / 2
      && desZ dst.toNat / 2 == bits b 21 16 / 2)

/-- A flit of an in-band PDU reaches its module: its bytes join the PDU of its input, and with the last flit the PDU waits for
Marigold. One of more than 4,136 bytes is dropped (R398). -/
def Hub.pduFlit (h : Hub) (n : DieIx) (i : Fin 7) (f : Flit) : Hub :=
  let key := (n, i)
  let got := ((h.dict.inPart.find? (fun x => x.1 = key)).map (·.2)).getD [] ++ slice f.body 0 (16 * f.ng.toNat)
  let others := h.dict.inPart.filter (fun x => x.1 ≠ key)
  if f.lst then
    { h with dict := { h.dict with inPart := others, inPdus := if 4136 + 15 < got.length then h.dict.inPdus
        else h.dict.inPdus ++ [{ die := n, input := i, dst := f.dst, bytes := got }] } }
  else { h with dict := { h.dict with inPart := others ++ [(key, got.take 4200)] } }

/-- The way back of a response: the input that the request for its designator came by, where the flit arrives by the output
that the request left by (R398; log entry 86). -/
def Router.wayBack (r : Router) (i : Fin 7) (dst : BitVec 23) : Option (Fin 7) :=
  (r.back.find? (fun x => x.1 = dst && x.2.2 = i && x.2.1 ≠ i)).map (·.2.1)

/-- A request for a designator has gone on: its way is kept, newest first, for the 64 last designators. -/
def Router.keepWay (r : Router) (dst : BitVec 23) (i out : Fin 7) : Router :=
  { r with back := ((dst, i, out) :: r.back.filter (fun x => !(x.1 = dst && x.2.2 = out))).take 64 }

/-- An output takes management flits of an in-band PDU: one that routes, or a host-facing port (R30). -/
def State.carriesPdu (s : State) (e : LinkEnd) : Bool :=
  s.routes e || match e with | .port p => s.ports[p].link.st = .host | .pkg _ _ => false

/-- A management flit of an in-band PDU: for this module's hub die, back along the way of its request, through a Low-rate port
that faces its module (R450), or along the route image; one that has made 64 hops is discarded (R338). -/
def State.forwardMgmt (s : State) (n : DieIx) (i : Fin 7) (f : Flit) : Option State :=
  let r := s.dies[n].router
  let lost (b : FBit) : State := (s.takeIn n i f).modDie n (fun d => d.fault .router b)
  let send (out : Fin 7) (dl keep : Bool) : Option State :=
    if !s.carriesPdu (endOf n out) then some (lost rtUnreach)
    else if outQueueLen ≤ (s.link (endOf n out)).outq.length then none
    else some ((s.sendOut n i out dl f).modDie n (fun d => if keep then { d with router := d.router.keepWay f.dst i out } else d))
  if 64 ≤ f.hops.toNat then some (lost hopLim)
  else match r.wayBack i f.dst with
  | some out => if out.val = 6 then some (s.takeIn n i f) else send out false false
  | none =>
    if s.inModule f.dst then
      if s.dies[n].reached then some ((s.takeIn n i f).modHub (·.pduFlit n i f)) else some (lost rtUnreach)
    else
      match s.lowRateTo n f.dst with
      | some p => some (((s.takeIn n i f).enqueueFlit (.port p) { f with hops := f.hops + 1, dl := false }).modDie n
          (fun d => { d with router := d.router.keepWay f.dst i (inputOf (.port p)) }))
      | none =>
        match r.chooseOut i f.dst with
        | none => some (lost rtUnreach)
        | some (out, dl) => if out.val = 6 then some (lost rtUnreach) else send out dl true

/-- A flit that is its own packet: increment records and management payload. -/
def State.forwardSingle (s : State) (n : DieIx) (i : Fin 7) (f : Flit) : Option State :=
  if f.fk = 7 then s.forwardMgmt n i f
  else
    let lost (b : FBit) : State := (s.takeIn n i f).modDie n (fun d => d.fault .router b)
    if 64 ≤ f.hops.toNat then some (lost hopLim)
    else
      match s.dies[n].router.chooseOut i f.dst with
      | none => some (lost rtUnreach)
      | some (out, dl) =>
        if out.val = 6 then
          some (s.modDie n (fun d =>
            let d := d.outOfQueue i f
            { d with router := { d.router with local_ := d.router.local_ ++ [(i, [f])] } }))
        else if !s.routes (endOf n out) then some (lost rtUnreach)
        else if outQueueLen ≤ (s.link (endOf n out)).outq.length then none
        else some (s.sendOut n i out dl f)

/-- Forward one flit of an input; none where its output has no room. -/
def State.forwardFlit (s : State) (n : DieIx) (i : Fin 7) (f : Flit) : Option State :=
  match f.fk.toNat with
  | 1 => s.forwardHead n i f
  | 2 => s.forwardNext n i f
  | _ => s.forwardSingle n i f

/-- The first flit of each lane in an input queue, in queue order. -/
def laneFirsts : List (BitVec 2) → List Flit → List Flit
  | _, [] => []
  | seen, f :: r => if seen.contains f.vl then laneFirsts seen r else f :: laneFirsts (f.vl :: seen) r

/-- ROUTER_FORWARD: the first flit of an input that can move on does. -/
def State.routerForward (s : State) (n : DieIx) (i : Fin 7) : State :=
  match (laneFirsts [] s.dies[n].router.inq[i]).findSome? (s.forwardFlit n i) with
  | some t => t.backPressure n
  | none => s

def execRouterForward (n : DieIx) (input : Fin 7) (s : State) : Out := .next (if s.runs n then s.routerForward n input else s)

/-! ### Delivery to the own cores (R321, R335, R340, R342) -/

/-- Bytes of a packet from its flits: whole bodies, and the granules in use of the last. -/
def packetBytes : List Flit → Bytes
  | [] => []
  | [f] => slice f.body 0 (16 * f.ng.toNat)
  | f :: r => slice f.body 0 224 ++ packetBytes r

/-- Mark of granule g of a packet. -/
def packetMark (fs : List Flit) (g : Nat) : Bool :=
  match fs[g / 14]? with
  | some f => bit f.marks (g % 14)
  | none => false

/-- The die accepts traffic of a job (R340, R342): 0 it does; 1 no plan, a load in progress, or pass-through; 2 another
job's plan. -/
def Die.accepts (d : Die) (job : BitVec 8) : Nat :=
  match d.plan with
  | some p => if d.router.pthru || d.pow.clearing then 1 else if p.job = job then 0 else 2
  | none => 1

/-- Bytes that messages, and sectors for the remote share, hold in the inbound buffer of a core (R200, R280). -/
def Core.buffered (k : Core) : Nat :=
  (k.rings.arrive.map (fun a => match a with | .link m _ => m.hdr.size | .mesh _ _ _ => 0)).foldl (· + ·) 0
    + 64 * (k.vault.remote.filter (·.link)).length

/-- Bytes of the inbound buffer. -/
def inboundBytes : Nat := 16384

/-- A message with its clear payload enters the inbound buffer of its core. -/
def Die.messageIn (d : Die) (c : CoreIx) (m : MsgIn) : Die :=
  d.modCore c (fun k => { k with rings := { k.rings with arrive := k.rings.arrive ++ [.link m 0] } })

/-- Payload granules from clear bytes, with the marks of the packet's granules from `g0` on. -/
def granulesFrom (fs : List Flit) (g0 : Nat) (bytes : Bytes) : List (Bytes × Bool) :=
  (chunks 16 (bytes.length + 1) bytes).mapIdx (fun i b => (b, packetMark fs (g0 + i)))

/-- The opened message of a packet: header, source rewritten (R335), and payload. -/
def Die.openMessage (d : Die) (fs : List Flit) (f : Flit) (bytes : Bytes) : Option MsgIn :=
  let n := bytes.length
  let ph := slice bytes 0 16
  let psrc := flitSrc f
  let pctr := BitVec.ofNat 48 (bits (leAt bytes 0 16) 127 80)
  let tag := slice bytes (n - 16) 16
  if f.vl = 3 then
    let mh := slice bytes 16 16
    let h := hdrOf mh
    (gcmOpen (hostKey d.keyReg (h.src.extractLsb' 0 16)) (packetNonce psrc 1 pctr) (ph ++ mh) (slice bytes 32 (n - 48)) tag).map
      (fun pl => { hdr := h, from_ := some psrc, job := f.job, body := granulesFrom fs 2 pl })
  else
    (gcmOpen (trafficKey d.keyReg) (packetNonce psrc 0 pctr) ph (slice bytes 16 (n - 32)) tag).map (fun x =>
      let h := hdrOf (slice x 0 16)
      { hdr := { h with src := d.router.virtOf h.src.toNat }, from_ := some psrc, job := f.job,
        body := granulesFrom fs 2 (x.drop 16) })

/-- Remove a packet or record from those that wait; the buffer places of its flits are free. -/
def State.popLocal (s : State) (n : DieIx) (x : Fin 7 × List Flit) : State :=
  let s := s.modDie n (fun d => { d with router := { d.router with local_ := d.router.local_.erase x } })
  x.2.foldl (fun s f => s.freePlace n x.1 f) s

/-- A message packet for this die's cores: refused, or delivered. -/
def State.deliverMessage (s : State) (n : DieIx) (x : Fin 7 × List Flit) (f : Flit) : State :=
  let d := s.dies[n]
  let pop := s.popLocal n x
  match d.accepts f.job with
  | 0 =>
    match d.openMessage x.2 f (packetBytes x.2) with
    | none => (pop.modDie n (fun d => d.fault .router sealFail)).answerFlit n f 5
    | some m => pop.modDie n (fun d => d.messageIn (desCore f.dst.toNat) m)
  | 1 => pop.answerFlit n f 6
  | _ => (pop.modDie n (fun d => d.fault .router jobMis)).answerFlit n f 6

/-- A store segment for this die's cores: its sectors wait for the remote share. -/
def Die.deliverSegment (d : Die) (fs : List Flit) (f : Flit) : Die :=
  let bytes := packetBytes fs
  let x := leAt bytes 0 16
  let n := bytes.length
  if d.accepts f.job ≠ 0 then d
  else
    match gcmOpen (trafficKey d.keyReg) (packetNonce (flitSrc f) 0 (BitVec.ofNat 48 (bits x 127 80))) (slice bytes 0 16)
        (slice bytes 16 (n - 32)) (slice bytes (n - 16) 16) with
    | none => d.fault .router sealFail
    | some data =>
      let src := d.router.virtOf (flitSrc f).toNat
      (List.range (bits x 29 25 + 1)).foldl (fun d i =>
        d.sectorIn (desCore f.dst.toNat) (bits x 62 32 + 64 * i) (slice data (64 * i) 64)
          ((List.range 4).any (fun g => packetMark fs (1 + 4 * i + g))) src (BitVec.ofNat 16 (bits x 79 64)) true) d

/-! ### Packets to the host (R289, R349) -/

/-- The bridge sends the oldest waiting packet once a host-lane credit is free. -/
def State.hostFlush (s : State) : State :=
  match s.hostEnd, s.hub.dict.toHost.find? (fun x => !x.sent) with
  | some p, some x =>
    let l := s.ports[p].link
    if (l.outq.filter (fun f => f.vl = 3)).length < l.credits[(4 : Fin 5)] then
      (x.flits.foldl (fun s f => s.enqueueFlit (.port p) f) s).modHub (fun h => { h with dict := { h.dict with
        toHost := updWhere (fun y => y == x) (fun y => { y with sent := true }) h.dict.toHost } })
    else s
  | _, _ => s

/-- A packet to the host reaches the bridge die: NAK 0x7 where there is no bridge here or its session is closed. -/
def State.packetToHost (s : State) (n : DieIx) (x : Fin 7 × List Flit) (f : Flit) : State :=
  let s := s.popLocal n x
  match f.msg with
  | none => s
  | some m =>
    if s.bridgeDie = some n && s.hub.dict.hostSes.any (fun x => x.1 = m.ses) then
      (s.modHub (fun h => { h with dict := { h.dict with toHost := h.dict.toHost ++
        [{ since := s.now, flits := x.2, src := flitSrc f, msg := m, job := f.job, sent := false }] } })).hostFlush
    else s.answerFlit n f 7 true

/-- HOST_CREDIT_TIMEOUT: no host-lane credit for 50 µs. -/
def State.hostCreditTimeout (s : State) : State :=
  let s := s.hostFlush
  match s.hub.dict.toHost.find? (fun x => !x.sent && decide (x.since + usCounts 50 ≤ s.now)) with
  | some x => s.hostDone x 1
  | none => s

def execHostCreditTimeout (s : State) : Out := .next s.hostCreditTimeout

/-- HOST_ADAPTER_ACK: the adapter has taken the oldest packet sent to it, or lacked the space. -/
def State.adapterAck (s : State) (spaceLeft : Bool) : State :=
  match s.hub.dict.toHost.find? (·.sent) with
  | some x => (s.hostDone x (if spaceLeft then 0 else 1)).hostFlush
  | none => s

def execHostAdapterAck (spaceLeft : Bool) (s : State) : Out := .next (s.adapterAck spaceLeft)

/-- Host messages of a die's cores whose last flit has reached the router go to the group's bridge, or are answered with
NAK 0x7 where there is none (R349). -/
def State.sendToHost (s : State) (n : DieIx) : State :=
  (s.dies[n].router.outMsgs.filter (fun o => o.hd && decide (o.m.hdr.granules ≤ o.m.body.length))).foldl (fun s o =>
    let s := s.modDie n (fun d => { d with router := { d.router with outMsgs := d.router.outMsgs.erase o } })
    if s.hub.dict.bridge = 0xFFFFFFFF then s.modDie n (fun d => d.noRoute o.core o.m.hdr)
    else s.modDie n (fun d => d.packMessage o.core (bridgeDesig s.hub.dict.bridge) (some (o.dest.extractLsb' 0 16)) o.m)) s

/-- FLIT_INJECT. -/
def execFlitInject (a : CoreRef) (s : State) : Out :=
  .next (if s.runs a.die then (s.modDie a.die (Die.flitInject a.core)).sendToHost a.die else s)

/-! ### Records (R323) -/

/-- The answer that a record brings (R283, R323). -/
def Rec.answer (r : Rec) : Answer :=
  { code := if r.ik = 1 then 0 else r.icode, ring := r.iq, tag := r.itag, seq := r.iseq }

/-- The message that a record answers or names: what it carries beside the layout of R323, else by its own fields (log entry
26). -/
def Rec.msgId (r : Rec) (msg : Option MsgId) : MsgId := msg.getD { ho := false, q := r.iq, tag := r.itag, seq := r.iseq, ses := 0 }

/-- A die takes a record's answer for a send of its core c. On a die under load, or with another job's plan, it is foreign
(R263); without a plan it is discarded. -/
def Die.coreAnswer (d : Die) (c : CoreIx) (r : Rec) : Die :=
  if d.accepts r.ijob = 0 then
    match d.cores[c].rings.answerCounter r.answer with
    | some sc => d.pushInc c { due := d.clock.clk, sc := fin64 sc, onC := false, amt := 1, rem := true,
                               src := d.router.virtOf r.isrc.toNat, job := r.ijob, ans := some r.answer }
    | none => d
  else if d.plan.isSome then d.fault (.sync c) scForeign
  else d

/-- The host's message at the bridge that a record answers: one that went to the core that answers, else any of its ring, tag,
number and session. -/
def State.hostAnswer (s : State) (m : MsgId) (r : Rec) : State :=
  let by_ := if (s.hostOutsOf m (some r.isrc)).isEmpty then none else some r.isrc
  s.answerHost r.answer.code.toNat m by_

/-- An answer in a record reaches its sender (R283, R288): the host, at the bridge, whose message it names, or the send of the core
that it names. One that does not say which (a record from a link of the outside world) goes to the core whose send it fits,
else to the host. -/
def State.recordAnswer (s : State) (n : DieIx) (r : Rec) (msg : Option MsgId) : State :=
  let c := desCore r.idst.toNat
  let m := r.msgId msg
  let core := (s.dies[n].cores[c].rings.answerCounter r.answer).isSome
  let host := s.bridgeDie = some n && c = 0 && !(s.hostOutsOf m none).isEmpty
  if m.ho || (msg.isNone && !core && host) then (if host then s.hostAnswer m r else s)
  else s.modDie n (fun d => d.coreAnswer c r)

/-- The loss notice that a record brings in clock cycle clk (R285): a host's message has its session for its source. -/
def Rec.loss (r : Rec) (m : MsgId) (src : BitVec 23) (clk : Nat) : Loss :=
  { due := clk, ho := m.ho, q := r.iq, tag := r.itag, src := if m.ho then m.ses.zeroExtend 23 else src, seq := r.iseq,
    from_ := some r.isrc, job := r.ijob }

/-- One record for a core of this die, with the message it answers or names. -/
def State.deliverRecord (s : State) (n : DieIx) (r : Rec) (msg : Option MsgId) : State :=
  let c := desCore r.idst.toNat
  let src := s.dies[n].router.virtOf r.isrc.toNat
  if s.dies[n].router.pthru then s
  else
    match r.ik.toNat with
    | 0 => s.modDie n (fun d => d.pushInc c { due := d.clock.clk, sc := fin64 r.isc, onC := false, amt := r.iamt.toNat + 1,
                                              rem := true, src := src, job := r.ijob, ans := none })
    | 1 | 2 => s.recordAnswer n r msg
    | 3 => s.modDie n (fun d => if d.accepts r.ijob ≠ 0 then d else d.modCore c (fun k => { k with rings := { k.rings with losses := k.rings.losses ++
        [r.loss (r.msgId msg) src d.clock.clk] } }))
    | 4 => s.modDie n (fun d =>
        if d.accepts r.ijob ≠ 0 then (if d.plan.isSome then d.fault (.sync c) scForeign else d)
        else
          let t : StoreTotal := { due := d.clock.clk, total := r.iseq.toNat, rsc := r.isc, job := r.ijob }
          d.modCore c (fun k => { k with vault := { k.vault with tally := setTotal src r.itag t k.vault.tally } }))
    | _ => s

/-- What the core of a packet's destination must take into its inbound buffer: the bytes of a message, or of a segment's
sectors; nothing where the packet is no delivery to a core's buffer. -/
def inboundNeed (x : List Flit) : Nat :=
  match x with
  | [] => 0
  | f :: _ =>
    if f.fk = 3 || (f.vl = 3 && !hostOrigin f) then 0
    else
      match bits (leAt f.body 0 16) 1 0 with
      | 1 => (packetBytes x).length - 32
      | 2 => 64 * (bits (leAt f.body 0 16) 29 25 + 1)
      | _ => 0

/-- The core that a waiting packet is for. -/
def packetCore (x : List Flit) : CoreIx := desCore (match x with | f :: _ => f.dst.toNat | [] => 0)

/-- The oldest waiting packet that may be delivered: one whose core's inbound buffer has room for it, with no older packet of
that core waiting for room (R200). -/
def Die.deliverable (d : Die) : List CoreIx → List (Fin 7 × List Flit) → Option (Fin 7 × List Flit)
  | _, [] => none
  | stuck, x :: r =>
    let c := packetCore x.2
    let need := inboundNeed x.2
    if stuck.contains c && need ≠ 0 then d.deliverable stuck r
    else if need ≠ 0 && inboundBytes < d.cores[c].buffered + need && (match x.2 with | f :: _ => d.accepts f.job = 0 | [] => false) then
      d.deliverable (c :: stuck) r
    else some x

/-- PACKET_DELIVER: the oldest whole packet or record flit that its core can take (R200, R321, R340, R342). -/
def State.packetDeliver (s : State) (n : DieIx) : State :=
  match s.dies[n].deliverable [] s.dies[n].router.local_ with
  | none => s
  | some x =>
    match x.2 with
    | [] => s.popLocal n x
    | f :: _ =>
      if f.fk = 3 then
        (List.range f.ng.toNat).foldl (fun s i => s.deliverRecord n (recOf (slice f.body (16 * i) 16)) f.msg) (s.popLocal n x)
      else if f.vl = 3 && !hostOrigin f then s.packetToHost n x f
      else
        match bits (leAt f.body 0 16) 1 0 with
        | 1 => s.deliverMessage n x f
        | 2 => (s.popLocal n x).modDie n (fun d => d.deliverSegment x.2 f)
        | _ => s.popLocal n x

def execPacketDeliver (n : DieIx) (s : State) : Out := .next (if s.runs n then s.packetDeliver n else s)

/-! ### Packets from the host (R288, R348, R414) -/

/-- The packet of a host-origin message as the bridge forwards it: `ho` and the session number written over the header. -/
def hostOriginBytes (psrc : BitVec 23) (pk : HostPacket) : Bytes :=
  let h : MsgHdr := { ho := true, pz := false, q := pk.q, len := pk.len, tag := pk.tag, src := pk.session.zeroExtend 23,
                      seq := pk.seq, frm := 0 }
  packetHeader 1 psrc 0 0 0 pk.pctr ++ h.bytes 1 ++ slice pk.cipher 0 (16 * granulesOf pk.len) ++ slice pk.tagBytes 0 16

/-- The flits of a host-origin packet. -/
def hostFlits (s : State) (p : PortIx) (pk : HostPacket) (job : BitVec 8) : List Flit :=
  packetFlits 3 pk.dst job (hostOriginBytes (s.dies[portDie p].physDesignator 0) pk) []
    (some { ho := true, q := pk.q, tag := pk.tag, seq := pk.seq, ses := pk.session })

/-- HOST_PACKET: its flits keep their buffer places until the router passes them on; those of a closed session are free at
once. -/
def State.hostPacket (s : State) (pk : HostPacket) : State :=
  match s.hostEnd with
  | none => s
  | some p =>
    let o : HostOut := { ses := pk.session, dst := pk.dst, q := pk.q, seq := pk.seq, tag := pk.tag }
    if s.ports[p].link.st ≠ .host then s
    else
      match s.hub.dict.hostSes.find? (fun x => x.1 = pk.session) with
      | none => (hostFlits s p pk 0).foldl (fun s f => s.oweCredit (.port p) f) (s.notifyHost 7 o)
      | some (_, job) =>
        let n := portDie p
        let fs := hostFlits s p pk job
        (s.modHub (fun h => { h with dict := { h.dict with hostOuts := h.dict.hostOuts ++ [o] } })).modDie n (fun d =>
          { d with router := { d.router with inq := vupd d.router.inq (inputOf (.port p)) (· ++ fs) } })

def execHostPacket (pk : HostPacket) (s : State) : Out := .next (s.hostPacket pk)

/-- A host-origin packet as its flits bring it, by the layout of R414. -/
def hostPacketOf (fs : List Flit) (dst : BitVec 23) : HostPacket :=
  let b := packetBytes fs
  let h := hdrOf (slice b 16 16)
  { session := h.src.extractLsb' 0 16, dst := dst, q := h.q, len := h.len, tag := h.tag, seq := h.seq,
    pctr := BitVec.ofNat 48 (bits (leAt b 0 16) 127 80), cipher := slice b 32 (b.length - 48), tagBytes := slice b (b.length - 16) 16 }

/-- A host-lane flit arrives from the adapter; with the last one the packet is taken as HOST_PACKET takes it. -/
def State.hostFlit (s : State) (f : Flit) : State :=
  let got := (if f.fk = 1 then [] else s.hub.dict.hostRx) ++ [f]
  let s := s.modHub (fun h => { h with dict := { h.dict with hostRx := if f.lst then [] else got } })
  if f.lst then s.hostPacket (hostPacketOf got (got.headD f).dst) else s

end Sys2Proof.Machine
end

