-- ==== Sys2Proof/Machine/Receive.lean ====
section
/-! DEFINITION. FLIT_RECEIVE (R315, R319, R324 to R329, R348): the checks of a received flit and what an accepted flit
does, and the carrying of flits between the package ends of the module. -/

namespace Sys2Proof.Machine

/-! ### Decryption (R328, R329; log entry 25) -/

/-- The key and salt that a flit was sealed under, by its key parity: the one in force, the next one, or that before the last
change. -/
def Link.keyOf (l : Link) (f : Flit) : Bytes :=
  if f.kep = l.rxKep then l.rxKey else if l.nextRx.isEmpty then l.prevRx else l.nextRx

/-- The counter of a flit is one that it may have: a flit that is to be taken has not been taken before, and a later sequenced
one is discarded whatever its counter. -/
def Link.ctrOk (l : Link) (f : Flit) : Bool :=
  let now := f.kep = l.rxKep
  let next := !now && !l.nextRx.isEmpty
  if flitSequenced f then
    if f.fseq = l.expect then next || (if now then decide (l.inCtr ≤ f.ctr) else l.inCtr = 0) else true
  else next || (now && decide (l.rxCtr ≤ f.ctr))

/-- The clear body of a flit whose tag verifies; a package flit is as it stands. -/
def Link.openFlit (l : Link) (f : Flit) : Option Bytes :=
  if l.enc then
    if l.ctrOk f then
      let k := l.keyOf f
      gcmOpen (slice k 0 32) (linkNonce k f.ctr) (flitHead f) f.body f.trailer
    else none
  else some f.body

/-- The link as a verified flit leaves it: one of the next parity brings the next key into force, and the counters follow. -/
def Link.followKey (l : Link) (f : Flit) : Link :=
  let l := if l.enc && f.kep ≠ l.rxKep && !l.nextRx.isEmpty then
      { l with prevRx := l.rxKey, rxKey := l.nextRx, rxCtr := 0, inCtr := 0, nextRx := [], rxKep := f.kep } else l
  if f.kep = l.rxKep then { l with rxCtr := max l.rxCtr (f.ctr + 1) } else l

/-! ### Failed checks -/

/-- A flit fails its check word: counted, discarded, and a replay is asked for. -/
def State.badCrc (s : State) (e : LinkEnd) : State :=
  let s := match e with | .port p => s.modPort p (fun x => { x with crcErr := satAdd x.crcErr 1 }) | .pkg _ _ => s
  s.askReplay e

/-- A flit fails its tag: counted; four within one second disable the port (R329). -/
def State.badTag (s : State) (e : LinkEnd) : State :=
  match e with
  | .pkg _ _ => s
  | .port p =>
    let fails := s.now :: (s.ports[p].tagFails.filter (fun t => decide (s.now < t + secCounts 1)))
    let s := s.modPort p (fun x => { x with tagErr := satAdd x.tagErr 1, tagFails := fails })
    if 4 ≤ fails.length then (s.portFault p tamper).linkDown e .disabled 5
    else s.askReplay e

/-! ### Accepted flits -/

/-- A management flit for Marigold at a port: an announcement or a step of a time exchange. -/
def State.mgmtIn (s : State) (p : PortIx) (f : Flit) : State :=
  let b := f.body
  let tts : BitVec 72 := BitVec.ofNat 72 (leAt b 4 9)
  let tex : BitVec 16 := BitVec.ofNat 16 (leAt b 2 2)
  let trt := leAt b 1 1 % 2 == 1
  match f.fk.toNat, leAt b 0 1 with
  | 6, _ => s.announcementIn p b
  | 5, 1 => s.timeSync p tex s.frac8
  | 5, 2 => s.timeFollowUp p tex tts trt s.frac8
  | 5, 3 => s.timeDelayRequest p tex s.frac8
  | 5, 4 => s.timeResponse p tex tts trt (BitVec.ofNat 8 (leAt b 13 1))
  | _, _ => s

/-- A flit enters the input queue of its router. -/
def State.toRouterIn (s : State) (e : LinkEnd) (f : Flit) : State :=
  s.modDie (endDie e) (fun d => { d with router := { d.router with inq := vupd d.router.inq (inputOf e) (· ++ [f]) } })

/-- An accepted management payload flit at a port (R30, R330, R345, R398, R450): a request to move the port's rate; a flit for
this module that came at Low-rate or to a die without VCORE, which the serial domain hands to the hub die; one that the router
takes, from a port that carries routed traffic, from the host, or at Low-rate; any other is discarded. -/
def State.payloadIn (s : State) (p : PortIx) (f : Flit) : State :=
  let e := LinkEnd.port p
  let n := portDie p
  let low := s.ports[p].link.st = .lowRate
  if f.body.headD 0 = moveMark then (s.oweCredit e f).moveIn p (f.body.getD 1 0 = 1)
  else if low && s.inModule f.dst then (s.modHub (·.pduFlit n (inputOf e) f)).oweCredit e f
  else if s.dies[n].pow.vcoreOn && (low || s.carriesPdu e) then s.toRouterIn e f
  else s.oweCredit e f

/-- What an accepted flit does: the router's input, Marigold, or the bridge. Flits that the state of the port does not
carry are discarded (R330, R345, R348). -/
def State.flitAccepted (s : State) (e : LinkEnd) (f : Flit) : State :=
  match e with
  | .pkg _ _ => s.toRouterIn e f
  | .port p =>
    if f.vl = 2 then
      if f.fk = 7 then s.payloadIn p f else (s.mgmtIn p f).oweCredit e f
    else if s.ports[p].link.st = .host then (if f.vl = 3 then s.hostFlit f else s.oweCredit e f)
    else if s.routes e then s.toRouterIn e f
    else s.oweCredit e f

/-- Credits that a flit returns. -/
def Link.credited (l : Link) (f : Flit) : Link :=
  { l with credits := vupd l.credits (laneIx f.cvl f.ccl) (· + f.cred.toNat) }

/-- A receiver takes a flit whose check word and tag pass: one that is not sequenced, or the expected one (R324). -/
def Link.takes (l : Link) (f : Flit) : Bool := !flitSequenced f || f.fseq = l.expect

/-- A flit that the receiver takes moves the expected number on. -/
def Link.took (l : Link) (f : Flit) : Link :=
  let l := (l.acked f.fack).credited f
  if flitSequenced f then
    { l with expect := l.expect + 1, await := false, inCtr := if f.kep = l.rxKep then f.ctr + 1 else l.inCtr } else l

/-- A flit whose check word and tag pass, its body in clear: one that is taken acknowledges, returns credits and has its effect;
any other is discarded whole. -/
def State.goodFlit (s : State) (e : LinkEnd) (f : Flit) : State :=
  if (s.link e).takes f then
    let s := s.modLink e (·.took f)
    let s := if s.hostEnd.any (fun p => e = .port p) then s.hostFlush else s
    if f.fk = 4 then s.retryRequest e (BitVec.ofNat 12 (leAt f.body 0 2))
    else if flitSequenced f then s.flitAccepted e f else s
  else s.askReplay e

/-- Codewords that the decoder corrected or could not correct (R351). -/
def State.countFec (s : State) (e : LinkEnd) (corr unc : Nat) : State :=
  match e with
  | .port p => s.modPort p (fun x => { x with fecCorr := satAdd x.fecCorr corr, fecUnc := satAdd x.fecUnc unc })
  | .pkg _ _ => s

/-- FLIT_RECEIVE. -/
def State.flitReceive (s : State) (e : LinkEnd) (f : Flit) (corr unc : Nat) : State :=
  if !(s.link e).trained then s
  else
    let s := s.countFec e corr unc
    if flitCrc f ≠ f.fcrc then s.badCrc e
    else
      match (s.link e).openFlit f with
      | none => s.badTag e
      | some body => (s.modLink e (·.followKey f)).goodFlit e { f with body := body }

def execFlitReceive (e : LinkEnd) (f : Flit) (corr unc : Nat) (s : State) : Out := .next (s.flitReceive e f corr unc)

/-! ### Flit times of the module's link ends (log entry 3) -/

/-- The far end of a package link. -/
def farEnd (n : DieIx) (a : Fin 3) : LinkEnd := .pkg (partner n a) a

/-- Flit-time costs in the unit in which a nominal clock period is 3,125: a package link, an off-module port, and a port in
Low-rate (log entry 3). -/
def flitCost (e : LinkEnd) (st : LinkState) : Nat :=
  match e, st with
  | .pkg _ _, _ => 752
  | .port _, .lowRate => 246968
  | .port _, _ => 3760

/-- A time flit that leaves in this flit time takes its timestamps and marks (R303). -/
def State.timeOut (s : State) (e : LinkEnd) : State :=
  match e with
  | .pkg _ _ => s
  | .port p =>
    let l := s.link e
    if l.ctlq.isEmpty && l.resend.isEmpty then
      match l.pick (decide (l.replay.length < replayLen e)) with
      | some f =>
        if f.fk = 5 then
          let (s, g) := s.timeLeaves p f
          s.modLink e (fun l => { l with outq := l.outq.replace f g })
        else s
      | none => s
    else s

/-- One flit time of an end: on a package link the flit reaches the far end. -/
def State.linkFlit (s : State) (e : LinkEnd) : State :=
  if (s.link e).trained then
    let s := (s.timeOut e).modLink e (fun l => l.flitTime e s.now)
    match e, (s.link e).sent with
    | .pkg n a, some f => s.flitReceive (farEnd n a) f 0 0
    | _, _ => s
  else s

/-- Flit times of an end that begin in one nominal clock period. -/
def State.linkTick (s : State) (e : LinkEnd) : State :=
  if !(s.link e).trained then s
  else
    let cost := flitCost e (s.link e).st
    let ph := (s.link e).phase + 3125
    iter (fun s => s.linkFlit e) (ph / cost) (s.modLink e (fun l => { l with phase := ph % cost }))

end Sys2Proof.Machine
end

