-- ==== Sys2Proof/Machine/Clear.lean ====
section
/-! DEFINITION. The end of a plan (R416) and what a plan load clears (R92, R123, R134, R156, R232, R272, R291, R425),
and a die whose VCORE goes off. -/

namespace Sys2Proof.Machine

/-- Job-scope bits of a fault word cleared (R425). -/
def keepDevice (kind : BitVec 8) (w : U64) : U64 := w &&& deviceMask kind

/-- Control core and instruction memory (R134, R156). -/
def Ctl.cleared (k : Ctl) : Ctl := { Ctl.init with wrRef := k.wrRef, fault := keepDevice 1 k.fault }

/-- Vector engine (R123). -/
def Vec.cleared (k : Vec) : Vec := { Vec.init with fault := keepDevice 3 k.fault }

/-- Handle table (R232). -/
def Handles.cleared (k : Handles) : Handles := { Handles.init with wrRef := k.wrRef, fault := keepDevice 5 k.fault }

/-- Vault group: what waits there for the plan that ends (R232, R416); its contents are the bulk clear's. -/
def Vault.cleared (k : Vault) : Vault :=
  { k with served := [], writes := [], remote := [], tally := [],
           chans := k.chans.map (fun x => { x with fault := keepDevice 8 x.fault }) }

/-- The core state that R92, R123, R134, R156, R232, R272 and R291 name, with scratchpad and marks. -/
def Core.cleared (k : Core) : Core :=
  { k with ctl := k.ctl.cleared, mtx := .init, vec := k.vec.cleared, scratch := [], pz := [], hdl := k.hdl.cleared,
           st := .replicate 6 .init, dtag := 0, sync := .init, rings := .init, vault := k.vault.cleared, fault := 0 }

/-- The same of a die: flip arm, tables, flits on the mesh, the router's core side, job-scope bits, the frame-validity
register, and the counts that a plan load clears, whose entries read their cleared values on a die without a plan (R417). -/
def Die.cleared (d : Die) : Die :=
  { d with
    cores := d.cores.map Core.cleared
    flipArm := false
    net := { Net.init with wrRef := d.net.wrRef, wrAct := d.net.wrAct }
    hold := { d.hold with reqs := [], timed := [], conflict := 0, run := 0, held := false, fault := keepDevice 9 d.hold.fault,
                          capture := 0, hcnt := .replicate 13 0 }
    frm := { d.frm with frun := false, fnum := 0, flate := false, ovr := 0, skip := 0, lateFrame := 0, lateAny := false,
                        fallen := [], invFrame := 0, invAny := false, invCnt := 0, invMark := false,
                        invThis := false, fault := keepDevice 0x0A d.frm.fault }
    clock := { d.clock with rsCnt := .replicate 8 0, rsMax := .replicate 8 0, fwLast := 0, fwMin := 0x3FF, thrDuty := 0, thrMax := 0 }
    router := { d.router with outMsgs := [], segs := [] }
    keyReg := [] }

/-- The bulk clear of R250 begins. -/
def Die.startClear (now : Nat) (d : Die) : Die := { d with pow := { d.pow with clearing := true, clearAt := now } }

/-- The plan of a die ends (R416): key register, scratchpad and named state are cleared at once, and DRAM by the bulk
clear. The die takes no duty (R365). -/
def Die.endPlan (now : Nat) (d : Die) : Die :=
  if d.plan.isNone then { d with unloadAtEnd := false, frm := { d.frm with frun := false, fallen := [] } }
  else
    Die.startClear now { d.cleared with
      plan := none, unloadAtEnd := false, clock := { d.cleared.clock with thrNext := 0 } }

/-- A die takes no further part in plans: it forwards only (R340). -/
def Die.passThrough (now : Nat) (d : Die) : Die :=
  let d := d.endPlan now
  { d with router := { d.router with pthru := true }, pow := { d.pow with passAtEnd := false } }

/-- A channel whose contents are lost: retention registers that VDRAM supplies are kept where it stays up (R251, R449);
counts and faults are cleared by RST_N alone (R254). Without VDRAM the patrol position and the number of passes begin again
at 0 (DESIGN CHOICE, log entry 119). -/
def Chan.off (keepDram : Bool) (x : Chan) : Chan :=
  let y := { x with wb := [], round := none, servedAt := none }
  if keepDram then y else { y with patPos := 0, patPass := 0, since := 0, scrubAt := 0, fixedNow := [], fixedPrev := [] }

/-- Own DRAM when VCORE goes off: kept in self-refresh, or lost (log entry 2). -/
def Vault.off (keepDram : Bool) (v : Vault) : Vault :=
  { v with mem := if keepDram then v.mem else [], tags := if keepDram then v.tags else [], served := [], writes := [],
           remote := [], tally := [], chans := v.chans.map (Chan.off keepDram) }

/-- A die enters Idle, or leaves it, with its record (R361). -/
def Die.setGate (d : Die) (g : Bool) : Die :=
  if d.clock.gated = g then d
  else
    Die.enqueue (Die.freshWindow { d with clock := { d.clock with gated := g }, frm := { d.frm with fallen := [] } })
      { sev := 2, unitk := 0x0A, unit := unitIx d.ix.val 0 0, rule := 361, bit := 0xFF, frame := some d.frm.fnum, onDie := true,
        time := d.clock.tc, cyc := d.evCycle, det := [] }

/-- VCORE of a die goes off (R360, R368, R449): what VCORE supplies is at reset when it returns; device-scope bits and
counts that only RST_N clears stay, and so do the link ends, the packet counter under a job's key (R321), and the repair map
and training while VDRAM stays up. A die that was in Idle leaves it (R361). -/
def Die.powerOff (keepDram : Bool) (d : Die) : Die :=
  let fresh := Die.init d.ix
  let d := d.setGate false
  let e := d.cleared
  { fresh with
    draws := d.draws
    cores := e.cores.map (fun k => { k with vault := k.vault.off keepDram })
    router := { fresh.router with phys := d.router.phys, pthru := d.router.pthru, fault := d.router.fault,
                                  nextSwap := d.router.nextSwap, pctr := d.router.pctr }
    net := e.net
    hold := { fresh.hold with wd := d.hold.wd, margin := d.hold.margin }
    clock := { fresh.clock with tc := d.clock.tc }
    frm := { fresh.frm with nextTick := d.frm.nextTick, fault := e.frm.fault }
    pkg := d.pkg
    temps := d.temps
    logic := d.logic
    repair := if keepDram then d.repair else []
    evq := d.evq
    evLost := d.evLost
    once := d.once
    setNow := d.setNow
    pow := { d.pow with vcoreOn := false, vcoreMv := 0, clearing := false, passAtEnd := false, leaving := false,
                        trained := keepDram && d.pow.trained, selfRef := keepDram && d.pow.trained } }

end Sys2Proof.Machine
end

