-- ==== Sys2Proof/Machine/Frames.lean ====
section
/-! DEFINITION. Frames and clocks (chapters 07 and 12): ticks, tick recognition with its decisions, overrun and late
frames, the end and the abort of a frame, throttling, stretching, the frequency monitor and the voltage loop, and the
failure of a management lane. -/

namespace Sys2Proof.Machine

/-! ### Ticks (R306, R308, R27) -/

/-- A frame that began before the hub die's last tick still runs on a die. -/
def State.oldFrame (s : State) : Bool :=
  s.dies.toList.any (fun d => d.frm.frun && (!d.frm.fallen.isEmpty || decide (d.frm.nextTick ≤ s.hub.time.lastAt)))

/-- At a tick the cap takes effect, but never within a frame that runs over the tick: it then waits for a later tick (R27). -/
def State.takeCap (s : State) : State :=
  match s.hub.power.capDue with
  | some c => if s.oldFrame then s else s.modHub (fun h => { h with power := { h.power with capForce := c, capDue := none } })
  | none => s

/-- A die whose clocks stand with VCORE counts its frames of R427 by the hub die's ticks. -/
def State.offOnce (s : State) : State :=
  { s with dies := s.dies.map (fun d => if d.pow.vcoreOn then d else { d with once := [] }) }

/-- The hub die's counter has reached its next tick value: what waits for the tick takes effect (R27, R308). -/
def State.hubTick (s : State) : State :=
  let t := s.hub.time
  if t.nextTick ≤ t.tc.toNat then
    (s.modHub (fun h => { h with
      time := { h.time with lastTick := BitVec.ofNat 64 (t.nextTick / 62500 % 2 ^ 48), inForce := t.period,
                            nextTick := tickAfter t.nextTick t.period.toNat, lastAt := t.nextTick },
      power := { h.power with capDue := some h.power.cap },
      dict := { h.dict with statePending := false, wdForce := h.dict.wd, marginForce := h.dict.margin },
      rec_ := { h.rec_ with once := [] } })).takeCap.offOnce
  else s

/-- A die has met its next tick value: later ticks follow the period in force from it on (R308). -/
def State.meetTick (s : State) (n : DieIx) : State :=
  s.modDie n (fun d => { d with frm := { d.frm with nextTick := tickAfter d.frm.nextTick (s.periodFrom d.frm.nextTick) } })

/-- Between frames, the watchdog limits that a tick has brought into force reach a die (R27, R207, R208). -/
def State.takeLimits (s : State) (n : DieIx) : State :=
  s.modDie n (fun d => { d with hold := { d.hold with wd := s.hub.dict.wdForce.toNat, margin := s.hub.dict.marginForce.toNat } })

/-- A die recognises ticks: it holds a plan that runs on, and is neither in pass-through nor in Idle (R20, R306, R361). -/
def Die.opens (d : Die) : Bool :=
  d.plan.isSome && !d.router.pthru && !d.clock.gated && !d.pow.noMore && d.pow.vcoreOn && !d.loadAtEnd && !d.unloadAtEnd

/-- The die's clear is complete, and so is that of every die that the same load covers (R250, R384). -/
def State.planClear (s : State) (n : DieIx) : Bool :=
  let l := s.hub.dict.load
  !s.dies[n].pow.clearing
  && (l.st ≠ .checking || !bit l.mask n.val || (maskDies l.mask).all (fun m => !s.dies[m].loadAtEnd && !s.dies[m].pow.clearing))

/-- A refresh round started outside a frame is under way on some channel (R245, R306). -/
def Die.outsideRound (d : Die) : Bool :=
  d.cores.toList.any (fun k => k.vault.chans.toList.any (fun x => match x.round with | some r => r.kind = .outside | none => false))

/-- A tick is due for recognition, on a die whose counter has been aligned since VCORE rose (R449): the cycle begins at least 12 ns after the counter reached the tick's value (R306). -/
def State.tickDue (s : State) (n : DieIx) : Bool :=
  let d := s.dies[n]
  !d.frm.frun && d.frm.fallen.isEmpty && d.opens && d.clock.aligned && s.planClear n && decide (d.frm.nextTick + 3 ≤ d.clock.tc.toNat)
  && !d.outsideRound

/-- A tick that opens no frame and is no overrun: the die does not recognise ticks (R306, R361). -/
def State.passTick (s : State) (n : DieIx) : State :=
  let d := s.dies[n]
  if !d.frm.frun && !(d.opens && d.clock.aligned && s.planClear n) && decide (d.frm.nextTick ≤ d.clock.tc.toNat) then
    ((s.meetTick n).takeLimits n).modDie n (fun d => if d.plan.isNone then { d with once := [] } else d)
  else s

/-! ### The decisions of a recognition cycle (R117, R149, R198, R222, R223) -/

/-- Every core of the die has its standby bank complete. -/
def Die.standbyComplete (d : Die) : Bool := d.cores.toList.all (fun k => k.ctl.sbState = .complete)

/-- Flip decision: instruction memories and slot tables flip, or stay with `imem_flip_late`. -/
def Die.flipDecision (d : Die) : Die × Bool :=
  if !d.flipArm then (d, false)
  else if d.standbyComplete then
    ({ d with flipArm := false, net := { d.net with act := !d.net.act },
              cores := d.cores.map (fun k => { k with ctl := { k.ctl with act := !k.ctl.act, sbState := .empty } }) }, true)
  else (d.forCores (fun d c => d.fault (.ctl c) imemFlipLate), false)

/-- Exchange the handle banks: a handle whose two entries differ loses its run state, and descriptors bound to one of its
halves set no valid bit. -/
def Core.exchangeHandles (k : Core) : Core :=
  let same (i : Fin 64) : Bool := k.hdl.bank0[i] == k.hdl.bank1[i]
  { k with
    hdl := { k.hdl with act := !k.hdl.act, armP := false, armB := false,
                        run := Vector.ofFn (fun i => if same i then k.hdl.run[i] else {}),
                        sets := k.hdl.sets.filter (fun x => same x.handle) },
    st := k.st.map (fun (u : Stream) => { u with places := u.places.map (fun x => if same x.handle then x else { x with live := false }) }) }

/-- The handle table's decision: the plain arm at every recognition, the bound arm at a flip. -/
def Die.handleDecision (d : Die) (c : CoreIx) (flip : Bool) : Die :=
  let h := d.cores[c].hdl
  if h.armP || (h.armB && flip) then
    if h.loading then d.fault (.hdl c) hdlSwapLate
    else
      let e := d.modCore c (·.exchangeHandles)
      (h.sets.filter (fun x => !(e.cores[c].hdl.sets.contains x))).foldl (fun d x => d.fault (.stream c x.unit) setvLost) e
  else d

/-- A `vtld` to a table is still in execution. -/
def Vec.loadsTable (v : Vec) (t : Fin 4) : Bool :=
  let is (r : Option VecRun) : Bool := match r with
    | some x => match x.op with | .vtld f => fin4 f.t = t | _ => false
    | none => false
  is v.run0 || is v.run1

/-- Each armed function table swaps, or stays armed while its `vtld` is in execution. -/
def Die.tableDecision (d : Die) (c : CoreIx) (t : Fin 4) : Die :=
  let v := d.cores[c].vec
  if !v.ft[t].arm then d
  else if v.loadsTable t then d.fault (.vec c) ftSwapLate
  else d.modCore c (fun k => { k with vec := { k.vec with ft := vupd k.vec.ft t (fun x => { x with act := !x.act, arm := false }) } })

/-- The write of a summary register at the end of a recognition cycle (R270, R309). -/
def tickSummary (rc : Nat) (vs : Fin 8) (val : U32) : SummaryWrite where
  due := rc
  onClk := false
  rank := 5
  unit := 0
  vs := vs
  val := val
  ty := 2
  poison := false

/-- What a core does in a recognition cycle: its tables' decisions, the marks in `vs6` and `vs7`, and its word at
address zero (R143). -/
def Die.beginCore (d : Die) (flip late inv : Bool) (c : CoreIx) : Die :=
  let d := d.handleDecision c flip
  let d := (List.finRange 4).foldl (fun d t => d.tableDecision c t) d
  let marks := tickSummary d.clock.rc 6 (if late then 1 else 0) :: (if inv then [tickSummary d.clock.rc 7 1] else [])
  d.modCore c (fun k => { k with
    ctl := { k.ctl with pc := 0, nextChk := -4, ended := false, stopped := false, endAt := none, failRun := 0 },
    vec := { k.vec with sumQ := k.vec.sumQ ++ marks } })

/-- The die opens the frame of the tick at value t: this clock cycle is plan cycle −4 (R143, R187, R307, R309). -/
def Die.openFrame (d : Die) (t : Nat) (late : Bool) : Die :=
  let num := BitVec.ofNat 48 (t / 62500)
  let inv := d.frm.invMark
  let d := { d with
    once := []
    frm := { d.frm with frun := true, fnum := num, flate := late, fallen := [], invThis := false, invMark := false,
                        lateFrame := if late then num else d.frm.lateFrame, lateAny := d.frm.lateAny || late }
    hold := { d.hold with reqs := [], timed := [], conflict := 0, run := 0, inFrame := 0, held := false }
    clock := { d.clock with pcyc := -4, winBase := d.clock.clk, winDone := none } }
  let (d, flip) := d.flipDecision
  d.forCores (fun d c => d.beginCore flip late inv c)

/-- TICK_RECOGNITION. -/
def State.tickRecognition (s : State) (n : DieIx) : State :=
  let s := s.hubTick
  if s.tickDue n then
    let t := s.dies[n].frm.nextTick
    ((s.meetTick n).takeLimits n).modDie n (fun d => d.openFrame t false)
  else s.passTick n

def execTickRecognition (n : DieIx) (s : State) : Out := .next (s.tickRecognition n)

/-! ### Overrun and late frames (R309) -/

/-- TICK_OVERRUN: a tick falls while the die's frame runs. -/
def State.tickOverrun (s : State) (n : DieIx) : State :=
  let d := s.dies[n]
  if d.frm.frun && decide (d.frm.nextTick ≤ d.clock.tc.toNat) then
    let t := d.frm.nextTick
    (s.meetTick n).modDie n (fun d =>
      Die.faultEach { d with frm := { d.frm with ovr := satAdd d.frm.ovr 1, fallen := d.frm.fallen ++ [t] } } .clock frOvr)
  else s

def execTickOverrun (n : DieIx) (s : State) : Out := .next (s.tickOverrun n)

/-- A tick that opens no frame is counted and recorded. -/
def Die.skipTick (d : Die) (_t : Nat) : Die := Die.faultEach { d with frm := { d.frm with skip := satAdd d.frm.skip 1 } } .clock frSkip

/-- A late frame is due: a tick fell during the frame that has ended, and no round started outside a frame runs. -/
def State.lateDue (s : State) (n : DieIx) : Bool :=
  let d := s.dies[n]
  !d.frm.frun && !d.frm.fallen.isEmpty && d.opens && d.clock.aligned && s.planClear n && !d.outsideRound

/-- LATE_FRAME_RECOGNITION: the latest tick that has fallen opens the frame; the earlier ones are skipped. -/
def State.lateRecognition (s : State) (n : DieIx) : State :=
  let s := s.hubTick
  if s.lateDue n then
    let d := s.dies[n]
    let more := decide (d.frm.nextTick ≤ d.clock.tc.toNat)
    let all := if more then d.frm.fallen ++ [d.frm.nextTick] else d.frm.fallen
    let s := if more then s.meetTick n else s
    (s.takeLimits n).modDie n (fun d =>
      let d := d.openFrame (all.getLast?.getD 0) true
      all.dropLast.foldl Die.skipTick d)
  else s

def execLateFrameRecognition (n : DieIx) (s : State) : Out := .next (s.lateRecognition n)

/-! ### The end of a frame (R145, R193, R206) -/

/-- Plan cycles of the frame so far (R187), at a cycle boundary. -/
def Die.frameLen (d : Die) : Nat := (d.clock.pcyc + 4).toNat

/-- The two comparisons at the end of a frame (R206). -/
def Die.frameChecks (d : Die) : Die :=
  match d.plan with
  | none => d
  | some p =>
    let d := if p.allow < d.hold.inFrame then d.fault .sched holdOver else d
    if p.frameLen < d.frameLen then d.fault .sched lenOver else d

/-- The die's frame ends at this cycle boundary: no hold remains, and a plan that was to end with it ends. A tick fallen
during the frame leaves out the rounds before the next one (R245). -/
def Die.frameEnd (now : Nat) (d : Die) : Die :=
  let d := d.frameChecks
  let d := { d with
    frm := { d.frm with frun := false,
                        preDone := if d.beforeTick && !d.frm.fallen.isEmpty then some d.frm.nextTick else d.frm.preDone }
    hold := { d.hold with reqs := [], timed := [], conflict := 0, run := 0, held := false } }
  let d := if d.unloadAtEnd then d.endPlan now else d
  if d.pow.passAtEnd then d.passThrough now else d

/-- Cores whose last word has ended have ended their frame (R144); with the last of the 32 the die's frame ends. -/
def Die.coresEnd (now : Nat) (d : Die) : Die :=
  let spent (k : Ctl) : Bool := !k.ended && (match k.endAt with | some e => decide (e < d.clock.pcyc) | none => false)
  if !d.frm.frun then d
  else
    let d := if d.cores.toList.any (fun k => spent k.ctl) then
        { d with cores := d.cores.map (fun k => if spent k.ctl then { k with ctl := { k.ctl with ended := true } } else k) }
      else d
    if d.cores.toList.all (fun k => k.ctl.ended) then d.frameEnd now else d

/-! ### Abort (R93, R123, R157, R207, R208, R233, R269, R291) -/

/-- The accumulator words that a discarded pass may have reached: each keeps a value the spec does not state, drawn
free, and their rows' marks likewise. -/
def freePass (ix : Nat) (st : (Cells 32 × NatSet) × Nat) (p : Pass) : (Cells 32 × NatSet) × Nat :=
  (List.range p.sums.length).foldl (fun st m =>
    let st := (List.range p.tile.cols).foldl (fun (st : (Cells 32 × NatSet) × Nat) j =>
      let (r, k) := p.place m j
      let v := (Config.freeValue (16 * st.2 + ix)).extractLsb' 0 32
      ((Cells.set st.1.1 (accKey p.array.val r k) v, st.1.2), st.2 + 1)) st
    (p.rowsOf m).foldl (fun (st : (Cells 32 × NatSet) × Nat) r =>
      let mk := bit (Config.freeValue (16 * st.2 + ix)) 0
      ((st.1.1, if mk then st.1.2.add r else st.1.2.del r), st.2 + 1)) st) st

/-- Matrix state after an abort (R93). `acc_sat` and `mtx_poison` stay as they are, whatever vectors a discarded pass had entered
(DESIGN CHOICE, log entry 113). -/
def Die.abortMtx (d : Die) (c : CoreIx) : Die :=
  let m := d.cores[c].mtx
  let ((acc, pz), n) := m.passes.foldl (freePass d.ix.val) ((m.acc, m.rowPz), d.draws)
  Die.modCore { d with draws := n } c (fun k => { k with mtx := { k.mtx with
    acc := acc, rowPz := pz, halves := .replicate 8 {}, front := none, shadow := .empty, queue := none, passes := [],
    freeAt := .replicate 4 0 } })

/-- Vector engine after an abort (R123): a discarded `vtld` leaves its table unarmed. -/
def Core.abortVec (k : Core) : Core :=
  let loads (t : Fin 4) : Bool := k.vec.loadsTable t
  { k with vec := { k.vec with
    ft := Vector.ofFn (fun t => if loads t then { k.vec.ft[t] with arm := false } else k.vec.ft[t])
    run0 := none, run1 := none, writes := [], releases := []
    sumQ := k.vec.sumQ.filter (fun w => w.rank = 1 || w.rank = 5) } }

/-- Control core after an abort (R157). -/
def Core.abortCtl (k : Core) : Core := { k with ctl := { k.ctl with checked := [], ended := true, endAt := none } }

/-- Stream units after an abort (R233): reads under way are still decoded, and corrections enter the queue (R252). -/
def Die.abortStreams (d : Die) (c : CoreIx) : Die :=
  let d := (List.finRange 6).foldl (fun d u =>
    if d.cores[c].st[u].places.isEmpty then d
    else (d.fault (.stream c u) abortDrop).modCore c (fun k => { k with st := vupd k.st u (fun x => { x with places := [] }) })) d
  d.modCore c (fun k => { k with vault := { k.vault with
    served := (k.vault.served.filter (fun s => !s.decoded)).map (fun s => { s with drop := true })
    writes := k.vault.writes.filter (·.onClk) } })

/-- A partly injected send is cut: its loss notice goes to its destination (R285, R291). A notice names a destination core, which
a send to a host has not: the source's router answers it itself with NAK 0x5 after two cycles (DESIGN CHOICE, log entry 121). -/
def Die.cutSend (d : Die) (c : CoreIx) (x : Send) : Die :=
  let h := d.sendHeader c x
  let m : MsgIn := { hdr := h, from_ := none, job := d.jobOf, body := [] }
  match d.sendPath c x with
  | .mesh into => d.sendLoss c into m
  | .own => d.sendLoss c c m
  | .router =>
    let rest := d.router.outMsgs.filter (fun o => !(o.core = c && o.m.hdr.seq = x.seq))
    let d := { d with router := { d.router with outMsgs := rest } }
    if x.f.hd then d.answerOwn c c { code := 5, ring := h.q, tag := h.tag, seq := h.seq } (landCycle d.clock.clk c c)
    else
      match d.router.physOf x.dest.toNat with
      | some p => d.sendRec { idst := p, isc := 0, iamt := 0, ik := 3, icode := 0, isrc := d.physDesignator c, ijob := d.jobOf,
                              iq := h.q, itag := h.tag, iseq := h.seq } (some h.id)
      | none => (d.noRoute c h).fault .router rtUnreach

/-- Sends after an abort (R291). -/
def Die.abortSends (d : Die) (c : CoreIx) : Die :=
  let xs := d.cores[c].rings.sends
  let gone := (xs.filter (fun x => x.sent = 0)).map (·.seq)
  let d := (xs.filter (fun x => 0 < x.sent)).foldl (fun d x => d.cutSend c x) d
  d.modCore c (fun k => { k with rings := { k.rings with
    sends := [], nout := k.rings.nout - gone.length, outs := k.rings.outs.filter (fun o => !gone.contains o.seq) } })

/-- The wait capture of a wait that is not met (R269). -/
def Core.waitCapture (k : Core) (frame : BitVec 16) (w : Waiting) : WaitCapture :=
  match w.what with
  | .count sc e => { wk := 1, wsc := BitVec.ofNat 6 sc.val, wexp := e, wv := true, ws := k.sync.ctr[sc].s, frame := frame,
                     c := k.sync.ctr[sc].c }
  | .word h _ _ ref => { wk := 2, wsc := BitVec.ofNat 6 h.val, wexp := ref.zeroExtend 48, wv := true, ws := 0, frame := frame, c := 0 }
  | .ring mask _ => { wk := 3, wsc := 0, wexp := mask.zeroExtend 48, wv := true, ws := 0, frame := frame, c := 0 }

/-- Detail of a wait capture's event (R433). -/
def WaitCapture.det (x : WaitCapture) : Bytes := leBytes 8 x.word0.toNat ++ leBytes 6 x.ws.toNat ++ leBytes 6 x.c.toNat

/-- The wait of a core's held word, at a hold-watchdog abort, is captured and recorded (R269). -/
def Die.captureWait (d : Die) (c : CoreIx) : Die :=
  match d.cores[c].sync.waits.find? (fun w => w.due = d.clock.pcyc) with
  | none => d
  | some w =>
    let x := d.cores[c].waitCapture d.frame16 w
    (d.modCore c (fun k => { k with sync := { k.sync with wcap := x } })).event 4 0x06 (unitIx d.ix.val c.val 0) 269 0xFF x.det

/-- What an abort discards in one core. -/
def Die.abortCore (d : Die) (c : CoreIx) : Die :=
  let d := (d.abortMtx c).modCore c (fun k => (k.abortVec).abortCtl)
  let d := (d.abortStreams c).abortSends c
  d.modCore c (fun k => { k with sync := { k.sync with waits := [] } })

/-- Abort of the die's frame: holds cleared, work discarded, the frame marked invalid, the bit set, the frame ended. -/
def Die.abort (now : Nat) (d : Die) (b : FBit) : Die :=
  let d := { d with hold := { d.hold with reqs := [], timed := [], conflict := 0 } }
  let d := (d.forCores Die.abortCore).markInvalid
  (d.fault .sched b).frameEnd now

/-- The hold watchdog's count has reached W (R207). -/
def Die.holdWatchdogDue (d : Die) : Bool := d.frm.frun && decide (d.hold.wd ≤ d.hold.run)

/-- HOLD_WATCHDOG_ABORT. -/
def Die.holdWatchdog (now : Nat) (d : Die) : Die :=
  if d.holdWatchdogDue then (d.forCores Die.captureWait).abort now wdAbort else d

def execHoldWatchdogAbort (n : DieIx) (s : State) : Out := onDie s n (Die.holdWatchdog s.now)

/-- The run watchdog's count has reached L + X (R208). -/
def Die.runWatchdogDue (d : Die) : Bool :=
  d.frm.frun && match d.plan with
    | some p => decide (p.frameLen + d.hold.margin ≤ d.frameLen)
    | none => false

/-- RUN_WATCHDOG_ABORT. -/
def Die.runWatchdog (now : Nat) (d : Die) : Die := if d.runWatchdogDue then d.abort now runAbort else d

def execRunWatchdogAbort (n : DieIx) (s : State) : Out := onDie s n (Die.runWatchdog s.now)

/-! ### Throttling (R311) -/

/-- The window of 1,000 clock cycles, counted from the last tick recognition, that contains the present cycle. -/
def Die.window (d : Die) : Nat := (d.clock.clk - d.clock.winBase) / 1000

/-- THROTTLE_WINDOW: at a window boundary the duty sent takes effect, and inside a frame it raises its hold; a duty
above θ sets `thr_over` in each window. -/
def Die.throttleWindow (d : Die) : Die :=
  if d.clock.winDone = some d.window then d
  else
    let duty := d.clock.thrNext
    let d := { d with clock := { d.clock with winDone := some d.window, thrDuty := duty } }
    let d := if d.frm.frun && duty ≠ 0 then d.timedHold 10 duty.toNat else d
    if d.clock.thrMax.toNat < duty.toNat then d.fault .clock thrOver else d

def execThrottleWindow (n : DieIx) (s : State) : Out := onDie s n Die.throttleWindow

/-! ### Stretching (R293 to R297) -/

/-- The clock region of a core: c[4] = r[2] and c[2:1] = r[1:0] (R293). -/
def regionOf (c : CoreIx) : Fin 8 := Fin.ofNat 8 (c.val / 16 * 4 + c.val / 2 % 4)

/-- Grid distance between two clock regions (R293). -/
def regionDist (a b : Fin 8) : Nat := absDiff (a.val / 4) (b.val / 4) + absDiff (a.val % 4) (b.val % 4)

/-- Stretch of region r in the cycle in progress (R295). -/
def Clock.stretch (k : Clock) (r : Fin 8) : Nat :=
  (List.finRange 8).foldl (fun m q =>
    max m (match k.demand[regionDist r q]? with | some v => v[q].val | none => 0)) 0

/-- DROOP_STRETCH: the detector of a region raises its demand in the cycle in progress (R294). -/
def Die.droop (d : Die) (region : Fin 8) (demand : Fin 9) : Die :=
  let now : Vector (Fin 9) 8 := d.clock.demand.headD (.replicate 8 0)
  { d with clock := { d.clock with demand := vupd now region (fun _ => demand) :: d.clock.demand.drop 1 } }

def execDroopStretch (n : DieIx) (region : Fin 8) (demand : Fin 9) (s : State) : Out := onDie s n (fun d => d.droop region demand)

/-- Length of region r's cycle in progress, in sixteenths of a nominal period (R294). -/
def Clock.cycleLen (k : Clock) (r : Fin 8) : Nat := 16 + k.stretch r

/-- By how much a region would lag region 0 after a cycle, were nothing to bound it: its lag grows by how much longer its cycle
was than region 0's. -/
def Clock.drift (k : Clock) (r : Fin 8) : Int := k.lag[r] + k.cycleLen r - k.cycleLen 0

/-- The most that two regions may lag each other, in sixteenths: half a nominal period for each grid step (R296). -/
def lagBound (a b : Fin 8) : Int := 8 * regionDist a b

/-- A region's lag after a cycle. A region that would lead another, or lag region 0, by more than the bound is kept at the bound
(R296; DEDUCED, log entry 106). -/
def Clock.lagAfter (k : Clock) (r : Fin 8) : Int :=
  let near (q : Fin 8) : Int := max (-(lagBound 0 q)) (min (lagBound 0 q) (k.drift q))
  (List.finRange 8).foldl (fun m q => max m (near q - lagBound q r)) (near r)

/-- The end of a cycle for the lags of the regions (R296), the stretch counts (R297), which stay cleared on a die without a
plan (R417), and the demands that travel (R295). -/
def Clock.endStretch (k : Clock) (plan : Bool) : Clock :=
  if k.demand.isEmpty then k
  else
    let up (r : Fin 8) : Nat := k.stretch r
    let quiet := k.demand.all (fun v => v.toList.all (· = 0))
    { k with
      lag := Vector.ofFn k.lagAfter
      rsCnt := if plan then Vector.ofFn (fun r => if up r = 0 then k.rsCnt[r] else k.rsCnt[r] + 1) else k.rsCnt
      rsMax := if plan then Vector.ofFn (fun r => if k.rsMax[r].toNat < up r then BitVec.ofNat 4 (up r) else k.rsMax[r]) else k.rsMax
      demand := if quiet then [] else .replicate 8 0 :: k.demand.take 4 }

/-! ### Frequency monitor and voltage loop (R298, R299) -/

/-- A window of the frequency monitor is complete. -/
def Die.fwDue (d : Die) : Bool := d.pow.vcoreOn && !d.clock.gated && decide (d.clock.fwStart + 250 ≤ d.clock.tc.toNat)

/-- The boundary at which the cycle in progress of a core, and of its units, began: how far it lies behind now, in sixteenths
of a nominal period; negative where the core's region leads and has yet to end the cycle before (R293, R296). -/
def Die.sinceBoundary (d : Die) (c : CoreIx) : Int := d.clock.phase - d.clock.lag[regionOf c]

/-- FREQUENCY_WINDOW: the window's count is compared with 846, 870 and 920 cycles. On a die without a plan the status entries
keep their cleared values (R417), while a breach is still recorded and the voltage loop goes on (log entry 103). -/
def State.frequencyWindow (s : State) (n : DieIx) : State :=
  let d := s.dies[n]
  if d.fwDue then
    let cnt := d.clock.fwCount
    let last := BitVec.ofNat 10 (min cnt 1023)
    let s := s.modDie n (fun d =>
      let d := { d with clock := { d.clock with fwCount := 0, fwStart := d.clock.tc.toNat / 250 * 250 } }
      let d := if d.plan.isNone then (if cnt < 846 then d.faultRecord .clock fbBreach else d)
        else
          let d := { d with clock := { d.clock with
            fwLast := last, fwMin := if last.toNat < d.clock.fwMin.toNat then last else d.clock.fwMin } }
          if cnt < 846 then d.fault .clock fbBreach else d
      if cnt < 870 && 800 ≤ d.pow.vcoreMv then d.fault .clock vTop else d)
    s.modHub (fun h => { h with power := { h.power with
      fast := vupd h.power.fast n (fun x => if 920 ≤ cnt then x + 1 else 0)
      raiseDue := vupd h.power.raiseDue n (fun x => x || (decide (cnt < 870) && decide (d.pow.vcoreMv < 800))) } })
  else s

/-- The die cannot hold the budget frequency at any permitted voltage: recorded when it first becomes so (R430). -/
def State.slowCheck (s : State) (n : DieIx) : State :=
  let slow := bit s.dies[n].frm.fault 0 && bit s.dies[n].frm.fault 4
  let seen := bit s.hub.rec_.slowSeen n.val
  if slow && !seen then
    s.modHub (fun h => Hub.event { h with rec_ := { h.rec_ with slowSeen := setBit h.rec_.slowSeen n.val } } 5 0x0A
      (unitIx n.val 0 0) 430 0xFF [])
  else if !slow && seen then s.modHub (fun h => { h with rec_ := { h.rec_ with slowSeen := clrBit h.rec_.slowSeen n.val } })
  else s

def execFrequencyWindow (n : DieIx) (s : State) : Out := .next ((s.frequencyWindow n).slowCheck n)

/-- A die's calibrated operating voltage in mV: a setpoint of R462, from 0.60 V to 0.80 V in steps of 5 mV. -/
def vcoreFloor (n : DieIx) : Nat := max 600 (min 800 (Config.calibratedMv n)) / 5 * 5

/-- Set a die's VCORE (an AVSBus command). -/
def State.setVcore (s : State) (n : DieIx) (mv : Nat) : State :=
  let s := s.modDie n (fun d => { d with pow := { d.pow with vcoreMv := mv } })
  s.modHub (fun h => { h with power := { h.power with
    rails := h.power.rails.mapIdx (fun i (x : Rail) => if i = n.val then { x with target := mv } else x) } })

/-- A raise is due: a window was low, the last raise is at least 20 µs back, and VCORE is below 0.80 V (R299). -/
def State.raiseDue (s : State) (n : DieIx) : Bool :=
  s.hub.power.raiseDue[n] && s.dies[n].pow.vcoreOn && decide (s.dies[n].pow.vcoreMv < 800)
  && (s.hub.power.raiseAt[n] = 0 || decide (s.hub.power.raiseAt[n] + usCounts 20 ≤ s.now))

/-- VCORE_RAISE: 5 mV up. -/
def State.vcoreRaise (s : State) (n : DieIx) : State :=
  if s.raiseDue n then
    let s := s.setVcore n (min 800 (s.dies[n].pow.vcoreMv + 5))
    s.modHub (fun h => { h with power := { h.power with
      raiseDue := vupd h.power.raiseDue n (fun _ => false), raiseAt := vupd h.power.raiseAt n (fun _ => s.now) } })
  else s

def execVcoreRaise (n : DieIx) (s : State) : Out := .next (s.vcoreRaise n)


/-- VCORE_LOWER: after 1 ms of windows of 920 cycles or more, 5 mV down. -/
def State.vcoreLower (s : State) (n : DieIx) : State :=
  if 1000 ≤ s.hub.power.fast[n] && decide (vcoreFloor n + 5 ≤ s.dies[n].pow.vcoreMv) then
    let s := s.setVcore n (s.dies[n].pow.vcoreMv - 5)
    s.modHub (fun h => { h with power := { h.power with fast := vupd h.power.fast n (fun _ => 0) } })
  else s

def execVcoreLower (n : DieIx) (s : State) : Out := .next (s.vcoreLower n)

/-! ### Failure of a management lane (R20) -/

/-- MGMT_LANE_FAIL: the die finishes its frame and starts no other; where its router works it then forwards only. -/
def State.laneFail (s : State) (n : DieIx) (routerWorks : Bool) : State :=
  if s.dies[n].pow.lane then
    let s := s.modDie n (fun d =>
      let d := { d with pow := { d.pow with lane := false, noMore := true, passAtEnd := routerWorks } }
      if routerWorks && !d.frm.frun then d.passThrough s.now else d)
    s.modHub (fun h => h.event 4 0x0E (unitIx n.val 0 0) 20 0xFF [])
  else s

def execMgmtLaneFail (n : DieIx) (routerWorks : Bool) (s : State) : Out := .next (s.laneFail n routerWorks)

end Sys2Proof.Machine
end

