-- ==== Sys2Proof/Machine/Power.lean ====
section
/-! DEFINITION. Marigold's power management (chapters 15, 19 and 20): rails and regulators, fencing, the way to Off,
sensors, the coolant inlet, the power cap and thermal protection. -/

namespace Sys2Proof.Machine

/-! ### Rails (R357 to R359, R376) -/

/-- The VCORE rail of a die. -/
def vcoreRail (n : DieIx) : RailIx := Fin.ofNat 12 n.val

/-- The die of a VCORE rail. -/
def railDie (k : RailIx) : Option DieIx := if k.val < 8 then some (Fin.ofNat 8 k.val) else none

def vdram : RailIx := 8
def vwl : RailIx := 9
def vser075 : RailIx := 10
def vser120 : RailIx := 11

/-- Target of a rail in mV (R358): a VCORE rail starts at its die's calibrated voltage. -/
def railTarget (k : RailIx) : Nat :=
  match railDie k with
  | some n => vcoreFloor n
  | none => if k = vdram then 1050 else if k = vwl then 1800 else if k = vser075 then 750 else 1200

/-- The over-voltage fault limit in mV and the over-current warning limit in A of a rail (R462). -/
def railLimits (k : RailIx) : Nat × Nat :=
  if k.val < 8 then (850, 600) else if k = vdram then (1130, 180) else if k = vwl then (1940, 24)
  else if k = vser075 then (810, 140) else (1300, 40)

/-- The order in which the rails come up (R358). -/
def railOrder : List RailIx := [11, 10, 8, 9, 0, 1, 2, 3, 4, 5, 6, 7]

def State.modRail (s : State) (k : RailIx) (f : Rail → Rail) : State :=
  s.modHub (fun h => { h with power := { h.power with rails := vupd h.power.rails k f } })

def State.rail (s : State) (k : RailIx) : Rail := s.hub.power.rails[k]

/-- The unit of a rail's record (R432). -/
def railUnit (k : RailIx) : BitVec 16 := BitVec.ofNat 16 k.val

/-- The link ends of a die: its ports, and both ends of its package links. -/
def diePorts (n : DieIx) : List LinkEnd := (List.finRange 3).map (fun a => LinkEnd.port (portOfDie n a))
def diePkgs (n : DieIx) : List LinkEnd :=
  [.pkg n 0, .pkg n 1, .pkg n 2, .pkg (partner n 0) 0, .pkg (partner n 1) 1, .pkg (partner n 2) 2]
def dieEnds (n : DieIx) : List LinkEnd := diePorts n ++ diePkgs n

/-- An end that trains no longer is Down. -/
def State.endDown (s : State) (e : LinkEnd) (cause : Nat) : State :=
  if (s.link e).trained then s.linkDown e .down cause
  else if (s.link e).st = .training then s.modLink e (fun l => { l with st := .down, retryAt := s.now + retryCounts })
  else s

/-- Enable a rail (OPERATION) with its limits: it must be good within 20 ms. It counts as above 10 % from here until a reading
shows that it is not (DESIGN CHOICE, log entry 126). -/
def State.enableRail (s : State) (k : RailIx) : State :=
  s.modRail k (fun r => { r with enabled := true, good := false, enabledAt := s.now, falling := false, target := railTarget k,
                                 high := true, read := false, missed := 0, missedA := 0, failed := false,
                                 ovMv := (railLimits k).1, ocAmp := (railLimits k).2 })

/-- DRAM contents, training results and repair maps are lost with VDRAM or VWL (R446): the next step 5 trains the die again. -/
def Die.dropDram (d : Die) : Die :=
  { d with cores := d.cores.map (fun k => { k with vault := k.vault.off false }), repair := [],
           router := { d.router with pthru := d.router.pthru && d.pow.result ≠ .dramFailed },
           pow := { d.pow with trained := false, selfRef := false, clearing := false,
                               result := if d.pow.result = .ready || d.pow.result = .dramFailed then .notUp else d.pow.result } }

/-- The voltage loop of a die forgets what it has seen (R299). -/
def State.dropLoop (s : State) (n : DieIx) : State :=
  s.modHub (fun h => { h with power := { h.power with
    raiseDue := vupd h.power.raiseDue n (fun _ => false), fast := vupd h.power.fast n (fun _ => 0) } })

/-- Disable a rail: what it supplies goes off, with the link ends that need it (R449), and it must fall below 10 % before the
next one is disabled. -/
def State.disableRail (s : State) (k : RailIx) : State :=
  let s := s.modRail k (fun r => { r with enabled := false, good := false, falling := r.enabled || r.falling, offAt := s.now, ocWarn := false })
  match railDie k with
  | some n => (((diePkgs n).foldl (fun s e => s.endDown e 6) s).dropLoop n).modDie n (fun d => d.powerOff d.pow.selfRef)
  | none =>
    if k = vdram || k = vwl then { s with dies := s.dies.map Die.dropDram }
    else allPorts.foldl (fun s p => s.endDown (.port p) 6) s

/-! ### Sequences of rails (R358, R466) -/

/-- A rail is up, or has yet to fall below 10 %. -/
def Rail.alive (r : Rail) : Bool := r.enabled || r.falling

/-- Some VCORE rail is still up or falling. -/
def State.vcoreAlive (s : State) : Bool := (List.finRange 8).any (fun n => (s.rail (vcoreRail n)).alive)

/-- Every rail that is up or falling, in the order in which the rails come down. -/
def State.railsUp (s : State) : List RailIx := railOrder.reverse.filter (fun k => (s.rail k).alive)

/-- The sequence without the rails at its front that need nothing more. -/
def State.trimGoal (s : State) : RailGoal :=
  match s.hub.power.goal with
  | .up l => .up (l.dropWhile (fun k => (s.rail k).good))
  | .down l e a => .down (l.dropWhile (fun k => !(s.rail k).alive)) e a
  | g => g

/-- The VCORE rails come up 1 ms apart. -/
def State.vcorePaced (s : State) : Bool :=
  (List.finRange 8).all (fun n =>
    let r := s.rail (vcoreRail n)
    !r.enabled || decide (r.enabledAt + msCounts 1 ≤ s.now))

/-- A rail stands at 90 % of its target or above: it is good, or has been read there since its enable (R465). -/
def Rail.risen (r : Rail) : Bool := r.good || (r.read && decide (9 * r.target ≤ 10 * r.mv))

/-- The rail of a list that may be enabled now: the first one that is not, once each before it is good. A VCORE rail waits for
the other VCORE rails 1 ms each, and until they have risen (R358, R465). -/
def State.nextUp (s : State) (l : List RailIx) : Option RailIx :=
  let before := l.takeWhile (fun k => (s.rail k).enabled)
  match l.drop before.length with
  | [] => none
  | k :: _ =>
    let core := (railDie k).isSome
    if before.all (fun j => (s.rail j).good || (core && (railDie j).isSome && (s.rail j).risen)) && (!core || s.vcorePaced) then some k else none

/-- The next rail of the sequence in progress is enabled or disabled, where it may be. The board disables VCORE first and, when no
VCORE rail is above 10 %, the others in the order in which rails come down, each below 10 % before the next (R465, R466). -/
def State.railNext (s : State) : State :=
  let s := s.modHub (fun h => { h with power := { h.power with goal := s.trimGoal } })
  match s.hub.power.goal with
  | .up l => if s.hub.board.pwrgd then (match s.nextUp l with | some k => s.enableRail k | none => s) else s
  | .down (k :: _) _ _ => if (s.rail k).enabled then s.disableRail k else s
  | .board _ _ =>
    if s.vcoreAlive then s
    else match s.railsUp with
      | k :: _ => if (s.rail k).enabled then s.disableRail k else s
      | [] => s
  | _ => s

/-- Begin to bring rails up, one after another. -/
def State.raiseRails (s : State) (order : List RailIx) : State :=
  let todo := order.filter (fun k => !(s.rail k).good)
  (s.modHub (fun h => { h with power := { h.power with goal := if todo.isEmpty then .hold else .up todo } })).railNext

/-- Some commanded rail is up. -/
def State.anyRail (s : State) : Bool := s.hub.power.rails.toList.any (·.enabled)

/-- Some VCORE rail is up. -/
def State.vcoreUp (s : State) : Bool := s.dies.toList.any (fun d => d.pow.vcoreOn)

/-- The steps of the way to Off (R438, R446). -/
def State.offSteps (s : State) : List TransStep :=
  [.commit] ++ (if s.vcoreUp then [.quiesce] else []) ++ [.linksDown, .railsDown railOrder.reverse, .portsUnused, .pwrEnLow]

/-- The transition to Off takes the place of any other; `an_flg`[1] is cleared (R443). -/
def State.takeOff (s : State) : State :=
  s.modHub (fun h => { h with
    power := { h.power with request := 0, wantOff := false, trans := some { target := 0, steps := s.offSteps, begun := false } }
    bring := { h.bring with attested := false, offSeen := true } })

/-- The module is on its way to Off. -/
def State.goingOff (s : State) : Bool := match s.hub.power.trans with | some t => t.target = 0 | none => false

/-- The module goes to Off for a fault: plans and DRAM contents are lost with the rails (R26, R359). One on its way to Off goes
on. -/
def State.goOff (s : State) : State := if s.goingOff then s else s.takeOff

/-! ### Bring-up steps (R442) -/

/-- A step of bring-up begins; each change is recorded. A request for Off that waits is taken as the step before it ends
(R448). The 10 s of step 8 are counted anew (R443). -/
def State.setStep (s : State) (k : BitVec 8) : State :=
  let s := s.modHub (fun h => Hub.event { h with
    bring := { h.bring with step := k, stepAt := h.time.wall, late8 := h.bring.late8 && k ≠ 8 } } 2 0x0E 0 442 0xFF [])
  if s.hub.power.wantOff then s.takeOff else s

/-- The rails that step 4 brings up. -/
def State.step4Rails (s : State) : List RailIx :=
  railOrder.filter (fun k => !s.hub.power.skipRails.contains k && match railDie k with
    | some n => !s.dies[n].pow.fenced | none => true)

/-- Step 4: PWR_EN is driven high, and the rails follow PWRGD. Where rails still come down, it waits for that. -/
def State.startRails (s : State) : State :=
  match s.hub.power.goal with
  | .board t _ => s.modHub (fun h => { h with power := { h.power with goal := .board t true } })
  | .down l e _ => s.modHub (fun h => { h with power := { h.power with goal := .down l e true } })
  | _ =>
    let s := s.setStep 4
    if s.goingOff then s
    else
      let s := s.modHub (fun h => { h with board := { h.board with pwrEn := true }, bring := { h.bring with standbyOnly := false } })
      s.raiseRails s.step4Rails

/-- VCORE rails of dies that a release has left without: their dies are not fenced, and the module has its rails up (R368). -/
def State.leftRails (s : State) : List RailIx :=
  if s.hub.power.trans.isNone && !s.hub.bring.standbyOnly && s.hub.bring.removal.toNat ≤ 2
      && (decide (3 ≤ s.hub.power.state.toNat) || (decide (5 ≤ s.hub.bring.step.toNat) && decide (s.hub.bring.step.toNat ≤ 9)
        && s.hub.board.pwrEn)) then
    ((List.finRange 8).filter (fun n => !s.dies[n].pow.fenced && !(s.rail (vcoreRail n)).alive
      && !s.hub.power.skipRails.contains (vcoreRail n))).map vcoreRail
  else []

/-- They are brought up once no other sequence runs. -/
def State.raiseLeft (s : State) : State :=
  if s.hub.power.goal = .hold && !s.leftRails.isEmpty then s.raiseRails s.leftRails else s

/-- The sequence of rails has ended: step 4 gives way to step 5, PWR_EN falls, or step 4 runs once more. -/
def State.railsEnd (s : State) : State :=
  let hold (s : State) : State := s.modHub (fun h => { h with power := { h.power with goal := .hold } })
  match s.hub.power.goal with
  | .up [] => let s := hold s; if s.hub.bring.step = 4 then s.setStep 5 else s
  | .down [] lowerEn again =>
    let s := hold s
    let s := if lowerEn then s.modHub (fun h => { h with board := { h.board with pwrEn := false } }) else s
    if again then s.startRails else s
  | .board _ again => if s.railsUp.isEmpty then (let s := hold s; if again then s.startRails else s) else s
  | _ => s

/-- A rail has become good or has fallen, or the time of the next one has come: the sequence goes on. -/
def State.railDone (s : State) : State := s.railNext.railsEnd

/-- Begin to take rails down, one after another; where the board takes them down already, that goes on. -/
def State.lowerRails (s : State) (order : List RailIx) (lowerEn again : Bool) : State :=
  match s.hub.power.goal with
  | .board _ _ => s.railDone
  | _ => (s.modHub (fun h => { h with power := { h.power with goal := .down order lowerEn again } })).railDone

/-- A rail leaves the sequence that brings rails up. -/
def RailGoal.without (g : RailGoal) (k : RailIx) : RailGoal :=
  match g with
  | .up l => .up (l.filter (· ≠ k))
  | g => g

/-- A die comes up while the module is in Idle or goes there: its clocks are gated from the first cycle (R360, R446). -/
def State.comesGated (s : State) : Bool :=
  match s.hub.power.trans with | some t => t.target = 3 | none => s.hub.power.state = 3

/-- What VCORE brings back: the die's clocked parts, its lane unless that has failed, its default route image (R336), and a
counter that is yet to be aligned (R449). -/
def State.vcoreRises (s : State) (n : DieIx) (mv : Nat) : State :=
  let gate := s.comesGated
  (s.defaultRoute n).modDie n (fun d =>
    let d := Die.freshWindow { d with pow := { d.pow with vcoreOn := true, vcoreMv := mv, lane := d.reached },
                                      clock := { d.clock with aligned := false } }
    if gate then d.setGate true else d)

/-- A reading lies within ±3 % of a target. -/
def nearTarget (mv target : Nat) : Bool := decide (97 * target ≤ 100 * mv) && decide (100 * mv ≤ 103 * target)

/-- RAIL_GOOD: Marigold has read the rail within ±3 % of its target for 1 ms, which no rail can show sooner after its enable
(R358). -/
def State.railGood (s : State) (k : RailIx) : State :=
  let r := s.rail k
  if r.enabled && !r.good && decide (r.enabledAt + msCounts 1 ≤ s.now) then
    let s := s.modRail k (fun r => { r with good := true, high := true, mv := if nearTarget r.mv r.target then r.mv else r.target })
    (match railDie k with | some n => s.vcoreRises n (railTarget k) | none => s).railDone
  else s

def execRailGood (k : RailIx) (s : State) : Out := act s (s.railGood k)

/-- A rail has fallen below 10 %. -/
def Rail.down (r : Rail) : Rail := { r with falling := false, high := false, mv := 0, ma := 0 }

/-- RAIL_DISCHARGED: a disabled rail reads below 10 % of its target, in time or after the 50 ms of R465. The board's sequence goes
on while RST_N is low. -/
def State.railDischarged (s : State) (k : RailIx) : State :=
  let r := s.rail k
  if r.falling || (r.high && !r.enabled) then (s.modRail k Rail.down).railDone else s

def execRailDischarged (k : RailIx) (s : State) : Out := .next (s.railDischarged k)

/-- RAIL_DISCHARGE_TIMEOUT: 50 ms after its disable a rail is not below 10 %; it is recorded, and the sequence goes on
(R465). -/
def State.dischargeTimeout (s : State) (k : RailIx) : State :=
  if (s.rail k).falling && decide ((s.rail k).offAt + msCounts 50 ≤ s.now) then
    let s := s.modHub (fun h => h.event 4 0x12 (railUnit k) 465 0xFF [])
    (s.modRail k (fun r => { r with falling := false })).railDone
  else s

def execRailDischargeTimeout (k : RailIx) (s : State) : Out := act s (s.dischargeTimeout k)

/-- The board has taken the rails down within 60 ms of the fall of PWR_EN (R466). -/
def State.boardEnd (s : State) : State :=
  match s.hub.power.goal with
  | .board t _ =>
    if t + msCounts 60 ≤ s.now then
      let s := railOrder.reverse.foldl (fun s k => (if (s.rail k).enabled then s.disableRail k else s).modRail k Rail.down) s
      s.railDone
    else s
  | _ => s

/-- What Marigold does about a sequence of rails as time passes. -/
def State.railPace (s : State) : State := match s.hub.power.goal with | .up _ => s.railDone | _ => s.raiseLeft

/-! ### Fencing and Off (R359, R360, R368) -/

/-- Fence a die: it stops at once and its plan ends, its links go Down, VCORE is disabled, and the fence is recorded. -/
def State.fence (s : State) (n : DieIx) (r : DieResult) : State :=
  if s.dies[n].pow.fenced then s
  else
    let s := s.modDie n (Die.endPlan s.now)
    let s := (dieEnds n).foldl (fun s e => s.endDown e 6) s
    let s := s.disableRail (vcoreRail n)
    let s := s.modDie n (fun d => { d with cores := d.cores.map (fun k => { k with vault := k.vault.off false }),
                                           pow := { d.pow with fenced := true, result := r, trained := false, selfRef := false } })
    let s := s.modHub (fun h => Hub.mrgFault
      { h with power := { h.power with goal := h.power.goal.without (vcoreRail n) } } dieFenced (unitIx n.val 0 0))
    s.railDone

/-- The board's sequence, which goes on where it runs. -/
def RailGoal.byBoard (g : RailGoal) (now : Nat) : RailGoal :=
  match g with
  | .board t _ => .board t false
  | _ => .board now false

/-- The regulators lose their supply, or PWR_EN falls under rails that are up: the board takes every rail down, VCORE at once
(R466). -/
def State.supplyLost (s : State) : State :=
  let s := s.modHub (fun h => { h with
    power := { h.power with goal := h.power.goal.byBoard h.time.wall }, bring := { h.bring with attested := false } })
  let s := ((List.finRange 8).map vcoreRail).foldl (fun s k => if (s.rail k).enabled then s.disableRail k else s) s
  s.railDone

/-- Detail of the records of a regulator fault (R433): the status, and the polls missed. -/
def State.railDet (s : State) (k : RailIx) (status : BitVec 16) : Bytes := leBytes 2 status.toNat ++ leBytes 1 (min 255 (max (s.rail k).missed (s.rail k).missedA))

/-- The record of a regulator fault (R359). -/
def State.railFlag (s : State) (k : RailIx) (status : BitVec 16) : State :=
  let det := s.railDet k status
  s.modHub (fun h => (h.setMrg railFlt).eventOnce 4 0x12 (railUnit k) 359 (BitVec.ofNat 8 railFlt.bit) det)

/-- Power-up fails for good: all rails come down and the module stays with standby only, until a write of 4 or 3. A request for
Off that waits is met by that (R444, R448). -/
def State.standbyOnly (s : State) (unitk : BitVec 8) (unit : BitVec 16) (det : Bytes) : State :=
  let s := s.modHub (fun h => Hub.event { h with
    bring := { h.bring with standbyOnly := true, offSeen := true }
    power := { h.power with trans := none, wantOff := false } } 6 unitk unit 444 0xFF det)
  s.lowerRails s.railsUp true false

/-- A rail fails in step 4: every rail comes down; after the first failure of a VCORE rail its die is fenced and the step runs
once more without it (R358, R444). -/
def State.step4Fails (s : State) (k : RailIx) (det : Bytes) : State :=
  match railDie k with
  | some n =>
    let s := (s.modHub (fun h => { h with power := { h.power with goal := .hold } })).fence n .vcoreFailed
    if s.hub.power.railTries = 0 then
      let s := s.modHub (fun h => { h with power := { h.power with railTries := 1, skipRails := k :: h.power.skipRails } })
      s.lowerRails s.railsUp false true
    else s.standbyOnly 0x12 (railUnit k) det
  | none => s.standbyOnly 0x12 (railUnit k) det

/-- A regulator fault: in step 4 that step fails; else a fault of VCORE fences the die, and one of any other rail is recorded at
fatal, once for each time that the rail is enabled, and takes the module to Off (R359, R444). -/
def State.railFault (s : State) (k : RailIx) (status : BitVec 16) : State :=
  let det := s.railDet k status
  let known := (s.rail k).failed
  let s := (s.railFlag k status).modRail k (fun r => { r with failed := true })
  if s.hub.bring.step = 4 && s.hub.power.trans.isNone then
    if s.hub.bring.standbyOnly then s else s.step4Fails k det
  else
    match railDie k with
    | some n => s.fence n .vcoreFailed
    | none => (if known then s else s.modHub (fun h => h.event 6 0x12 (railUnit k) 359 0xFF det)).goOff

/-- RAIL_TIMEOUT: a rail is not good within 20 ms of its enable (R358). -/
def State.railTimeout (s : State) (k : RailIx) : State :=
  if (s.rail k).enabled && !(s.rail k).good && decide ((s.rail k).enabledAt + msCounts 20 ≤ s.now) then
    (s.railFault k (s.rail k).status).railDone
  else s

def execRailTimeout (k : RailIx) (s : State) : Out := act s (s.railTimeout k)

/-! ### PWRGD, REFCLK (R441, R444, R470) -/

/-- No rail comes down in a sequence, and no transition runs. -/
def State.railsRise (s : State) : Bool :=
  s.hub.power.trans.isNone && match s.hub.power.goal with | .hold | .up _ => true | _ => false

/-- PWRGD_TIMEOUT: PWRGD is not high 100 ms after PWR_EN. -/
def State.pwrgdTimeout (s : State) : State :=
  let b := s.hub.board
  if b.pwrEn && !b.pwrgd && s.hub.bring.step = 4 && !s.hub.bring.standbyOnly && s.railsRise
      && decide (s.hub.bring.stepAt + msCounts 100 ≤ s.now) then
    s.modHub (fun h => Hub.event { h with
      board := { h.board with pwrEn := false }, bring := { h.bring with standbyOnly := true, offSeen := true },
      power := { h.power with goal := .hold, trans := none, wantOff := false } } 6 0x0E 0 444 0xFF [])
  else s

def execPwrgdTimeout (s : State) : Out := act s s.pwrgdTimeout

/-- PWRGD_RISE: the rails may be enabled in the order of R358. -/
def State.pwrgdRise (s : State) : State :=
  (s.modHub (fun h => { h with board := { h.board with pwrgd := true } })).railNext

def execPwrgdRise (s : State) : Out := .next s.pwrgdRise

/-- PWRGD_FALL: with a commanded rail up it counts as a regulator fault of a rail other than VCORE; the board takes the rails
down (R441, R466). A hub die in reset only sees the level. -/
def State.pwrgdFall (s : State) : State :=
  let up := s.anyRail && !s.hub.board.rstLow
  let s := s.modHub (fun h => { h with board := { h.board with pwrgd := false } })
  if up then
    let det := s.railDet vdram 0
    let s := s.railFlag vdram 0
    (s.modHub (fun h => h.event 6 0x0E 0 359 0xFF det)).goOff.supplyLost
  else s

def execPwrgdFall (s : State) : Out := .next s.pwrgdFall

/-- PWR_EN falls, and where rails are up the board takes them down (R466). -/
def State.cutSupply (s : State) : State := (s.modHub (fun h => { h with board := { h.board with pwrEn := false } })).supplyLost

/-- The way to Off when REFCLK is lost: the record reaches the mirror, then PWR_EN falls (R438, R466, R470). -/
def clockSteps : List TransStep := [.commit, .supplyOff, .linksDown, .railsDown railOrder.reverse, .portsUnused, .pwrEnLow]

/-- What the hub die does without REFCLK: the loss is recorded, ports go Down, and the module goes to Off; PWR_EN falls, so that the
board takes the rails down and every plan is lost. Where the firmware does not run, nothing waits for the record. -/
def State.clockLost (s : State) : State :=
  let s := s.modHub (fun h => h.event 6 0x0E 0 470 0xFF [])
  let s := (allPorts.foldl (fun s p => s.endDown (.port p) 1) s).takeOff
  if s.hub.fw.running then
    s.modHub (fun h => { h with power := { h.power with trans := some { target := 0, steps := clockSteps, begun := false } } })
  else s.cutSupply

/-- REFCLK_LOSS: Marigold runs on. A hub die in reset only sees the loss (R468). -/
def State.refclkLoss (s : State) : State :=
  if s.hub.board.refclk then
    let s := s.modHub (fun h => { h with board := { h.board with refclk := false } })
    if s.hub.board.rstLow then s else s.clockLost
  else s

def execRefclkLoss (s : State) : Out := .next s.refclkLoss

/-- REFCLK_RETURN: the module stays in Off. -/
def execRefclkReturn (s : State) : Out := .next (s.modHub (fun h => { h with board := { h.board with refclk := true } }))

/-! ### Telemetry (R357, R359) -/

/-- Fault bits of a STATUS_WORD: output over-voltage, output over-current, input under-voltage, temperature, and
communication, memory or logic (log entry 29). -/
def statusFaults : BitVec 16 := 0x003E

/-- A rail as an answer of its regulator shows it. -/
def Rail.reads (y : Rail) (x : RailReading) : Rail :=
  { y with mv := x.mv, ma := x.ma, temp8 := x.temp8, status := x.status, ocWarn := x.ocWarn,
           read := true, high := decide (y.target < 10 * x.mv) }

/-- An answer of a regulator on the AVSBus or the PMBus, or a poll there that it failed to answer; the third in a row on one bus
is a fault. -/
def State.railAnswer (s : State) (k : RailIx) (avs : Bool) (r : Option RailReading) (faulty : RailReading → Bool) : State :=
  let count (f : Nat → Nat) (y : Rail) : Rail := if avs then { y with missedA := f y.missedA } else { y with missed := f y.missed }
  match r with
  | some x =>
    let s := s.modRail k (fun y => count (fun _ => 0) (y.reads x))
    if faulty x && (s.rail k).enabled then s.railFault k x.status else s
  | none =>
    let s := s.modRail k (count (· + 1))
    let missed := if avs then (s.rail k).missedA else (s.rail k).missed
    if 3 ≤ missed && (s.rail k).enabled then s.railFault k (s.rail k).status else s

/-- AVSBUS_READ: voltage and current of a VCORE rail; the last ten powers are kept for the cap (R365). -/
def State.avsbusRead (s : State) (n : DieIx) (r : Option RailReading) : State :=
  let s := match r with
    | some x => s.modHub (fun h => { h with power := { h.power with
        avs := vupd h.power.avs n (fun l => (x.mv * x.ma :: l).take 10) } })
    | none => s
  s.railAnswer (vcoreRail n) true r (fun x => x.status ≠ 0)

def execAvsbusRead (n : DieIx) (r : Option RailReading) (s : State) : Out := act s (s.avsbusRead n r)

/-- PMBUS_POLL. -/
def State.pmbusPoll (s : State) (k : RailIx) (r : Option RailReading) : State :=
  s.railAnswer k false r (fun x => x.status &&& statusFaults ≠ 0)

def execPmbusPoll (k : RailIx) (r : Option RailReading) (s : State) : Out := act s (s.pmbusPoll k r)

/-! ### Sensors (R362 to R364) -/

/-- Ends of a sensor's range: temperatures in eighths of a degree, voltages in millivolts. -/
def sensorRange : SensorId → Int × Int
  | .standby _ => (0, 4000)
  | _ => (-320, 1200)

/-- Unit of a sensor's record: its die and its number there. -/
def sensorUnit : SensorId → BitVec 16
  | .logic d k => unitIx d.val 0 k.val
  | .dram d l k => unitIx d.val 1 (4 * l.val + k.val)
  | .hub k => unitIx 0 2 k.val
  | .standby k => unitIx 0 3 k.val

/-- Keep a sensor's value. -/
def State.keepSensor (s : State) (x : SensorId) (v : Int) : State :=
  match x with
  | .logic n k => s.modDie n (fun d => { d with logic := vupd d.logic k (fun _ => v) })
  | .dram n l k => s.modDie n (fun d => { d with temps := vupd d.temps (Fin.ofNat 16 (4 * l.val + k.val)) (fun _ => v) })
  | .hub k => s.modHub (fun h => { h with sens := { h.sens with hub := vupd h.sens.hub k (fun _ => v) } })
  | .standby k => s.modHub (fun h => { h with sens := { h.sens with standby := vupd h.sens.standby k (fun _ => v) } })

/-- SENSOR_READ: a value outside its range is kept at the nearest end and flagged, recorded once per sensor. -/
def State.sensorRead (s : State) (x : SensorId) (value : Int) : State :=
  let (lo, hi) := sensorRange x
  let s := s.keepSensor x (max lo (min hi value))
  if value < lo || hi < value then
    s.modHub (fun h =>
      let h := h.setMrg sensBad
      if h.sens.badSeen.contains x then h
      else Hub.event { h with sens := { h.sens with badSeen := x :: h.sens.badSeen } } 3 0x13 (sensorUnit x) 362
        (BitVec.ofNat 8 sensBad.bit) (faultDet h.fault 0))
  else s

def execSensorRead (x : SensorId) (value : Int) (s : State) : Out := act s (s.sensorRead x value)

/-- DRAM_RATE_COMPARE: the four sensors of a layer are read, and compared (R244, R362). The controllers stand while VCORE is
off (R449). -/
def State.rateCompare (s : State) (n : DieIx) (l : Fin 4) (t0 t1 t2 t3 : Int) : State :=
  let s := (((s.sensorRead (.dram n l 0) t0).sensorRead (.dram n l 1) t1).sensorRead (.dram n l 2) t2).sensorRead (.dram n l 3) t3
  s.modDie n (fun d => if d.pow.vcoreOn then Die.rateCompare l d else d)

def execDramRateCompare (d : DieIx) (layer : Fin 4) (t0 t1 t2 t3 : Int) (s : State) : Out :=
  act s (s.rateCompare d layer t0 t1 t2 t3)

/-- A sensor stands at the trip threshold: 115 °C in the logic, 105 °C in DRAM. -/
def State.tripPoint (s : State) : Bool :=
  s.dies.toList.any (fun d => d.logic.toList.any (fun t => decide (920 ≤ t)) || d.temps.toList.any (fun t => decide (840 ≤ t)))

/-- THERMTRIP: the sensor hub drives THERMTRIP_N low, and it stays low until RST_N. -/
def State.thermtrip (s : State) : State :=
  if s.tripPoint && !s.hub.sens.thermtripLow then
    s.modHub (fun h =>
      let h := Hub.setMrg { h with sens := { h.sens with thermtripLow := true } } ttrip
      if h.fw.running then h.event 6 0x0E 0 364 (BitVec.ofNat 8 ttrip.bit) (faultDet h.fault 0) else h)
  else s

def execThermtrip (s : State) : Out := act s s.thermtrip

/-- The F32 that the board's node has answered; one that is no number is not valid (R363). -/
def State.inletValue (s : State) (v : U32) : State :=
  let x := fp32 v
  if x.isNan then s
  else
    s.modHub (fun h =>
      let h := { h with sens := { h.sens with inlet := v, inletAt := h.time.wall, inletStale := false } }
      if (Num.ofInt 40).lt x then
        if bit h.fault inletHot.bit then h else h.mrgFault inletHot
      else if (Num.ofInt 38).lt x then h
      else { h with fault := clrBit h.fault inletHot.bit })

/-- INLET_STALE: no valid answer for 5 s. -/
def State.inletStale (s : State) : State :=
  if !s.hub.sens.inletStale && decide (s.hub.sens.inletAt + secCounts 5 ≤ s.now) then
    s.modHub (fun h => Hub.mrgFault { h with sens := { h.sens with inletStale := true } } inletStaleBit)
  else s

def execInletStale (s : State) : Out := act s s.inletStale

/-! ### Power cap (R365, R366) -/

/-- Power of one rail from its last PMBus poll, in µW. -/
def Rail.power (r : Rail) : Nat := if r.enabled then r.mv * r.ma else 0

/-- Mean of the last readings of a VCORE rail, in µW. -/
def avsMean (l : List Nat) : Nat := if l.isEmpty then 0 else l.foldl (· + ·) 0 / l.length

/-- Module power P in µW (R365). -/
def Power.compute (p : Power) : Nat :=
  (p.avs.toList.map avsMean).foldl (· + ·) 0 + ((p.rails.toList.drop 8).map Rail.power).foldl (· + ·) 0

/-- Throttle duty of a die that runs a plan (R365 to R367). -/
def Power.dutyOf (p : Power) (theta : Nat) (n : DieIx) : Nat :=
  let u := if p.prot || bit p.protVcore n.val then min p.duty 500 else min p.duty theta
  max u p.protDuty[n]

/-- Marigold sends each die its duty over the management lane; it is applied at the die's next window boundary. A die whose lane
has failed keeps the last. -/
def State.sendDuties (s : State) : State :=
  { s with dies := s.dies.map (fun d =>
      let duty := if d.plan.isSome then s.hub.power.dutyOf d.clock.thrMax.toNat d.ix else 0
      if d.reached then { d with clock := { d.clock with thrNext := BitVec.ofNat 10 duty } } else d) }

/-- Every die that runs a plan has its cap duty at its θ. -/
def State.allAtTheta (s : State) : Bool :=
  s.dies.toList.any (fun d => d.plan.isSome)
  && s.dies.toList.all (fun d => d.plan.isNone || decide (d.clock.thrMax.toNat ≤ s.hub.power.duty))

/-- Dies whose VCORE rail's over-current warning has tripped. -/
def Power.warned (p : Power) : BitVec 8 :=
  BitVec.ofNat 8 (((p.rails.toList.take 8).mapIdx (fun i (r : Rail) => if r.ocWarn then 2 ^ i else 0)).foldl (· + ·) 0)

/-- A protective condition of a rule begins at a unit: the bit is set and it is recorded, once per unit and frame (R426). -/
def Hub.protAt (h : Hub) (rule : Nat) (unit : BitVec 16) : Hub :=
  let h := h.setMrg protThr
  h.eventOnce 4 0x0E unit rule (BitVec.ofNat 8 protThr.bit) (faultDet h.fault 0)

/-- The same at each die of a mask. -/
def Hub.protBegins (h : Hub) (rule : Nat) (mask : BitVec 8) : Hub :=
  (onesOf mask).foldl (fun h i => h.protAt rule (unitIx i 0 0)) h

/-- POWER_CAP_COMPUTE. -/
def State.capCompute (s : State) : State :=
  let p := s.hub.power
  let uw := p.compute
  let cap := p.capForce.toNat * 1000000
  let at_ := s.allAtTheta
  let u := if cap < uw then min 500 (p.duty + 10) else if uw * 100 < cap * 97 then p.duty - 10 else p.duty
  let short := if cap < uw && at_ then p.shortRun + 1 else 0
  let spent := if cap * 105 < uw * 100 && at_ then p.overRun + 1 else 0
  let calm := if uw ≤ cap then p.calmRun + 1 else 0
  let prot := if p.prot then decide (calm < 100) else decide (100 ≤ spent)
  let warned := p.warned
  let s := s.modHub (fun h =>
    let h := { h with power := { h.power with
      powerUw := uw, duty := u, shortRun := short, overRun := spent, calmRun := calm, prot := prot, protVcore := warned } }
    let h := if 10 ≤ short then h.mrgFault capShort else h
    let h := if prot && !p.prot then h.protAt 366 0 else h
    h.protBegins 366 (warned &&& ~~~p.protVcore))
  s.sendDuties

def execPowerCapCompute (s : State) : Out := act s s.capCompute

/-! ### Thermal protection (R367) -/

def Die.logicMax (d : Die) : Int := d.logic.toList.foldl max (-320)
def Die.dramMax (d : Die) : Int := d.temps.toList.foldl max (-320)

/-- Time since which a condition holds. -/
def sinceWhen (now : Nat) (holds : Bool) (old : Option Nat) : Option Nat :=
  if holds then some (old.getD now) else none

def elapsed (now span : Nat) (t : Option Nat) : Bool := match t with | some t => decide (t + span ≤ now) | none => false

/-- The conditions of one die and its protective duty. A die without VCORE has no logic and no controllers that could be under a
condition; its DRAM sensors count while VDRAM is up (R360, R367, R449). -/
def State.thermalDie (s : State) (n : DieIx) : State :=
  let d := s.dies[n]
  let on := d.pow.vcoreOn
  if d.pow.fenced || !(on || (s.rail vdram).enabled) then s
  else
    let p := s.hub.power
    let now := s.now
    let hotL := on && if bit p.hotLogic n.val then decide (776 < d.logicMax) else decide (800 ≤ d.logicMax)
    let hotD := on && if bit p.hotDram n.val then decide (744 < d.dramMax) else decide (760 < d.dramMax)
    let duty := if hotL || hotD then min 500 (p.protDuty[n] + 20) else p.protDuty[n] - 10
    let hot := sinceWhen now (on && decide (840 ≤ d.logicMax)) p.hotSince[n]
    let dram := sinceWhen now (decide (784 < d.dramMax)) p.dramSince[n]
    let full := sinceWhen now (decide (500 ≤ duty) && (hotL || hotD)) p.maxSince[n]
    let put (m : BitVec 8) (b : Bool) : BitVec 8 := if b then setBit m n.val else clrBit m n.val
    let s := s.modHub (fun h =>
      let h := { h with power := { h.power with
        protDuty := vupd h.power.protDuty n (fun _ => duty), hotSince := vupd h.power.hotSince n (fun _ => hot),
        dramSince := vupd h.power.dramSince n (fun _ => dram), maxSince := vupd h.power.maxSince n (fun _ => full),
        hotLogic := put h.power.hotLogic hotL, hotDram := put h.power.hotDram hotD } }
      let h := if hotL && !bit p.hotLogic n.val then h.protBegins 367 (setBit 0 n.val) else h
      if hotD && !bit p.hotDram n.val then h.protBegins 367 (setBit 0 n.val) else h)
    if elapsed now (msCounts 10) hot || elapsed now (msCounts 10) dram || elapsed now (secCounts 1) full then
      (s.modHub (fun h => h.event 5 0x0E (unitIx n.val 0 0) 367 0xFF [])).fence n .fencedCmd
    else s

/-- THERMAL_PROTECT: every die, then the hub die, which at 110 °C takes the module to Off; that is recorded as the condition begins,
and where it takes a module to Off that has come up under it. -/
def State.thermalProtect (s : State) : State :=
  let s := (List.finRange 8).foldl (fun s n => s.thermalDie n) s
  let s := s.sendDuties
  let hot := s.hub.sens.hub.toList.any (fun t => decide (880 ≤ t))
  let off := s.goingOff || (s.hub.power.trans.isNone && s.hub.power.state = 0 && !s.anyRail)
  let new := hot && (!off || !s.hub.power.hubHot)
  let s := s.modHub (fun h => { h with power := { h.power with hubHot := hot } })
  let s := if new then s.modHub (fun h => h.event 6 0x0E 0 367 0xFF []) else s
  if hot && !off then s.goOff else s

def execThermalProtect (s : State) : Out := act s s.thermalProtect

end Sys2Proof.Machine
end

