-- ==== Sys2Proof/Machine/Bringup.lean ====
section
/-! DEFINITION. Bring-up, sleep and removal (chapter 19): RST_N and standby power, the hub ROM and the start of the
firmware, the steps of R442, restarts of Marigold, power states and their transitions, removal and admission. -/

namespace Sys2Proof.Machine

/-! ### RST_N and standby power (R434, R441, R453, R466, R468) -/

/-- A rail after RST_N: Marigold commands none, and their bus addresses are stored. The board disables VCORE at once, and the
others when VCORE has fallen (R466). -/
def Rail.afterReset (vcore : Bool) (r : Rail) : Rail :=
  { addr := r.addr, target := r.target, high := r.high, enabled := r.enabled && !vcore, falling := r.falling || (r.enabled && vcore) }

/-- The hub die when RST_N has taken effect: only the MRAM remains (R441), with the sequence number and the operating time
that run on while standby is up (R434), the test access port (R475), and what the board drives. -/
def Hub.afterReset (h : Hub) : Hub where
  time := { HubTime.init with period := h.time.period, root := h.time.root }
  power := { Power.init with
    cap := h.power.cap, rails := h.power.rails.mapFinIdx (fun i r _ => r.afterReset (decide (i < 8)))
    goal := if h.power.rails.toList.any (fun r => r.alive || r.high) then .board 0 false else .hold }
  sens := .init
  board := { h.board with rstLow := true, pwrEn := false }
  bring := { BringUp.init with gate := h.bring.gate }
  fw := { Firmware.init with slotA := h.fw.slotA, slotB := h.fw.slotB, pref := h.fw.pref, trial := h.fw.trial, tries := h.fw.tries,
                             floor := h.fw.floor, bootTag := h.fw.bootTag, floorTag := h.fw.floorTag }
  dict := { Dict.init with plcaNode := h.dict.plcaNode, plcaCount := h.dict.plcaCount, base := h.dict.base, size := h.dict.size,
                           hostPort := h.dict.hostPort, bridge := h.dict.bridge, coolant := h.dict.coolant }
  sec := { Sec.init with tenants := h.sec.tenants, enrCtr := h.sec.enrCtr, opKeys := h.sec.opKeys, unlocks := h.sec.unlocks,
                         slotTag := h.sec.slotTag, ctrTag := h.sec.ctrTag, unlockTag := h.sec.unlockTag }
  rec_ := { Recorder.init with mirror := h.rec_.mirror, seq := h.rec_.seq, minSev := h.rec_.minSev, optime := h.rec_.optime,
                               stored := h.rec_.stored, optFrac := h.rec_.optFrac, pwr := h.rec_.pwr }
  tap := h.tap
  fault := 0
  setNow := 0
  repair := h.repair

/-- The module when RST_N has taken effect. The counters of free values run on, and the board takes the rails down (R466). -/
def State.afterReset (s : State) : State :=
  State.railDone { s with
    dies := Vector.ofFn (fun n => { Die.init n with draws := s.dies[n].draws })
    ports := .replicate 24 .init
    hub := s.hub.afterReset }

/-- RST_N_ASSERT: 5 µs or more reset the module, less than 2 µs do nothing; between the two the outcome is free. -/
def State.rstAssert (s : State) (lowNs : Nat) : State :=
  if s.hub.board.rstLow || !s.hub.board.standby || lowNs < 2000 then s
  else if 5000 ≤ lowNs then s.afterReset
  else if bit (Config.freeValue s.hubKey) 0 then s.drew.afterReset
  else s.drew

def execRstNAssert (lowNs : Nat) (s : State) : Out := .next (s.rstAssert lowNs)

/-- RST_N_RELEASE: the hub ROM may start; times are counted from here. A REFCLK lost while RST_N was low is recorded now, and the
module stays in Off until a write of 4 or 3 (R470). -/
def State.rstRelease (s : State) : State :=
  if s.hub.board.rstLow && s.hub.board.standby then
    s.modHub (fun h =>
      let h := { h with
        board := { h.board with rstLow := false }, bring := { h.bring with started := h.time.wall }, time := { h.time with frac := 0 } }
      if h.board.refclk then h
      else Hub.event { h with bring := { h.bring with offSeen := true } } 6 0x0E 0 470 0xFF [])
  else s

def execRstNRelease (s : State) : Out := .next s.rstRelease

/-- A mirror record whose write was cut: its two sequence numbers differ (R437, R453). Its last bytes hold what the slot held
before, where the engine is writing it. -/
def Record.tear (r : Record) (old : Option (BitVec 48)) : Record := { r with seqB := old.getD (r.seq + 1) }

/-- The mirror with the write of a slot cut. -/
def Recorder.tear (r : Recorder) (i : Nat) : List (Nat × Record) :=
  let old := match r.cutMirror with | some (k, b) => if k = i then some b else none | none => none
  r.mirror.map (fun x => if x.1 = i then (x.1, x.2.tear old) else x)

/-- STANDBY_POWER_LOSS: only the MRAM remains; a mirror write in progress is torn. -/
def State.standbyLoss (s : State) (torn : Option (Fin 1024)) : State :=
  if s.hub.board.standby then
    let mirror := match torn with | some i => s.hub.rec_.tear i.val | none => s.hub.rec_.mirror
    s.afterReset.modHub (fun h => { h with
      board := { h.board with standby := false }
      tap := .init
      rec_ := { h.rec_ with seq := 0, optime := 0, optFrac := 0, mirror := mirror } })
  else s

def execStandbyPowerLoss (tornMirror : Option (Fin 1024)) (s : State) : Out := .next (s.standbyLoss tornMirror)

/-- STANDBY_POWER_APPLY: the power-cycle count rises, the operating time resumes from its stored value, the recorder is
empty and the test access port is reset; the board holds RST_N low. -/
def State.standbyApply (s : State) : State :=
  if s.hub.board.standby then s
  else
    s.modHub (fun h => { h with
      board := { h.board with standby := true, rstLow := true }
      tap := .init
      rec_ := { h.rec_ with pwr := h.rec_.pwr + 1, optime := h.rec_.stored, optFrac := 0, seq := 0, slots := [], newest := 0 } })

def execStandbyPowerApply (s : State) : Out := .next s.standbyApply

/-! ### The hub ROM (R369 to R372, R400, R401) -/

/-- Product code, and the longest body of an image. -/
def productCode : Nat := 0xB8A0
def slotBody : Nat := 4190208

/-- Fields of an image's header block. -/
def fwSvn (m : Mem) : Nat := leNat (Cells.getN m 12 4)
def fwVer (m : Mem) : Nat := leNat (Cells.getN m 16 4)
def fwLen (m : Mem) : Nat := leNat (Cells.getN m 20 4)
def fwMeas (m : Mem) : Bytes := Cells.getN m 24 32

/-- The conditions of R370. -/
def slotOk (m : Mem) (floor : U32) : Bool :=
  leNat (Cells.getN m 0 4) = 0x46474D59 && leNat (Cells.getN m 4 4) = productCode && leNat (Cells.getN m 8 2) = 1
  && decide (fwLen m ≤ slotBody) && decide (floor.toNat ≤ fwSvn m)
  && Config.sha3 (Cells.getN m 4096 (fwLen m)) = fwMeas m
  && Config.dsaVerify Config.yilzonKey Config.firmwareContext (Cells.getN m 0 64) (Cells.getN m 64 2420)

def Firmware.slot (f : Firmware) (b : Bool) : Mem := if b then f.slotB else f.slotA

/-- The choice of a slot (R372): the boot record's count, the slot to boot if one is valid, and whether it is a fallback. -/
def Firmware.choose (f : Firmware) : Firmware × Option Bool × Bool :=
  let f := if f.trial then { f with tries := f.tries + 1 } else f
  let spent := f.trial && decide (2 < f.tries)
  let f := if spent then { f with pref := !f.pref, trial := false } else f
  if slotOk (f.slot f.pref) f.floor then (f, some f.pref, spent)
  else if slotOk (f.slot (!f.pref)) f.floor then (f, some (!f.pref), true)
  else (f, none, spent)

/-- K_mram (R400). -/
def Sec.mramKey (x : Sec) : Bytes := shakeN 32 (strBytes "YZB8 mram" ++ x.seed)

/-- The two records of the authenticated region as their tags cover them (R356, R401; their layout is the model's, log entry
66). -/
def Firmware.bootBytes (f : Firmware) : Bytes := leBytes 1 (b2n f.pref) ++ leBytes 1 (b2n f.trial) ++ leBytes 1 f.tries
def Firmware.floorBytes (f : Firmware) : Bytes := leBytes 4 f.floor.toNat

/-- The tags of the two records hold. -/
def Hub.bootOk (h : Hub) : Bool := h.fw.bootTag = Config.kmac h.sec.mramKey h.fw.bootBytes
def Hub.floorOk (h : Hub) : Bool := h.fw.floorTag = Config.kmac h.sec.mramKey h.fw.floorBytes

/-- The firmware's records as Marigold takes them: one whose tag fails counts as absent (R401). -/
def Hub.fwSeen (h : Hub) : Firmware :=
  let f := if h.bootOk then h.fw else { h.fw with pref := false, trial := false, tries := 0 }
  if h.floorOk then f else { f with floor := 0 }

/-- The records are written anew, with their tags. -/
def Hub.sealBoot (h : Hub) (f : Firmware) : Hub := { h with fw := { f with bootTag := Config.kmac h.sec.mramKey f.bootBytes } }
def Hub.sealFloor (h : Hub) (f : Firmware) : Hub := { h with fw := { f with floorTag := Config.kmac h.sec.mramKey f.floorBytes } }

/-- What the hub ROM leaves: it boots a slot, or stays in the ROM. -/
def Firmware.bootWith (f : Firmware) (slot : Option Bool) (fall : Bool) : Firmware :=
  match slot with
  | some b => { f with booted := if b then 1 else 0, meas := fwMeas (f.slot b), svn := BitVec.ofNat 32 (fwSvn (f.slot b)),
                       noteFall := fall, fallback := fall, upd := .idle }
  | none => { f with booted := 0xFF, meas := [], svn := 0, noteFall := fall, fallback := fall, upd := .idle }

/-- The identity records, whose tags fail or hold: the digest of manufacture, the helper data, the certificate (R400 to
R402). -/
def Sec.identityOk (x : Sec) : Fin 3 → Bool
  | 0 => Config.kmac x.mramKey (Config.sha3 Config.manufactureKey) = Config.identityTag 0
  | 1 => Config.kmac x.mramKey Config.helperData = Config.identityTag 1
  | 2 => Config.kmac x.mramKey ownCert = Config.identityTag 2

/-- A tenant slot as it is kept, and read in 0x6020.02. -/
def tenantSlot (t : Option Bytes) : Bytes := match t with | some d => leBytes 1 1 ++ slice d 0 32 | none => slice [] 0 33

/-- The records of the identity-records region that are written in service, as their tags cover them: the tenant slots, the
enrolment counter and the debug-unlock count (R401, R409, R420; their layout is the model's, log entry 66). -/
def Sec.recordBytes (x : Sec) : Fin 3 → Bytes
  | 0 => x.tenants.toList.flatMap tenantSlot
  | 1 => leBytes 8 x.enrCtr
  | 2 => leBytes 3 x.unlocks.toNat

/-- The tag of a record as it stands, and as the record calls for it. -/
def Sec.recordTag (x : Sec) : Fin 3 → Bytes
  | 0 => x.slotTag
  | 1 => x.ctrTag
  | 2 => x.unlockTag
def Sec.recordOk (x : Sec) (i : Fin 3) : Bool := x.recordTag i = Config.kmac x.mramKey (x.recordBytes i)

/-- The records as Marigold takes them: one whose tag fails counts as absent (R401). -/
def Sec.seen (x : Sec) : Sec :=
  { x with
    tenants := if x.recordOk 0 then x.tenants else .replicate 16 none
    enrCtr := if x.recordOk 1 then x.enrCtr else 0
    unlocks := if x.recordOk 2 then x.unlocks else 0 }

/-- The tenant slots and their counter, or the unlock count, are written anew, with their tags. -/
def Sec.sealSlots (x : Sec) : Sec :=
  { x with slotTag := Config.kmac x.mramKey (x.recordBytes 0), ctrTag := Config.kmac x.mramKey (x.recordBytes 1) }
def Sec.sealUnlocks (x : Sec) : Sec := { x with unlockTag := Config.kmac x.mramKey (x.recordBytes 2) }

/-- The identity that a start of Marigold rebuilds from the PUF, and its certificate. It matches where the digest of manufacture
and the helper data are there and the digest is that of the key (R400, R401). -/
def Sec.rebuilt (x : Sec) (key : Nat) : Sec :=
  let x := { x with seed := slice (Config.pufSeed key Config.helperData) 0 32 }
  let pub := Config.dsaPublic x.identitySeed
  { x with idKey := pub, cert := if x.identityOk 2 then ownCert else [],
           puffed := !(x.identityOk 0 && x.identityOk 1 && Config.sha3 pub = Config.sha3 Config.manufactureKey) }

/-- The start of Marigold: identity, the records' tags, then a slot; a record whose tag fails is recorded and stays as it
is. -/
def Hub.romBoot (h : Hub) (key : Nat) : Hub :=
  let h := { h with sec := h.sec.rebuilt key }
  let h := if h.sec.puffed then h.secFault pufFail else h
  let tags := h.sec.identityOk 0 && h.sec.identityOk 1 && h.sec.identityOk 2 && h.bootOk && h.floorOk
    && h.sec.recordOk 0 && h.sec.recordOk 1 && h.sec.recordOk 2
  let h := if tags then h else h.secFault mramTag
  let (f, slot, fall) := h.fwSeen.choose
  let kept := { f with pref := h.fw.pref, trial := h.fw.trial, tries := h.fw.tries, floor := h.fw.floor }
  let h := if h.fwSeen.trial then h.sealBoot { f with floor := h.fw.floor } else { h with fw := kept }
  { h with fw := h.fw.bootWith slot fall, bring := { h.bring with romOnly := slot.isNone } }

/-- Marigold has been started and its hub ROM has not run. -/
def Hub.romDue (h : Hub) : Bool :=
  h.board.standby && !h.board.rstLow && !h.fw.running && h.fw.booted = 0xFF && !h.bring.romOnly

/-- HUB_ROM_BOOT. -/
def State.romBoot (s : State) : State := if s.hub.romDue then (s.modHub (fun h => h.romBoot s.hubKey)).drew else s

def execHubRomBoot (s : State) : Out := .next s.romBoot

/-! ### The start of the firmware (R372, R404, R419, R439, R442) -/

/-- One entry's contribution to M_cfg. -/
def cfgPart (v : Bytes) : Bytes := leBytes 2 v.length ++ v

/-- M_cfg. -/
def Hub.cfgMeasure (h : Hub) : Bytes :=
  let d := h.dict
  Config.sha3 (cfgPart (leBytes 4 d.base.toNat) ++ cfgPart (leBytes 4 d.size.toNat) ++ cfgPart [d.hostPort]
    ++ cfgPart (leBytes 4 d.bridge.toNat) ++ cfgPart [d.plcaNode] ++ (h.sec.opKeys.toList.flatMap cfgPart))

def Hub.takeCfg (h : Hub) : Hub := { h with sec := { h.sec with mCfg := h.cfgMeasure } }

/-- Mirror slots torn by a loss of power are emptied. -/
def Recorder.checkMirror (r : Recorder) : Recorder := { r with mirror := r.mirror.filter (fun x => x.2.seq = x.2.seqB) }

/-- The firmware runs: mirror, debug challenge, measurement, node number, and the record of a fallback. -/
def Hub.firmwareUp (h : Hub) (key : Nat) : Hub :=
  let h := { h with
    fw := { h.fw with running := true, noteFall := false }
    rec_ := h.rec_.checkMirror
    sec := { h.sec with chal := slice (Config.freshBytes key 32) 0 32 }
    dict := { h.dict with plcaInForce := h.dict.plcaNode } }
  h.takeCfg

/-- FIRMWARE_START: at power-up step 3 begins and, where the identity matches, step 4 follows. After an Off or a power-up that
has failed, and without REFCLK, it waits for a write of 4 or 3 (R444, R470). The upstream neighbour is chosen, so that a module that
is the time root reports no hops (R304, R305). -/
def State.firmwareStart (s : State) : State :=
  if s.hub.fw.booted ≠ 0xFF && !s.hub.fw.running && !s.hub.board.rstLow && s.hub.board.standby then
    let fall := s.hub.fw.noteFall
    let s := (s.modHub (fun h => h.firmwareUp s.hubKey)).drew
    let s := (if fall then s.modHub (fun h => h.mrgFault fwFallback) else s).chooseUpstream
    if s.hub.bring.step = 3 && s.hub.power.trans.isNone && !s.hub.bring.offSeen then
      let s := (s.setStep 3).defaultRoutes
      if s.hub.sec.puffed || !s.hub.board.refclk then s else s.startRails
    else s
  else s

def execFirmwareStart (s : State) : Out := .next s.firmwareStart

/-! ### A restart of Marigold (R355, R374, R380) -/

/-- Marigold starts again: sessions close, every volatile entry that is no hardware state returns to its default. -/
def Hub.restart (h : Hub) : Hub :=
  { h with
    fw := { h.fw with running := false, booted := 0xFF, upd := .idle, noteFall := false }
    bring := { h.bring with romOnly := false }
    power := { h.power with request := h.power.state, written := h.power.state, wantOff := false }
    dict := { h.dict with sessions := [], challenges := [], lastOpen := none, lastDisc := none, load := .init, wd := 1048576,
                          margin := 1048576, statePending := false, topoGen := 0, groupLog := [], inPdus := [] }
    sec := { h.sec with nonce := [], report := [], snap := [], readyAt := none } }

/-- The restart of the module's Marigold. -/
def State.restart (s : State) : State :=
  { s.modHub Hub.restart with dies := s.dies.map (fun d => { d with loadAtEnd := false }) }

/-- MARIGOLD_WATCHDOG: 2 s without service, by the firmware, by an image that has yet to start, or by the hub ROM (R355). Every die
that runs a plan is fenced. -/
def State.watchdog (s : State) : State :=
  if s.hub.board.standby && !s.hub.board.rstLow then
    let s := (List.finRange 8).foldl (fun s n => if s.dies[n].plan.isSome then s.fence n .fencedCmd else s) s
    s.restart
  else s

def execMarigoldWatchdog (s : State) : Out := .next s.watchdog

/-! ### Steps 5 to 9 (R442 to R445) -/

/-- Every channel of a die takes a round and its patrol is due 32 ms on (R251, R442). -/
def Die.roundAll (d : Die) : Die :=
  let tc := d.clock.tc.toNat
  { d with cores := d.cores.map (fun k => { k with vault := { k.vault with chans := k.vault.chans.map (fun x =>
      { x with round := some ⟨.outside, tc, d.clock.tcFrac⟩, since := tc, scrubAt := tc + msCounts 32 }) } }) }

/-- Load the repair map of a die (R248): an entry whose spare an earlier one has taken is skipped and recorded. -/
def State.loadRepair (s : State) (n : DieIx) : State :=
  (s.hub.repair[n]).foldl (fun s e =>
    let taken := s.dies[n].repair.any (fun x => entryChan x = entryChan e && entryBank x = entryBank e && entrySpare x = entrySpare e)
    if !bit e 31 then s
    else if taken then
      s.modHub (fun h => h.event 3 0x08 (unitIx n.val (entryChan e / 16) (entryChan e % 16)) 248 0xFF [])
    else s.modDie n (fun d => { d with repair := d.repair ++ [e] })) (s.modDie n (fun d => { d with repair := [] }))

/-- A die may train its DRAM: all its rails are up and it has no result yet. -/
def State.trainDue (s : State) (n : DieIx) : Bool :=
  let p := s.dies[n].pow
  let atStep := match s.hub.power.trans with
    | none => decide (5 ≤ s.hub.bring.step.toNat)
    | some t => t.target.toNat ≥ 3
  p.vcoreOn && !p.fenced && !p.trained && p.result = .notUp && (s.rail vdram).good && (s.rail vwl).good && atStep && s.hub.fw.running

/-- DRAM_TRAINING: a die's training ends; its map is loaded, bulk clear begins, a round runs and its counter is aligned, or
the die passes traffic only. -/
def State.dramTraining (s : State) (n : DieIx) (ok : Bool) : State :=
  if s.trainDue n then
    if ok then
      let s := s.modDie n (fun d => { d with pow := { d.pow with trained := true } })
      let s := (s.loadRepair n).dieAlign n
      s.modDie n (fun d => d.roundAll.startClear s.now)
    else
      let s := s.modDie n (fun d => Die.passThrough s.now { d with pow := { d.pow with result := .dramFailed } })
      s.modHub (fun h => h.event 4 0x0E (unitIx n.val 0 0) 444 0xFF [])
  else s

def execDramTraining (n : DieIx) (ok : Bool) (s : State) : Out := .next (s.dramTraining n ok)

/-- An end is to be trained now. -/
def State.wakeEnd (s : State) (e : LinkEnd) : State :=
  let off : Bool := match e with | .port p => s.ports[p].cmd = 1 | .pkg _ _ => false
  match (s.link e).st with
  | .unused =>
    if !s.endUsed e then s
    else s.modLink e (fun l => { l with st := if off then .disabled else .down, retryAt := s.now, failed := 0 })
  | .down => s.modLink e (fun l => { l with retryAt := s.now, failed := 0 })
  | _ => s

/-- An end waits for training no longer: it is up, is held Down or out of use, or has failed four attempts. -/
def State.endSettled (s : State) (e : LinkEnd) : Bool :=
  let l := s.link e
  match l.st with
  | .down => s.endHeld e || decide (4 ≤ l.failed)
  | .training => false
  | _ => true

/-- The module runs steps 4 to 9 of bring-up. -/
def State.bringing (s : State) : Bool :=
  decide (4 ≤ s.hub.bring.step.toNat) && decide (s.hub.bring.step.toNat ≤ 9) && !s.hub.bring.standbyOnly && s.hub.power.trans.isNone

/-- BRINGUP_LINK_STEP: step 6 begins when every die has its result and ends when every end has settled. -/
def State.linkStep (s : State) : State :=
  if !s.bringing then s
  else if s.hub.bring.step = 5 then
    if s.dies.toList.all (fun d => d.pow.result ≠ .notUp) then (allEnds.foldl State.wakeEnd s).setStep 6 else s
  else if s.hub.bring.step = 6 then
    if allEnds.all s.endSettled then s.setStep 7 else s
  else s

def execBringupLinkStep (s : State) : Out := .next s.linkStep

/-- BRINGUP_DISCOVERY: every Up port is Verified, or 1 s has passed; M_cfg is taken as step 8 begins. -/
def State.discovery (s : State) : State :=
  if s.bringing && s.hub.bring.step = 7
      && (s.ports.toList.all (fun x => x.link.st ≠ .up || x.nb = .verified || x.nb = .admitted)
          || decide (s.hub.bring.stepAt + secCounts 1 ≤ s.now)) then
    (s.modHub Hub.takeCfg).setStep 8
  else s

def execBringupDiscovery (s : State) : Out := .next s.discovery

/-- The conditions of R443 but for the gate. -/
def State.attestHolds (s : State) : Bool :=
  s.hub.bring.removal = 0 && (s.hub.time.align = 2 || s.isRoot || s.hub.bring.late8)

/-- `an_flg`[1] is set again where it was cleared and the conditions hold once more (R443). -/
def State.attest (s : State) : State :=
  if s.hub.bring.step = 10 && !s.hub.bring.attested && decide (3 ≤ s.hub.power.state.toNat) && s.hub.power.trans.isNone
      && s.attestHolds then
    s.modHub (fun h => { h with bring := { h.bring with attested := true } })
  else s

/-- Dies gate their clocks once their frame has ended, or ungate them, as Marigold tells them over their lanes. -/
def State.gateDies (s : State) (g : Bool) : State :=
  { s with dies := s.dies.map (fun d => if d.pow.vcoreOn && d.reached && !(g && d.frm.frun) then d.setGate g else d) }

/-- BRINGUP_ATTESTATION: step 8 ends when the conditions of R443 hold; the module joins in the state requested. The gate
applies after RST_N alone: an exit from Off, or from a failed power-up, does not consult it (R445). A request for Off that has waited
for the end of step 8 is taken in its place (R448). -/
def State.attestation (s : State) : State :=
  let b := s.hub.bring
  if s.bringing && b.step = 8 then
    let late := decide (b.stepAt + secCounts 10 ≤ s.now)
    let byTime := late && !(s.hub.time.align = 2 || s.isRoot)
    let s := if byTime && !b.late8 then
        s.modHub (fun h => Hub.event { h with bring := { h.bring with late8 := true } } 3 0x0E 0 443 0xFF []) else s
    if s.attestHolds && (b.gate = 0 || b.released || b.offSeen) then
      let s := s.setStep 9
      if s.goingOff then s
      else
      let s := s.modHub (fun h => { h with
        bring := { h.bring with attested := true, ready := if h.bring.ready = 0 then BitVec.ofNat 32 ((h.time.wall - h.bring.started) / msCounts 1) else h.bring.ready },
        power := { h.power with state := if h.power.request = 3 then 3 else 4 } })
      let s := if s.hub.power.state = 3 then s.gateDies true else s
      s.setStep 10
    else s
  else s

def execBringupAttestation (s : State) : Out := .next s.attestation

/-- ADMISSION_RELEASE: accepted in step 8 and once per RST_N (R445). -/
def State.admitRelease (s : State) : State × BitVec 8 :=
  if s.bringing && s.hub.bring.step = 8 && !s.hub.bring.released then
    (s.modHub (fun h => { h with bring := { h.bring with released := true } }), 0)
  else (s, 8)

/-! ### Transitions (R446 to R449) -/

/-- Every host session closes (R385). -/
def State.closeHosts (s : State) : State := s.modHub (fun h => { h with dict := { h.dict with hostSes := [] } })

/-- Announce on every port that is Up, with a power state. -/
def State.announceAll (s : State) (pst : BitVec 8) : State :=
  allPorts.foldl (fun s p => if s.ports[p].link.st = .up then s.announceAs p pst else s) s

/-- Quiescing begins (R447). -/
def State.quiesceBegin (s : State) : State :=
  let s := s.modHub (fun h => { h with
    bring := { h.bring with attested := false }, power := { h.power with quiesceAt := h.time.wall } })
  (s.announceAll s.hub.power.state).closeHosts

/-- 100 ms without a forwarded flit, and 5 s in all. -/
def State.quiet (s : State) : Bool :=
  decide (max s.hub.power.quietAt s.hub.power.quiesceAt + msCounts 100 ≤ s.now)
def State.quiesceLate (s : State) : Bool := decide (s.hub.power.quiesceAt + secCounts 5 ≤ s.now)

/-- Package link ends. -/
def pkgEnds : List LinkEnd := allEnds.filter (fun e => match e with | .pkg _ _ => true | .port _ => false)

/-- A channel enters self-refresh with its queue drained, or leaves it and takes a round (R251), where the die's lane works
(R19). -/
def Die.enterSelfRefresh (d : Die) : Die :=
  if d.pow.trained && d.reached then
    { d with
      pow := { d.pow with selfRef := true }
      cores := d.cores.map (fun k =>
        let v := k.vault.chans.toList.foldl (fun (v : Vault) (x : Chan) => x.wb.foldl (fun v q => v.writeSector q.1 q.2 false) v) k.vault
        { k with vault := { v with chans := v.chans.map (fun x => { x with wb := [] }) } }) }
  else d

def Die.leaveSelfRefresh (d : Die) : Die :=
  if d.pow.selfRef && d.reached then Die.roundAll { d with pow := { d.pow with selfRef := false } } else d

/-- VCORE rails of the dies that are not fenced, in die order. -/
def State.vcoreRails (s : State) : List RailIx :=
  ((List.finRange 8).filter (fun n => !s.dies[n].pow.fenced)).map vcoreRail

/-- A fatal record is on its way to the mirror (R438). -/
def State.fatalWaits (s : State) : Bool :=
  s.hub.rec_.queue.any (fun e => e.sev = 6) || s.dies.toList.any (fun d => d.reached && d.evq.any (fun e => e.sev = 6)) || s.hub.rec_.cutMirror.isSome

/-- A step of a transition begins. -/
def State.beginStep (s : State) : TransStep → State
  | .commit => s
  | .quiesce => s.quiesceBegin
  | .portsLow => allPorts.foldl State.toLowRate s
  | .portsUp => allPorts.foldl (fun s p => if s.ports[p].cmd = 2 then s else s.toFullRate p) s
  | .portsUnused => allPorts.foldl (fun s p =>
      let s := s.linkDown (.port p) .down 6
      s.modLink (.port p) (fun l => if l.st = .disabled then l else { Link.init with st := .unused })) s
  | .portsDisabled => s.announceAll 0
  | .linksDown => pkgEnds.foldl (fun s e => s.endDown e 6) s
  | .linksUp => pkgEnds.foldl State.wakeEnd s
  | .selfRefresh => s
  | .railsDown rails => s.lowerRails rails false false
  | .railsUp rails => s.raiseRails (rails.filter (fun k => match railDie k with | some n => !s.dies[n].pow.fenced | none => true))
  | .train => s
  | .align => (List.finRange 8).foldl (fun s n => s.dieAlign n) s
  | .exitRefresh => { s with dies := s.dies.map Die.leaveSelfRefresh }
  | .announce => allPorts.foldl (fun s p => if s.ports[p].talks then s.announce p else s) s
  | .gate => s
  | .ungate => s.gateDies false
  | .pwrEnLow => s.modHub (fun h => { h with board := { h.board with pwrEn := false } })
  | .supplyOff => s.cutSupply

/-- Some channel of a die is in a round. -/
def Die.anyRound (d : Die) : Bool := d.cores.toList.any (fun k => k.vault.chans.toList.any (fun x => x.round.isSome))

/-- A step of a transition has ended. -/
def State.stepDone (s : State) (since : Nat) : TransStep → Bool
  | .commit => !s.fatalWaits || decide (since + msCounts 5 ≤ s.now)
  | .quiesce => s.quiet || s.quiesceLate
  | .portsUp => s.ports.toList.all (fun x => x.link.st ≠ .training && x.rising.isNone)
  | .portsDisabled => s.ports.toList.all (fun x => !x.link.trained || (x.link.outq.isEmpty && x.link.ctlq.isEmpty))
  | .linksUp => pkgEnds.all s.endSettled
  | .selfRefresh => s.dies.toList.all (fun d => !d.anyRound)
  | .railsDown _ | .railsUp _ => s.hub.power.goal = .hold
  | .train => s.dies.toList.all (fun d => !d.pow.vcoreOn || d.pow.result ≠ .notUp)
  | .gate => s.dies.toList.all (fun d => !d.pow.vcoreOn || !d.reached || d.clock.gated)
  | _ => true

/-- What the end of a step does. -/
def State.endStep (s : State) : TransStep → State
  | .quiesce =>
    if s.quiet then s else s.modHub (fun h => h.event 3 0x0E 0 447 0xFF [])
  | .selfRefresh => { s with dies := s.dies.map Die.enterSelfRefresh }
  | .portsDisabled => allPorts.foldl (fun s p =>
      let s := s.linkDown (.port p) .disabled 6
      s.modLink (.port p) (fun _ => { Link.init with st := .disabled })) s
  | _ => s

/-- A change of the removal state (R451). -/
def State.setRemoval (s : State) (k : BitVec 8) : State :=
  s.modHub (fun h => Hub.event { h with bring := { h.bring with removal := k } } 2 0x0E 0 451 0xFF [])

/-- A transition has run its steps: the module is in its state. A bring-up that Off has cut short stands at step 3 again, which
is recorded; a die released meanwhile comes up now (R368). -/
def State.transEnd (s : State) (target : BitVec 8) : State :=
  let s := s.modHub (fun h => { h with power := { h.power with trans := none, state := target, wantOff := false } })
  let s := if target = 0 && s.hub.bring.step ≠ 10 && s.hub.bring.step ≠ 3 then s.setStep 3 else s
  let s := if target.toNat ≤ 2 then s.closeHosts else s
  let s := if s.hub.bring.removal = 3 && target = 0 then s.setRemoval 4 else s
  s.attest.raiseLeft

/-- The step in progress gives way to the next, or to a request for Off that waits (R448). -/
def State.transNext (s : State) (t : Trans) (rest : List TransStep) : State :=
  if s.hub.power.wantOff then s.takeOff
  else if rest.isEmpty then s.transEnd t.target
  else s.modHub (fun h => { h with power := { h.power with trans := some { t with steps := rest, begun := false } } })

/-- The transition in progress goes on: its step begins, works, and ends. -/
def State.transGo (s : State) (t : Trans) : State :=
  match t.steps with
  | [] => s.transEnd t.target
  | k :: rest =>
    let s := if t.begun then s
      else (s.modHub (fun h => { h with power := { h.power with trans := some { t with begun := true, since := h.time.wall } } })).beginStep k
    let s := if k = .gate then s.gateDies true else s
    let since := ((s.hub.power.trans.map (·.since)).getD 0)
    if s.stepDone since k then (s.endStep k).transNext t rest else s

/-- Steps of R446 from one state to another. Off to Run or Idle is bring-up. -/
def State.stepsFor (s : State) (src dst : BitVec 8) : List TransStep :=
  let vs := (List.finRange 8).map vcoreRail
  let sleep : List TransStep := [.quiesce, .portsLow, .linksDown, .selfRefresh, .railsDown vs.reverse]
  let wake : List TransStep := [.linksUp, .portsUp, .announce]
  let idle : List TransStep := if dst = 3 then [.gate] else []
  if dst = 0 then s.offSteps
  else if 3 ≤ src.toNat then
    if dst = 4 then [.ungate] else if dst = 3 then [.gate] else if dst = 2 then sleep else sleep ++ [.railsDown [vwl, vdram]]
  else if src = 2 then
    if dst = 1 then [.railsDown [vwl, vdram]] else [.railsUp vs] ++ idle ++ [.align, .exitRefresh] ++ wake
  else [.railsUp ([vdram, vwl] ++ vs)] ++ idle ++ [.train, .align] ++ wake

/-- POWER_TRANSITION: a request takes effect, or the transition in progress goes on. -/
def State.powerTransition (s : State) : State :=
  let p := s.hub.power
  match p.trans with
  | some t => s.transGo t
  | none =>
    if s.hub.bring.step = 10 && !s.hub.dict.statePending && p.request ≠ p.state && s.hub.bring.removal = 0 then
      let t : Trans := { target := p.request, steps := s.stepsFor p.state p.request, begun := false }
      (s.modHub (fun h => { h with power := { h.power with trans := some t } })).transGo t
    else s

def execPowerTransition (s : State) : Out := .next s.powerTransition

/-- Leave Off, or the end of a removal: steps 4 to 9 run (R446, R451). -/
def State.powerUp (s : State) (v : BitVec 8) : State :=
  let s := s.modHub (fun h => { h with power := { h.power with request := v, railTries := 0, skipRails := [] } })
  s.startRails

/-- Some plan is loaded. -/
def State.anyPlan (s : State) : Bool := s.dies.toList.any (fun d => d.plan.isSome)

/-- Ports that the removal disabled are enabled again; those under a disable command stay as they are. -/
def State.enablePorts (s : State) : State :=
  allPorts.foldl (fun s p => if s.ports[p].cmd = 1 then s else s.modLink (.port p) (fun _ => Link.init)) s

/-- Step 4 that waits for rails to come down does, or does not, follow. -/
def RailGoal.then_ (g : RailGoal) (again : Bool) : RailGoal :=
  match g with
  | .board t _ => .board t again
  | .down l e _ => .down l e again
  | g => g

/-- What a value written to 0x2000.01 asks for (R361, R444, R446, R448, R451, R470). -/
def State.askFor (s : State) (v : BitVec 8) : State × BitVec 8 :=
  let b := s.hub.bring
  let p := s.hub.power
  if 4 < v.toNat then (s, 7)
  else if 1 ≤ b.removal.toNat && b.removal.toNat ≤ 3 then (s, 8)
  else if b.romOnly || s.hub.sec.puffed then (s, 8)
  else if b.removal = 4 then
    if 3 ≤ v.toNat && s.hub.board.refclk then (((s.setRemoval 0).enablePorts).powerUp v, 0) else (s, 8)
  else if s.anyPlan && v.toNat ≤ 2 then (s, 8)
  else if p.trans.isSome || s.bringing then
    if v = 0 then (if s.goingOff then s else s.modHub (fun h => { h with power := { h.power with wantOff := true } }), 0) else (s, 8)
  else if p.state = 0 then
    if v = 0 then (s.modHub (fun h => { h with power := { h.power with request := 0, goal := h.power.goal.then_ false } }), 0)
    else if 3 ≤ v.toNat && s.hub.board.refclk then (s.powerUp v, 0)
    else (s, 8)
  else if p.state = 1 && v = 2 then (s, 8)
  else
    let s := s.modHub (fun h => { h with power := { h.power with request := v }, dict := { h.dict with statePending := s.anyPlan } })
    (if s.hub.dict.statePending then s else s.powerTransition, 0)

/-- POWER_STATE_REQUEST: a value written to 0x2000.01; the entry reads the last one that was not refused (R379). -/
def State.askState (s : State) (v : BitVec 8) : State × BitVec 8 :=
  let (t, st) := s.askFor v
  if st = 0 then (t.modHub (fun h => { h with power := { h.power with written := v } }), 0) else (s, st)

/-- QUIESCE_END: of a transition, or of a removal, whose way to Off lets a fatal record reach the mirror (R438, R447, R451). -/
def State.quiesceEnd (s : State) : State :=
  match s.hub.power.trans with
  | some t => if t.begun && t.steps.head? = some .quiesce then s.transGo t else s
  | none =>
    if s.hub.bring.removal = 2 && (s.quiet || s.quiesceLate) then
      let s := (s.endStep .quiesce).setRemoval 3
      s.modHub (fun h => { h with power := { h.power with
        request := 0, trans := some { target := 0, steps := [.commit, .portsDisabled, .linksDown, .railsDown railOrder.reverse, .pwrEnLow], begun := false } } })
    else s

def execQuiesceEnd (s : State) : Out := .next s.quiesceEnd

/-! ### Fence and release by command (R368) -/

/-- Release a fenced die: where the module has its rails up, VCORE rises, at once or when the sequence or transition in progress
has ended; training, map and clear follow. -/
def State.release (s : State) (n : DieIx) : State :=
  if s.dies[n].pow.fenced then
    let k := vcoreRail n
    let s := s.modDie n (fun d => { d with pow := { d.pow with fenced := false, result := .notUp } })
    let s := s.modHub (fun h => { h with power := { h.power with skipRails := h.power.skipRails.filter (· ≠ k) } })
    match s.hub.power.goal with
    | .up l => if s.hub.bring.step = 4 then s.modHub (fun h => { h with power := { h.power with goal := .up (l ++ [k]) } }) else s
    | _ => s.raiseLeft
  else s

/-- A value written to 0x2020.n+1. -/
def State.dieCommand (s : State) (n : DieIx) (v : BitVec 8) : State × BitVec 8 :=
  if v = 1 then (s.fence n .fencedCmd, 0)
  else if v = 2 then (s.release n, 0)
  else (s, 7)

/-! ### Removal (R451) -/

/-- A die's plan is unloaded after its current frame (command 6 of R383). -/
def State.unloadDie (s : State) (n : DieIx) : State :=
  s.modDie n (fun d =>
    if d.plan.isNone || !d.reached then d
    else if d.frm.frun then { d with unloadAtEnd := true }
    else d.endPlan s.now)

/-- A load in progress is aborted to idle. -/
def State.dropLoad (s : State) : State :=
  let s := s.modHub (fun h => { h with dict := { h.dict with load :=
    if h.dict.load.st = .receiving || h.dict.load.st = .checking then { LoadOp.init with reason := h.dict.load.reason }
    else h.dict.load } })
  { s with dies := s.dies.map (fun d => { d with loadAtEnd := false }) }

/-- REMOVAL_REQUEST: in bring-up and in a transition too, whose end the powering down waits for. -/
def State.removalRequest (s : State) : State × BitVec 8 :=
  if s.hub.bring.removal ≠ 0 then (s, 8)
  else
    let s := (s.setRemoval 1).dropLoad
    let s := s.modHub (fun h => { h with bring := { h.bring with attested := false } })
    ((List.finRange 8).foldl (fun s n => s.unloadDie n) s, 0)

/-- REMOVAL_CANCEL: in draining and quiescing the module returns to Ready. -/
def State.removalCancel (s : State) : State × BitVec 8 :=
  if s.hub.bring.removal = 1 || s.hub.bring.removal = 2 then ((s.setRemoval 0).attest, 0) else (s, 8)

/-- REMOVAL_DRAIN_END: no die holds a plan and every clear is complete. -/
def State.drainEnd (s : State) : State :=
  if s.hub.bring.removal = 1 && s.dies.toList.all (fun d => d.plan.isNone && !d.pow.clearing) then (s.setRemoval 2).quiesceBegin
  else s

def execRemovalDrainEnd (s : State) : Out := .next s.drainEnd

end Sys2Proof.Machine
end

