-- ==== Sys2Proof/Machine/Update.lean ====
section
/-! DEFINITION. The firmware update (R371 to R374) and the event recorder (R431 to R440). -/

namespace Sys2Proof.Machine

/-! ### Update commands (R371 to R373). A pair's second part is the status of R395. -/

/-- Bytes of a slot. -/
def slotBytes : Nat := 0x400000

/-- The slot that is not booted; in the hub ROM alone, the one the boot record does not prefer. -/
def Firmware.inactive (f : Firmware) : Bool := if f.booted = 0xFF then !f.pref else f.booted = 0

def Firmware.setSlot (f : Firmware) (b : Bool) (m : Mem) : Firmware := if b then { f with slotB := m } else { f with slotA := m }

/-- Change the firmware's state. -/
def State.modFw (s : State) (f : Firmware → Firmware) : State := s.modHub (fun h => { h with fw := f h.fw })

/-- The slot that an update writes, by the boot record as Marigold takes it. -/
def State.updSlot (s : State) : Bool := s.hub.fwSeen.inactive

/-- UPDATE_BEGIN: the inactive slot is erased. -/
def State.updBegin (s : State) : State × BitVec 8 :=
  if s.hub.fw.upd = .idle || s.hub.fw.upd = .failed then
    (s.modFw (fun f => { f.setSlot s.updSlot [] with upd := .receiving }), 0)
  else (s, 8)

/-- UPDATE_CHUNK: bytes 0 to 3 are the offset, the rest data. -/
def State.updChunk (s : State) (v : Bytes) : State × BitVec 8 :=
  let off := leAt v 0 4
  if v.length < 8 || 4096 < v.length then (s, 6)
  else if s.hub.fw.upd ≠ .receiving then (s, 8)
  else if off % 4 ≠ 0 || slotBytes < off + (v.length - 4) then (s, 7)
  else (s.modFw (fun f => f.setSlot s.updSlot (Cells.setN (f.slot s.updSlot) off (v.drop 4))), 0)

/-- UPDATE_VERIFY: the conditions of R370. -/
def State.updVerify (s : State) : State × BitVec 8 :=
  if s.hub.fw.upd = .receiving then
    (s.modFw (fun f => { f with upd := if slotOk (f.slot s.updSlot) s.hub.fwSeen.floor then .verified else .failed }), 0)
  else (s, 8)

/-- UPDATE_ACTIVATE: the boot record, with its tag, tries the new slot. -/
def State.updActivate (s : State) : State × BitVec 8 :=
  if s.hub.fw.upd = .verified then
    (s.modHub (fun h => h.sealBoot { h.fw with upd := .pending, pref := s.updSlot, trial := true, tries := 0 }), 0)
  else (s, 8)

/-- UPDATE_ABORT: a pending activation is cleared, so that the slot it preferred is preferred no longer. -/
def State.updAbort (s : State) : State × BitVec 8 :=
  match s.hub.fw.upd with
  | .idle => (s, 8)
  | .pending => (s.modHub (fun h => h.sealBoot { h.fw with upd := .idle, pref := !h.fw.pref, trial := false, tries := 0 }), 0)
  | _ => (s.modFw (fun f => { f with upd := .idle }), 0)

/-- UPDATE_RESTART: refused while any plan is loaded (R374). -/
def State.updRestart (s : State) : State × BitVec 8 :=
  if s.hub.fw.upd = .pending && !s.anyPlan then (s.restart, 0) else (s, 8)

/-- UPDATE_COMMIT: only while a trial image runs; the floor never falls. -/
def State.updCommit (s : State) : State × BitVec 8 :=
  let f := s.hub.fwSeen
  if f.trial && f.booted = (if f.pref then 1 else 0) then
    let s := s.modHub (fun h => h.sealBoot { h.fw with trial := false })
    (if f.floor.toNat < f.svn.toNat then s.modHub (fun h => h.sealFloor { h.fw with floor := f.svn }) else s, 0)
  else (s, 8)

/-- A value written to 0x7000.01. -/
def State.updCommand (s : State) (v : BitVec 8) : State × BitVec 8 :=
  match v.toNat with
  | 1 => s.updBegin
  | 2 => s.updVerify
  | 3 => s.updActivate
  | 4 => s.updAbort
  | 5 => s.updRestart
  | 6 => s.updCommit
  | _ => (s, 7)

/-! ### The recorder (R431 to R436, R438) -/

/-- Slots of the recorder and of the mirror. -/
def recorderSlots : Nat := 8192
def mirrorSlots : Nat := 1024

/-- The lowest slot number that is not in a rising list. -/
def lowestEmpty : Nat → List (Nat × Record) → Nat
  | n, [] => n
  | n, (i, _) :: r => if i = n then lowestEmpty (n + 1) r else n

/-- Put a record into a slot, keeping the list in order. -/
def putRecord (n : Nat) (x : Record) : List (Nat × Record) → List (Nat × Record)
  | [] => [(n, x)]
  | (i, y) :: r => if n < i then (n, x) :: (i, y) :: r else if n = i then (n, x) :: r else (i, y) :: putRecord n x r

/-- Order among the candidates of R436: lowest severity, then lowest power cycle, then lowest sequence number. -/
def Record.before (a b : Record) : Bool :=
  decide (a.ev.sev < b.ev.sev) || (a.ev.sev = b.ev.sev && (decide (a.pwr.toNat < b.pwr.toNat)
    || (a.pwr = b.pwr && decide (a.seq.toNat < b.seq.toNat))))

/-- Where a record of severity v goes (R436); none: it is dropped. -/
def placeFor (slots v : Nat) (l : List (Nat × Record)) : Option Nat :=
  if l.length < slots then some (lowestEmpty 0 l)
  else
    (l.foldl (fun (m : Option (Nat × Record)) x =>
      if v < x.2.ev.sev then m
      else match m with | some y => if x.2.before y.2 then some x else m | none => some x) none).map (·.1)

/-- The last six bytes of a slot, which a write of the slot reaches last (R437). -/
def oldSeqB (l : List (Nat × Record)) (n : Nat) : BitVec 48 := ((l.find? (fun x => x.1 = n)).map (·.2.seqB)).getD 0

/-- The event engine takes an event: below the minimum it leaves no trace; else it takes the next number, and is placed in
the recorder and, from warning on, in the mirror. The write of a slot has begun with its first bytes; until it is done the
slot's last bytes read as they were (R437). -/
def Recorder.take (r : Recorder) (e : Event) : Recorder :=
  if e.sev < r.minSev.toNat then r
  else
    let seq := r.seq + 1
    let x : Record := { seq := seq, seqB := seq, ev := { e with arr := none }, optime := r.optime, pwr := r.pwr }
    let r := { r with seq := seq }
    let r := match placeFor recorderSlots e.sev r.slots with
      | some n => { r with slots := putRecord n x r.slots, newest := seq, cut := some (n, oldSeqB r.slots n) }
      | none => { r with dropped := satAdd r.dropped 1 }
    if e.sev < 3 then r
    else match placeFor mirrorSlots e.sev r.mirror with
      | some n => { r with mirror := putRecord n x r.mirror, cutMirror := some (n, oldSeqB r.mirror n) }
      | none => r

/-- The writes of slots in progress are done: in the mirror within the 5 ms of R438 (log entry 88). -/
def Recorder.settle (r : Recorder) : Recorder := { r with cut := none, cutMirror := none }

/-- An event has reached the engine: since when, unless that is known (R435). -/
def Event.reach (now : Nat) (e : Event) : Event := { e with arr := some (e.arr.getD now) }

/-- The events of the dies whose lanes work, and those of the hub die, have reached the engine. A lane's own delay is not
modelled (DESIGN CHOICE, log entry 124). -/
def State.stamped (s : State) : State :=
  { s with
    dies := s.dies.map (fun (d : Die) => if d.reached then { d with evq := d.evq.map (Event.reach s.now) } else d)
    hub := { s.hub with rec_ := { s.hub.rec_ with queue := s.hub.rec_.queue.map (Event.reach s.now) } } }

/-- An event reached the engine before another one did. -/
def Event.sooner (a b : Event) : Bool := decide (a.arr.getD 0 < b.arr.getD 0)

/-- The oldest waiting event of a die that reached the engine first: in one instant that of the lowest die (R435). The events of
a die whose lane has failed do not come (R19). -/
def State.firstEvent (s : State) : Option (DieIx × Event) :=
  (List.finRange 8).foldl (fun (m : Option (DieIx × Event)) n =>
    match s.dies[n].evq with
    | [] => m
    | e :: _ =>
      if !s.dies[n].reached then m
      else match m with
        | some y => if e.sooner y.2 then some (n, e) else m
        | none => some (n, e)) none

/-- A µs has passed since the engine took its last event (R435). -/
def State.engineReady (s : State) : Bool := s.hub.rec_.takenAt.all (fun t => decide (t + usCounts 1 ≤ s.now))

/-- EVENT_ENGINE_TAKE: the event that arrived first; the hub die's own come after those of the dies in one instant. The engine
takes one in a µs (R435). -/
def State.engineTake (s : State) : State :=
  let now := s.now
  let fromDie (n : DieIx) (e : Event) : State :=
    (s.stamped.modDie n (fun d => { d with evq := d.evq.drop 1 })).modHub (fun h => { h with rec_ := { h.rec_ with takenAt := some now }.take e })
  let fromHub (e : Event) : State :=
    s.stamped.modHub (fun h => { h with rec_ := { h.rec_ with queue := h.rec_.queue.drop 1, takenAt := some now }.take e })
  if s.hub.board.rstLow || !s.hub.board.standby || !s.engineReady then s
  else
    match s.stamped.firstEvent, s.stamped.hub.rec_.queue with
    | some (n, e), [] => fromDie n e
    | none, e :: _ => fromHub e
    | some (n, e), x :: _ => if x.sooner e then fromHub x else fromDie n e
    | none, [] => s

/-- The command stands for the take with its whole write. -/
def execEventEngineTake (s : State) : Out := .next (s.engineTake.modHub (fun h => { h with rec_ := h.rec_.settle }))

/-- OPTIME_STORE: every 60 s Marigold stores the operating time (R434). -/
def State.optimeStore (s : State) : State :=
  if s.hub.fw.running && decide (s.hub.rec_.stored.toNat + 60 ≤ s.hub.rec_.optime.toNat) then
    s.modHub (fun h => { h with rec_ := { h.rec_ with stored := h.rec_.optime } })
  else s

def execOptimeStore (s : State) : Out := .next s.optimeStore

/-- A value written to 0x5010.05 (R440). -/
def State.recCommand (s : State) (role : Role) (v : BitVec 8) : State × BitVec 8 :=
  if v = 1 then (s.modHub (fun h => { h with rec_ := { h.rec_ with slots := [], cut := none } }), 0)
  else if v = 2 then
    if role = .vendor then (s.modHub (fun h => { h with rec_ := { h.rec_ with mirror := [], cutMirror := none } }), 0) else (s, 3)
  else (s, 7)

/-- 0x5010.03: events dropped by the engine and by the dies' queues. -/
def State.droppedCount (s : State) : U32 := satAdd s.hub.rec_.dropped ((s.dies.toList.map (·.evLost)).foldl (· + ·) 0)

/-- The 64 bytes of a record (R432). -/
def Record.bytes (r : Record) : Bytes :=
  leBytes 6 r.seq.toNat ++ leBytes 1 r.ev.sev ++ [r.ev.unitk] ++ leBytes 2 r.ev.unit.toNat ++ leBytes 2 r.ev.rule ++ [r.ev.bit]
    ++ leBytes 1 (b2n r.ev.frame.isSome + 2 * b2n r.ev.onDie) ++ leBytes 6 (r.ev.frame.getD 0).toNat ++ leBytes 4 r.optime.toNat
    ++ leBytes 4 r.pwr.toNat ++ leBytes 8 r.ev.time.toNat ++ slice r.ev.det 0 22 ++ leBytes 6 r.seqB.toNat

/-- The slot at a read position: bit 31 selects the mirror. -/
def Recorder.at_ (r : Recorder) (pos : U32) : Bytes :=
  let (l, cut) := if bit pos 31 then (r.mirror, r.cutMirror) else (r.slots, r.cut)
  match l.find? (fun x => x.1 = bits pos.toNat 12 0) with
  | some x => (match cut with | some (n, b) => if n = x.1 then { x.2 with seqB := b } else x.2 | none => x.2).bytes
  | none => slice [] 0 64

end Sys2Proof.Machine
end

