-- ==== Sys2Proof/Machine/Loads.lean ====
section
/-! DEFINITION. Plans and jobs (R383 to R385, R410 to R413, R477): job keys, load and standby operations, the checks of a
load, its application to the dies, unload, flip arms, standby writes and host sessions. A pair's second part is the status
of R395. -/

namespace Sys2Proof.Machine

/-! ### Sessions and jobs -/

def State.modDict (s : State) (f : Dict → Dict) : State := s.modHub (fun h => { h with dict := f h.dict })
def State.modSec (s : State) (f : Sec → Sec) : State := s.modHub (fun h => { h with sec := f h.sec })
def State.modLoad (s : State) (f : LoadOp → LoadOp) : State := s.modDict (fun d => { d with load := f d.load })

def State.session (s : State) (num : BitVec 16) : Option Session := s.hub.dict.sessions.find? (fun x => x.num = num)

def State.modSession (s : State) (num : BitVec 16) (f : Session → Session) : State :=
  s.modDict (fun d => { d with sessions := updWhere (fun x => x.num = num) f d.sessions })

/-- Digest of a session's role key. -/
def Session.digest (x : Session) : Bytes := Config.sha3 x.key

/-- A job's root key in the security engine. -/
def State.jobKey (s : State) (job : BitVec 8) : Option JobKey := s.hub.sec.keys.find? (fun k => k.job = job)

/-- A job is bound to a tenant key other than this (R384). -/
def State.boundElse (s : State) (job : BitVec 8) (tenant : Bytes) : Bool :=
  s.hub.dict.bindings.any (fun b => b.1 = job && b.2 ≠ tenant)

/-- Some die holds a plan of the job. -/
def State.jobRuns (s : State) (job : BitVec 8) : Bool := s.dies.toList.any (fun d => (d.plan.map (·.job)) = some job)

/-- Erase a job's root key: from the engine, from every die's key register, with the host sessions that rest on it (R385,
R411). -/
def State.eraseKey (s : State) (job : BitVec 8) : State :=
  let key := ((s.hub.sec.keys.find? (fun k => k.job = job)).map (·.key)).getD []
  let s := { s with dies := s.dies.map (fun (d : Die) => if d.plan.isNone && d.keyReg = key then { d with keyReg := [] } else d) }
  let s := s.modSec (fun x => { x with keys := x.keys.filter (fun k => k.job ≠ job) })
  s.modDict (fun d => { d with hostSes := d.hostSes.filter (fun h => h.2 ≠ job) })

/-- The load operation of a job is under way. -/
def State.loading (s : State) (job : BitVec 8) : Bool :=
  s.hub.dict.load.job = job && (s.hub.dict.load.st = .receiving || s.hub.dict.load.st = .checking)

/-- A job whose last plan has ended loses its key, and one that no die runs or loads its binding (R384, R411). A plan that
has passed its checks and waits for the dies counts as held (log entry 83). -/
def State.settleJobs (s : State) : State :=
  let live (j : BitVec 8) : Bool := s.jobRuns j || s.loading j
  let kept (j : BitVec 8) : Bool := s.jobRuns j || (s.hub.dict.load.job = j && s.hub.dict.load.st = .checking)
  let s := (s.hub.sec.keys.filter (fun k => k.loaded && !kept k.job)).foldl (fun s k => s.eraseKey k.job) s
  s.modDict (fun d => { d with bindings := d.bindings.filter (fun b => live b.1) })

/-- JOB_KEY_EXPIRY: a capsule accepted 60 s ago and no plan loaded (R410). -/
def State.keyTimeout (s : State) (job : BitVec 8) : State :=
  match s.jobKey job with
  | some k => if !k.loaded && !s.jobRuns job && decide (k.at_ + secCounts 60 ≤ s.now) then s.eraseKey job else s
  | none => s

def execJobKeyExpiry (job : BitVec 8) (s : State) : Out := .next (s.keyTimeout job)

/-! ### Begin, chunks, abort (R383, R384, R448, R451) -/

/-- The module takes loads: Run or Idle, no transition, no removal. -/
def State.mayLoad (s : State) : Bool :=
  decide (3 ≤ s.hub.power.state.toNat) && s.hub.power.trans.isNone && s.hub.bring.removal = 0

/-- A die in service for plans: trained and cleared, not fenced, not in pass-through, its lane up (R20, R250, R340, R368). -/
def Die.inService (d : Die) : Bool :=
  d.pow.vcoreOn && d.pow.lane && !d.pow.fenced && d.pow.result = .ready && !d.router.pthru && !d.pow.noMore && !d.pow.leaving

/-- The load operation begins: owner, job and mask are kept, and each die of the mask takes the job's key (R411). -/
def State.openLoad (s : State) (x : Session) (standby : Bool) (key : Bytes) : State :=
  let s := s.modDict (fun d => { d with
    load := { LoadOp.init with st := .receiving, owner := x.num, tenant := x.digest, job := x.job, mask := x.mask, standby := standby }
    bindings := if d.bindings.any (fun b => b.1 = x.job) then d.bindings else d.bindings ++ [(x.job, x.digest)] })
  (maskDies x.mask).foldl (fun s n => s.modDie n (fun d => { d with keyReg := key })) s

/-- LOAD_BEGIN and STANDBY_BEGIN. A load needs each die free or with a plan of the job, a standby load with one. -/
def State.beginLoad (s : State) (x : Session) (standby : Bool) : State × BitVec 8 :=
  let l := s.hub.dict.load.st
  if !s.mayLoad || l = .receiving || l = .checking then (s, 8)
  else if x.mask = 0 then (s, 8)
  else if s.boundElse x.job x.digest then (s, 3)
  else
    match s.jobKey x.job with
    | none => (s, 8)
    | some k =>
      if (maskDies x.mask).all (fun n => s.dies[n].inService && match s.dies[n].plan with
          | some p => p.job = x.job
          | none => !standby) then (s.openLoad x standby k.key, 0)
      else (s, 8)

/-- The owner's request in state receiving, of a load or a standby load. -/
def State.ownsLoad (s : State) (x : Session) : Bool := s.hub.dict.load.st = .receiving && s.hub.dict.load.owner = x.num

/-- PLAN_CHUNK: bytes 0 to 7 are the offset in the container, the rest data. -/
def State.planChunk (s : State) (x : Session) (v : Bytes) : State × BitVec 8 :=
  if v.length < 9 || 4096 < v.length then (s, 6)
  else if !s.ownsLoad x then (s, 8)
  else
    let off := leAt v 0 8
    (s.modLoad (fun l => { l with data := Cells.setN l.data off (v.drop 8), size := max l.size (off + (v.length - 8)) }), 0)

/-- LOAD_ABORT. -/
def State.abortLoad (s : State) (x : Session) : State × BitVec 8 := if s.ownsLoad x then (s.dropLoad.settleJobs, 0) else (s, 8)

/-! ### The envelope (R412, R413) -/

/-- Read a number from the container. -/
def LoadOp.num (l : LoadOp) (off n : Nat) : Nat := leNat (Cells.getN l.data off n)

/-- E, the offset at which the signature begins, and the measurement. -/
def LoadOp.sigAt (l : LoadOp) : Nat := l.num 20 4
def LoadOp.measure (l : LoadOp) : Bytes := Config.sha3 (Cells.getN l.data 0 l.sigAt)
def LoadOp.serial (l : LoadOp) : BitVec 64 := BitVec.ofNat 64 (l.num 12 8)

/-- K_plan (R411). -/
def planKey (kj : Bytes) : Bytes := shakeN 32 (kj ++ strBytes "plan")

/-- Section i opens under K_plan. -/
def LoadOp.sectionOk (l : LoadOp) (key : Bytes) (i : Nat) : Bool :=
  let off := l.num (32 + 16 * i) 4
  let len := l.num (36 + 16 * i) 4
  (gcmOpen key (leBytes 4 i ++ leBytes 8 l.serial.toNat) [] (Cells.getN l.data off len) (Cells.getN l.data (off + len) 16)).isSome

/-- Target die of section i. -/
def LoadOp.sectionDie (l : LoadOp) (i : Nat) : Nat := l.num (40 + 16 * i) 2

/-- Sections that target a die. -/
def LoadOp.sectionsOf (l : LoadOp) (n : DieIx) : List Nat := (List.range (l.num 10 2)).filter (fun i => l.sectionDie i = n.val)

/-- A plan of the same measurement is loaded for the job already. -/
def State.sameLoaded (s : State) (meas : Bytes) : Bool := s.dies.toList.any (fun d => (d.plan.map (·.meas)) = some meas)

/-- The first of a list of dies that fails a check, with the check's rule. -/
def firstBad (dies : List DieIx) (rule : Nat) (ok : DieIx → Bool) : Option (Nat × DieIx) :=
  (dies.find? (fun n => !ok n)).map (fun n => (rule, n))

/-- The checks of R413 in the order of its list. -/
def State.envelopeBad (s : State) (x : Session) (k : JobKey) : Option (Nat × DieIx) :=
  let l := s.hub.dict.load
  let dies := maskDies l.mask
  (firstBad dies 413 (fun _ => l.num 4 4 = productCode && l.num 8 1 = 0xA1 && l.num 9 1 = l.job.toNat
    && Config.dsaVerify x.key "YZB8 plan" l.measure (Cells.getN l.data l.sigAt 2420))).orElse fun _ =>
  (firstBad dies 413 (fun n => (l.sectionsOf n).all (fun i => l.sectionOk (planKey k.key) i))).orElse fun _ =>
  (firstBad dies 413 (fun _ => s.sameLoaded l.measure || !decide (l.serial.toNat < k.maxSerial.toNat)))

/-! ### The checks of R477 on the plan -/

/-- Valid entries of a virtual-to-physical map; an image without any stands for the identity (log entry 13). -/
def State.validCount (s : State) (n : DieIx) (a : Nat) : Nat :=
  let c := ((List.range 64).filter (fun v => (mapEntry s.dies[n].router.image 672 a v).isSome)).length
  if c = 0 then axisSize s.hub.dict.size a else c

def axisOf (t : Nat × Nat × Nat) (a : Nat) : Nat := if a = 0 then t.1 else if a = 1 then t.2.1 else t.2.2

/-- A coordinate lies in the box on an axis (R341). -/
def inBox (o size count v : Nat) : Bool := size = count || decide ((v + count - o % count) % count < size)

/-- The checks of R341 in the order of its list. -/
def State.boxBad (s : State) (p : ClearPlan) : Option (Nat × DieIx) :=
  let l := s.hub.dict.load
  let dies := maskDies l.mask
  (firstBad dies 341 (fun n => (List.range 3).all (fun a => decide (axisOf p.boxSize a ≤ s.validCount n a)))).orElse fun _ =>
  (firstBad dies 341 (fun n => (List.range 3).all (fun a =>
    inBox (axisOf p.boxOrigin a) (axisOf p.boxSize a) (s.validCount n a) (axisOf s.dies[n].coord a)))).orElse fun _ =>
  (firstBad dies 341 (fun _ => l.job ≠ 0 && (List.finRange 8).all (fun m => match s.dies[m].plan with
      | some q => !(q.job = l.job && q.meas ≠ l.measure
          && (List.finRange 8).any (fun i => (s.dies[i].plan.map (·.meas)) = some q.meas && !bit l.mask i.val))
      | none => true)))

/-- R25: no slot is held by another plan that stays. -/
def State.slotsFree (s : State) (p : ClearPlan) : Bool :=
  let l := s.hub.dict.load
  (List.finRange 8).all (fun m => match s.dies[m].plan with
    | some q => bit l.mask m.val || q.meas = l.measure || q.seqSlots.all (fun x => !p.seqSlots.contains x)
    | none => true)

/-- The part of the plan for a die. -/
def planForDie (p : ClearPlan) (n : DieIx) : DiePlan :=
  match p.dies.find? (fun x => x.1 = n) with
  | some x => x.2
  | none => { cores := [], slots := { period := 0, tables := [] }, lam := 0, delta := 0, double := false, offsets := [] }

/-- R216 for one table. -/
def handlesOk (l : List HandleEntry) : Bool :=
  l.all (fun e => !entryValid e || (!fmtReserved (entryFmt e)
    && decide (entryBase e + (if entryPair e then 2 else 1) * entrySize e ≤ scratchBytes)))

/-- Fields of a ring declaration (R275). -/
def declEn (w : BitVec 64) : Bool := bit w 0
def declSize (w : BitVec 64) : Nat := 4096 * 2 ^ bits w.toNat 5 2
def declBase (w : BitVec 64) : Nat := 4096 * bits w.toNat 18 8

/-- R275. -/
def ringsOk (l : List (Fin 16 × BitVec 64)) : Bool :=
  let on := l.filter (fun x => declEn x.2)
  on.all (fun x => decide (bits x.2.toNat 5 2 ≤ 8) && declBase x.2 % declSize x.2 = 0
    && decide (declBase x.2 + declSize x.2 ≤ scratchBytes)
    && on.all (fun y => x.1 = y.1 || decide (declBase x.2 + declSize x.2 ≤ declBase y.2)
        || decide (declBase y.2 + declSize y.2 ≤ declBase x.2)))

def handlesFit (p : DiePlan) : Bool := p.cores.all (fun c => handlesOk c.2.handles && handlesOk (c.2.handles2.getD []))
def countersFit (p : DiePlan) : Bool := p.cores.all (fun c => c.2.counters.all (fun x => x.2 ≠ 0))
def ringsFit (p : DiePlan) : Bool := p.cores.all (fun c => ringsOk c.2.rings)

/-- R196. -/
def slotTablesOk (t : SlotTables) : Bool :=
  decide (1 ≤ t.period) && decide (t.period ≤ 4096) && t.tables.length = 136 && t.tables.all (fun x => x.length = t.period)
  && (List.range 32).all (fun c => (t.tables.getD (104 + c) []).all (fun e => !bit e 5 || e.toNat % 32 = c))

/-- R203. -/
def windowsFit (p : DiePlan) : Bool :=
  decide (1128 ≤ p.lam) && decide (p.delta ≤ if p.double then 12288 else 24576) && decide (p.lam < p.delta)
  && p.offsets.length = 512 && p.offsets.all (fun o => decide (o < p.delta))

/-- R204 for a period T in µs. -/
def budgetOk (frameLen allow theta period : Nat) : Bool :=
  decide (theta ≤ 500) && decide (frameLen + allow ≤ 846 * period * (1000 - theta) / 1000)

/-- The checks of a load in the order of R477: the rule of the first that fails, and the lowest die that fails it. -/
def State.loadVerdict (s : State) (x : Session) (k : JobKey) (p : ClearPlan) : Option (Nat × DieIx) :=
  let dies := maskDies s.hub.dict.load.mask
  let die (n : DieIx) : DiePlan := planForDie p n
  ((s.envelopeBad x k).orElse fun _ => (s.boxBad p).orElse fun _ =>
  (firstBad dies 25 (fun _ => s.slotsFree p)).orElse fun _ =>
  (firstBad dies 216 (fun n => handlesFit (die n))).orElse fun _ =>
  (firstBad dies 256 (fun n => countersFit (die n))).orElse fun _ =>
  (firstBad dies 275 (fun n => ringsFit (die n))).orElse fun _ =>
  (firstBad dies 196 (fun n => slotTablesOk (die n).slots)).orElse fun _ =>
  (firstBad dies 203 (fun n => windowsFit (die n))).orElse fun _ =>
  (firstBad dies 204 (fun _ => budgetOk p.frameLen p.allow p.theta s.hub.time.period.toNat)))

/-- A load is refused: no die changes, and the rule and die are recorded, under R413 or under R186 (R186, R413, R433, R477). R186
gives its record no severity: it is error (DESIGN CHOICE, log entry 115). -/
def State.refuseLoad (s : State) (rule : Nat) (n : DieIx) : State :=
  let s := s.modLoad (fun l => { l with st := .refused, reason := BitVec.ofNat 16 rule, data := [], size := 0, plan := none })
  let det := leBytes 2 rule ++ leBytes 1 n.val
  s.modHub (fun h => if rule = 413 then h.secFault planSig (some det) else h.event 4 0x14 (unitIx n.val 0 0) 186 0xFF det)

/-- A load whose job has lost its K_J fails the envelope checks on every die (R413; DEDUCED, log entry 127). -/
def State.keyLost (s : State) : State × BitVec 8 :=
  ((s.refuseLoad 413 ((maskDies s.hub.dict.load.mask).headD 0)).settleJobs, 0)

/-- LOAD_END: the checks of every die of the mask; where all pass, the dies load when their frames have ended. -/
def State.endLoad (s : State) (x : Session) (p : ClearPlan) : State × BitVec 8 :=
  let l := s.hub.dict.load
  if !s.ownsLoad x || l.standby then (s, 8)
  else
    match s.jobKey l.job with
    | none => s.keyLost
    | some k =>
      match s.loadVerdict x k p with
      | some (rule, n) => ((s.refuseLoad rule n).settleJobs, 0)
      | none =>
        let s := s.modLoad (fun l => { l with st := .checking, reason := 0, data := [], size := 0,
                                              plan := some (p, l.measure, l.serial) })
        ((maskDies l.mask).foldl (fun s n => s.modDie n (fun d => { d with loadAtEnd := true })) s, 0)

/-! ### The load on a die (R92, R123, R156, R198, R221, R232, R272, R291, R411) -/

/-- A list into a vector, from its start. -/
def vecOf {α : Type} (n : Nat) (dflt : α) (l : List α) : Vector α n := Vector.ofFn (fun i => l.getD i.val dflt)

/-- Counters as declared. -/
def Core.declareCounters (k : Core) (l : List (Fin 64 × BitVec 48)) : Core :=
  { k with sync := { k.sync with ctr := l.foldl (fun v x => vupd v x.1 (fun _ => { depth := x.2, decl := true })) (.replicate 64 {}) } }

/-- A ring as its declaration word gives it. -/
def declRing (w : BitVec 64) : Ring :=
  { en := declEn w, host := bit w 1, qsz := BitVec.ofNat 4 (bits w.toNat 5 2), base := BitVec.ofNat 11 (bits w.toNat 18 8) }

/-- Rings as declared. -/
def Core.declareRings (k : Core) (l : List (Fin 16 × BitVec 64)) : Core :=
  { k with rings := { k.rings with q := l.foldl (fun v x => vupd v x.1 (fun _ => declRing x.2)) (.replicate 16 {}) } }

/-- A core as the plan declares it. -/
def Core.install (k : Core) (seed : U32) (p : CorePlan) : Core :=
  let k := { k with
    ctl := { k.ctl with imem0 := Cells.setN [] 0 (p.program.take bankBytes), s := vecOf 16 0 p.regs }
    hdl := { k.hdl with bank0 := vecOf 64 0 p.handles, bank1 := vecOf 64 0 (p.handles2.getD p.handles) }
    vec := { k.vec with seed := seed } }
  (k.declareCounters p.counters).declareRings p.rings

/-- Function tables that the plan carries go into the active bank, and are checked (R123). -/
def Die.installTables (d : Die) (c : CoreIx) (l : List (Fin 4 × Bytes)) : Die :=
  l.foldl (fun d x =>
    let b := tableBank x.2 []
    let d := d.modCore c (fun k => { k with vec := { k.vec with ft := vupd k.vec.ft x.1 (fun t => { t with bank0 := b, act := false }) } })
    if b.valid then d else d.fault (.vec c) ftBad) d

/-- A die loads: what it held ends under R416, and the plan's content is written; bulk clear begins. -/
def Die.load (now : Nat) (l : LoadOp) (p : ClearPlan) (meas : Bytes) (serial : BitVec 64) (key : Bytes) (d : Die) : Die :=
  let d := (d.endPlan now).cleared
  let q : DiePlan := planForDie p d.ix
  let d := { d with
    keyReg := key, loadAtEnd := false
    net := { d.net with slots0 := q.slots, act := false }
    clock := { d.clock with thrMax := BitVec.ofNat 10 p.theta }
    plan := some { job := l.job, meas := meas, planSerial := serial, tenant := l.tenant, seqSlots := p.seqSlots, frameLen := p.frameLen,
                   theta := p.theta, allow := p.allow, lam := q.lam, delta := q.delta, double := q.double, offsets := q.offsets,
                   boxOrigin := p.boxOrigin, boxSize := p.boxSize } }
  let d := q.cores.foldl (fun d x => (d.modCore x.1 (fun k => k.install p.seed x.2)).installTables x.1 x.2.tables) d
  d.startClear now

/-- Every core takes the seed, whether the plan names it or not. -/
def Die.seedAll (d : Die) (seed : U32) : Die := { d with cores := d.cores.map (fun k => { k with vec := { k.vec with seed := seed } }) }

/-- PLAN_LOAD_APPLY: each die of the mask whose frame has ended loads; with every clear complete the load is done. -/
def State.applyLoad (s : State) : State :=
  let l := s.hub.dict.load
  match l.st, l.plan with
  | .checking, some (p, meas, serial) =>
    let key := ((s.jobKey l.job).map (·.key)).getD []
    let s := (maskDies l.mask).foldl (fun s n => s.modDie n (fun d =>
      if !d.loadAtEnd then d
      else if !d.inService then { d with loadAtEnd := false }
      else if d.frm.frun then d
      else (d.load s.now l p meas serial key).seedAll p.seed)) s
    let mark (k : JobKey) : JobKey :=
      { k with loaded := k.loaded || s.jobRuns l.job, maxSerial := if k.maxSerial.toNat < serial.toNat then serial else k.maxSerial }
    let s := s.modSec (fun x => { x with keys := updWhere (fun k => k.job = l.job) mark x.keys })
    if (maskDies l.mask).all (fun n => !s.dies[n].loadAtEnd && !s.dies[n].pow.clearing) then
      (s.modLoad (fun l => { l with st := .done, plan := none })).settleJobs
    else s
  | _, _ => s

def execPlanLoadApply (s : State) : Out := .next s.applyLoad

/-! ### Standby loads (R146 to R149, R198, R221, R222, R384) -/

/-- Write an instruction bank and end its load: bytes that the image does not cover keep what the bank held (log entry
82). -/
def Ctl.standbyProgram (k : Ctl) (bank : Bool) (prog : Bytes) : Ctl :=
  let put (m : Mem) : Mem := Cells.setN m 0 (prog.take bankBytes)
  if bank then { k with imem1 := put k.imem1, sbState := .complete } else { k with imem0 := put k.imem0, sbState := .complete }

/-- Write a handle bank: its load begins (R221). -/
def Handles.standbyBank (h : Handles) (bank : Bool) (l : List HandleEntry) : Handles :=
  if bank then { h with bank1 := vecOf 64 0 l, loading := true } else { h with bank0 := vecOf 64 0 l, loading := true }

/-- Marigold writes a handle bank of a core and ends its load: a write aimed at the active bank is refused and counted; a
bad entry leaves the bank loading; the bound arm is set (R220 to R222, R384). -/
def Die.handleWrite (d : Die) (c : CoreIx) (bank : Bool) (l : List HandleEntry) : Die :=
  if d.cores[c].hdl.act = bank then
    (d.modCore c (fun k => { k with hdl := { k.hdl with wrRef := satAdd k.hdl.wrRef 1, armB := true } })).fault (.hdl c) hdlWrAct
  else
    let d := d.modCore c (fun k => { k with hdl := { k.hdl.standbyBank bank l with armB := true } })
    if handlesOk l then d.modCore c (fun k => { k with hdl := { k.hdl with loading := false } })
    else d.fault (.hdl c) hdlLoadBad

/-- A write of the slot tables of a bank, which changes the standby one alone: one aimed at the active bank is refused, counted,
and sets a sticky bit, which no entry shows (R198, R220; DESIGN CHOICE, log entry 108). -/
def Net.slotWrite (n : Net) (bank : Bool) (t : SlotTables) : Net :=
  if n.act = bank then { n with wrRef := satAdd n.wrRef 1, wrAct := true } else if bank then { n with slots1 := t } else { n with slots0 := t }

/-- A write that names the active instruction bank is refused and counted (R148). -/
def Die.imemRefused (d : Die) (c : CoreIx) : Die :=
  (d.modCore c (fun k => { k with ctl := { k.ctl with wrRef := satAdd k.ctl.wrRef 1 } })).fault (.ctl c) imemWrAct

/-- Marigold writes an instruction bank of a core and ends its load. -/
def Die.programWrite (d : Die) (c : CoreIx) (bank : Bool) (prog : Bytes) : Die :=
  if d.cores[c].ctl.act = bank then d.imemRefused c
  else d.modCore c (fun k => { k with ctl := k.ctl.standbyProgram bank prog })

/-- The end of the load of every core whose instruction bank is loading (R147). -/
def Die.endBanks (d : Die) : Die :=
  { d with cores := d.cores.map (fun k => if k.ctl.sbState = .loading then { k with ctl := { k.ctl with sbState := .complete } } else k) }

/-- For each core first the slot tables, then the handle bank, then the instruction bank, aimed at the banks that were
standby on the die as `old` has it; then every instruction bank that was being loaded is complete. -/
def Die.standby (old d : Die) (x : StandbyDie) : Die :=
  let d := match x.slots with | some t => { d with net := d.net.slotWrite (!old.net.act) t } | none => d
  Die.endBanks (x.cores.foldl (fun d y =>
    let d := match y.2.handles with | some l => d.handleWrite y.1 (!old.cores[y.1].hdl.act) l | none => d
    match y.2.program with
    | some b => d.programWrite y.1 (!old.cores[y.1].ctl.act) b
    | none => d) d)

/-- A write that arrives in a recognition cycle is judged by the roles after that cycle's decision: the decision comes
first (R148, R220). -/
def State.decided (s : State) (n : DieIx) : State :=
  if s.tickDue n then s.tickRecognition n else if s.lateDue n then s.lateRecognition n else s

/-- A die that a standby load still concerns: it runs a plan of the session's job, and its lane works (R19, R384). -/
def State.takesStandby (s : State) (n : DieIx) : Bool :=
  s.dies[n].reached && s.dies[n].plan.any (fun p => p.job = s.hub.dict.load.job)

/-- STANDBY_END. -/
def State.endStandby (s : State) (x : Session) (content : ClearStandby) : State × BitVec 8 :=
  let l := s.hub.dict.load
  if !s.ownsLoad x || !l.standby then (s, 8)
  else
    match s.jobKey l.job with
    | none => s.keyLost
    | some k =>
      let dies := maskDies l.mask
      let part (n : DieIx) : StandbyDie := ((content.dies.find? (fun y => y.1 = n)).map (·.2)).getD { slots := none, cores := [] }
      let bad := (s.envelopeBad x k).orElse fun _ =>
        firstBad dies 196 (fun n => match (part n).slots with | some t => slotTablesOk t | none => true)
      match bad with
      | some (rule, n) => (s.refuseLoad rule n, 0)
      | none =>
        let s := (dies.filter s.takesStandby).foldl (fun s n =>
          let old := s.dies[n]
          (s.decided n).modDie n (fun d => old.standby d (part n))) s
        (s.modLoad (fun l => { l with st := .done, reason := 0, data := [], size := 0 }), 0)

/-- A write of an instruction bank: one that names the active bank is refused and counted (R146 to R148). Bytes past the end
of the bank are dropped (log entry 82). -/
def Die.imemWrite (c : CoreIx) (bank : Bool) (addr : Nat) (data : Bytes) (d : Die) : Die :=
  if d.cores[c].ctl.act = bank then d.imemRefused c
  else
    let put (m : Mem) : Mem := Cells.setN m addr (data.take (bankBytes - addr))
    d.modCore c (fun k => { k with ctl :=
      if bank then { k.ctl with imem1 := put k.ctl.imem1, sbState := .loading }
      else { k.ctl with imem0 := put k.ctl.imem0, sbState := .loading } })

/-- IMEM_STANDBY_WRITE: it travels over the die's management lane (R146), and a die that the lane does not reach keeps what
it has. -/
def execImemStandbyWrite (a : CoreRef) (bank : Bool) (addr : BitVec 18) (data : Bytes) (s : State) : Out :=
  if s.dies[a.die].reached then onDie (s.decided a.die) a.die (Die.imemWrite a.core bank addr.toNat data) else .next s

/-! ### Unload, flip, host sessions (R384, R385) -/

/-- A tenant acts for its own job and for dies free of any plan (R390). -/
def State.tenantMay (s : State) (x : Session) (dies : List DieIx) : Bool :=
  x.role ≠ .tenant || dies.all (fun n => match s.dies[n].plan with | some p => p.tenant = x.digest | none => true)

/-- PLAN_UNLOAD. -/
def State.unload (s : State) (x : Session) : State × BitVec 8 :=
  let dies := maskDies x.mask
  if !s.tenantMay x dies then (s, 3)
  else ((dies.foldl (fun s n => s.unloadDie n) s).settleJobs, 0)

/-- FLIP_ARM and FLIP_DISARM, over the management lanes. One that arrives in a recognition cycle counts first at the next one: the
decision of the cycle comes before it (R149, R220). -/
def State.setFlip (s : State) (x : Session) (v : Bool) : State × BitVec 8 :=
  let dies := maskDies x.mask
  if !s.tenantMay x dies then (s, 3)
  else ((dies.filter (fun n => s.dies[n].reached)).foldl (fun s n => (s.decided n).modDie n (fun d => { d with flipArm := v })) s, 0)

/-- The lowest number from 1 to 0xFFFE that a list does not hold. -/
def freeNumber (used : List (BitVec 16)) : Option (BitVec 16) :=
  ((List.range (used.length + 1)).map (fun i => BitVec.ofNat 16 (i + 1))).find? (fun n => !used.contains n && n ≠ 0xFFFF)

/-- OPEN_HOST_SESSION: at a bridge, for a job of the session's tenant that has its key. -/
def State.openHost (s : State) (x : Session) (job : BitVec 8) : State × BitVec 8 :=
  if s.hostEnd.isNone || s.hub.power.state.toNat < 3 then (s, 8)
  else if s.boundElse job x.digest then (s, 3)
  else
    match s.jobKey job, freeNumber (s.hub.dict.hostSes.map (·.1)) with
    | some k, some n =>
      if k.tenant ≠ x.digest then (s, 3)
      else ((s.modDict (fun d => { d with hostSes := d.hostSes ++ [(n, job)] })).modSession x.num (fun y => { y with host := n }), 0)
    | _, _ => (s, 8)

/-- CLOSE_HOST_SESSION: only for the session's own job, which is its tenant's (R390). -/
def State.closeHost (s : State) (x : Session) (n : BitVec 16) : State × BitVec 8 :=
  match s.hub.dict.hostSes.find? (fun h => h.1 = n) with
  | none => (s, 7)
  | some h =>
    if h.2 ≠ x.job || s.boundElse h.2 x.digest || ((s.jobKey h.2).any (fun k => k.tenant ≠ x.digest)) then (s, 3)
    else (s.modDict (fun d => { d with hostSes := d.hostSes.filter (fun y => y.1 ≠ n) }), 0)

/-- A value written to 0x4000.01 (R384); the operator gives commands 6 and 8 alone (R390). -/
def State.loadCommand (s : State) (x : Session) (v : BitVec 8) (p : ClearPlan) (c : ClearStandby) : State × BitVec 8 :=
  if x.role = .operator && v ≠ 6 && v ≠ 8 then (s, 3)
  else
    match v.toNat with
    | 1 => s.beginLoad x false
    | 2 => s.endLoad x p
    | 3 => s.beginLoad x true
    | 4 => s.endStandby x c
    | 5 => s.abortLoad x
    | 6 => s.unload x
    | 7 => s.setFlip x true
    | 8 => s.setFlip x false
    | _ => (s, 7)

end Sys2Proof.Machine
end

