-- ==== Sys2Proof/Machine/Security.lean ====
section
/-! DEFINITION. Security (chapter 17): attestation, roles and enrolment, job keys, debug unlock, and the restore of the
stored defaults. A pair's second part is the status of R395. -/

namespace Sys2Proof.Machine

/-! ### Identity (R400 to R402) -/

/-- The identity digest. -/
def Sec.digest (x : Sec) : Bytes := Config.sha3 x.idKey

/-- Debug is unlocked (R420, R421): the bit stands until RST_N. -/
def Sec.unlocked (x : Sec) : Bool := bit x.fault dbgUnl.bit

/-- The module's serial in 16 bytes. -/
def serial16 : Bytes := slice (Config.serial.take 16) 0 16

/-! ### Attestation (R405, R406) -/

/-- `dr_state` of a die. -/
def State.dieState (s : State) (n : DieIx) : Nat :=
  let d := s.dies[n]
  if d.pow.fenced then 3
  else if s.hub.power.state = 1 || s.hub.power.state = 2 then 4
  else if d.router.pthru then 2
  else if d.plan.isSome then 1
  else 0

/-- The record of a die in a report. -/
def State.dieRecord (s : State) (n : DieIx) : Bytes :=
  let (job, meas, tenant) := match s.dies[n].plan with
    | some p => (p.job, p.meas, p.tenant)
    | none => (0, [], [])
  [job] ++ leBytes 1 (s.dieState n) ++ slice [] 0 6 ++ slice meas 0 32 ++ slice tenant 0 32

/-- Bytes 0 to 775 of a report. -/
def State.reportBody (s : State) : Bytes :=
  let h := s.hub
  leBytes 4 0x52415A59 ++ leBytes 2 1 ++ leBytes 2 3196 ++ leBytes 4 productCode ++ leBytes 1 0xA1
    ++ leBytes 1 (h.fw.booted.toNat % 128 + 128 * b2n h.fw.fallback) ++ slice [] 0 2 ++ slice h.sec.nonce 0 32
    ++ slice h.sec.digest 0 32 ++ slice Config.mRom 0 32 ++ slice h.fw.meas 0 32 ++ leBytes 4 h.fw.svn.toNat
    ++ leBytes 4 h.fwSeen.floor.toNat ++ slice h.sec.mCfg 0 32 ++ leBytes 8 h.time.tc.toNat ++ leBytes 4 h.sec.seen.unlocks.toNat
    ++ leBytes 1 h.sec.scope.toNat ++ slice [] 0 3 ++ (List.finRange 8).flatMap s.dieRecord

/-- ATTESTATION_NONCE: the state right after the write is kept, and the report is built from it within 200 ms. -/
def State.nonceWrite (s : State) (v : Bytes) : State × BitVec 8 :=
  if v.length ≠ 32 then (s, 6)
  else
    let s := s.modSec (fun x => { x with nonce := v, report := [], readyAt := some (s.now + msCounts 200) })
    (s.modSec (fun x => { x with snap := s.reportBody }), 0)

/-- ATTESTATION_READY: the report is signed. -/
def State.reportReady (s : State) : State :=
  if s.hub.sec.readyAt.isSome && s.hub.fw.running then
    s.modSec (fun x => { x with report := x.snap ++ x.sign "YZB8 attest" x.snap, snap := [], readyAt := none })
  else s

def execAttestationReady (s : State) : Out := .next s.reportReady

/-! ### Roles and enrolment (R408, R409) -/

/-- A service certificate fits a key and this module. -/
def serviceCertOk (key cert : Bytes) : Bool :=
  cert.length = 2468 && slice cert 0 32 = Config.sha3 key
  && (slice cert 32 16 = serial16 || slice cert 32 16 = slice [] 0 16)
  && Config.dsaVerify Config.yilzonKey "YZB8 service" (slice cert 0 48) (slice cert 48 2420)

/-- The terms of R408 on a role key. -/
def State.roleOk (s : State) (route : Route) (role : Role) (key : Bytes) (cert : Option Bytes) : Bool :=
  match role with
  | .operator => s.hub.sec.opKeys.toList.any (fun k => !k.isEmpty && k = key)
      || (s.hub.sec.opKeys.toList.all (·.isEmpty) && route = .fieldPort)
  | .tenant => s.hub.sec.seen.tenants.toList.any (fun t => t = some (Config.sha3 key))
  | .vendor => match cert with | some c => serviceCertOk key c | none => false

/-- The first operator key is kept (R408). -/
def State.firstOperator (s : State) (role : Role) (key : Bytes) : State :=
  if role = .operator && s.hub.sec.opKeys.toList.all (·.isEmpty) then
    s.modHub (fun h => Hub.takeCfg (Hub.event { h with sec := { h.sec with opKeys := vupd h.sec.opKeys 0 (fun _ => key) } } 3 0x0F 0 408 0xFF []))
  else s

/-- A session closes; a load it owns and has not ended is aborted (R384, R391). -/
def State.closeSession (s : State) (num : BitVec 16) : State :=
  let s := if s.hub.dict.load.st = .receiving && s.hub.dict.load.owner = num then s.dropLoad.settleJobs else s
  s.modDict (fun d => { d with sessions := d.sessions.filter (fun x => x.num ≠ num) })

/-- An enrolment record passes its checks. -/
def State.enrolOk (s : State) (r : Bytes) : Bool :=
  let op := leAt r 0 1
  r.length = 2464 && (op = 1 || op = 2) && decide (leAt r 1 1 < 16) && decide (leAt r 2 1 < 8) && leAt r 3 1 = 0
  && (op = 1 || slice r 4 32 = slice [] 0 32) && decide (s.hub.sec.seen.enrCtr < leAt r 36 8) && !s.hub.sec.unlocked
  && !(s.hub.sec.opKeys.toList.getD (leAt r 2 1) []).isEmpty
  && Config.dsaVerify (s.hub.sec.opKeys.toList.getD (leAt r 2 1) []) "YZB8 enrol" (slice r 0 44) (slice r 44 2420)

/-- An enrolment record that an open request carries. A revoke closes every session of the revoked key. -/
def State.enrol (s : State) (r : Bytes) : State :=
  if s.enrolOk r then
    let slot : Fin 16 := Fin.ofNat 16 (leAt r 1 1)
    let old := s.hub.sec.seen.tenants[slot]
    let new : Option Bytes := if leAt r 0 1 = 1 then some (slice r 4 32) else none
    let s := s.modSec (fun x => Sec.sealSlots { x with enrCtr := leAt r 36 8, tenants := vupd x.seen.tenants slot (fun _ => new) })
    if new.isSome then s
    else (s.hub.dict.sessions.filter (fun x => x.role = .tenant && some x.digest = old)).foldl (fun s x => s.closeSession x.num) s
  else s.modHub (fun h => h.secFault enrBad)

/-! ### Job keys (R410) -/

/-- Bytes of an offer for a seed. -/
def State.offerBytes (s : State) (x : Session) (job : BitVec 8) (seed : Bytes) : Bytes :=
  let body := [job] ++ slice [] 0 3 ++ slice x.digest 0 32 ++ slice (Config.kemPublic seed) 0 1184
  body ++ s.hub.sec.sign "YZB8 job" body

/-- A read of 0x4020.01: a fresh offer where the read begins at its first byte, else the offer in progress. -/
def State.offer (s : State) (x : Session) (fresh : Bool) : State × Option Bytes :=
  if x.role ≠ .tenant || s.hub.sec.unlocked then (s, none)
  else
    match x.offer, fresh with
    | some (j, seed), false => (s, some (s.offerBytes x j seed))
    | _, _ =>
      let seed := slice (Config.freshBytes s.hubKey 64) 0 64
      let s := s.drew.modSession x.num (fun y => { y with offer := some (x.job, seed) })
      (s, some (s.offerBytes x x.job seed))

/-- JOB_KEY_CAPSULE. -/
def State.capsule (s : State) (x : Session) (v : Bytes) : State × BitVec 8 :=
  if v.length ≠ 1092 then (s, 6)
  else
    match x.offer with
    | none => (s, 8)
    | some (job, seed) =>
      if s.boundElse job x.digest then (s, 3)
      else if s.jobRuns job || s.hub.sec.unlocked then (s, 8)
      else if v.headD 0 ≠ job || slice v 1 3 ≠ slice [] 0 3 then (s, 7)
      else
        let ss := Config.kemDecap seed (slice v 4 1088)
        let k : JobKey := { job := job, tenant := x.digest, key := shakeN 32 (strBytes "YZB8 job" ++ ss ++ [job] ++ x.digest),
                            at_ := s.now, maxSerial := 0, loaded := false }
        let s := s.eraseKey job
        let s := s.modSec (fun y => { y with keys := y.keys ++ [k] })
        (s.modSession x.num (fun y => { y with offer := none }), 0)

/-! ### Debug (R418 to R421) -/

/-- A token fits this module and its challenge. -/
def Sec.tokenOk (x : Sec) (v : Bytes) : Bool :=
  leAt v 0 4 = 0x47445A59 && slice v 4 16 = serial16 && slice v 20 32 = x.digest && slice v 52 32 = x.chal
  && decide (leAt v 84 1 < 8) && slice v 85 3 = slice [] 0 3
  && Config.dsaVerify Config.yilzonKey "YZB8 debug" (slice v 0 88) (slice v 88 2420)

/-- Every plan stops at once and is cleared (R416, R420). -/
def State.stopPlans (s : State) : State := { s with dies := s.dies.map (Die.endPlan s.now) }

/-- An accepted token, in the order of R420; a scope stays open until RST_N, and a later token adds to it (R421). The count rises
from the stored one, which never falls, whatever its tag says (DESIGN CHOICE, log entry 66). -/
def State.unlock (s : State) (scope : BitVec 8) : State :=
  let s := s.modSec (fun x => Sec.sealUnlocks { x with unlocks := satAdd x.unlocks 1 })
  let s := s.stopPlans.dropLoad
  let s := { s with dies := s.dies.map (fun (d : Die) => { d with keyReg := [] }) }
  let s := (s.modSec (fun x => { x with keys := [] })).closeHosts
  let s := s.modDict (fun d => { d with sessions := d.sessions.filter (fun (x : Session) => x.role ≠ Role.tenant), bindings := [] })
  let s := s.modHub (fun h => h.secFault dbgUnl)
  s.modSec (fun x => { x with scope := x.scope ||| scope })

/-- DEBUG_UNLOCK_TOKEN; a fresh challenge is drawn after each token. -/
def State.token (s : State) (v : Bytes) : State × BitVec 8 :=
  if v.length ≠ 2508 then (s, 6)
  else
    let ok := s.hub.sec.tokenOk v
    let s := (s.modSec (fun x => { x with chal := slice (Config.freshBytes s.hubKey 32) 0 32 })).drew
    if ok then (s.unlock (v.getD 84 0), 0) else (s.modHub (fun h => h.secFault dbgBad), 7)

/-! ### Restore of the defaults (R382) -/

/-- Every plan on the module fits a frame period (R204, R308). -/
def State.periodFits (s : State) (t : Nat) : Bool :=
  s.dies.toList.all (fun d => match d.plan with | some p => budgetOk p.frameLen p.allow p.theta t | none => true)

/-- RESTORE_DEFAULTS: every stored entry but identity, keys and coordinates. -/
def State.restore (s : State) (v : BitVec 16) : State × BitVec 8 :=
  if v ≠ 0x10AD then (s, 7)
  else if !s.periodFits 8000 then (s, 9)
  else
    (s.modHub (fun h => Hub.takeCfg { h with
      time := { h.time with period := 8000, root := false }
      power := { h.power with cap := 3400, rails := h.power.rails.map (fun r => { r with addr := 0 }) }
      bring := { h.bring with gate := 0 }
      dict := { h.dict with plcaNode := 0xFF, plcaCount := 8, plcaAt := h.time.wall, hostPort := 0xFF, bridge := 0xFFFFFFFF, coolant := 0 }
      rec_ := { h.rec_ with minSev := 2 } }), 0)

end Sys2Proof.Machine
end

