-- ==== Sys2Proof/Machine/Status.lean ====
section
/-! DEFINITION. The values of the status entries: the die, core and counter ranges of R387 to R389, ports and routers
(R350, R351, R353), and the module summary (R430). -/

namespace Sys2Proof.Machine

/-! ### Die-level entries (R387) -/

/-- DRAM status (R253). -/
def Die.dramStatus (d : Die) : U64 :=
  word64 [field 0 4 d.dbl.toNat, field 4 1 (b2n (match d.plan with | some p => p.double | none => false)), field 5 1 (b2n d.pow.clearing)]

/-- Clock status (R300). -/
def Die.clockStatus (d : Die) : U64 :=
  word64 [field 0 10 d.clock.fwLast.toNat, field 10 10 d.clock.fwMin.toNat, field 20 10 d.clock.thrDuty.toNat,
    field 30 10 d.clock.thrMax.toNat]

/-- Frame status, counts and late record (R310). -/
def Frames.status (f : Frames) : U64 := word64 [field 0 48 f.fnum.toNat, field 48 1 (b2n f.frun), field 49 1 (b2n f.flate)]
def Frames.counts (f : Frames) : U64 := word64 [field 0 32 f.ovr.toNat, field 32 32 f.skip.toNat]
def Frames.late (f : Frames) : U64 := word64 [field 0 48 f.lateFrame.toNat, field 48 1 (b2n f.lateAny)]

/-- Frame validity (R270). -/
def Frames.validity (f : Frames) : U64 := word64 [field 0 48 f.invFrame.toNat, field 48 1 (b2n f.invAny), field 49 15 f.invCnt.toNat]

/-- Stretch status of a region (R297). -/
def Clock.stretchStatus (k : Clock) (r : Fin 8) : U64 := word64 [field 0 32 k.rsCnt[r].toNat, field 32 4 k.rsMax[r].toNat]

/-- An entry of a die at B + 0x00; none where the subindex does not exist. -/
def Die.dieEntry (d : Die) (sub : Nat) : Option U64 :=
  match sub with
  | 0x01 => some d.hold.fault
  | 0x02 => some d.hold.capture
  | 0x03 => some d.dramStatus
  | 0x04 => some d.clockStatus
  | 0x05 => some d.frm.fault
  | 0x06 => some d.frm.status
  | 0x07 => some d.frm.counts
  | 0x08 => some d.frm.late
  | 0x09 => some d.frm.validity
  | _ =>
    if h : 0x10 ≤ sub ∧ sub - 0x10 < 13 then some (d.hold.hcnt[sub - 0x10]'h.2)
    else if 0x20 ≤ sub ∧ sub < 0x28 then some (d.clock.stretchStatus (Fin.ofNat 8 (sub - 0x20)))
    else none

/-! ### Core entries (R388) -/

/-- Instruction-memory status (R150). -/
def BankState.code : BankState → Nat
  | .empty => 0 | .loading => 1 | .complete => 2

def Die.imemStatus (d : Die) (c : CoreIx) : U64 :=
  let k := d.cores[c].ctl
  word64 [field 0 1 (b2n k.act), field 1 1 (b2n d.flipArm), field 2 2 k.sbState.code, field 4 16 k.wrRef.toNat]

/-- Handle status (R224). -/
def Handles.status (h : Handles) : U64 :=
  word64 [field 0 1 (b2n h.act), field 1 1 (b2n h.armP), field 2 1 (b2n h.armB), field 3 1 (b2n h.loading), field 4 16 h.wrRef.toNat]

/-- Message status (R284). -/
def Rings.status (r : Rings) : U64 :=
  word64 [field 0 4 r.rot.toNat, field 4 3 r.nout, field 8 4 r.nkLast.toNat, field 12 4 r.nkRing.toNat, field 16 16 r.nkTag.toNat,
    field 32 32 r.nkCnt.toNat]

/-- A summary register (R108). -/
def Summary.word (x : Summary) : U64 := word64 [field 0 32 x.val.toNat, field 32 2 x.ty.toNat, field 34 1 (b2n x.poison)]

/-- Opcode and slot of a descriptor (R171, R231). -/
def DescOp.code : DescOp → Nat × Bool
  | .ldd => (1, false) | .sfill => (2, false) | .scopy => (3, false) | .scount => (4, false) | .std => (1, true) | .str => (2, true)

/-- Stream-unit status (R231). -/
def Stream.status (x : Stream) : U64 :=
  let (op, st) := match x.places.head? with | some y => y.op.code | none => (0, false)
  word64 [field 0 3 x.places.length, field 3 4 op, field 7 1 (b2n st), field 8 32 x.ndone.toNat]

/-- Scrub reports of a channel (R254). -/
def Chan.report0 (x : Chan) : U64 := word64 [field 0 32 x.icCnt.toNat, field 32 16 x.ocRd.toNat, field 48 16 x.ocSc.toNat]
def Chan.report1 (x : Chan) : U64 :=
  word64 [field 0 16 x.ueCnt.toNat, field 16 21 x.ueSec.toNat, field 37 1 (b2n x.ueSrc), field 38 1 (b2n x.ueValid),
    field 39 21 x.patPos.toNat, field 60 4 x.patPass.toNat]

/-- Ring declaration and pointer words (R275, R276). -/
def Ring.declWord (r : Ring) : U64 :=
  word64 [field 0 1 (b2n r.en), field 1 1 (b2n r.host), field 2 4 r.qsz.toNat, field 8 11 r.base.toNat]
def Ring.word (r : Ring) (w : Nat) : U64 :=
  match w with
  | 0 => word64 [field 0 32 r.wp.toNat, field 32 32 r.rp.toNat]
  | 1 => word64 [field 0 32 r.wres.toNat, field 32 32 r.nacc.toNat]
  | _ => word64 [field 0 16 r.nref.toNat]

/-- A general entry of core c at B + 0x20 + c. -/
def Die.coreEntry (d : Die) (c : CoreIx) (sub : Nat) : Option U64 :=
  let k := d.cores[c]
  match sub with
  | 0x01 => some (d.imemStatus c)
  | 0x02 => some k.ctl.cap.word
  | 0x03 => some k.ctl.fault
  | 0x04 => some k.vec.fault
  | 0x05 => some k.hdl.status
  | 0x06 => some k.hdl.fault
  | 0x07 => some k.sync.fault
  | 0x08 => some k.sync.cap.word
  | 0x09 => some k.sync.wcap.word0
  | 0x0A => some k.sync.wcap.word1
  | 0x0B => some k.rings.status
  | 0x0C => some k.rings.fault
  | 0x0D => some k.fault
  | _ =>
    if 0x10 ≤ sub && sub < 0x18 then some (k.vec.vs[(Fin.ofNat 8 (sub - 0x10) : Fin 8)]).word
    else if 0x20 ≤ sub && sub < 0x2C then
      let x := k.st[(Fin.ofNat 6 ((sub - 0x20) / 2) : Fin 6)]
      some (if sub % 2 = 0 then x.status else x.fault)
    else if 0x40 ≤ sub && sub < 0x70 then
      let x := k.vault.chans[(Fin.ofNat 16 ((sub - 0x40) / 3) : Fin 16)]
      some (match (sub - 0x40) % 3 with | 0 => x.fault | 1 => x.report0 | _ => x.report1)
    else if 0x80 ≤ sub && sub < 0xC0 then
      let x := k.rings.q[(Fin.ofNat 16 ((sub - 0x80) / 4) : Fin 16)]
      some (if sub % 4 = 0 then x.declWord else x.word (sub % 4 - 1))
    else none

/-- Word w of a counter (R255). -/
def Counter.word (x : Counter) (w : Nat) : U64 :=
  match w with
  | 0 => word64 [x.s.toNat]
  | 1 => word64 [x.c.toNat]
  | _ => word64 [field 0 48 x.depth.toNat, field 48 1 (b2n x.decl)]

/-- A counter word of core c at B + 0x40 + c (R389). -/
def Die.counterEntry (d : Die) (c : CoreIx) (sub : Nat) : Option U64 :=
  if 1 ≤ sub && sub ≤ 0xC0 then
    some ((d.cores[c].sync.ctr[(Fin.ofNat 64 ((sub - 1) / 3) : Fin 64)]).word ((sub - 1) % 3))
  else none

/-- Highest subindex of a per-die record; none where the index does not exist. -/
def dieHighest (off : Nat) : Option Nat :=
  if off = 0 then some 0x27 else if 0x20 ≤ off && off < 0x40 then some 0xBF else if 0x40 ≤ off && off < 0x60 then some 0xC0 else none

/-- The value at offset and subindex of a die's range. -/
def Die.entry (d : Die) (off sub : Nat) : Option U64 :=
  if off = 0 then d.dieEntry sub
  else if off < 0x40 then d.coreEntry (Fin.ofNat 32 (off - 0x20)) sub
  else d.counterEntry (Fin.ofNat 32 (off - 0x40)) sub

/-- The unit whose fault word stands at an offset and subindex (R429). -/
def faultUnit (off sub : Nat) : Option DieUnit :=
  if off = 0 then (match sub with | 0x01 => some .sched | 0x05 => some .clock | _ => none)
  else if 0x20 ≤ off && off < 0x40 then
    let c : CoreIx := Fin.ofNat 32 (off - 0x20)
    match sub with
    | 0x03 => some (.ctl c)
    | 0x04 => some (.vec c)
    | 0x06 => some (.hdl c)
    | 0x07 => some (.sync c)
    | 0x0C => some (.rings c)
    | 0x0D => some (.core c)
    | _ =>
      if 0x20 ≤ sub && sub < 0x2C && sub % 2 = 1 then some (.stream c (Fin.ofNat 6 ((sub - 0x21) / 2)))
      else if 0x40 ≤ sub && sub < 0x70 && (sub - 0x40) % 3 = 0 then some (.chan c (Fin.ofNat 16 ((sub - 0x40) / 3)))
      else none
  else none

/-- A capture rearms when its bits are 0 after a write to the fault word (R154, R205, R274). -/
def Die.rearm (d : Die) : DieUnit → Die
  | .ctl c => if d.cores[c].ctl.fault &&& 3 = 0 then
      d.modCore c (fun k => { k with ctl := { k.ctl with cap := { k.ctl.cap with valid := false } } }) else d
  | .sync c => if d.cores[c].sync.fault &&& 0xF = 0 then
      d.modCore c (fun k => { k with sync := { k.sync with cap := { k.sync.cap with valid := false } } }) else d
  | .sched => if d.hold.fault &&& 5 = 0 then
      { d with hold := { d.hold with capture := clrBit d.hold.capture 63 } } else d
  | _ => d

/-- A write of w1c bits to a unit's fault word: a bit set in the same cycle stays (R7, R379). -/
def Die.clearFault (d : Die) (u : DieUnit) (v : U64) : Die :=
  (d.modFault (fun w => w &&& ~~~(v &&& ~~~d.setThisCycle u)) u).rearm u

/-! ### Ports and routers (R350, R351, R353) -/

/-- Port status. -/
def Port.status (x : Port) : U64 :=
  word64 [field 0 3 x.link.st.code, field 3 2 x.nb.code, field 5 1 (b2n x.link.enc), field 6 1 (b2n x.link.kep), field 8 8 x.trnCnt.toNat,
    field 16 32 x.keyCnt.toNat]

def Port.counters0 (x : Port) : U64 := word64 [field 0 32 x.crcErr.toNat, field 32 32 x.rplCnt.toNat]
def Port.counters1 (x : Port) : U64 := word64 [field 0 32 x.fecCorr.toNat, field 32 16 x.fecUnc.toNat, field 48 16 x.tagErr.toNat]

/-- Router status. -/
def Router.status (r : Router) : U64 :=
  word64 [field 0 1 (b2n r.act), field 1 1 (b2n r.arm), field 2 1 (b2n r.notReady), field 3 1 (b2n r.pthru), field 16 48 r.frame.toNat]

/-! ### The module summary (R430) -/

/-- Every unit of a die with the unit kind of its records. -/
def dieUnits : List (DieUnit × BitVec 8) :=
  [(.sched, 9), (.clock, 0x0A), (.router, 0x0B)] ++ (List.finRange 32).flatMap (fun c =>
    [(.ctl c, 1), (.core c, 2), (.vec c, 3), (.hdl c, 5), (.sync c, 6), (.rings c, 7)]
      ++ (List.finRange 6).map (fun u => (.stream c u, 4)) ++ (List.finRange 16).map (fun j => (.chan c j, 8)))

/-- Device-scope bits of a unit kind; every bit of a router is device-scope. -/
def deviceBits (kind : BitVec 8) : U64 := if kind = 0x0B then ~~~0 else deviceMask kind

def Die.jobSet (d : Die) : Bool := dieUnits.any (fun u => d.faultOf u.1 &&& ~~~(deviceBits u.2) ≠ 0)
def Die.deviceSet (d : Die) : Bool := dieUnits.any (fun u => d.faultOf u.1 &&& deviceBits u.2 ≠ 0)

/-- A mask with a bit for each element of a list that a test picks. -/
def maskOf {α : Type} (p : α → Bool) : List α → Nat
  | [] => 0
  | x :: r => b2n (p x) + 2 * maskOf p r

/-- 0x5000.01. -/
def State.summary (s : State) : U64 :=
  let dies := s.dies.toList
  word64 [field 0 8 (maskOf Die.jobSet dies), field 8 8 (maskOf Die.deviceSet dies),
    field 16 8 (maskOf (fun (d : Die) => bit d.frm.fault 0 && bit d.frm.fault 4) dies), field 24 8 (maskOf (fun (d : Die) => d.pow.fenced) dies),
    field 32 24 (maskOf (fun (x : Port) => x.fault ≠ 0) s.ports.toList), field 56 1 (b2n (s.hub.fault ≠ 0)),
    field 57 1 (b2n (s.hub.sec.fault ≠ 0)), field 58 1 (b2n (s.droppedCount ≠ 0)),
    field 59 1 (b2n (s.hub.rec_.slots.any (fun x => decide (5 ≤ x.2.ev.sev))))]

end Sys2Proof.Machine
end

