-- ==== Sys2Proof/Machine/Entries.lean ====
section
/-! DEFINITION. The entries of the object dictionary: which exist, their types and access classes (R377 to R382), the
roles (R390), and the value and the effect of each. -/

namespace Sys2Proof.Machine

/-! ### Types and classes (R378, R379) -/

/-- Access classes. -/
inductive Access where
  | const_ | ro | rw | wo | admin
  deriving DecidableEq, Repr

/-- Type code, access class, and the longest value of an STR or OCTETS entry. -/
structure EntryKind where
  ty   : Nat
  acc  : Access
  most : Nat := 0
  deriving DecidableEq, Repr

/-- Bytes of a fixed-size type; none for STR and OCTETS. -/
def typeBytes (ty : Nat) : Option Nat :=
  match ty with
  | 1 | 2 => some 1
  | 3 => some 2
  | 4 | 6 | 8 => some 4
  | 5 | 7 | 9 => some 8
  | _ => none

def kU8 (a : Access) : EntryKind := { ty := 2, acc := a }
def kU16 (a : Access) : EntryKind := { ty := 3, acc := a }
def kU32 (a : Access) : EntryKind := { ty := 4, acc := a }
def kU64 (a : Access) : EntryKind := { ty := 5, acc := a }
def kBool (a : Access) : EntryKind := { ty := 1, acc := a }
def kF32 (a : Access) : EntryKind := { ty := 8, acc := a }
def kStr (a : Access) : EntryKind := { ty := 10, acc := a, most := 64 }
def kOct (a : Access) (most : Nat) : EntryKind := { ty := 11, acc := a, most := most }

/-- Per-die offset of an index from 0x8000 to 0x87FF. -/
def dieIndex (idx : Nat) : DieIx × Nat := (Fin.ofNat 8 ((idx - 0x8000) / 0x100), (idx - 0x8000) % 0x100)

/-- Highest subindex of an index; none where the index does not exist (R381). 0x1008 holds one value, at subindex 0. -/
def highest (idx : Nat) : Option Nat :=
  match idx with
  | 0x1008 => some 0 | 0x1018 => some 4 | 0x1010 => some 1 | 0x1100 => some 4
  | 0x2000 => some 6 | 0x2010 => some 4 | 0x2020 => some 8 | 0x2030 => some 8 | 0x2040 => some 1 | 0x2050 => some 2
  | 0x2060 => some 12 | 0x2070 => some 12 | 0x2080 => some 1 | 0x2090 => some 8
  | 0x3000 => some 8 | 0x3010 => some 24 | 0x3020 => some 24 | 0x3030 => some 24 | 0x3040 => some 24 | 0x3050 => some 24
  | 0x3060 => some 8 | 0x3070 => some 8 | 0x3080 => some 8 | 0x3090 => some 8 | 0x30A0 => some 24 | 0x30B0 => some 8
  | 0x4000 => some 5 | 0x4010 => some 1 | 0x4020 => some 2 | 0x4100 => some 5 | 0x4110 => some 6 | 0x4200 => some 1
  | 0x4300 => some 3 | 0x5000 => some 1 | 0x5010 => some 6 | 0x6000 => some 5 | 0x6010 => some 8 | 0x6020 => some 2
  | 0x6030 => some 3 | 0x7000 => some 6 | 0x7010 => some 1
  | _ => if 0x8000 ≤ idx ∧ idx < 0x8800 then dieHighest (dieIndex idx).2 else none

/-- Kind of an entry of the ranges below 0x3000 (R376, R382, R456). -/
def kindLow (idx sub : Nat) : Option EntryKind :=
  match idx, sub with
  | 0x1008, _ => some (kStr .const_)
  | 0x1018, 1 | 0x1018, 2 => some (kU32 .const_)
  | 0x1018, 3 => some (kU8 .const_)
  | 0x1018, 4 => some (kStr .const_)
  | 0x1010, _ => some (kU16 .wo)
  | 0x1100, 1 | 0x1100, 2 => some (kU8 .admin)
  | 0x1100, 3 => some (kOct .const_ 6)
  | 0x1100, 4 => some (kU8 .ro)
  | 0x2000, 1 => some (kU8 .rw)
  | 0x2000, 4 => some (kU32 .ro)
  | 0x2000, 5 => some (kU8 .wo)
  | 0x2000, _ => some (kU8 .ro)
  | 0x2010, 1 => some (kU32 .rw)
  | 0x2010, 2 => some (kU32 .ro)
  | 0x2010, 3 => some (kF32 .ro)
  | 0x2010, 4 => some (kU16 .ro)
  | 0x2020, _ => some (kU8 .admin)
  | 0x2030, _ => some (kOct .ro 64)
  | 0x2040, _ => some (kOct .ro 4)
  | 0x2050, 1 => some (kF32 .ro)
  | 0x2050, 2 => some (kU8 .admin)
  | 0x2060, _ => some (kU8 .admin)
  | 0x2070, _ => some (kOct .ro 12)
  | 0x2080, _ => some (kU64 .rw)
  | 0x2090, _ => some (kU8 .ro)
  | _, _ => none

/-- Kind of an entry of the ranges 0x3000 to 0x4FFF (R305, R308, R354, R383, R424, R429). -/
def kindMid (idx sub : Nat) : Option EntryKind :=
  match idx, sub with
  | 0x3000, 1 | 0x3000, 2 | 0x3000, 4 => some (kU32 .admin)
  | 0x3000, 3 | 0x3000, 7 => some (kU8 .admin)
  | 0x3000, 5 => some (kU32 .ro)
  | 0x3000, 6 => some (kOct .admin 4096)
  | 0x3000, 8 => some (kBool .wo)
  | 0x3010, _ | 0x3020, _ | 0x3030, _ | 0x3090, _ => some (kU64 .ro)
  | 0x3040, _ => some (kOct .ro 224)
  | 0x3050, _ => some (kU8 .admin)
  | 0x3060, _ => some (kBool .admin)
  | 0x3070, _ => some (kOct .admin 1056)
  | 0x3080, _ => some (kU64 .admin)
  | 0x30A0, _ | 0x30B0, _ => some (kU64 .rw)
  | 0x4000, 1 => some (kU8 .wo)
  | 0x4000, 2 => some (kU8 .ro)
  | 0x4000, 3 | 0x4000, 4 => some (kU8 .rw)
  | 0x4000, 5 => some (kU16 .ro)
  | 0x4010, _ => some (kOct .wo 4096)
  | 0x4020, 1 => some (kOct .ro 3640)
  | 0x4020, 2 => some (kOct .wo 1092)
  | 0x4100, 1 | 0x4100, 4 | 0x4100, 5 => some (kU32 .rw)
  | 0x4100, 2 => some (kU32 .ro)
  | 0x4100, 3 => some (kU64 .ro)
  | 0x4110, 1 => some (kU64 .ro)
  | 0x4110, 2 => some (kBool .admin)
  | 0x4110, 4 => some { ty := 6, acc := .ro }
  | 0x4110, _ => some (kU8 .ro)
  | 0x4200, _ => some (kOct .ro 64)
  | 0x4300, 1 => some (kU8 .wo)
  | 0x4300, 2 => some (kU16 .ro)
  | 0x4300, 3 => some (kU16 .wo)
  | _, _ => none

/-- Kind of an entry of the ranges from 0x5000 on (R376, R386, R387, R424, R440). A write to a w1c entry is of class rw. -/
def kindHigh (idx sub : Nat) : Option EntryKind :=
  match idx, sub with
  | 0x5000, _ => some (kU64 .ro)
  | 0x5010, 1 | 0x5010, 3 => some (kU32 .rw)
  | 0x5010, 2 => some (kOct .ro 64)
  | 0x5010, 4 => some (kU64 .ro)
  | 0x5010, 5 => some (kU8 .wo)
  | 0x5010, 6 => some (kU8 .rw)
  | 0x6000, 1 => some (kOct .wo 32)
  | 0x6000, 2 => some (kOct .ro 3196)
  | 0x6000, 3 => some (kOct .ro 1312)
  | 0x6000, 4 => some (kOct .ro 3756)
  | 0x6000, 5 => some (kU64 .rw)
  | 0x6010, _ => some (kOct .admin 1312)
  | 0x6020, 1 => some (kOct .wo 2464)
  | 0x6020, 2 => some (kOct .ro 528)
  | 0x6030, 1 => some (kOct .wo 2508)
  | 0x6030, 2 => some (kOct .ro 32)
  | 0x6030, 3 => some (kU32 .ro)
  | 0x7000, 1 => some (kU8 .wo)
  | 0x7000, 2 | 0x7000, 3 => some (kU8 .ro)
  | 0x7000, _ => some (kU32 .ro)
  | 0x7010, _ => some (kOct .wo 4096)
  | _, _ =>
    if 0x8000 ≤ idx ∧ idx < 0x8800 then
      if (faultUnit (dieIndex idx).2 sub).isSome then some (kU64 .rw) else some (kU64 .ro)
    else none

/-- Kind of an entry whose index and subindex exist; subindex 0 of a record is its highest subindex (R377). -/
def kindOf (idx sub : Nat) : Option EntryKind :=
  if sub = 0 && idx ≠ 0x1008 then some (kU8 .const_)
  else if idx < 0x3000 then kindLow idx sub
  else if idx < 0x5000 then kindMid idx sub
  else kindHigh idx sub

/-- The subindex exists. -/
def subExists (idx sub : Nat) : Bool :=
  match highest idx with
  | none => false
  | some m => decide (sub ≤ m) && (decide (idx < 0x8000) || sub = 0 || ((Die.init 0).entry (dieIndex idx).2 sub).isSome)

/-! ### Roles (R390) -/

/-- The role may use the index for reads. -/
def State.roleReads (s : State) (x : Session) (idx : Nat) : Bool :=
  match x.role with
  | .operator | .vendor => idx ≠ 0x6020
  | .tenant =>
    (0x1000 ≤ idx && idx < 0x2000) || (0x4000 ≤ idx && idx < 0x5000) || (0x6000 ≤ idx && idx < 0x7000)
    || (0x8000 ≤ idx && match s.dies[(dieIndex idx).1].plan with | some p => p.tenant = x.digest | none => false)

/-- The role may use the index for writes. -/
def roleWrites (r : Role) (idx sub : Nat) : Bool :=
  match r with
  | .operator => !([0x1010, 0x4010, 0x4300, 0x6020, 0x6030].contains idx)
  | .vendor => !([0x4000, 0x4010, 0x4020, 0x4300, 0x6020].contains idx)
  | .tenant => (0x4000 ≤ idx && idx < 0x5000) || (idx = 0x6000 && sub = 1)

/-- Status of a read before the entry's own checks (R395). -/
def State.mayRead (s : State) (x : Session) (idx sub : Nat) : BitVec 8 :=
  if (highest idx).isNone then 1
  else if !subExists idx sub then 2
  else if !s.roleReads x idx then 3
  else match kindOf idx sub with
    | some k => if k.acc = .wo then 4 else 0
    | none => 2

/-- Status of a write before the entry's own checks. -/
def mayWrite (r : Role) (idx sub : Nat) : BitVec 8 :=
  if (highest idx).isNone then 1
  else if !subExists idx sub then 2
  else if !roleWrites r idx sub then 3
  else match kindOf idx sub with
    | some k =>
      if k.acc = .const_ || k.acc = .ro then 5
      else if k.acc = .admin && r = .tenant then 3
      else 0
    | none => 2

/-! ### Values -/

/-- A temperature in eighths of a degree as a signed 16-bit count. -/
def temp16 (t : Int) : Bytes := leBytes 2 (BitVec.ofInt 16 t).toNat

/-- The F32 nearest to a power in µW, in W (R365). -/
def wattsF32 (uw : Nat) : U32 := toF (.fin false uw 1000000 0)

/-- An element of a vector by subindex, from 1. -/
def nth {α : Type} {n : Nat} (v : Vector α n) (dflt : α) (sub : Nat) : α := v.toList.getD (sub - 1) dflt

def UpdState.code : UpdState → Nat
  | .idle => 0 | .receiving => 1 | .verified => 3 | .failed => 4 | .pending => 5

def LoadSt.code : LoadSt → Nat
  | .idle => 0 | .receiving => 1 | .checking => 2 | .done => 3 | .refused => 4

def DieResult.code : DieResult → Nat
  | .notUp => 0 | .ready => 1 | .dramFailed => 2 | .vcoreFailed => 3 | .fencedCmd => 4

/-- Values below 0x2000. -/
def State.value1 (s : State) (idx sub : Nat) : Bytes :=
  match idx, sub with
  | 0x1008, _ => strBytes "YZB8-A"
  | 0x1018, 1 => leBytes 4 0x5A19
  | 0x1018, 2 => leBytes 4 productCode
  | 0x1018, 3 => leBytes 1 0xA1
  | 0x1018, _ => Config.serial.take 16
  | 0x1100, 1 => [s.hub.dict.plcaNode]
  | 0x1100, 2 => [s.hub.dict.plcaCount]
  | 0x1100, 3 => slice Config.macAddress 0 6
  | _, _ => leBytes 1 s.hub.dict.sessions.length

/-- Values of 0x2000 to 0x2FFF. -/
def State.value2 (s : State) (idx sub : Nat) : Bytes :=
  let h := s.hub
  let d := nth s.dies (Die.init 0) sub
  let r := nth h.power.rails {} sub
  match idx, sub with
  | 0x2000, 1 => [h.power.written]
  | 0x2000, 2 => [h.power.state]
  | 0x2000, 3 => [h.bring.step]
  | 0x2000, 4 => leBytes 4 h.bring.ready.toNat
  | 0x2000, _ => [h.bring.removal]
  | 0x2010, 1 => leBytes 4 h.power.cap.toNat
  | 0x2010, 2 => leBytes 4 h.power.capForce.toNat
  | 0x2010, 3 => leBytes 4 (wattsF32 h.power.powerUw).toNat
  | 0x2010, _ => leBytes 2 h.power.duty
  | 0x2020, _ => leBytes 1 (b2n d.pow.fenced)
  | 0x2030, _ => d.logic.toList.flatMap temp16 ++ d.temps.toList.flatMap temp16
  | 0x2040, _ => h.sens.hub.toList.flatMap temp16
  | 0x2050, 1 => leBytes 4 h.sens.inlet.toNat
  | 0x2050, _ => [h.dict.coolant]
  | 0x2060, _ => [r.addr]
  | 0x2070, _ => leBytes 4 r.mv ++ leBytes 4 r.ma ++ temp16 r.temp8 ++ leBytes 2 r.status.toNat
  | 0x2080, _ => leBytes 8 h.fault.toNat
  | _, _ => leBytes 1 d.pow.result.code

/-- Values of 0x3000 to 0x3FFF. A route image is read from the standby bank. -/
def State.value3 (s : State) (idx sub : Nat) : Bytes :=
  let h := s.hub
  let d := nth s.dies (Die.init 0) sub
  let x := nth s.ports .init sub
  match idx, sub with
  | 0x3000, 1 => leBytes 4 h.dict.base.toNat
  | 0x3000, 2 => leBytes 4 h.dict.size.toNat
  | 0x3000, 3 => [h.dict.hostPort]
  | 0x3000, 4 => leBytes 4 h.dict.bridge.toNat
  | 0x3000, 5 => leBytes 4 h.dict.topoGen.toNat
  | 0x3000, 6 => h.dict.groupLog.flatMap id
  | 0x3000, _ => [h.bring.gate]
  | 0x3010, _ => leBytes 8 x.status.toNat
  | 0x3020, _ => leBytes 8 x.counters0.toNat
  | 0x3030, _ => leBytes 8 x.counters1.toNat
  | 0x3040, _ => x.lastAnn
  | 0x3050, _ => [x.cmd]
  | 0x3060, _ => leBytes 1 (b2n d.router.pthru)
  | 0x3070, _ => if d.router.act then d.router.image0 else d.router.image1
  | 0x3080, _ => leBytes 8 d.router.frame.toNat
  | 0x3090, _ => leBytes 8 d.router.status.toNat
  | 0x30A0, _ => leBytes 8 x.fault.toNat
  | _, _ => leBytes 8 d.router.fault.toNat

/-- 0x4200.01: sequence slots held by loaded plans (R25). -/
def State.slotsHeld (s : State) : Bytes :=
  let held (k : Nat) : Bool := s.dies.toList.any (fun d => match d.plan with | some p => p.seqSlots.any (fun x => x.val = k) | none => false)
  (List.range 64).map (fun i => BitVec.ofNat 8 (maskOf (fun b => held (8 * i + b)) (List.range 8)))

/-- Values of 0x4000 to 0x4FFF, but for the offer. -/
def State.value4 (s : State) (x : Session) (idx sub : Nat) : Bytes :=
  let h := s.hub
  match idx, sub with
  | 0x4000, 2 => leBytes 1 h.dict.load.st.code
  | 0x4000, 3 => [x.job]
  | 0x4000, 4 => [x.mask]
  | 0x4000, _ => leBytes 2 h.dict.load.reason.toNat
  | 0x4100, 1 => leBytes 4 h.time.period.toNat
  | 0x4100, 2 => leBytes 4 h.time.inForce.toNat
  | 0x4100, 3 => leBytes 8 h.time.lastTick.toNat
  | 0x4100, 4 => leBytes 4 h.dict.wd.toNat
  | 0x4100, _ => leBytes 4 h.dict.margin.toNat
  | 0x4110, 1 => leBytes 8 h.time.tc.toNat
  | 0x4110, 2 => leBytes 1 (b2n h.time.root)
  | 0x4110, 3 => [h.time.align]
  | 0x4110, 4 => leBytes 4 h.time.offset.toNat
  | 0x4110, 5 => [h.time.upstream]
  | 0x4110, _ => [h.time.hops]
  | 0x4200, _ => s.slotsHeld
  | _, _ => leBytes 2 x.host.toNat

/-- Values from 0x5000 on. -/
def State.value5 (s : State) (x : Session) (idx sub : Nat) : Bytes :=
  let h := s.hub
  match idx, sub with
  | 0x5000, _ => leBytes 8 s.summary.toNat
  | 0x5010, 1 => leBytes 4 x.pos.toNat
  | 0x5010, 2 => h.rec_.at_ x.pos
  | 0x5010, 3 => leBytes 4 s.droppedCount.toNat
  | 0x5010, 4 => leBytes 8 h.rec_.newest.toNat
  | 0x5010, _ => [h.rec_.minSev]
  | 0x6000, 2 => h.sec.report
  | 0x6000, 3 => slice h.sec.idKey 0 1312
  | 0x6000, 4 => h.sec.cert
  | 0x6000, _ => leBytes 8 h.sec.fault.toNat
  | 0x6010, _ => nth h.sec.opKeys [] sub
  | 0x6020, _ => h.sec.seen.tenants.toList.flatMap tenantSlot
  | 0x6030, 2 => slice h.sec.chal 0 32
  | 0x6030, _ => leBytes 4 (h.sec.scope.toNat + 256 * h.sec.seen.unlocks.toNat)
  | 0x7000, 2 => leBytes 1 h.fw.upd.code
  | 0x7000, 3 => [h.fw.booted]
  | 0x7000, 4 => leBytes 4 (if slotOk h.fw.slotA h.fwSeen.floor then fwVer h.fw.slotA else 0)
  | 0x7000, 5 => leBytes 4 (if slotOk h.fw.slotB h.fwSeen.floor then fwVer h.fw.slotB else 0)
  | 0x7000, _ => leBytes 4 h.fwSeen.floor.toNat
  | _, _ =>
    let (n, off) := dieIndex idx
    leBytes 8 ((s.dies[n].entry off sub).getD 0).toNat

/-- The value of an entry that may be read. -/
def State.value (s : State) (x : Session) (idx sub : Nat) : Bytes :=
  if sub = 0 && idx ≠ 0x1008 then leBytes 1 ((highest idx).getD 0)
  else if idx < 0x2000 then s.value1 idx sub
  else if idx < 0x3000 then s.value2 idx sub
  else if idx < 0x4000 then s.value3 idx sub
  else if idx < 0x5000 then s.value4 x idx sub
  else s.value5 x idx sub

/-! ### Writes. A pair's second part is the status of R395. -/

/-- The die or port of a subindex. -/
def dieOf (sub : Nat) : DieIx := Fin.ofNat 8 (sub - 1)
def portAt (sub : Nat) : PortIx := Fin.ofNat 24 (sub - 1)

/-- 0x1100.01: a new node number takes effect 10 ms after the write (R397). -/
def State.writePlca (s : State) (v : BitVec 8) : State × BitVec 8 :=
  if v.toNat < 8 || v = 0xFF then
    (s.modHub (fun h => Hub.takeCfg { h with dict := { h.dict with plcaNode := v, plcaAt := h.time.wall + msCounts 10 } }), 0)
  else (s, 7)

/-- 0x2000.05. -/
def State.writeRemoval (s : State) (v : BitVec 8) : State × BitVec 8 :=
  if v = 1 then s.removalRequest else if v = 2 then s.removalCancel else (s, 7)

/-- 0x2010.01 (R365). -/
def State.writeCap (s : State) (v : U32) : State × BitVec 8 :=
  if 800 ≤ v.toNat && v.toNat ≤ 3400 then (s.modHub (fun h => { h with power := { h.power with cap := v } }), 0) else (s, 7)

/-- 0x2080.01: every bit but `ttrip` clears (R375). -/
def State.writeMrgFault (s : State) (v : U64) : State × BitVec 8 :=
  (s.modHub (fun h => { h with fault := h.fault &&& ~~~(v &&& 0x17F &&& ~~~h.setNow) }), 0)

/-- Axis a of a coordinate or size entry. -/
def axisField (v : U32) (a : Nat) : Nat := bits v.toNat (8 * a + 5) (8 * a)

/-- A value keeps the rules that concern it alone: even on every axis, and a size within its limits (R331). -/
def coordOwn (size : Bool) (v : U32) : Bool :=
  (List.range 3).all (fun a => axisField v a % 2 = 0 && (!size || decide (axisField v a ≤ if a = 2 then 32 else 16)))

/-- The base coordinate lies below the system size on every axis (R331). -/
def coordsFit (base size : U32) : Bool := (List.range 3).all (fun a => decide (axisField base a < axisField size a))

/-- After a write of a coordinate every Up port is Seen again (R455). -/
def State.reverify (s : State) : State :=
  allPorts.foldl (fun s p =>
    if s.ports[p].link.st = .up && (s.ports[p].nb = .verified || s.ports[p].nb = .admitted) then
      (s.modPort p (fun x => { x with nb := .seen })).raiseTopo
    else s) s

/-- 0x3000.04 without its reserved bits (R9); all ones is no bridge. -/
def bridgeWord (w : U32) : U32 := if w = 0xFFFFFFFF then w else w &&& 0xFF3F3F3F

/-- Ports are trained now: bring-up has reached step 6 and the module is not in Off. -/
def State.portsLive (s : State) : Bool := s.trains && (s.bringing || decide (1 ≤ s.hub.power.state.toNat))

/-- A port begins anew: Unused, or Disabled as it was, and from there trained where it is used. -/
def State.portAnew (s : State) (p : PortIx) : State :=
  let e := LinkEnd.port p
  let s := if (s.link e).trained then s.linkDown e .unused 6 else s
  let s := s.modLink e (fun l => if l.st = .disabled then l else { Link.init with st := .unused })
  if s.portsLive then s.wakeEnd e else s

/-- A port goes to Unused on an axis one module deep, and leaves it on a deeper one (R16, R317, R332). -/
def State.fitPort (s : State) (p : PortIx) : State :=
  if s.portUsed p = ((s.link (.port p)).st = .unused) then s.portAnew p else s

/-- COORDINATE_WRITE: 0x3000.01 or .02 (R331, R336, R455). -/
def State.writeCoord (s : State) (size : Bool) (v : U32) : State × BitVec 8 :=
  let v := v &&& 0x3F3F3F
  let base := if size then s.hub.dict.base else v
  let dims := if size then v else s.hub.dict.size
  if !coordOwn size v then (s, 7)
  else if s.anyPlan then (s, 8)
  else if !coordsFit base dims then (s, 7)
  else
    let s := s.modHub (fun h => Hub.takeCfg { h with dict := { h.dict with base := base, size := dims } })
    (allPorts.foldl State.fitPort s.defaultRoutes.reverify, 0)

/-- 0x3000.03: the port that becomes host-facing and the one that no longer is train anew (R28, R348). -/
def State.writeHostPort (s : State) (v : BitVec 8) : State × BitVec 8 :=
  if 24 ≤ v.toNat && v ≠ 0xFF then (s, 7)
  else if v = s.hub.dict.hostPort then (s, 0)
  else
    let old := s.hostEnd
    let s := s.modHub (fun h => Hub.takeCfg { h with dict := { h.dict with hostPort := v } })
    let s := match old with | some p => s.portAnew p | none => s
    (match s.hostEnd with | some p => s.portAnew p | none => s, 0)

/-- RESTORE_DEFAULTS with what follows from the entries that change: the host-facing port is given up, and the choice of the time
root is made anew (R382). -/
def State.restoreAll (s : State) (v : BitVec 16) : State × BitVec 8 :=
  let t := s.restore v
  if t.2 ≠ 0 then t else (((s.writeHostPort 0xFF).1.restore v).1.chooseUpstream, 0)

/-- Writes of 0x1000 to 0x2FFF. -/
def State.write12 (s : State) (idx sub : Nat) (v : Bytes) : State × BitVec 8 :=
  let b := v.headD 0
  match idx, sub with
  | 0x1010, _ => s.restoreAll (BitVec.ofNat 16 (leNat v))
  | 0x1100, 1 => s.writePlca b
  | 0x1100, _ => (s.modDict (fun d => { d with plcaCount := b }), 0)
  | 0x2000, 1 => s.askState b
  | 0x2000, _ => s.writeRemoval b
  | 0x2010, _ => s.writeCap (BitVec.ofNat 32 (leNat v))
  | 0x2020, _ => s.dieCommand (dieOf sub) b
  | 0x2050, _ => (s.modDict (fun d => { d with coolant := b }), 0)
  | 0x2060, _ => (s.modRail (Fin.ofNat 12 (sub - 1)) (fun r => { r with addr := b }), 0)
  | _, _ => s.writeMrgFault (BitVec.ofNat 64 (leNat v))

/-- 0x3050.p+1 (R317, R330, R454). -/
def State.portCommand (s : State) (p : PortIx) (v : BitVec 8) : State × BitVec 8 :=
  let e := LinkEnd.port p
  let keep (s : State) : State := s.modPort p (fun x => { x with cmd := v })
  match v.toNat with
  | 0 =>
    let s := keep s
    (if s.sleeps then s else s.toFullRate p, 0)
  | 1 =>
    let s := if (s.link e).trained then s.linkDown e .disabled 6 else s.modLink e (fun _ => { Link.init with st := .disabled })
    (keep s, 0)
  | 2 => (keep (s.toLowRate p), 0)
  | 3 =>
    let s := keep s
    let s := if (s.link e).st = .disabled then
        (s.modLink e (fun _ => Link.init)) |> fun s => if s.portsLive then s.wakeEnd e else s
      else s
    (s, 0)
  | _ => (s, 7)

/-- 0x3060.n+1 (R340): a die that leaves pass-through clears its DRAM before it accepts a plan. -/
def State.writePass (s : State) (n : DieIx) (v : BitVec 8) : State × BitVec 8 :=
  if v = 0 then
    if s.dies[n].router.pthru then
      (s.modDie n (fun d =>
        let d := { d with router := { d.router with pthru := false }, pow := { d.pow with leaving := d.pow.trained } }
        if d.pow.trained then d.startClear s.now else d), 0)
    else (s, 0)
  else if v ≠ 1 then (s, 7)
  else if s.dies[n].plan.isSome then (s, 8)
  else (s.modDie n (Die.passThrough s.now), 0)

/-- ROUTE_IMAGE_WRITE: 0x3070.n+1 (R339). -/
def State.writeRoute (s : State) (n : DieIx) (v : Bytes) : State × BitVec 8 :=
  if v.length ≠ 1056 then (s, 6)
  else
    let (s, ok) := s.writeImage n v
    (s, if ok then 0 else 7)

/-- 0x3080.n+1: F in [47:0], 0 disarms; reserved bits are ignored (R9, R339). -/
def State.writeSwap (s : State) (n : DieIx) (v : U64) : State × BitVec 8 :=
  let f : BitVec 48 := v.extractLsb' 0 48
  (s.modDie n (fun d => { d with router := { d.router with arm := f ≠ 0, frame := f } }), 0)

/-- Writes of 0x3000 to 0x3FFF. -/
def State.write3 (s : State) (idx sub : Nat) (v : Bytes) : State × BitVec 8 :=
  let b := v.headD 0
  let w := BitVec.ofNat 32 (leNat v)
  let q := BitVec.ofNat 64 (leNat v)
  match idx, sub with
  | 0x3000, 1 => s.writeCoord false w
  | 0x3000, 2 => s.writeCoord true w
  | 0x3000, 3 => s.writeHostPort b
  | 0x3000, 4 => (s.modHub (fun h => Hub.takeCfg { h with dict := { h.dict with bridge := bridgeWord w } }), 0)
  | 0x3000, 6 => if v.isEmpty then (s.modDict (fun d => { d with groupLog := [] }), 0) else (s, 7)
  | 0x3000, 7 => if b.toNat ≤ 1 then (s.modHub (fun h => { h with bring := { h.bring with gate := b } }), 0) else (s, 7)
  | 0x3000, _ => if b = 1 then s.admitRelease else (s, 0)
  | 0x3050, _ => s.portCommand (portAt sub) b
  | 0x3060, _ => s.writePass (dieOf sub) b
  | 0x3070, _ => s.writeRoute (dieOf sub) v
  | 0x3080, _ => s.writeSwap (dieOf sub) q
  | 0x30A0, _ => (s.modPort (portAt sub) (fun x => { x with fault := x.fault &&& ~~~(q &&& ~~~x.setNow) }), 0)
  | _, _ => (s.modDie (dieOf sub) (fun d => d.clearFault .router q), 0)

/-- 0x4100.01 (R204, R308). -/
def State.writePeriod (s : State) (v : U32) : State × BitVec 8 :=
  if v.toNat < 250 || 65000 < v.toNat then (s, 7)
  else if !s.periodFits v.toNat then (s, 9)
  else (s.modHub (fun h => { h with time := { h.time with period := v } }), 0)

/-- 0x4100.04 and .05 (R207, R208). -/
def State.writeLimit (s : State) (run : Bool) (v : U32) : State × BitVec 8 :=
  if v.toNat < 4096 || 268435456 < v.toNat then (s, 7)
  else (s.modDict (fun d => if run then { d with margin := v } else { d with wd := v }), 0)

/-- Writes of 0x4000 to 0x4FFF, with the clear content that end load and end standby bring. -/
def State.write4 (s : State) (x : Session) (idx sub : Nat) (v : Bytes) (p : ClearPlan) (c : ClearStandby) : State × BitVec 8 :=
  let b := v.headD 0
  let w := BitVec.ofNat 32 (leNat v)
  match idx, sub with
  | 0x4000, 1 => s.loadCommand x b p c
  | 0x4000, 3 => if b = 0 then (s, 7) else (s.modSession x.num (fun y => { y with job := b }), 0)
  | 0x4000, _ => (s.modSession x.num (fun y => { y with mask := b }), 0)
  | 0x4010, _ => s.planChunk x v
  | 0x4020, _ => s.capsule x v
  | 0x4100, 1 => if s.tenantMay x (List.finRange 8) then s.writePeriod w else (s, 3)
  | 0x4100, 4 => if s.tenantMay x (List.finRange 8) then s.writeLimit false w else (s, 3)
  | 0x4100, _ => if s.tenantMay x (List.finRange 8) then s.writeLimit true w else (s, 3)
  | 0x4110, _ => (s.modHub (fun h => { h with time := { h.time with root := b = 1 } }) |>.chooseUpstream, 0)
  | 0x4300, 1 => s.openHost x b
  | _, _ => s.closeHost x (BitVec.ofNat 16 (leNat v))

/-- 0x5010.01 (R440). -/
def posOk (v : U32) : Bool := bits v.toNat 30 13 = 0 && (!bit v 31 || decide (bits v.toNat 12 0 < mirrorSlots))

/-- 0x5010.03: a write of 0 clears the count. -/
def State.clearDropped (s : State) : State :=
  { s.modHub (fun h => { h with rec_ := { h.rec_ with dropped := 0 } }) with dies := s.dies.map (fun (d : Die) => { d with evLost := 0 }) }

/-- 0x6010.k. -/
def State.writeOpKey (s : State) (k : Nat) (v : Bytes) : State × BitVec 8 :=
  if v.length = 0 || v.length = 1312 then
    (s.modHub (fun h => Hub.takeCfg { h with sec := { h.sec with opKeys := vupd h.sec.opKeys (Fin.ofNat 8 k) (fun _ => v) } }), 0)
  else (s, 6)

/-- Writes from 0x5000 on. -/
def State.write5 (s : State) (x : Session) (idx sub : Nat) (v : Bytes) : State × BitVec 8 :=
  let b := v.headD 0
  let w := BitVec.ofNat 32 (leNat v)
  let q := BitVec.ofNat 64 (leNat v)
  match idx, sub with
  | 0x5010, 1 => if posOk w then (s.modSession x.num (fun y => { y with pos := w }), 0) else (s, 7)
  | 0x5010, 3 => if w = 0 then (s.clearDropped, 0) else (s, 7)
  | 0x5010, 5 => s.recCommand x.role b
  | 0x5010, _ => if 1 ≤ b.toNat && b.toNat ≤ 4 then (s.modHub (fun h => { h with rec_ := { h.rec_ with minSev := b } }), 0) else (s, 7)
  | 0x6000, 1 => s.nonceWrite v
  | 0x6000, _ => (s.modSec (fun y => { y with fault := y.fault &&& ~~~(q &&& 0x2E &&& ~~~y.setNow) }), 0)
  | 0x6010, _ => s.writeOpKey (sub - 1) v
  | 0x6030, _ => s.token v
  | 0x7000, _ => s.updCommand b
  | 0x7010, _ => s.updChunk v
  | _, _ =>
    let (n, off) := dieIndex idx
    match faultUnit off sub with
    | some u => (s.modDie n (fun d => d.clearFault u q), 0)
    | none => (s, 5)

/-- The value's length fits its type (R378). -/
def fits (k : EntryKind) (v : Bytes) : Bool :=
  match typeBytes k.ty with
  | some n => v.length = n
  | none => decide (v.length ≤ k.most)

/-- A value of the right length that its type refuses: a BOOL other than 0 and 1, a NaN (R378, R395). -/
def offType (k : EntryKind) (v : Bytes) : Bool :=
  (k.ty = 1 && decide (1 < (v.headD 0).toNat)) || (k.ty = 8 && (fp32 (BitVec.ofNat 32 (leNat v))).isNan)

/-- The entries that a session writes and the MRAM keeps (R380). -/
def storedEntry (idx sub : Nat) : Bool :=
  (idx = 0x1100 && decide (sub ≤ 2)) || (idx = 0x2010 && sub = 1) || (idx = 0x2050 && sub = 2) || idx = 0x2060
  || (idx = 0x3000 && (decide (sub ≤ 4) || sub = 7)) || (idx = 0x4100 && sub = 1) || (idx = 0x4110 && sub = 2)
  || (idx = 0x5010 && sub = 6) || idx = 0x6010

/-- The die that an entry acts on, over its management lane (R19). -/
def laneDie (idx sub : Nat) : Option DieIx :=
  if 0x8000 ≤ idx then some (dieIndex idx).1
  else if [0x3060, 0x3070, 0x3080, 0x3090, 0x30B0].contains idx && sub ≠ 0 then some (dieOf sub) else none

/-- The lane that an entry needs has failed: the request is refused in the present state (log entry 89). -/
def State.laneAway (s : State) (idx sub : Nat) : Bool := (laneDie idx sub).any (fun n => !s.dies[n].reached)

/-- A write of a stored entry whose commit fails keeps the old value (R380, R395). -/
def commit (s : State) (keeps mramOk : Bool) (t : State × BitVec 8) : State × BitVec 8 :=
  if keeps && !mramOk && t.2 = 0 then (s, 0x0B) else t

/-- The entry's own checks and its effect. -/
def State.effect (s : State) (x : Session) (idx sub : Nat) (v : Bytes) (p : ClearPlan) (c : ClearStandby) : State × BitVec 8 :=
  if idx < 0x3000 then s.write12 idx sub v
  else if idx < 0x4000 then s.write3 idx sub v
  else if idx < 0x5000 then s.write4 x idx sub v p c
  else s.write5 x idx sub v

/-- A whole value is written by a session, judged in the order of R395. -/
def State.writeEntry (s : State) (x : Session) (idx sub : Nat) (v : Bytes) (p : ClearPlan) (c : ClearStandby)
    (mramOk : Bool := true) : State × BitVec 8 :=
  let st := mayWrite x.role idx sub
  if st ≠ 0 then (s, st)
  else
    match kindOf idx sub with
    | none => (s, 2)
    | some k =>
      if !fits k v then (s, 6)
      else if offType k v then (s, 7)
      else if s.laneAway idx sub then (s, 8)
      else commit s (storedEntry idx sub) mramOk (s.effect x idx sub v p c)

end Sys2Proof.Machine
end

