-- ==== Sys2Proof/Machine/Dict.lean ====
section
/-! DEFINITION. Sessions and requests of the object dictionary (R390 to R396, R407, R408): opening and closing, the gate
of sequence numbers, reads, segmented writes, and the writes that the opcode table names as rows of their own. -/

namespace Sys2Proof.Machine

/-! ### Who hears a request -/

/-- Entries of R376. -/
def romEntry (idx sub : Nat) : Bool :=
  (idx = 0x2000 && decide (sub ≤ 2)) || [0x2010, 0x2020, 0x2030, 0x2040, 0x2050, 0x2060, 0x2070, 0x2080, 0x7000, 0x7010].contains idx

/-- A request comes in-band only by a trained port, so that the 10BASE-T1S port alone reaches a module in Off (R450). -/
def State.reachedBy (s : State) (route : Route) : Bool := route = .fieldPort || s.ports.toList.any (fun x => x.link.trained)

/-- Running firmware answers every entry; a module left in the hub ROM only those of R376, on the field port (R372). -/
def State.hears (s : State) (route : Route) (idx sub : Nat) : Bool :=
  s.reachedBy route && !s.hub.board.rstLow && (s.hub.fw.running || (s.hub.bring.romOnly && route = .fieldPort && romEntry idx sub))

/-- Who hears an open, a proof or a close. -/
def State.hearsOpen (s : State) (route : Route) : Bool :=
  s.reachedBy route && !s.hub.board.rstLow && (s.hub.fw.running || (s.hub.bring.romOnly && route = .fieldPort))

/-! ### The gate of R392 and R396 -/

/-- A response that carries no value; one to a write gives the length of the value written (R394). -/
def bare (pt st : BitVec 8) (tot : Nat := 0) : Response := { pt := pt, st := st, ty := 0, tot := tot, value := [] }

/-- A discarded request counts; the sixteenth closes the session. -/
def State.discardReq (s : State) (x : Session) : State :=
  if 15 ≤ x.bad then s.closeSession x.num else s.modSession x.num (fun y => { y with bad := y.bad + 1 })

/-- The response of an executed request is kept, to be sent once more if asked. -/
def State.reply (s : State) (r : Req) (o : Response) : State :=
  s.modSession r.ses (fun y => { y with rseq := r.rseq, lastAt := s.now, resp := some o })

/-- Type code of an entry (R378); 0 where it does not exist. -/
def entryType (idx sub : Nat) : Nat := if subExists idx sub then ((kindOf idx sub).map (·.ty)).getD 0 else 0

/-- A response names the entry and the offset of its request, with the entry's type code, and gives the length of the whole value;
where it carries none, that of a value of the type (R394; DESIGN CHOICE, log entry 128). -/
def Response.at_ (o : Response) (idx : BitVec 16) (sub : BitVec 8) (off : BitVec 32 := 0) : Response :=
  let ty := entryType idx.toNat sub.toNat
  { o with idx := idx, sub := sub, off := off, ty := BitVec.ofNat 8 ty, tot := if o.tot = 0 then (typeBytes ty).getD 0 else o.tot }

/-- One request of a session: discarded, answered from the stored response, refused because it breaks off a segmented
write, or executed. `cont` says whether the request continues the session's segments, and `name` gives a response the
entry and the offset of the request (R394). -/
def State.request (s : State) (r : Req) (heard : Bool) (pt : BitVec 8) (name : Response → Response) (cont : Session → Bool)
    (act : State → Session → State × Response) : State :=
  if !heard then s
  else
    match s.session r.ses with
    | none => s
    | some x =>
      if r.tagOk && r.rseq = x.rseq && x.resp.isSome then s.modSession r.ses (fun y => { y with lastAt := s.now })
      else if !r.tagOk || r.rseq ≠ x.rseq + 1 then s.discardReq x
      else if x.seg.isSome && !cont x then (s.modSession r.ses (fun y => { y with seg := none })).reply r (name (bare pt 0x0A))
      else
        let t := act s x
        t.1.reply r (name t.2)

/-! ### Reads (R396) -/

/-- The part of a value that a read takes. -/
def cut (v : Bytes) (off len : Nat) : Bytes := (v.drop off).take len

/-- DICT_READ judged in the order of R395. The offer of 0x4020.01 is drawn by the read itself (R410), and 0x6000.02 holds
nothing until its report is ready (R406). -/
def State.readEntry (s : State) (x : Session) (idx sub off len : Nat) : State × Response :=
  let st := s.mayRead x idx sub
  let good (s : State) (ty : Nat) (v : Bytes) : State × Response :=
    (s, { pt := 0x81, st := 0, ty := BitVec.ofNat 8 ty, tot := v.length, value := cut v off len })
  if st ≠ 0 then (s, bare 0x81 st)
  else
    match kindOf idx sub with
    | none => (s, bare 0x81 2)
    | some k =>
      if len = 0 || 1024 < len || (off ≠ 0 && (typeBytes k.ty).isSome) then (s, bare 0x81 6)
      else if idx = 0x4020 && sub = 1 then
        match s.offer x (off = 0) with
        | (t, some v) => good t k.ty v
        | (t, none) => (t, bare 0x81 8)
      else if idx = 0x6000 && sub = 2 && s.hub.sec.report.isEmpty then (s, bare 0x81 8)
      else if s.laneAway idx sub then (s, bare 0x81 8)
      else good s k.ty (s.value x idx sub)

def State.readReq (s : State) (r : Req) (idx sub off len : Nat) : State :=
  s.request r (s.hears r.route idx sub) 0x81 (·.at_ (BitVec.ofNat 16 idx) (BitVec.ofNat 8 sub) (BitVec.ofNat 32 off))
    (fun _ => false) (fun s x => s.readEntry x idx sub off len)

def execDictRead (r : Req) (idx : BitVec 16) (sub : BitVec 8) (off : BitVec 32) (len : BitVec 16) (s : State) : Out :=
  .next (s.readReq r idx.toNat sub.toNat off.toNat len.toNat)

/-- JOB_KEY_OFFER: a read of 0x4020.01. -/
def execJobKeyOffer (r : Req) (off : BitVec 32) (len : BitVec 16) (s : State) : Out :=
  .next (s.readReq r 0x4020 1 off.toNat len.toNat)

/-- DISCOVERY_READ: const entries of 0x1000 to 0x1FFF, on the field port alone (R390). -/
def State.discover (s : State) (route : Route) (idx sub off len : Nat) : State :=
  let answer (o : Response) : State :=
    let o := o.at_ (BitVec.ofNat 16 idx) (BitVec.ofNat 8 sub) (BitVec.ofNat 32 off)
    s.modDict (fun d => { d with lastDisc := some o })
  if !s.hub.fw.running || s.hub.board.rstLow || !s.reachedBy route then s
  else if (highest idx).isNone then answer (bare 0x81 1)
  else if !subExists idx sub then answer (bare 0x81 2)
  else
    match kindOf idx sub with
    | none => answer (bare 0x81 2)
    | some k =>
      if route ≠ .fieldPort || idx < 0x1000 || 0x2000 ≤ idx || k.acc ≠ .const_ then answer (bare 0x81 3)
      else if len = 0 || 1024 < len || (off ≠ 0 && (typeBytes k.ty).isSome) then answer (bare 0x81 6)
      else
        let v := if sub = 0 && idx ≠ 0x1008 then leBytes 1 ((highest idx).getD 0) else s.value1 idx sub
        answer { pt := 0x81, st := 0, ty := BitVec.ofNat 8 k.ty, tot := v.length, value := cut v off len }

def execDiscoveryRead (route : Route) (idx : BitVec 16) (sub : BitVec 8) (off : BitVec 32) (len : BitVec 16) (s : State) : Out :=
  .next (s.discover route idx.toNat sub.toNat off.toNat len.toNat)

/-! ### Writes (R396) -/

/-- Clear content of a container that an untyped write of 0x4000.01 ends (log entry 12). -/
def noPlan : ClearPlan :=
  { seqSlots := [], seed := 0, boxOrigin := (0, 0, 0), boxSize := (1, 1, 1), frameLen := 0, theta := 0, allow := 0, dies := [] }
def noStandby : ClearStandby := { dies := [] }

/-- A whole value, with the response that it gets. -/
def State.writeWhole (s : State) (x : Session) (idx sub : Nat) (v : Bytes) (p : ClearPlan) (c : ClearStandby) (mramOk : Bool) :
    State × Response :=
  let t := s.writeEntry x idx sub v p c mramOk
  (t.1, bare 0x82 t.2 v.length)

/-- The buffered bytes of a session's segmented write, and its whole length. -/
def Session.buffer (x : Session) : Bytes := match x.seg with | some (_, _, _, b) => b | none => []
def Session.whole (x : Session) (tot : Nat) : Nat := match x.seg with | some (_, _, t, _) => t | none => tot

/-- The segment continues what the session has buffered. -/
def Session.continues (idx : BitVec 16) (sub : BitVec 8) (off : Nat) (x : Session) : Bool :=
  match x.seg with
  | some (i, u, _, b) => i = idx && u = sub && off = b.length
  | none => false

/-- A PDU of a write: a value, or a segment of one. -/
def State.writeSegment (s : State) (x : Session) (idx : BitVec 16) (sub : BitVec 8) (off tot : Nat) (more : Bool) (v : Bytes)
    (mramOk : Bool) : State × Response :=
  let keep (g : Option (BitVec 16 × BitVec 8 × Nat × Bytes)) (s : State) : State := s.modSession x.num (fun y => { y with seg := g })
  let all := x.buffer ++ v
  let n := x.whole tot
  let st := mayWrite x.role idx.toNat sub.toNat
  let scalar := match kindOf idx.toNat sub.toNat with | some k => (typeBytes k.ty).isSome | none => false
  let most := match kindOf idx.toNat sub.toNat with | some k => k.most | none => 0
  if st ≠ 0 then (keep none s, bare 0x82 st n)
  else if 1024 < v.length then (keep none s, bare 0x82 6 n)
  else if off ≠ x.buffer.length then (keep none s, bare 0x82 0x0A n)
  else if more then
    if scalar || most < n || n < all.length then (keep none s, bare 0x82 6 n) else (keep (some (idx, sub, n, all)) s, bare 0x82 0 n)
  else if all.length ≠ n then (keep none s, bare 0x82 6 n)
  else (keep none s).writeWhole { x with seg := none } idx.toNat sub.toNat all noPlan noStandby mramOk

/-- A write PDU of a session. -/
def State.writeReq (s : State) (r : Req) (idx : BitVec 16) (sub : BitVec 8) (off tot : BitVec 32) (more : Bool) (value : Bytes) : State :=
  s.request r (s.hears r.route idx.toNat sub.toNat) 0x82 (·.at_ idx sub off) (Session.continues idx sub off.toNat)
    (fun s x => s.writeSegment x idx sub off.toNat tot.toNat more value r.mramOk)

def execDictWrite (r : Req) (idx : BitVec 16) (sub : BitVec 8) (off tot : BitVec 32) (more : Bool) (value : Bytes) (s : State) : Out :=
  .next (s.writeReq r idx sub off tot more value)

/-- A row of the table that stands for the write of one entry: the whole value, in one request (or its last segment). -/
def State.put (s : State) (r : Req) (idx sub : Nat) (v : Bytes) (p : ClearPlan := noPlan) (c : ClearStandby := noStandby) : Out :=
  .next (s.request r (s.hears r.route idx sub) 0x82 (·.at_ (BitVec.ofNat 16 idx) (BitVec.ofNat 8 sub)) (fun _ => false)
    (fun s x => s.writeWhole x idx sub v p c r.mramOk))

/-! ### Power, dies and removal (R361, R368, R456) -/

def execPowerStateRequest (r : Req) (v : BitVec 8) (s : State) : Out := s.put r 0x2000 1 [v]
def execDieFence (r : Req) (d : DieIx) (s : State) : Out := s.put r 0x2020 (d.val + 1) [1]
def execDieRelease (r : Req) (d : DieIx) (s : State) : Out := s.put r 0x2020 (d.val + 1) [2]
def execRemovalRequest (r : Req) (s : State) : Out := s.put r 0x2000 5 [1]
def execRemovalCancel (r : Req) (s : State) : Out := s.put r 0x2000 5 [2]
def execAdmissionRelease (r : Req) (s : State) : Out := s.put r 0x3000 8 [1]

/-! ### Firmware update (R371) -/

def execUpdateBegin (r : Req) (s : State) : Out := s.put r 0x7000 1 [1]
def execUpdateChunk (r : Req) (chunk : Bytes) (s : State) : Out := s.put r 0x7010 1 chunk
def execUpdateVerify (r : Req) (s : State) : Out := s.put r 0x7000 1 [2]
def execUpdateActivate (r : Req) (s : State) : Out := s.put r 0x7000 1 [3]
def execUpdateAbort (r : Req) (s : State) : Out := s.put r 0x7000 1 [4]
def execUpdateRestart (r : Req) (s : State) : Out := s.put r 0x7000 1 [5]
def execUpdateCommit (r : Req) (s : State) : Out := s.put r 0x7000 1 [6]

/-! ### Plans (R383 to R385) -/

def execLoadBegin (r : Req) (s : State) : Out := s.put r 0x4000 1 [1]
def execPlanChunk (r : Req) (chunk : Bytes) (s : State) : Out := s.put r 0x4010 1 chunk
def execLoadEnd (r : Req) (plan : ClearPlan) (s : State) : Out := s.put r 0x4000 1 [2] plan
def execStandbyBegin (r : Req) (s : State) : Out := s.put r 0x4000 1 [3]
def execStandbyEnd (r : Req) (content : ClearStandby) (s : State) : Out := s.put r 0x4000 1 [4] noPlan content
def execLoadAbort (r : Req) (s : State) : Out := s.put r 0x4000 1 [5]
def execPlanUnload (r : Req) (s : State) : Out := s.put r 0x4000 1 [6]
def execFlipArm (r : Req) (s : State) : Out := s.put r 0x4000 1 [7]
def execFlipDisarm (r : Req) (s : State) : Out := s.put r 0x4000 1 [8]
def execOpenHostSession (r : Req) (job : BitVec 8) (s : State) : Out := s.put r 0x4300 1 [job]
def execCloseHostSession (r : Req) (host : BitVec 16) (s : State) : Out := s.put r 0x4300 3 (leBytes 2 host.toNat)

/-! ### Time, power, routes and ports (R204, R331, R339, R340, R354, R365) -/

def execFramePeriodWrite (r : Req) (v : U32) (s : State) : Out := s.put r 0x4100 1 (leBytes 4 v.toNat)
def execPowerCapWrite (r : Req) (v : U32) (s : State) : Out := s.put r 0x2010 1 (leBytes 4 v.toNat)
def execCoordinateWrite (r : Req) (size : Bool) (v : U32) (s : State) : Out := s.put r 0x3000 (if size then 2 else 1) (leBytes 4 v.toNat)
def execRouteImageWrite (r : Req) (d : DieIx) (image : Bytes) (s : State) : Out := s.put r 0x3070 (d.val + 1) image
def execRouteSwapArm (r : Req) (d : DieIx) (v : U64) (s : State) : Out := s.put r 0x3080 (d.val + 1) (leBytes 8 v.toNat)
def execPassThroughWrite (r : Req) (d : DieIx) (v : BitVec 8) (s : State) : Out := s.put r 0x3060 (d.val + 1) [v]
def execPortAutomatic (r : Req) (p : PortIx) (s : State) : Out := s.put r 0x3050 (p.val + 1) [0]
def execPortDisable (r : Req) (p : PortIx) (s : State) : Out := s.put r 0x3050 (p.val + 1) [1]
def execPortLowRate (r : Req) (p : PortIx) (s : State) : Out := s.put r 0x3050 (p.val + 1) [2]
def execPortReenable (r : Req) (p : PortIx) (s : State) : Out := s.put r 0x3050 (p.val + 1) [3]

/-! ### Security and the recorder (R382, R405, R410, R419, R440) -/

def execAttestationNonce (r : Req) (nonce : Bytes) (s : State) : Out := s.put r 0x6000 1 nonce
def execJobKeyCapsule (r : Req) (capsule : Bytes) (s : State) : Out := s.put r 0x4020 2 capsule
def execDebugUnlockToken (r : Req) (token : Bytes) (s : State) : Out := s.put r 0x6030 1 token
def execRestoreDefaults (r : Req) (v : BitVec 16) (s : State) : Out := s.put r 0x1010 1 (leBytes 2 v.toNat)
def execRecorderEmpty (r : Req) (s : State) : Out := s.put r 0x5010 5 [1]
def execMirrorEmpty (r : Req) (s : State) : Out := s.put r 0x5010 5 [2]

/-! ### Sessions (R391, R407, R408) -/

/-- SESSION_OPEN_REQUEST: an enrolment record is processed first (R409); then the challenge is made and signed. -/
def State.openReq (s : State) (route : Route) (role : Role) (key : Bytes) (enrol cert : Option Bytes) : State :=
  let full (s : State) : State := s.modDict (fun d => { d with lastOpen := some (bare 0x84 0x0C) })
  if !s.hearsOpen route then s
  else if s.hub.sec.puffed then full s
  else
    let s := match enrol with | some e => s.enrol e | none => s
    if 16 ≤ s.hub.dict.sessions.length then full s
    else
      let fresh := slice (Config.freshBytes s.hubKey 96) 0 96
      let nonce := slice fresh 0 32
      let seed := slice fresh 32 64
      let ek := slice (Config.kemPublic seed) 0 1184
      let code : BitVec 8 := match role with | .operator => 1 | .tenant => 2 | .vendor => 3
      let sent := nonce ++ ek ++ s.hub.sec.sign "YZB8 session" (nonce ++ ek ++ [code] ++ Config.sha3 key)
      let c : Challenge := { id := s.hub.dict.chalCount, role := role, key := key, nonce := nonce, seed := seed, cert := cert,
                             route := route, sent := sent }
      s.drew.modDict (fun d => { d with
        challenges := d.challenges ++ [c], chalCount := d.chalCount + 1
        lastOpen := some { pt := 0x84, st := 0, ty := 0, tot := sent.length, value := sent } })

def execSessionOpenRequest (route : Route) (role : Role) (key : Bytes) (enrol cert : Option Bytes) (s : State) : Out :=
  .next (s.openReq route role key enrol cert)

/-- Session key and salt of R407. -/
def sessionSecret (seed cipher nonce key : Bytes) : Bytes :=
  shakeN 36 (strBytes "YZB8 session" ++ Config.kemDecap seed cipher ++ nonce ++ Config.sha3 key)

/-- An accepted session, as it opens. -/
def Challenge.session (c : Challenge) (num : BitVec 16) (cipher : Bytes) (now : Nat) : Session :=
  let k := sessionSecret c.seed cipher c.nonce c.key
  { num := num, role := c.role, key := c.key, aes := slice k 0 32, salt := slice k 32 4, rseq := 0, resp := none, bad := 0,
    lastAt := now, job := 0, mask := 0, pos := 0, seg := none, host := 0xFFFF, offer := none }

/-- SESSION_PROOF: the challenge is used up; a proof that fails gives no session. -/
def State.proof (s : State) (challenge : Nat) (cipher sig : Bytes) : State :=
  match s.hub.dict.challenges.find? (fun c => c.id = challenge) with
  | none => s
  | some c =>
    if !s.hearsOpen c.route then s
    else
      let s := s.modDict (fun d => { d with challenges := d.challenges.filter (fun y => y.id ≠ challenge) })
      let say (s : State) (o : Response) : State := s.modDict (fun d => { d with lastOpen := some o })
      if !Config.dsaVerify c.key "YZB8 session" (cipher ++ c.nonce ++ s.hub.sec.digest) sig || !s.roleOk c.route c.role c.key c.cert then
        say s (bare 0x85 3)
      else if 16 ≤ s.hub.dict.sessions.length then say s (bare 0x85 0x0C)
      else
        match freeNumber (s.hub.dict.sessions.map (·.num)) with
        | none => say s (bare 0x85 0x0C)
        | some n =>
          let s := s.firstOperator c.role c.key
          let s := s.modDict (fun d => { d with sessions := d.sessions ++ [c.session n cipher s.now] })
          say s { pt := 0x85, st := 0, ty := 0, tot := 2, value := leBytes 2 n.toNat }

def execSessionProof (challenge : Nat) (cipher proofSig : Bytes) (s : State) : Out := .next (s.proof challenge cipher proofSig)

/-- SESSION_CLOSE. -/
def State.closeReq (s : State) (r : Req) : State :=
  s.request r (s.hearsOpen r.route) 0x86 id (fun _ => false) (fun s x =>
    ((s.closeSession x.num).modDict (fun d => { d with lastOpen := some (bare 0x86 0) }), bare 0x86 0))

def execSessionClose (r : Req) (s : State) : Out := .next (s.closeReq r)

/-- SESSION_TIMEOUT: 60 s with no valid request. -/
def State.sessionTimeout (s : State) (ses : BitVec 16) : State :=
  match s.session ses with
  | some x => if x.lastAt + secCounts 60 ≤ s.now then s.closeSession ses else s
  | none => s

def execSessionTimeout (ses : BitVec 16) (s : State) : Out := .next (s.sessionTimeout ses)

end Sys2Proof.Machine
end

