-- ==== Sys2Proof/Machine/Pdu.lean ====
section
/-! DEFINITION. PDUs of the object dictionary as bytes (R394), in frames at the 10BASE-T1S port (R397) and in management flits
(R398, R450), and the fault reports that come in such flits (R343). Marigold takes them one at a time (R393). -/

namespace Sys2Proof.Machine

/-! ### The PDU (R394) -/

/-- The fields of a PDU. -/
structure Pdu where
  pt    : BitVec 8
  ses   : BitVec 16
  rseq  : BitVec 32
  idx   : BitVec 16
  sub   : BitVec 8
  more  : Bool
  off   : BitVec 32
  len   : BitVec 16
  st    : BitVec 8
  ty    : BitVec 8
  tot   : BitVec 32
  value : Bytes
  deriving DecidableEq, Repr

/-- The header of 24 bytes with the value. -/
def Pdu.bytes (p : Pdu) : Bytes :=
  [0x01, p.pt] ++ leBytes 2 p.ses.toNat ++ leBytes 4 p.rseq.toNat ++ leBytes 2 p.idx.toNat ++ [p.sub] ++ leBytes 1 (b2n p.more)
    ++ leBytes 4 p.off.toNat ++ leBytes 2 p.len.toNat ++ [p.st, p.ty] ++ leBytes 4 p.tot.toNat ++ p.value

/-- A PDU of version 1 from its bytes; a read request carries no value, and what follows the value is padding. -/
def pduOf (b : Bytes) : Option Pdu :=
  if b.length < 24 || b.headD 0 ≠ 0x01 then none
  else
    let len := leAt b 16 2
    some { pt := b.getD 1 0, ses := BitVec.ofNat 16 (leAt b 2 2), rseq := BitVec.ofNat 32 (leAt b 4 4), idx := BitVec.ofNat 16 (leAt b 8 2),
           sub := b.getD 10 0, more := bit (b.getD 11 0) 0, off := BitVec.ofNat 32 (leAt b 12 4), len := BitVec.ofNat 16 len,
           st := b.getD 18 0, ty := b.getD 19 0, tot := BitVec.ofNat 32 (leAt b 20 4),
           value := if b.getD 1 0 = 0x01 then [] else (b.drop 24).take len }

/-- The nonce of a sealed PDU: salt, direction and sequence number. -/
def Session.pduNonce (x : Session) (fromModule : Bool) (rseq : BitVec 32) : Bytes :=
  slice x.salt 0 4 ++ leBytes 4 (b2n fromModule) ++ leBytes 4 rseq.toNat

/-- A PDU sealed under the session key: its first eight bytes in clear. -/
def Session.sealPdu (x : Session) (fromModule : Bool) (p : Pdu) : Bytes :=
  let b := p.bytes
  let (c, t) := gcmSeal x.aes (x.pduNonce fromModule p.rseq) (b.take 8) (b.drop 8)
  b.take 8 ++ c ++ t

/-- A request of exactly these bytes, where its tag verifies. -/
def Session.openExact (x : Session) (b : Bytes) : Option Pdu :=
  if b.length < 40 then none
  else (gcmOpen x.aes (x.pduNonce false (BitVec.ofNat 32 (leAt b 4 4))) (b.take 8) (slice b 8 (b.length - 24)) (slice b (b.length - 16) 16)).bind
    (fun c => pduOf (b.take 8 ++ c))

/-- The same behind padding: of the last granule of a flit, or to the least payload of a frame. -/
def Session.openPdu (x : Session) (b : Bytes) : Option Pdu := (List.range 24).findSome? (fun k => x.openExact (b.take (b.length - k)))

/-- The PDUs of a response: a value of more than 1,024 bytes moves in segments (R396, R397). -/
def Response.pdus (o : Response) (ses : BitVec 16) (rseq : BitVec 32) : List Pdu :=
  let parts := if o.value.isEmpty then [[]] else chunks 1024 (o.value.length + 1) o.value
  parts.mapIdx (fun i v =>
    { pt := o.pt, ses := ses, rseq := rseq, idx := o.idx, sub := o.sub, more := decide (i + 1 < parts.length),
      off := o.off + BitVec.ofNat 32 (1024 * i), len := BitVec.ofNat 16 v.length, st := o.st, ty := o.ty, tot := BitVec.ofNat 32 o.tot, value := v })

/-! ### Requests (R391 to R396, R407) -/

/-- Marigold hears a request of a session. -/
def State.hearsPdu (s : State) (route : Route) (p : Pdu) : Bool :=
  if p.pt = 0x06 then s.hearsOpen route else s.hears route p.idx.toNat p.sub.toNat

/-- The session answers the request: the next in sequence, or the last once more (R392). -/
def Session.answers (x : Session) (rseq : BitVec 32) : Bool := rseq = x.rseq + 1 || (rseq = x.rseq && x.resp.isSome)

/-- Execute a request of a session. -/
def State.runPdu (s : State) (r : Req) (p : Pdu) : State :=
  match p.pt.toNat with
  | 1 => s.readReq r p.idx.toNat p.sub.toNat p.off.toNat p.len.toNat
  | 2 => s.writeReq r p.idx p.sub p.off p.tot p.more p.value
  | 6 => s.closeReq r
  | _ => s

/-- The response that a session gives after a request; the close of a session is answered under it. -/
def State.responseOf (s : State) (ses : BitVec 16) : Option Response :=
  match s.session ses with | some x => x.resp | none => s.hub.dict.lastOpen

/-- A PDU of a session: the state after it, and what is sent. -/
def State.sessionPdu (s : State) (route : Route) (x : Session) (b : Bytes) : State × List Bytes :=
  let r : Req := { ses := x.num, rseq := BitVec.ofNat 32 (leAt b 4 4), tagOk := true, route := route }
  match x.openPdu b with
  | none => (if s.hearsOpen route then s.discardReq x else s, [])
  | some p =>
    let t := s.runPdu r p
    let said := s.hearsPdu route p && x.answers r.rseq && (p.pt = 0x01 || p.pt = 0x02 || p.pt = 0x06)
    (t, if said then ((t.responseOf x.num).map (fun o => (o.pdus x.num r.rseq).map (x.sealPdu true))).getD [] else [])

/-- Role of a code of R407. -/
def roleOf (code : Nat) : Option Role := if code = 1 then some .operator else if code = 2 then some .tenant else if code = 3 then some .vendor else none

/-- An open request or a proof in session 0, whole (R407; its layout is the model's, log entry 90). -/
def State.wholeOpen (s : State) (route : Route) (pt : BitVec 8) (v : Bytes) : State :=
  if pt = 0x04 then
    let flags := v.getD 1313 0
    let enrol := if bit flags 0 then some (slice v 1314 2464) else none
    let cert := if bit flags 1 then some (slice v (1314 + 2464 * b2n (bit flags 0)) 2468) else none
    match roleOf (v.headD 0).toNat with
    | some role => s.openReq route role (slice v 1 1312) enrol cert
    | none => s
  else
    match s.hub.dict.challenges.find? (fun c => c.nonce = slice v 0 32) with
    | some c => s.proof c.id (slice v 32 1088) (slice v 1120 2420)
    | none => s

/-- What a PDU outside any session asks for (R390, R391). -/
def State.openPduIn (s : State) (route : Route) (p : Pdu) : State × List Bytes :=
  let send (o : Option Response) : List Bytes := (o.map (fun o => (o.pdus 0 0).map Pdu.bytes)).getD []
  if p.pt = 0x01 then
    let t := (s.modDict (fun d => { d with lastDisc := none })).discover route p.idx.toNat p.sub.toNat p.off.toNat p.len.toNat
    (t, send t.hub.dict.lastDisc)
  else if p.pt = 0x04 || p.pt = 0x05 then
    let got := (if p.off.toNat = s.hub.dict.openSeg.length then s.hub.dict.openSeg else []) ++ p.value
    if p.more then (s.modDict (fun d => { d with openSeg := got.take 8192 }), [])
    else
      let t := (s.modDict (fun d => { d with openSeg := [], lastOpen := none })).wholeOpen route p.pt got
      (t, send t.hub.dict.lastOpen)
  else (s, [])

/-- A PDU reaches Marigold: the state after it, and the PDUs sent in answer. -/
def State.pduIn (s : State) (route : Route) (b : Bytes) : State × List Bytes :=
  match pduOf b with
  | none => (s, [])
  | some p =>
    if p.ses = 0 then s.openPduIn route p
    else match s.session p.ses with
      | some x => s.sessionPdu route x b
      | none => (s, [])

/-! ### The 10BASE-T1S port (R397) -/

/-- How the port takes the segment: by CSMA/CD, as a PLCA node, or as node 0, which sends the beacon and counts the nodes. -/
inductive FieldAccess where
  | csmaCd | plca (node : Nat) | coordinator (nodes : Nat)
  deriving DecidableEq, Repr

def Dict.fieldAccess (d : Dict) : FieldAccess :=
  if d.plcaInForce = 0xFF then .csmaCd else if d.plcaInForce = 0 then .coordinator d.plcaCount.toNat else .plca d.plcaInForce.toNat

/-- EtherType 0x88B5, big-endian. -/
def etherType : Bytes := [0x88, 0xB5]
def portMac : Bytes := slice Config.macAddress 0 6

/-- The port answers to its own address, and to the broadcast address for discovery reads. -/
def fieldTakes (frame : Bytes) : Bool :=
  slice frame 12 2 = etherType
  && (slice frame 0 6 = portMac || (slice frame 0 6 = List.replicate 6 0xFF && frame.getD 15 0 = 0x01 && leAt frame 16 2 = 0))

/-! #### The coolant node (R363, R397): Marigold reads it as a client in session 0 -/

/-- The read of 0x2F00.01, and its answer with an F32. -/
def coolantRequest : Pdu :=
  { pt := 0x01, ses := 0, rseq := 0, idx := 0x2F00, sub := 1, more := false, off := 0, len := 4, st := 0, ty := 0, tot := 0, value := [] }
def coolantAnswer (v : U32) : Pdu := { coolantRequest with pt := 0x81, ty := 8, tot := 4, value := leBytes 4 v.toNat }

/-- Address of the coolant node (log entry 129). -/
def Dict.coolantMac (d : Dict) : Bytes := slice (Config.nodeMac d.coolant) 0 6

/-- The frame that asks, and the one in which the node answers. -/
def Dict.coolantAsks (d : Dict) : Bytes := d.coolantMac ++ portMac ++ etherType ++ coolantRequest.bytes
def Dict.coolantSays (d : Dict) (v : U32) : Bytes := portMac ++ d.coolantMac ++ etherType ++ (coolantAnswer v).bytes

/-- A PDU is the answer to that read, with its value. -/
def Pdu.coolant (p : Pdu) : Option U32 :=
  if p.pt = 0x81 && p.ses = 0 && p.idx = 0x2F00 && p.sub = 1 && p.st = 0 && p.ty = 8 && p.value.length = 4 then
    some (BitVec.ofNat 32 (leNat p.value))
  else none

/-- A frame is the answer of the coolant node, with its value. -/
def Dict.coolantIn (d : Dict) (frame : Bytes) : Option U32 :=
  if slice frame 0 6 = portMac && slice frame 6 6 = d.coolantMac && slice frame 12 2 = etherType then
    (pduOf (frame.drop 14)).bind Pdu.coolant
  else none

/-- A frame at the port: the coolant node's answer, or a request, whose answer goes to its source, but for a PDU of more than 1,480
bytes. -/
def State.fieldFrame (s : State) (frame : Bytes) : State :=
  match s.hub.dict.coolantIn frame with
  | some v => s.inletValue v
  | none =>
  if fieldTakes frame then
    let (t, out) := s.pduIn .fieldPort (frame.drop 14)
    t.modDict (fun d => { d with fieldOut :=
      (out.filter (fun p => decide (p.length ≤ 1480))).map (fun p => slice frame 6 6 ++ portMac ++ etherType ++ p) })
  else s

/-- The oldest frame that waits at the port. -/
def State.takeFrame (s : State) : State :=
  match s.hub.dict.fieldIn with
  | [] => s
  | f :: r => (s.modDict (fun d => { d with fieldIn := r })).fieldFrame f

/-- INLET_READ: Marigold's firmware asks the coolant node, whose answer, if it gives one, comes as a frame at the port. Marigold takes
the frames that wait there, oldest first (R363, R393, R397). -/
def State.inletRead (s : State) (value : Option U32) : State :=
  if s.hub.fw.running then
    let s := s.modDict (fun d => { d with
      fieldOut := [d.coolantAsks], fieldIn := d.fieldIn ++ (value.map d.coolantSays).toList })
    iter State.takeFrame s.hub.dict.fieldIn.length s
  else s

def execInletRead (value : Option U32) (s : State) : Out := act s (s.inletRead value)

/-! ### In-band (R343, R398) -/

/-- The flits of a PDU of at most 4,136 bytes. -/
def pduFlits (dst : BitVec 23) (b : Bytes) : List Flit :=
  let parts := chunks 224 (b.length + 1) b
  if 4136 < b.length then []
  else parts.mapIdx (fun i v => mkFlit 7 2 (ceilDiv v.length 16) (i + 1 == parts.length) dst 0 v 0)

/-- The oldest PDU that has come in-band: a fault report, or a request, whose response goes back by the way it came. -/
def State.takeInPdu (s : State) : State :=
  match s.hub.dict.inPdus with
  | [] => s
  | q :: r =>
    let s := s.modDict (fun d => { d with inPdus := r })
    let b := q.bytes
    if b.headD 0 = reportMark then
      if s.hostEnd.isSome then s.modHub (·.addReport (slice b 1 16)) else s
    else
      let (t, out) := s.pduIn .inBand b
      if q.input.val = 6 then t
      else (out.flatMap (pduFlits q.dst)).foldl (fun s f => s.enqueueFlit (endOf q.die q.input) f) t

end Sys2Proof.Machine
end

