-- ==== Sys2Proof/Machine/Package.lean ====
section
/-! DEFINITION. The 10BASE-T1S node number (R397) and the test access port (R475, R476). -/

namespace Sys2Proof.Machine

/-! ### Field port -/

/-- PLCA_NODE_NUMBER_EFFECT: 10 ms after the write (R397). -/
def State.plcaEffect (s : State) : State :=
  let d := s.hub.dict
  if d.plcaInForce ≠ d.plcaNode && decide (d.plcaAt ≤ s.now) then s.modDict (fun d => { d with plcaInForce := d.plcaNode }) else s

def execPlcaNodeNumberEffect (s : State) : Out := act s s.plcaEffect

/-! ### Test access port -/

/-- The IEEE 1149.1 state that follows, by TMS. -/
def TapState.after (st : TapState) (tms : Bool) : TapState :=
  match st, tms with
  | .reset, true => .reset | .reset, false => .idle
  | .idle, true => .selDr | .idle, false => .idle
  | .selDr, true => .selIr | .selDr, false => .capDr
  | .capDr, true => .ex1Dr | .capDr, false => .shDr
  | .shDr, true => .ex1Dr | .shDr, false => .shDr
  | .ex1Dr, true => .updDr | .ex1Dr, false => .pauDr
  | .pauDr, true => .ex2Dr | .pauDr, false => .pauDr
  | .ex2Dr, true => .updDr | .ex2Dr, false => .shDr
  | .updDr, true => .selDr | .updDr, false => .idle
  | .selIr, true => .reset | .selIr, false => .capIr
  | .capIr, true => .ex1Ir | .capIr, false => .shIr
  | .shIr, true => .ex1Ir | .shIr, false => .shIr
  | .ex1Ir, true => .updIr | .ex1Ir, false => .pauIr
  | .pauIr, true => .ex2Ir | .pauIr, false => .pauIr
  | .ex2Ir, true => .updIr | .ex2Ir, false => .shIr
  | .updIr, true => .selDr | .updIr, false => .idle

/-- Data register that an instruction selects (R475). -/
inductive DataReg where
  | boundary | idcode | bypass | priv
  deriving DecidableEq, Repr

/-- Codes other than the four of R475 act as BYPASS until a debug unlock opens them. -/
def Hub.dataReg (h : Hub) : DataReg :=
  match h.tap.ir.toNat with
  | 0x00 | 0x02 => .boundary
  | 0x01 => .idcode
  | 0xFF => .bypass
  | _ => if bit h.sec.scope 0 then .priv else .bypass

/-- The IDCODE value. -/
def idcode : BitVec 32 := 0x1B8A0433

/-- Any commanded rail is above 10 % of its target, as far as the hub die knows (R358, R476). -/
def Hub.railsAlive (h : Hub) : Bool := h.power.rails.toList.any (·.high)

/-- Levels that the module drives itself: PWR_EN (signal 0) and THERMTRIP_N (signal 3); the AVSBus and PMBus lines, and the
signals that are inputs only, bring a free value (log entry 1). The second number says whether it drives the signal. -/
def State.functionOut (s : State) (k : Nat) : Bool × Bool :=
  let free := (Config.freeValue s.hubKey).toNat
  match k with
  | 0 => (s.hub.board.pwrEn, true)
  | 3 => (!s.hub.sens.thermtripLow, s.hub.sens.thermtripLow)
  | _ => (free.testBit (2 * k), free.testBit (2 * k + 1))

/-- Cells captured, input, output and enable of each of the twelve signals, cell 0 first. -/
def State.boundaryIn (s : State) (pins : BitVec 12) : BitVec 36 :=
  (List.range 12).foldl (fun (v : BitVec 36) k =>
    let f := s.functionOut k
    v ||| BitVec.ofNat 36 ((b2n (bit pins k) + 2 * b2n f.1 + 4 * b2n f.2) * 2 ^ (3 * k))) 0

/-- The level and drive of signal k at its contact: under EXTEST those of the cells, but THERMTRIP_N stays low while the
trip logic drives it, and PWR_EN stays Marigold's while a commanded rail is above 10 % (R476). -/
def State.contact (s : State) (k : Nat) : Bool × Bool :=
  let t := s.hub.tap
  let cells := (t.bsOut.toNat.testBit (3 * k + 1), t.bsOut.toNat.testBit (3 * k + 2))
  if t.ir ≠ 0 then s.functionOut k
  else if k = 3 && s.hub.sens.thermtripLow then (false, true)
  else if k = 0 && s.hub.railsAlive then (s.hub.board.pwrEn, true)
  else cells

def State.modTap (s : State) (f : Tap → Tap) : State := s.modHub (fun h => { h with tap := f h.tap })

/-- Rising edge: capture or shift of the state that the port is in. -/
def State.tapRise (s : State) (tdi : Bool) (pins : BitVec 12) : State :=
  let t := s.hub.tap
  let top (n : Nat) (v : Nat) : Nat := v / 2 + b2n tdi * 2 ^ (n - 1)
  match t.st with
  | .capIr => s.modTap (fun t => { t with irShift := 1 })
  | .shIr => s.modTap (fun t => { t with irShift := BitVec.ofNat 8 (top 8 t.irShift.toNat) })
  | .capDr =>
    match s.hub.dataReg with
    | .boundary => (s.modTap (fun t => { t with bsShift := s.boundaryIn pins })).drew
    | .idcode => s.modTap (fun t => { t with idShift := idcode })
    | _ => s.modTap (fun t => { t with byp := false })
  | .shDr =>
    match s.hub.dataReg with
    | .boundary => s.modTap (fun t => { t with bsShift := BitVec.ofNat 36 (top 36 t.bsShift.toNat) })
    | .idcode => s.modTap (fun t => { t with idShift := BitVec.ofNat 32 (top 32 t.idShift.toNat) })
    | _ => s.modTap (fun t => { t with byp := tdi })
  | _ => s

/-- Falling edge, in the state just entered: updates, and TDO. -/
def State.tapFall (s : State) : State :=
  let t := s.hub.tap
  match t.st with
  | .reset => s.modTap (fun t => { t with ir := 0x01 })
  | .updIr => s.modTap (fun t => { t with ir := t.irShift })
  | .updDr => if s.hub.dataReg = .boundary then s.modTap (fun t => { t with bsOut := t.bsShift }) else s
  | .shIr => s.modTap (fun t => { t with tdo := bit t.irShift 0 })
  | .shDr =>
    let out := match s.hub.dataReg with
      | .boundary => bit t.bsShift 0
      | .idcode => bit t.idShift 0
      | _ => t.byp
    s.modTap (fun t => { t with tdo := out })
  | _ => s

/-- JTAG_TCK_EDGE: one cycle of TCK. What a private instruction does once an unlock has opened it is not given. -/
def execJtagTckEdge (tms tdi : Bool) (pins : BitVec 12) (s : State) : Out :=
  if !s.hub.board.standby then .next s
  else if s.hub.tap.st = .shDr && s.hub.dataReg = .priv then .refused .privateJtag
  else .next ((s.tapRise tdi pins).modTap (fun t => { t with st := t.st.after tms })).tapFall

/-- TRST_N_ASSERT: the port goes to its reset state, which selects IDCODE. -/
def execTrstNAssert (s : State) : Out := .next (s.modTap (fun t => { t with st := .reset, ir := 0x01 }))

end Sys2Proof.Machine
end

