-- ==== Sys2Proof/Machine/Tick.lean ====
section
/-! DEFINITION. The passing of time: one nominal clock period of the compute dies (log entry 3). It does what a clock
cycle of each die does, what the links send in that time, and what the hub die does at the values its time counter
reaches. -/

namespace Sys2Proof.Machine

/-! ### A clock cycle of a die: its start -/

/-- The word slots of a core that issue in the present plan cycle. -/
def Die.issueDue (d : Die) (c : CoreIx) : Die :=
  let due (x : Checked) : Bool := decide (x.due ≤ d.clock.pcyc)
  let xs := d.cores[c].ctl.checked.filter due
  if xs.isEmpty then d
  else
    let d := d.modCore c (fun k => { k with ctl := { k.ctl with checked := k.ctl.checked.filter (fun x => !due x) } })
    xs.foldl (fun d x => d.issueSlot c x) d

/-- Issues and descriptor starts of a plan cycle, then the checks of failed slots once more and the check stages, which
see what issue does at the cycle's start (R75, R87, R88, R130, R225). -/
def Die.frontEnd (d : Die) : Die :=
  let d := d.forCores (fun d c => (d.issueDue c).modCore c (fun k => k.startHeads d.clock.rc))
  (d.reevalReqs (fun _ => true)).forCores (fun d c => Die.checkStage c d)

/-! ### The units in a plan cycle, and its end -/

/-- Cores with a message in the inbound buffer, a wrap marker to write or a message that arrives in this cycle, from the mesh or
from the core itself, each with the banks that the present cycle uses (R200, R281). -/
def Die.linkBanks (d : Die) : List (CoreIx × List Nat) :=
  let e := if d.heldNow || d.cores.toList.all (fun k => k.rings.sends.isEmpty) then d else d.injected
  ((List.finRange 32).filter (fun c => e.cores[c].rings.inHand || !(meshMsgs (e.net.arriving c)).isEmpty)).map
    (fun c => (c, d.busyBanks c))

/-- Messages in the inbound buffers take the banks and cycles that the schedule leaves free (R200), after the decisions on
the mesh deliveries of the cycle (R280); with the banks in use after them. -/
def Die.linkArrivals (d : Die) (banks : List (CoreIx × List Nat)) : Die × List (CoreIx × List Nat) :=
  banks.foldl (fun x b =>
    let (d, busy) := x.1.takeLink b.1 b.2
    (d, (b.1, busy) :: x.2)) (d, [])

/-- Mesh arrivals of a cycle reach their rings (R280). -/
def Die.meshArrivals (d : Die) : Die :=
  d.forCores (fun d c => iter (fun d => d.takeArrival c) ((d.cores[c].rings.arrive.filter (·.isMesh)).length) d)

/-- What the units of a core read in run cycle t, with the stream writes that end the cycle. -/
def Die.unitBeats (d : Die) (c : CoreIx) (t : Nat) : Die × List SpWrite :=
  let d := (((d.weightBeat c t).passBeat c t).vecBeats c t)
  let (d, ws) := d.streamBeats c t
  (d.wheelServeAll c, ws)

/-- What a core writes at the end of run cycle t, after its stream units' writes and the mesh deliveries (R202). -/
def Die.unitWrites (d : Die) (c : CoreIx) (t : Nat) : Die :=
  let d := (d.vecWrites c t).modCore c Core.finishLoad
  let d := ((d.passesDone c t).finishVtld c .vec0).finishVtld c .vec1
  let d := d.modCore c (fun k => (k.releaseHalves t).landWrites (some t) d.clock.clk)
  (d.finishDescs c t).modCore c Core.cycleEnds

/-- One plan cycle of a die's units. -/
def Die.planCycle (d : Die) : Die :=
  let t := d.clock.rc
  let banks := d.linkBanks
  let (d, ws) := (List.finRange 32).foldl (fun (x : Die × List (CoreIx × List SpWrite)) c =>
    let (d, w) := x.1.unitBeats c t
    (d, if w.isEmpty then x.2 else (c, w) :: x.2)) (d, [])
  let d := d.injected
  let d := ws.foldl (fun d x => d.modCore x.1 (fun k => k.spWrites x.2)) d
  let (d, banks) := d.crossMesh.meshArrivals.linkArrivals banks
  let d := (d.markersOut banks).forCores Die.endOps
  d.forCores (fun d c => d.unitWrites c t)

/-- What runs on in a held cycle: the failing checks of word slots, the inbound buffers and the remote share (R88, R190). -/
def Die.heldCycle (d : Die) : Die :=
  let d := d.reevalReqs (fun _ => true)
  let (d, banks) := d.linkArrivals d.linkBanks
  let d := d.markersOut banks
  d.forCores (fun d c =>
    let d := if d.cores[c].vault.remote.isEmpty then d else d.wheelServeAll c
    d.modCore c (fun k => k.landWrites none d.clock.clk))

/-- What every clock cycle ends with: stores complete, increments, notices and messages land, then waits reach their last
cycle, and summaries are written (R259, R262, R264, R282, R285). -/
def Die.landings (d : Die) (t : Option Nat) : Die :=
  let d := d.forCores (fun d c =>
    let d := (Die.segmentClose c (d.arrivalsLand c)).finalWaits c
    (if d.cores[c].vec.sumQ.isEmpty then d else d.landSummaries c t).modCore c Core.sumsDone)
  d.forgetAnswered

/-! ### Hold counts (R192, R206, R207) -/

/-- Causes that hold the present clock cycle. -/
def Die.causes (d : Die) : List (Fin 13) :=
  let req (k : Nat) : Bool := d.hold.reqs.any (fun r => r.cause.val = k && HoldReq.holds d r)
  let tim (k : Nat) : Bool := d.hold.timed.any (fun h => h.cause.val = k && decide (h.first ≤ d.clock.clk ∧ d.clock.clk ≤ h.last))
  (List.finRange 13).filter (fun k =>
    if k.val < 7 then req k.val
    else if k.val = 7 then !d.timedHeld && !d.reqHeld
    else if k.val < 12 then tim k.val
    else true)

/-- A held cycle is counted under each of its causes and once in the total; throttling alone is outside the allowance. -/
def Die.countHeld (d : Die) : Die :=
  let cs := d.causes
  let other := cs.any (fun k => k ≠ 10 && k ≠ 12)
  let owed := !d.timedHeld && !d.reqHeld
  { d with hold := { d.hold with
    hcnt := cs.foldl (fun v k => vupd v k (· + 1)) d.hold.hcnt
    run := d.hold.run + 1
    inFrame := if other then d.hold.inFrame + 1 else d.hold.inFrame
    conflict := if owed then d.hold.conflict - 1 else d.hold.conflict
    held := true } }

/-! ### One clock cycle of a die -/

/-- A plan cycle executes, or the bank conflict it meets is owed first (R191, R202). -/
def Die.runCycle (d : Die) : Die :=
  let e := d.frontEnd
  let clash := if d.frm.frun && d.hold.conflict = 0 then e.conflictNow else none
  match clash with
  | some (k, cap) =>
    let d := d.oweConflict k cap
    (d.heldCycle.countHeld).landings none
  | none =>
    let d := { e with hold := { e.hold with run := 0, held := false } }
    let d := (d.planCycle).landings (some d.clock.rc)
    { d with clock := { d.clock with rc := d.clock.rc + 1, pcyc := d.clock.pcyc + 1 },
             hold := { d.hold with conflict := 0 } }

/-- The clock cycle in progress, from its start to its end. -/
def Die.body (d : Die) : Die :=
  let d := d.throttleWindow.forCores Die.evalWaits
  if d.heldNow then (d.heldCycle.countHeld).landings none else d.runCycle

/-- The next clock cycle begins: spent requests and holds go, the stretch counts and the frequency monitor advance. -/
def Die.nextClk (d : Die) : Die :=
  let k := d.clock.endStretch d.plan.isSome
  let k := { k with clk := k.clk + 1, fwCount := if k.fwStart ≤ k.tc.toNat then k.fwCount + 1 else k.fwCount }
  let d := Die.timedHoldEnd { d with clock := k }
  { d with hold := { d.hold with reqs := d.hold.reqs.filter (fun r => decide (d.clock.pcyc ≤ r.forCyc)) } }

/-- Frame ends and watchdogs at a cycle's boundary (R144, R145, R207, R208). -/
def Die.boundary (now : Nat) (d : Die) : Die := Die.runWatchdog now (Die.holdWatchdog now (d.coresEnd now))

/-- What the start of a cycle decides about ticks, in this order: an overrun, a late frame, a recognition. -/
def State.tickStart (s : State) (n : DieIx) : State :=
  let s := s.tickOverrun n
  if (s.dies[n].frm.fallen).isEmpty then s.tickRecognition n else s.lateRecognition n

/-- Rounds whose start the die's counter calls for, with clean cells (R245, R246). Where several intervals run out in one clock
cycle the lowest channel counts as the triggering one (DESIGN CHOICE, log entry 116). -/
def State.roundsDue (s : State) (n : DieIx) : State :=
  let d := s.dies[n]
  if !d.dramOn then s
  else if d.frm.frun then
    match (List.finRange 512).find? (fun ch => s.dies[n].forcedDue ch) with
    | some ch => s.forcedRound n ch []
    | none => s
  else
    (List.finRange 512).foldl (fun s ch => s.intervalRound n ch noErr) (s.preTickRound n [])

/-- The rounds of the windows that begin in plan cycle `pcyc` of a frame, where it has executed (R245): a window serves
nothing in its first cycle, so its round may start with the cycle's end. -/
def State.windowsBegin (s : State) (n : DieIx) (rc : Nat) (pcyc : Int) : State :=
  if s.dies[n].frm.frun && s.dies[n].clock.rc = rc + 1 && s.dies[n].dramOn && s.dies[n].plan.isSome then
    (List.finRange 512).foldl (fun s ch =>
      if s.dies[n].windowAt (chanCore ch) (chanIn ch) pcyc then s.windowBegins n ch noErr else s) s
  else s

/-- What a clock cycle of a die begins with: the frequency monitor, ticks, the route swap, rounds that are due. -/
def State.cycleStart (s : State) (n : DieIx) : State :=
  let s := ((s.frequencyWindow n).tickStart n).routeSwap n
  (if s.dies[n].frm.frun then s.roundsDue n else s).forcedBegins n

/-- The plan cycle in progress executes: neither a hold nor a bank conflict takes its clock cycle (R191, R202). -/
def Die.executes (d : Die) : Bool :=
  let d := d.throttleWindow.forCores Die.evalWaits
  !d.heldNow && (!d.frm.frun || d.hold.conflict ≠ 0 || d.frontEnd.conflictNow.isNone)

/-- REFRESH_WINDOW_ROUND: the round of a window that begins in the present plan cycle, where that cycle executes (R245). -/
def State.windowRound (s : State) (n : DieIx) (ch : ChanIx) (err : SectorErr) : State :=
  if s.dies[n].windowStart (chanCore ch) (chanIn ch) && s.dies[n].dramOn && (s.cycleStart n).dies[n].executes then
    s.windowBegins n ch err
  else s

def execRefreshWindowRound (d : DieIx) (ch : ChanIx) (err : SectorErr) (s : State) : Out := .next (s.windowRound d ch err)

/-- One clock cycle of a die. -/
def State.dieCycle (s : State) (n : DieIx) : State :=
  let s := s.cycleStart n
  let rc := s.dies[n].clock.rc
  let pcyc := s.dies[n].clock.pcyc
  let s := ((s.modDie n Die.body).windowsBegin n rc pcyc).sendToHost n
  let s := s.modDie n (fun d => Die.boundary s.now d.nextClk)
  if s.hub.fw.running then s.slowCheck n else s

/-! ### One nominal clock period of a die -/

/-- Forwarding and delivery in one period. The spec gives a router no rate: one flit of each input from a link and one whole
packet in a nominal period are the model's choice (DESIGN CHOICE, log entry 91). What the own cores have sent goes on at once as
far as it can, so that it is the outbound queues that fill (R201). -/
def State.routerPeriod (s : State) (n : DieIx) : State :=
  let s := (List.finRange 6).foldl (fun s i =>
    if s.dies[n].router.inq[Fin.castSucc i].isEmpty then s else s.routerForward n (Fin.castSucc i)) s
  let s := iter (fun s => s.routerForward n 6) s.dies[n].router.inq[(6 : Fin 7)].length s
  let s := if s.dies[n].router.local_.isEmpty then s else s.packetDeliver n
  s.backPressure n

/-- Rounds that end, and rounds outside a frame, which run in Idle too (R244, R245, R360). -/
def State.dramPeriod (s : State) (n : DieIx) : State :=
  let s := s.modDie n (fun d => if d.anyRound then
    (List.finRange 512).foldl (fun d ch => Die.roundEnd (chanCore ch) (chanIn ch) d) d else d)
  let s := if s.dies[n].frm.frun then s else s.roundsDue n
  s.bulkClear n

/-- Whole cycles end as their stretched time passes (R293 to R296). -/
def State.diePeriod (s : State) (n : DieIx) : State :=
  if !s.dies[n].pow.vcoreOn then s
  else
    let s := (s.routerPeriod n).dramPeriod n
    if s.dies[n].clock.gated then (s.passTick n).routeSwap n
    else
      let len := s.dies[n].clock.cycleLen 0
      let phase := s.dies[n].clock.phase + 16
      if phase < len then s.modDie n (fun d => { d with clock := { d.clock with phase := phase } })
      else (s.modDie n (fun d => { d with clock := { d.clock with phase := phase - len } })).dieCycle n

/-! ### Time counters (R301) -/

/-- Counter and fraction after one nominal period of 1/940 µs at rate 1 + ρ. -/
def advance (tc : U64) (frac : Nat) (rho : Int) : U64 × Nat :=
  let f := frac + 25 * ((1000000000 : Int) + rho).toNat
  (tc + BitVec.ofNat 64 (f / fracUnit), f % fracUnit)

def Die.advanceTime (d : Die) : Die :=
  if d.pow.vcoreOn then
    let (tc, frac) := advance d.clock.tc d.clock.tcFrac d.clock.rho
    let us := decide (d.clock.tc.toNat / 250 < tc.toNat / 250)
    let d := { d with clock := { d.clock with tc := tc, tcFrac := frac } }
    if us && d.dramOn then (List.finRange 4).foldl (fun d l => Die.rateCompare l d) d else d
  else d

/-- Operating time counts while the standby rail is up (R434): 940,000,000 periods are a second. -/
def Recorder.operate (r : Recorder) : Recorder :=
  if 939999999 ≤ r.optFrac then { r with optFrac := 0, optime := r.optime + 1 } else { r with optFrac := r.optFrac + 1 }

def State.advanceTime (s : State) : State :=
  let s := { s with dies := s.dies.map Die.advanceTime }
  s.modHub (fun h =>
    let (tc, frac) := advance h.time.tc h.time.frac h.time.rho
    { h with time := { h.time with tc := tc, frac := frac, wall := h.time.wall + (tc - h.time.tc).toNat } })

/-! ### The hub die -/

/-- What the hub die's hardware, and the board at its rails, do in any period. -/
def State.hubPeriod (s : State) : State := (((s.hubTick.thermtrip).pwrgdTimeout).hostCreditTimeout).boardEnd

/-- What Marigold does as soon as its condition holds, while its firmware runs. -/
def State.firmwarePeriod (s : State) : State :=
  let s := (List.finRange 12).foldl (fun s k => (s.railTimeout k).dischargeTimeout k) s
  let s := s.railPace
  let s := (List.finRange 8).foldl (fun s n => (s.vcoreRaise n).vcoreLower n) s
  let s := ((s.linkStep.discovery).attestation).attest
  let s := (s.powerTransition.quiesceEnd).drainEnd
  let s := (s.applyLoad.settleJobs).plcaEffect
  let s := s.takeFrame.takeInPdu
  let s := (s.hub.dict.sessions).foldl (fun s x => s.sessionTimeout x.num) s
  let s := (s.hub.sec.keys).foldl (fun s k => s.keyTimeout k.job) s
  let s := match s.hub.sec.readyAt with | some t => if t ≤ s.now then s.reportReady else s | none => s
  s.inletStale.optimeStore

/-- The ports' timers. -/
def State.portPeriod (s : State) (p : PortIx) : State :=
  let s := ((s.exchangeStart p).announcementSend p).neighbourLost p
  (s.keyExpiry p).riseNext p

/-- Link timers: retries, training attempts that begin or take too long, and the flit times of one period. -/
def State.endPeriod (s : State) (e : LinkEnd) : State :=
  let s := s.replayTimeout e
  let s := if (s.link e).st = .training && decide ((s.link e).retryAt ≤ s.now) then s.trainingFails e else s
  (s.trainingRetry e).linkTick e

/-- What happens every microsecond and every millisecond of the hub die's counter (R302, R365, R367, R435). -/
def State.everyCount (s : State) (before : Nat) : State :=
  let s := s.stamped
  let s := if before / 250 < s.now / 250 then s.engineTake else s
  if before / 250000 < s.now / 250000 && s.hub.fw.running then
    let s := (List.finRange 8).foldl (fun s n => s.dieAlign n) s
    s.capCompute.thermalProtect
  else s

/-- A new period: the recorder's writes are done (R437), and what commands have recorded since the last one has reached the
engine (R435). -/
def State.freshPeriod (s : State) : State := State.stamped { s with hub := { s.hub with rec_ := s.hub.rec_.settle.operate } }

/-- A die in the middle of a clock cycle, since clk stood at `clk`: the cycle is stretched over more than one period (R294). -/
def Die.midCycle (d : Die) (clk : Nat) : Bool := d.pow.vcoreOn && !d.clock.gated && d.clock.clk == clk

/-- The end of a period: what was set in it is from now on set no longer "in the same cycle" (R7). On a die it is the end of the
clock cycle that counts; `clks` are the dies' clock cycles as the period began. -/
def State.closePeriod (s : State) (clks : Vector Nat 8) : State :=
  { s with
    dies := s.dies.mapIdx (fun i (d : Die) => if d.midCycle (clks.toList.getD i 0) then d else { d with setNow := [] })
    ports := s.ports.map (fun (x : Port) => { x with setNow := 0 })
    hub := { s.hub with setNow := 0, sec := { s.hub.sec with setNow := 0 } } }

/-- While RST_N is low only the board acts, on the rails (R441, R466). -/
def State.resetPeriod (s : State) : State :=
  State.boardEnd (s.modHub (fun h =>
    let f := h.time.frac + 25000000000
    { h with time := { h.time with wall := h.time.wall + f / fracUnit, frac := f % fracUnit } }))

/-- One nominal clock period of the module. Without standby power nothing moves. -/
def tick (s : State) : State :=
  if !s.hub.board.standby then s
  else
    let clks := s.dies.map (fun (d : Die) => d.clock.clk)
    let s := s.freshPeriod
    if s.hub.board.rstLow then s.resetPeriod.closePeriod clks
    else
      let before := s.now
      let s := (List.finRange 8).foldl (fun s n => s.diePeriod n) s
      let s := allEnds.foldl (fun s e => s.endPeriod e) s
      let s := s.advanceTime
      let s := s.hubPeriod
      let s := if s.hub.fw.running then (allPorts.foldl (fun s p => s.portPeriod p) s.firmwarePeriod).holdover.upstreamLost else s
      (s.everyCount before).closePeriod clks

end Sys2Proof.Machine
end

