-- ==== Sys2Proof/Machine/Dispatch.lean ====
section
/-! DEFINITION. The dispatcher: one arm for each row of spec/opcode_table.json, each a direct call of its meaning. -/

namespace Sys2Proof.Machine

def exec (i : Instr) (s : State) : Host.Outcome State Fault Refusal :=
  match i with
  | .cnop a => Sys2Proof.Machine.execCnop a s
  | .add a rd ra rb => Sys2Proof.Machine.execAdd a rd ra rb s
  | .sub a rd ra rb => Sys2Proof.Machine.execSub a rd ra rb s
  | .and a rd ra rb => Sys2Proof.Machine.execAnd a rd ra rb s
  | .or a rd ra rb => Sys2Proof.Machine.execOr a rd ra rb s
  | .xor a rd ra rb => Sys2Proof.Machine.execXor a rd ra rb s
  | .shl a rd ra rb => Sys2Proof.Machine.execShl a rd ra rb s
  | .shr a rd ra rb => Sys2Proof.Machine.execShr a rd ra rb s
  | .sra a rd ra rb => Sys2Proof.Machine.execSra a rd ra rb s
  | .mov a rd ra => Sys2Proof.Machine.execMov a rd ra s
  | .addi a rd ra imm => Sys2Proof.Machine.execAddi a rd ra imm s
  | .movi a rd imm => Sys2Proof.Machine.execMovi a rd imm s
  | .movhi a rd imm => Sys2Proof.Machine.execMovhi a rd imm s
  | .andi a rd ra imm => Sys2Proof.Machine.execAndi a rd ra imm s
  | .ori a rd ra imm => Sys2Proof.Machine.execOri a rd ra imm s
  | .xori a rd ra imm => Sys2Proof.Machine.execXori a rd ra imm s
  | .shli a rd ra imm => Sys2Proof.Machine.execShli a rd ra imm s
  | .shri a rd ra imm => Sys2Proof.Machine.execShri a rd ra imm s
  | .srai a rd ra imm => Sys2Proof.Machine.execSrai a rd ra imm s
  | .lset a lc ra => Sys2Proof.Machine.execLset a lc ra s
  | .lseti a lc imm => Sys2Proof.Machine.execLseti a lc imm s
  | .lget a rd lc => Sys2Proof.Machine.execLget a rd lc s
  | .cmpr a cmp cond u ra rb => Sys2Proof.Machine.execCmpr a cmp cond u ra rb s
  | .cmpi a cmp cond u ra imm => Sys2Proof.Machine.execCmpi a cmp cond u ra imm s
  | .cmpv a cmp cond vs rb => Sys2Proof.Machine.execCmpv a cmp cond vs rb s
  | .rdvs a rd vs => Sys2Proof.Machine.execRdvs a rd vs s
  | .rdfn a rd => Sys2Proof.Machine.execRdfn a rd s
  | .jmp a tgt => Sys2Proof.Machine.execJmp a tgt s
  | .bc a cmp tgt => Sys2Proof.Machine.execBc a cmp tgt s
  | .bnc a cmp tgt => Sys2Proof.Machine.execBnc a cmp tgt s
  | .bloop a lc tgt => Sys2Proof.Machine.execBloop a lc tgt s
  | .iarm a => Sys2Proof.Machine.execIarm a s
  | .fend a => Sys2Proof.Machine.execFend a s
  | .wordCheckStage a => Sys2Proof.Machine.execWordCheckStage a s
  | .holdRelease a slot => Sys2Proof.Machine.execHoldRelease a slot s
  | .timedHoldEnd d => Sys2Proof.Machine.execTimedHoldEnd d s
  | .mnop a => Sys2Proof.Machine.execMnop a s
  | .wload a f => Sys2Proof.Machine.execWload a f s
  | .mpass a f => Sys2Proof.Machine.execMpass a f s
  | .wloadComplete a => Sys2Proof.Machine.execWloadComplete a s
  | .passComplete a => Sys2Proof.Machine.execPassComplete a s
  | .vnop a p => Sys2Proof.Machine.execVnop a p s
  | .vadd a p f => Sys2Proof.Machine.execVadd a p f s
  | .vsub a p f => Sys2Proof.Machine.execVsub a p f s
  | .vmul a p f => Sys2Proof.Machine.execVmul a p f s
  | .vfma a p f => Sys2Proof.Machine.execVfma a p f s
  | .vmin a p f => Sys2Proof.Machine.execVmin a p f s
  | .vmax a p f => Sys2Proof.Machine.execVmax a p f s
  | .vclt a p f => Sys2Proof.Machine.execVclt a p f s
  | .vcle a p f => Sys2Proof.Machine.execVcle a p f s
  | .vceq a p f => Sys2Proof.Machine.execVceq a p f s
  | .vsel a p f => Sys2Proof.Machine.execVsel a p f s
  | .vcvt a p f => Sys2Proof.Machine.execVcvt a p f s
  | .vfn a p f => Sys2Proof.Machine.execVfn a p f s
  | .vrand a p f => Sys2Proof.Machine.execVrand a p f s
  | .vsum a p f => Sys2Proof.Machine.execVsum a p f s
  | .vmaxr a p f => Sys2Proof.Machine.execVmaxr a p f s
  | .vargmax a p f => Sys2Proof.Machine.execVargmax a p f s
  | .vsumsq a p f => Sys2Proof.Machine.execVsumsq a p f s
  | .vacc a p f => Sys2Proof.Machine.execVacc a p f s
  | .vtld a p f => Sys2Proof.Machine.execVtld a p f s
  | .vtldComplete a p => Sys2Proof.Machine.execVtldComplete a p s
  | .vecResultWrite a => Sys2Proof.Machine.execVecResultWrite a s
  | .accHalfRelease a => Sys2Proof.Machine.execAccHalfRelease a s
  | .lnop a => Sys2Proof.Machine.execLnop a s
  | .ldd a f => Sys2Proof.Machine.execLdd a f s
  | .sfill a f => Sys2Proof.Machine.execSfill a f s
  | .scopy a f => Sys2Proof.Machine.execScopy a f s
  | .scount a f => Sys2Proof.Machine.execScount a f s
  | .snop a => Sys2Proof.Machine.execSnop a s
  | .std a f => Sys2Proof.Machine.execStd a f s
  | .str a f => Sys2Proof.Machine.execStr a f s
  | .descriptorStart a u => Sys2Proof.Machine.execDescriptorStart a u s
  | .descriptorComplete a u => Sys2Proof.Machine.execDescriptorComplete a u s
  | .wheelServe a j => Sys2Proof.Machine.execWheelServe a j s
  | .sectorDecode a j err => Sys2Proof.Machine.execSectorDecode a j err s
  | .nnop a => Sys2Proof.Machine.execNnop a s
  | .msend a f => Sys2Proof.Machine.execMsend a f s
  | .flitInject a => Sys2Proof.Machine.execFlitInject a s
  | .ynop a => Sys2Proof.Machine.execYnop a s
  | .sig a sc so rem n => Sys2Proof.Machine.execSig a sc so rem n s
  | .cons a sc n => Sys2Proof.Machine.execCons a sc n s
  | .wait a f => Sys2Proof.Machine.execWait a f s
  | .pwait a f => Sys2Proof.Machine.execPwait a f s
  | .qsel a f => Sys2Proof.Machine.execQsel a f s
  | .qrp a q so => Sys2Proof.Machine.execQrp a q so s
  | .hswap a h => Sys2Proof.Machine.execHswap a h s
  | .hval a h role v => Sys2Proof.Machine.execHval a h role v s
  | .harm a => Sys2Proof.Machine.execHarm a s
  | .waitTimeout a => Sys2Proof.Machine.execWaitTimeout a s
  | .incrementLand a sc => Sys2Proof.Machine.execIncrementLand a sc s
  | .messageDecision a => Sys2Proof.Machine.execMessageDecision a s
  | .messageVisible a q => Sys2Proof.Machine.execMessageVisible a q s
  | .lossNotice a => Sys2Proof.Machine.execLossNotice a s
  | .remoteArrivalWrite a => Sys2Proof.Machine.execRemoteArrivalWrite a s
  | .storeSegmentClose a => Sys2Proof.Machine.execStoreSegmentClose a s
  | .storeCompletion a => Sys2Proof.Machine.execStoreCompletion a s
  | .tickRecognition d => Sys2Proof.Machine.execTickRecognition d s
  | .tickOverrun d => Sys2Proof.Machine.execTickOverrun d s
  | .lateFrameRecognition d => Sys2Proof.Machine.execLateFrameRecognition d s
  | .holdWatchdogAbort d => Sys2Proof.Machine.execHoldWatchdogAbort d s
  | .runWatchdogAbort d => Sys2Proof.Machine.execRunWatchdogAbort d s
  | .throttleWindow d => Sys2Proof.Machine.execThrottleWindow d s
  | .frequencyWindow d => Sys2Proof.Machine.execFrequencyWindow d s
  | .vcoreRaise d => Sys2Proof.Machine.execVcoreRaise d s
  | .vcoreLower d => Sys2Proof.Machine.execVcoreLower d s
  | .droopStretch d region demand => Sys2Proof.Machine.execDroopStretch d region demand s
  | .dieTimeAlign d => Sys2Proof.Machine.execDieTimeAlign d s
  | .timeExchangeStart p => Sys2Proof.Machine.execTimeExchangeStart p s
  | .timeSync p tex frac => Sys2Proof.Machine.execTimeSync p tex frac s
  | .timeFollowUp p tex t1 trt frac => Sys2Proof.Machine.execTimeFollowUp p tex t1 trt frac s
  | .timeDelayRequest p tex frac => Sys2Proof.Machine.execTimeDelayRequest p tex frac s
  | .timeResponse p tex t4 trt thops => Sys2Proof.Machine.execTimeResponse p tex t4 trt thops s
  | .timeHoldover => Sys2Proof.Machine.execTimeHoldover  s
  | .refreshWindowRound d ch err => Sys2Proof.Machine.execRefreshWindowRound d ch err s
  | .refreshIntervalRound d ch err => Sys2Proof.Machine.execRefreshIntervalRound d ch err s
  | .preTickRefresh d errs => Sys2Proof.Machine.execPreTickRefresh d errs s
  | .forcedRefresh d ch errs => Sys2Proof.Machine.execForcedRefresh d ch errs s
  | .refreshRoundEnd d ch => Sys2Proof.Machine.execRefreshRoundEnd d ch s
  | .dramRateCompare d layer t0 t1 t2 t3 => Sys2Proof.Machine.execDramRateCompare d layer t0 t1 t2 t3 s
  | .bulkClearComplete d => Sys2Proof.Machine.execBulkClearComplete d s
  | .mgmtLaneFail d routerWorks => Sys2Proof.Machine.execMgmtLaneFail d routerWorks s
  | .flitReceive e f corr unc => Sys2Proof.Machine.execFlitReceive e f corr unc s
  | .retryRequest e fseq => Sys2Proof.Machine.execRetryRequest e fseq s
  | .replayTimeout e => Sys2Proof.Machine.execReplayTimeout e s
  | .linkDown e noValidFlit => Sys2Proof.Machine.execLinkDown e noValidFlit s
  | .trainingRetry e => Sys2Proof.Machine.execTrainingRetry e s
  | .trainingComplete e h => Sys2Proof.Machine.execTrainingComplete e h s
  | .linkKeyRenewal p h => Sys2Proof.Machine.execLinkKeyRenewal p h s
  | .linkKeyExpiry p => Sys2Proof.Machine.execLinkKeyExpiry p s
  | .routerForward d input => Sys2Proof.Machine.execRouterForward d input s
  | .packetDeliver d => Sys2Proof.Machine.execPacketDeliver d s
  | .hostPacket pk => Sys2Proof.Machine.execHostPacket pk s
  | .hostCreditTimeout => Sys2Proof.Machine.execHostCreditTimeout  s
  | .hostAdapterAck spaceLeft => Sys2Proof.Machine.execHostAdapterAck spaceLeft s
  | .routeSwap d => Sys2Proof.Machine.execRouteSwap d s
  | .announcementSend p => Sys2Proof.Machine.execAnnouncementSend p s
  | .announcementReceive p body => Sys2Proof.Machine.execAnnouncementReceive p body s
  | .neighbourLost p => Sys2Proof.Machine.execNeighbourLost p s
  | .powerCapCompute => Sys2Proof.Machine.execPowerCapCompute  s
  | .thermalProtect => Sys2Proof.Machine.execThermalProtect  s
  | .avsbusRead d r => Sys2Proof.Machine.execAvsbusRead d r s
  | .pmbusPoll k r => Sys2Proof.Machine.execPmbusPoll k r s
  | .sensorRead id value => Sys2Proof.Machine.execSensorRead id value s
  | .thermtrip => Sys2Proof.Machine.execThermtrip  s
  | .inletRead value => Sys2Proof.Machine.execInletRead value s
  | .inletStale => Sys2Proof.Machine.execInletStale  s
  | .railGood k => Sys2Proof.Machine.execRailGood k s
  | .railTimeout k => Sys2Proof.Machine.execRailTimeout k s
  | .railDischargeTimeout k => Sys2Proof.Machine.execRailDischargeTimeout k s
  | .pwrgdTimeout => Sys2Proof.Machine.execPwrgdTimeout  s
  | .pwrgdFall => Sys2Proof.Machine.execPwrgdFall  s
  | .rstNAssert lowNs => Sys2Proof.Machine.execRstNAssert lowNs s
  | .rstNRelease => Sys2Proof.Machine.execRstNRelease  s
  | .refclkLoss => Sys2Proof.Machine.execRefclkLoss  s
  | .hubRomBoot => Sys2Proof.Machine.execHubRomBoot  s
  | .firmwareStart => Sys2Proof.Machine.execFirmwareStart  s
  | .dramTraining d ok => Sys2Proof.Machine.execDramTraining d ok s
  | .bringupLinkStep => Sys2Proof.Machine.execBringupLinkStep  s
  | .bringupDiscovery => Sys2Proof.Machine.execBringupDiscovery  s
  | .bringupAttestation => Sys2Proof.Machine.execBringupAttestation  s
  | .marigoldWatchdog => Sys2Proof.Machine.execMarigoldWatchdog  s
  | .powerStateRequest r v => Sys2Proof.Machine.execPowerStateRequest r v s
  | .powerTransition => Sys2Proof.Machine.execPowerTransition  s
  | .quiesceEnd => Sys2Proof.Machine.execQuiesceEnd  s
  | .dieFence r d => Sys2Proof.Machine.execDieFence r d s
  | .dieRelease r d => Sys2Proof.Machine.execDieRelease r d s
  | .removalRequest r => Sys2Proof.Machine.execRemovalRequest r s
  | .removalCancel r => Sys2Proof.Machine.execRemovalCancel r s
  | .removalDrainEnd => Sys2Proof.Machine.execRemovalDrainEnd  s
  | .admissionRelease r => Sys2Proof.Machine.execAdmissionRelease r s
  | .updateBegin r => Sys2Proof.Machine.execUpdateBegin r s
  | .updateChunk r chunk => Sys2Proof.Machine.execUpdateChunk r chunk s
  | .updateVerify r => Sys2Proof.Machine.execUpdateVerify r s
  | .updateActivate r => Sys2Proof.Machine.execUpdateActivate r s
  | .updateAbort r => Sys2Proof.Machine.execUpdateAbort r s
  | .updateRestart r => Sys2Proof.Machine.execUpdateRestart r s
  | .updateCommit r => Sys2Proof.Machine.execUpdateCommit r s
  | .sessionOpenRequest route role key enrol cert => Sys2Proof.Machine.execSessionOpenRequest route role key enrol cert s
  | .sessionProof challenge cipher proofSig => Sys2Proof.Machine.execSessionProof challenge cipher proofSig s
  | .sessionClose r => Sys2Proof.Machine.execSessionClose r s
  | .sessionTimeout ses => Sys2Proof.Machine.execSessionTimeout ses s
  | .discoveryRead route idx sub off len => Sys2Proof.Machine.execDiscoveryRead route idx sub off len s
  | .dictRead r idx sub off len => Sys2Proof.Machine.execDictRead r idx sub off len s
  | .dictWrite r idx sub off tot more value => Sys2Proof.Machine.execDictWrite r idx sub off tot more value s
  | .loadBegin r => Sys2Proof.Machine.execLoadBegin r s
  | .planChunk r chunk => Sys2Proof.Machine.execPlanChunk r chunk s
  | .loadEnd r plan => Sys2Proof.Machine.execLoadEnd r plan s
  | .planLoadApply => Sys2Proof.Machine.execPlanLoadApply  s
  | .standbyBegin r => Sys2Proof.Machine.execStandbyBegin r s
  | .standbyEnd r content => Sys2Proof.Machine.execStandbyEnd r content s
  | .loadAbort r => Sys2Proof.Machine.execLoadAbort r s
  | .planUnload r => Sys2Proof.Machine.execPlanUnload r s
  | .flipArm r => Sys2Proof.Machine.execFlipArm r s
  | .flipDisarm r => Sys2Proof.Machine.execFlipDisarm r s
  | .imemStandbyWrite a bank addr data => Sys2Proof.Machine.execImemStandbyWrite a bank addr data s
  | .openHostSession r job => Sys2Proof.Machine.execOpenHostSession r job s
  | .closeHostSession r host => Sys2Proof.Machine.execCloseHostSession r host s
  | .framePeriodWrite r v => Sys2Proof.Machine.execFramePeriodWrite r v s
  | .powerCapWrite r v => Sys2Proof.Machine.execPowerCapWrite r v s
  | .coordinateWrite r size v => Sys2Proof.Machine.execCoordinateWrite r size v s
  | .routeImageWrite r d image => Sys2Proof.Machine.execRouteImageWrite r d image s
  | .routeSwapArm r d v => Sys2Proof.Machine.execRouteSwapArm r d v s
  | .passThroughWrite r d v => Sys2Proof.Machine.execPassThroughWrite r d v s
  | .portAutomatic r p => Sys2Proof.Machine.execPortAutomatic r p s
  | .portDisable r p => Sys2Proof.Machine.execPortDisable r p s
  | .portLowRate r p => Sys2Proof.Machine.execPortLowRate r p s
  | .portReenable r p => Sys2Proof.Machine.execPortReenable r p s
  | .attestationNonce r nonce => Sys2Proof.Machine.execAttestationNonce r nonce s
  | .attestationReady => Sys2Proof.Machine.execAttestationReady  s
  | .jobKeyOffer r off len => Sys2Proof.Machine.execJobKeyOffer r off len s
  | .jobKeyCapsule r capsule => Sys2Proof.Machine.execJobKeyCapsule r capsule s
  | .jobKeyExpiry job => Sys2Proof.Machine.execJobKeyExpiry job s
  | .debugUnlockToken r token => Sys2Proof.Machine.execDebugUnlockToken r token s
  | .restoreDefaults r v => Sys2Proof.Machine.execRestoreDefaults r v s
  | .recorderEmpty r => Sys2Proof.Machine.execRecorderEmpty r s
  | .mirrorEmpty r => Sys2Proof.Machine.execMirrorEmpty r s
  | .eventEngineTake => Sys2Proof.Machine.execEventEngineTake  s
  | .optimeStore => Sys2Proof.Machine.execOptimeStore  s
  | .standbyPowerApply => Sys2Proof.Machine.execStandbyPowerApply  s
  | .standbyPowerLoss tornMirror => Sys2Proof.Machine.execStandbyPowerLoss tornMirror s
  | .pwrgdRise => Sys2Proof.Machine.execPwrgdRise  s
  | .railDischarged k => Sys2Proof.Machine.execRailDischarged k s
  | .refclkReturn => Sys2Proof.Machine.execRefclkReturn  s
  | .plcaNodeNumberEffect => Sys2Proof.Machine.execPlcaNodeNumberEffect  s
  | .faultReportArrival base port portState nbState gen => Sys2Proof.Machine.execFaultReportArrival base port portState nbState gen s
  | .jtagTckEdge tms tdi pins => Sys2Proof.Machine.execJtagTckEdge tms tdi pins s
  | .trstNAssert => Sys2Proof.Machine.execTrstNAssert  s

end Sys2Proof.Machine
end

