-- ==== Sys2Proof/Safety.lean ====
section
/-! DEFINITION. The terms claims are stated in: which part of the module a command leaves alone (frames), what a
register or a unit gains, and the invariants of whole runs. -/

namespace Sys2Proof.Machine

/-! ### Frames -/

/-- From s to t only die n changes: ports, hub die, draws, queue and every other die stay. -/
def OnlyDie (n : DieIx) (s t : State) : Prop :=
  { t with dies := s.dies } = s ∧ ∀ m : DieIx, m ≠ n → t.dies[m] = s.dies[m]

/-- From s to t only one core changes: everything else of its die stays, and every other die. -/
def OnlyCore (a : CoreRef) (s t : State) : Prop :=
  OnlyDie a.die s t ∧ { t.dies[a.die] with cores := s.dies[a.die].cores } = s.dies[a.die]
    ∧ ∀ c : CoreIx, c ≠ a.core → t.dies[a.die].cores[c] = s.dies[a.die].cores[c]

/-- Only the control core of one core changes. -/
def OnlyCtl (a : CoreRef) (s t : State) : Prop :=
  OnlyCore a s t ∧ { t.core a with ctl := (s.core a).ctl } = s.core a

/-- Only the matrix arrays of one core change. -/
def OnlyMtx (a : CoreRef) (s t : State) : Prop :=
  OnlyCore a s t ∧ { t.core a with mtx := (s.core a).mtx } = s.core a

/-- Only the vector engine of one core changes. -/
def OnlyVec (a : CoreRef) (s t : State) : Prop :=
  OnlyCore a s t ∧ { t.core a with vec := (s.core a).vec } = s.core a

/-- Only the handle state of one core changes. -/
def OnlyHdl (a : CoreRef) (s t : State) : Prop :=
  OnlyCore a s t ∧ { t.core a with hdl := (s.core a).hdl } = s.core a

/-- Only the sync counters of one core change. -/
def OnlySync (a : CoreRef) (s t : State) : Prop :=
  OnlyCore a s t ∧ { t.core a with sync := (s.core a).sync } = s.core a

/-- Only the rings and sends of one core change. -/
def OnlyRings (a : CoreRef) (s t : State) : Prop :=
  OnlyCore a s t ∧ { t.core a with rings := (s.core a).rings } = s.core a

/-- Only one off-module port changes. -/
def OnlyPort (p : PortIx) (s t : State) : Prop :=
  { t with ports := s.ports } = s ∧ ∀ q : PortIx, q ≠ p → t.ports[q] = s.ports[q]

/-- Only the hub die changes. -/
def OnlyHub (s t : State) : Prop := { t with hub := s.hub } = s

/-- Every byte of a core's scratchpad reads as before. -/
def SameScratch (a : CoreRef) (s t : State) : Prop :=
  ∀ x : Nat, Cells.get (t.core a).scratch x = Cells.get (s.core a).scratch x

/-! ### The control core -/

/-- Scalar register rd takes v; nothing else changes anywhere (R134, R137). -/
def SetReg (a : CoreRef) (rd : BitVec 4) (v : U32) (s t : State) : Prop :=
  OnlyCtl a s t ∧ { (t.core a).ctl with s := (s.core a).ctl.s } = (s.core a).ctl
    ∧ (t.core a).ctl.s[rd.toFin] = v
    ∧ ∀ r : BitVec 4, r ≠ rd → (t.core a).ctl.s[r.toFin] = (s.core a).ctl.s[r.toFin]

/-- Loop counter lc takes v; nothing else changes anywhere. -/
def SetLoop (a : CoreRef) (lc : BitVec 3) (v : BitVec 24) (s t : State) : Prop :=
  OnlyCtl a s t ∧ { (t.core a).ctl with lc := (s.core a).ctl.lc } = (s.core a).ctl
    ∧ (t.core a).ctl.lc[lc.toFin] = v
    ∧ ∀ r : BitVec 3, r ≠ lc → (t.core a).ctl.lc[r.toFin] = (s.core a).ctl.lc[r.toFin]

/-- Comparator c takes a result and a poison bit; nothing else changes anywhere. -/
def SetCmp (a : CoreRef) (c : BitVec 2) (r p : Bool) (s t : State) : Prop :=
  OnlyCtl a s t ∧ { (t.core a).ctl with cmp := (s.core a).ctl.cmp } = (s.core a).ctl
    ∧ (t.core a).ctl.cmp[c.toFin] = ⟨r, p⟩
    ∧ ∀ x : BitVec 2, x ≠ c → (t.core a).ctl.cmp[x.toFin] = (s.core a).ctl.cmp[x.toFin]

/-- The word address becomes pc and the next check stage moves one branch cycle on; nothing else changes (R141). -/
def Branched (a : CoreRef) (pc : BitVec 16) (s t : State) : Prop :=
  OnlyCtl a s t ∧ { (t.core a).ctl with pc := (s.core a).ctl.pc, nextChk := (s.core a).ctl.nextChk } = (s.core a).ctl
    ∧ (t.core a).ctl.pc = pc ∧ (t.core a).ctl.nextChk = (s.core a).ctl.nextChk + 1

/-- From s to t the module changes only in a core's capture and fault word, in the events of its die and in the die's record
of the fault bits set in the present cycle: every other core, and every other unit of the core, stays. -/
def OnlyCapture (a : CoreRef) (s t : State) : Prop :=
  OnlyDie a.die s t
    ∧ { t.dies[a.die] with cores := s.dies[a.die].cores, evq := s.dies[a.die].evq, evLost := s.dies[a.die].evLost,
                           setNow := s.dies[a.die].setNow } = s.dies[a.die]
    ∧ (∀ c : CoreIx, c ≠ a.core → t.dies[a.die].cores[c] = s.dies[a.die].cores[c])
    ∧ { t.core a with ctl := (s.core a).ctl } = s.core a
    ∧ { (t.core a).ctl with cap := (s.core a).ctl.cap, fault := (s.core a).ctl.fault } = (s.core a).ctl

/-- A refusal of a word slot with a cause: the counter of the capture rises, an empty capture takes slot, cause, address,
bank and frame, a capture that is taken keeps them, `ill_slot` is set, and nothing else changes: no register, no unit,
no hold, no checked slot (R151, R154). -/
def Refused (a : CoreRef) (slot cause : Nat) (s t : State) : Prop :=
  OnlyCapture a s t
    ∧ (t.core a).ctl.fault = (s.core a).ctl.fault ||| 1
    ∧ (t.core a).ctl.cap =
        if (s.core a).ctl.cap.valid then { (s.core a).ctl.cap with cnt := satAdd (s.core a).ctl.cap.cnt 1 }
        else { cnt := satAdd (s.core a).ctl.cap.cnt 1, addr := (s.core a).ctl.pc, bank := (s.core a).ctl.act,
               slot := BitVec.ofNat 4 slot, cause := BitVec.ofNat 4 cause, valid := true,
               frame := BitVec.ofNat 16 s.dies[a.die].frm.fnum.toNat }

/-! ### Word slots outside CTL -/

/-- The core, mask bit and operation that a word-slot command checks (R124, R163 to R183). -/
def slotOf : Instr → Option (CoreRef × Fin 8 × SlotOp)
  | .mnop a => some (a, 1, .nop)
  | .wload a f => some (a, 1, .wload f)
  | .mpass a f => some (a, 1, .mpass f)
  | .vnop a p => some (a, VPort.slot p, .nop)
  | .vadd a p f => some (a, VPort.slot p, .elem .vadd f)
  | .vsub a p f => some (a, VPort.slot p, .elem .vsub f)
  | .vmul a p f => some (a, VPort.slot p, .elem .vmul f)
  | .vfma a p f => some (a, VPort.slot p, .elem .vfma f)
  | .vmin a p f => some (a, VPort.slot p, .elem .vmin f)
  | .vmax a p f => some (a, VPort.slot p, .elem .vmax f)
  | .vclt a p f => some (a, VPort.slot p, .elem .vclt f)
  | .vcle a p f => some (a, VPort.slot p, .elem .vcle f)
  | .vceq a p f => some (a, VPort.slot p, .elem .vceq f)
  | .vsel a p f => some (a, VPort.slot p, .elem .vsel f)
  | .vcvt a p f => some (a, VPort.slot p, .elem .vcvt f)
  | .vfn a p f => some (a, VPort.slot p, .elem .vfn f)
  | .vrand a p f => some (a, VPort.slot p, .elem .vrand f)
  | .vsum a p f => some (a, VPort.slot p, .red .vsum f)
  | .vmaxr a p f => some (a, VPort.slot p, .red .vmaxr f)
  | .vargmax a p f => some (a, VPort.slot p, .red .vargmax f)
  | .vsumsq a p f => some (a, VPort.slot p, .red .vsumsq f)
  | .vacc a p f => some (a, VPort.slot p, .vacc f)
  | .vtld a p f => some (a, VPort.slot p, .vtld f)
  | .lnop a => some (a, 4, .nop)
  | .ldd a f => some (a, 4, .stream .ldd f)
  | .sfill a f => some (a, 4, .stream .sfill f)
  | .scopy a f => some (a, 4, .stream .scopy f)
  | .scount a f => some (a, 4, .scount f)
  | .snop a => some (a, 5, .nop)
  | .std a f => some (a, 5, .stream .std f)
  | .str a f => some (a, 5, .stream .str f)
  | .nnop a => some (a, 6, .nop)
  | .msend a f => some (a, 6, .msend f)
  | .ynop a => some (a, 7, .nop)
  | .sig a sc so rem n => some (a, 7, .sig sc so rem n)
  | .cons a sc n => some (a, 7, .cons sc n)
  | .wait a f => some (a, 7, .wait f)
  | .pwait a f => some (a, 7, .pwait f)
  | .qsel a f => some (a, 7, .qsel f)
  | .qrp a q so => some (a, 7, .qrp q so)
  | .hswap a h => some (a, 7, .hswap h)
  | .hval a h role v => some (a, 7, .hval h role v)
  | .harm a => some (a, 7, .harm)
  | _ => none

/-- The core of a command of the CTL word slot (R137). -/
def ctlCore : Instr → Option CoreRef
  | .cnop a | .add a _ _ _ | .sub a _ _ _ | .and a _ _ _ | .or a _ _ _ | .xor a _ _ _ | .shl a _ _ _ | .shr a _ _ _ | .sra a _ _ _
  | .mov a _ _ | .addi a _ _ _ | .movi a _ _ | .movhi a _ _ | .andi a _ _ _ | .ori a _ _ _ | .xori a _ _ _ | .shli a _ _ _
  | .shri a _ _ _ | .srai a _ _ _ | .lset a _ _ | .lseti a _ _ | .lget a _ _ | .cmpr a _ _ _ _ _ | .cmpi a _ _ _ _ _
  | .cmpv a _ _ _ _ | .rdvs a _ _ | .rdfn a _ | .jmp a _ | .bc a _ _ | .bnc a _ _ | .bloop a _ _ | .iarm a | .fend a => some a
  | _ => none

/-- The die of a command that is the work of a core, a router or a controller of that die: what the clocks of its VCORE
drive (R449). -/
def clockedBy (i : Instr) : Option DieIx :=
  match ctlCore i, slotOf i with
  | some a, _ => some a.die
  | none, some (a, _, _) => some a.die
  | none, none => match i with
    | .wordCheckStage a | .holdRelease a _ | .wloadComplete a | .passComplete a | .vtldComplete a _ | .vecResultWrite a
    | .accHalfRelease a | .descriptorStart a _ | .descriptorComplete a _ | .wheelServe a _ | .incrementLand a _
    | .storeCompletion a | .messageDecision a | .messageVisible a _ | .lossNotice a | .waitTimeout a
    | .remoteArrivalWrite a | .storeSegmentClose a | .flitInject a => some a.die
    | .timedHoldEnd n | .holdWatchdogAbort n | .runWatchdogAbort n | .throttleWindow n | .droopStretch n _ _
    | .refreshRoundEnd n _ | .routerForward n _ | .packetDeliver n => some n
    | _ => none

/-- Commands that Marigold, its firmware or its sensors carry out. -/
def byHub : Instr → Bool
  | .railGood _ | .railDischargeTimeout _ | .railTimeout _ | .pwrgdTimeout | .avsbusRead _ _ | .pmbusPoll _ _ | .sensorRead _ _
  | .dramRateCompare _ _ _ _ _ _ | .thermtrip | .inletRead _ | .inletStale | .powerCapCompute | .thermalProtect
  | .faultReportArrival _ _ _ _ _ | .plcaNodeNumberEffect => true
  | _ => false

/-- The causes under which a word slot is illegal on its core as the core stands (R86, R120, R154). -/
def slotCauses (s : State) (a : CoreRef) (op : SlotOp) : List Nat :=
  illegalCauses (s.dies[a.die].designator a.core) (s.core a) (s.core a).ctl.s op

/-- The checked slot that a word-slot command makes in the present plan cycle. -/
def slotNow (s : State) (a : CoreRef) (b : Fin 8) (op : SlotOp) : Checked :=
  { due := s.dies[a.die].clock.pcyc, slot := b, op := op, regs := (s.core a).ctl.s, pc := (s.core a).ctl.pc }

/-- The die of a word slot runs, the slot is legal, and every condition of its readiness is met (R86, R121, R161). -/
def Issues (s : State) (a : CoreRef) (b : Fin 8) (op : SlotOp) : Prop :=
  s.runs a.die = true ∧ slotCauses s a op = [] ∧ s.dies[a.die].slotReady a.core (slotNow s a b op) = true

/-- The present run cycle and clock cycle of a core's die. -/
def runCycle (s : State) (a : CoreRef) : Nat := s.dies[a.die].clock.rc
def clockCycle (s : State) (a : CoreRef) : Nat := s.dies[a.die].clock.clk

/-- The byte address of a handle's buffer on a core, with the fill role or the compute role; zero where it has none (R217). -/
def bufBase (s : State) (a : CoreRef) (h : Nat) (fill : Bool := false) : Nat := (((s.core a).buf h fill).map (·.base)).getD 0

/-- A bound operand of a vector operation: its buffer with the compute role, a format, and rows of 2^sg elements (R168,
R212). -/
def boundTo (s : State) (a : CoreRef) (h : BitVec 6) (fmt sg : BitVec 4) : Bound := ⟨bufBase s a h.toNat, fmt, 2 ^ sg.toNat⟩

/-- The scale buffers of a bound operand: block scales at handle h + 16, row scales at h + 32, where its mode has them (R99). -/
def scalesOf (s : State) (a : CoreRef) (h : Nat) (scl : BitVec 2) : BoundScale :=
  ⟨scl, if scaledBlock scl then bufBase s a (h + 16) else 0, if scaledRow scl then bufBase s a (h + 32) else 0⟩

/-- A word slot of SYN takes effect at the end of its cycle: it changes nothing now but the list of what that end brings
(R185). -/
def EndsWith (a : CoreRef) (op : SlotOp) (s t : State) : Prop :=
  OnlyCtl a s t ∧ (t.core a).ctl = { (s.core a).ctl with ends := (s.core a).ctl.ends ++ [slotNow s a 7 op] }

/-- Register s[(so + i) mod 16] of a core (R159). -/
def opReg (s : State) (a : CoreRef) (so : BitVec 4) (i : Nat) : U32 := regAt (s.core a).ctl.s so i

/-- The stream unit u of a core gains a descriptor at the end of its places; every other unit and everything else of the
module stays, but for the descriptor tag, which rises by `tags` (R225, R322). -/
def GainsDescriptor (a : CoreRef) (u : Fin 6) (x : Desc) (tags : BitVec 16) (s t : State) : Prop :=
  OnlyCore a s t ∧ { t.core a with st := (s.core a).st, dtag := (s.core a).dtag } = s.core a
    ∧ (t.core a).st[u] = { (s.core a).st[u] with places := (s.core a).st[u].places ++ [x] }
    ∧ (∀ w : Fin 6, w ≠ u → (t.core a).st[w] = (s.core a).st[w])
    ∧ (t.core a).dtag = (s.core a).dtag + tags

/-- An increment is put on its way to a counter of a core; nothing else changes (R185, R259). -/
def SendsInc (a : CoreRef) (i : Inc) (s t : State) : Prop :=
  OnlySync a s t ∧ (t.core a).sync = { (s.core a).sync with incs := (s.core a).sync.incs ++ [i] }

/-- A message of a core of this die, with a ring, a tag and a sequence number, is answered by a core with a code (0: ACK): the
core that sent it gets an increment of 1 on the counter that its send of that ring, tag and number names for that answer, landing
after the latency of the signal network; nothing else is sent to any core's counters (R181, R259, R283). -/
def AnswersSend (a : CoreRef) (q : BitVec 4) (tag : BitVec 16) (src : BitVec 23) (seq : BitVec 32) (code : Nat) (s t : State) : Prop :=
  let d := s.dies[a.die]
  let c := desCore src.toNat
  let sent := d.cores[c].rings.outs.find? (fun o => o.seq = seq && o.q = q && o.tag = tag)
  (∀ x : CoreIx, x ≠ c → (t.dies[a.die].cores[x]).sync.incs = d.cores[x].sync.incs)
    ∧ (sent = none → (t.dies[a.die].cores[c]).sync.incs = d.cores[c].sync.incs)
    ∧ ∀ o : OutSend, sent = some o →
        (t.dies[a.die].cores[c]).sync.incs = d.cores[c].sync.incs ++
          [{ due := if a.core = c then clockCycle s a + 2 else clockCycle s a + 6 + 2 * hops a.core c,
             sc := (if code = 0 then o.ack else o.nak).toFin, onC := false, amt := 1, rem := decide (c ≠ a.core),
             src := d.designator a.core, job := d.jobOf, ans := some ⟨BitVec.ofNat 4 code, q, tag, seq⟩ }]

/-- A write of an instruction bank of a core, on a die that stands as u has it: one that names the active bank is refused,
counted and flagged, and changes no bank; any other puts its bytes into the bank that it names, up to the bank's end, and
begins its load (R146 to R148). -/
def StandbyWritten (a : CoreRef) (bank : Bool) (addr : BitVec 18) (data : Bytes) (u t : State) : Prop :=
  let y := (u.core a).ctl
  let z := (t.core a).ctl
  let old := if bank then y.imem1 else y.imem0
  let new := if bank then z.imem1 else z.imem0
  OnlyDie a.die u t
    ∧ (y.act = bank → { t.core a with ctl := y } = u.core a ∧ { z with wrRef := y.wrRef, fault := y.fault } = y
        ∧ (∀ c : CoreIx, c ≠ a.core → t.dies[a.die].cores[c] = u.dies[a.die].cores[c])
        ∧ z.wrRef = satAdd y.wrRef 1 ∧ bit z.fault 6 = true)
    ∧ (y.act ≠ bank → OnlyCtl a u t ∧ { z with imem0 := y.imem0, imem1 := y.imem1, sbState := y.sbState } = y
        ∧ z.sbState = .loading ∧ (if bank then z.imem0 = y.imem0 else z.imem1 = y.imem1)
        ∧ (Cells.wf old = true →
            (∀ i, i < data.length → addr.toNat + i < 0x30000 → Cells.get new (addr.toNat + i) = data.getD i 0)
            ∧ ∀ k, k < addr.toNat ∨ addr.toNat + data.length ≤ k ∨ 0x30000 ≤ k → Cells.get new k = Cells.get old k))

/-- A standby load of a session's container, whose content is c, is taken by the dies of its mask that their lanes reach and that
run a plan of its job, at an instant at which none of them has a tick to recognise: the one program that c may name goes into the bank of its core that
is not active, over what the bank held, and every bank that was being loaded is complete; nothing else of a core changes
(R146, R147, R384). -/
def StandbyTaken (c : ClearStandby) (s t : State) : Prop :=
  let told (m : DieIx) := bit s.hub.dict.load.mask m.val = true ∧ s.dies[m].reached = true
    ∧ ∃ p, s.dies[m].plan = some p ∧ p.job = s.hub.dict.load.job
  let ended (y : Ctl) : Ctl := if y.sbState = .loading then { y with sbState := .complete } else y
  (c.dies = [] → t.hub.dict.load.st = .done ∧ t.ports = s.ports
    ∧ ∀ m : DieIx, (¬told m → t.dies[m] = s.dies[m]) ∧ { t.dies[m] with cores := s.dies[m].cores } = s.dies[m]
      ∧ ∀ i : CoreIx, { t.dies[m].cores[i] with ctl := (s.dies[m].cores[i]).ctl } = s.dies[m].cores[i]
        ∧ (told m → (t.dies[m].cores[i]).ctl = ended (s.dies[m].cores[i]).ctl))
  ∧ (∀ (n : DieIx) (j : CoreIx) (prog : Bytes), told n → c.dies = [(n, ⟨none, [(j, ⟨none, some prog⟩)]⟩)] →
      t.hub.dict.load.st = .done
      ∧ (let y := (s.dies[n].cores[j]).ctl
         (t.dies[n].cores[j]).ctl =
           if y.act then { y with imem0 := Cells.setN y.imem0 0 (prog.take 0x30000), sbState := .complete }
           else { y with imem1 := Cells.setN y.imem1 0 (prog.take 0x30000), sbState := .complete })
      ∧ ∀ i : CoreIx, i ≠ j → (t.dies[n].cores[i]).ctl = ended (s.dies[n].cores[i]).ctl)

/-- The dies of a checked load with plan p load it where their frame has ended: each takes its part, and its clear begins; one
whose frame runs waits, and one that the load does not name keeps its plan. With every die loaded and cleared the load is
done (R384, R411). -/
def LoadApplied (p : ClearPlan) (meas : Bytes) (serial : BitVec 64) (s t : State) : Prop :=
  let l := s.hub.dict.load
  let waits (m : DieIx) := bit l.mask m.val = true ∧ s.dies[m].loadAtEnd = true ∧ s.dies[m].inService = true
  t.ports = s.ports
  ∧ (∀ m : DieIx, bit l.mask m.val = false → t.dies[m].plan = s.dies[m].plan ∧ t.dies[m].cores = s.dies[m].cores)
  ∧ (∀ m : DieIx, waits m → s.dies[m].frm.frun = false → s.dies[m].ix = m →
      ∃ q, t.dies[m].plan = some q ∧ q.job = l.job ∧ q.meas = meas ∧ q.planSerial = serial ∧ q.tenant = l.tenant
        ∧ q.theta = p.theta ∧ q.frameLen = p.frameLen ∧ t.dies[m].loadAtEnd = false ∧ t.dies[m].pow.clearing = true
        ∧ t.dies[m].net.slots0 = (planForDie p m).slots
        ∧ ∀ (j : CoreIx) (y : CorePlan), (planForDie p m).cores = [(j, y)] →
            (t.dies[m].cores[j]).ctl.s = vecOf 16 0 y.regs ∧ (t.dies[m].cores[j]).vec.seed = p.seed
            ∧ (t.dies[m].cores[j]).ctl.imem0 = Cells.setN [] 0 (y.program.take 0x30000))
  ∧ (∀ m : DieIx, waits m → s.dies[m].frm.frun = true → t.dies[m] = s.dies[m] ∧ t.hub.dict.load = l)
  ∧ ((∀ m : DieIx, bit l.mask m.val = true → s.dies[m].loadAtEnd = false ∧ s.dies[m].pow.clearing = false) →
      t.hub.dict.load = { l with st := .done, plan := none } ∧ ∀ m : DieIx, t.dies[m].plan = s.dies[m].plan)

/-! ### Frames and refresh -/

/-- Die n opens a frame: this clock cycle is plan cycle −4, no hold stands, and every core starts at address zero with its
registers and scratchpad as they are (R143, R187, R307, R309). -/
def FrameOpens (n : DieIx) (num : Nat) (late : Bool) (s t : State) : Prop :=
  t.dies[n].frm.frun = true ∧ t.dies[n].frm.fnum = BitVec.ofNat 48 num ∧ t.dies[n].frm.flate = late
    ∧ t.dies[n].frm.fallen = [] ∧ t.dies[n].clock.pcyc = -4 ∧ t.dies[n].hold.reqs = [] ∧ t.dies[n].hold.timed = []
    ∧ ∀ c : CoreIx, (t.dies[n].cores[c]).ctl.pc = 0 ∧ (t.dies[n].cores[c]).ctl.nextChk = -4
        ∧ (t.dies[n].cores[c]).ctl.ended = false ∧ (t.dies[n].cores[c]).ctl.stopped = false
        ∧ (t.dies[n].cores[c]).ctl.s = (s.dies[n].cores[c]).ctl.s
        ∧ (t.dies[n].cores[c]).scratch = (s.dies[n].cores[c]).scratch

/-- A round of a kind starts on a channel now: its interval restarts and its write-back queue is empty. Without a write-back
or a scrub that is due, no stored byte and no other core changes; a scrub that is due moves the patrol on by one sector
(R242, R245, R247). -/
def RoundStarts (n : DieIx) (ch : ChanIx) (kind : RoundKind) (s t : State) : Prop :=
  let a : CoreRef := ⟨n, chanCore ch⟩
  let x := (s.core a).vault.chans[chanIn ch]
  let y := (t.core a).vault.chans[chanIn ch]
  let tc := s.dies[n].clock.tc.toNat
  y.round = some ⟨kind, tc, s.dies[n].clock.tcFrac⟩ ∧ y.since = tc ∧ y.wb = []
    ∧ (x.scrubAt ≤ tc → y.patPos = x.patPos + 1)
    ∧ (tc < x.scrubAt → OnlyCore a s t ∧ y.patPos = x.patPos
        ∧ (x.wb = [] → (t.core a).vault.mem = (s.core a).vault.mem ∧ (t.core a).vault.tags = (s.core a).vault.tags)
        ∧ ∀ sec data, x.wb = [(sec, data)] → data.length = 64 → Cells.wf (s.core a).vault.mem = true →
            (t.core a).vault.readSector sec = data)

/-! ### Requests of the object dictionary -/

/-- The request that a dictionary command of a session carries (R392, R394). -/
def requestOf : Instr → Option Req
  | .powerStateRequest r _ | .dieFence r _ | .dieRelease r _ | .removalRequest r | .removalCancel r | .admissionRelease r
  | .updateBegin r | .updateChunk r _ | .updateVerify r | .updateActivate r | .updateAbort r | .updateRestart r | .updateCommit r
  | .sessionClose r | .dictRead r _ _ _ _ | .dictWrite r _ _ _ _ _ _
  | .loadBegin r | .planChunk r _ | .loadEnd r _ | .standbyBegin r | .standbyEnd r _ | .loadAbort r | .planUnload r
  | .flipArm r | .flipDisarm r | .openHostSession r _ | .closeHostSession r _
  | .framePeriodWrite r _ | .powerCapWrite r _ | .coordinateWrite r _ _ | .routeImageWrite r _ _ | .routeSwapArm r _ _
  | .passThroughWrite r _ _ | .portAutomatic r _ | .portDisable r _ | .portLowRate r _ | .portReenable r _
  | .attestationNonce r _ | .jobKeyOffer r _ _ | .jobKeyCapsule r _ | .debugUnlockToken r _ | .restoreDefaults r _
  | .recorderEmpty r | .mirrorEmpty r => some r
  | _ => none

/-- The firmware runs, RST_N is high, and a session hears on the field port its next request in order, its tag verified,
with no segmented write open, while the MRAM takes what is committed to it (R392, R394 to R396, R441, R450). -/
def Fresh (s : State) (r : Req) (x : Session) : Prop :=
  s.hub.fw.running = true ∧ s.hub.board.rstLow = false ∧ s.session r.ses = some x ∧ r.tagOk = true ∧ r.route = .fieldPort
    ∧ r.mramOk = true ∧ r.rseq = x.rseq + 1 ∧ x.seg = none

/-- State u with the response of a request kept in its session, and nothing else changed: t (R394). -/
def Replied (u : State) (r : Req) (o : Response) (t : State) : Prop :=
  { t with hub := { t.hub with dict := { t.hub.dict with sessions := u.hub.dict.sessions } } } = u
    ∧ t.hub.dict.sessions = u.hub.dict.sessions.map (fun (y : Session) =>
        if y.num = r.ses then { y with rseq := r.rseq, lastAt := u.now, resp := some o } else y)

/-- A write is answered with a status that carries no value and names an entry, with its type code (R394). -/
def Written (u : State) (r : Req) (st : BitVec 8) (t : State) : Prop :=
  ∃ idx sub off tot, Replied u r ((bare 0x82 st tot).at_ idx sub off) t

/-- The session of a request has taken its number and keeps its response (R394). -/
def Answered (t : State) (r : Req) (pt st : BitVec 8) : Prop :=
  ∃ y idx sub off tot, t.session r.ses = some y ∧ y.rseq = r.rseq ∧ y.resp = some ((bare pt st tot).at_ idx sub off)

/-- Only the dictionary sessions change. -/
def OnlySessions (s t : State) : Prop :=
  { t with hub := { t.hub with dict := { t.hub.dict with sessions := s.hub.dict.sessions } } } = s

/-! ### Power states -/

/-- The power state, the state asked for, the target of a transition and the removal state are states of R361, R446 and
R451, and the alignment state is one of R304. -/
def ModesLegal (s : State) : Prop :=
  s.hub.power.state.toNat ≤ 4 ∧ s.hub.power.request.toNat ≤ 4
    ∧ (∀ t : Trans, s.hub.power.trans = some t → t.target.toNat ≤ 4)
    ∧ s.hub.bring.removal.toNat ≤ 4 ∧ s.hub.time.align.toNat ≤ 3

/-! ### Loops -/

/-- k executions of `bloop` one after another; none where one of them does not answer a next state. -/
def bloopRuns (a : CoreRef) (lc : BitVec 3) (tgt : BitVec 16) : Nat → State → Option State
  | 0, s => some s
  | k + 1, s => match exec (.bloop a lc tgt) s with
    | .next t => bloopRuns a lc tgt k t
    | _ => none

end Sys2Proof.Machine
end

