-- ==== Sys2Proof/Certificates/Slice0/Obligations.lean ====
section
/-! DEFINITION. The statements for the provers. Each docstring names the rules of spec/ that the statement rests on. -/

open Sys2Proof Sys2Proof.Machine

/-! ### The block -/

/-- Derived: a step with a command at the front of the queue is that command's effect on the state with the rest of the
queue. -/
def Obligations.StepRunsFrontCommand : Prop :=
  ∀ (s : State) (c : Instr) (rest : List Instr),
    step { s with pending := c :: rest } = exec c { s with pending := rest }

/-- Derived: the queue is first in, first out. Whatever command stands at its front, a step that answers a next state has
taken that command and nothing else off the queue and added nothing; an idle step (log entry 3) leaves it empty. -/
def Obligations.EveryStepTakesOneCommand : Prop :=
  ∀ s t : State, step s = .next t → t.pending = s.pending.tail

/-- Derived (R26: no exception, no trap): every step answers a next state, from every state, but for an edge of TCK that
would shift a private JTAG data register, which is refused by name. That it is so is the model's reading (log entry 18): R418 and
R475 say that private instructions act as BYPASS until a debug-unlock opens them, and not what one that is open shifts. -/
def Obligations.OnlyPrivateJtagStops : Prop :=
  ∀ s : State, (∃ t, step s = .next t)
    ∨ (step s = .refused .privateJtag ∧ s.hub.board.standby = true ∧ s.hub.tap.st = .shDr ∧ s.hub.dataReg = .priv
        ∧ ∃ tms tdi pins, s.pending.head? = some (.jtagTckEdge tms tdi pins))

/-! ### The control core (R134 to R145) -/

/-- Derived (R137, R138): the two-register operations and moves write their destination register with the result of the
table, wrapping modulo 2^32, a shift by the low five bits; every other register, comparator and loop counter, and
everything else in the module, is unchanged. As everywhere below, the die of the command runs. -/
def Obligations.RegisterOperations : Prop :=
  ∀ (s : State) (a : CoreRef) (rd ra rb : BitVec 4), s.runs a.die = true →
    let x := (s.core a).ctl.s[ra.toFin]
    let y := (s.core a).ctl.s[rb.toFin]
    (∃ t, exec (.add a rd ra rb) s = .next t ∧ SetReg a rd (BitVec.ofNat 32 (x.toNat + y.toNat)) s t)
    ∧ (∃ t, exec (.sub a rd ra rb) s = .next t ∧ SetReg a rd (BitVec.ofInt 32 (x.toInt - y.toInt)) s t)
    ∧ (∃ t, exec (.and a rd ra rb) s = .next t ∧ SetReg a rd (x &&& y) s t)
    ∧ (∃ t, exec (.or a rd ra rb) s = .next t ∧ SetReg a rd (x ||| y) s t)
    ∧ (∃ t, exec (.xor a rd ra rb) s = .next t ∧ SetReg a rd (x ^^^ y) s t)
    ∧ (∃ t, exec (.shl a rd ra rb) s = .next t ∧ SetReg a rd (BitVec.ofNat 32 (x.toNat * 2 ^ (y.toNat % 32))) s t)
    ∧ (∃ t, exec (.shr a rd ra rb) s = .next t ∧ SetReg a rd (BitVec.ofNat 32 (x.toNat / 2 ^ (y.toNat % 32))) s t)
    ∧ (∃ t, exec (.sra a rd ra rb) s = .next t ∧ SetReg a rd (BitVec.ofInt 32 (x.toInt / 2 ^ (y.toNat % 32))) s t)
    ∧ (∃ t, exec (.mov a rd ra) s = .next t ∧ SetReg a rd x s t)
    ∧ (∃ t, exec (.rdfn a rd) s = .next t
        ∧ SetReg a rd (BitVec.ofNat 32 s.dies[a.die].frm.fnum.toNat) s t)

/-- Derived (R137, R138): the immediate operations write their destination register, an immediate shift for an amount
below 32; loop counters are written from a register or an immediate and read into a register; `cnop` changes nothing. -/
def Obligations.ImmediateAndLoopOperations : Prop :=
  (∀ (s : State) (a : CoreRef) (rd ra : BitVec 4) (imm : BitVec 16), s.runs a.die = true →
      let x := (s.core a).ctl.s[ra.toFin]
      (∃ t, exec (.addi a rd ra imm) s = .next t ∧ SetReg a rd (BitVec.ofInt 32 (x.toInt + imm.toInt)) s t)
      ∧ (∃ t, exec (.andi a rd ra imm) s = .next t ∧ SetReg a rd (BitVec.ofNat 32 (x.toNat &&& imm.toNat)) s t)
      ∧ (∃ t, exec (.ori a rd ra imm) s = .next t ∧ SetReg a rd (BitVec.ofNat 32 (x.toNat ||| imm.toNat)) s t)
      ∧ (∃ t, exec (.xori a rd ra imm) s = .next t ∧ SetReg a rd (BitVec.ofNat 32 (x.toNat ^^^ imm.toNat)) s t)
      ∧ (∃ t, exec (.movi a rd imm) s = .next t ∧ SetReg a rd (BitVec.ofNat 32 imm.toNat) s t)
      ∧ (∃ t, exec (.movhi a rd imm) s = .next t
          ∧ SetReg a rd (BitVec.ofNat 32 (imm.toNat * 65536 + (s.core a).ctl.s[rd.toFin].toNat % 65536)) s t)
      ∧ (imm.toNat < 32 →
          (∃ t, exec (.shli a rd ra imm) s = .next t ∧ SetReg a rd (BitVec.ofNat 32 (x.toNat * 2 ^ imm.toNat)) s t)
          ∧ (∃ t, exec (.shri a rd ra imm) s = .next t ∧ SetReg a rd (BitVec.ofNat 32 (x.toNat / 2 ^ imm.toNat)) s t)
          ∧ (∃ t, exec (.srai a rd ra imm) s = .next t ∧ SetReg a rd (BitVec.ofInt 32 (x.toInt / 2 ^ imm.toNat)) s t)))
  ∧ (∀ (s : State) (a : CoreRef) (rd ra : BitVec 4) (lc : BitVec 3) (imm : BitVec 23), s.runs a.die = true →
      (∃ t, exec (.lset a lc ra) s = .next t
          ∧ SetLoop a lc (BitVec.ofNat 24 (s.core a).ctl.s[ra.toFin].toNat) s t)
      ∧ (∃ t, exec (.lseti a lc imm) s = .next t ∧ SetLoop a lc (BitVec.ofNat 24 imm.toNat) s t)
      ∧ (∃ t, exec (.lget a rd lc) s = .next t
          ∧ SetReg a rd (BitVec.ofNat 32 (s.core a).ctl.lc[lc.toFin].toNat) s t)
      ∧ exec (.cnop a) s = .next s)

/-- Stated (R140; the branch cycle is R141's): `bloop` with a legal target decrements a counter that is not zero and
branches where the new value is not zero; a zero counter stays zero and the core does not branch. So the k-th execution
after the counter is set to N branches while k < N: the body runs N times, and once where N is 0. `lseti` reaches
8,388,607 and `lset` 16,777,215. -/
def Obligations.LoopBranch : Prop :=
  (∀ (s : State) (a : CoreRef) (lc : BitVec 3) (tgt : BitVec 16), s.runs a.die = true → tgt.toNat < 0xC000 →
    let v := (s.core a).ctl.lc[lc.toFin]
    (∃ t, exec (.bloop a lc tgt) s = .next t ∧ OnlyCtl a s t
      ∧ { (t.core a).ctl with lc := (s.core a).ctl.lc, pc := (s.core a).ctl.pc, nextChk := (s.core a).ctl.nextChk }
          = (s.core a).ctl
      ∧ (t.core a).ctl.lc[lc.toFin].toNat = v.toNat - 1
      ∧ (∀ r : BitVec 3, r ≠ lc → (t.core a).ctl.lc[r.toFin] = (s.core a).ctl.lc[r.toFin])
      ∧ (t.core a).ctl.pc = (if 1 < v.toNat then tgt else (s.core a).ctl.pc)
      ∧ (t.core a).ctl.nextChk = (s.core a).ctl.nextChk + 1)
    ∧ ∀ k : Nat, k < max v.toNat 1 →
        ∃ u t, bloopRuns a lc tgt k s = some u ∧ (u.core a).ctl.lc[lc.toFin].toNat = v.toNat - k
          ∧ exec (.bloop a lc tgt) u = .next t
          ∧ (t.core a).ctl.pc = (if k + 1 < max v.toNat 1 then tgt else (u.core a).ctl.pc))
  ∧ (∀ (s : State) (a : CoreRef) (lc : BitVec 3) (ra : BitVec 4), s.runs a.die = true →
      (∃ t, exec (.lseti a lc 8388607) s = .next t ∧ (t.core a).ctl.lc[lc.toFin].toNat = 8388607)
      ∧ ((s.core a).ctl.s[ra.toFin].toNat = 16777215 →
          ∃ t, exec (.lset a lc ra) s = .next t ∧ (t.core a).ctl.lc[lc.toFin].toNat = 16777215))

/-- Derived (R137, R138, R139, R141): `jmp` branches to a legal target; `bc` branches where its comparator's result bit is
set and `bnc` where it is clear, and each adds its branch cycle whether taken or not. A poisoned comparator sets
`ctl_poison` and changes nothing of that. -/
def Obligations.Branches : Prop :=
  ∀ (s : State) (a : CoreRef) (c : BitVec 2) (tgt : BitVec 16), s.runs a.die = true → tgt.toNat < 0xC000 →
    let x := (s.core a).ctl.cmp[c.toFin]
    let pc := (s.core a).ctl.pc
    (∃ t, exec (.jmp a tgt) s = .next t ∧ Branched a tgt s t)
    ∧ (∃ t, exec (.bc a c tgt) s = .next t
        ∧ (x.poison = false → Branched a (if x.result then tgt else pc) s t)
        ∧ (x.poison = true → bit (t.core a).ctl.fault 2 = true
            ∧ (t.core a).ctl.pc = (if x.result then tgt else pc)
            ∧ (t.core a).ctl.nextChk = (s.core a).ctl.nextChk + 1 ∧ (t.core a).ctl.s = (s.core a).ctl.s))
    ∧ (∃ t, exec (.bnc a c tgt) s = .next t
        ∧ (x.poison = false → Branched a (if x.result then pc else tgt) s t)
        ∧ (x.poison = true → bit (t.core a).ctl.fault 2 = true
            ∧ (t.core a).ctl.pc = (if x.result then pc else tgt)
            ∧ (t.core a).ctl.nextChk = (s.core a).ctl.nextChk + 1 ∧ (t.core a).ctl.s = (s.core a).ctl.s))

/-- Derived (R137, R139, R144, R148): `cmpr` and `cmpi` set their comparator's result bit from the condition on signed or
unsigned 32-bit integers and clear its poison bit; `cmpv` compares unsigned for a U32 summary, answers 0 for one never
written, and takes the summary's poison bit. `rdvs` reads a summary register, and sets `ctl_poison` where it is poisoned;
`iarm` arms the flip of its die and changes nothing else; `fend` fixes the last cycle of the core's frame and changes
nothing else. -/
def Obligations.ComparesAndReads : Prop :=
  (∀ (s : State) (a : CoreRef) (c : BitVec 2) (cond : BitVec 3) (u : Bool) (ra rb : BitVec 4) (imm : BitVec 16)
      (vs : BitVec 3), s.runs a.die = true → cond.toNat < 6 →
      let holds (x y : Int) : Bool :=
        if cond = 0 then decide (x = y) else if cond = 1 then decide (x ≠ y) else if cond = 2 then decide (x < y)
        else if cond = 3 then decide (y ≤ x) else if cond = 4 then decide (x ≤ y) else decide (y < x)
      let x := (s.core a).ctl.s[ra.toFin]
      let y := (s.core a).ctl.s[rb.toFin]
      let v := (s.core a).vec.vs[vs.toFin]
      (∃ t, exec (.cmpr a c cond u ra rb) s = .next t
          ∧ SetCmp a c (if u then holds x.toNat y.toNat else holds x.toInt y.toInt) false s t)
      ∧ (∃ t, exec (.cmpi a c cond u ra imm) s = .next t
          ∧ SetCmp a c (if u then holds x.toNat imm.toNat else holds x.toInt imm.toInt) false s t)
      ∧ (∃ t, exec (.cmpv a c cond vs rb) s = .next t ∧ (∃ r, SetCmp a c r v.poison s t)
          ∧ (v.ty = 2 → SetCmp a c (holds v.val.toNat y.toNat) v.poison s t)
          ∧ (v.ty = 0 → SetCmp a c false v.poison s t)))
  ∧ (∀ (s : State) (a : CoreRef) (rd : BitVec 4) (vs : BitVec 3), s.runs a.die = true →
      let v := (s.core a).vec.vs[vs.toFin]
      (∃ t, exec (.rdvs a rd vs) s = .next t ∧ (v.poison = false → SetReg a rd v.val s t)
          ∧ (v.poison = true → (t.core a).ctl.s[rd.toFin] = v.val ∧ bit (t.core a).ctl.fault 2 = true
              ∧ (∀ r : BitVec 4, r ≠ rd → (t.core a).ctl.s[r.toFin] = (s.core a).ctl.s[r.toFin])))
      ∧ (∃ t, exec (.iarm a) s = .next t ∧ OnlyDie a.die s t ∧ t.dies[a.die] = { s.dies[a.die] with flipArm := true })
      ∧ (∃ t, exec (.fend a) s = .next t ∧ OnlyCtl a s t
          ∧ (t.core a).ctl = { (s.core a).ctl with endAt := some s.dies[a.die].clock.pcyc }))


/-! ### Word slots outside CTL: legality and holds (R86, R88, R120, R151, R161) -/

/-- Derived (R138, R151, R154, R158, R163, R165, R170, R177, R180, R182): the empty operation of every word slot changes
nothing. Whatever word-slot command is illegal on its core is refused under the lowest of its causes; a CTL immediate shift
by 32 or more is refused with cause 6, a branch beyond the bank with cause 5, a reserved condition with cause 1. A refused
slot is counted and captured and has no other effect: no unit, no hold, no checked slot changes, and no other core. -/
def Obligations.EmptyAndIllegalSlots : Prop :=
  (∀ (s : State) (a : CoreRef) (p : VPort),
      exec (.mnop a) s = .next s ∧ exec (.vnop a p) s = .next s ∧ exec (.lnop a) s = .next s ∧ exec (.snop a) s = .next s
      ∧ exec (.nnop a) s = .next s ∧ exec (.ynop a) s = .next s)
  ∧ (∀ (i : Instr) (a : CoreRef) (b : Fin 8) (op : SlotOp) (s : State),
      slotOf i = some (a, b, op) → s.runs a.die = true → slotCauses s a op ≠ [] →
      ∃ t cause, exec i s = .next t ∧ cause ∈ slotCauses s a op ∧ (∀ c ∈ slotCauses s a op, cause ≤ c)
        ∧ Refused a b.val cause s t)
  ∧ (∀ (s : State) (a : CoreRef) (rd ra rb : BitVec 4) (imm tgt : BitVec 16) (c : BitVec 2) (cond lc vs : BitVec 3) (u : Bool),
      s.runs a.die = true →
      (32 ≤ imm.toNat → ∀ i ∈ [Instr.shli a rd ra imm, .shri a rd ra imm, .srai a rd ra imm],
          ∃ t, exec i s = .next t ∧ Refused a 0 6 s t)
      ∧ (0xC000 ≤ tgt.toNat → ∀ i ∈ [Instr.jmp a tgt, .bc a c tgt, .bnc a c tgt, .bloop a lc tgt],
          ∃ t, exec i s = .next t ∧ Refused a 0 5 s t)
      ∧ (6 ≤ cond.toNat → ∀ i ∈ [Instr.cmpr a c cond u ra rb, .cmpi a c cond u ra imm, .cmpv a c cond vs rb],
          ∃ t, exec i s = .next t ∧ Refused a 0 1 s t))

/-- Derived (R86, R88, R161, R191): a legal word slot that is not ready issues nothing: it waits among the checked slots and
requests a hold of its cause for its plan cycle. -/
def Obligations.UnreadySlotsRequestHold : Prop :=
  ∀ (i : Instr) (a : CoreRef) (b : Fin 8) (op : SlotOp) (s : State),
    slotOf i = some (a, b, op) → s.runs a.die = true → slotCauses s a op = [] → ¬ Issues s a b op →
    (∀ f, op ≠ .wait f) → (∀ f, op ≠ .pwait f) → (∀ f, op ≠ .qsel f) →
    ∃ t, exec i s = .next t ∧ OnlyDie a.die s t
      ∧ { t.dies[a.die] with cores := s.dies[a.die].cores, hold := s.dies[a.die].hold } = s.dies[a.die]
      ∧ (∀ c : CoreIx, c ≠ a.core → t.dies[a.die].cores[c] = s.dies[a.die].cores[c])
      ∧ t.dies[a.die].hold = { s.dies[a.die].hold with reqs := s.dies[a.die].hold.reqs
            ++ [⟨s.dies[a.die].clock.pcyc, a.core, b, causeOf op, none⟩] }
      ∧ { t.core a with ctl := (s.core a).ctl } = s.core a
      ∧ { (t.core a).ctl with checked := (s.core a).ctl.checked } = (s.core a).ctl
      ∧ (t.core a).ctl.checked.Perm (slotNow s a b op :: (s.core a).ctl.checked)

/-! ### Matrix arrays (chapter 03) -/

/-- Derived (R71, R73, R212): a legal, ready `wload` binds its rows to their bytes at issue; it begins to fill an empty
shadow in this run cycle and waits in the queue behind a shadow that is not empty. -/
def Obligations.WeightLoadIssues : Prop :=
  ∀ (s : State) (a : CoreRef) (f : WloadF), Issues s a 1 (.wload f) →
    let m := (s.core a).mtx
    ∃ t l, exec (.wload a f) s = .next t ∧ OnlyMtx a s t
      ∧ (m.shadow = .empty → (t.core a).mtx = { m with shadow := .filling l (runCycle s a) [] false })
      ∧ (m.shadow ≠ .empty → (t.core a).mtx = { m with queue := some l })
      ∧ l.fmt = f.fmtW ∧ l.scl = f.sclW
      ∧ (∀ w, Fmt.ofCode f.fmtW = some w → l.cols = tileCols w ∧ l.rowBytes = rowBytes w 128)
      ∧ (∀ b, (s.core a).buf f.wh.toNat = some b → l.src = b.base + f.woff.toNat * l.rowBytes)
      ∧ l.sclBytes = (if f.sclW = 1 then 4 else if f.sclW = 2 then 8 else 0)
      ∧ (∀ b, f.sclW = 1 ∨ f.sclW = 2 → (s.core a).buf f.wsh.toNat = some b → l.sclSrc = b.base + f.woff.toNat * l.sclBytes)
      ∧ l.beats = ceilDiv (l.cols * (l.rowBytes + l.sclBytes)) 256

/-- Derived (R69, R70, R73, R75, R77, R78, R83, R212): a legal, ready `mpass` first swaps the shadow to the front if it asks for
it, so that a load in the queue begins to fill the shadow in this run cycle, and then adds a pass on each array of its mask and on no other to the passes under way, which stay: its rows and scales
are bound to their bytes, its rate is that of its formats, each array is taken for the vectors' cycles, and the halves it
names open, or close if it is the last of its chain. No accumulator word changes at issue. -/
def Obligations.PassIssues : Prop :=
  ∀ (s : State) (a : CoreRef) (f : MpassF), Issues s a 1 (.mpass f) →
    let m := (s.core a).mtx
    let front := if f.sw then m.shadow.toTile else m.front
    let masked (x : Fin 4) : Bool := bit f.amask x.val
    ∃ t ps, exec (.mpass a f) s = .next t ∧ OnlyMtx a s t
      ∧ (t.core a).mtx.passes = m.passes ++ (if front = none then [] else ((List.finRange 4).filter masked).map ps)
      ∧ (t.core a).mtx.front = front ∧ (t.core a).mtx.acc = m.acc ∧ (t.core a).mtx.rowPz = m.rowPz
      ∧ (f.sw = false → (t.core a).mtx.shadow = m.shadow ∧ (t.core a).mtx.queue = m.queue)
      ∧ (f.sw = true → (t.core a).mtx.queue = none ∧ (m.queue = none → (t.core a).mtx.shadow = .empty)
          ∧ ∀ l, m.queue = some l → (t.core a).mtx.shadow = .filling l (runCycle s a) [] false)
      ∧ (∀ x : Fin 4, bit f.amask x.val = true → ∀ tile, front = some tile →
          let p : Pass := ps x
          p.array = x ∧ p.start = runCycle s a ∧ p.vecs = f.m.toNat + 1 ∧ p.tile = tile ∧ p.fmt = f.fmtA ∧ p.scl = f.sclA
            ∧ p.ftz = f.ftz ∧ p.dst = f.dst ∧ p.acc = f.acc ∧ p.last = f.last ∧ p.sums = []
            ∧ p.cyc = passCyc f.fmtA ⟨tile.fmt, tile.scl, tile.cols⟩
            ∧ (∀ w, Fmt.ofCode f.fmtA = some w → p.rowBytes = rowBytes w 128)
            ∧ p.src = bufBase s a (f.ah.toNat + x.val) + f.aoff.toNat * p.rowBytes
            ∧ p.sclBytes = (if f.sclA = 1 then 4 else if f.sclA = 2 then 8 else 0)
            ∧ (f.sclA = 1 ∨ f.sclA = 2 → p.sclSrc = bufBase s a (f.sah.toNat + x.val) + f.aoff.toNat * p.sclBytes)
            ∧ (t.core a).mtx.freeAt[x] = runCycle s a + (f.m.toNat + 1) * p.cyc
            ∧ (∀ h ∈ halvesOf x f.dst, (t.core a).mtx.halves[h]
                = ⟨if f.last then .closing else .opened, if f.acc then m.halves[h].kind else p.kind⟩)
            ∧ ∀ h ∈ halvesOf x 2, h ∉ halvesOf x f.dst → (t.core a).mtx.halves[h] = m.halves[h])
      ∧ (∀ x : Fin 4, bit f.amask x.val = false → (t.core a).mtx.freeAt[x] = m.freeAt[x]
          ∧ ∀ h ∈ halvesOf x 2, (t.core a).mtx.halves[h] = m.halves[h])

/-- Stated (R76): an `mpass` that names no array and asks for the swap swaps the tile and issues no pass: every array, every
half, every pass under way and every accumulator word stays. One that names no array and asks for no swap is illegal, and
is refused. -/
def Obligations.EmptyPass : Prop :=
  ∀ (s : State) (a : CoreRef) (f : MpassF), f.amask = 0 →
    let m := (s.core a).mtx
    (f.sw = true → Issues s a 1 (.mpass f) →
      ∃ t, exec (.mpass a f) s = .next t ∧ OnlyMtx a s t
        ∧ { (t.core a).mtx with front := m.front, shadow := m.shadow, queue := m.queue } = m
        ∧ (t.core a).mtx.front = m.shadow.toTile ∧ (t.core a).mtx.queue = none
        ∧ (m.queue = none → (t.core a).mtx.shadow = .empty)
        ∧ (∀ l, m.queue = some l → (t.core a).mtx.shadow = .filling l (runCycle s a) [] false))
    ∧ (f.sw = false → s.runs a.die = true → slotCauses s a (.mpass f) ≠ [] ∧ ∃ t cause, exec (.mpass a f) s = .next t ∧ Refused a 1 cause s t)

/-- Derived (R62, R63, R73, R78 to R83): WLOAD_COMPLETE on a load all of whose bytes are in, in or after the run cycle of its last
beat, leaves the tile of those bytes complete in the shadow and changes nothing else. PASS_COMPLETE writes a pass whose last
cycle is over, on a tile of 128 or 256 columns that its target takes: with `acc` clear word j of vector m stands at its row and
column of the array's accumulator; with `acc` set its sum with the word there does, of INT32 saturated and then with `acc_sat`, of
FP32 rounded; every other word of the accumulators stays, the pass is gone, and the halves it names are closed where it ends
its chain. Where the rules leave a point open, the model's choice: log entries 46 and 112. -/
def Obligations.MatrixWorkCompletes : Prop :=
  (∀ (s : State) (a : CoreRef) (l : TileLoad) (start : Nat) (raw : Bytes) (pz : Bool), s.runs a.die = true →
      (s.core a).mtx.shadow = .filling l start raw pz → raw.length = l.total → 256 * (l.beats - 1) < raw.length →
      s.dies[a.die].dueRun (start + l.beats - 1) = true →
      ∃ t, exec (.wloadComplete a) s = .next t ∧ OnlyMtx a s t
        ∧ (t.core a).mtx = { (s.core a).mtx with shadow := .complete (l.tile raw pz) })
  ∧ (∀ (s : State) (a : CoreRef) (p : Pass), s.runs a.die = true →
      (s.core a).mtx.passes = [p] → p.sums.length = p.vecs → p.tile.cols = 128 ∨ p.tile.cols = 256 →
      p.vecs * p.tile.cols ≤ (if p.dst = 2 then 256 else 128) * 128 →
      (∀ x ∈ p.sums, x.words.length = p.tile.cols) → p.doneAt ≤ runCycle s a → s.dies[a.die].heldNow = false →
      Cells.wf (s.core a).mtx.acc = true →
      ∃ t, exec (.passComplete a) s = .next t ∧ OnlyDie a.die s t ∧ (t.core a).mtx.passes = []
        ∧ (t.core a).scratch = (s.core a).scratch ∧ (t.core a).mtx.front = (s.core a).mtx.front
        ∧ (∀ (m j : Nat) (x : Sums) (w : U32), p.sums[m]? = some x → x.words[j]? = some w →
            let key := accKey p.array.val (p.place m j).1 (p.place m j).2
            let old := Cells.get (s.core a).mtx.acc key
            let new := Cells.get (t.core a).mtx.acc key
            let sum := old.toInt + w.toInt
            (p.acc = false → new = w)
              ∧ (p.acc = true → p.kind = .int32 → new = BitVec.ofInt 32 (max (-2147483648) (min 2147483647 sum))
                  ∧ (sum < -2147483648 ∨ 2147483647 < sum → bit (t.core a).fault 1 = true))
              ∧ (p.acc = true → p.kind ≠ .int32 → new = toF (roundF p.ftz ((fp32 old).add (fp32 w)))))
        ∧ (∀ key : Nat, (∀ m j, m < p.vecs → j < p.tile.cols → key ≠ accKey p.array.val (p.place m j).1 (p.place m j).2) →
            Cells.get (t.core a).mtx.acc key = Cells.get (s.core a).mtx.acc key)
        ∧ (∀ h ∈ halvesOf p.array p.dst,
            (t.core a).mtx.halves[h].st = if p.last then .closed else (s.core a).mtx.halves[h].st))

/-! ### Vector engine (chapter 04) -/

/-- Derived (R94, R99, R101, R105, R110, R116, R168, R212): every legal, ready element-wise operation, reduction, `vacc` and
`vtld` takes its port with its buffers, scale buffers and registers bound at issue and no element taken in; the other port
and everything else of the vector engine and the module stay. A `vtld` also marks the standby bank of its table not valid,
and arms the table if it asks for it; the other tables stay. Where the rules leave a point open, the model's choice: log
entry 22. -/
def Obligations.VectorOperationsIssue : Prop :=
  (∀ (s : State) (a : CoreRef) (p : VPort) (f : ElemF) (i : Instr) (op : ElemOp),
      (i, op) ∈ [(Instr.vadd a p f, ElemOp.vadd), (.vsub a p f, .vsub), (.vmul a p f, .vmul), (.vfma a p f, .vfma),
        (.vmin a p f, .vmin), (.vmax a p f, .vmax), (.vclt a p f, .vclt), (.vcle a p f, .vcle), (.vceq a p f, .vceq),
        (.vsel a p f, .vsel), (.vcvt a p f, .vcvt), (.vfn a p f, .vfn), (.vrand a p f, .vrand)] →
      Issues s a (VPort.slot p) (.elem op f) →
      ∃ t r, exec i s = .next t ∧ OnlyVec a s t ∧ (t.core a).vec = (s.core a).vec.setRun p (some r)
        ∧ r.op = .elem op f ∧ r.n = f.vl.toNat + 1 ∧ r.taken = 0 ∧ r.start = runCycle s a ∧ r.regs = (s.core a).ctl.s
        ∧ (f.sg.toNat ≤ 12 → r.d = boundTo s a f.dh f.fmtD f.sg ∧ r.a = boundTo s a f.ah f.fmtS f.sg
            ∧ r.b = boundTo s a f.bh f.fmtS f.sg)
        ∧ r.d.base = bufBase s a f.dh.toNat ∧ r.a.base = bufBase s a f.ah.toNat ∧ r.b.base = bufBase s a f.bh.toNat
        ∧ r.d.fmt = f.fmtD ∧ r.a.fmt = f.fmtS ∧ r.b.fmt = f.fmtS ∧ r.dScl = scalesOf s a f.dh.toNat f.sclD
        ∧ r.aScl = scalesOf s a f.ah.toNat f.sclS ∧ r.bScl = scalesOf s a f.bh.toNat f.sclS
        ∧ (op = .vfn → ∀ x, x = (s.core a).vec.ft[(f.bh.extractLsb' 0 2).toFin] →
            r.tabBank = x.act ∧ r.table = if x.act then x.bank1 else x.bank0))
  ∧ (∀ (s : State) (a : CoreRef) (p : VPort) (f : RedF) (g : VaccF) (h : VtldF),
      (∀ (i : Instr) (op : RedOp), (i, op) ∈ [(Instr.vsum a p f, RedOp.vsum), (.vmaxr a p f, .vmaxr), (.vargmax a p f, .vargmax),
          (.vsumsq a p f, .vsumsq)] → Issues s a (VPort.slot p) (.red op f) →
        ∃ t r, exec i s = .next t ∧ OnlyVec a s t ∧ (t.core a).vec = (s.core a).vec.setRun p (some r)
          ∧ r.op = .red op f ∧ r.n = f.vl.toNat + 1 ∧ r.taken = 0 ∧ r.start = runCycle s a ∧ r.regs = (s.core a).ctl.s
          ∧ r.d = boundTo s a f.dh f.fmtD f.sg ∧ r.a = boundTo s a f.ah f.fmtS f.sg ∧ r.aScl = scalesOf s a f.ah.toNat f.sclS
          ∧ r.inVals = [])
      ∧ (Issues s a (VPort.slot p) (.vacc g) →
        ∃ t r, exec (.vacc a p g) s = .next t ∧ OnlyVec a s t ∧ (t.core a).vec = (s.core a).vec.setRun p (some r)
          ∧ r.op = .vacc g ∧ r.n = popCount g.amask * (if g.half = 2 then 256 else 128) * 128 ∧ r.taken = 0
          ∧ r.start = runCycle s a ∧ r.regs = (s.core a).ctl.s ∧ r.d.fmt = g.fmtD ∧ r.d.g = 128 ∧ r.dScl.mode = g.sclD
          ∧ (let at_ (k : BitVec 6) (off : Nat) : List Nat :=
               ((List.finRange 4).filter (fun x => bit g.amask x.val)).map (fun x => bufBase s a (k.toNat + x.val + off))
             r.dst4 = at_ g.dh 0 ∧ r.dst4Blk = at_ g.dh 16 ∧ r.dst4Row = at_ g.dh 32 ∧ r.rowA4 = at_ g.rah 0)
          ∧ r.a.base = bufBase s a g.rwh.toNat ∧ r.b.base = bufBase s a g.bh.toNat)
      ∧ (Issues s a (VPort.slot p) (.vtld h) →
        ∃ t r, exec (.vtld a p h) s = .next t ∧ OnlyVec a s t
          ∧ (t.core a).vec.run p = some r ∧ r.op = .vtld h ∧ r.n = 17 ∧ r.taken = 0 ∧ r.raw = [] ∧ r.start = runCycle s a
          ∧ r.regs = (s.core a).ctl.s ∧ r.a.base = bufBase s a h.sh.toNat + 4 * (opReg s a h.so 0).toNat
          ∧ (∀ q : VPort, q ≠ p → (t.core a).vec.run q = (s.core a).vec.run q)
          ∧ { (t.core a).vec with run0 := (s.core a).vec.run0, run1 := (s.core a).vec.run1, ft := (s.core a).vec.ft } = (s.core a).vec
          ∧ (let x := (s.core a).vec.ft[h.t.toFin]
             let y := (t.core a).vec.ft[h.t.toFin]
             y.act = x.act ∧ (if x.act then y.bank1 = x.bank1 ∧ y.bank0 = { x.bank0 with valid := false }
               else y.bank0 = x.bank0 ∧ y.bank1 = { x.bank1 with valid := false }) ∧ y.arm = (x.arm || h.arm))
          ∧ (∀ u : Fin 4, u ≠ h.t.toFin → (t.core a).vec.ft[u] = (s.core a).vec.ft[u])))

/-- Derived (R66, R116, R117): VTLD_COMPLETE with all 17 beats made, in or after the last of them, frees the port and puts the
copied table, with the marks of the words copied, into the standby bank, valid as its descriptor check says; the active bank stays. Where the rules leave a
point open, the model's choice: log entries 22 and 95. -/
def Obligations.TableLoadCompletes : Prop :=
  ∀ (s : State) (a : CoreRef) (p : VPort) (r : VecRun) (f : VtldF), s.runs a.die = true →
    (s.core a).vec.run p = some r → r.op = .vtld f → r.n ≤ r.taken → s.dies[a.die].dueRun (r.start + 16) = true →
    ∃ t, exec (.vtldComplete a p) s = .next t ∧ OnlyDie a.die s t ∧ (t.core a).vec.run p = none
      ∧ (let x := (s.core a).vec.ft[f.t.toFin]
         let y := (t.core a).vec.ft[f.t.toFin]
         y.act = x.act ∧ y.arm = x.arm ∧ (if x.act then y.bank1 = x.bank1 ∧ y.bank0 = tableBank r.raw r.rawPz
           else y.bank0 = x.bank0 ∧ y.bank1 = tableBank r.raw r.rawPz))
      ∧ (descOk (slice r.raw 0 16) = false → bit (t.core a).vec.fault 1 = true)
      ∧ (descOk (slice r.raw 0 16) = true → OnlyVec a s t)

/-- Derived (R83, R96, R109, R112, R162): ACC_HALF_RELEASE frees every half whose release is due and no other; and
VEC_RESULT_WRITE writes a summary due now with its type and poison bit, and where two meet in a register in one cycle, also
one that has landed in it before, the one of the higher rank stands and `vs_clash` is set. -/
def Obligations.VectorWritesLand : Prop :=
  ∀ (s : State) (a : CoreRef), s.runs a.die = true → s.dies[a.die].heldNow = false →
    (∃ t, exec (.accHalfRelease a) s = .next t ∧ OnlyCore a s t
      ∧ (∀ h : Fin 8, (t.core a).mtx.halves[h] =
          if (s.core a).vec.releases.any (fun r => r.half = h && decide (r.due ≤ runCycle s a)) then {}
          else (s.core a).mtx.halves[h])
      ∧ (t.core a).vec.releases = (s.core a).vec.releases.filter (fun r => decide (runCycle s a < r.due))
      ∧ (t.core a).mtx.acc = (s.core a).mtx.acc ∧ SameScratch a s t)
    ∧ (∀ w : SummaryWrite, (s.core a).vec.writes = [] → (s.core a).vec.sumQ = [w] → w.onClk = false →
        w.due ≤ runCycle s a →
        ∃ t, exec (.vecResultWrite a) s = .next t ∧ OnlyDie a.die s t ∧ (t.core a).vec.sumQ = []
          ∧ ((∀ v ∈ (s.core a).vec.sumNow, v.vs ≠ w.vs) → (t.core a).vec.vs[w.vs] = ⟨w.val, w.ty, w.poison⟩)
          ∧ (∀ v, (s.core a).vec.sumNow = [v] → v.vs = w.vs → w.rank < v.rank →
              (t.core a).vec.vs[w.vs] = ⟨v.val, v.ty, v.poison⟩ ∧ bit (t.core a).vec.fault 3 = true)
          ∧ (∀ r : Fin 8, r ≠ w.vs → (t.core a).vec.vs[r] = (s.core a).vec.vs[r]) ∧ SameScratch a s t)
    ∧ (∀ w v : SummaryWrite, (s.core a).vec.writes = [] → (s.core a).vec.sumQ = [w, v] → w.onClk = false →
        v.onClk = false → w.due ≤ runCycle s a → v.due ≤ runCycle s a → w.vs = v.vs → w.rank < v.rank →
        (∀ x ∈ (s.core a).vec.sumNow, x.vs ≠ w.vs) →
        ∃ t, exec (.vecResultWrite a) s = .next t ∧ (t.core a).vec.vs[w.vs] = ⟨v.val, v.ty, v.poison⟩
          ∧ bit (t.core a).vec.fault 3 = true)

/-- Derived (R43, R96, R211): an FP32 result due now is written to its element's four bytes, in little-endian order; every
other byte of the scratchpad reads as before. -/
def Obligations.VectorResultStored : Prop :=
  ∀ (s : State) (a : CoreRef) (w : VecWrite) (e : ElemWrite), s.runs a.die = true → s.dies[a.die].heldNow = false →
    Cells.wf (s.core a).scratch = true →
    (s.core a).vec.writes = [w] → (s.core a).vec.sumQ = [] → w.elems = [e] → w.scale = [] → w.due ≤ runCycle s a →
    e.into.fmt = 0 → 0 < e.into.g →
    ∃ t, exec (.vecResultWrite a) s = .next t ∧ OnlyCore a s t ∧ (t.core a).vec.writes = []
      ∧ (∀ x : Nat, Cells.get (t.core a).scratch x =
          if e.into.base + 4 * e.ix ≤ x ∧ x < e.into.base + 4 * e.ix + 4
          then BitVec.ofNat 8 (e.code.toNat / 2 ^ (8 * (x - (e.into.base + 4 * e.ix))))
          else Cells.get (s.core a).scratch x)

/-! ### Streams and own DRAM (chapters 08 and 09) -/

/-- Derived (R171 to R179, R212, R225, R322): every legal, ready descriptor operation takes the next place of its unit with
its rows, addresses, strides, index base, handle, half and marks bound at issue; an `str` counts the core's descriptor
tag. -/
def Obligations.DescriptorsTakePlaces : Prop :=
  ∀ (s : State) (a : CoreRef) (f : StreamF) (g : ScountF),
    (∀ (i : Instr) (b : Fin 8) (op : StreamOp) (o : DescOp),
        (i, b, op, o) ∈ [(Instr.ldd a f, 4, StreamOp.ldd, DescOp.ldd), (.sfill a f, 4, .sfill, .sfill),
          (.scopy a f, 4, .scopy, .scopy), (.std a f, 5, .std, .std), (.str a f, 5, .str, .str)] →
        Issues s a b (.stream op f) →
        let v (i : Nat) : Nat := (opReg s a f.so i).toNat
        let fills := op = .ldd ∨ op = .sfill ∨ op = .scopy
        ∃ t x, exec i s = .next t ∧ GainsDescriptor a (unitOf f.su) x (if op = .str then 1 else 0) s t
          ∧ x.spStride = (if f.kind = 1 then v 3 else 64 * (f.len.toNat + 1))
          ∧ x.drStride = (if f.kind = 1 ∨ f.kind = 2 then v 2 else 64 * (f.len.toNat + 1))
          ∧ (f.kind = 2 → x.idxBase = bufBase s a f.ih.toNat + 4 * v 3)
          ∧ x.handle = f.sh.toFin ∧ x.live = true ∧ x.left = (f.rows.toNat + 1) * (f.len.toNat + 1)
          ∧ (fills → ∀ y, (s.core a).buf f.sh.toNat true = some y → x.half = y.half ∧ x.setv = (f.setv && y.pair))
          ∧ (¬ fills → x.setv = false ∧ ∀ y, (s.core a).buf f.sh.toNat = some y → x.half = y.half)
          ∧ (op = .scopy → x.dr = bufBase s a f.ih.toNat + v 1 ∧ x.sp = bufBase s a f.sh.toNat true + v 0)
          ∧ x.op = o ∧ x.rows = f.rows.toNat + 1 ∧ x.rowBytes = 64 * (f.len.toNat + 1) ∧ x.started = none ∧ x.done = 0
          ∧ x.sig = f.sig ∧ x.sc = f.sc ∧ x.kind = f.kind
          ∧ (op = .ldd ∨ op = .std ∨ op = .str → x.dr = (opReg s a f.so 0).toNat)
          ∧ (op = .std ∨ op = .str → ∀ y, (s.core a).buf f.sh.toNat = some y → x.sp = y.base + (opReg s a f.so 1).toNat)
          ∧ (op = .ldd → ∀ y, (s.core a).buf f.sh.toNat true = some y → x.sp = y.base + (opReg s a f.so 1).toNat)
          ∧ (op = .sfill → x.pattern = opReg s a f.so 1
              ∧ ∀ y, (s.core a).buf f.sh.toNat true = some y → x.sp = y.base + (opReg s a f.so 0).toNat)
          ∧ (op = .str → x.dtag = (s.core a).dtag ∧ x.rsc = f.ih ∧ x.dest.toNat = (opReg s a f.so 4).toNat % 2 ^ 23))
    ∧ (Issues s a 4 (.scount g) →
        ∃ t x, exec (.scount a g) s = .next t ∧ GainsDescriptor a (unitOf g.su) x 0 s t
          ∧ x.op = .scount ∧ x.cntFirst = (opReg s a g.so 0).toNat ∧ x.cntN = g.cnt.toNat + 1 ∧ x.cntRel = g.rel
          ∧ x.pattern = opReg s a g.so 1 ∧ x.cntVsd = g.vsd.toFin ∧ x.started = none ∧ x.sp = bufBase s a g.sh.toNat
          ∧ x.cntFmt = g.fmt ∧ x.cntAcc = 0 ∧ x.cntPz = false ∧ x.done = 0 ∧ x.sig = g.sig ∧ x.sc = g.sc ∧ x.setv = false
          ∧ x.handle = g.sh.toFin)

/-- Derived (R175, R225): DESCRIPTOR_START starts the head descriptor of a unit in the present run cycle, once, and reads up to
256 of an indirect descriptor's index elements in an unheld cycle; later places and other units stay. In the cycle in which the
descriptor ahead of it completed it does not start. -/
def Obligations.DescriptorStarts : Prop :=
  ∀ (s : State) (a : CoreRef) (u : Fin 6) (x : Desc) (rest : List Desc), s.runs a.die = true →
    (s.core a).st[u].places = x :: rest → x.started = none → x.index = [] → 0 < x.rows →
    ((s.core a).st[u].ended = true → exec (.descriptorStart a u) s = .next s)
    ∧ ((s.core a).st[u].ended = false → ∃ t y, exec (.descriptorStart a u) s = .next t ∧ OnlyDie a.die s t
      ∧ (t.core a).st[u].places = y :: rest ∧ y.started = some (runCycle s a) ∧ y.op = x.op ∧ y.sp = x.sp ∧ y.dr = x.dr
      ∧ (∀ w : Fin 6, w ≠ u → (t.core a).st[w] = (s.core a).st[w])
      ∧ (x.kind ≠ 2 ∨ s.dies[a.die].heldNow = true →
          OnlyCore a s t ∧ y = { x with started := some (runCycle s a), offerAt := runCycle s a })
      ∧ (x.kind = 2 → s.dies[a.die].heldNow = false → y.index.length = min 256 x.rows)
      ∧ (t.core a).scratch = (s.core a).scratch ∧ (t.core a).vault = (s.core a).vault)

/-- Derived (R175, R185, R219, R223, R259): DESCRIPTOR_COMPLETE on a unit whose head descriptor has nothing left to move frees
its place and counts it; `sig` sends its increment of 1, which lands two clock cycles on, and `setv` sets the valid bit of
the half it filled with the end of the cycle, unless an exchange has cleared it: then `setv_lost` is set. In a plan cycle that
is held, the cycle that ran last has ended: the bit is set at once. -/
def Obligations.DescriptorCompletes : Prop :=
  ∀ (s : State) (a : CoreRef) (u : Fin 6) (x : Desc) (rest : List Desc) (ran : Nat), s.runs a.die = true →
    (if s.dies[a.die].heldNow then runCycle s a = ran + 1 else runCycle s a = ran) →
    (s.core a).st[u].places = x :: rest → x.finished = true → x.op ≠ .scount →
    (s.core a).unitBeat x ran = ⟨x, [], false, false⟩ →
    (s.core a).dueSectors u ran = [] → (s.core a).vault.writes = [] → (s.core a).hdl.sets = [] →
    let held := s.dies[a.die].heldNow
    ∃ t, exec (.descriptorComplete a u) s = .next t ∧ OnlyDie a.die s t
      ∧ (t.core a).st[u].ended = !held
      ∧ (t.core a).st[u].places = rest ∧ (t.core a).st[u].ndone = (s.core a).st[u].ndone + 1
      ∧ (held = false → ∀ w : Fin 6, w ≠ u → (t.core a).st[w] = (s.core a).st[w])
      ∧ (∀ w : Fin 6, w ≠ u → (t.core a).st[w].places = (s.core a).st[w].places)
      ∧ (t.core a).sync.incs = (s.core a).sync.incs ++ (if x.sig then
          [{ due := clockCycle s a + 2, sc := fin64 x.sc, onC := false, amt := 1, rem := false, src := 0,
             job := s.dies[a.die].jobOf, ans := none }] else [])
      ∧ (x.setv = true → x.live = true → held = false →
          { (t.core a).hdl with sets := [] } = (s.core a).hdl ∧ (t.core a).hdl.sets = [⟨u, x.handle, x.half⟩])
      ∧ (x.setv = true → x.live = true →
          let ended := (t.core a).cycleEnds
          halfValid ended.hdl.run[x.handle] x.half = true ∧ (held = true → t.core a = ended)
          ∧ ∀ h : Fin 64, h ≠ x.handle → ended.hdl.run[h] = (s.core a).hdl.run[h])
      ∧ (x.setv = true → x.live = false → bit (t.core a).st[u].fault 1 = true ∧ (t.core a).hdl = (s.core a).hdl)
      ∧ (x.setv = false → (t.core a).hdl = (s.core a).hdl) ∧ SameScratch a s t

/-- Derived (R228 to R230, R242): WHEEL_SERVE serves a channel at most once in a clock cycle and by the class of its
position: a local read takes a sector that waits in the write-back queue from there, corrected and unmarked, and else
from the array; a local write takes the scratchpad's bytes and lands eight run cycles on; and the remote share takes the
oldest waiting sector of the channel. Where the rules leave a point open, the model's choice: log entry 46. -/
def Obligations.WheelServes : Prop :=
  ∀ (s : State) (a : CoreRef) (j : Fin 16), s.runs a.die = true → s.dies[a.die].chanClosed a.core j = false →
    let k := s.core a
    let cls := if s.dies[a.die].heldNow then 2 else wheelClass s.dies[a.die].clock.pcyc j
    (k.vault.chans[j].servedAt = some (clockCycle s a) → exec (.wheelServe a j) s = .next s)
    ∧ (k.vault.chans[j].servedAt ≠ some (clockCycle s a) →
      ∃ t, exec (.wheelServe a j) s = .next t ∧ OnlyCore a s t
        ∧ (t.core a).vault.chans[j] = { k.vault.chans[j] with servedAt := some (clockCycle s a) }
        ∧ (∀ i : Fin 16, i ≠ j → (t.core a).vault.chans[i] = k.vault.chans[i])
        ∧ (t.core a).vault.mem = k.vault.mem ∧ (t.core a).vault.tags = k.vault.tags
        ∧ { t.core a with vault := k.vault, st := k.st } = k
        ∧ (∀ u i sec sp, cls = 0 → k.offer .ldd j (runCycle s a) = some (u, i, sec, sp) →
            ∃ x, (t.core a).vault.served = k.vault.served ++ [x] ∧ x.unit = u ∧ x.chan = j ∧ x.at_ = runCycle s a
              ∧ x.sector = sec ∧ x.into = sp
              ∧ (k.vault.chans[j].wb.find? (fun q => q.1 = sec) = none →
                  x.data = k.vault.readSector sec ∧ x.pz = k.vault.tags.has sec ∧ x.decoded = false)
              ∧ (∀ q, k.vault.chans[j].wb.find? (fun q => q.1 = sec) = some q →
                  x.data = q.2 ∧ x.pz = false ∧ x.decoded = true)
              ∧ (t.core a).vault.writes = k.vault.writes ∧ (t.core a).vault.remote = k.vault.remote)
        ∧ (∀ u i sec sp, cls = 1 → k.offer .std j (runCycle s a) = some (u, i, sec, sp) →
            ∃ w, (t.core a).vault.writes = k.vault.writes ++ [w] ∧ w.unit = u ∧ w.sector = sec
              ∧ w.due = runCycle s a + 8 ∧ w.onClk = false ∧ w.data = k.readScratch sp 64 ∧ w.pz = k.poisoned sp 64
              ∧ (t.core a).vault.served = k.vault.served ∧ (t.core a).vault.remote = k.vault.remote)
        ∧ (∀ r, cls = 2 → k.vault.remote.find? (fun r => chanOf r.sector = j) = some r →
            ∃ w, (t.core a).vault.writes = k.vault.writes ++ [w] ∧ w.sector = r.sector ∧ w.data = r.data ∧ w.pz = r.pz
              ∧ w.due = clockCycle s a + 8 ∧ w.onClk = true ∧ (t.core a).vault.remote = k.vault.remote.erase r
              ∧ (t.core a).vault.served = k.vault.served ∧ (t.core a).st = k.st))

/-- Derived (R237 to R241, R254): SECTOR_DECODE on the oldest sector of a channel that awaits its decode: a sector with an
unmarked tag is delivered as stored without symbol errors, corrected with one or two (counted, and held for inside a
frame), and zero and marked with three or four (`ue_read`, counted in the scrub report). -/
def Obligations.SectorDecodes : Prop :=
  ∀ (s : State) (a : CoreRef) (j : Fin 16) (e : SectorErr) (i : Nat) (x : Served),
    s.dies[a.die].toDecode a.core j = some i → (s.core a).vault.served[i]? = some x →
    tagOf x.pz ^^^ e.tagFlip = 0 →
    let w := errorWeight e.symbols
    let c := (s.core a).vault.chans[j]
    ∃ t y, exec (.sectorDecode a j e) s = .next t ∧ (t.core a).vault.served[i]? = some y ∧ y.decoded = true
      ∧ y.sector = x.sector ∧ y.into = x.into
      ∧ (w ≤ 2 → y.data = x.data ∧ y.pz = false)
      ∧ (w = 0 → (t.core a).vault.chans[j] = { c with icCnt := satAdd c.icCnt e.inner }
          ∧ t.dies[a.die].hold = s.dies[a.die].hold ∧ t.hub = s.hub)
      ∧ (1 ≤ w → w ≤ 2 → (t.core a).vault.chans[j].ocRd = satAdd c.ocRd 1
          ∧ (s.dies[a.die].frm.frun = true → t.dies[a.die].hold.timed
              = s.dies[a.die].hold.timed ++ [⟨8, clockCycle s a + 4, clockCycle s a + 27⟩]))
      ∧ (3 ≤ w → w ≤ 4 → y.data = List.replicate 64 0 ∧ y.pz = true
          ∧ (t.core a).vault.chans[j].ueCnt = satAdd c.ueCnt 1 ∧ (t.core a).vault.chans[j].ueValid = true
          ∧ bit (t.core a).vault.chans[j].fault 0 = true)

/-! ### Words in the check stage (R128 to R133, R152, R153, R191) -/

/-- Derived (R129, R130, R152, R153): WORD_CHECK_STAGE on a due word. A failed word is counted and captured as slot 8,
sets `hdr_chk`, takes one plan cycle and moves the word address past its extent, and the eighth in a row stops the core;
a word that would reach the end of the bank stops the core with `pc_range`; a good word without slots only moves the word
address on and takes `rep` + 1 cycles; and a good word with a `movi` alone also writes its register. A core whose word is
not due does nothing. Where the rules leave a point open, the model's choice: log entry 43, and log entry 96 for a word that is not
inside the bank: its extent is judged before its header, whatever that says. -/
def Obligations.WordsAreChecked : Prop :=
  ∀ (s : State) (a : CoreRef), s.runs a.die = true →
    let d := s.dies[a.die]
    let k := (s.core a).ctl
    let w := fetchWord k.bank (4 * k.pc.toNat)
    let inBank := 4 * k.pc.toNat < 0x30000 ∧ 4 * k.pc.toNat + wordLen w.mask ≤ 0x30000
    (d.checkDue a.core = false → exec (.wordCheckStage a) s = .next s)
    ∧ (d.checkDue a.core = true → ¬ inBank →
        ∃ t, exec (.wordCheckStage a) s = .next t ∧ OnlyDie a.die s t ∧ (t.core a).ctl.stopped = true
          ∧ bit (t.core a).ctl.fault 4 = true ∧ (t.core a).ctl.s = k.s ∧ (t.core a).ctl.pc = k.pc)
    ∧ (d.checkDue a.core = true → inBank → w.failed ≠ none →
        ∃ t, exec (.wordCheckStage a) s = .next t ∧ OnlyDie a.die s t
          ∧ (t.core a).ctl.pc = k.pc + BitVec.ofNat 16 (wordLen w.mask / 4)
          ∧ (t.core a).ctl.nextChk = d.clock.pcyc + 1 ∧ (t.core a).ctl.failRun = k.failRun + 1
          ∧ (t.core a).ctl.s = k.s ∧ (t.core a).ctl.cap.cnt = satAdd k.cap.cnt 1 ∧ bit (t.core a).ctl.fault 1 = true
          ∧ (k.cap.valid = false → (t.core a).ctl.cap.slot = 8 ∧ (t.core a).ctl.cap.addr = k.pc)
          ∧ (k.failRun < 7 → (t.core a).ctl.stopped = k.stopped)
          ∧ (7 ≤ k.failRun → (t.core a).ctl.stopped = true ∧ bit (t.core a).ctl.fault 3 = true))
    ∧ (d.checkDue a.core = true → inBank → w.failed = none → w.mask = 0 →
        ∃ t, exec (.wordCheckStage a) s = .next t ∧ OnlyCtl a s t
          ∧ (t.core a).ctl = { k with pc := k.pc + 1, nextChk := d.clock.pcyc + (w.rep.toNat + 1), failRun := 0 })
    ∧ (∀ rd imm, d.checkDue a.core = true → inBank → w.failed = none → w.mask = 1 → ctlCause w.ctlBits = none →
        decodeCtl w.ctlBits = some ⟨.movi rd imm, false⟩ →
        ∃ t, exec (.wordCheckStage a) s = .next t ∧ OnlyCtl a s t
          ∧ (t.core a).ctl = { k with s := k.s.set rd.toNat (imm.zeroExtend 32) (BitVec.isLt rd), pc := k.pc + 2,
                                      nextChk := d.clock.pcyc + (w.rep.toNat + 1), failRun := 0 })

/-- Derived (R88, R191): HOLD_RELEASE gives every unreleased request of its core and slot whose failing check now passes
this clock cycle as its release, and leaves the others; TIMED_HOLD_END ends the timed holds whose last cycle is past and no
other. -/
def Obligations.HoldsEnd : Prop :=
  ∀ (s : State) (a : CoreRef) (b : Fin 8), s.runs a.die = true → b ≠ 7 →
    (∃ t, exec (.holdRelease a b) s = .next t ∧ OnlyDie a.die s t
      ∧ t.dies[a.die] = { s.dies[a.die] with hold := t.dies[a.die].hold }
      ∧ t.dies[a.die].hold = { s.dies[a.die].hold with reqs := t.dies[a.die].hold.reqs }
      ∧ t.dies[a.die].hold.reqs.length = s.dies[a.die].hold.reqs.length
      ∧ ∀ (i : Nat) (q : HoldReq), s.dies[a.die].hold.reqs[i]? = some q →
          (∀ x, q.core = a.core → q.slot = b → q.release = none →
            s.dies[a.die].cores[q.core].ctl.checked.find? (fun x => x.due == q.forCyc && x.slot = q.slot) = some x →
            t.dies[a.die].hold.reqs[i]? = some (if s.dies[a.die].slotReady q.core x
              then { q with release := some (clockCycle s a) } else q))
          ∧ (q.core ≠ a.core ∨ q.slot ≠ b ∨ q.release ≠ none → t.dies[a.die].hold.reqs[i]? = some q))
    ∧ (∃ t, exec (.timedHoldEnd a.die) s = .next t ∧ OnlyDie a.die s t
      ∧ t.dies[a.die] = { s.dies[a.die] with hold := t.dies[a.die].hold }
      ∧ t.dies[a.die].hold = { s.dies[a.die].hold with timed := t.dies[a.die].hold.timed }
      ∧ (∀ h : TimedHold, h ∈ t.dies[a.die].hold.timed ↔ h ∈ s.dies[a.die].hold.timed ∧ clockCycle s a ≤ h.last))

/-! ### Sends and sync counters (chapters 10 and 11) -/

/-- Derived (R180, R181, R197, R278): a legal, ready `msend` queues its message with the core's next sequence number and
counts it as outstanding; FLIT_INJECT of a one-flit message to the core itself, in a running frame, brings it to the
core's arrivals with that header, and outside a frame nothing is injected. Where the rules leave a point open, the
model's choice: log entry 35. -/
def Obligations.MessagesAreSent : Prop :=
  ∀ (s : State) (a : CoreRef) (f : MsendF),
    let r := (s.core a).rings
    let d := s.dies[a.die]
    (Issues s a 6 (.msend f) →
      ∃ t x, exec (.msend a f) s = .next t ∧ OnlyRings a s t
        ∧ (t.core a).rings = { r with sends := r.sends ++ [x], seq := r.seq + 1, nout := r.nout + 1,
                                      outs := r.outs ++ [⟨r.seq, f.q, f.tag, opReg s a f.so 1, f.ack, f.nak⟩] }
        ∧ x.f = f ∧ x.seq = r.seq ∧ x.gran = (if f.len = 0 then 256 else f.len.toNat) ∧ x.dest = opReg s a f.so 1
        ∧ x.sent = 0 ∧ x.flits = ceilDiv (16 + 16 * x.gran) 128
        ∧ (∀ b, (s.core a).buf f.sh.toNat = some b → x.src = b.base + (opReg s a f.so 0).toNat))
    ∧ (d.frm.frun = false → d.router.outMsgs = [] → exec (.flitInject a) s = .next s)
    ∧ (∀ x : Send, s.runs a.die = true → d.frm.frun = true → (s.core a).ctl.ended = false → d.heldNow = false → r.injAt ≠ some (runCycle s a) →
        r.sends = [x] → x.sent = 0 → x.flits = 1 → x.f.hd = false → d.isLocal x.dest.toNat = true →
        desCore x.dest.toNat = a.core → (∀ u : Fin 6, (s.core a).st[u].places = []) → d.router.outMsgs = [] →
        ∃ t m, exec (.flitInject a) s = .next t ∧ OnlyRings a s t
          ∧ (t.core a).rings = { r with sends := [], injAt := some (runCycle s a), arrive := r.arrive ++ [.mesh m 0 1] }
          ∧ m.hdr.q = x.f.q ∧ m.hdr.len = x.f.len ∧ m.hdr.tag = x.f.tag ∧ m.hdr.seq = x.seq ∧ m.hdr.frm = x.frm
          ∧ m.hdr.src = d.designator a.core ∧ m.body.length = min x.gran 7)

/-- Derived (R182, R185, R219, R222, R258, R259, R287): a legal local `sig` or `cons` sends its amount plus one to its own
counter at the end of this cycle; a `sig` to a core of the die lands after the signal network's latency; `harm` arms the
handle table. `qrp`, `hswap` and `hval` change nothing until the cycle's end, which then moves the ring's read pointer,
exchanges the roles and clears the half that leaves the compute role, or writes the valid bit named, and nothing else. -/
def Obligations.SyncSlotOperations : Prop :=
  ∀ (s : State) (a : CoreRef) (sc h : BitVec 6) (so q : BitVec 4) (n : BitVec 8) (role v : Bool), s.runs a.die = true →
    let k := s.core a
    let atEnd (t : State) : Core := (t.core a).endOps (runCycle s a) (clockCycle s a) s.dies[a.die].frm.fnum.toNat
    let inc (x : Inc) := SendsInc a x s
    (slotCauses s a (.sig sc so false n) = [] → ∃ t, exec (.sig a sc so false n) s = .next t
      ∧ inc { due := clockCycle s a, sc := sc.toFin, onC := false, amt := n.toNat + 1, rem := false, src := 0, job := 0,
              ans := none } t)
    ∧ (slotCauses s a (.cons sc n) = [] → ∃ t, exec (.cons a sc n) s = .next t
      ∧ inc { due := clockCycle s a, sc := sc.toFin, onC := true, amt := n.toNat + 1, rem := false, src := 0, job := 0,
              ans := none } t)
    ∧ (slotCauses s a (.sig sc so true n) = [] → s.dies[a.die].isLocal (opReg s a so 0).toNat = true →
        ∃ t, exec (.sig a sc so true n) s = .next t
          ∧ SendsInc ⟨a.die, desCore (opReg s a so 0).toNat⟩
              { due := if a.core = desCore (opReg s a so 0).toNat then clockCycle s a + 2
                       else clockCycle s a + 6 + 2 * hops a.core (desCore (opReg s a so 0).toNat),
                sc := sc.toFin, onC := false, amt := n.toNat + 1, rem := decide (a.core ≠ desCore (opReg s a so 0).toNat),
                src := s.dies[a.die].designator a.core, job := s.dies[a.die].jobOf, ans := none } s t)
    ∧ (slotCauses s a (.qrp q so) = [] → ∃ t, exec (.qrp a q so) s = .next t ∧ EndsWith a (.qrp q so) s t
        ∧ (k.ctl.ends = [] → { atEnd t with rings := k.rings } = k
            ∧ (atEnd t).rings.q[q.toFin] = { k.rings.q[q.toFin] with rp := opReg s a so 0 }
            ∧ (∀ x : Fin 16, x ≠ q.toFin → (atEnd t).rings.q[x] = k.rings.q[x])
            ∧ { (atEnd t).rings with q := k.rings.q } = k.rings))
    ∧ (slotCauses s a (.hswap h) = [] → ∃ t, exec (.hswap a h) s = .next t ∧ EndsWith a (.hswap h) s t
        ∧ (k.ctl.ends = [] → { atEnd t with hdl := k.hdl } = k
            ∧ (atEnd t).hdl.run[h.toFin].role = !k.hdl.run[h.toFin].role
            ∧ halfValid (atEnd t).hdl.run[h.toFin] k.hdl.run[h.toFin].role = false
            ∧ halfValid (atEnd t).hdl.run[h.toFin] (!k.hdl.run[h.toFin].role)
                = halfValid k.hdl.run[h.toFin] (!k.hdl.run[h.toFin].role)
            ∧ (∀ x : Fin 64, x ≠ h.toFin → (atEnd t).hdl.run[x] = k.hdl.run[x])
            ∧ { (atEnd t).hdl with run := k.hdl.run } = k.hdl))
    ∧ (slotCauses s a (.hval h role v) = [] → ∃ t, exec (.hval a h role v) s = .next t ∧ EndsWith a (.hval h role v) s t
        ∧ (k.ctl.ends = [] → { atEnd t with hdl := k.hdl } = k
            ∧ (let half := if role then k.hdl.run[h.toFin].role else !k.hdl.run[h.toFin].role
               halfValid (atEnd t).hdl.run[h.toFin] half = v
                 ∧ halfValid (atEnd t).hdl.run[h.toFin] (!half) = halfValid k.hdl.run[h.toFin] (!half))
            ∧ (atEnd t).hdl.run[h.toFin].role = k.hdl.run[h.toFin].role
            ∧ (∀ x : Fin 64, x ≠ h.toFin → (atEnd t).hdl.run[x] = k.hdl.run[x])
            ∧ { (atEnd t).hdl with run := k.hdl.run } = k.hdl))
    ∧ (∃ t, exec (.harm a) s = .next t ∧ OnlyHdl a s t ∧ (t.core a).hdl = { k.hdl with armP := true })

/-- Derived (R182, R183, R264, R265, R268, R286): a legal `wait` whose count has come, `pwait` whose word meets its
condition, or `qsel` with a ring to select completes at once and holds nothing, writing its summary where it is asked to; one
whose condition fails begins to wait in this clock cycle and requests a hold. A `qsel` takes the lowest ring of its mask that has
a message or, with `rot` set, the first one after `qrot` in the order round the rings, which `qrot` then names. -/
def Obligations.WaitsBegin : Prop :=
  ∀ (s : State) (a : CoreRef) (f : WaitF) (g : PwaitF) (q : QselF), s.runs a.die = true →
    let k := s.core a
    let clk := clockCycle s a
    let done (t : State) (vsw : Bool) (vsd : BitVec 3) (val : U32) (pz : Bool) : Prop :=
      OnlyVec a s t ∧ (t.core a).vec = { k.vec with sumQ := k.vec.sumQ ++ (if vsw then
        [{ due := clk, onClk := true, rank := 1, unit := 0, vs := vsd.toFin, val := val, ty := 2, poison := pz }] else []) }
    let holds (t : State) (w : Waiting) (cause : HoldCause) : Prop :=
      OnlyDie a.die s t ∧ { t.core a with sync := k.sync } = k ∧ (t.core a).sync = { k.sync with waits := k.sync.waits ++ [w] }
        ∧ t.dies[a.die].hold = { s.dies[a.die].hold with reqs := s.dies[a.die].hold.reqs
            ++ [⟨s.dies[a.die].clock.pcyc, a.core, 7, cause, none⟩] }
    (slotCauses s a (.wait f) = [] →
      let e := (opReg s a f.so 0).toNat + (opReg s a f.so 1).toNat * 2 ^ 32
      ∃ t, exec (.wait a f) s = .next t
        ∧ (e ≤ k.sync.ctr[f.sc.toFin].s.toNat → done t f.vsw f.vsd 1 false)
        ∧ (k.sync.ctr[f.sc.toFin].s.toNat < e → ∃ w, holds t w 4 ∧ w.v0 = clk ∧ w.tmo = f.tmo.toNat
            ∧ w.what = .count f.sc.toFin (BitVec.ofNat 48 e) ∧ w.vsd = f.vsd.toFin ∧ w.vsw = f.vsw))
    ∧ (slotCauses s a (.pwait g) = [] → k.earlier (slotNow s a 7 (.pwait g)) = [] → ∀ b, k.buf g.h.toNat = some b →
        let addr := b.base + (opReg s a g.so 0).toNat
        let met := condInt g.cond true (BitVec.ofNat 32 (leNat (k.readScratch addr 4))) (opReg s a g.so 1)
        ∃ t, exec (.pwait a g) s = .next t
          ∧ (met = true → done t g.vsw g.vsd 1 (k.poisoned addr 4))
          ∧ (met = false → ∃ w, holds t w 5 ∧ w.v0 = clk ∧ w.tmo = g.tmo.toNat
              ∧ w.what = .word g.h.toFin addr g.cond (opReg s a g.so 1)))
    ∧ (slotCauses s a (.qsel q) = [] →
        ∃ t, exec (.qsel a q) s = .next t
          ∧ (∀ r : Fin 16, bit q.qmask r.val = true → (k.rings.q[r]).waiting = true →
              let at_ (x : Fin 16) : Nat := if q.rot then (x.val + 15 - k.rings.rot.toNat) % 16 else x.val
              (∀ x : Fin 16, at_ x < at_ r → bit q.qmask x.val = true → (k.rings.q[x]).waiting = false) →
              OnlyCore a s t ∧ { t.core a with vec := k.vec, rings := k.rings } = k
                ∧ (t.core a).rings = (if q.rot then { k.rings with rot := BitVec.ofNat 4 r.val } else k.rings)
                ∧ (t.core a).vec = { k.vec with sumQ := k.vec.sumQ
                    ++ [⟨clk, true, 1, 0, q.vsd.toFin, BitVec.ofNat 32 r.val, 2, false⟩,
                        ⟨clk, true, 1, 0, q.vsd.toFin + 1, k.headWord r, 2, false⟩] })
          ∧ ((∀ x : Fin 16, bit q.qmask x.val = true → (k.rings.q[x]).waiting = false) →
              ∃ w, holds t w 6 ∧ w.v0 = clk ∧ w.tmo = q.tmo.toNat ∧ w.what = .ring q.qmask q.rot))

/-- Derived (R183, R264, R265, R268, R286): WAIT_TIMEOUT at the last cycle of the one wait of a core, with nothing on its way to
its counters. A wait that is met as the cycle starts, and was met at no earlier one, ends as met and its hold is released in this
clock cycle. Any other is judged where nothing more can land in the cycle: a count or a word that is met, or a `qsel` whose
message becomes visible in that very cycle, ends as met; an unmet wait sets `wt_tmo` and writes, where it is asked to, 0 to its
summary, with the word's poison mark for a `pwait`, or 16 and the head word 0 for a `qsel`; its hold is released in the next
clock cycle. No other request changes. Before that cycle nothing happens. Where more may land, the end of the cycle judges the
wait (the model's choice: log entry 15). -/
def Obligations.WaitsTimeOut : Prop :=
  ∀ (s : State) (a : CoreRef) (w : Waiting), s.runs a.die = true →
    (s.core a).sync.waits = [w] → w.tmo ≠ 0 → (s.core a).sync.incs = [] → (s.core a).vault.tally = [] →
    (s.core a).vault.writes = [] → (s.core a).vec.sumQ = [] → (s.core a).vec.sumNow = [] → (s.core a).rings.losses = [] →
    let k := s.core a
    let clk := clockCycle s a
    let settled := s.dies[a.die].waitSettled a.core w
    let ends (release : Nat) (t : State) : Prop :=
      OnlyDie a.die s t ∧ (t.core a).sync.waits = []
      ∧ t.dies[a.die].hold.reqs = s.dies[a.die].hold.reqs.map (fun q =>
          if q.core = a.core ∧ q.slot = 7 ∧ q.forCyc = w.due ∧ q.release = none then { q with release := some release } else q)
    let tells (vs : Fin 8) (val : U32) (pz : Bool) (t : State) : Prop := (t.core a).vec.vs[vs] = ⟨val, 2, pz⟩
    let met (t : State) : Prop := (t.core a).sync.fault = k.sync.fault
    let unmet (t : State) : Prop := bit (t.core a).sync.fault 5 = true
    (clk < w.v0 + w.tmo - 1 → exec (.waitTimeout a) s = .next s)
    ∧ (w.v0 + w.tmo - 1 ≤ clk →
      (w.v0 < clk → k.waitMet w.what = true → ∃ t, exec (.waitTimeout a) s = .next t ∧ ends clk t ∧ met t
        ∧ (w.vsw = false → (∀ m r, w.what ≠ .ring m r) → (t.core a).vec = k.vec)
        ∧ (∀ sc e, w.what = .count sc e → w.vsw = true → tells w.vsd 1 false t)
        ∧ (∀ h addr cond ref, w.what = .word h addr cond ref → w.vsw = true → tells w.vsd 1 (k.poisoned addr 4) t)
        ∧ (∀ mask rot q, w.what = .ring mask rot → k.rings.select mask rot = some q →
            tells w.vsd (BitVec.ofNat 32 q.val) false t ∧ tells (w.vsd + 1) (k.headWord q) false t
            ∧ (t.core a).rings = if rot then { k.rings with rot := BitVec.ofNat 4 q.val } else k.rings))
      ∧ ((w.v0 < clk → k.waitMet w.what = false) →
        (settled = false → exec (.waitTimeout a) s = .next s)
        ∧ (∀ sc e, settled = true → w.what = .count sc e → (∀ q : Fin 16, k.rings.q[q].resv = []) →
          ∃ t, exec (.waitTimeout a) s = .next t ∧ ends (clk + 1) t
            ∧ (k.sync.ctr[sc].s.toNat < e.toNat → unmet t ∧ (w.vsw = true → tells w.vsd 0 false t))
            ∧ (e.toNat ≤ k.sync.ctr[sc].s.toNat → met t ∧ (w.vsw = true → tells w.vsd 1 false t))
            ∧ (w.vsw = false → (t.core a).vec = k.vec))
        ∧ (∀ h addr cond ref, settled = true → w.what = .word h addr cond ref → (∀ q : Fin 16, k.rings.q[q].resv = []) →
          let v := BitVec.ofNat 32 (leNat (k.readScratch addr 4))
          ∃ t, exec (.waitTimeout a) s = .next t ∧ ends (clk + 1) t
            ∧ (condInt cond true v ref = false → unmet t ∧ (w.vsw = true → tells w.vsd 0 (k.poisoned addr 4) t))
            ∧ (condInt cond true v ref = true → met t ∧ (w.vsw = true → tells w.vsd 1 (k.poisoned addr 4) t))
            ∧ (w.vsw = false → (t.core a).vec = k.vec))
        ∧ (∀ mask rot, settled = true → w.what = .ring mask rot →
          (∀ q : Fin 16, bit mask q.val = true → k.rings.q[q].waiting = false) → (∀ q : Fin 16, k.rings.q[q].resv = []) →
          ∃ t, exec (.waitTimeout a) s = .next t ∧ ends (clk + 1) t ∧ unmet t
            ∧ tells w.vsd 16 false t ∧ tells (w.vsd + 1) 0 false t ∧ (t.core a).rings = k.rings)
        ∧ (∀ mask rot (q : Fin 16) (x : Resv), settled = true → w.what = .ring mask rot →
          (∀ y : Fin 16, bit mask y.val = decide (y = q)) → (∀ y : Fin 16, y ≠ q → k.rings.q[y].resv = []) →
          k.rings.q[q].en = true → k.rings.q[q].resv = [x] → x.full ≠ none → x.wrapAt = none → x.void = false → x.from_ = none →
          (x.start + x.size) % 2 ^ 32 ≠ k.rings.q[q].rp.toNat →
          ∃ t, exec (.waitTimeout a) s = .next t ∧ ends (clk + 1) t ∧ met t
            ∧ tells w.vsd (BitVec.ofNat 32 q.val) false t ∧ tells (w.vsd + 1) ((t.core a).headWord q) false t
            ∧ (rot = true → (t.core a).rings.rot = BitVec.ofNat 4 q.val))))

/-- Derived (R258): INCREMENT_LAND with a plan of the increments' job applies all the increments of a declared counter that
are due together: the sums, saturation at 2^48 − 1 with `sc_top`, underflow to S' with `sc_unf`, overflow to C' + D with
`sc_ovf`; each sets its bit, and no other counter changes. -/
def Obligations.IncrementsApplyTogether : Prop :=
  ∀ (s : State) (a : CoreRef) (sc : Fin 64) (p : Loaded), s.runs a.die = true →
    let d := s.dies[a.die]
    let y := (s.core a).sync
    let due (i : Inc) : Bool := decide (i.sc = sc) && decide (i.due ≤ clockCycle s a)
    let total (c : Bool) : Nat := (((y.incs.filter due).filter (fun i => i.onC == c)).map (·.amt)).foldl (· + ·) 0
    d.plan = some p → d.pow.clearing = false → (∀ i ∈ y.incs, i.rem = true → i.job = p.job) →
    y.ctr[sc].decl = true → y.incs.filter due ≠ [] →
    let top := 2 ^ 48 - 1
    let s1 := min (y.ctr[sc].s.toNat + total false) top
    let c1 := min (y.ctr[sc].c.toNat + total true) top
    let c2 := min c1 s1
    let s2 := if y.ctr[sc].depth.toNat < s1 - c2 then c2 + y.ctr[sc].depth.toNat else s1
    ∃ t, exec (.incrementLand a sc) s = .next t ∧ OnlyDie a.die s t
      ∧ (t.core a).sync.ctr[sc].s.toNat = s2 ∧ (t.core a).sync.ctr[sc].c.toNat = c2
      ∧ (t.core a).sync.ctr[sc].depth = y.ctr[sc].depth
      ∧ (∀ x : Fin 64, x ≠ sc → (t.core a).sync.ctr[x] = y.ctr[x])
      ∧ (t.core a).sync.incs = y.incs.filter (fun i => !due i)
      ∧ (top < y.ctr[sc].s.toNat + total false ∨ top < y.ctr[sc].c.toNat + total true →
          bit (t.core a).sync.fault 2 = true)
      ∧ (s1 < c1 → bit (t.core a).sync.fault 1 = true)
      ∧ (y.ctr[sc].depth.toNat < s1 - c2 → bit (t.core a).sync.fault 0 = true)
      ∧ SameScratch a s t

/-- Derived (R276, R279, R281, R283): MESSAGE_DECISION on the only arrival of a core, the head of a message from this
die: where the first acceptance row of R281 holds it is reserved at `wres`, which rises by its bytes; where the second
holds, the tail is skipped too, and its wrap marker is written, or awaits its bank; where the ring is disabled, closed to
hosts or too small, or there is no room, it is refused with that row's code, counted, its fault bit is set, and its sender
is answered with the code. MESSAGE_VISIBLE then shows a complete first record: `wp` passes it, it is counted and
acknowledged. Where the rules leave a point open, the model's choice: log entry 45. -/
def Obligations.MessagesReachRings : Prop :=
  ∀ (s : State) (a : CoreRef) (m : MsgIn) (n : Nat) (q : Fin 16), s.runs a.die = true → q = m.hdr.q.toFin →
    let k := s.core a
    let r := k.rings.q[q]
    let b := m.hdr.size
    let tail := ringSize r - r.wres.toNat % ringSize r
    let free := ringSize r - (r.wres - r.rp).toNat
    let accepts (skip : Nat) (t : State) : Prop :=
      (t.core a).rings.q[q].wres.toNat = (r.wres.toNat + skip + b) % 2 ^ 32 ∧ (t.core a).rings.q[q].wp = r.wp
      ∧ (t.core a).rings.q[q].resv.length = r.resv.length + 1 ∧ (t.core a).rings.q[q].nref = r.nref
      ∧ (∀ c : CoreIx, (t.dies[a.die].cores[c]).sync = (s.dies[a.die].cores[c]).sync)
      ∧ ∃ x : Resv, (t.core a).rings.q[q].resv.getLast? = some x ∧ x.start = (r.wres.toNat + skip) % 2 ^ 32 ∧ x.size = b
          ∧ x.got = 1 ∧ x.void = false
          ∧ (x.wrapAt = none ∨ (0 < skip ∧ x.wrapAt = some r.wres.toNat))
          ∧ (0 < skip → x.wrapAt = none → (t.core a).readScratch (ringAddr r r.wres.toNat) 16 = leBytes 16 2)
    let refuses (code bitNo : Nat) (t : State) : Prop :=
      (t.core a).rings.q[q].nref = satAdd r.nref 1 ∧ bit (t.core a).rings.fault bitNo = true
      ∧ (t.core a).rings.q[q].wres = r.wres ∧ (t.core a).rings.q[q].resv = r.resv ∧ SameScratch a s t
      ∧ AnswersSend a m.hdr.q m.hdr.tag m.hdr.src m.hdr.seq code s t
    (k.rings.arrive = [.mesh m 0 n] → m.from_ = none → k.rings.isAnswered m.hdr.src m.hdr.seq = false → k.rings.markers = [] →
      Cells.wf k.scratch = true →
      ∃ t, exec (.messageDecision a) s = .next t ∧ OnlyDie a.die s t ∧ (t.core a).rings.arrive = []
        ∧ (r.en = true → (m.hdr.ho = true → r.host = true) → b ≤ ringSize r → b ≤ tail → b ≤ free → accepts 0 t)
        ∧ (r.en = true → (m.hdr.ho = true → r.host = true) → b ≤ ringSize r → tail < b → tail + b ≤ free → accepts tail t)
        ∧ (r.en = false → refuses 2 1 t)
        ∧ (r.en = true → m.hdr.ho = true → r.host = false → refuses 4 3 t)
        ∧ (r.en = true → (m.hdr.ho = true → r.host = true) → ringSize r < b → refuses 3 2 t)
        ∧ (r.en = true → (m.hdr.ho = true → r.host = true) → b ≤ ringSize r →
            (free < b ∨ (tail < b ∧ free < tail + b)) → refuses 1 0 t))
    ∧ (∀ x rest, r.resv = x :: rest → x.full ≠ none → x.wrapAt = none → x.void = false → (∀ y ∈ rest, y.full = none) →
        ∃ t, exec (.messageVisible a q) s = .next t ∧ OnlyDie a.die s t
          ∧ (x.from_ = none → AnswersSend a x.hdr.q x.hdr.tag x.hdr.src x.hdr.seq 0 s t)
          ∧ (t.core a).rings.q[q].wp.toNat = (x.start + x.size) % 2 ^ 32
          ∧ (t.core a).rings.q[q].nacc = r.nacc + 1 ∧ (t.core a).rings.q[q].resv = rest ∧ SameScratch a s t)

/-- Derived (R200, R229, R262, R285, R322): LOSS_NOTICE for a message that has no reservation discards what has arrived of
it, sets `q_void`, takes the notice and answers a sender of this die with code 5; STORE_COMPLETION sends the signal of a store whose sectors are all written;
REMOTE_ARRIVAL_WRITE writes a remote sector that is due; STORE_SEGMENT_CLOSE with no segment idle for 32 cycles changes
nothing, and with one closes it. -/
def Obligations.RemoteWorkLands : Prop :=
  ∀ (s : State) (a : CoreRef), s.runs a.die = true →
    let k := s.core a
    (∀ x : Loss, k.rings.losses = [x] → x.due ≤ clockCycle s a → (x.from_ = none → k.rings.isAnswered x.src x.seq = false) →
      (k.rings.q[x.q.toFin]).resv = [] →
      ∃ t, exec (.lossNotice a) s = .next t ∧ OnlyDie a.die s t ∧ (t.core a).rings.losses = []
        ∧ bit (t.core a).rings.fault 4 = true
        ∧ (t.core a).rings.arrive = k.rings.arrive.filter (fun y => !y.isOf x) ∧ SameScratch a s t
        ∧ (x.from_ = none → AnswersSend a x.q x.tag x.src x.seq 5 s t))
    ∧ (∀ (y : Tally) (x : StoreTotal), k.vault.tally = [y] → y.total = some x → x.total ≤ y.written →
        x.due ≤ clockCycle s a → k.sync.incs = [] → k.sync.ctr[fin64 x.rsc].decl = true → (∃ p, s.dies[a.die].plan = some p
          ∧ p.job = x.job) → s.dies[a.die].pow.clearing = false →
        k.sync.ctr[fin64 x.rsc].c.toNat ≤ k.sync.ctr[fin64 x.rsc].s.toNat →
        k.sync.ctr[fin64 x.rsc].s.toNat + 1 ≤ k.sync.ctr[fin64 x.rsc].c.toNat + k.sync.ctr[fin64 x.rsc].depth.toNat →
        k.sync.ctr[fin64 x.rsc].s.toNat + 1 < 2 ^ 48 →
        ∃ t, exec (.storeCompletion a) s = .next t ∧ OnlyCore a s t ∧ (t.core a).vault.tally = []
          ∧ (t.core a).sync.incs = []
          ∧ (t.core a).sync.ctr[fin64 x.rsc].s.toNat = k.sync.ctr[fin64 x.rsc].s.toNat + 1
          ∧ (t.core a).sync.ctr[fin64 x.rsc].c = k.sync.ctr[fin64 x.rsc].c)
    ∧ (∀ w : DramWrite, k.vault.remote = [] → k.vault.writes = [w] → w.onClk = true → w.due ≤ clockCycle s a →
        Cells.wf k.vault.mem = true → w.data.length = 64 →
        ∃ t, exec (.remoteArrivalWrite a) s = .next t ∧ OnlyCore a s t ∧ (t.core a).vault.writes = []
          ∧ (t.core a).vault.readSector w.sector = w.data ∧ (t.core a).vault.tags.has w.sector = w.pz
          ∧ (∀ x : Nat, x / 64 ≠ w.sector → Cells.get (t.core a).vault.mem x = Cells.get k.vault.mem x))
    ∧ ((∀ g ∈ s.dies[a.die].router.segs, g.core = a.core → clockCycle s a < g.idleAt) →
        exec (.storeSegmentClose a) s = .next s)
    ∧ (∀ g : Segment, s.dies[a.die].router.segs = [g] → g.core = a.core → g.idleAt ≤ clockCycle s a →
        ∃ t, exec (.storeSegmentClose a) s = .next t ∧ OnlyDie a.die s t ∧ t.dies[a.die].router.segs = []
          ∧ t.dies[a.die].cores = s.dies[a.die].cores)

/-! ### Frames and clocks (chapters 07 and 12) -/

/-- Derived (R27, R143, R306, R308, R309, R449): on a die that recognises ticks, is aligned, holds no refresh round and runs
no frame, a tick opens the frame of its number once its value is 12 ns back, and nothing happens before; the watchdog limits
in force reach the die with it. Ticks that fell during the last frame give one late frame with the number of the latest, the
others skipped and counted. A tick value met while a frame runs is counted as an overrun and kept, and the frame runs on; the
next tick value follows the period in force from the one met on. Where the rules leave a point open, the model's choice: log
entry 50, and log entry 78 for which period that is: by whether the hub die has met the tick. -/
def Obligations.TicksOpenFrames : Prop :=
  ∀ (s : State) (n : DieIx),
    let d := s.dies[n]
    let next := tickAfter d.frm.nextTick
      (if d.frm.nextTick < s.hub.time.nextTick then s.hub.time.inForce.toNat else s.hub.time.period.toNat)
    let limits (t : State) : Prop :=
      t.dies[n].hold.wd = s.hub.dict.wdForce.toNat ∧ t.dies[n].hold.margin = s.hub.dict.marginForce.toNat
    (s.hub.time.tc.toNat < s.hub.time.nextTick → d.opens = true → d.clock.aligned = true →
      s.planClear n = true → d.outsideRound = false → d.frm.frun = false →
      (d.frm.fallen = [] → d.frm.nextTick + 3 ≤ d.clock.tc.toNat →
        ∃ t, exec (.tickRecognition n) s = .next t ∧ OnlyDie n s t ∧ FrameOpens n (d.frm.nextTick / 62500) false s t
          ∧ t.dies[n].frm.skip = d.frm.skip ∧ t.dies[n].frm.ovr = d.frm.ovr ∧ limits t ∧ t.dies[n].frm.nextTick = next)
      ∧ (d.frm.fallen = [] → d.clock.tc.toNat < d.frm.nextTick + 3 → exec (.tickRecognition n) s = .next s)
      ∧ (∀ xs v, d.frm.fallen = xs ++ [v] → d.clock.tc.toNat < d.frm.nextTick →
        ∃ t, exec (.lateFrameRecognition n) s = .next t ∧ OnlyDie n s t ∧ FrameOpens n (v / 62500) true s t
          ∧ t.dies[n].frm.lateFrame = BitVec.ofNat 48 (v / 62500) ∧ t.dies[n].frm.lateAny = true
          ∧ t.dies[n].frm.skip = satAdd d.frm.skip xs.length ∧ limits t ∧ t.dies[n].frm.nextTick = d.frm.nextTick
          ∧ (xs ≠ [] → bit t.dies[n].frm.fault 2 = true)))
    ∧ (d.frm.frun = true → d.frm.nextTick ≤ d.clock.tc.toNat →
        ∃ t, exec (.tickOverrun n) s = .next t ∧ OnlyDie n s t ∧ t.dies[n].cores = d.cores
          ∧ t.dies[n].frm.frun = true ∧ t.dies[n].frm.fnum = d.frm.fnum ∧ t.dies[n].frm.ovr = satAdd d.frm.ovr 1
          ∧ t.dies[n].frm.fallen = d.frm.fallen ++ [d.frm.nextTick] ∧ bit t.dies[n].frm.fault 1 = true
          ∧ t.dies[n].hold = d.hold ∧ t.dies[n].frm.nextTick = next)
    ∧ (d.frm.frun = false ∨ d.clock.tc.toNat < d.frm.nextTick → exec (.tickOverrun n) s = .next s)

/-- Derived (R207, R208, R269, R93, R123, R157, R233, R291): a watchdog whose count is reached ends the frame: every core
has ended, and its checked slots, waits, sends and passes are gone; no hold remains; the frame is marked invalid and the
watchdog's bit is set. The hold watchdog captures the wait of each core's held word, and no other core's. Registers and
scratchpads stay. -/
def Obligations.WatchdogsAbort : Prop :=
  ∀ (s : State) (n : DieIx),
    let d := s.dies[n]
    let aborted (b : Nat) (t : State) : Prop :=
      OnlyDie n s t ∧ t.dies[n].frm.frun = false ∧ t.dies[n].hold.reqs = [] ∧ t.dies[n].hold.timed = []
      ∧ bit t.dies[n].hold.fault b = true
      ∧ (d.frm.invThis = false → t.dies[n].frm.invFrame = d.frm.fnum ∧ t.dies[n].frm.invAny = true
          ∧ t.dies[n].frm.invCnt = satAdd d.frm.invCnt 1)
      ∧ ∀ c : CoreIx, (t.dies[n].cores[c]).ctl.ended = true ∧ (t.dies[n].cores[c]).ctl.checked = []
          ∧ (t.dies[n].cores[c]).ctl.s = d.cores[c].ctl.s ∧ (t.dies[n].cores[c]).sync.waits = []
          ∧ (t.dies[n].cores[c]).rings.sends = [] ∧ (t.dies[n].cores[c]).mtx.passes = []
          ∧ (t.dies[n].cores[c]).mtx.front = none ∧ (t.dies[n].cores[c]).scratch = d.cores[c].scratch
          ∧ ∀ u : Fin 6, ((t.dies[n].cores[c]).st[u]).places = []
    s.runs n = true → d.unloadAtEnd = false → d.pow.passAtEnd = false → d.frm.frun = true →
    (d.hold.wd ≤ d.hold.run →
      ∃ t, exec (.holdWatchdogAbort n) s = .next t ∧ aborted 4 t
        ∧ ∀ c : CoreIx,
            (∀ w : Waiting, d.cores[c].sync.waits.find? (fun w => w.due = d.clock.pcyc) = some w →
              (t.dies[n].cores[c]).sync.wcap = d.cores[c].waitCapture d.frame16 w)
            ∧ ((∀ w ∈ d.cores[c].sync.waits, w.due ≠ d.clock.pcyc) → (t.dies[n].cores[c]).sync.wcap = d.cores[c].sync.wcap))
    ∧ (d.hold.run < d.hold.wd → exec (.holdWatchdogAbort n) s = .next s)
    ∧ (∀ p, d.plan = some p → p.frameLen + d.hold.margin ≤ d.frameLen →
        ∃ t, exec (.runWatchdogAbort n) s = .next t ∧ aborted 7 t)
    ∧ (∀ p, d.plan = some p → d.frameLen < p.frameLen + d.hold.margin → exec (.runWatchdogAbort n) s = .next s)

/-- Derived (R294, R295, R298, R299, R311, R417, R20): at a throttle window the duty sent takes effect, and inside a frame it
is a hold of that many cycles, and a duty above θ sets its bit; a droop demand stretches its region; a frequency window
compares its count with 846, 870 and 920; VCORE moves up 5 mV to at most 800, where it is on, and down 5 mV; a failed
management lane ends the die's frames, and the die forwards only where its router works. Where the rules leave a point open, the
model's choice: log entries 6, 42, 60 and 80; that a window on a die without a plan moves no status entry is log entry 103's
reading of R417, and that a droop demand comes as an operand is log entry 106. -/
def Obligations.ClocksAndVoltage : Prop :=
  ∀ (s : State) (n : DieIx) (region : Fin 8) (demand : Fin 9) (works : Bool),
    let d := s.dies[n]
    let p := s.hub.power
    (s.runs n = true → d.clock.winDone ≠ some d.window →
      ∃ t, exec (.throttleWindow n) s = .next t ∧ OnlyDie n s t ∧ t.dies[n].cores = d.cores
        ∧ t.dies[n].clock = { d.clock with winDone := some d.window, thrDuty := d.clock.thrNext }
        ∧ (d.frm.frun = false → d.clock.thrNext.toNat ≤ d.clock.thrMax.toNat → { t.dies[n] with clock := d.clock } = d)
        ∧ (d.frm.frun = false → t.dies[n].hold = d.hold)
        ∧ (d.frm.frun = true → t.dies[n].hold.timed = d.hold.timed ++
            (if d.clock.thrNext = 0 then [] else [⟨10, d.clock.clk + 4, d.clock.clk + 3 + d.clock.thrNext.toNat⟩]))
        ∧ (d.clock.thrMax.toNat < d.clock.thrNext.toNat → bit t.dies[n].frm.fault 3 = true))
    ∧ (s.runs n = true → ∃ t, exec (.droopStretch n region demand) s = .next t ∧ OnlyDie n s t
        ∧ { t.dies[n] with clock := { t.dies[n].clock with demand := d.clock.demand } } = d
        ∧ t.dies[n].clock.demand.drop 1 = d.clock.demand.drop 1 ∧ demand.val ≤ t.dies[n].clock.stretch region
        ∧ ∀ r : Fin 8, (t.dies[n].clock.demand.headD (.replicate 8 0))[r]
            = if r = region then demand else (d.clock.demand.headD (.replicate 8 0))[r])
    ∧ (d.fwDue = true →
        ∃ t, exec (.frequencyWindow n) s = .next t ∧ t.ports = s.ports ∧ (∀ m : DieIx, m ≠ n → t.dies[m] = s.dies[m])
          ∧ t.dies[n].cores = d.cores ∧ t.dies[n].pow = d.pow ∧ t.dies[n].clock.fwCount = 0
          ∧ (d.plan ≠ none → t.dies[n].clock.fwLast.toNat = min d.clock.fwCount 1023
              ∧ t.dies[n].clock.fwMin.toNat = min d.clock.fwMin.toNat (min d.clock.fwCount 1023))
          ∧ (d.plan = none → t.dies[n].clock.fwLast = d.clock.fwLast ∧ t.dies[n].clock.fwMin = d.clock.fwMin)
          ∧ (d.plan ≠ none → d.clock.fwCount < 846 → bit t.dies[n].frm.fault 0 = true)
          ∧ (d.plan = none ∨ 846 ≤ d.clock.fwCount → bit t.dies[n].frm.fault 0 = bit d.frm.fault 0)
          ∧ (d.clock.fwCount < 870 → 800 ≤ d.pow.vcoreMv → bit t.dies[n].frm.fault 4 = true)
          ∧ t.hub.power.fast[n] = (if 920 ≤ d.clock.fwCount then p.fast[n] + 1 else 0)
          ∧ t.hub.power.raiseDue[n] = (p.raiseDue[n] || (decide (d.clock.fwCount < 870) && decide (d.pow.vcoreMv < 800))))
    ∧ (p.raiseDue[n] = false ∨ d.pow.vcoreOn = false → exec (.vcoreRaise n) s = .next s)
    ∧ (p.raiseDue[n] = true → d.pow.vcoreOn = true → d.pow.vcoreMv < 800 → (p.raiseAt[n] = 0 ∨ p.raiseAt[n] + 5000 ≤ s.now) →
        ∃ t, exec (.vcoreRaise n) s = .next t ∧ t.ports = s.ports ∧ (∀ m : DieIx, m ≠ n → t.dies[m] = s.dies[m])
          ∧ { t.dies[n] with pow := d.pow } = d
          ∧ t.dies[n].pow = { d.pow with vcoreMv := min 800 (d.pow.vcoreMv + 5) } ∧ t.hub.power.raiseDue[n] = false
          ∧ { t.hub with power := s.hub.power } = s.hub)
    ∧ (1000 ≤ p.fast[n] → vcoreFloor n + 5 ≤ d.pow.vcoreMv →
        ∃ t, exec (.vcoreLower n) s = .next t ∧ t.ports = s.ports ∧ (∀ m : DieIx, m ≠ n → t.dies[m] = s.dies[m])
          ∧ { t.dies[n] with pow := d.pow } = d ∧ t.dies[n].pow = { d.pow with vcoreMv := d.pow.vcoreMv - 5 }
          ∧ 600 ≤ t.dies[n].pow.vcoreMv ∧ { t.hub with power := s.hub.power } = s.hub)
    ∧ (d.pow.lane = true →
        ∃ t, exec (.mgmtLaneFail n works) s = .next t ∧ t.ports = s.ports ∧ (∀ m : DieIx, m ≠ n → t.dies[m] = s.dies[m])
          ∧ t.dies[n].pow.lane = false ∧ t.dies[n].pow.noMore = true ∧ t.dies[n].opens = false
          ∧ (works = true → d.frm.frun = false → t.dies[n].router.pthru = true ∧ t.dies[n].plan = none)
          ∧ (works = true → d.frm.frun = true → t.dies[n].pow.passAtEnd = true ∧ t.dies[n].cores = d.cores)
          ∧ (works = false → { t.dies[n] with pow := d.pow } = d)
          ∧ { t.hub with rec_ := s.hub.rec_ } = s.hub)

/-- Derived (R301 to R304, R347): a die's counter takes the hub's value where it is more than 1 µs off and a counter may
step, and is steered through ρ otherwise; it is aligned from a step on, or once an exchange has found it within 4 ns (log
entry 122); an exchange notes its four timestamps in turn, those of its own flits as they
leave; its offset is applied at the upstream port, by a step above 1 µs where counters may step and by ρ otherwise, and is
dropped where a flit of it was replayed; a second without one is holdover. Where the rules leave a point open, the model's choice: log entry 51. -/
def Obligations.TimeExchanges : Prop :=
  ∀ (s : State) (n : DieIx) (p : PortIx) (e : Exchange) (t1 t2 t3 t4 : BitVec 72) (trt : Bool) (frac hops : BitVec 8),
    let x := s.ports[p]
    let h := s.hub.time
    let o := exchangeOffset t1 t2 t3 t4
    (s.dies[n].pow.vcoreOn = true → s.dies[n].pow.lane = true →
      ∃ t, exec (.dieTimeAlign n) s = .next t ∧ OnlyDie n s t
        ∧ (t.dies[n].clock.aligned = true ↔ s.dies[n].clock.aligned = true ∨ (s.dieOffset n).natAbs ≤ 256
            ∨ (s.mayStep = true ∧ 64000 < (s.dieOffset n).natAbs))
        ∧ (s.mayStep = true → 64000 < (s.dieOffset n).natAbs → t.dies[n].clock.tc = h.tc ∧ t.dies[n].clock.rho = h.rho)
        ∧ (s.mayStep = false ∨ (s.dieOffset n).natAbs ≤ 64000 →
            t.dies[n].clock.tc = s.dies[n].clock.tc ∧ t.dies[n].cores = s.dies[n].cores
            ∧ t.dies[n].clock.rho = max (-250000) (min 250000 (h.rho + s.dieOffset n * 125 / 8)))
        ∧ ∀ c : CoreIx, (t.dies[n].cores[c]).scratch = (s.dies[n].cores[c]).scratch
            ∧ (t.dies[n].cores[c]).vault.mem = (s.dies[n].cores[c]).vault.mem)
    ∧ (x.talks = true → (x.exAt = 0 ∨ x.exAt + 15625000 ≤ s.now) → h.upstream.toNat ≠ p.val →
        ∃ t, exec (.timeExchangeStart p) s = .next t ∧ t.dies = s.dies ∧ (∀ q : PortIx, q ≠ p → t.ports[q] = s.ports[q])
          ∧ t.hub = { s.hub with time := { h with exNum := h.exNum + 1 } }
          ∧ t.ports[p] = { x with
              exAt := s.now,
              ex := some { tex := h.exNum, t1 := none, t2 := none, t3 := none, bad := false },
              link := { x.link with outq := x.link.outq ++ [mgmtFlit 5 0 (timeBody 1 false h.exNum 0 h.hops)] } })
    ∧ (x.ex = some e →
        s.timeLeaves p (mgmtFlit 5 0 (timeBody 1 false e.tex 0 hops))
            = ({ s with ports := vupd s.ports p (fun y => { y with
                ex := some { e with t1 := some (s.stamp s.frac8) },
                link := { y.link with outq := y.link.outq ++ [mgmtFlit 5 0 (timeBody 2 false e.tex (s.stamp s.frac8) h.hops)] } }) },
               mgmtFlit 5 0 (timeBody 1 false e.tex 0 hops))
        ∧ s.timeLeaves p (mgmtFlit 5 0 (timeBody 3 false e.tex 0 hops))
            = ({ s with ports := vupd s.ports p (fun y => { y with ex := some { e with t3 := some (s.stamp s.frac8) } }) },
               mgmtFlit 5 0 (timeBody 3 false e.tex 0 hops))
        ∧ s.timeLeaves p (mgmtFlit 5 0 (timeBody 2 false e.tex t1 hops)) = (s, mgmtFlit 5 0 (timeBody 2 e.bad e.tex t1 hops)))
    ∧ (x.talks = true →
        ∃ t, exec (.timeSync p e.tex frac) s = .next t ∧ OnlyPort p s t
          ∧ t.ports[p] = { x with ex := some { tex := e.tex, t1 := none, t2 := some (s.stamp frac), t3 := none, bad := x.link.await } })
    ∧ (x.talks = true → x.ex = some e → e.t2 = some t2 →
        ∃ t, exec (.timeFollowUp p e.tex t1 trt frac) s = .next t ∧ OnlyPort p s t
          ∧ t.ports[p] = { x with
              ex := some { e with t1 := some t1, bad := e.bad || trt || x.link.await },
              link := { x.link with outq := x.link.outq ++ [mgmtFlit 5 0 (timeBody 3 false e.tex 0 h.hops)] } })
    ∧ (x.talks = true → x.ex = some e →
        ∃ t, exec (.timeDelayRequest p e.tex frac) s = .next t ∧ OnlyPort p s t
          ∧ t.ports[p] = { x with
              link := { x.link with outq := x.link.outq ++ [mgmtFlit 5 0 (timeBody 4 e.bad e.tex (s.stamp frac) h.hops)] } })
    ∧ (x.ex = some { e with t1 := some t1, t2 := some t2, t3 := some t3 } →
        ∃ t, exec (.timeResponse p e.tex t4 trt hops) s = .next t ∧ t.ports[p] = { x with ex := none }
          ∧ (∀ m : DieIx, t.dies[m] = { s.dies[m] with clock := { s.dies[m].clock with rho := t.dies[m].clock.rho } })
          ∧ (∀ q : PortIx, q ≠ p → t.ports[q] = s.ports[q])
          ∧ (e.bad = true ∨ trt = true ∨ x.link.await = true ∨ h.upstream.toNat ≠ p.val → t.hub = s.hub ∧ t.dies = s.dies)
          ∧ (e.bad = false → trt = false → x.link.await = false → h.upstream.toNat = p.val →
              t.hub.time.offset = offsetEntry o ∧ t.hub.time.lastEx = s.now
              ∧ (64000 < o.natAbs → t.hub.time.align = 1)
              ∧ (o.natAbs ≤ 64000 ∨ s.mayStep = false → t.hub.time.tc = h.tc ∧ t.hub.time.rho.natAbs ≤ 250000)
              ∧ (64000 < o.natAbs → s.mayStep = true → t.hub.time.tc = BitVec.ofInt 64 ((h.tc.toNat : Int) - o / 256))
              ∧ (o.natAbs ≤ 1280 → t.hub.time.good = h.good + 1 ∧ (3 ≤ h.good → t.hub.time.align = 2))
              ∧ (1280 < o.natAbs → t.hub.time.good = 0)))
    ∧ (h.align = 1 ∨ h.align = 2 → h.lastEx + 250000000 ≤ s.now →
        ∃ t, exec .timeHoldover s = .next t ∧ OnlyHub s t ∧ t.hub.time = { h with align := 3 })

/-! ### DRAM service (chapter 09) -/

/-- Derived (R242, R244 to R247, R250): a refresh round starts in its window, outside a frame when its interval is out, and
before a tick on every channel; when an interval runs out inside a frame the hold of a forced round is raised, and four
cycles later the forced round starts on every channel; each start restarts its channel's interval and empties its write-back
queue, and 1.2 µs later the round is over, to the fraction of a count. The round of a window waits for the first of its plan
cycles to execute. The patrol moves on with a round when its scrub is due. A layer goes to double rate when a sensor is above 85 °C and back when all four are at 83 °C
or below; above 95 °C its channels take `dram_hot`; a reading outside its range is kept at the nearest end, with `sens_bad`. A bulk clear that has run 2.2 ms leaves every byte of the die's DRAM
zero and untagged, and its scratchpads as they are. Where the rules leave a point open, the model's choice: log entries 48 and
116, and log entry 57 for the time of a bulk clear, which ends at exactly the 2.2 ms that R250 gives as about that. -/
def Obligations.DramIsServed : Prop :=
  (∀ (s : State) (n : DieIx) (ch : ChanIx) (err : SectorErr) (errs : List (ChanIx × SectorErr)),
      let d := s.dies[n]
      let tc := d.clock.tc.toNat
      let k := d.cores[chanCore ch]
      let x := k.vault.chans[chanIn ch]
      (d.dramOn = true → x.round = none →
        ((d.windowStart (chanCore ch) (chanIn ch) = true → (s.cycleStart n).dies[n].executes = true →
            ∃ t, exec (.refreshWindowRound n ch err) s = .next t ∧ RoundStarts n ch .window s t)
         ∧ (d.frm.frun = false → x.since + (if bit d.dbl ((chanIn ch).val / 4) then 4000 else 8000) ≤ tc →
            ∃ t, exec (.refreshIntervalRound n ch err) s = .next t ∧ RoundStarts n ch .outside s t)))
      ∧ (d.windowStart (chanCore ch) (chanIn ch) = false ∨ (s.cycleStart n).dies[n].executes = false →
          exec (.refreshWindowRound n ch err) s = .next s)
      ∧ (d.dramOn = true → x.round ≠ none → d.windowStart (chanCore ch) (chanIn ch) = true →
          (s.cycleStart n).dies[n].executes = true →
          ∃ t, exec (.refreshWindowRound n ch err) s = .next t ∧ OnlyCore ⟨n, chanCore ch⟩ s t
            ∧ { t.core ⟨n, chanCore ch⟩ with vault := k.vault } = k
            ∧ { (t.core ⟨n, chanCore ch⟩).vault with chans := k.vault.chans } = k.vault
            ∧ ∀ j : Fin 16, (t.core ⟨n, chanCore ch⟩).vault.chans[j]
                = if j = chanIn ch then { x with since := tc } else k.vault.chans[j])
      ∧ (d.dramOn = true → d.frm.frun = false → d.frm.nextTick ≤ tc + 325 → tc < d.frm.nextTick →
          (d.frm.preDone ≠ some d.frm.nextTick →
            ∃ t, exec (.preTickRefresh n errs) s = .next t ∧ t.dies[n].frm.preDone = some d.frm.nextTick
              ∧ ∀ q : ChanIx,
                  let z := (t.dies[n].cores[chanCore q]).vault.chans[chanIn q]
                  z.round = some ⟨.outside, tc, d.clock.tcFrac⟩ ∧ z.since = tc ∧ z.wb = [])
          ∧ (d.frm.preDone = some d.frm.nextTick → exec (.preTickRefresh n errs) s = .next s))
      ∧ (d.dramOn = true → d.frm.frun = true → d.forced = none → x.round = none →
          d.windowStart (chanCore ch) (chanIn ch) = false →
          x.since + (if bit d.dbl ((chanIn ch).val / 4) then 4000 else 8000) ≤ tc →
          ∃ t, exec (.forcedRefresh n ch errs) s = .next t ∧ OnlyDie n s t
            ∧ t.dies[n].forced = some ⟨d.clock.clk + 4, errs⟩
            ∧ t.dies[n].hold.timed = d.hold.timed ++ [⟨9, d.clock.clk + 4, 2 ^ 64⟩]
            ∧ bit ((t.dies[n].cores[chanCore ch]).vault.chans[chanIn ch]).fault
                (if bit d.dbl ((chanIn ch).val / 4) && !((d.plan.map (·.double)).getD false) then 2 else 3) = true
            ∧ ∀ c : CoreIx, (t.dies[n].cores[c]).vault.mem = (d.cores[c]).vault.mem
                ∧ ∀ j : Fin 16,
                    let y := (d.cores[c]).vault.chans[j]
                    let z := (t.dies[n].cores[c]).vault.chans[j]
                    z.round = y.round ∧ z.since = y.since ∧ z.wb = y.wb)
      ∧ (∀ f : Forced, d.forced = some f → d.frm.frun = true →
          (d.clock.clk < f.start → s.forcedBegins n = s)
          ∧ (f.start ≤ d.clock.clk → (s.forcedBegins n).dies[n].forced = none
              ∧ ∀ q : ChanIx,
                  let z := ((s.forcedBegins n).dies[n].cores[chanCore q]).vault.chans[chanIn q]
                  z.round = some ⟨.forced, tc, d.clock.tcFrac⟩ ∧ z.since = tc ∧ z.wb = []))
      ∧ (∀ r, x.round = some r → tc < r.start + 300 ∨ (tc = r.start + 300 ∧ d.clock.tcFrac < r.frac) →
          exec (.refreshRoundEnd n ch) s = .next s)
      ∧ (∀ r, s.runs n = true → x.round = some r → r.start + 300 < tc ∨ (tc = r.start + 300 ∧ r.frac ≤ d.clock.tcFrac) →
          ∃ t, exec (.refreshRoundEnd n ch) s = .next t ∧ OnlyDie n s t
            ∧ (t.core ⟨n, chanCore ch⟩).vault.mem = k.vault.mem
            ∧ (∀ j : Fin 16, (t.core ⟨n, chanCore ch⟩).vault.chans[j]
                = if j = chanIn ch then { x with round := none } else k.vault.chans[j])
            ∧ { t.dies[n] with cores := d.cores, hold := d.hold } = d))
  ∧ (∀ (s : State) (n : DieIx) (l : Fin 4) (x0 x1 x2 x3 : Int),
      let d := s.dies[n]
      let xs := [x0, x1, x2, x3]
      (s.hub.board.rstLow = false → d.pow.vcoreOn = true →
        ∃ t, exec (.dramRateCompare n l x0 x1 x2 x3) s = .next t
        ∧ t.ports = s.ports ∧ (∀ m : DieIx, m ≠ n → t.dies[m] = s.dies[m])
        ∧ ((∀ x ∈ xs, -320 ≤ x ∧ x ≤ 1200) → t.hub = s.hub)
        ∧ ((∃ x ∈ xs, x < -320 ∨ 1200 < x) → bit t.hub.fault sensBad.bit = true)
        ∧ (∀ m : Fin 4, m ≠ l → bit t.dies[n].dbl m.val = bit d.dbl m.val)
        ∧ ((∃ x ∈ xs, 680 < x) → bit t.dies[n].dbl l.val = true)
        ∧ ((∀ x ∈ xs, x ≤ 664) → bit t.dies[n].dbl l.val = false)
        ∧ ((∀ x ∈ xs, x ≤ 680) → (∃ x ∈ xs, 664 < x) → bit t.dies[n].dbl l.val = bit d.dbl l.val)
        ∧ ((∀ x ∈ xs, x ≤ 760) → { t.dies[n] with dbl := d.dbl, temps := d.temps } = d)
        ∧ ((∃ x ∈ xs, 760 < x) → ∀ (c : CoreIx) (j : Fin 16), j.val / 4 = l.val →
            bit ((t.dies[n].cores[c]).vault.chans[j]).fault 6 = true)
        ∧ ∀ i : Fin 16, t.dies[n].temps[i]
            = if i.val / 4 = l.val then max (-320) (min 1200 (xs[i.val % 4]?.getD 0)) else d.temps[i])
      ∧ (d.pow.clearing = true → d.pow.clearAt + 550000 ≤ s.now →
          ∃ t, exec (.bulkClearComplete n) s = .next t ∧ OnlyDie n s t ∧ t.dies[n].pow.clearing = false
            ∧ ∀ c : CoreIx, (∀ x : Nat, Cells.get (t.dies[n].cores[c]).vault.mem x = 0)
                ∧ (t.dies[n].cores[c]).vault.tags = [] ∧ (t.dies[n].cores[c]).scratch = (d.cores[c]).scratch
                ∧ ∀ j : Fin 16, ((t.dies[n].cores[c]).vault.chans[j]).patPos = ((d.cores[c]).vault.chans[j]).patPos)
      ∧ (d.pow.clearing = true → s.now < d.pow.clearAt + 550000 → exec (.bulkClearComplete n) s = .next s))


/-! ### Links and the torus (chapters 13 and 14) -/

/-- Derived (R318, R319, R324, R326, R329): an end that is not trained drops a flit. A flit that fails its check word is
counted and asks for a replay; the next flit of the sequence on a package link is accepted, returns its credits and
acknowledgement and enters the router; one out of sequence is dropped whole, credits and acknowledgement with it, and asks
for a replay; a flit whose tag fails is
counted, and with the fourth in one second its port is disabled with `tamper`. Where the rules leave a point open, the
model's choice: log entry 25. -/
def Obligations.FlitsAreChecked : Prop :=
  ∀ (s : State) (e : LinkEnd) (f : Flit) (corr unc : Nat),
    let l := s.link e
    let asks (l' : Link) : Prop :=
      (l.await = false → l'.await = true ∧ l'.reqAt = s.now ∧ l'.ctlq = l.ctlq ++ [retryFlit l.expect])
      ∧ (l.await = true → s.now < l.reqAt + 250 → l'.ctlq = l.ctlq ∧ l'.await = true)
    (l.trained = false → exec (.flitReceive e f corr unc) s = .next s)
    ∧ (l.trained = true → flitCrc f ≠ f.fcrc →
        ∃ t, exec (.flitReceive e f corr unc) s = .next t ∧ t.hub = s.hub ∧ asks (t.link e)
          ∧ (t.link e).expect = l.expect ∧ (t.link e).replay = l.replay
          ∧ (∀ m : DieIx, t.dies[m].router = s.dies[m].router ∧ t.dies[m].cores = s.dies[m].cores)
          ∧ ∀ p, e = .port p → t.ports[p].crcErr = satAdd s.ports[p].crcErr 1
              ∧ t.ports[p].fecCorr = satAdd s.ports[p].fecCorr corr ∧ t.ports[p].fecUnc = satAdd s.ports[p].fecUnc unc)
    ∧ (∀ n a, e = .pkg n a → l.trained = true → l.enc = false → flitCrc f = f.fcrc → f.fk ≠ 0 → f.fk ≠ 4 →
        ∃ t, exec (.flitReceive e f corr unc) s = .next t ∧ OnlyDie n s t ∧ t.dies[n].cores = s.dies[n].cores
          ∧ (f.fseq = l.expect → (t.link e).expect = l.expect + 1 ∧ (t.link e).await = false
              ∧ (∀ i : Fin 5, (t.link e).credits[i] = l.credits[i] + (if i = laneIx f.cvl f.ccl then f.cred.toNat else 0))
              ∧ ((∀ y ∈ l.replay, y.fseq ≠ f.fack) → (t.link e).replay = l.replay ∧ (t.link e).stuck = l.stuck)
              ∧ (∀ xs y ys, l.replay = xs ++ y :: ys → y.fseq = f.fack → (∀ z ∈ xs, z.fseq ≠ f.fack) →
                  (t.link e).replay = ys ∧ (t.link e).stuck = 0)
              ∧ t.dies[n].router = { s.dies[n].router with inq := t.dies[n].router.inq }
              ∧ ∀ i : Fin 7, t.dies[n].router.inq[i] = s.dies[n].router.inq[i] ++ (if i = inputOf e then [f] else []))
          ∧ (f.fseq ≠ l.expect → (t.link e).expect = l.expect ∧ (t.link e).credits = l.credits
              ∧ (t.link e).replay = l.replay ∧ t.dies[n].router = s.dies[n].router ∧ asks (t.link e)))
    ∧ (∀ p, e = .port p → l.trained = true → flitCrc f = f.fcrc → l.openFlit f = none →
        ∃ t, exec (.flitReceive e f corr unc) s = .next t ∧ t.ports[p].tagErr = satAdd s.ports[p].tagErr 1
          ∧ (((s.ports[p].tagFails.filter (fun x => decide (s.now < x + 250000000))).length < 3 →
              (t.link e).st = l.st ∧ asks (t.link e) ∧ t.dies = s.dies)
            ∧ (3 ≤ (s.ports[p].tagFails.filter (fun x => decide (s.now < x + 250000000))).length →
              (t.link e).st = .disabled ∧ bit t.ports[p].fault 2 = true ∧ t.ports[p].nb = .none_)))

/-- Derived (R304, R317, R324, R325, R329, R343): a retry request for a flit in the replay buffer, and an unacknowledged flit
of 10 µs, start a replay; a call for one more after sixteen without advance, a loss of marker lock and 2^32 flits under one
key take the end Down with its queues empty and its retry 250 ms on; a port then has no neighbour, its fault bits are set and the topology
generation rises, and where it was that of the upstream neighbour the module chooses another one, or has none and no way to the
root. An end that is not trained stays. Where the rules leave a point open, the model's choice: log entries 52 and 53. -/
def Obligations.LinkEndsReplayAndFail : Prop :=
  ∀ (s : State) (e : LinkEnd) (fseq : BitVec 12) (quiet : Bool),
    let l := s.link e
    let down (b : Option Nat) (t : State) : Prop :=
      t.link e = { Link.init with st := .down, retryAt := s.now + 62500000 }
      ∧ ∀ p, e = .port p → t.ports[p].nb = .none_ ∧ bit t.ports[p].fault 0 = true
          ∧ (∀ x, b = some x → bit t.ports[p].fault x = true) ∧ t.hub.dict.topoGen = s.hub.dict.topoGen + 1
    let replays (q : List Flit) (t : State) : Prop :=
      t.hub = s.hub ∧ (t.link e).resend = q ∧ (t.link e).replay = l.replay ∧ (t.link e).stuck = l.stuck + 1
      ∧ (∀ m : DieIx, t.dies[m].router = s.dies[m].router ∧ t.dies[m].cores = s.dies[m].cores)
      ∧ ∀ p, e = .port p → t.ports[p].rplCnt = satAdd s.ports[p].rplCnt 1
    (l.trained = true → (∃ f ∈ l.replay, f.fseq = fseq) →
      ∃ t, exec (.retryRequest e fseq) s = .next t
        ∧ (l.stuck < 16 → replays (l.replay.dropWhile (fun f => f.fseq ≠ fseq)) t)
        ∧ (16 ≤ l.stuck → down (some 4) t))
    ∧ (l.trained = true → l.replay ≠ [] → l.times.headD 0 + 2500 ≤ s.now →
        ∃ t, exec (.replayTimeout e) s = .next t ∧ (l.stuck < 16 → replays l.replay t) ∧ (16 ≤ l.stuck → down (some 4) t))
    ∧ (l.trained = true → ∃ t, exec (.linkDown e quiet) s = .next t ∧ down none t
        ∧ ∀ p, e = .port p → s.hub.fw.running = true → s.hub.time.root = false → s.hub.time.upstream.toNat = p.val →
            t.hub.time.upstream.toNat ≠ p.val
            ∧ ((∀ q : PortIx, q ≠ p → s.ports[q].nb = .none_) → t.hub.time.upstream = 0xFF ∧ t.hub.time.hops = 0xFF))
    ∧ (∀ p, e = .port p → l.trained = true → l.enc = true → 2 ^ 32 ≤ l.txCtr →
        ∃ t, exec (.linkKeyExpiry p) s = .next t ∧ down (some 1) t)
    ∧ (l.trained = false → exec (.linkDown e quiet) s = .next s ∧ exec (.retryRequest e fseq) s = .next s
        ∧ exec (.replayTimeout e) s = .next s)

/-- Derived (R317, R326, R328, R329, R348, R401, R415, R442): from step 6 of bring-up an end that is Down, in use and not held
begins an attempt of 100 ms when its retry is due, and a port sends its identity key, its endorsement and a fresh signed key
for the agreement; a package end whose lanes lock is Up with full credits; a port comes up encrypted under new keys where the
far end passes its checks, in Low-rate where it was so commanded or the module sleeps, and else goes Down with `nb_mis`; in a
module whose identity failed it goes Down; a failed lock is Down until 250 ms after the attempt began; at 2^31 flits in either
direction a new key of changed parity takes over, and its flit counter is 0 (log entry 25: that the count returns to 0 with a
new key is the model's reading). -/
def Obligations.LinkEndsTrain : Prop :=
  ∀ (s : State) (e : LinkEnd) (p : PortIx) (h : PeerHello),
    let l := s.link e
    let x := s.ports[p]
    let failed (l' : Link) : Prop :=
      l' = { l with st := .down, retryAt := max s.now (l.trainAt + 62500000), failed := l.failed + 1 }
    (l.st = .down → l.retryAt ≤ s.now → 6 ≤ s.hub.bring.step.toNat → s.endHeld e = false → s.endUsed e = true →
        (∀ q, e = .port q → s.hub.sec.puffed = false) →
      ∃ t, exec (.trainingRetry e) s = .next t ∧ t.hub = s.hub
        ∧ t.link e = { l with st := .training, retryAt := s.now + 25000000, trainAt := s.now }
        ∧ (∀ q, e = .port q → OnlyPort q { s with draws := t.draws } t ∧ t.ports[q].trnCnt = satAdd s.ports[q].trnCnt 1
            ∧ (s.hub.dict.hostPort.toNat ≠ q.val →
                let ek := slice (Config.kemPublic t.ports[q].kemSeed) 0 1184
                t.ports[q].kemSeed = slice (Config.freshBytes s.hubKey 64) 0 64
                ∧ t.ports[q].hello = slice s.hub.sec.idKey 0 1312 ++ slice s.hub.sec.cert 0 3756 ++ ek
                    ++ s.hub.sec.sign "YZB8 link" ek))
        ∧ (∀ n a, e = .pkg n a → OnlyDie n s t ∧ { t.dies[n] with pkg := s.dies[n].pkg } = s.dies[n]))
    ∧ (l.st = .training → h.lanesLocked = false →
        ∃ t, exec (.trainingComplete e h) s = .next t
          ∧ ∃ l', failed l' ∧ { t with hub := s.hub } = s.modLink e (fun _ => l') ∧ t.hub.dict = s.hub.dict)
    ∧ (∀ n a, e = .pkg n a → l.st = .training → h.lanesLocked = true →
        ∃ t, exec (.trainingComplete e h) s = .next t
          ∧ t = s.modLink e (fun _ => { Link.init with st := .up, credits := #v[64, 64, 16, 8, 32] }))
    ∧ (x.link.st = .training → h.lanesLocked = true → s.hub.sec.puffed = true →
        ∃ t, exec (.trainingComplete (.port p) h) s = .next t ∧ t.dies = s.dies ∧ t.ports[p].link.st = .down)
    ∧ (x.link.st = .training → h.lanesLocked = true → s.hub.sec.puffed = false →
        ∃ t, exec (.trainingComplete (.port p) h) s = .next t ∧ (∀ m : DieIx, t.dies[m].cores = s.dies[m].cores)
          ∧ (∀ q : PortIx, q ≠ p → t.ports[q] = s.ports[q])
          ∧ (s.hub.dict.hostPort.toNat = p.val → t.ports[p].link.st = .host ∧ t.ports[p].link.enc = false
              ∧ t.ports[p].link.credits = #v[0, 0, 0, 16, 64])
          ∧ (s.hub.dict.hostPort.toNat ≠ p.val → s.peerOk p h = true →
              t.dies = s.dies ∧ t.ports[p].link.st = (if x.cmd = 2 || s.sleeps then .lowRate else .up) ∧ t.ports[p].link.enc = true
              ∧ t.ports[p].link.txCtr = 0 ∧ t.ports[p].link.expect = 0 ∧ t.ports[p].link.nextSeq = 0
              ∧ t.ports[p].link.credits = (if x.cmd = 2 || s.sleeps then #v[0, 0, 0, 16, 0] else #v[192, 192, 32, 16, 64])
              ∧ t.ports[p].nb = .none_ ∧ t.ports[p].peerId = Config.sha3 h.identKey)
          ∧ (s.hub.dict.hostPort.toNat ≠ p.val → s.peerOk p h = false →
              t.ports[p].link.st = .down ∧ bit t.ports[p].fault 3 = true
              ∧ t.ports[p].link.retryAt = max s.now (x.link.trainAt + 62500000)))
    ∧ (x.link.enc = true → x.link.trained = true → 2 ^ 31 ≤ x.link.txCtr ∨ 2 ^ 31 ≤ x.link.rxCtr →
        ∃ t, exec (.linkKeyRenewal p h) s = .next t
          ∧ (s.peerOk p h = true → OnlyPort p { s with draws := t.draws } t ∧ t.ports[p].keyCnt = x.keyCnt + 1
              ∧ t.ports[p].link.txCtr = 0 ∧ t.ports[p].link.kep = !x.link.kep ∧ t.ports[p].link.rxKey = x.link.rxKey
              ∧ t.ports[p].link.st = x.link.st)
          ∧ (s.peerOk p h = false → t.ports[p].link.st = .down ∧ bit t.ports[p].fault 3 = true))

/-- Derived (R343 to R346, R349): an announcement is due every 100 ms on a port that talks, counted and with the module's
own coordinates and state; a received one takes the neighbour to Admitted, Verified or Seen, the last with `nb_mis`; 300
ms without one lose the neighbour, and the link trains anew, or goes Down in a module whose identity failed; a bridge keeps the
last 256 fault reports. Where the rules leave a point open, the model's choice: log entries 28, 52 and 125, and log entry 85 for
Admitted, which needs the own bring-up to be at step 9 or beyond. -/
def Obligations.NeighboursAreHeard : Prop :=
  ∀ (s : State) (p : PortIx) (body : Bytes) (base gen : U32) (port st nb cause : BitVec 8),
    let x := s.ports[p]
    let a := slice body 0 224
    let new : NbState := if s.verified p a then
        (if annFlags a / 2 % 2 = 1 && decide (9 ≤ s.hub.bring.step.toNat) && s.portUsed p then .admitted else .verified)
      else .seen
    (x.talks = true → s.hub.fw.running = true → (x.annCnt = 0 ∨ x.annSentAt + 25000000 ≤ s.now) →
      ∃ t b, exec (.announcementSend p) s = .next t ∧ OnlyPort p s t
        ∧ t.ports[p] = { x with
            annCnt := x.annCnt + 1, annSentAt := s.now, link := { x.link with outq := x.link.outq ++ [mgmtFlit 6 0 b] } }
        ∧ leAt b 0 4 = (x.annCnt + 1).toNat ∧ leAt b 20 4 = s.hub.dict.base.toNat ∧ leAt b 24 4 = s.hub.dict.size.toNat
        ∧ leAt b 28 1 = p.val ∧ leAt b 29 1 = s.hub.power.state.toNat ∧ leAt b 30 1 = s.hub.time.hops.toNat)
    ∧ (x.talks = true →
        ∃ t, exec (.announcementReceive p body) s = .next t ∧ (new ≠ .seen → t.dies = s.dies)
          ∧ (∀ m : DieIx, t.dies[m].cores = s.dies[m].cores) ∧ t.ports[p].nb = new
          ∧ t.ports[p].lastAnn = a ∧ t.ports[p].annAt = some s.now ∧ t.ports[p].link = x.link
          ∧ (∀ q : PortIx, q ≠ p → t.ports[q] = s.ports[q])
          ∧ (new = .seen → bit t.ports[p].fault 3 = true) ∧ (new ≠ .seen → t.ports[p].fault = x.fault)
          ∧ t.hub.dict.topoGen = (if new = x.nb then s.hub.dict.topoGen else s.hub.dict.topoGen + 1))
    ∧ (x.talks = false → exec (.announcementReceive p body) s = .next s)
    ∧ (∀ at_, x.talks = true → x.nb ≠ .none_ → x.annAt = some at_ → at_ + 75000000 ≤ s.now → s.hub.sec.puffed = true →
        ∃ t, exec (.neighbourLost p) s = .next t ∧ t.ports[p].nb = .none_ ∧ t.ports[p].link.st = .down)
    ∧ (∀ at_, x.talks = true → x.nb ≠ .none_ → x.annAt = some at_ → at_ + 75000000 ≤ s.now → s.hub.sec.puffed = false →
        ∃ t, exec (.neighbourLost p) s = .next t ∧ t.ports[p].nb = .none_ ∧ t.ports[p].annAt = none
          ∧ t.ports[p].link = { Link.init with st := .training, retryAt := s.now + 25000000, trainAt := s.now }
          ∧ bit t.ports[p].fault 5 = true ∧ t.hub.dict.topoGen = s.hub.dict.topoGen + 1
          ∧ ∀ (m : DieIx) (c : CoreIx), (t.dies[m].cores[c]).ctl = (s.dies[m].cores[c]).ctl
              ∧ (t.dies[m].cores[c]).scratch = (s.dies[m].cores[c]).scratch)
    ∧ (s.hub.board.rstLow = false → s.hub.dict.hostPort.toNat < 24 →
        ∃ t, exec (.faultReportArrival base port ⟨st, cause⟩ nb gen) s = .next t ∧ OnlyHub s t
          ∧ { t.hub with dict := { t.hub.dict with groupLog := s.hub.dict.groupLog } } = s.hub
          ∧ t.hub.dict.groupLog.getLast? = some (reportBytes base port.toNat st.toNat nb.toNat cause.toNat gen)
          ∧ t.hub.dict.groupLog.length ≤ 256)
    ∧ (24 ≤ s.hub.dict.hostPort.toNat → exec (.faultReportArrival base port ⟨st, cause⟩ nb gen) s = .next s)

/-- Derived (R200, R323, R326, R333, R338, R339, R340, R342): a router moves the head flit of a lone input to the output its
image names, one hop further; without a route, or after 64 hops, it discards it with the fault bit; a sync flit for the own
die waits for delivery; delivery frees the buffer place, turns an increment record into an increment of its counter, gives a
message of the plan's job to its core where the inbound buffer has room, and answers another job's with `job_mis`; an armed
swap takes place at its tick, or says that its image is not ready. Where the rules leave a point open, the model's choice: log
entries 26 and 38, and log entry 78 for the tick value after a swap, which the period in force or the new one gives by whether
the hub die has met the tick. -/
def Obligations.RoutersForward : Prop :=
  ∀ (s : State) (n : DieIx) (i : Fin 7) (f : Flit) (rest : List (Fin 7 × List Flit)),
    let d := s.dies[n]
    let r := d.router
    let others (t : State) : Prop := t.hub = s.hub ∧ ∀ m : DieIx, m ≠ n → t.dies[m] = s.dies[m]
    let freed (t : State) : Prop :=
      i.val < 6 → (t.link (endOf n i)).owed[laneIx f.vl f.dl] = (s.link (endOf n i)).owed[laneIx f.vl f.dl] + 1
    s.runs n = true →
    (r.inq[i] = [f] → f.fk = 1 → f.hops.toNat < 64 →
      (∀ (out : Fin 7) (dl : Bool), r.chooseOut i f.dst = some (out, dl) → out.val < 6 → s.routes (endOf n out) = true →
        r.locked i out (f.vl = 3) = false → (s.link (endOf n out)).outq.length < 512 →
        ∃ t, exec (.routerForward n i) s = .next t ∧ t.dies[n].cores = d.cores
          ∧ (t.link (endOf n out)).outq = (s.link (endOf n out)).outq
              ++ [{ f with hops := f.hops + 1, dl := leaveClass f i out dl }]
          ∧ ∀ j : Fin 7, t.dies[n].router.inq[j] = if j = i then [] else r.inq[j])
      ∧ (i.val < 6 → r.chooseOut i f.dst = none →
        ∃ t, exec (.routerForward n i) s = .next t ∧ t.dies[n].router.inq[i] = [] ∧ bit t.dies[n].router.fault 0 = true
          ∧ ∀ c : CoreIx, (t.dies[n].cores[c]).scratch = (d.cores[c]).scratch))
    ∧ (r.inq[i] = [f] → f.fk = 1 → 64 ≤ f.hops.toNat → i.val < 6 →
        ∃ t, exec (.routerForward n i) s = .next t ∧ t.dies[n].router.inq[i] = [] ∧ bit t.dies[n].router.fault 1 = true)
    ∧ (∀ dl, r.inq[i] = [f] → f.fk = 3 → f.hops.toNat < 64 → r.chooseOut i f.dst = some (6, dl) →
        ∃ t, exec (.routerForward n i) s = .next t ∧ t.dies[n].router.local_ = r.local_ ++ [(i, [f])]
          ∧ t.dies[n].router.inq[i] = [] ∧ t.dies[n].cores = d.cores)
    ∧ (∀ x : Rec, r.local_ = (i, [f]) :: rest → f.fk = 3 → f.ng = 1 → recOf (slice f.body 0 16) = x → x.ik = 0 → r.pthru = false →
        ∃ t, exec (.packetDeliver n) s = .next t ∧ others t ∧ freed t
          ∧ { t.dies[n] with cores := d.cores, router := r, pkg := d.pkg } = d ∧ t.dies[n].router = { r with local_ := rest }
          ∧ (∀ c : CoreIx, (t.dies[n].cores[c]).sync.incs = d.cores[c].sync.incs ++ (if c = desCore x.idst.toNat then
              [{ due := d.clock.clk, sc := fin64 x.isc, onC := false, amt := x.iamt.toNat + 1, rem := true,
                 src := r.virtOf x.isrc.toNat, job := x.ijob, ans := none }] else [])))
    ∧ (∀ m : MsgIn, r.local_ = (i, [f]) :: rest → f.fk = 1 → f.vl = 0 → bits (leAt f.body 0 16) 1 0 = 1 →
        (d.accepts f.job = 0 → d.openMessage [f] f (packetBytes [f]) = some m →
          (d.cores[desCore f.dst.toNat]).buffered + ((packetBytes [f]).length - 32) ≤ 16384 →
          ∃ t, exec (.packetDeliver n) s = .next t ∧ others t ∧ freed t ∧ t.dies[n].router.local_ = rest
            ∧ (∀ c : CoreIx, (t.dies[n].cores[c]).rings.arrive
                = d.cores[c].rings.arrive ++ (if c = desCore f.dst.toNat then [.link m 0] else []))
            ∧ ∀ c : CoreIx, (t.dies[n].cores[c]).scratch = (d.cores[c]).scratch)
        ∧ (d.accepts f.job = 0 → 16384 < (d.cores[desCore f.dst.toNat]).buffered + ((packetBytes [f]).length - 32) →
          32 < (packetBytes [f]).length → rest = [] → exec (.packetDeliver n) s = .next s)
        ∧ (d.accepts f.job = 2 →
          ∃ t, exec (.packetDeliver n) s = .next t ∧ t.dies[n].router.local_ = rest ∧ bit t.dies[n].router.fault 3 = true
            ∧ ∀ c : CoreIx, (t.dies[n].cores[c]).rings.arrive = d.cores[c].rings.arrive))
    ∧ (d.clock.tc.toNat < r.nextSwap → exec (.routeSwap n) s = .next s)
    ∧ (r.nextSwap ≤ d.clock.tc.toNat →
        let next := tickAfter r.nextSwap
          (if r.nextSwap < s.hub.time.nextTick then s.hub.time.inForce.toNat else s.hub.time.period.toNat)
        ∃ t, exec (.routeSwap n) s = .next t ∧ OnlyDie n s t ∧ t.dies[n].cores = d.cores
          ∧ (r.arm = false ∨ r.nextSwap < 62500 * r.frame.toNat → t.dies[n].router = { r with nextSwap := next })
          ∧ (r.arm = true → 62500 * r.frame.toNat ≤ r.nextSwap →
              (r.notReady = false → t.dies[n].router = { r with act := !r.act, arm := false, nextSwap := next })
              ∧ (r.notReady = true → t.dies[n].router.act = r.act ∧ t.dies[n].router.arm = true
                  ∧ bit t.dies[n].router.fault 4 = true)))

/-- Derived (R283, R288, R289, R348, R349): at a bridge, a packet of an open host session enters the router of the
bridge's die and awaits its answer, and one of no session is answered to the host; a packet to the host goes out as soon as
a credit is free, and one that finds no credit for 50 µs, that the adapter has answered, or that was on its way to the adapter
when the port went Down, is gone. Where the rules leave a point open, the model's choice: log entries 45 and 123. -/
def Obligations.TheBridgeCarriesHostPackets : Prop :=
  ∀ (s : State) (p : PortIx) (pk : HostPacket) (job : BitVec 8) (x : ToHost) (room quiet : Bool),
    s.hub.dict.hostPort.toNat = p.val → s.ports[p].link.st = .host →
    (s.hub.dict.hostSes.find? (fun y => y.1 = pk.session) = some (pk.session, job) →
      ∃ t fs, exec (.hostPacket pk) s = .next t ∧ t.ports = s.ports ∧ OnlyDie (portDie p) { s with hub := t.hub } t
        ∧ t.hub = { s.hub with dict := { s.hub.dict with
            hostOuts := s.hub.dict.hostOuts ++ [⟨pk.session, pk.dst, pk.q, pk.seq, pk.tag⟩] } }
        ∧ t.dies[portDie p].cores = s.dies[portDie p].cores
        ∧ t.dies[portDie p].router.inq[inputOf (.port p)] = s.dies[portDie p].router.inq[inputOf (.port p)] ++ fs
        ∧ fs ≠ [] ∧ ∀ f ∈ fs, f.vl = 3 ∧ f.dst = pk.dst ∧ f.job = job)
    ∧ ((∀ y ∈ s.hub.dict.hostSes, y.1 ≠ pk.session) →
        ∃ t, exec (.hostPacket pk) s = .next t ∧ OnlyPort p s t
          ∧ t.ports[p].link.outq = s.ports[p].link.outq
              ++ [mkFlit 3 3 1 true 0 0 (hostNotice 7 ⟨pk.session, pk.dst, pk.q, pk.seq, pk.tag⟩) 0])
    ∧ (s.hub.dict.toHost = [x] → x.sent = false →
        (s.ports[p].link.outq.filter (fun f => f.vl = 3)).length < s.ports[p].link.credits[(4 : Fin 5)] →
        ∃ t, exec .hostCreditTimeout s = .next t ∧ t.hub.dict.toHost = [{ x with sent := true }] ∧ t.dies = s.dies
          ∧ t.ports[p].link.outq = s.ports[p].link.outq ++ x.flits)
    ∧ (s.hub.dict.toHost = [x] → x.sent = false → x.since + 12500 ≤ s.now →
        s.ports[p].link.credits[(4 : Fin 5)] ≤ (s.ports[p].link.outq.filter (fun f => f.vl = 3)).length →
        ∃ t, exec .hostCreditTimeout s = .next t ∧ t.hub.dict.toHost = []
          ∧ ∀ (m : DieIx) (c : CoreIx), (t.dies[m].cores[c]).scratch = (s.dies[m].cores[c]).scratch)
    ∧ (s.hub.dict.toHost = [x] → x.sent = true →
        (∃ t, exec (.hostAdapterAck room) s = .next t ∧ t.hub.dict.toHost = []
          ∧ ∀ (m : DieIx) (c : CoreIx), (t.dies[m].cores[c]).scratch = (s.dies[m].cores[c]).scratch)
        ∧ ∃ t, exec (.linkDown (.port p) quiet) s = .next t ∧ t.hub.dict.toHost = [] ∧ t.ports[p].link.st = .down)

/-! ### Power and bring-up (chapters 15, 19 and 20) -/

/-- Derived (R357, R359, R362 to R364, R368, R397): a healthy answer of a regulator is kept and changes nothing else; the third
poll of the PMBus, or read of the AVSBus, in a row that a die's enabled rail fails to answer fences the die, and a faulty answer
of another enabled rail is recorded, once for each time it is enabled, and sets the module on its way to Off, which begins with
the record's commit; a sensor keeps its value within its range, flagged where it lay outside; THERMTRIP_N goes low at the
trip point; the running firmware asks the coolant node, whose answer is flagged above 40 °C until 38 °C, and when none has come
for 5 s that is flagged. Where the rules leave a point open, the model's choice: log entries 29, 126 and 129. -/
def Obligations.SensorsAndRegulators : Prop :=
  ∀ (s : State) (n : DieIx) (k : RailIx) (r : RailReading) (x : SensorId) (v : Int) (c : U32),
    let p := s.hub.power
    let kept (k : RailIx) (avs : Bool) (t : State) : Prop :=
      OnlyHub s t ∧ { t.hub with power := p } = s.hub
      ∧ t.hub.power.rails[k] = { p.rails[k] with
          mv := r.mv, ma := r.ma, temp8 := r.temp8, status := r.status, ocWarn := r.ocWarn, read := true,
          high := decide (p.rails[k].target < 10 * r.mv), missed := if avs then p.rails[k].missed else 0,
          missedA := if avs then 0 else p.rails[k].missedA }
      ∧ ∀ j : RailIx, j ≠ k → t.hub.power.rails[j] = p.rails[j]
    s.hub.board.rstLow = false →
    (r.status = 0 → ∃ t, exec (.avsbusRead n (some r)) s = .next t ∧ kept (vcoreRail n) true t
      ∧ t.hub.power.avs[n] = (r.mv * r.ma :: p.avs[n]).take 10)
    ∧ (∀ (i : Instr) (missed : Nat), (i, missed) ∈ [(Instr.avsbusRead n none, p.rails[vcoreRail n].missedA),
          (.pmbusPoll (vcoreRail n) none, p.rails[vcoreRail n].missed)] →
        p.rails[vcoreRail n].enabled = true → 2 ≤ missed → s.dies[n].pow.fenced = false → s.hub.bring.step ≠ 4 →
        ∃ t, exec i s = .next t ∧ t.dies[n].pow.fenced = true ∧ t.dies[n].pow.vcoreOn = false
          ∧ t.dies[n].plan = none ∧ bit t.hub.fault 0 = true ∧ bit t.hub.fault 3 = true)
    ∧ (r.status &&& 0x3E = 0 → ∃ t, exec (.pmbusPoll k (some r)) s = .next t ∧ kept k false t ∧ t.hub.power.avs = p.avs)
    ∧ (8 ≤ k.val → p.rails[k].enabled = true → r.status &&& 0x3E ≠ 0 → s.hub.bring.step ≠ 4 → s.goingOff = false →
        ∃ t, exec (.pmbusPoll k (some r)) s = .next t ∧ OnlyHub s t ∧ bit t.hub.fault 0 = true ∧ t.hub.power.request = 0
          ∧ (p.rails[k].failed = false → s.hub.rec_.queue.length < t.hub.rec_.queue.length) ∧ t.hub.bring.attested = false
          ∧ t.hub.power.rails[k].failed = true ∧ ∃ y, t.hub.power.trans = some y ∧ y.target = 0 ∧ y.begun = false ∧ y.steps.head? = some .commit)
    ∧ (let lo := (sensorRange x).1
       let hi := (sensorRange x).2
       let w := max lo (min hi v)
       ∃ t, exec (.sensorRead x v) s = .next t ∧ (∀ m : DieIx, t.dies[m].cores = s.dies[m].cores)
        ∧ (∀ m i, x = .logic m i → t.dies[m].logic[i] = w ∧ lo = -320 ∧ hi = 1200)
        ∧ (∀ (m : DieIx) (l i : Fin 4), x = .dram m l i → t.dies[m].temps.toList[4 * l.val + i.val]? = some w)
        ∧ (∀ i, x = .hub i → t.hub.sens.hub[i] = w) ∧ (∀ i, x = .standby i → t.hub.sens.standby[i] = w)
        ∧ (lo ≤ v → v ≤ hi → t.hub.fault = s.hub.fault) ∧ (v < lo ∨ hi < v → bit t.hub.fault 4 = true))
    ∧ (s.tripPoint = true → s.hub.sens.thermtripLow = false →
        ∃ t, exec .thermtrip s = .next t ∧ OnlyHub s t ∧ t.hub.sens = { s.hub.sens with thermtripLow := true }
          ∧ bit t.hub.fault 7 = true)
    ∧ (s.tripPoint = false → exec .thermtrip s = .next s)
    ∧ (s.hub.fw.running = true → s.hub.dict.fieldIn = [] → (fp32 c).isNan = false →
        ∃ t, exec (.inletRead (some c)) s = .next t ∧ OnlyHub s t
          ∧ t.hub.dict = { s.hub.dict with fieldOut := [s.hub.dict.coolantAsks] }
          ∧ t.hub.sens = { s.hub.sens with inlet := c, inletAt := s.now, inletStale := false }
          ∧ ((Num.ofInt 40).lt (fp32 c) = true → bit t.hub.fault 5 = true)
          ∧ ((Num.ofInt 38).lt (fp32 c) = false → (Num.ofInt 40).lt (fp32 c) = false → bit t.hub.fault 5 = false))
    ∧ (s.hub.fw.running = true → s.hub.dict.fieldIn = [] →
        exec (.inletRead none) s
          = .next { s with hub := { s.hub with dict := { s.hub.dict with fieldOut := [s.hub.dict.coolantAsks] } } })
    ∧ (s.hub.fw.running = false → ∀ o, exec (.inletRead o) s = .next s)
    ∧ (s.hub.sens.inletStale = false → s.hub.sens.inletAt + 1250000000 ≤ s.now →
        ∃ t, exec .inletStale s = .next t ∧ OnlyHub s t ∧ t.hub.sens = { s.hub.sens with inletStale := true }
          ∧ bit t.hub.fault 6 = true)

/-- Derived (R365 to R367): the cap computation takes P from the rails, moves the duty up by 10 to at most 500 above the
cap and down by 10 below 97 % of it, and sends each die it reaches and that runs a plan its duty and every other die none. With every
die below its fencing limits and no protective duty near 500, thermal protection moves each die's duty up by 20 while a
condition holds and down by 10 otherwise and fences nothing; a DRAM sensor above 98 °C for 10 ms fences its die, also where only
VDRAM is up; a hub sensor at 110 °C is recorded as it begins and takes a module that is not on its way to Off there. Where the
rules leave a point open, the model's choice: log entry 58. -/
def Obligations.PowerAndHeatAreCapped : Prop :=
  ∀ s : State,
    let p := s.hub.power
    let cap := p.capForce.toNat * 1000000
    let duties (t : State) : Prop := ∀ m : DieIx,
      let duty := if s.dies[m].plan.isSome then t.hub.power.dutyOf s.dies[m].clock.thrMax.toNat s.dies[m].ix else 0
      t.dies[m] = if s.dies[m].reached then { s.dies[m] with clock := { s.dies[m].clock with thrNext := BitVec.ofNat 10 duty } }
        else s.dies[m]
    s.hub.board.rstLow = false →
    (∃ t, exec .powerCapCompute s = .next t ∧ t.ports = s.ports ∧ duties t ∧ t.hub.power.powerUw = p.compute
      ∧ t.hub.power.duty = (if cap < p.compute then min 500 (p.duty + 10) else if p.compute * 100 < cap * 97 then p.duty - 10
          else p.duty)
      ∧ (9 ≤ p.shortRun → cap < p.compute → s.allAtTheta = true → bit t.hub.fault 1 = true)
      ∧ (99 ≤ p.overRun → cap * 105 < p.compute * 100 → s.allAtTheta = true → p.prot = false → t.hub.power.prot = true
          ∧ bit t.hub.fault 2 = true)
      ∧ t.hub.power.rails = p.rails ∧ t.hub.dict = s.hub.dict)
    ∧ ((∀ d ∈ s.dies.toList, d.logicMax < 840 ∧ d.dramMax ≤ 784) → (∀ m : DieIx, p.protDuty[m] < 480) →
       (∀ y ∈ s.hub.sens.hub.toList, y < 880) →
        ∃ t, exec .thermalProtect s = .next t ∧ t.ports = s.ports ∧ duties t
          ∧ (∀ m : DieIx,
              let d := s.dies[m]
              let hot : Prop := (if bit p.hotLogic m.val then 776 < d.logicMax else 800 ≤ d.logicMax)
                ∨ (if bit p.hotDram m.val then 744 < d.dramMax else 760 < d.dramMax)
              (d.pow.fenced = true ∨ (d.pow.vcoreOn = false ∧ p.rails[vdram].enabled = false) →
                  t.hub.power.protDuty[m] = p.protDuty[m])
              ∧ (d.pow.fenced = false → d.pow.vcoreOn = false → p.rails[vdram].enabled = true →
                  t.hub.power.protDuty[m] = p.protDuty[m] - 10)
              ∧ (d.pow.fenced = false → d.pow.vcoreOn = true → hot → t.hub.power.protDuty[m] = p.protDuty[m] + 20)
              ∧ (d.pow.fenced = false → d.pow.vcoreOn = true → ¬ hot → t.hub.power.protDuty[m] = p.protDuty[m] - 10)))
    ∧ ((∃ y ∈ s.hub.sens.hub.toList, 880 ≤ y) → p.trans = none → p.state ≠ 0 →
        (∀ d ∈ s.dies.toList, d.pow.vcoreOn = false ∧ d.dramMax ≤ 784) →
        ∃ t, exec .thermalProtect s = .next t ∧ t.hub.power.request = 0 ∧ (∃ y, t.hub.power.trans = some y ∧ y.target = 0)
          ∧ ∀ m : DieIx, t.dies[m].plan = s.dies[m].plan)
    ∧ ((∃ y ∈ s.hub.sens.hub.toList, 880 ≤ y) → p.hubHot = false →
        ∃ t, exec .thermalProtect s = .next t ∧ t.hub.power.hubHot = true ∧ s.hub.rec_.queue.length < t.hub.rec_.queue.length)
    ∧ (∀ (m : DieIx) (since : Nat), s.dies[m].pow.fenced = false → p.goal = .hold →
        s.dies[m].pow.vcoreOn = true ∨ p.rails[vdram].enabled = true →
        784 < s.dies[m].dramMax → p.dramSince[m] = some since → since + 2500000 ≤ s.now →
        ∃ t, exec .thermalProtect s = .next t ∧ t.dies[m].pow.fenced = true)

/-- Derived (R336, R358, R359, R441, R444, R449, R462, R465, R466, R468, R470): a rail is good 1 ms after its enable at the
earliest, and brings up the next, with its target and its limits; a VCORE rail waits for the one before it to have risen; a rail
that has fallen lets the next be disabled, after 50 ms without falling too, when it still counts as above 10 %; a VCORE rail that is not good in 20 ms fences its die, and in step 4 the step runs once more without
it, while any other rail ends the power-up; PWRGD admits the first rail, and its absence for 100 ms ends the power-up; its
fall takes every VCORE rail, with its die's plan, away at once, before the other rails, and the module to Off; so does the loss
of REFCLK, once its record has been committed or at once where the firmware does not run; in reset they only change their level;
the return of REFCLK changes nothing else. Where the rules leave a point open, the model's choice: log entries 59 and 126, and
log entry 101 for the millivolts of a rail that has become good.
-/
def Obligations.RailsComeAndGo : Prop :=
  ∀ (s : State) (k j : RailIx) (rest : List RailIx),
    let p := s.hub.power
    let lost (t : State) : Prop :=
      (∀ m : DieIx, t.hub.power.rails[vcoreRail m].enabled = false)
      ∧ (∀ m : DieIx, p.rails[vcoreRail m].enabled = true → t.dies[m].plan = none ∧ t.dies[m].pow.vcoreOn = false)
      ∧ ((∃ m : DieIx, p.rails[vcoreRail m].enabled = true) → ∀ q : RailIx, 8 ≤ q.val → t.hub.power.rails[q] = p.rails[q])
      ∧ (s.goingOff = false → t.hub.power.request = 0) ∧ ∃ y, t.hub.power.trans = some y ∧ y.target = 0
    (s.hub.board.rstLow = false → p.rails[k].enabled = true → p.rails[k].good = false →
      (s.now < p.rails[k].enabledAt + 250000 → exec (.railGood k) s = .next s)
      ∧ (p.rails[k].enabledAt + 250000 ≤ s.now →
        ∃ t, exec (.railGood k) s = .next t
          ∧ (p.goal = .hold →
              t.hub.power.rails[k] = { p.rails[k] with
                good := true, high := true, mv := if nearTarget p.rails[k].mv p.rails[k].target then p.rails[k].mv else p.rails[k].target }
              ∧ t.hub.power.goal = .hold ∧ { t.hub with power := p } = s.hub
              ∧ ∀ m : DieIx, railDie k = some m → t.dies[m].pow.vcoreOn = true ∧ t.dies[m].pow.vcoreMv = vcoreFloor m
                  ∧ t.dies[m].clock.aligned = false ∧ (s.comesGated = true → t.dies[m].clock.gated = true)
                  ∧ t.dies[m].cores = s.dies[m].cores)
          ∧ (p.goal = .up (k :: j :: rest) → s.hub.board.pwrgd = true → j ≠ k → p.rails[j].good = false →
              p.rails[j].enabled = false → (8 ≤ j.val ∨ s.vcorePaced = true) →
              t.hub.power.rails[k].good = true ∧ t.hub.power.rails[j].enabled = true
              ∧ t.hub.power.rails[j].enabledAt = s.now ∧ t.hub.power.rails[j].target = railTarget j
              ∧ (t.hub.power.rails[j].ovMv, t.hub.power.rails[j].ocAmp) = railLimits j
              ∧ t.hub.power.goal = .up (j :: rest))))
    ∧ (s.hub.board.rstLow = false → p.goal = .up (k :: j :: rest) → k.val < 8 → j.val < 8 → s.hub.board.pwrgd = true →
        p.rails[k].enabled = true → p.rails[k].good = false → p.rails[j].enabled = false →
        (p.rails[k].read = false ∨ 10 * p.rails[k].mv < 9 * p.rails[k].target → s.railNext = s)
        ∧ (p.rails[k].read = true → 9 * p.rails[k].target ≤ 10 * p.rails[k].mv → s.vcorePaced = true →
            s.railNext.hub.power.rails[j].enabled = true))
    ∧ (s.hub.board.rstLow = false → p.rails[k].enabled = true → p.rails[k].good = false →
        p.rails[k].enabledAt + 5000000 ≤ s.now →
        ∃ t, exec (.railTimeout k) s = .next t ∧ bit t.hub.fault 0 = true
          ∧ (s.hub.bring.standbyOnly = false → ∀ m : DieIx, railDie k = some m → t.dies[m].pow.fenced = true)
          ∧ (s.hub.bring.step = 4 → p.trans = none → s.hub.bring.standbyOnly = false → k.val < 8 → p.railTries = 0 →
              t.hub.power.railTries = 1 ∧ t.hub.power.skipRails = k :: p.skipRails)
          ∧ (s.hub.bring.step = 4 → p.trans = none → 8 ≤ k.val → (∀ u v, p.goal ≠ .board u v) →
              t.hub.bring.standbyOnly = true)
          ∧ (s.hub.bring.step ≠ 4 → 8 ≤ k.val → s.goingOff = false → t.hub.power.request = 0
              ∧ ∃ y, t.hub.power.trans = some y ∧ y.target = 0))
    ∧ (p.rails[k].falling = true → p.rails[k].enabled = false →
        (∃ t, exec (.railDischarged k) s = .next t ∧ t.hub.power.rails[k].falling = false ∧ t.hub.power.rails[k].mv = 0
          ∧ t.hub.power.rails[k].high = false
          ∧ (p.goal = .down [k, j] true false → p.rails[j].enabled = true →
              t.hub.power.rails[j].enabled = false ∧ t.hub.power.rails[j].falling = true ∧ t.hub.board = s.hub.board))
        ∧ (s.hub.board.rstLow = false → p.rails[k].offAt + 12500000 ≤ s.now →
            ∃ t, exec (.railDischargeTimeout k) s = .next t ∧ t.hub.power.rails[k].falling = false
              ∧ t.hub.power.rails[k].high = p.rails[k].high
              ∧ s.hub.rec_.queue.length < t.hub.rec_.queue.length))
    ∧ (s.hub.board.rstLow = false → s.hub.board.pwrEn = true → s.hub.board.pwrgd = false → s.hub.bring.step = 4 →
        s.hub.bring.standbyOnly = false → s.hub.bring.stepAt + 25000000 ≤ s.now → p.trans = none →
        (p.goal = .hold ∨ ∃ l, p.goal = .up l) →
        ∃ t, exec .pwrgdTimeout s = .next t ∧ OnlyHub s t ∧ t.hub.board = { s.hub.board with pwrEn := false }
          ∧ t.hub.bring = { s.hub.bring with standbyOnly := true, offSeen := true }
          ∧ t.hub.power = { p with goal := .hold, trans := none, wantOff := false })
    ∧ (s.railsRise = false → exec .pwrgdTimeout s = .next s)
    ∧ (∃ t, exec .pwrgdRise s = .next t ∧ t.ports = s.ports ∧ t.hub.board = { s.hub.board with pwrgd := true }
        ∧ (p.goal = .hold → t.hub.power = p ∧ t.dies = s.dies)
        ∧ (p.goal = .up (k :: rest) → p.rails[k].good = false →
            (p.rails[k].enabled = true ∨ 8 ≤ k.val ∨ s.vcorePaced = true) →
            t.dies = s.dies ∧ t.hub.power.rails[k].enabled = true))
    ∧ (∃ t, exec .pwrgdFall s = .next t ∧ t.hub.board.pwrgd = false
        ∧ (s.hub.board.rstLow = false → (∃ q : RailIx, p.rails[q].enabled = true) → lost t ∧ bit t.hub.fault 0 = true)
        ∧ (s.hub.board.rstLow = true ∨ (∀ q : RailIx, p.rails[q].enabled = false) →
            OnlyHub s t ∧ { t.hub with board := s.hub.board } = s.hub))
    ∧ (s.hub.board.refclk = true →
        ∃ t, exec .refclkLoss s = .next t
          ∧ (s.hub.board.rstLow = false → s.hub.fw.running = false →
              t.hub.board = { s.hub.board with refclk := false, pwrEn := false } ∧ lost t)
          ∧ (s.hub.board.rstLow = false → s.hub.fw.running = true →
              t.hub.board = { s.hub.board with refclk := false } ∧ t.hub.power.request = 0 ∧ t.hub.power.rails = p.rails
              ∧ (∃ ks, t.hub.power.trans = some ⟨0, .commit :: .supplyOff :: ks, false, 0⟩)
              ∧ s.hub.rec_.queue.length < t.hub.rec_.queue.length ∧ (∀ q : PortIx, t.ports[q].link.trained = false)
              ∧ ∀ m : DieIx, t.dies[m].plan = s.dies[m].plan)
          ∧ (s.hub.board.rstLow = true → OnlyHub s t
              ∧ t.hub = { s.hub with board := { s.hub.board with refclk := false } }))
    ∧ (∀ ks since, p.trans = some ⟨0, .supplyOff :: ks, false, since⟩ → p.wantOff = false → ks ≠ [] →
        ∃ t, exec .powerTransition s = .next t ∧ t.hub.board = { s.hub.board with pwrEn := false } ∧ lost t
          ∧ t.hub.power.trans = some ⟨0, ks, false, since⟩)
    ∧ (∃ t, exec .refclkReturn s = .next t ∧ OnlyHub s t
        ∧ t.hub = { s.hub with board := { s.hub.board with refclk := true } })

/-- Derived (R305, R355, R369 to R372, R401, R434, R441, R466, R468, R470): RST_N low for 5 µs puts every die and port at its
reset values and keeps the MRAM, while the board takes VCORE down before the other rails; less than 2 µs does nothing, and
between the two it does the one or the other; its release starts the hub ROM's time and records a REFCLK that is away. Loss of standby power keeps the MRAM
alone, and its return counts a power cycle. The hub ROM rebuilds the identity and checks the tags of the records; it boots the
preferred slot where the records hold and the slot is good, counts the starts of a trial and falls back after three, and stays
in the ROM where neither slot is good; the firmware that starts chooses its way to the time root and drives PWR_EN in step 4, but
not after an Off and not without REFCLK. A Marigold that misses its watchdog, whatever of it runs, restarts, and every die that
ran a plan is fenced. While RST_N is low, or the
VCORE of a die is off, no command that is the work of a core, a router or a controller of that die changes anything, and
while RST_N is low none of Marigold's does. Where the rules leave a point open, the model's choice: log entries 9, 64, 66
and 97. -/
def Obligations.ResetAndStart : Prop :=
  ∀ (s : State) (ns : Nat) (torn : Option (Fin 1024)),
    let h := s.hub
    let seed := slice (Config.pufSeed s.hubKey Config.helperData) 0 32
    let pub := Config.dsaPublic (shakeN 32 (strBytes "YZB8 identity" ++ seed))
    let kmac (b : Bytes) : Bytes := Config.kmac (shakeN 32 (strBytes "YZB8 mram" ++ seed)) b
    let known := kmac (Config.sha3 Config.manufactureKey) = Config.identityTag 0 ∧ kmac Config.helperData = Config.identityTag 1
      ∧ Config.sha3 pub = Config.sha3 Config.manufactureKey
    let keeps (t : State) : Prop :=
      t.hub.fw.slotA = h.fw.slotA ∧ t.hub.fw.slotB = h.fw.slotB ∧ t.hub.fw.floor = h.fw.floor
      ∧ t.hub.sec.tenants = h.sec.tenants ∧ t.hub.sec.unlocks = h.sec.unlocks ∧ t.hub.dict.base = h.dict.base
      ∧ t.hub.dict.size = h.dict.size ∧ t.hub.power.cap = h.power.cap ∧ t.hub.repair = h.repair
    let fresh (t : State) : Prop :=
      (∀ m : DieIx, t.dies[m] = { Die.init m with draws := s.dies[m].draws }) ∧ (∀ p : PortIx, t.ports[p] = Port.init)
      ∧ t.pending = s.pending ∧ t.hub.dict.sessions = [] ∧ t.hub.rec_.slots = [] ∧ t.hub.fw.running = false
      ∧ t.hub.bring.step = 3 ∧ t.hub.power.state = 0 ∧ (∀ m : DieIx, t.hub.power.rails[vcoreRail m].enabled = false)
      ∧ ((∃ m : DieIx, h.power.rails[vcoreRail m].enabled = true) →
          ∀ q : RailIx, 8 ≤ q.val → t.hub.power.rails[q].enabled = h.power.rails[q].enabled)
      ∧ (∀ q qs, (∀ m : DieIx, h.power.rails[vcoreRail m].alive = false) →
          railOrder.reverse.filter (fun q => h.power.rails[q].alive) = q :: qs →
          t.hub.power.rails[q].enabled = false ∧ ∀ j ∈ qs, t.hub.power.rails[j].enabled = h.power.rails[j].enabled)
      ∧ ∀ q : RailIx, t.hub.power.rails[q].high = h.power.rails[q].high
    (h.board.standby = true → h.board.rstLow = false → 5000 ≤ ns →
      ∃ t, exec (.rstNAssert ns) s = .next t ∧ keeps t ∧ fresh t ∧ t.hub.rec_.mirror = h.rec_.mirror
        ∧ t.hub.rec_.seq = h.rec_.seq ∧ t.hub.rec_.optime = h.rec_.optime ∧ t.hub.tap = h.tap
        ∧ t.hub.board = { h.board with rstLow := true, pwrEn := false })
    ∧ (ns < 2000 → exec (.rstNAssert ns) s = .next s)
    ∧ (h.board.standby = true → h.board.rstLow = false → 2000 ≤ ns → ns < 5000 →
        ∃ t, exec (.rstNAssert ns) s = .next t ∧ (t = { s with draws := s.draws + 1 } ∨ (keeps t ∧ fresh t)))
    ∧ (h.board.standby = true → h.board.rstLow = true →
        ∃ t, exec .rstNRelease s = .next t ∧ OnlyHub s t
          ∧ (h.board.refclk = true → t.hub = { h with
              board := { h.board with rstLow := false }, bring := { h.bring with started := s.now },
              time := { h.time with frac := 0 } })
          ∧ (h.board.refclk = false → { t.hub with rec_ := h.rec_ } = { h with
              board := { h.board with rstLow := false }, bring := { h.bring with started := s.now, offSeen := true },
              time := { h.time with frac := 0 } } ∧ h.rec_.queue.length < t.hub.rec_.queue.length))
    ∧ (h.board.standby = true →
        ∃ t, exec (.standbyPowerLoss torn) s = .next t ∧ keeps t ∧ fresh t ∧ t.hub.board.standby = false
          ∧ t.hub.tap = .init ∧ (torn = none → t.hub.rec_.mirror = h.rec_.mirror)
          ∧ t.hub.rec_.mirror.length = h.rec_.mirror.length)
    ∧ (h.board.standby = false →
        ∃ t, exec .standbyPowerApply s = .next t ∧ OnlyHub s t ∧ keeps t ∧ t.hub.rec_.pwr = h.rec_.pwr + 1
          ∧ t.hub.rec_.optime = h.rec_.stored ∧ t.hub.board = { h.board with standby := true, rstLow := true })
    ∧ (h.romDue = true →
        ∃ t, exec .hubRomBoot s = .next t ∧ { t with hub := h, draws := s.draws } = s ∧ t.draws = s.draws + 1 ∧ keeps t
          ∧ t.hub.sec.idKey = pub
          ∧ (¬ known → t.hub.sec.puffed = true ∧ bit t.hub.sec.fault pufFail.bit = true)
          ∧ (known → t.hub.sec.puffed = false)
          ∧ (kmac h.fw.bootBytes ≠ h.fw.bootTag ∨ kmac h.fw.floorBytes ≠ h.fw.floorTag
                ∨ (∃ i, kmac (h.sec.recordBytes i) ≠ h.sec.recordTag i) →
              bit t.hub.sec.fault mramTag.bit = true)
          ∧ (kmac h.fw.floorBytes = h.fw.floorTag →
              (kmac h.fw.bootBytes = h.fw.bootTag →
                (h.fw.trial = false → slotOk (h.fw.slot h.fw.pref) h.fw.floor = true →
                  t.hub.fw.booted = (if h.fw.pref then 1 else 0) ∧ t.hub.bring.romOnly = false ∧ t.hub.fw.fallback = false)
                ∧ (h.fw.trial = true → h.fw.tries < 2 → slotOk (h.fw.slot h.fw.pref) h.fw.floor = true →
                  t.hub.fw.booted = (if h.fw.pref then 1 else 0) ∧ t.hub.fw.tries = h.fw.tries + 1 ∧ t.hub.fw.trial = true)
                ∧ (h.fw.trial = true → 2 ≤ h.fw.tries →
                  t.hub.fw.pref = !h.fw.pref ∧ t.hub.fw.trial = false ∧ t.hub.fw.fallback = true))
              ∧ (kmac h.fw.bootBytes ≠ h.fw.bootTag → slotOk h.fw.slotA h.fw.floor = true → t.hub.fw.booted = 0)
              ∧ (slotOk h.fw.slotA h.fw.floor = false → slotOk h.fw.slotB h.fw.floor = false →
                  t.hub.fw.booted = 0xFF ∧ t.hub.bring.romOnly = true)))
    ∧ (h.fw.booted ≠ 0xFF → h.fw.running = false → h.board.rstLow = false → h.board.standby = true →
        ∃ t, exec .firmwareStart s = .next t ∧ t.hub.fw.running = true ∧ t.hub.dict.plcaInForce = h.dict.plcaNode
          ∧ (∀ m : DieIx, t.dies[m].cores = s.dies[m].cores)
          ∧ (h.bring.step = 3 → h.power.trans = none → h.power.goal = .hold → h.power.wantOff = false → h.sec.puffed = false →
              h.bring.offSeen = false → h.board.refclk = true → t.hub.bring.step = 4 ∧ t.hub.board.pwrEn = true)
          ∧ (h.bring.offSeen = true ∨ h.board.refclk = false ∨ h.sec.puffed = true → t.hub.board = h.board)
          ∧ ((∀ q : PortIx, s.ports[q].nb = .none_) →
              t.hub.time.upstream = 0xFF ∧ t.hub.time.hops = if h.time.root then 0 else 0xFF))
    ∧ (h.board.standby = false ∨ h.board.rstLow = true → exec .marigoldWatchdog s = .next s)
    ∧ (h.board.standby = true → h.board.rstLow = false →
        ∃ t, exec .marigoldWatchdog s = .next t ∧ t.hub.fw.running = false ∧ t.hub.fw.booted = 0xFF
          ∧ t.hub.dict.sessions = [] ∧ ∀ m : DieIx, s.dies[m].plan.isSome = true → t.dies[m].pow.fenced = true)
    ∧ (∀ (i : Instr) (n : DieIx), clockedBy i = some n → (h.board.rstLow = true ∨ s.dies[n].pow.vcoreOn = false) →
        exec i s = .next s)
    ∧ (∀ i : Instr, byHub i = true → h.board.rstLow = true → exec i s = .next s)

/-- Derived (R442 to R444, R448, R248): a die whose DRAM trains begins its bulk clear, and one whose DRAM does not forwards
only; step 6 follows when every die has its result, step 7 when every link end has settled, step 8 when every Up port is
verified or 1 s has passed, and Ready when the conditions of attestation hold and the gate is open, which it is on an exit
from Off; a request for Off that waits is taken in its place. Where the rules leave a point open, the model's choice: log entry
63. -/
def Obligations.BringUpProceeds : Prop :=
  ∀ (s : State) (n : DieIx),
    let h := s.hub
    (s.trainDue n = true →
      (∃ t, exec (.dramTraining n true) s = .next t ∧ t.ports = s.ports ∧ (∀ m : DieIx, m ≠ n → t.dies[m] = s.dies[m])
        ∧ t.dies[n].pow.trained = true ∧ t.dies[n].pow.clearing = true ∧ t.dies[n].pow.clearAt = s.now
        ∧ ∀ (c : CoreIx) (j : Fin 16), ((t.dies[n].cores[c]).vault.chans[j]).round ≠ none)
      ∧ (∃ t, exec (.dramTraining n false) s = .next t ∧ t.ports = s.ports ∧ (∀ m : DieIx, m ≠ n → t.dies[m] = s.dies[m])
        ∧ t.dies[n].pow.result = .dramFailed ∧ t.dies[n].router.pthru = true ∧ t.dies[n].plan = none))
    ∧ (s.trainDue n = false → exec (.dramTraining n true) s = .next s)
    ∧ (s.bringing = true → h.bring.step = 5 → (∀ d ∈ s.dies.toList, d.pow.result ≠ .notUp) →
        ∃ t, exec .bringupLinkStep s = .next t ∧ t.hub.bring.step = 6
          ∧ (∀ m : DieIx, t.dies[m].cores = s.dies[m].cores ∧ t.dies[m].router = s.dies[m].router)
          ∧ (∀ (m : DieIx) (a : Fin 3), s.dies[m].pkg[a].st = .unused → t.dies[m].pkg[a].st = .down)
          ∧ ∀ p : PortIx, s.ports[p].link.st = .unused → t.ports[p].link.st =
              (if s.portUsed p then (if s.ports[p].cmd = 1 then .disabled else .down) else .unused))
    ∧ (s.bringing = true → h.bring.step = 6 → allEnds.all s.endSettled = true →
        ∃ t, exec .bringupLinkStep s = .next t ∧ OnlyHub s t ∧ t.hub.bring.step = 7)
    ∧ (s.bringing = true → h.bring.step = 7 →
        ((∀ x ∈ s.ports.toList, x.link.st ≠ .up ∨ x.nb = .verified ∨ x.nb = .admitted)
          ∨ h.bring.stepAt + 250000000 ≤ s.now) →
        ∃ t, exec .bringupDiscovery s = .next t ∧ OnlyHub s t ∧ t.hub.bring.step = 8 ∧ t.hub.sec.mCfg = h.cfgMeasure)
    ∧ (s.bringing = true → h.bring.step = 8 → s.attestHolds = true → (h.bring.gate = 0 ∨ h.bring.released = true ∨ h.bring.offSeen = true) →
        (h.power.wantOff = true → ∃ t, exec .bringupAttestation s = .next t ∧ t.ports = s.ports ∧ t.dies = s.dies
          ∧ t.hub.bring.step = 9 ∧ t.hub.bring.attested = false ∧ t.hub.power.state = h.power.state ∧ t.goingOff = true)
        ∧ (h.power.wantOff = false →
        ∃ t, exec .bringupAttestation s = .next t ∧ t.ports = s.ports ∧ t.hub.bring.step = 10 ∧ t.hub.bring.attested = true
          ∧ t.hub.power.state = (if h.power.request = 3 then 3 else 4)
          ∧ (∀ m : DieIx, t.dies[m].cores = s.dies[m].cores)
          ∧ (h.power.request = 3 → ∀ m : DieIx, s.dies[m].pow.vcoreOn = true → s.dies[m].reached = true → s.dies[m].frm.frun = false →
              t.dies[m].clock.gated = true)))

/-- Derived (R251, R438, R446, R447, R451): between Run and Idle the clocks of the dies are gated or run again; Doze and Deep begin
with quiescing, which ends with 100 ms of quiet; Off begins with the commit of a fatal record, and quiescing follows; a removal quiesces when every plan and clear has ended, and then
disables its ports on the way to Off. An exit from Doze or Deep begins with the first of its rails; then, from Deep, the DRAM
trains, the counters are aligned, self-refresh ends on the dies that it reaches, links train, ports in Low-rate ask for full rate,
and with every one that asked in it, or past its time, the module announces itself and is in Run or Idle. Where the rules leave
a point open, the model's choice: log entries 61, 77 and 89. -/
def Obligations.PowerStatesChange : Prop :=
  ∀ (s : State) (rest : List TransStep) (t0 : Trans),
    let h := s.hub
    let p := h.power
    (p.trans = none → h.bring.step = 10 → h.dict.statePending = false → h.bring.removal = 0 → p.wantOff = false →
      (p.state = 4 → p.request = 3 → (∀ d ∈ s.dies.toList, d.pow.vcoreOn = true → d.frm.frun = false) →
        ∃ t, exec .powerTransition s = .next t ∧ t.hub.power.state = 3 ∧ t.hub.power.trans = none ∧ t.ports = s.ports
          ∧ ∀ m : DieIx, (s.dies[m].pow.vcoreOn = true → s.dies[m].reached = true → t.dies[m].clock.gated = true) ∧ t.dies[m].cores = s.dies[m].cores)
      ∧ (p.state = 3 → p.request = 4 →
        ∃ t, exec .powerTransition s = .next t ∧ t.hub.power.state = 4 ∧ t.hub.power.trans = none ∧ t.ports = s.ports
          ∧ ∀ m : DieIx, (s.dies[m].pow.vcoreOn = true → s.dies[m].reached = true → t.dies[m].clock.gated = false) ∧ t.dies[m].cores = s.dies[m].cores)
      ∧ (3 ≤ p.state.toNat → p.request = 0 → s.vcoreUp = true →
        ∃ t ks, exec .powerTransition s = .next t ∧ t.hub.power.state = p.state ∧ t.dies = s.dies
          ∧ (s.fatalWaits = true → t.hub.power.trans = some ⟨0, .commit :: .quiesce :: ks, true, s.now⟩)
          ∧ (s.fatalWaits = false → ∃ k, t.hub.power.trans = some ⟨0, .quiesce :: ks, false, k⟩))
      ∧ (3 ≤ p.state.toNat → p.request = 1 ∨ p.request = 2 →
        ∃ t ks, exec .powerTransition s = .next t ∧ t.hub.power.trans = some ⟨p.request, .quiesce :: ks, true, s.now⟩
          ∧ t.hub.power.state = p.state ∧ t.hub.dict.hostSes = [] ∧ t.hub.bring.attested = false ∧ t.dies = s.dies)
      ∧ (p.state = 1 ∨ p.state = 2 → p.request = 3 ∨ p.request = 4 → s.hub.board.pwrgd = true → s.vcorePaced = true →
          (∀ m : DieIx, p.rails[vcoreRail m].enabled = false ∧ p.rails[vcoreRail m].good = false) →
          let gate : List TransStep := if p.request = 3 then [.gate] else []
          let vcore := (List.finRange 8).map vcoreRail
          ∃ t, exec .powerTransition s = .next t ∧ t.hub.power.state = p.state ∧ t.dies = s.dies ∧ t.ports = s.ports
            ∧ (p.state = 2 → ∀ k ks, s.vcoreRails = k :: ks →
                t.hub.power.trans = some ⟨p.request, .railsUp vcore :: (gate ++ [.align, .exitRefresh, .linksUp, .portsUp, .announce]),
                  true, s.now⟩
                ∧ t.hub.power.goal = .up (k :: ks) ∧ t.hub.power.rails[k].enabled = true)
            ∧ (p.state = 1 → p.rails[vdram].enabled = false → p.rails[vdram].good = false → p.rails[vwl].good = false →
                t.hub.power.trans = some ⟨p.request,
                  .railsUp ([vdram, vwl] ++ vcore) :: (gate ++ [.train, .align, .linksUp, .portsUp, .announce]), true, s.now⟩
                ∧ t.hub.power.goal = .up (vdram :: vwl :: s.vcoreRails) ∧ t.hub.power.rails[vdram].enabled = true))
      ∧ (p.request = p.state → exec .powerTransition s = .next s))
    ∧ (∀ (k : TransStep) (begun : Bool), p.trans = some { t0 with steps := k :: rest, begun := begun } → p.wantOff = false →
        let next (t : State) : Prop := t.hub.power.trans = some { t0 with steps := rest, begun := false }
        (k = .train → rest ≠ [] → begun = true →
          ((∀ d ∈ s.dies.toList, d.pow.vcoreOn = true → d.pow.result ≠ .notUp) → ∃ t, exec .powerTransition s = .next t ∧ next t)
          ∧ ((∃ d ∈ s.dies.toList, d.pow.vcoreOn = true ∧ d.pow.result = .notUp) → exec .powerTransition s = .next s))
        ∧ (k = .align → rest ≠ [] → begun = false →
          ∃ t, exec .powerTransition s = .next t ∧ next t ∧ t.ports = s.ports
            ∧ ∀ m : DieIx, s.dies[m].pow.vcoreOn = true → s.dies[m].pow.lane = true → s.mayStep = true →
                64000 < (s.dieOffset m).natAbs → t.dies[m].clock.tc = h.time.tc)
        ∧ (k = .exitRefresh → rest ≠ [] → begun = false →
          ∃ t, exec .powerTransition s = .next t ∧ next t ∧ t.ports = s.ports
            ∧ ∀ m : DieIx, (s.dies[m].pow.selfRef = true → s.dies[m].reached = true → t.dies[m].pow.selfRef = false
                  ∧ ∀ (c : CoreIx) (j : Fin 16), ((t.dies[m].cores[c]).vault.chans[j]).round ≠ none
                    ∧ (t.dies[m].cores[c]).vault.mem = (s.dies[m].cores[c]).vault.mem)
                ∧ (s.dies[m].pow.selfRef = false ∨ s.dies[m].reached = false → t.dies[m] = s.dies[m]))
        ∧ (k = .portsUp → rest ≠ [] →
          (begun = false → (∃ q : PortIx, s.ports[q].link.st = .lowRate ∧ s.ports[q].cmd ≠ 2) →
            ∃ t, exec .powerTransition s = .next t ∧ t.dies = s.dies
              ∧ t.hub.power.trans = some { t0 with steps := k :: rest, begun := true, since := s.now }
              ∧ ∀ q : PortIx, s.ports[q].link.st = .lowRate → s.ports[q].cmd ≠ 2 → s.ports[q].rising = none →
                  t.ports[q].rising = some s.now ∧ t.ports[q].link.outq = s.ports[q].link.outq ++ [moveFlit false])
          ∧ (begun = true → (∀ x ∈ s.ports.toList, x.link.st ≠ .training ∧ x.rising = none) →
            ∃ t, exec .powerTransition s = .next t ∧ next t ∧ t.ports = s.ports ∧ t.dies = s.dies)
          ∧ (begun = true → (∃ x ∈ s.ports.toList, x.link.st = .training ∨ x.rising ≠ none) → exec .powerTransition s = .next s))
        ∧ (k = .announce → rest = [] → begun = false → 3 ≤ t0.target.toNat →
          ∃ t, exec .powerTransition s = .next t ∧ t.hub.power.state = t0.target ∧ t.hub.power.trans = none
            ∧ ∀ q : PortIx, s.ports[q].talks = true → t.ports[q].annCnt = s.ports[q].annCnt + 1))
    ∧ (p.trans = some { t0 with steps := .quiesce :: rest, begun := true } → p.wantOff = false →
        (s.quiet = true → rest ≠ [] →
          ∃ t, exec .quiesceEnd s = .next t ∧ OnlyHub s t ∧ t.hub.power = { p with trans := some { t0 with steps := rest, begun := false } })
        ∧ (s.quiet = false → s.quiesceLate = false → exec .quiesceEnd s = .next s))
    ∧ (p.trans = none → h.bring.removal = 2 → s.quiet = true →
        ∃ t, exec .quiesceEnd s = .next t ∧ OnlyHub s t ∧ t.hub.bring.removal = 3 ∧ t.hub.power.request = 0
          ∧ t.hub.power.trans = some ⟨0, [.commit, .portsDisabled, .linksDown, .railsDown railOrder.reverse, .pwrEnLow], false, 0⟩)
    ∧ (h.bring.removal = 1 → (∀ d ∈ s.dies.toList, d.plan = none ∧ d.pow.clearing = false) →
        ∃ t, exec .removalDrainEnd s = .next t ∧ t.dies = s.dies ∧ t.hub.bring.removal = 2 ∧ t.hub.bring.attested = false
          ∧ t.hub.dict.hostSes = [])


/-! ### Requests of the object dictionary (R390 to R396) -/

/-- Derived (R372, R392, R394, R396): no request of a session acts while the firmware does not run or without its
session. A request with a tag that fails or a number out of order is counted and discarded, and the sixteenth in a row
closes the session; a repeated request is not executed again; another request breaks off a segmented write and is refused
with 0x0A. While RST_N is low, or where no trained port brings an in-band request, none is heard. Where the rules leave a
point open, the model's choice: log entries 11 and 97. -/
def Obligations.RequestsAreGated : Prop :=
  ∀ (i : Instr) (r : Req) (s : State), requestOf i = some r →
    (s.hub.board.rstLow = true ∨ s.reachedBy r.route = false → exec i s = .next s)
    ∧ (s.hub.fw.running = false → s.hub.bring.romOnly = false → exec i s = .next s)
    ∧ (s.session r.ses = none → exec i s = .next s)
    ∧ (∀ x, s.hub.fw.running = true → s.hub.board.rstLow = false → s.reachedBy r.route = true → s.session r.ses = some x →
        ((r.tagOk = false ∨ (r.rseq ≠ x.rseq ∧ r.rseq ≠ x.rseq + 1)) →
          (x.bad < 15 → ∃ t, exec i s = .next t ∧ OnlySessions s t
            ∧ t.hub.dict.sessions = s.hub.dict.sessions.map (fun (y : Session) =>
                if y.num = r.ses then { y with bad := y.bad + 1 } else y))
          ∧ (15 ≤ x.bad → ∃ t, exec i s = .next t ∧ t.session r.ses = none ∧ t.ports = s.ports
              ∧ t.hub.dict.sessions = s.hub.dict.sessions.filter (fun y => y.num ≠ r.ses)))
        ∧ (r.tagOk = true → r.rseq = x.rseq → x.resp ≠ none →
            ∃ t, exec i s = .next t ∧ OnlySessions s t
              ∧ t.hub.dict.sessions = s.hub.dict.sessions.map (fun (y : Session) =>
                  if y.num = r.ses then { y with lastAt := s.now } else y))
        ∧ (r.tagOk = true → r.rseq = x.rseq + 1 → x.seg ≠ none → (∀ idx sub off tot more v, i ≠ .dictWrite r idx sub off tot more v) →
            ∃ t y pt idx sub off tot, exec i s = .next t ∧ OnlySessions s t ∧ t.session r.ses = some y ∧ y.seg = none
              ∧ y.rseq = r.rseq ∧ y.resp = some ((bare pt 0x0A tot).at_ idx sub off)))

/-- Derived (R27, R204, R308, R331, R336, R361, R365, R368, R444, R445, R448, R451): an operator's writes that govern the
module. A value out of its range is refused with 7, one that the module's state forbids with 8, a frame period that a
loaded plan does not fit with 9; else each has its effect, and the response is kept. A power state that is not refused is what
the entry then reads; asked for in Doze or Deep it begins the way out. Bits of a coordinate that no field names are ignored; a port goes out of use on an axis one module deep, and comes into use on a deeper one. Where the rules
leave a point open, the model's choice: log entries 62, 68 and 78, and log entry 89 for a die whose lane has failed, which keeps
its plan, and its route, although R451 unloads every plan. -/
def Obligations.ModuleRequestsAct : Prop :=
  ∀ (s : State) (r : Req) (x : Session) (d : DieIx) (v : U32) (b : BitVec 8) (size : Bool),
    Fresh s r x → x.role = .operator →
    let h := s.hub
    let settled := h.power.trans = none ∧ s.bringing = false ∧ h.bring.romOnly = false ∧ h.sec.puffed = false
    let v' := v &&& 0x3F3F3F
    let base := if size then h.dict.base else v'
    let dims := if size then v' else h.dict.size
    let used (p : PortIx) : Prop :=
      s.hostEnd = some p ∨ 2 < bits dims.toNat (8 * (portAxis p).val + 5) (8 * (portAxis p).val)
    (∃ t, exec (.powerCapWrite r v) s = .next t
        ∧ (800 ≤ v.toNat → v.toNat ≤ 3400 → Written { s with hub := { h with power := { h.power with cap := v } } } r 0 t)
        ∧ (v.toNat < 800 ∨ 3400 < v.toNat → Written s r 7 t))
    ∧ (∃ t, exec (.framePeriodWrite r v) s = .next t
        ∧ (v.toNat < 250 ∨ 65000 < v.toNat → Written s r 7 t)
        ∧ (250 ≤ v.toNat → v.toNat ≤ 65000 →
            ((∀ (m : DieIx) (p : Loaded), s.dies[m].plan = some p →
                p.theta ≤ 500 ∧ p.frameLen + p.allow ≤ 846 * v.toNat * (1000 - p.theta) / 1000) →
              Written { s with hub := { h with time := { h.time with period := v } } } r 0 t)
            ∧ (∀ (m : DieIx) (p : Loaded), s.dies[m].plan = some p → 846 * v.toNat * (1000 - p.theta) / 1000 < p.frameLen + p.allow →
                Written s r 9 t)))
    ∧ (∃ t, exec (.coordinateWrite r size v) s = .next t
        ∧ (coordOwn size v' = false → Written s r 7 t)
        ∧ (coordOwn size v' = true → s.anyPlan = true → Written s r 8 t)
        ∧ (coordOwn size v' = true → s.anyPlan = false → coordsFit base dims = false → Written s r 7 t)
        ∧ (coordOwn size v' = true → s.anyPlan = false → coordsFit base dims = true →
            Answered t r 0x82 0 ∧ t.hub.dict.base = base ∧ t.hub.dict.size = dims
            ∧ (∀ m : DieIx, t.dies[m].router.phys = (if s.dies[m].reached then (bits base.toNat 5 0 + m.val % 2,
                    bits base.toNat 13 8 + m.val / 2 % 2, bits base.toNat 21 16 + m.val / 4) else s.dies[m].router.phys)
                ∧ ∀ c : CoreIx, (t.dies[m].cores[c]).ctl = (s.dies[m].cores[c]).ctl
                    ∧ (t.dies[m].cores[c]).scratch = (s.dies[m].cores[c]).scratch)
            ∧ ∀ p : PortIx,
                (used p → s.ports[p].link.st ≠ .unused → t.ports[p].link.st = s.ports[p].link.st
                  ∧ (s.hostEnd ≠ some p → t.ports[p].link = s.ports[p].link)
                  ∧ (s.ports[p].link.st = .up → (s.ports[p].nb = .verified ∨ s.ports[p].nb = .admitted) → t.ports[p].nb = .seen))
                ∧ (used p → s.ports[p].link.st = .unused → s.portsLive = true → s.ports[p].cmd ≠ 1 → t.ports[p].link.st = .down)
                ∧ (¬used p → s.ports[p].link.st = .unused → t.ports[p].link = s.ports[p].link)
                ∧ (¬used p → s.ports[p].link.st ≠ .unused →
                    t.ports[p].link.st = if s.ports[p].link.st = .disabled then .disabled else .unused)))
    ∧ (∃ t, exec (.dieFence r d) s = .next t
        ∧ (s.dies[d].pow.fenced = false → Answered t r 0x82 0 ∧ t.dies[d].pow.fenced = true
            ∧ t.dies[d].pow.result = .fencedCmd ∧ t.dies[d].plan = none ∧ t.hub.power.rails[vcoreRail d].enabled = false)
        ∧ (s.dies[d].pow.fenced = true → Written s r 0 t))
    ∧ (∃ t, exec (.dieRelease r d) s = .next t ∧ t.ports = s.ports ∧ (∀ m : DieIx, m ≠ d → t.dies[m] = s.dies[m])
        ∧ (s.dies[d].pow.fenced = true → Answered t r 0x82 0
            ∧ t.dies[d] = { s.dies[d] with pow := { s.dies[d].pow with fenced := false, result := .notUp } }
            ∧ (3 ≤ h.power.state.toNat → h.power.trans = none → h.bring.standbyOnly = false → h.bring.removal.toNat ≤ 2 →
                h.power.goal = .hold → h.board.pwrgd = true → s.vcorePaced = true →
                h.power.rails[vcoreRail d].good = false → h.power.rails[vcoreRail d].alive = false →
                (∀ m : DieIx, m ≠ d → s.dies[m].pow.fenced = true ∨ h.power.rails[vcoreRail m].alive = true) →
                t.hub.power.rails[vcoreRail d].enabled = true ∧ t.hub.power.goal = .up [vcoreRail d]))
        ∧ (s.dies[d].pow.fenced = false → Written s r 0 t))
    ∧ (∃ t, exec (.removalRequest r) s = .next t
        ∧ (h.bring.removal = 0 →
            Answered t r 0x82 0 ∧ t.ports = s.ports ∧ t.hub.bring.removal = 1 ∧ t.hub.bring.attested = false
            ∧ ∀ m : DieIx, (s.dies[m].reached = true → s.dies[m].frm.frun = false → t.dies[m].plan = none)
                ∧ (s.dies[m].reached = true → s.dies[m].frm.frun = true → t.dies[m].plan = s.dies[m].plan
                    ∧ (s.dies[m].plan ≠ none → t.dies[m].unloadAtEnd = true))
                ∧ (s.dies[m].reached = false → t.dies[m].plan = s.dies[m].plan))
        ∧ (h.bring.removal ≠ 0 → Written s r 8 t))
    ∧ (∃ t, exec (.removalCancel r) s = .next t
        ∧ (h.bring.removal = 1 ∨ h.bring.removal = 2 →
            Answered t r 0x82 0 ∧ OnlyHub s t ∧ t.hub.bring.removal = 0 ∧ t.hub.power = h.power)
        ∧ (h.bring.removal ≠ 1 → h.bring.removal ≠ 2 → Written s r 8 t))
    ∧ (∃ t, exec (.admissionRelease r) s = .next t
        ∧ (s.bringing = true → h.bring.step = 8 → h.bring.released = false →
            Written { s with hub := { h with bring := { h.bring with released := true } } } r 0 t)
        ∧ (s.bringing = false ∨ h.bring.step ≠ 8 ∨ h.bring.released = true → Written s r 8 t))
    ∧ (∃ t, exec (.powerStateRequest r b) s = .next t
        ∧ (4 < b.toNat → Written s r 7 t)
        ∧ (h.bring.removal = 0 → settled → b.toNat ≤ 4 →
            (b.toNat ≤ 2 → s.anyPlan = true → Written s r 8 t)
            ∧ (3 ≤ b.toNat → s.anyPlan = true → h.power.state ≠ 0 →
                Written { s with hub := { h with power := { h.power with request := b, written := b }, dict := { h.dict with statePending := true } } } r 0 t)
            ∧ (s.anyPlan = false → 3 ≤ h.power.state.toNat → h.power.wantOff = false →
                Answered t r 0x82 0 ∧ t.hub.power.request = b ∧ t.hub.power.written = b)
            ∧ (s.anyPlan = false → h.power.state = 1 ∨ h.power.state = 2 → h.bring.step = 10 → h.power.wantOff = false →
                (3 ≤ b.toNat → Answered t r 0x82 0 ∧ t.hub.power.request = b ∧ t.hub.power.written = b
                  ∧ ∃ y, t.hub.power.trans = some y ∧ y.target = b)
                ∧ (h.power.state = 2 → b = 1 → Answered t r 0x82 0 ∧ t.hub.power.written = 1
                  ∧ (t.hub.power.state = 1 ∨ ∃ y, t.hub.power.trans = some y ∧ y.target = 1))
                ∧ (h.power.state = 1 → b = 2 → Written s r 8 t))
            ∧ (h.power.state = 0 → 3 ≤ b.toNat → h.board.refclk = true → h.power.wantOff = false → h.power.goal = .hold →
                Answered t r 0x82 0 ∧ t.hub.power.request = b ∧ t.hub.power.written = b ∧ t.hub.bring.step = 4 ∧ t.hub.board.pwrEn = true))
        ∧ (h.bring.removal = 0 → h.bring.romOnly = false → h.sec.puffed = false → s.bringing = true →
            (b = 0 → s.anyPlan = false → Written { s with hub := { h with power := { h.power with wantOff := true, written := 0 } } } r 0 t)
            ∧ (b = 0 → s.anyPlan = true → Written s r 8 t)
            ∧ (b ≠ 0 → Written s r (if 4 < b.toNat then 7 else 8) t)))

/-- Derived (R28, R317, R330, R339, R340, R454): an operator's writes of routes and port commands. A route image goes
into the standby bank of its die; one that fails its checks is flagged and refused, and changes neither bank. A swap is
armed or disarmed; a die passes traffic only, or takes part again after a clear; a die whose lane has failed is refused
with 8. A port is disabled, moves between full and low rate with the far end, which it asks in a flit, or is enabled again.
Where the rules leave a point open, the model's choice: log entries 54, 77, 87 and 89. -/
def Obligations.RoutesAndPorts : Prop :=
  ∀ (s : State) (r : Req) (x : Session) (d : DieIx) (p : PortIx) (image : Bytes) (q : U64) (b : BitVec 8),
    Fresh s r x → x.role = .operator →
    let rt := s.dies[d].router
    let l := s.ports[p].link
    let commanded (c : BitVec 8) : State := s.modPort p (fun y => { y with cmd := c })
    (∃ t, exec (.routeImageWrite r d image) s = .next t
        ∧ (1056 < image.length → Written s r 6 t)
        ∧ (image.length ≤ 1056 → s.dies[d].reached = false → Written s r 8 t)
        ∧ (image.length < 1056 → s.dies[d].reached = true → Written s r 6 t)
        ∧ (s.dies[d].reached = true → imageOk image s.hub.dict.size = true →
            Written (s.modDie d (fun y => { y with router :=
              if rt.act then { rt with image0 := image, notReady := false } else { rt with image1 := image, notReady := false } })) r 0 t)
        ∧ (image.length = 1056 → s.dies[d].reached = true → imageOk image s.hub.dict.size = false →
            Answered t r 0x82 7 ∧ (∀ m : DieIx, m ≠ d → t.dies[m] = s.dies[m]) ∧ t.ports = s.ports
            ∧ t.dies[d].router.image0 = rt.image0 ∧ t.dies[d].router.image1 = rt.image1
            ∧ bit t.dies[d].router.fault 5 = true ∧ t.dies[d].cores = s.dies[d].cores))
    ∧ (∃ t, exec (.routeSwapArm r d q) s = .next t
        ∧ (s.dies[d].reached = true → Written (s.modDie d (fun y => { y with router :=
            { rt with arm := decide (q.toNat % 2 ^ 48 ≠ 0), frame := BitVec.ofNat 48 (q.toNat % 2 ^ 48) } })) r 0 t)
        ∧ (s.dies[d].reached = false → Written s r 8 t))
    ∧ (∃ t, exec (.passThroughWrite r d b) s = .next t
        ∧ (2 ≤ b.toNat → Written s r 7 t)
        ∧ (b.toNat ≤ 1 → s.dies[d].reached = false → Written s r 8 t)
        ∧ (b = 1 → s.dies[d].reached = true → s.dies[d].plan ≠ none → Written s r 8 t)
        ∧ (b = 1 → s.dies[d].reached = true → s.dies[d].plan = none → Answered t r 0x82 0 ∧ t.dies[d].router.pthru = true
            ∧ t.dies[d].cores = s.dies[d].cores ∧ (∀ m : DieIx, m ≠ d → t.dies[m] = s.dies[m]) ∧ t.ports = s.ports)
        ∧ (b = 0 → s.dies[d].reached = true → rt.pthru = false → Written s r 0 t)
        ∧ (b = 0 → s.dies[d].reached = true → rt.pthru = true → Answered t r 0x82 0 ∧ t.dies[d].router = { rt with pthru := false }
            ∧ (s.dies[d].pow.trained = true → t.dies[d].pow.clearing = true ∧ t.dies[d].pow.clearAt = s.now)))
    ∧ (∃ t, exec (.portAutomatic r p) s = .next t
        ∧ (s.sleeps = true ∨ l.st ≠ .lowRate ∨ s.ports[p].rising ≠ none → Written (commanded 0) r 0 t)
        ∧ (s.sleeps = false → l.st = .lowRate → s.ports[p].rising = none →
            Written (s.modPort p (fun y =>
              { y with cmd := 0, rising := some s.now, link := { y.link with outq := y.link.outq ++ [moveFlit false] } })) r 0 t))
    ∧ (∃ t, exec (.portDisable r p) s = .next t ∧ Answered t r 0x82 0 ∧ t.ports[p].cmd = 1 ∧ t.ports[p].link.st = .disabled
        ∧ (l.trained = false → (∀ m : PortIx, m ≠ p → t.ports[m] = s.ports[m]) ∧ t.dies = s.dies))
    ∧ (∃ t, exec (.portLowRate r p) s = .next t
        ∧ (l.st ≠ .up → Written (commanded 2) r 0 t)
        ∧ (l.st = .up → Answered t r 0x82 0 ∧ t.ports[p].cmd = 2 ∧ t.ports[p].link.st = .lowRate
            ∧ t.ports[p].link.outq.head? = some (moveFlit true) ∧ ∀ f ∈ t.ports[p].link.outq.tail, f.vl = 2))
    ∧ (∃ t, exec (.portReenable r p) s = .next t
        ∧ (l.st ≠ .disabled → Written (commanded 3) r 0 t)
        ∧ (l.st = .disabled → Answered t r 0x82 0 ∧ t.ports[p].cmd = 3 ∧ t.dies = s.dies
            ∧ (s.portsLive = true → s.portUsed p = true → t.ports[p].link.st = .down)
            ∧ (∀ m : PortIx, m ≠ p → t.ports[m] = s.ports[m])))

/-- Derived (R370 to R374): the seven steps of a firmware update in an operator's session. Begin erases the inactive
slot, chunks fill it and no other byte, verify judges it, activate sets the trial of it, abort clears what was begun,
restart starts Marigold again, and commit ends a trial and never lowers the floor; out of its state each is refused with
8. A record whose tag fails counts as absent, and one that is written is sealed with its tag. Where the rules leave a point
open, the model's choice: log entries 9, 66 and 67. -/
def Obligations.UpdateRequests : Prop :=
  ∀ (s : State) (r : Req) (x : Session) (chunk : Bytes), Fresh s r x → x.role = .operator →
    let f := s.hub.fw
    let seen := s.hub.fwSeen
    let b := seen.inactive
    let with_ (g : Firmware) : State := { s with hub := { s.hub with fw := g } }
    let sealed (g : Firmware) : State := { s with hub := s.hub.sealBoot g }
    let ended := s.hub.sealBoot { f with trial := false }
    let off := leNat (slice chunk 0 4)
    (∃ t, exec (.updateBegin r) s = .next t
        ∧ (f.upd = .idle ∨ f.upd = .failed → Written (with_ { f with
            upd := .receiving, slotA := if b then f.slotA else [], slotB := if b then [] else f.slotB }) r 0 t)
        ∧ (f.upd ≠ .idle → f.upd ≠ .failed → Written s r 8 t))
    ∧ (∃ t, exec (.updateChunk r chunk) s = .next t
        ∧ (chunk.length < 8 ∨ 4096 < chunk.length → Written s r 6 t)
        ∧ (8 ≤ chunk.length → chunk.length ≤ 4096 → f.upd ≠ .receiving → Written s r 8 t)
        ∧ (8 ≤ chunk.length → chunk.length ≤ 4096 → f.upd = .receiving →
            (off % 4 ≠ 0 ∨ 4194304 < off + (chunk.length - 4) → Written s r 7 t)
            ∧ (off % 4 = 0 → off + (chunk.length - 4) ≤ 4194304 → Cells.wf (f.slot b) = true →
                Answered t r 0x82 0 ∧ t.dies = s.dies ∧ t.ports = s.ports
                ∧ { t.hub.fw with slotA := f.slotA, slotB := f.slotB } = f ∧ t.hub.fw.slot (!b) = f.slot (!b)
                ∧ (∀ i, i + 4 < chunk.length → Cells.get (t.hub.fw.slot b) (off + i) = chunk.getD (i + 4) 0)
                ∧ (∀ a, a < off ∨ off + (chunk.length - 4) ≤ a → Cells.get (t.hub.fw.slot b) a = Cells.get (f.slot b) a))))
    ∧ (∃ t, exec (.updateVerify r) s = .next t
        ∧ (f.upd = .receiving → Written (with_ { f with upd := if slotOk (f.slot b) seen.floor then .verified else .failed }) r 0 t)
        ∧ (f.upd ≠ .receiving → Written s r 8 t))
    ∧ (∃ t, exec (.updateActivate r) s = .next t
        ∧ (f.upd = .verified → Written (sealed { f with upd := .pending, pref := b, trial := true, tries := 0 }) r 0 t)
        ∧ (f.upd ≠ .verified → Written s r 8 t))
    ∧ (∃ t, exec (.updateAbort r) s = .next t
        ∧ (f.upd = .idle → Written s r 8 t)
        ∧ (f.upd = .pending → Written (sealed { f with upd := .idle, pref := !f.pref, trial := false, tries := 0 }) r 0 t)
        ∧ (f.upd ≠ .idle → f.upd ≠ .pending → Written (with_ { f with upd := .idle }) r 0 t))
    ∧ (∃ t, exec (.updateRestart r) s = .next t
        ∧ (f.upd = .pending → s.anyPlan = false → t.hub.fw.running = false ∧ t.hub.fw.booted = 0xFF ∧ t.hub.dict.sessions = []
            ∧ t.hub.fw.pref = f.pref ∧ t.hub.fw.trial = f.trial ∧ t.ports = s.ports
            ∧ ∀ m : DieIx, t.dies[m].cores = s.dies[m].cores)
        ∧ (f.upd ≠ .pending ∨ s.anyPlan = true → Written s r 8 t))
    ∧ (∃ t, exec (.updateCommit r) s = .next t
        ∧ (seen.trial = true → f.booted = (if seen.pref then 1 else 0) →
            Written { s with hub := if seen.floor.toNat < f.svn.toNat then ended.sealFloor { ended.fw with floor := f.svn } else ended } r 0 t
            ∧ seen.floor.toNat ≤ t.hub.fwSeen.floor.toNat ∧ t.hub.fwSeen.trial = false)
        ∧ (seen.trial = false ∨ f.booted ≠ (if seen.pref then 1 else 0) → Written s r 8 t))


/-- Derived (R390, R391, R396, R407 to R409): an open request with no enrolment is answered with a challenge of the
module's signature, or refused with 0x0C where no session is left; an enrolment that passes its checks sets or clears its
tenant slot under new tags, and one that fails sets `enr_bad`. A proof uses its challenge up and opens a session under a number of its
own, or is refused with 3. A close ends its session with the load it owns, and so does 60 s without a valid request.
Where the rules leave a point open, the model's choice: log entries 9, 66, 70 and 90. -/
def Obligations.SessionsOpenAndClose : Prop :=
  ∀ (s : State) (route : Route) (role : Role) (key e cipher sig : Bytes) (cert : Option Bytes) (n : Nat) (ses : BitVec 16)
    (r : Req) (x : Session) (c : Challenge),
    let h := s.hub
    let good := Config.dsaVerify c.key "YZB8 session" (cipher ++ c.nonce ++ h.sec.digest) sig && s.roleOk c.route c.role c.key c.cert
    (h.fw.running = true → h.board.rstLow = false → s.reachedBy route = true →
      (h.sec.puffed = false → h.dict.sessions.length < 16 →
        ∃ y, exec (.sessionOpenRequest route role key none cert) s = .next { s with
            draws := s.draws + 1
            hub := { h with dict := { h.dict with challenges := h.dict.challenges ++ [y], chalCount := h.dict.chalCount + 1
                                                  lastOpen := some ⟨0x84, 0, 0, 3636, y.sent, 0, 0, 0⟩ } } }
          ∧ y.id = h.dict.chalCount ∧ y.role = role ∧ y.key = key ∧ y.cert = cert ∧ y.route = route
          ∧ y.nonce.length = 32 ∧ y.sent.length = 3636 ∧ y.sent.take 32 = y.nonce)
      ∧ (h.sec.puffed = true ∨ 16 ≤ h.dict.sessions.length →
          exec (.sessionOpenRequest route role key none cert) s = .next { s with hub := { h with dict := { h.dict with
            lastOpen := some ⟨0x84, 0x0C, 0, 0, [], 0, 0, 0⟩ } } })
      ∧ (h.sec.puffed = false →
          ∃ t, exec (.sessionOpenRequest route role key (some e) cert) s = .next t ∧ t.ports = s.ports
            ∧ (s.enrolOk e = true → t.hub.sec.enrCtr = leAt e 36 8
                ∧ (∀ q : Fin 16, t.hub.sec.tenants[q] = if q.val = leAt e 1 1 then
                    (if leAt e 0 1 = 1 then some (slice e 4 32) else none) else h.sec.seen.tenants[q])
                ∧ (h.sec.recordOk 0 = true → h.sec.seen.tenants = h.sec.tenants)
                ∧ (h.sec.recordOk 0 = false → ∀ q : Fin 16, h.sec.seen.tenants[q] = none)
                ∧ t.hub.sec.recordOk 0 = true ∧ t.hub.sec.recordOk 1 = true
                ∧ (leAt e 0 1 = 2 → ∀ y ∈ t.hub.dict.sessions, y.role = .tenant →
                    h.sec.seen.tenants[Fin.ofNat 16 (leAt e 1 1)] ≠ some y.digest))
            ∧ (s.enrolOk e = false → bit t.hub.sec.fault 1 = true ∧ t.hub.sec.tenants = h.sec.tenants
                ∧ t.hub.dict.sessions = h.dict.sessions))
      ∧ (h.dict.challenges.find? (fun y => y.id = n) = some c → c.route = route →
          ∃ t, exec (.sessionProof n cipher sig) s = .next t ∧ OnlyHub s t
            ∧ t.hub.dict.challenges = h.dict.challenges.filter (fun y => y.id ≠ n)
            ∧ (good = false → t.hub.dict.lastOpen = some ⟨0x85, 3, 0, 0, [], 0, 0, 0⟩ ∧ t.hub.dict.sessions = h.dict.sessions
                ∧ t.hub.sec = h.sec)
            ∧ (good = true → h.dict.sessions.length < 16 → ∃ y, t.hub.dict.sessions = h.dict.sessions ++ [y]
                ∧ (∀ z ∈ h.dict.sessions, z.num ≠ y.num) ∧ y.num ≠ 0 ∧ y.num ≠ 0xFFFF ∧ y.role = c.role ∧ y.key = c.key
                ∧ y.aes = slice (sessionSecret c.seed cipher c.nonce c.key) 0 32 ∧ y.rseq = 0 ∧ y.resp = none ∧ y.seg = none
                ∧ y.lastAt = s.now ∧ t.hub.dict.lastOpen = some ⟨0x85, 0, 0, 2, leBytes 2 y.num.toNat, 0, 0, 0⟩)
            ∧ (good = true → h.dict.sessions.length < 16 → c.role = .operator → (∀ k ∈ h.sec.opKeys.toList, k = []) →
                t.hub.sec.opKeys[0] = c.key)))
    ∧ (h.dict.challenges.find? (fun y => y.id = n) = none → exec (.sessionProof n cipher sig) s = .next s)
    ∧ (Fresh s r x →
        ∃ t, exec (.sessionClose r) s = .next t ∧ t.session r.ses = none ∧ t.ports = s.ports
          ∧ t.hub.dict.sessions = h.dict.sessions.filter (fun y => y.num ≠ r.ses)
          ∧ t.hub.dict.lastOpen = some ⟨0x86, 0, 0, 0, [], 0, 0, 0⟩
          ∧ (h.dict.load.st = .receiving → h.dict.load.owner = r.ses → t.hub.dict.load.st = .idle)
          ∧ (h.dict.load.owner ≠ r.ses → t.hub.dict.load = h.dict.load ∧ t.dies = s.dies))
    ∧ (s.session ses = some x →
        (x.lastAt + 15000000000 ≤ s.now →
          ∃ t, exec (.sessionTimeout ses) s = .next t ∧ t.session ses = none ∧ t.ports = s.ports
            ∧ t.hub.dict.sessions = h.dict.sessions.filter (fun y => y.num ≠ ses))
        ∧ (s.now < x.lastAt + 15000000000 → exec (.sessionTimeout ses) s = .next s))

/-- Derived (R7, R377 to R380, R390, R394 to R397, R440): discovery answers constants of 0x1000 to 0x1FFF on the field port
alone, and every other request of it with the status of the first check that fails. A read of a session answers the part of
the value that it asks for, or such a status. A write of a whole value has its effect, one of the wrong length or off its
type is refused, one whose commit to the MRAM fails keeps the old value, and one in segments is kept until the last. A write
to a fault word clears the bits that it names and that were not set in the same cycle; the watchdog limits and the entries
that each session has of its own are taken. The recorder and, by the vendor alone, the mirror are emptied and the defaults
restored. Where the rules leave a point open, the model's choice: log entries 68, 69, 70, 88, 89, 105 and 128. -/
def Obligations.DictionaryReadsAndWrites : Prop :=
  ∀ (s : State) (r : Req) (x : Session) (route : Route) (idx v16 : BitVec 16) (sub b : BitVec 8) (off tot : BitVec 32)
    (len : BitVec 16) (more : Bool) (v w : Bytes) (k : EntryKind) (p : PortIx) (d : DieIx) (u : DieUnit) (l : U32) (q : U64),
    let h := s.hub
    let i := idx.toNat
    let j := sub.toNat
    let value := s.value x i j
    let found (o : Response) : Prop := exec (.discoveryRead route idx sub off len) s
      = .next { s with hub := { h with dict := { h.dict with lastDisc := some (o.at_ idx sub off) } } }
    let sized := len ≠ 0 ∧ len.toNat ≤ 1024 ∧ (off = 0 ∨ (typeBytes k.ty).isSome = false)
    let part : Response := ⟨0x81, 0, BitVec.ofNat 8 k.ty, value.length, (value.drop off.toNat).take len.toNat, idx, sub, off⟩
    let refused (st : BitVec 8) : Response := (bare 0x81 st).at_ idx sub off
    let write (at_ : BitVec 16) (of_ : BitVec 8) (c : Bytes) : Instr := .dictWrite r at_ of_ 0 (BitVec.ofNat 32 c.length) false c
    let writes (at_ : BitVec 16) (of_ : BitVec 8) (c : Bytes) (st : BitVec 8) (z : State) : Prop :=
      ∃ t, exec (write at_ of_ c) s = .next t ∧ OnlySessions z t ∧ Answered t r 0x82 st
    (h.fw.running = true → h.board.rstLow = false → s.reachedBy route = true →
      (highest i = none → found ⟨0x81, 1, 0, 0, [], 0, 0, 0⟩)
      ∧ (highest i ≠ none → subExists i j = false → found ⟨0x81, 2, 0, 0, [], 0, 0, 0⟩)
      ∧ (highest i ≠ none → subExists i j = true → kindOf i j = some k →
          (route = .inBand ∨ i < 0x1000 ∨ 0x2000 ≤ i ∨ k.acc ≠ .const_ → found ⟨0x81, 3, 0, 0, [], 0, 0, 0⟩)
          ∧ (route = .fieldPort → 0x1000 ≤ i → i < 0x2000 → k.acc = .const_ →
              (sized → found part) ∧ (¬sized → found ⟨0x81, 6, 0, 0, [], 0, 0, 0⟩))))
    ∧ s.value x 0x1018 1 = [0x19, 0x5A, 0, 0] ∧ s.value x 0x1018 3 = [0xA1] ∧ s.value x 0x1018 0 = [4]
    ∧ (Fresh s r x →
        (s.mayRead x i j ≠ 0 → ∃ t, exec (.dictRead r idx sub off len) s = .next t
          ∧ Replied s r (refused (s.mayRead x i j)) t)
        ∧ (s.mayRead x i j = 0 → kindOf i j = some k →
            ∃ t, exec (.dictRead r idx sub off len) s = .next t
              ∧ (¬sized → Replied s r (refused 6) t)
              ∧ (sized → i = 0x6000 → j = 2 → h.sec.report = [] → Replied s r (refused 8) t)
              ∧ (sized → (i ≠ 0x4020 ∨ j ≠ 1) → (i ≠ 0x6000 ∨ j ≠ 2 ∨ h.sec.report ≠ []) →
                  (s.laneAway i j = true → Replied s r (refused 8) t)
                  ∧ (s.laneAway i j = false → Replied s r (part.at_ idx sub off) t ∧ (value ≠ [] → part.at_ idx sub off = part))))
        ∧ (mayWrite x.role i j ≠ 0 → ∃ t, exec (.dictWrite r idx sub off tot more v) s = .next t
            ∧ OnlySessions s t ∧ Answered t r 0x82 (mayWrite x.role i j))
        ∧ (mayWrite x.role i j = 0 → kindOf i j = some k → v.length ≤ 1024 →
            (fits k v = false → writes idx sub v 6 s)
            ∧ (fits k v = true → offType k v = true → writes idx sub v 7 s)
            ∧ (fits k v = true → offType k v = false → s.laneAway i j = true → writes idx sub v 8 s))
        ∧ s.mayRead x 0x2011 0 = 1 ∧ s.mayRead x 0x2000 7 = 2 ∧ (x.role ≠ .tenant → s.mayRead x 0x6020 1 = 3) ∧ mayWrite x.role 0x2011 1 = 1
        ∧ (x.role = .tenant → s.mayRead x 0x2010 1 = 3 ∧ s.mayRead x 0x4010 1 = 4 ∧ mayWrite x.role 0x2000 1 = 3
            ∧ s.mayRead x 0x4000 3 = 0 ∧ s.value x 0x4000 3 = [x.job])
        ∧ (x.role = .operator → s.mayRead x 0x2010 1 = 0 ∧ s.value x 0x2010 1 = leBytes 4 h.power.cap.toNat
            ∧ mayWrite x.role 0x2000 2 = 5
            ∧ (∃ t, exec (.dictWrite r 0x2050 2 0 (BitVec.ofNat 32 v.length) false v) s = .next t ∧ t.dies = s.dies ∧ t.ports = s.ports
                ∧ (v = [b] → Answered t r 0x82 0 ∧ t.hub.dict.coolant = b ∧ t.hub.power = h.power)
                ∧ (v.length ≠ 1 → v.length < 4294967296 → Answered t r 0x82 6 ∧ OnlySessions s t))
            ∧ (∃ t, exec (.dictWrite r 0x1100 1 0 1 false [b]) s = .next t
                ∧ (b.toNat < 8 ∨ b = 0xFF → Answered t r 0x82 0 ∧ t.hub.dict.plcaNode = b ∧ t.hub.dict.plcaAt = s.now + 2500000
                    ∧ t.hub.dict.plcaInForce = h.dict.plcaInForce)
                ∧ (8 ≤ b.toNat → b ≠ 0xFF → Answered t r 0x82 7 ∧ OnlySessions s t))
            ∧ (v.length ≤ 1024 → ∃ t y, exec (.dictWrite r 0x6010 1 0 1312 true v) s = .next t ∧ OnlySessions s t
                ∧ Answered t r 0x82 0 ∧ t.session r.ses = some y ∧ y.seg = some (0x6010, 1, 1312, v)))
        ∧ (x.role ≠ .tenant → 800 ≤ l.toNat → l.toNat ≤ 3400 →
            ∃ t, exec (.powerCapWrite { r with mramOk := false } l) s = .next t ∧ Written s r 0x0B t)
        ∧ (x.role ≠ .tenant →
            writes 0x2080 1 (leBytes 8 q.toNat) 0 { s with hub := { h with fault := h.fault &&& ~~~(q &&& 0x17F &&& ~~~h.setNow) } }
            ∧ writes 0x6000 5 (leBytes 8 q.toNat) 0
                { s with hub := { h with sec := { h.sec with fault := h.sec.fault &&& ~~~(q &&& 0x2E &&& ~~~h.sec.setNow) } } }
            ∧ writes 0x30A0 (BitVec.ofNat 8 (p.val + 1)) (leBytes 8 q.toNat) 0
                (s.modPort p (fun y => { y with fault := y.fault &&& ~~~(q &&& ~~~y.setNow) }))
            ∧ (s.dies[d].reached = true → writes 0x30B0 (BitVec.ofNat 8 (d.val + 1)) (leBytes 8 q.toNat) 0
                (s.modDie d (fun y => { y with router :=
                  { y.router with fault := y.router.fault &&& ~~~(q &&& ~~~(y.setThisCycle .router)) } })))
            ∧ (0x8000 ≤ i → mayWrite x.role i j = 0 → faultUnit (dieIndex i).2 j = some u → s.dies[(dieIndex i).1].reached = true →
                ∃ t, exec (write idx sub (leBytes 8 q.toNat)) s = .next t ∧ Answered t r 0x82 0 ∧ t.ports = s.ports
                  ∧ (∀ m : DieIx, m ≠ (dieIndex i).1 → t.dies[m] = s.dies[m])
                  ∧ (let y := s.dies[(dieIndex i).1]
                     let z := t.dies[(dieIndex i).1]
                     z.faultOf u = y.faultOf u &&& ~~~(q &&& ~~~(y.setThisCycle u))
                       ∧ (∀ o, o ≠ u → z.faultOf o = y.faultOf o)
                       ∧ ∀ c : CoreIx, (z.cores[c]).scratch = (y.cores[c]).scratch ∧ (z.cores[c]).ctl.s = (y.cores[c]).ctl.s)))
        ∧ (s.tenantMay x (List.finRange 8) = true →
            (4096 ≤ l.toNat → l.toNat ≤ 268435456 →
              writes 0x4100 4 (leBytes 4 l.toNat) 0 { s with hub := { h with dict := { h.dict with wd := l } } }
              ∧ writes 0x4100 5 (leBytes 4 l.toNat) 0 { s with hub := { h with dict := { h.dict with margin := l } } })
            ∧ (l.toNat < 4096 ∨ 268435456 < l.toNat → writes 0x4100 4 (leBytes 4 l.toNat) 7 s ∧ writes 0x4100 5 (leBytes 4 l.toNat) 7 s))
        ∧ (s.tenantMay x (List.finRange 8) = false →
            writes 0x4100 4 (leBytes 4 l.toNat) 3 s ∧ writes 0x4100 5 (leBytes 4 l.toNat) 3 s)
        ∧ (x.role ≠ .vendor →
            (b = 0 → writes 0x4000 3 [b] 7 s)
            ∧ (b ≠ 0 → ∃ t y, exec (write 0x4000 3 [b]) s = .next t ∧ OnlySessions s t ∧ Answered t r 0x82 0
                ∧ t.session r.ses = some y ∧ y.job = b ∧ y.mask = x.mask)
            ∧ ∃ t y, exec (write 0x4000 4 [b]) s = .next t ∧ OnlySessions s t ∧ Answered t r 0x82 0
                ∧ t.session r.ses = some y ∧ y.mask = b ∧ y.job = x.job)
        ∧ (∃ t, exec (.recorderEmpty r) s = .next t
            ∧ (x.role ≠ .tenant → Written { s with hub := { h with rec_ := { h.rec_ with slots := [], cut := none } } } r 0 t)
            ∧ (x.role = .tenant → Written s r 3 t))
        ∧ (∃ t, exec (.mirrorEmpty r) s = .next t
            ∧ (x.role = .vendor → Written { s with hub := { h with rec_ := { h.rec_ with mirror := [], cutMirror := none } } } r 0 t)
            ∧ (x.role ≠ .vendor → Written s r 3 t))
        ∧ (∃ t, exec (.restoreDefaults r v16) s = .next t
            ∧ (x.role ≠ .vendor → Written s r 3 t)
            ∧ (x.role = .vendor → v16 ≠ 0x10AD → Written s r 7 t)
            ∧ (x.role = .vendor → v16 = 0x10AD → s.periodFits 8000 = false → Written s r 9 t)
            ∧ (x.role = .vendor → v16 = 0x10AD → s.periodFits 8000 = true →
                Answered t r 0x82 0 ∧ t.hub.time.period = 8000 ∧ t.hub.power.cap = 3400
                ∧ t.hub.dict.plcaNode = 0xFF ∧ t.hub.dict.hostPort = 0xFF ∧ t.hub.rec_.minSev = 2 ∧ t.hub.bring.gate = 0
                ∧ t.hub.dict.base = h.dict.base ∧ t.hub.dict.size = h.dict.size ∧ t.hub.sec.opKeys = h.sec.opKeys
                ∧ t.hub.sec.tenants = h.sec.tenants
                ∧ (h.dict.hostPort = 0xFF → t.dies = s.dies ∧ t.ports = s.ports))))
    ∧ (h.fw.running = true → h.board.rstLow = false → r.route = .fieldPort → s.session r.ses = some x → r.tagOk = true →
        r.mramOk = true → r.rseq = x.rseq + 1 → x.role = .operator →
        x.seg = some (0x6010, 1, 1312, w) → v.length ≤ 1024 → w.length + v.length = 1312 →
        (∃ t y, exec (.dictWrite r 0x6010 1 (BitVec.ofNat 32 w.length) 1312 false v) s = .next t
          ∧ Answered t r 0x82 0 ∧ t.hub.sec.opKeys[0] = w ++ v ∧ t.session r.ses = some y ∧ y.seg = none)
        ∧ (off.toNat ≠ w.length → ∃ t, exec (.dictWrite r 0x6010 1 off 1312 false v) s = .next t
            ∧ OnlySessions s t ∧ Answered t r 0x82 0x0A))

/-- Derived (R405, R406, R410, R411, R418 to R420): a nonce is kept with the state of that instant, and its report within
200 ms; an offer binds a fresh key pair to the session's job, its capsule gives the job's root key, and 60 s without a
load erase it; a debug token that fits the module opens its scope, ends every plan, key and tenant session, and one that
does not is flagged. A scope stays open, and once debug is unlocked no offer and no capsule is served. Where the rules leave
a point open, the model's choice: log entries 9, 57, 66 and 128. -/
def Obligations.SecurityRequests : Prop :=
  ∀ (s : State) (r : Req) (x : Session) (v : Bytes) (off : BitVec 32) (len : BitVec 16) (job : BitVec 8) (seed : Bytes) (k : JobKey),
    let h := s.hub
    (Fresh s r x →
      (∃ t, exec (.attestationNonce r v) s = .next t
        ∧ (v.length ≠ 32 → Written s r 6 t)
        ∧ (v.length = 32 → Answered t r 0x82 0 ∧ t.dies = s.dies ∧ t.ports = s.ports
            ∧ t.hub.sec = { h.sec with nonce := v, report := [], readyAt := some (s.now + 50000000), snap := t.hub.sec.snap }
            ∧ t.hub.sec.snap.length = 776 ∧ slice t.hub.sec.snap 16 32 = v))
      ∧ (x.role = .tenant → h.sec.unlocked = false → len ≠ 0 → len.toNat ≤ 1024 →
          (∃ t y p o, exec (.jobKeyOffer r 0 len) s = .next t ∧ OnlySessions s { t with draws := s.draws } ∧ t.draws = s.draws + 1
            ∧ t.session r.ses = some y ∧ y.offer = some (x.job, p) ∧ p.length = 64 ∧ y.resp = some ⟨0x81, 0, 11, 3640, o, 0x4020, 1, 0⟩
            ∧ o.length = len.toNat ∧ o.head? = some x.job)
          ∧ (off ≠ 0 → x.offer = some (job, seed) →
              ∃ t y o, exec (.jobKeyOffer r off len) s = .next t ∧ OnlySessions s t ∧ t.session r.ses = some y
                ∧ y.offer = x.offer ∧ y.resp = some ⟨0x81, 0, 11, 3640, o, 0x4020, 1, off⟩))
      ∧ (x.role ≠ .tenant ∨ h.sec.unlocked = true → len ≠ 0 → len.toNat ≤ 1024 →
          ∃ t, exec (.jobKeyOffer r off len) s = .next t ∧ Replied s r ((bare 0x81 8).at_ 0x4020 1 off) t)
      ∧ (x.role = .tenant →
          ∃ t, exec (.jobKeyCapsule r v) s = .next t
            ∧ (v.length ≠ 1092 → Written s r 6 t)
            ∧ (v.length = 1092 → x.offer = none → Written s r 8 t)
            ∧ (v.length = 1092 → x.offer = some (job, seed) → s.boundElse job x.digest = true → Written s r 3 t)
            ∧ (v.length = 1092 → x.offer = some (job, seed) → s.boundElse job x.digest = false →
                s.jobRuns job = true ∨ h.sec.unlocked = true → Written s r 8 t)
            ∧ (v.length = 1092 → x.offer = some (job, seed) → s.boundElse job x.digest = false → s.jobRuns job = false →
                h.sec.unlocked = false → v.take 4 = [job, 0, 0, 0] →
                Answered t r 0x82 0 ∧ t.ports = s.ports ∧ ∃ y, t.jobKey job = some y ∧ y.tenant = x.digest ∧ y.at_ = s.now
                  ∧ y.loaded = false ∧ y.key.length = 32
                  ∧ (∀ j, j ≠ job → t.jobKey j = s.jobKey j)
                  ∧ ∃ z, t.session r.ses = some z ∧ z.offer = none))
      ∧ (x.role = .vendor →
          ∃ t, exec (.debugUnlockToken r v) s = .next t
            ∧ (v.length ≠ 2508 → Written s r 6 t)
            ∧ (v.length = 2508 → h.sec.tokenOk v = false → Answered t r 0x82 7 ∧ bit t.hub.sec.fault 3 = true
                ∧ t.dies = s.dies ∧ t.ports = s.ports ∧ t.hub.sec.scope = h.sec.scope ∧ t.hub.sec.keys = h.sec.keys
                ∧ t.draws = s.draws + 1)
            ∧ (v.length = 2508 → h.sec.tokenOk v = true → Answered t r 0x82 0 ∧ bit t.hub.sec.fault 4 = true
                ∧ t.hub.sec.scope = h.sec.scope ||| v.getD 84 0 ∧ t.hub.sec.unlocks = satAdd h.sec.unlocks 1
                ∧ t.hub.sec.recordOk 2 = true ∧ t.hub.sec.keys = []
                ∧ t.hub.dict.hostSes = [] ∧ t.hub.dict.bindings = [] ∧ (∀ y ∈ t.hub.dict.sessions, y.role ≠ .tenant)
                ∧ (∀ m : DieIx, t.dies[m].plan = none ∧ t.dies[m].keyReg = []) ∧ t.draws = s.draws + 1))
      ∧ (x.role ≠ .vendor → ∃ t, exec (.debugUnlockToken r v) s = .next t ∧ Written s r 3 t))
    ∧ (h.sec.readyAt ≠ none → h.fw.running = true →
        ∃ t sg, exec .attestationReady s = .next t ∧ sg.length = 2420
          ∧ t = { s with hub := { h with sec := { h.sec with report := h.sec.snap ++ sg, snap := [], readyAt := none } } })
    ∧ (h.sec.readyAt = none → exec .attestationReady s = .next s)
    ∧ (s.jobKey job = some k →
        (k.loaded = false → s.jobRuns job = false → k.at_ + 15000000000 ≤ s.now →
          ∃ t, exec (.jobKeyExpiry job) s = .next t ∧ t.ports = s.ports ∧ t.jobKey job = none
            ∧ (∀ j, j ≠ job → t.jobKey j = s.jobKey j) ∧ (∀ y ∈ t.hub.dict.hostSes, y.2 ≠ job)
            ∧ ∀ m : DieIx, t.dies[m].cores = s.dies[m].cores ∧ t.dies[m].plan = s.dies[m].plan)
        ∧ (k.loaded = true ∨ s.now < k.at_ + 15000000000 → exec (.jobKeyExpiry job) s = .next s))


/-- Derived (R146 to R148, R198, R221, R383 to R385, R411 to R413, R448, R477): a load begins with a job's key on dies
that are free or run the job, takes its container in chunks, and is refused under the first check that fails or handed to
its dies, each of which loads when its frame has ended. A standby load writes standby banks alone. Unload ends a plan now
or at the end of its frame; an arm, a host session and a write of a standby instruction bank touch nothing else. Where
the rules leave a point open, the model's choice: log entries 9, 12, 13, 57, 71, 72, 82, 89 and 127. -/
def Obligations.PlansLoad : Prop :=
  ∀ (s : State) (r : Req) (x : Session) (k : JobKey) (chunk data : Bytes) (p : ClearPlan) (c : ClearStandby) (job : BitVec 8)
    (num : BitVec 16) (a : CoreRef) (bank : Bool) (addr : BitVec 18) (meas : Bytes) (serial : BitVec 64),
    let h := s.hub
    let l := h.dict.load
    let free := l.st ≠ .receiving ∧ l.st ≠ .checking
    let fits (standby : Bool) := s.mayLoad = true ∧ free ∧ x.mask ≠ 0 ∧ s.boundElse x.job x.digest = false
      ∧ s.jobKey x.job = some k
      ∧ ∀ m : DieIx, bit x.mask m.val = true → s.dies[m].inService = true ∧ (s.dies[m].plan = none → standby = false)
          ∧ ∀ q, s.dies[m].plan = some q → q.job = x.job
    let opens (standby : Bool) (t : State) := Answered t r 0x82 0 ∧ t.ports = s.ports
      ∧ t.hub.dict.load = ⟨.receiving, x.num, x.digest, x.job, x.mask, standby, 0, [], 0, none⟩
      ∧ ∀ m : DieIx, t.dies[m] = if bit x.mask m.val then { s.dies[m] with keyReg := k.key } else s.dies[m]
    let owns := l.st = .receiving ∧ l.owner = x.num
    let mine := ∀ (m : DieIx) (q : Loaded), bit x.mask m.val = true → s.dies[m].plan = some q → q.tenant = x.digest
    let noTick := ∀ m : DieIx, bit l.mask m.val = true → s.tickDue m = false ∧ s.lateDue m = false
    (Fresh s r x → x.role = .tenant →
      (∃ t, exec (.loadBegin r) s = .next t ∧ (fits false → opens false t)
        ∧ (s.mayLoad = false ∨ ¬free ∨ x.mask = 0 → Written s r 8 t)
        ∧ (s.mayLoad = true → free → x.mask ≠ 0 → s.boundElse x.job x.digest = true → Written s r 3 t)
        ∧ (s.mayLoad = true → free → x.mask ≠ 0 → s.boundElse x.job x.digest = false → s.jobKey x.job = none → Written s r 8 t))
      ∧ (∃ t, exec (.standbyBegin r) s = .next t ∧ (fits true → opens true t)
        ∧ (s.mayLoad = false ∨ ¬free ∨ x.mask = 0 → Written s r 8 t))
      ∧ (∃ t, exec (.planChunk r chunk) s = .next t
        ∧ (chunk.length < 9 ∨ 4096 < chunk.length → Written s r 6 t)
        ∧ (9 ≤ chunk.length → chunk.length ≤ 4096 → ¬owns → Written s r 8 t)
        ∧ (9 ≤ chunk.length → chunk.length ≤ 4096 → owns → Cells.wf l.data = true →
            let off := leNat (slice chunk 0 8)
            Answered t r 0x82 0 ∧ t.dies = s.dies ∧ t.ports = s.ports
            ∧ { t.hub.dict.load with data := l.data, size := l.size } = l
            ∧ t.hub.dict.load.size = max l.size (off + (chunk.length - 8))
            ∧ (∀ i, i + 8 < chunk.length → Cells.get t.hub.dict.load.data (off + i) = chunk.getD (i + 8) 0)
            ∧ (∀ y, y < off ∨ off + (chunk.length - 8) ≤ y → Cells.get t.hub.dict.load.data y = Cells.get l.data y)))
      ∧ (∃ t, exec (.loadEnd r p) s = .next t
        ∧ (¬owns ∨ l.standby = true → Written s r 8 t)
        ∧ (owns → l.standby = false → s.jobKey l.job = none → Answered t r 0x82 0 ∧ t.hub.dict.load.st = .refused
            ∧ t.hub.dict.load.reason = 413 ∧ t.dies = s.dies)
        ∧ (owns → l.standby = false → s.jobKey l.job = some k →
            (∀ rule m, s.loadVerdict x k p = some (rule, m) → Answered t r 0x82 0 ∧ t.hub.dict.load.st = .refused
              ∧ t.hub.dict.load.reason = BitVec.ofNat 16 rule ∧ t.ports = s.ports
              ∧ ∀ n : DieIx, t.dies[n].plan = s.dies[n].plan ∧ t.dies[n].cores = s.dies[n].cores)
            ∧ (s.loadVerdict x k p = none → Answered t r 0x82 0 ∧ t.hub.dict.load.st = .checking
              ∧ t.hub.dict.load.plan = some (p, l.measure, l.serial)
              ∧ ∀ n : DieIx, t.dies[n] = if bit l.mask n.val then { s.dies[n] with loadAtEnd := true } else s.dies[n])))
      ∧ (∃ t, exec (.standbyEnd r c) s = .next t
        ∧ (¬owns ∨ l.standby = false → Written s r 8 t)
        ∧ (owns → l.standby = true → s.jobKey l.job = some k → s.envelopeBad x k = none →
            noTick → (c.dies = [] → Answered t r 0x82 0) ∧ StandbyTaken c s t))
      ∧ (∃ t, exec (.loadAbort r) s = .next t
        ∧ (owns → Answered t r 0x82 0 ∧ t.hub.dict.load.st = .idle ∧ t.ports = s.ports
            ∧ ∀ m : DieIx, t.dies[m].loadAtEnd = false ∧ t.dies[m].plan = s.dies[m].plan)
        ∧ (¬owns → Written s r 8 t))
      ∧ (∃ t, exec (.planUnload r) s = .next t
        ∧ (mine → Answered t r 0x82 0 ∧ t.ports = s.ports
            ∧ ∀ m : DieIx, (bit x.mask m.val = false → t.dies[m].plan = s.dies[m].plan ∧ t.dies[m].cores = s.dies[m].cores)
                ∧ (s.dies[m].reached = false → t.dies[m].plan = s.dies[m].plan ∧ t.dies[m].cores = s.dies[m].cores)
                ∧ (bit x.mask m.val = true → s.dies[m].reached = true → s.dies[m].frm.frun = false → t.dies[m].plan = none)
                ∧ (bit x.mask m.val = true → s.dies[m].reached = true → s.dies[m].frm.frun = true → s.dies[m].plan ≠ none →
                    t.dies[m].plan = s.dies[m].plan ∧ t.dies[m].unloadAtEnd = true))
        ∧ (¬mine → Written s r 3 t))
      ∧ (mine → (∀ m : DieIx, bit x.mask m.val = true → s.tickDue m = false ∧ s.lateDue m = false) → ∀ on : Bool, ∃ t, exec (if on then .flipArm r else .flipDisarm r) s = .next t ∧ Answered t r 0x82 0
          ∧ OnlySessions s { t with dies := s.dies }
          ∧ ∀ m : DieIx, t.dies[m] = if bit x.mask m.val && s.dies[m].reached then { s.dies[m] with flipArm := on } else s.dies[m])
      ∧ (∀ (on : Bool) (m : DieIx), (∃ i : Fin 8, x.mask = 1 <<< i.val ∧ i = m) → mine → s.dies[m].reached = true →
          ∃ t, exec (if on then .flipArm r else .flipDisarm r) s = .next t
            ∧ t.dies[m] = { (s.decided m).dies[m] with flipArm := on })
      ∧ (∃ t, exec (.openHostSession r job) s = .next t
        ∧ (s.hostEnd = none ∨ h.power.state.toNat < 3 → Written s r 8 t)
        ∧ (s.hostEnd ≠ none → 3 ≤ h.power.state.toNat → s.boundElse job x.digest = false → s.jobKey job = some k →
            k.tenant = x.digest → h.dict.hostSes.length < 65534 →
            ∃ n y, Answered t r 0x82 0 ∧ t.dies = s.dies ∧ t.hub.dict.hostSes = h.dict.hostSes ++ [(n, job)]
              ∧ n ≠ 0 ∧ n ≠ 0xFFFF ∧ (∀ z ∈ h.dict.hostSes, z.1 ≠ n) ∧ t.session r.ses = some y ∧ y.host = n))
      ∧ (∃ t, exec (.closeHostSession r num) s = .next t
        ∧ (h.dict.hostSes.find? (fun z => z.1 = num) = none → Written s r 7 t)
        ∧ (∀ z, h.dict.hostSes.find? (fun z => z.1 = num) = some z →
            (z.2 ≠ x.job ∨ s.boundElse z.2 x.digest = true ∨ (∃ y, s.jobKey z.2 = some y ∧ y.tenant ≠ x.digest) → Written s r 3 t)
            ∧ (z.2 = x.job → s.boundElse z.2 x.digest = false → (∀ y, s.jobKey z.2 = some y → y.tenant = x.digest) →
                Written { s with hub := { h with dict := { h.dict with hostSes := h.dict.hostSes.filter (fun y => y.1 ≠ num) } } } r 0 t))))
    ∧ (∃ t, exec .planLoadApply s = .next t
        ∧ (l.st ≠ .checking ∨ l.plan = none → t = s)
        ∧ (l.st = .checking → l.plan = some (p, meas, serial) → LoadApplied p meas serial s t))
    ∧ (s.dies[a.die].reached = false → exec (.imemStandbyWrite a bank addr data) s = .next s)
    ∧ (s.dies[a.die].reached = true → (s.decided a.die).runs a.die = true →
        ∃ t, exec (.imemStandbyWrite a bank addr data) s = .next t ∧ StandbyWritten a bank addr data (s.decided a.die) t)
    ∧ (s.tickDue a.die = false → s.lateDue a.die = false → s.decided a.die = s)

/-! ### Recorder, field port and test access port -/

/-- Derived (R397, R431, R434 to R437, R475): the event engine takes the event that arrived first, one in a µs, gives it the
next number, and places it in the lowest empty slot, or drops it where every record is more severe; below the minimum it
leaves no trace. The operating time is stored every 60 s, and a node number is in force 10 ms after its write. An edge of
TCK moves the test access port alone, by the states of IEEE 1149.1; its capture, shift and update are those of the
instruction in force, and TRST_N selects IDCODE. Where the rules leave a point open, the model's choice: log entries 10,
79, 88 and 124. -/
def Obligations.RecordsAndTestAccess : Prop :=
  ∀ (s : State) (n : DieIx) (e z : Event) (q : List Event) (tms tdi : Bool) (pins : BitVec 12),
    let h := s.hub
    let rec_ := h.rec_
    let k := h.tap
    let u := s.stamped
    let idle : State := { s with hub := { h with rec_ := { rec_ with cut := none, cutMirror := none } } }
    (h.board.rstLow = false → h.board.standby = true →
      (u.firstEvent = none → rec_.queue = [] → exec .eventEngineTake s = .next idle)
      ∧ (s.engineReady = false → exec .eventEngineTake s = .next idle)
      ∧ (s.engineReady = true → u.firstEvent = some (n, e) → rec_.queue = [] →
          ∃ t, exec .eventEngineTake s = .next t ∧ t.ports = s.ports ∧ { t.hub with rec_ := rec_ } = h
            ∧ t.dies[n] = { s.dies[n] with evq := u.dies[n].evq.drop 1 } ∧ (∀ m : DieIx, m ≠ n → t.dies[m] = u.dies[m])
            ∧ e.arr ≠ none
            ∧ t.hub.rec_.takenAt = some s.now ∧ t.hub.rec_.cut = none ∧ t.hub.rec_.cutMirror = none
            ∧ (e.sev < rec_.minSev.toNat → { t.hub.rec_ with takenAt := rec_.takenAt, cut := rec_.cut, cutMirror := rec_.cutMirror } = rec_)
            ∧ (rec_.minSev.toNat ≤ e.sev → t.hub.rec_.seq = rec_.seq + 1
                ∧ ((rec_.slots.map (·.1)).Pairwise (· < ·) → rec_.slots.length < 8192 →
                    ∃ i, i < 8192 ∧ (∀ y ∈ rec_.slots, y.1 ≠ i) ∧ (∀ j, j < i → ∃ y ∈ rec_.slots, y.1 = j)
                      ∧ (i, ⟨rec_.seq + 1, rec_.seq + 1, { e with arr := none }, rec_.optime, rec_.pwr⟩) ∈ t.hub.rec_.slots
                      ∧ (∀ y ∈ rec_.slots, y ∈ t.hub.rec_.slots) ∧ t.hub.rec_.newest = rec_.seq + 1)
                ∧ (8192 ≤ rec_.slots.length → (∀ y ∈ rec_.slots, e.sev < y.2.ev.sev) →
                    t.hub.rec_.slots = rec_.slots ∧ t.hub.rec_.dropped = satAdd rec_.dropped 1)
                ∧ (e.sev < 3 → t.hub.rec_.mirror = rec_.mirror)))
      ∧ (s.engineReady = true → u.firstEvent = none → u.hub.rec_.queue = e :: q →
          ∃ t, exec .eventEngineTake s = .next t ∧ OnlyHub u t ∧ t.hub.rec_.queue = q
            ∧ (rec_.minSev.toNat ≤ e.sev → t.hub.rec_.seq = rec_.seq + 1)
            ∧ (e.sev < rec_.minSev.toNat → t.hub.rec_.seq = rec_.seq ∧ t.hub.rec_.slots = rec_.slots))
      ∧ (s.engineReady = true → u.firstEvent = some (n, e) → u.hub.rec_.queue = z :: q →
          ∃ t, exec .eventEngineTake s = .next t ∧ t.ports = s.ports
            ∧ (z.arr.getD 0 < e.arr.getD 0 → t.dies = u.dies ∧ t.hub.rec_.queue = q)
            ∧ (e.arr.getD 0 ≤ z.arr.getD 0 → t.hub.rec_.queue = z :: q ∧ t.dies[n] = { s.dies[n] with evq := u.dies[n].evq.drop 1 }))
      ∧ (∀ m : DieIx, { u.dies[m] with evq := s.dies[m].evq } = s.dies[m]
          ∧ (s.dies[m].reached = false → u.dies[m].evq = s.dies[m].evq)
          ∧ (s.dies[m].reached = true → u.dies[m].evq = s.dies[m].evq.map (fun y => { y with arr := some (y.arr.getD s.now) }))
          ∧ (∀ y, u.firstEvent = some (m, y) → s.dies[m].reached = true ∧ u.dies[m].evq.head? = some y
              ∧ ∀ o : DieIx, s.dies[o].reached = true → ∀ w, u.dies[o].evq.head? = some w → y.arr.getD 0 ≤ w.arr.getD 0)))
    ∧ (h.fw.running = true → rec_.stored.toNat + 60 ≤ rec_.optime.toNat →
        exec .optimeStore s = .next { s with hub := { h with rec_ := { rec_ with stored := rec_.optime } } })
    ∧ (rec_.optime.toNat < rec_.stored.toNat + 60 → exec .optimeStore s = .next s)
    ∧ (h.board.rstLow = false → h.dict.plcaInForce ≠ h.dict.plcaNode →
        (h.dict.plcaAt ≤ s.now → exec .plcaNodeNumberEffect s
          = .next { s with hub := { h with dict := { h.dict with plcaInForce := h.dict.plcaNode } } })
        ∧ (s.now < h.dict.plcaAt → exec .plcaNodeNumberEffect s = .next s))
    ∧ (h.board.standby = false → exec (.jtagTckEdge tms tdi pins) s = .next s)
    ∧ (h.board.standby = true → (k.st ≠ .shDr ∨ h.dataReg ≠ .priv) →
        ∃ t, exec (.jtagTckEdge tms tdi pins) s = .next t ∧ { t with hub := { t.hub with tap := k }, draws := s.draws } = s
          ∧ t.hub.tap.st = k.st.after tms
          ∧ (k.st = .capDr → k.ir = 0x01 → t.hub.tap.idShift = 0x1B8A0433)
          ∧ (k.st = .capDr → h.dataReg = .bypass → t.hub.tap.byp = false)
          ∧ (k.st = .shDr → k.ir = 0x01 → t.hub.tap.idShift.toNat = k.idShift.toNat / 2 + (if tdi then 2 ^ 31 else 0)
              ∧ (tms = false → t.hub.tap.tdo = k.idShift.toNat.testBit 1))
          ∧ (k.st = .shDr → h.dataReg = .bypass → t.hub.tap.byp = tdi)
          ∧ (k.st = .shDr → (k.ir = 0x00 ∨ k.ir = 0x02) →
              t.hub.tap.bsShift.toNat = k.bsShift.toNat / 2 + (if tdi then 2 ^ 35 else 0))
          ∧ (k.st = .capIr → t.hub.tap.irShift = 1)
          ∧ (k.st = .shIr → t.hub.tap.irShift.toNat = k.irShift.toNat / 2 + (if tdi then 128 else 0))
          ∧ ((k.st = .ex1Ir ∨ k.st = .ex2Ir) → tms = true → t.hub.tap.ir = k.irShift)
          ∧ ((k.st = .ex1Dr ∨ k.st = .ex2Dr) → tms = true → (k.ir = 0x00 ∨ k.ir = 0x02) → t.hub.tap.bsOut = k.bsShift)
          ∧ (k.st.after tms = .reset → t.hub.tap.ir = 0x01))
    ∧ exec .trstNAssert s = .next { s with hub := { h with tap := { k with st := .reset, ir := 0x01 } } }

/-! ### Reset and the power states -/

/-- Derived (the Reset and Default columns of R150, R154, R224, R231, R274, R284, R300, R305, R308, R310, R350 and R376): the
values that the spec gives at reset. -/
def Obligations.ResetValues : Prop :=
  (∀ (n : DieIx) (c : CoreIx),
      let k := State.reset.dies[n].cores[c]
      k.ctl.act = false ∧ k.ctl.sbState = .empty ∧ k.ctl.wrRef = 0 ∧ k.ctl.cap = {} ∧ k.ctl.fault = 0
      ∧ k.hdl.act = false ∧ k.hdl.armP = false ∧ k.hdl.armB = false ∧ k.hdl.loading = false ∧ k.hdl.wrRef = 0 ∧ k.hdl.fault = 0
      ∧ (∀ u : Fin 6, k.st[u].ndone = 0 ∧ k.st[u].fault = 0) ∧ k.sync.fault = 0
      ∧ k.rings.rot = 0xF ∧ k.rings.nout = 0 ∧ k.rings.nkCnt = 0 ∧ k.rings.fault = 0)
  ∧ (∀ n : DieIx,
      let d := State.reset.dies[n]
      d.frm.frun = false ∧ d.frm.fnum = 0 ∧ d.frm.ovr = 0 ∧ d.frm.skip = 0 ∧ d.frm.fault = 0 ∧ d.clock.fwLast = 0
      ∧ d.clock.fwMin = 0x3FF ∧ d.clock.thrDuty = 0 ∧ d.clock.thrMax = 0 ∧ d.plan = none ∧ d.router.fault = 0)
  ∧ (∀ p : PortIx,
      let x := State.reset.ports[p]
      x.link.st = .unused ∧ x.nb = .none_ ∧ x.trnCnt = 0 ∧ x.keyCnt = 0 ∧ x.crcErr = 0 ∧ x.rplCnt = 0 ∧ x.fecCorr = 0
      ∧ x.fecUnc = 0 ∧ x.tagErr = 0 ∧ x.fault = 0 ∧ x.cmd = 0)
  ∧ (let h := State.reset.hub
     h.time.period = 8000 ∧ h.time.inForce = 8000 ∧ h.time.root = false ∧ h.time.align = 0 ∧ h.time.upstream = 0xFF
     ∧ h.time.hops = 0xFF ∧ h.power.request = 4 ∧ h.power.written = 4 ∧ h.power.cap = 3400 ∧ h.dict.plcaNode = 0xFF ∧ h.dict.hostPort = 0xFF
     ∧ h.bring.step = 3 ∧ h.bring.removal = 0 ∧ h.bring.gate = 0 ∧ h.rec_.minSev = 2 ∧ h.fault = 0 ∧ h.sec.fault = 0)
  ∧ State.reset.pending = [] ∧ ModesLegal State.reset

/-- Derived (R304, R361, R446, R451): whatever command runs, and while the block idles, the power state, the state asked
for, the target of a transition, the removal state and the alignment state stay states that the spec names. Where the
rules leave a point open, the model's choice: log entry 62. -/
def Obligations.PowerModesLegal : Prop :=
  ∀ s t : State, ModesLegal s → step s = .next t → ModesLegal t
end

