-- ==== Sys2Proof/Laws/Memory.lean ====
section
/-! SUPPORT. Laws of sparse memories: a read after a write, the canonical form that every write keeps, and the byte order
of multi-byte values. -/

namespace Sys2Proof.Machine

/-! ### One cell -/

theorem Cells.wfFrom_cons {w : Nat} (lo a : Nat) (b : BitVec w) (r : Cells w) :
    Cells.wfFrom lo ((a, b) :: r) = true ↔ lo ≤ a ∧ b ≠ 0 ∧ Cells.wfFrom (a + 1) r = true := by
  simp only [Cells.wfFrom, Bool.and_eq_true, decide_eq_true_eq, bne_iff_ne, and_assoc]

theorem Cells.wfFrom_mono {w : Nat} {a b : Nat} (h : b ≤ a) : ∀ m : Cells w, Cells.wfFrom a m = true → Cells.wfFrom b m = true
  | [], _ => rfl
  | (x, v) :: r, e => by
    rw [Cells.wfFrom_cons] at e ⊢
    exact ⟨h.trans e.1, e.2⟩

/-- Below its least address a canonical memory reads as 0. -/
theorem Cells.get_below {w : Nat} {a x : Nat} (m : Cells w) (h : Cells.wfFrom a m = true) (e : x < a) : Cells.get m x = 0 := by
  cases m with
  | nil => rfl
  | cons c r =>
    obtain ⟨b, v⟩ := c
    rw [Cells.wfFrom_cons] at h
    have : x < b := e.trans_le h.1
    simp [Cells.get, this, this.ne]

theorem Cells.get_put {w : Nat} {a x y : Nat} (v : BitVec w) (r : Cells w) (h : Cells.wfFrom a r = true) (e : x < a) :
    Cells.get (Cells.put x v r) y = if y = x then v else Cells.get r y := by
  unfold Cells.put
  split
  · rename_i z
    by_cases q : y = x
    · subst q; simp [z, Cells.get_below r h e]
    · simp [q]
  · by_cases q : y = x
    · simp [Cells.get, q]
    · by_cases l : y < x
      · simp [Cells.get, q, l, Cells.get_below r h (l.trans e)]
      · simp [Cells.get, q, l]

theorem Cells.wfFrom_put {w : Nat} {lo x : Nat} (v : BitVec w) (r : Cells w) (h : Cells.wfFrom (x + 1) r = true) (l : lo ≤ x) :
    Cells.wfFrom lo (Cells.put x v r) = true := by
  unfold Cells.put
  split
  · exact Cells.wfFrom_mono (by omega) r h
  · rename_i z; exact (Cells.wfFrom_cons ..).2 ⟨l, z, h⟩

theorem Cells.wfFrom_set {w : Nat} (x : Nat) (v : BitVec w) : ∀ (lo : Nat) (m : Cells w), Cells.wfFrom lo m = true → lo ≤ x →
    Cells.wfFrom lo (Cells.set m x v) = true
  | lo, [], _, l => Cells.wfFrom_put v [] rfl l
  | lo, (a, b) :: r, h, l => by
    rw [Cells.wfFrom_cons] at h
    unfold Cells.set
    split
    · exact Cells.wfFrom_put v _ ((Cells.wfFrom_cons ..).2 ⟨by omega, h.2⟩) l
    · split
      · subst_vars; exact Cells.wfFrom_put v r h.2.2 l
      · exact (Cells.wfFrom_cons ..).2 ⟨h.1, h.2.1, Cells.wfFrom_set x v (a + 1) r h.2.2 (by omega)⟩

/-- A write keeps the canonical form. -/
theorem Cells.wf_set {w : Nat} (m : Cells w) (x : Nat) (v : BitVec w) (h : m.wf = true) : (m.set x v).wf = true :=
  Cells.wfFrom_set x v 0 m h (Nat.zero_le _)

/-- A read after a write: the value written there, and every other cell as before. -/
theorem Cells.get_set_from {w : Nat} (x y : Nat) (v : BitVec w) : ∀ (lo : Nat) (m : Cells w), Cells.wfFrom lo m = true →
    Cells.get (Cells.set m x v) y = if y = x then v else Cells.get m y
  | _, [], _ => by
    have := Cells.get_put (a := x + 1) (x := x) (y := y) v [] rfl (by omega)
    simpa [Cells.set] using this
  | lo, (a, b) :: r, h => by
    rw [Cells.wfFrom_cons] at h
    unfold Cells.set
    split
    · exact Cells.get_put (a := x + 1) v _ ((Cells.wfFrom_cons ..).2 ⟨by omega, h.2⟩) (by omega)
    · split
      · subst_vars
        rw [Cells.get_put v r h.2.2 (by omega)]
        by_cases q : y = a
        · simp [q]
        · by_cases l : y < a
          · simp [Cells.get, q, l, Cells.get_below r h.2.2 (by omega : y < a + 1)]
          · simp [Cells.get, q, l]
      · by_cases q : y = a
        · have : y ≠ x := by omega
          simp [Cells.get, q]; omega
        · by_cases l : y < a
          · have : y ≠ x := by omega
            simp [Cells.get, q, l, this]
          · simp [Cells.get, q, l, Cells.get_set_from x y v (a + 1) r h.2.2]

theorem Cells.get_set {w : Nat} (m : Cells w) (x y : Nat) (v : BitVec w) (h : m.wf = true) :
    (m.set x v).get y = if y = x then v else m.get y := Cells.get_set_from x y v 0 m h

/-! ### Runs of cells -/

/-- A write of a run keeps the canonical form. -/
theorem Cells.wf_setN {w : Nat} : ∀ (vs : List (BitVec w)) (m : Cells w) (a : Nat), m.wf = true → (m.setN a vs).wf = true
  | [], _, _, h => h
  | v :: vs, m, a, h => Cells.wf_setN vs (m.set a v) (a + 1) (Cells.wf_set m a v h)

/-- A read after a write of a run. -/
theorem Cells.get_setN {w : Nat} : ∀ (vs : List (BitVec w)) (m : Cells w) (a x : Nat), m.wf = true →
    (m.setN a vs).get x = if a ≤ x ∧ x < a + vs.length then vs.getD (x - a) 0 else m.get x
  | [], m, a, x, _ => by simp [Cells.setN]
  | v :: vs, m, a, x, h => by
    rw [Cells.setN, Cells.get_setN vs _ (a + 1) x (Cells.wf_set m a v h), Cells.get_set m a x v h]
    by_cases e : x = a
    · subst e; simp
    · by_cases l : a + 1 ≤ x ∧ x < a + 1 + vs.length
      · have : a ≤ x ∧ x < a + (v :: vs).length := by simp only [List.length_cons]; omega
        rw [if_pos l, if_pos this, show x - a = (x - (a + 1)) + 1 by omega, List.getD_cons_succ]
      · have : ¬ (a ≤ x ∧ x < a + (v :: vs).length) := by simp only [List.length_cons]; omega
        rw [if_neg l, if_neg this, if_neg e]

@[simp] theorem Cells.getN_length {w : Nat} (m : Cells w) : ∀ (n a : Nat), (m.getN a n).length = n
  | 0, _ => rfl
  | n + 1, a => by simp [Cells.getN, Cells.getN_length m n (a + 1)]

/-- Element i of a run read from an address. -/
theorem Cells.getN_getD {w : Nat} (m : Cells w) : ∀ (n a i : Nat), i < n → (m.getN a n).getD i 0 = m.get (a + i)
  | 0, _, _, h => absurd h (Nat.not_lt_zero _)
  | n + 1, a, 0, _ => by simp [Cells.getN]
  | n + 1, a, i + 1, h => by
    rw [Cells.getN, List.getD_cons_succ, Cells.getN_getD m n (a + 1) i (by omega)]; congr 1; omega

/-- A run reads back as it was written. -/
theorem Cells.getN_setN {w : Nat} (m : Cells w) (a : Nat) (vs : List (BitVec w)) (h : m.wf = true) :
    (m.setN a vs).getN a vs.length = vs := by
  apply List.ext_getElem (by simp)
  intro i h1 h2
  have e := Cells.getN_getD (m.setN a vs) vs.length a i h2
  rw [Cells.get_setN vs m a (a + i) h, if_pos ⟨by omega, by omega⟩] at e
  simp only [Nat.add_sub_cancel_left, List.getD_eq_getElem?_getD, List.getElem?_eq_getElem h1, List.getElem?_eq_getElem h2,
    Option.getD_some] at e
  exact e

/-- Single-cell writes of a list keep the canonical form. -/
theorem Cells.wf_foldl_set {w : Nat} {α : Type} (f : α → Nat) (g : α → BitVec w) : ∀ (l : List α) (m : Cells w), m.wf = true →
    (l.foldl (fun m x => Cells.set m (f x) (g x)) m).wf = true
  | [], _, h => h
  | x :: l, m, h => Cells.wf_foldl_set f g l _ (Cells.wf_set m _ _ h)

/-! ### The memory operations of the block keep the canonical form -/

theorem Core.writeScratch_wf (k : Core) (a : Nat) (bs : Bytes) (mk : Bool) (h : k.scratch.wf = true) :
    (k.writeScratch a bs mk).scratch.wf = true := Cells.wf_setN bs k.scratch a h

theorem Core.applyWrites_wf (k : Core) (ws : List ByteWrite) (h : k.scratch.wf = true) : (k.applyWrites ws).scratch.wf = true :=
  Cells.wf_foldl_set (fun w : ByteWrite => w.a) (fun w => w.v) ws k.scratch h

theorem Vault.writeSector_wf (v : Vault) (sector : Nat) (data : Bytes) (pz : Bool) (h : v.mem.wf = true) :
    (v.writeSector sector data pz).mem.wf = true := Cells.wf_setN data v.mem (64 * sector) h

/-- A sector reads back as it was written (R234). -/
theorem Vault.readSector_writeSector (v : Vault) (sector : Nat) (data : Bytes) (pz : Bool) (h : v.mem.wf = true)
    (l : data.length = 64) : (v.writeSector sector data pz).readSector sector = data := by
  have := Cells.getN_setN v.mem (64 * sector) data h
  rw [l] at this
  exact this

/-- Bytes of the scratchpad outside a write read as before, and those inside as written (R209, R211). -/
theorem Core.writeScratch_get (k : Core) (a : Nat) (bs : Bytes) (mk : Bool) (x : Nat) (h : k.scratch.wf = true) :
    (k.writeScratch a bs mk).scratch.get x = if a ≤ x ∧ x < a + bs.length then bs.getD (x - a) 0 else k.scratch.get x :=
  Cells.get_setN bs k.scratch a x h

/-- Every memory of a core is in canonical form. -/
def Core.memWf (k : Core) : Bool := k.scratch.wf && k.mtx.acc.wf && k.ctl.imem0.wf && k.ctl.imem1.wf && k.vault.mem.wf

/-- At reset every memory of the module is in canonical form. -/
theorem reset_memories_wf : (∀ (n : DieIx) (c : CoreIx), (State.reset.dies[n].cores[c]).memWf = true)
    ∧ State.reset.hub.fw.slotA.wf = true ∧ State.reset.hub.fw.slotB.wf = true ∧ State.reset.hub.dict.load.data.wf = true := by
  refine ⟨fun n c => ?_, rfl, rfl, rfl⟩
  simp [State.reset, Die.init, Core.memWf, Core.init, Ctl.init, Mtx.init, Vault.init, Cells.wf, Cells.wfFrom]

/-! ### Byte order (R6) -/

@[simp] theorem leBytes_length : ∀ n x : Nat, (leBytes n x).length = n
  | 0, _ => rfl
  | n + 1, _ => by simp [leBytes, leBytes_length n]

/-- A number that fits reads back from its little-endian bytes. -/
theorem leNat_leBytes : ∀ n x : Nat, x < 256 ^ n → leNat (leBytes n x) = x
  | 0, x, h => by simp at h; subst h; rfl
  | n + 1, x, h => by
    have : x / 256 < 256 ^ n := by rw [Nat.div_lt_iff_lt_mul (by decide)]; rw [Nat.pow_succ] at h; exact h
    simp only [leBytes, leNat, leNat_leBytes n _ this, BitVec.toNat_ofNat]
    omega

@[simp] theorem slice_length (bs : Bytes) (off n : Nat) : (slice bs off n).length = n := by
  simp only [slice, List.length_append, List.length_take, List.length_drop, List.length_replicate]; omega

end Sys2Proof.Machine
end

