-- ==== Sys2Proof/Laws/State.lean ====
section
/-! SUPPORT. Small laws of the state: reading back what an update wrote, and one lemma per field that an update leaves. -/

namespace Sys2Proof.Machine

/-! ### Vectors -/

@[simp] theorem vupd_get_same {α : Type} {n : Nat} (v : Vector α n) (i : Fin n) (f : α → α) (h : i.val < n) :
    (vupd v i f)[i.val]'h = f (v[i.val]'h) := by simp [vupd]

theorem vupd_get_ne {α : Type} {n : Nat} (v : Vector α n) (i : Fin n) (j : Nat) (f : α → α) (h : j < n) (e : i.val ≠ j) :
    (vupd v i f)[j]'h = v[j]'h := by simp [vupd, Vector.getElem_set_ne, e]

theorem vupd_get {α : Type} {n : Nat} (v : Vector α n) (i j : Fin n) (f : α → α) :
    (vupd v i f)[j] = if j = i then f v[i] else v[j] := by
  by_cases e : j = i
  · subst e; simp
  · have e' : i.val ≠ j.val := fun h => e (Fin.ext h.symm)
    simp [e, vupd_get_ne v i j.val f j.isLt e']

@[simp] theorem vupd_vupd {α : Type} {n : Nat} (v : Vector α n) (i : Fin n) (f g : α → α) :
    vupd (vupd v i f) i g = vupd v i (fun x => g (f x)) := by simp [vupd]

theorem vupd_eq_self {α : Type} {n : Nat} (v : Vector α n) (i : Fin n) (f : α → α) (h : f v[i] = v[i]) : vupd v i f = v := by
  simp only [vupd, h]
  ext j hj
  by_cases e : i.val = j
  · subst e; simp
  · simp

/-! ### What an update writes -/

@[simp] theorem State.modDie_same (s : State) (n : DieIx) (f : Die → Die) : (s.modDie n f).dies[n.val] = f s.dies[n.val] := by
  simp [State.modDie]

theorem State.modDie_other (s : State) (n m : DieIx) (f : Die → Die) (h : m ≠ n) : (s.modDie n f).dies[m] = s.dies[m] := by
  simp only [State.modDie, vupd_get, if_neg h]

@[simp] theorem Die.modCore_same (d : Die) (c : CoreIx) (f : Core → Core) : (d.modCore c f).cores[c.val] = f d.cores[c.val] := by
  simp [Die.modCore]

theorem Die.modCore_other (d : Die) (c x : CoreIx) (f : Core → Core) (h : x ≠ c) : (d.modCore c f).cores[x] = d.cores[x] := by
  simp only [Die.modCore, vupd_get, if_neg h]

@[simp] theorem State.modCore_same (s : State) (a : CoreRef) (f : Core → Core) : (s.modCore a f).core a = f (s.core a) := by
  simp [State.modCore, State.core]

@[simp] theorem State.modPort_same (s : State) (p : PortIx) (f : Port → Port) : (s.modPort p f).ports[p.val] = f s.ports[p.val] := by
  simp [State.modPort]

@[simp] theorem State.modHub_hub (s : State) (f : Hub → Hub) : (s.modHub f).hub = f s.hub := rfl

@[simp] theorem State.modDie_modDie (s : State) (n : DieIx) (f g : Die → Die) :
    (s.modDie n f).modDie n g = s.modDie n (fun d => g (f d)) := by simp [State.modDie]

@[simp] theorem State.modHub_modHub (s : State) (f g : Hub → Hub) :
    (s.modHub f).modHub g = s.modHub (fun h => g (f h)) := rfl

@[simp] theorem Die.modCore_modCore (d : Die) (c : CoreIx) (f g : Core → Core) :
    (d.modCore c f).modCore c g = d.modCore c (fun k => g (f k)) := by simp [Die.modCore]

theorem Die.modCore_self (d : Die) (c : CoreIx) (f : Core → Core) (h : f d.cores[c] = d.cores[c]) : d.modCore c f = d := by
  simp only [Die.modCore, vupd_eq_self _ _ _ h]

theorem State.modDie_self (s : State) (n : DieIx) (f : Die → Die) (h : f s.dies[n] = s.dies[n]) : s.modDie n f = s := by
  simp only [State.modDie, vupd_eq_self _ _ _ h]

/-- A change of a die that agrees with another on the die as it stands is the same change. -/
theorem State.modDie_congr (s : State) (n : DieIx) (f g : Die → Die) (h : f s.dies[n] = g s.dies[n]) :
    s.modDie n f = s.modDie n g := by simp only [State.modDie, vupd, h]

theorem Die.modCore_congr (d : Die) (c : CoreIx) (f g : Core → Core) (h : f d.cores[c] = g d.cores[c]) :
    d.modCore c f = d.modCore c g := by simp only [Die.modCore, vupd, h]

@[simp] theorem Die.drew_draws (d : Die) : d.drew.draws = d.draws + 1 := rfl
@[simp] theorem State.drew_draws (s : State) : s.drew.draws = s.draws + 1 := rfl

/-! ### Registers of the control core -/

@[simp] theorem Ctl.setS_same (k : Ctl) (rd : BitVec 4) (v : U32) : (k.setS rd v).s[rd.toNat]'(BitVec.isLt rd) = v := by
  simp [Ctl.setS]

theorem Ctl.setS_other (k : Ctl) (rd r : BitVec 4) (v : U32) (h : r ≠ rd) : (k.setS rd v).s[r.toFin] = k.s[r.toFin] := by
  have e : rd.toNat ≠ r.toNat := fun e => h (BitVec.eq_of_toNat_eq e.symm)
  simp [Ctl.setS, Vector.getElem_set_ne, e]

/-! ### Fields an update leaves -/

@[simp] theorem State.modDie_ports (s : State) (n : DieIx) (f : Die → Die) : (s.modDie n f).ports = s.ports := rfl
@[simp] theorem State.modDie_hub (s : State) (n : DieIx) (f : Die → Die) : (s.modDie n f).hub = s.hub := rfl
@[simp] theorem State.modDie_draws (s : State) (n : DieIx) (f : Die → Die) : (s.modDie n f).draws = s.draws := rfl
@[simp] theorem State.modDie_pending (s : State) (n : DieIx) (f : Die → Die) : (s.modDie n f).pending = s.pending := rfl

@[simp] theorem State.modCore_ports (s : State) (a : CoreRef) (f : Core → Core) : (s.modCore a f).ports = s.ports := rfl
@[simp] theorem State.modCore_hub (s : State) (a : CoreRef) (f : Core → Core) : (s.modCore a f).hub = s.hub := rfl
@[simp] theorem State.modCore_draws (s : State) (a : CoreRef) (f : Core → Core) : (s.modCore a f).draws = s.draws := rfl
@[simp] theorem State.modCore_pending (s : State) (a : CoreRef) (f : Core → Core) : (s.modCore a f).pending = s.pending := rfl

@[simp] theorem State.modPort_dies (s : State) (p : PortIx) (f : Port → Port) : (s.modPort p f).dies = s.dies := rfl
@[simp] theorem State.modPort_hub (s : State) (p : PortIx) (f : Port → Port) : (s.modPort p f).hub = s.hub := rfl
@[simp] theorem State.modPort_draws (s : State) (p : PortIx) (f : Port → Port) : (s.modPort p f).draws = s.draws := rfl
@[simp] theorem State.modPort_pending (s : State) (p : PortIx) (f : Port → Port) : (s.modPort p f).pending = s.pending := rfl

@[simp] theorem State.modHub_dies (s : State) (f : Hub → Hub) : (s.modHub f).dies = s.dies := rfl
@[simp] theorem State.modHub_ports (s : State) (f : Hub → Hub) : (s.modHub f).ports = s.ports := rfl
@[simp] theorem State.modHub_draws (s : State) (f : Hub → Hub) : (s.modHub f).draws = s.draws := rfl
@[simp] theorem State.modHub_pending (s : State) (f : Hub → Hub) : (s.modHub f).pending = s.pending := rfl

@[simp] theorem State.drew_dies (s : State) : (s.drew).dies = s.dies := rfl
@[simp] theorem State.drew_ports (s : State) : (s.drew).ports = s.ports := rfl
@[simp] theorem State.drew_hub (s : State) : (s.drew).hub = s.hub := rfl
@[simp] theorem State.drew_pending (s : State) : (s.drew).pending = s.pending := rfl

@[simp] theorem Die.modCore_ix (d : Die) (c : CoreIx) (f : Core → Core) : (d.modCore c f).ix = d.ix := rfl
@[simp] theorem Die.modCore_draws (d : Die) (c : CoreIx) (f : Core → Core) : (d.modCore c f).draws = d.draws := rfl
@[simp] theorem Die.modCore_hold (d : Die) (c : CoreIx) (f : Core → Core) : (d.modCore c f).hold = d.hold := rfl
@[simp] theorem Die.modCore_frm (d : Die) (c : CoreIx) (f : Core → Core) : (d.modCore c f).frm = d.frm := rfl
@[simp] theorem Die.modCore_clock (d : Die) (c : CoreIx) (f : Core → Core) : (d.modCore c f).clock = d.clock := rfl
@[simp] theorem Die.modCore_forced (d : Die) (c : CoreIx) (f : Core → Core) : (d.modCore c f).forced = d.forced := rfl
@[simp] theorem Die.modCore_net (d : Die) (c : CoreIx) (f : Core → Core) : (d.modCore c f).net = d.net := rfl
@[simp] theorem Die.modCore_router (d : Die) (c : CoreIx) (f : Core → Core) : (d.modCore c f).router = d.router := rfl
@[simp] theorem Die.modCore_pkg (d : Die) (c : CoreIx) (f : Core → Core) : (d.modCore c f).pkg = d.pkg := rfl
@[simp] theorem Die.modCore_flipArm (d : Die) (c : CoreIx) (f : Core → Core) : (d.modCore c f).flipArm = d.flipArm := rfl
@[simp] theorem Die.modCore_plan (d : Die) (c : CoreIx) (f : Core → Core) : (d.modCore c f).plan = d.plan := rfl
@[simp] theorem Die.modCore_loadAtEnd (d : Die) (c : CoreIx) (f : Core → Core) : (d.modCore c f).loadAtEnd = d.loadAtEnd := rfl
@[simp] theorem Die.modCore_unloadAtEnd (d : Die) (c : CoreIx) (f : Core → Core) : (d.modCore c f).unloadAtEnd = d.unloadAtEnd := rfl
@[simp] theorem Die.modCore_keyReg (d : Die) (c : CoreIx) (f : Core → Core) : (d.modCore c f).keyReg = d.keyReg := rfl
@[simp] theorem Die.modCore_dbl (d : Die) (c : CoreIx) (f : Core → Core) : (d.modCore c f).dbl = d.dbl := rfl
@[simp] theorem Die.modCore_temps (d : Die) (c : CoreIx) (f : Core → Core) : (d.modCore c f).temps = d.temps := rfl
@[simp] theorem Die.modCore_logic (d : Die) (c : CoreIx) (f : Core → Core) : (d.modCore c f).logic = d.logic := rfl
@[simp] theorem Die.modCore_repair (d : Die) (c : CoreIx) (f : Core → Core) : (d.modCore c f).repair = d.repair := rfl
@[simp] theorem Die.modCore_pow (d : Die) (c : CoreIx) (f : Core → Core) : (d.modCore c f).pow = d.pow := rfl
@[simp] theorem Die.modCore_evq (d : Die) (c : CoreIx) (f : Core → Core) : (d.modCore c f).evq = d.evq := rfl
@[simp] theorem Die.modCore_evLost (d : Die) (c : CoreIx) (f : Core → Core) : (d.modCore c f).evLost = d.evLost := rfl
@[simp] theorem Die.modCore_once (d : Die) (c : CoreIx) (f : Core → Core) : (d.modCore c f).once = d.once := rfl
@[simp] theorem Die.modCore_setNow (d : Die) (c : CoreIx) (f : Core → Core) : (d.modCore c f).setNow = d.setNow := rfl

@[simp] theorem Die.drew_ix (d : Die) : (d.drew).ix = d.ix := rfl
@[simp] theorem Die.drew_cores (d : Die) : (d.drew).cores = d.cores := rfl
@[simp] theorem Die.drew_hold (d : Die) : (d.drew).hold = d.hold := rfl
@[simp] theorem Die.drew_frm (d : Die) : (d.drew).frm = d.frm := rfl
@[simp] theorem Die.drew_clock (d : Die) : (d.drew).clock = d.clock := rfl
@[simp] theorem Die.drew_forced (d : Die) : (d.drew).forced = d.forced := rfl
@[simp] theorem Die.drew_net (d : Die) : (d.drew).net = d.net := rfl
@[simp] theorem Die.drew_router (d : Die) : (d.drew).router = d.router := rfl
@[simp] theorem Die.drew_pkg (d : Die) : (d.drew).pkg = d.pkg := rfl
@[simp] theorem Die.drew_flipArm (d : Die) : (d.drew).flipArm = d.flipArm := rfl
@[simp] theorem Die.drew_plan (d : Die) : (d.drew).plan = d.plan := rfl
@[simp] theorem Die.drew_loadAtEnd (d : Die) : (d.drew).loadAtEnd = d.loadAtEnd := rfl
@[simp] theorem Die.drew_unloadAtEnd (d : Die) : (d.drew).unloadAtEnd = d.unloadAtEnd := rfl
@[simp] theorem Die.drew_keyReg (d : Die) : (d.drew).keyReg = d.keyReg := rfl
@[simp] theorem Die.drew_dbl (d : Die) : (d.drew).dbl = d.dbl := rfl
@[simp] theorem Die.drew_temps (d : Die) : (d.drew).temps = d.temps := rfl
@[simp] theorem Die.drew_logic (d : Die) : (d.drew).logic = d.logic := rfl
@[simp] theorem Die.drew_repair (d : Die) : (d.drew).repair = d.repair := rfl
@[simp] theorem Die.drew_pow (d : Die) : (d.drew).pow = d.pow := rfl
@[simp] theorem Die.drew_evq (d : Die) : (d.drew).evq = d.evq := rfl
@[simp] theorem Die.drew_evLost (d : Die) : (d.drew).evLost = d.evLost := rfl
@[simp] theorem Die.drew_once (d : Die) : (d.drew).once = d.once := rfl
@[simp] theorem Die.drew_setNow (d : Die) : (d.drew).setNow = d.setNow := rfl

@[simp] theorem Core.modChan_ctl (k : Core) (j : Fin 16) (f : Chan → Chan) : (k.modChan j f).ctl = k.ctl := rfl
@[simp] theorem Core.modChan_mtx (k : Core) (j : Fin 16) (f : Chan → Chan) : (k.modChan j f).mtx = k.mtx := rfl
@[simp] theorem Core.modChan_vec (k : Core) (j : Fin 16) (f : Chan → Chan) : (k.modChan j f).vec = k.vec := rfl
@[simp] theorem Core.modChan_scratch (k : Core) (j : Fin 16) (f : Chan → Chan) : (k.modChan j f).scratch = k.scratch := rfl
@[simp] theorem Core.modChan_pz (k : Core) (j : Fin 16) (f : Chan → Chan) : (k.modChan j f).pz = k.pz := rfl
@[simp] theorem Core.modChan_hdl (k : Core) (j : Fin 16) (f : Chan → Chan) : (k.modChan j f).hdl = k.hdl := rfl
@[simp] theorem Core.modChan_st (k : Core) (j : Fin 16) (f : Chan → Chan) : (k.modChan j f).st = k.st := rfl
@[simp] theorem Core.modChan_dtag (k : Core) (j : Fin 16) (f : Chan → Chan) : (k.modChan j f).dtag = k.dtag := rfl
@[simp] theorem Core.modChan_sync (k : Core) (j : Fin 16) (f : Chan → Chan) : (k.modChan j f).sync = k.sync := rfl
@[simp] theorem Core.modChan_rings (k : Core) (j : Fin 16) (f : Chan → Chan) : (k.modChan j f).rings = k.rings := rfl
@[simp] theorem Core.modChan_fault (k : Core) (j : Fin 16) (f : Chan → Chan) : (k.modChan j f).fault = k.fault := rfl

@[simp] theorem Ctl.setS_lc (k : Ctl) (rd : BitVec 4) (v : U32) : (k.setS rd v).lc = k.lc := rfl
@[simp] theorem Ctl.setS_cmp (k : Ctl) (rd : BitVec 4) (v : U32) : (k.setS rd v).cmp = k.cmp := rfl
@[simp] theorem Ctl.setS_pc (k : Ctl) (rd : BitVec 4) (v : U32) : (k.setS rd v).pc = k.pc := rfl
@[simp] theorem Ctl.setS_nextChk (k : Ctl) (rd : BitVec 4) (v : U32) : (k.setS rd v).nextChk = k.nextChk := rfl
@[simp] theorem Ctl.setS_ended (k : Ctl) (rd : BitVec 4) (v : U32) : (k.setS rd v).ended = k.ended := rfl
@[simp] theorem Ctl.setS_stopped (k : Ctl) (rd : BitVec 4) (v : U32) : (k.setS rd v).stopped = k.stopped := rfl
@[simp] theorem Ctl.setS_endAt (k : Ctl) (rd : BitVec 4) (v : U32) : (k.setS rd v).endAt = k.endAt := rfl
@[simp] theorem Ctl.setS_failRun (k : Ctl) (rd : BitVec 4) (v : U32) : (k.setS rd v).failRun = k.failRun := rfl
@[simp] theorem Ctl.setS_imem0 (k : Ctl) (rd : BitVec 4) (v : U32) : (k.setS rd v).imem0 = k.imem0 := rfl
@[simp] theorem Ctl.setS_imem1 (k : Ctl) (rd : BitVec 4) (v : U32) : (k.setS rd v).imem1 = k.imem1 := rfl
@[simp] theorem Ctl.setS_act (k : Ctl) (rd : BitVec 4) (v : U32) : (k.setS rd v).act = k.act := rfl
@[simp] theorem Ctl.setS_sbState (k : Ctl) (rd : BitVec 4) (v : U32) : (k.setS rd v).sbState = k.sbState := rfl
@[simp] theorem Ctl.setS_wrRef (k : Ctl) (rd : BitVec 4) (v : U32) : (k.setS rd v).wrRef = k.wrRef := rfl
@[simp] theorem Ctl.setS_cap (k : Ctl) (rd : BitVec 4) (v : U32) : (k.setS rd v).cap = k.cap := rfl
@[simp] theorem Ctl.setS_fault (k : Ctl) (rd : BitVec 4) (v : U32) : (k.setS rd v).fault = k.fault := rfl
@[simp] theorem Ctl.setS_checked (k : Ctl) (rd : BitVec 4) (v : U32) : (k.setS rd v).checked = k.checked := rfl
@[simp] theorem Ctl.setS_ends (k : Ctl) (rd : BitVec 4) (v : U32) : (k.setS rd v).ends = k.ends := rfl

@[simp] theorem Ctl.setLc_s (k : Ctl) (lc : BitVec 3) (v : BitVec 24) : (k.setLc lc v).s = k.s := rfl
@[simp] theorem Ctl.setLc_cmp (k : Ctl) (lc : BitVec 3) (v : BitVec 24) : (k.setLc lc v).cmp = k.cmp := rfl
@[simp] theorem Ctl.setLc_pc (k : Ctl) (lc : BitVec 3) (v : BitVec 24) : (k.setLc lc v).pc = k.pc := rfl
@[simp] theorem Ctl.setLc_nextChk (k : Ctl) (lc : BitVec 3) (v : BitVec 24) : (k.setLc lc v).nextChk = k.nextChk := rfl
@[simp] theorem Ctl.setLc_ended (k : Ctl) (lc : BitVec 3) (v : BitVec 24) : (k.setLc lc v).ended = k.ended := rfl
@[simp] theorem Ctl.setLc_stopped (k : Ctl) (lc : BitVec 3) (v : BitVec 24) : (k.setLc lc v).stopped = k.stopped := rfl
@[simp] theorem Ctl.setLc_endAt (k : Ctl) (lc : BitVec 3) (v : BitVec 24) : (k.setLc lc v).endAt = k.endAt := rfl
@[simp] theorem Ctl.setLc_failRun (k : Ctl) (lc : BitVec 3) (v : BitVec 24) : (k.setLc lc v).failRun = k.failRun := rfl
@[simp] theorem Ctl.setLc_imem0 (k : Ctl) (lc : BitVec 3) (v : BitVec 24) : (k.setLc lc v).imem0 = k.imem0 := rfl
@[simp] theorem Ctl.setLc_imem1 (k : Ctl) (lc : BitVec 3) (v : BitVec 24) : (k.setLc lc v).imem1 = k.imem1 := rfl
@[simp] theorem Ctl.setLc_act (k : Ctl) (lc : BitVec 3) (v : BitVec 24) : (k.setLc lc v).act = k.act := rfl
@[simp] theorem Ctl.setLc_sbState (k : Ctl) (lc : BitVec 3) (v : BitVec 24) : (k.setLc lc v).sbState = k.sbState := rfl
@[simp] theorem Ctl.setLc_wrRef (k : Ctl) (lc : BitVec 3) (v : BitVec 24) : (k.setLc lc v).wrRef = k.wrRef := rfl
@[simp] theorem Ctl.setLc_cap (k : Ctl) (lc : BitVec 3) (v : BitVec 24) : (k.setLc lc v).cap = k.cap := rfl
@[simp] theorem Ctl.setLc_fault (k : Ctl) (lc : BitVec 3) (v : BitVec 24) : (k.setLc lc v).fault = k.fault := rfl
@[simp] theorem Ctl.setLc_checked (k : Ctl) (lc : BitVec 3) (v : BitVec 24) : (k.setLc lc v).checked = k.checked := rfl
@[simp] theorem Ctl.setLc_ends (k : Ctl) (lc : BitVec 3) (v : BitVec 24) : (k.setLc lc v).ends = k.ends := rfl

@[simp] theorem Ctl.setCmp_s (k : Ctl) (c : BitVec 2) (r p : Bool) : (k.setCmp c r p).s = k.s := rfl
@[simp] theorem Ctl.setCmp_lc (k : Ctl) (c : BitVec 2) (r p : Bool) : (k.setCmp c r p).lc = k.lc := rfl
@[simp] theorem Ctl.setCmp_pc (k : Ctl) (c : BitVec 2) (r p : Bool) : (k.setCmp c r p).pc = k.pc := rfl
@[simp] theorem Ctl.setCmp_nextChk (k : Ctl) (c : BitVec 2) (r p : Bool) : (k.setCmp c r p).nextChk = k.nextChk := rfl
@[simp] theorem Ctl.setCmp_ended (k : Ctl) (c : BitVec 2) (r p : Bool) : (k.setCmp c r p).ended = k.ended := rfl
@[simp] theorem Ctl.setCmp_stopped (k : Ctl) (c : BitVec 2) (r p : Bool) : (k.setCmp c r p).stopped = k.stopped := rfl
@[simp] theorem Ctl.setCmp_endAt (k : Ctl) (c : BitVec 2) (r p : Bool) : (k.setCmp c r p).endAt = k.endAt := rfl
@[simp] theorem Ctl.setCmp_failRun (k : Ctl) (c : BitVec 2) (r p : Bool) : (k.setCmp c r p).failRun = k.failRun := rfl
@[simp] theorem Ctl.setCmp_imem0 (k : Ctl) (c : BitVec 2) (r p : Bool) : (k.setCmp c r p).imem0 = k.imem0 := rfl
@[simp] theorem Ctl.setCmp_imem1 (k : Ctl) (c : BitVec 2) (r p : Bool) : (k.setCmp c r p).imem1 = k.imem1 := rfl
@[simp] theorem Ctl.setCmp_act (k : Ctl) (c : BitVec 2) (r p : Bool) : (k.setCmp c r p).act = k.act := rfl
@[simp] theorem Ctl.setCmp_sbState (k : Ctl) (c : BitVec 2) (r p : Bool) : (k.setCmp c r p).sbState = k.sbState := rfl
@[simp] theorem Ctl.setCmp_wrRef (k : Ctl) (c : BitVec 2) (r p : Bool) : (k.setCmp c r p).wrRef = k.wrRef := rfl
@[simp] theorem Ctl.setCmp_cap (k : Ctl) (c : BitVec 2) (r p : Bool) : (k.setCmp c r p).cap = k.cap := rfl
@[simp] theorem Ctl.setCmp_fault (k : Ctl) (c : BitVec 2) (r p : Bool) : (k.setCmp c r p).fault = k.fault := rfl
@[simp] theorem Ctl.setCmp_checked (k : Ctl) (c : BitVec 2) (r p : Bool) : (k.setCmp c r p).checked = k.checked := rfl
@[simp] theorem Ctl.setCmp_ends (k : Ctl) (c : BitVec 2) (r p : Bool) : (k.setCmp c r p).ends = k.ends := rfl

end Sys2Proof.Machine
end

