-- ==== Sys2Proof/Laws/Ops.lean ====
section
/-! SUPPORT. One lemma for each shared operation, which says once everything the operation can do: faults, events,
refusals, requests of the dictionary, and the step itself. -/

namespace Sys2Proof.Machine

/-! ### Events and faults -/

/-- An event of a die changes its queue and the count of lost events alone. -/
theorem Die.enqueue_only (d : Die) (e : Event) : { d.enqueue e with evq := d.evq, evLost := d.evLost } = d := by
  unfold Die.enqueue
  dsimp only
  split <;> rfl

/-- A record raised at most once a frame changes a die's queue, its count of lost events and its list of records alone. -/
theorem Die.eventOnce_only (d : Die) (sev : Nat) (unitk : BitVec 8) (unit : BitVec 16) (rule : Nat) (bit : BitVec 8) (det : Bytes) :
    { d.eventOnce sev unitk unit rule bit det with evq := d.evq, evLost := d.evLost, once := d.once } = d := by
  unfold Die.eventOnce Die.event Die.enqueue
  dsimp only
  split
  · rfl
  · split <;> rfl

/-- A fault bit that is set changes one fault word, and the list of bits set in this cycle. -/
theorem Die.setFault_eq (d : Die) (u : DieUnit) (b : Nat) :
    d.setFault u b
      = { d.modFault (fun w => setBit w b) u with setNow := (u.kind, u.index d.ix 0, b) :: d.setNow } := by
  cases u <;> rfl

/-- A fault of a die sets one bit of one fault word and notes it for its cycle, and may add an event. -/
theorem Die.fault_only (d : Die) (u : DieUnit) (b : FBit) (sub : Nat) :
    { d.fault u b sub with evq := d.evq, evLost := d.evLost, once := d.once, setNow := d.setNow }
      = { d.modFault (fun w => setBit w b.bit) u with evq := d.evq, evLost := d.evLost, once := d.once, setNow := d.setNow } := by
  unfold Die.fault Die.faultRecord
  rw [Die.setFault_eq]
  dsimp only
  split
  · rfl
  · unfold Die.eventOnce Die.event Die.enqueue
    dsimp only
    split
    · rfl
    · split <;> rfl

/-- An event of the hub die changes the recorder's queue alone. -/
@[simp] theorem Hub.event_eq (h : Hub) (sev : Nat) (unitk : BitVec 8) (unit : BitVec 16) (rule : Nat) (bit : BitVec 8) (det : Bytes) :
    { h.event sev unitk unit rule bit det with rec_ := h.rec_ } = h := rfl

/-- An event that is raised once per frame changes the recorder alone. -/
theorem Hub.eventOnce_only (h : Hub) (sev : Nat) (unitk : BitVec 8) (unit : BitVec 16) (rule : Nat) (bit : BitVec 8) (det : Bytes) :
    { h.eventOnce sev unitk unit rule bit det with rec_ := h.rec_ } = h := by
  unfold Hub.eventOnce
  dsimp only
  split <;> rfl

/-- A fault of Marigold sets one bit of its fault word and notes it for its cycle, and may add an event. -/
theorem Hub.mrgFault_only (h : Hub) (b : FBit) (unit : BitVec 16) (det : Option Bytes) :
    { h.mrgFault b unit det with rec_ := h.rec_ } = h.setMrg b := by
  unfold Hub.mrgFault Hub.eventOnce Hub.setMrg
  dsimp only
  split <;> rfl

/-- A security fault sets one bit of the security fault word and notes it for its cycle, and may add an event. -/
theorem Hub.secFault_only (h : Hub) (b : FBit) (det : Option Bytes) :
    { h.secFault b det with rec_ := h.rec_ }
      = { h with sec := { h.sec with fault := setBit h.sec.fault b.bit, setNow := setBit h.sec.setNow b.bit } } := by
  unfold Hub.secFault Hub.eventOnce
  dsimp only
  split <;> rfl

/-! ### Outcomes of the commands -/

/-- A die runs where RST_N is high and its VCORE is on. -/
theorem State.runs_iff (s : State) (n : DieIx) :
    s.runs n = true ↔ s.hub.board.rstLow = false ∧ s.dies[n].pow.vcoreOn = true := by simp [State.runs]

/-- The command of a die that runs is the die's change. -/
theorem onDie_runs {s : State} {n : DieIx} (f : Die → Die) (h : s.runs n = true) : onDie s n f = .next (s.modDie n f) := by
  simp [onDie, h]

/-- The command of a die that does not run changes nothing. -/
theorem onDie_still {s : State} {n : DieIx} (f : Die → Die) (h : s.runs n = false) : onDie s n f = .next s := by
  simp [onDie, h]

/-- A command of the hub die has its effect while RST_N is high. -/
theorem act_runs {s : State} (t : State) (h : s.hub.board.rstLow = false) : act s t = .next t := by simp [act, h]

/-- A command of the hub die changes nothing while RST_N is low. -/
theorem act_held {s : State} (t : State) (h : s.hub.board.rstLow = true) : act s t = .next s := by simp [act, h]

/-! ### Sessions -/

@[simp] theorem State.modSession_dies (s : State) (n : BitVec 16) (f : Session → Session) : (s.modSession n f).dies = s.dies := rfl
@[simp] theorem State.modSession_ports (s : State) (n : BitVec 16) (f : Session → Session) : (s.modSession n f).ports = s.ports := rfl
@[simp] theorem State.modSession_pending (s : State) (n : BitVec 16) (f : Session → Session) :
    (s.modSession n f).pending = s.pending := rfl
@[simp] theorem State.modSession_now (s : State) (n : BitVec 16) (f : Session → Session) : (s.modSession n f).now = s.now := rfl

/-- A session found has the number asked for. -/
theorem State.session_num {s : State} {n : BitVec 16} {x : Session} (h : s.session n = some x) : x.num = n := by
  have := List.find?_some h
  simpa using this

/-- A change of a session that keeps its number is read back from it. -/
theorem State.session_modSession (s : State) (n : BitVec 16) (f : Session → Session) (hf : ∀ y, (f y).num = y.num) (x : Session)
    (h : s.session n = some x) : (s.modSession n f).session n = some (f x) := by
  have key : ∀ l : List Session, l.find? (fun y => y.num = n) = some x →
      (updWhere (fun y => y.num = n) f l).find? (fun y => y.num = n) = some (f x) := by
    intro l
    induction l with
    | nil => intro e; simp at e
    | cons y r ih =>
      intro e
      unfold updWhere at ih ⊢
      by_cases q : y.num = n
      · simp [q] at e; subst e; simp [q, hf]
      · simp [q] at e
        rw [List.map_cons, List.find?_cons_of_neg (by simp [q])]
        exact ih e
  exact key _ h

/-- Everything a request of a session can do: it is not heard or has no session, it is answered again, it is discarded, it
breaks off a segmented write, or it is executed and answered. -/
theorem State.request_cases (s : State) (r : Req) (heard : Bool) (pt : BitVec 8) (name : Response → Response) (cont : Session → Bool)
    (act : State → Session → State × Response) :
    (s.request r heard pt name cont act = s ∧ (heard = false ∨ s.session r.ses = none))
    ∨ ∃ x, heard = true ∧ s.session r.ses = some x
      ∧ ((r.tagOk = true ∧ r.rseq = x.rseq ∧ x.resp.isSome = true
          ∧ s.request r heard pt name cont act = s.modSession r.ses (fun y => { y with lastAt := s.now }))
        ∨ ((r.tagOk = false ∨ r.rseq ≠ x.rseq + 1) ∧ s.request r heard pt name cont act = s.discardReq x)
        ∨ (r.tagOk = true ∧ r.rseq = x.rseq + 1 ∧ x.seg.isSome = true ∧ cont x = false
          ∧ s.request r heard pt name cont act = (s.modSession r.ses (fun y => { y with seg := none })).reply r (name (bare pt 0x0A)))
        ∨ (r.tagOk = true ∧ r.rseq = x.rseq + 1 ∧ (x.seg = none ∨ cont x = true)
          ∧ s.request r heard pt name cont act = (act s x).1.reply r (name (act s x).2))) := by
  unfold State.request
  cases heard
  · exact .inl ⟨rfl, by simp⟩
  · simp only [Bool.not_true, Bool.false_eq_true, if_false]
    cases hx : s.session r.ses with
    | none => exact .inl ⟨rfl, by simp⟩
    | some x =>
      refine .inr ⟨x, by simp, by simp, ?_⟩
      dsimp only
      split
      · rename_i h
        simp only [Bool.and_eq_true, decide_eq_true_eq] at h
        exact .inl ⟨h.1.1, h.1.2, h.2, rfl⟩
      · split
        · rename_i h
          simp only [Bool.or_eq_true, Bool.not_eq_true', decide_eq_true_eq] at h
          exact .inr (.inl ⟨h, rfl⟩)
        · rename_i h
          simp only [Bool.or_eq_true, Bool.not_eq_true', decide_eq_true_eq, not_or, Bool.not_eq_false, not_not] at h
          split
          · rename_i g
            simp only [Bool.and_eq_true, Bool.not_eq_true'] at g
            exact .inr (.inr (.inl ⟨h.1, h.2, g.1, g.2, rfl⟩))
          · rename_i g
            refine .inr (.inr (.inr ⟨h.1, h.2, ?_, rfl⟩))
            cases hs : x.seg <;> cases hc : cont x <;> simp_all

/-! ### The step -/

/-- With a command in front a step is that command's effect on the rest of the queue. -/
theorem step_cons (s : State) (c : Instr) (rest : List Instr) (h : s.pending = c :: rest) :
    step s = exec c { s with pending := rest } := by simp [step, h]

/-- On an empty queue time passes. -/
theorem step_nil (s : State) (h : s.pending = []) : step s = .next (tick s) := by simp [step, h]

end Sys2Proof.Machine
end

