-- ==== Sys2Proof/WellFormed.lean ====
section
/-! DEFINITION. Well-formed commands: the sizes and the uniqueness that the spec's layouts give the operands. No meaning
depends on them; a command that breaks one is no command of this block's environment. Values that the part itself judges
(lengths of dictionary values, reserved fields of a word slot, operands out of range) are not checked here. -/

namespace Sys2Proof

/-- A flit has a body of 224 bytes and a trailer of 16, with at most 14 granules in use (R318). -/
def Flit.wellFormed (f : Flit) : Bool := f.body.length = 224 && f.trailer.length = 16 && decide (f.ng.toNat ≤ 14)

/-- The errors of a sector lie in distinct symbols, and each changes its symbol (R239). -/
def SectorErr.wellFormed (e : SectorErr) : Bool :=
  decide (e.symbols.map (·.1)).Nodup && e.symbols.all (fun x => x.2 ≠ 0)

/-- The far end's part of a key agreement has the sizes of ML-DSA-44, ML-KEM-768 and the certificate of R402 (R415). -/
def PeerHello.wellFormed (h : PeerHello) : Bool :=
  h.identKey.length = 1312 && h.cert.length = 3756 && h.ekey.length = 1184 && h.ekeySig.length = 2420 && h.capsule.length = 1088

/-- A host's message is sealed granule by granule, with a tag of 16 bytes (R277, R321, R414). -/
def HostPacket.wellFormed (p : HostPacket) : Bool := p.cipher.length % 16 = 0 && p.tagBytes.length = 16

/-- The plan of a core names no register, handle, counter, ring or table beyond those of the core, and none twice (R134,
R186, R215, R255, R275). -/
def CorePlan.wellFormed (p : CorePlan) : Bool :=
  decide (p.regs.length ≤ 16) && decide (p.handles.length ≤ 64) && decide ((p.handles2.getD []).length ≤ 64)
  && decide (p.counters.map (·.1)).Nodup && decide (p.rings.map (·.1)).Nodup && decide (p.tables.map (·.1)).Nodup
  && decide (p.program.length ≤ 0x30000)

/-- The plan of a die names each core once (R186). -/
def DiePlan.wellFormed (p : DiePlan) : Bool := decide (p.cores.map (·.1)).Nodup && p.cores.all (·.2.wellFormed)

/-- A plan names each sequence slot and each die once (R25, R186). -/
def ClearPlan.wellFormed (p : ClearPlan) : Bool :=
  decide p.seqSlots.Nodup && decide (p.dies.map (·.1)).Nodup && p.dies.all (·.2.wellFormed)

/-- A standby load names each die once and each of its cores once, with no more handles than a bank holds (R221, R384). -/
def ClearStandby.wellFormed (p : ClearStandby) : Bool :=
  decide (p.dies.map (·.1)).Nodup
  && p.dies.all (fun x => decide (x.2.cores.map (·.1)).Nodup
      && x.2.cores.all (fun y => decide ((y.2.handles.getD []).length ≤ 64) && decide ((y.2.program.getD []).length ≤ 0x30000)))

/-- A command is well formed. -/
def Instr.wellFormed : Instr → Bool
  | .sectorDecode _ _ err | .refreshWindowRound _ _ err | .refreshIntervalRound _ _ err => err.wellFormed
  | .preTickRefresh _ errs | .forcedRefresh _ _ errs => decide (errs.map (·.1)).Nodup && errs.all (·.2.wellFormed)
  | .flitReceive _ f _ _ => f.wellFormed
  | .trainingComplete _ h | .linkKeyRenewal _ h => h.wellFormed
  | .hostPacket p => p.wellFormed
  -- an announcement is a flit body (R344)
  | .announcementReceive _ body => body.length = 224
  -- a key, an enrolment record and a certificate have their fixed sizes (R407 to R409)
  | .sessionOpenRequest _ _ key enrol cert =>
    key.length = 1312 && (enrol.map (·.length)).getD 2464 = 2464 && (cert.map (·.length)).getD 2468 = 2468
  | .sessionProof _ cipher proofSig => cipher.length = 1088 && proofSig.length = 2420
  -- a write of an instruction bank stays inside it (R146)
  | .imemStandbyWrite _ _ addr data => decide (addr.toNat + data.length ≤ 0x30000)
  | .loadEnd _ p => p.wellFormed
  | .standbyEnd _ c => c.wellFormed
  | _ => true

end Sys2Proof
end

