-- ==== Sys2Proof/Tests/Slice0.lean ====
section
/-! SUPPORT. The model's own tests: words written out from the spec's encodings, single steps on small states, an ill-formed
command for each check, and for every obligation with hypotheses a state and operands that meet them. -/

set_option maxRecDepth 20000

namespace Sys2Proof.Tests

open Sys2Proof.Machine

/-! ### States the tests start from -/

/-- Core 0 of die 0. -/
def a0 : CoreRef := ⟨0, 0⟩

/-- The state that a step answers. -/
def next? : Host.Outcome State Fault Refusal → Option State
  | .next t => some t
  | _ => none

/-- A handle entry by the fields of R215: pairing, format, first byte and bytes. -/
def entry (pair : Bool) (fmt base size : Nat) : HandleEntry :=
  BitVec.ofNat 64 (1 + (if pair then 2 else 0) + fmt * 4 + base / 64 * 256 + (size / 64 - 1) * 2 ^ 25)

/-- Core 0 with handle h0 FP32, h1 E4M3, h2 FP32 in a pair, counters 0 and 1 of depth 8, and rings 0 (for hosts) and 1. -/
def kit (k : Core) : Core :=
  { k with
    hdl := { k.hdl with
      bank0 := ((k.hdl.bank0.set 0 (entry false 0 0 0x20000)).set 1 (entry false 3 0x20000 0x8000)).set 2 (entry true 0 0x40000 0x1000)
      run := k.hdl.run.set 2 ⟨true, false, false⟩ }
    sync := { k.sync with ctr := (k.sync.ctr.set 0 { decl := true, depth := 8 }).set 1 { decl := true, depth := 8 } }
    rings := { k.rings with q := (k.rings.q.set 0 { en := true, host := true, qsz := 0, base := 0x20 }).set 1 { en := true } } }

def plan0 : Loaded :=
  { job := 5, meas := [], planSerial := 0, tenant := [], seqSlots := [], frameLen := 1000, theta := 0, allow := 0, lam := 0,
    delta := 0, double := false, offsets := [], boxOrigin := (0, 0, 0), boxSize := (2, 2, 2) }

/-- Die 0 in service with a plan, between frames, in clock cycle 1,000. -/
def ready (d : Die) : Die :=
  { d with
    plan := some plan0
    pow := { d.pow with vcoreOn := true, vcoreMv := 750, lane := true, trained := true, result := .ready }
    clock := { d.clock with clk := 1000, rc := 900, pcyc := 96, tc := 4000, aligned := true }
    frm := { d.frm with nextTick := 4200 } }

/-- The module with core 0 of die 0 kitted out, die 0 between frames. -/
def s0 : State := (State.reset.modDie 0 ready).modCore a0 kit

/-- The same with a frame under way. -/
def s1 : State :=
  (s0.modDie 0 (fun d => { d with frm := { d.frm with frun := true, fnum := 7 } })).modCore a0
    (fun k => { k with ctl := { k.ctl with ended := false, nextChk := 96 } })

/-- s1 with two registers of the core set. -/
def regs (x y : U32) : State :=
  s1.modCore a0 (fun k => { k with ctl := { k.ctl with s := (k.ctl.s.set 2 x).set 3 y } })

/-- Register r after a command. -/
def reg (i : Instr) (s : State) (r : Fin 16) : Option U32 := (next? (exec i s)).map (fun t => (t.core a0).ctl.s[r])

/-! ### The control core -/

theorem test_add_wraps : reg (.add a0 1 2 3) (regs 0xFFFFFFFF 2) 1 = some 1 := by decide
theorem test_sub_borrows : reg (.sub a0 1 2 3) (regs 0 1) 1 = some 0xFFFFFFFF := by decide
theorem test_add_source_is_destination : reg (.add a0 2 2 2) (regs 5 0) 2 = some 10 := by decide
theorem test_shl_uses_five_bits : reg (.shl a0 1 2 3) (regs 3 33) 1 = some 6 := by decide
theorem test_sra_brings_sign_bits : reg (.sra a0 1 2 3) (regs 0x80000000 4) 1 = some 0xF8000000 := by decide
theorem test_shr_brings_zeros : reg (.shr a0 1 2 3) (regs 0x80000000 4) 1 = some 0x08000000 := by decide
theorem test_addi_extends_sign : reg (.addi a0 1 2 0xFFFF) (regs 5 0) 1 = some 4 := by decide
theorem test_ori_extends_zeros : reg (.ori a0 1 2 0xFFFF) (regs 0x10000 0) 1 = some 0x1FFFF := by decide
theorem test_movhi_keeps_low_half : reg (.movhi a0 2 0xABCD) (regs 0x1234 0) 2 = some 0xABCD1234 := by decide
theorem test_rdfn : reg (.rdfn a0 1) s1 1 = some 7 := by decide

theorem test_cmpi_unsigned_and_signed :
    (next? (exec (.cmpi a0 1 2 true 2 0xFFFF) (regs 5 0))).map (fun t => (t.core a0).ctl.cmp[1].result) = some true
    ∧ (next? (exec (.cmpi a0 1 2 false 2 0xFFFF) (regs 5 0))).map (fun t => (t.core a0).ctl.cmp[1].result) = some false := by
  decide

/-! ### Encodings, written out from the tables of chapters 05 and 06 -/

/-- R136, layout I: `op` 0x10, `rd` 1, `ra` 2, reserved 0, `imm` 0xFFFF. -/
theorem test_decode_addi :
    decodeCtl 0b01000000010010001111111111111111 = some ⟨.aluImm .add 1 2 0xFFFF, false⟩ := by decide

/-- R136, layout R: `op` 0x02, `rd` 4, `ra` 5, `rb` 6. -/
theorem test_decode_sub : decodeCtl 0b00001001000101011000000000000000 = some ⟨.alu .sub 4 5 6, false⟩ := by decide

/-- R136, layout BL: `op` 0x33, `lc` 3, `tgt` 0x0010. -/
theorem test_decode_bloop : decodeCtl 0b11001101100000000000000000010000 = some ⟨.bloop 3 16, false⟩ := by decide

/-- R136, layout CI: `op` 0x29, `cmp` 2, `cond` 4, `u` 1, `ra` 7, `imm` 9. -/
theorem test_decode_cmpi :
    decodeCtl 0b10100110100101110000000000001001 = some ⟨.cmpi 2 4 true 7 9, false⟩ := by decide

/-- A reserved bit of an `add` is cause 6, and a reserved opcode cause 0 (R151, R154). -/
theorem test_reserved_ctl :
    ctlCause 0b00000100010010001100000000000001 = some 6 ∧ ctlCause 0b00101000000000000000000000000000 = some 0 := by decide

/-- R163: `mpass` with `amask` 5, `ah` 1, `aoff` 2, `m` 3, `dst` 2, `last`, `fmt_a` 3. -/
theorem test_decode_mpass :
    decodeSlot 1 0b0010010100000100000000000000000000100000001110010001100000000000
      = ⟨.mpass { amask := 5, ah := 1, sah := 0, aoff := 2, m := 3, dst := 2, acc := false, last := true, sw := false,
                  fmtA := 3, sclA := 0, ftz := false }, []⟩ := by decide

/-- R165: `vadd` (0x01) with `vl` 15, `dh` 1, `ah` 2, `bh` 3, `so` 4, `fmt_d` 1, `fmt_s` 2. -/
theorem test_decode_vadd :
    decodeSlot 2 0b0000010000000011110000010000100000110100000100100000000000000000
      = ⟨.elem .vadd { vl := 15, dh := 1, ah := 2, bh := 3, so := 4, fmtD := 1, fmtS := 2, sclD := 0, sclS := 0, rnd := 0,
                       ovf := false, ftz := false, za := false, zb := false, sg := 0 }, []⟩ := by decide

/-- R165: `vsum` (0x10) with `vl` 15, `dh` 1, `ah` 2, `vsd` 5, `vsw`, `so` 4, `fmt_s` 3, `rnd` 1, `sg` 4. -/
theorem test_decode_vsum :
    decodeSlot 3 0b0100000000000011110000010000101011000100000000110000010000010000
      = ⟨.red .vsum { vl := 15, dh := 1, ah := 2, vsd := 5, vsw := true, so := 4, fmtD := 0, fmtS := 3, sclS := 0, rnd := 1,
                      ovf := false, ftz := false, sg := 4 }, []⟩ := by decide

/-- R167: `vtld` (0x1C) with `sh` 2, `so` 3, `t` 1, `arm`; one with bit [0] set has cause 6. -/
theorem test_decode_vtld :
    decodeSlot 2 0b0111000000000000000000000000100000000011011000000000000000000000
      = ⟨.vtld { sh := 2, so := 3, t := 1, arm := true }, []⟩
    ∧ (decodeSlot 2 0x7000000000000001).causes = [6] := by decide

/-- R171: `ldd` with `su` 5, `sh` 2, `so` 3, `sc` 1, `len` 7, `rows` 15, `kind` 1, `sig`, `setv`. -/
theorem test_decode_ldd :
    decodeSlot 4 0b0001101000010000000001100000100000000011100000000111101110000000
      = ⟨.stream .ldd { su := 5, sh := 2, ih := 0, so := 3, sc := 1, len := 7, rows := 15, kind := 1, sig := true, setv := true },
         []⟩ := by decide

/-- R176: `scount` with `su` 1, `sh` 2, `so` 3, `sc` 1, `cnt` 99, `rel` 2, `sig`, `vsd` 6, `fmt` 3. -/
theorem test_decode_scount :
    decodeSlot 4 0b0100001000010000000001100000100000000000000000110001110111000110
      = ⟨.scount { su := 1, sh := 2, so := 3, sc := 1, cnt := 99, rel := 2, sig := true, vsd := 6, fmt := 3 }, []⟩ := by decide

/-- R177: `str` with `su` 4, `sh` 2, `rsc` 9, `so` 3, `len` 7, `rows` 15. -/
theorem test_decode_str :
    decodeSlot 5 0b0010100000010001001001100000000000000011100000000111100000000000
      = ⟨.stream .str { su := 4, sh := 2, ih := 9, so := 3, sc := 0, len := 7, rows := 15, kind := 0, sig := false, setv := false },
         []⟩ := by decide

/-- R180: `msend` with `sh` 2, `so` 3, `q` 1, `len` 5, `ack` 6, `nak` 7, `tag` 0x1234. -/
theorem test_decode_msend :
    decodeSlot 6 0b0001000010001100010000010100011000011100010010001101000000000000
      = ⟨.msend { sh := 2, so := 3, q := 1, len := 5, ack := 6, nak := 7, tag := 0x1234, hd := false }, []⟩ := by decide

/-- R182: `wait` with `sc` 2, `so` 3, `tmo` 1000, `vsd` 4, `vsw`; and a remote `sig` with `n` 255. -/
theorem test_decode_syn :
    decodeSlot 7 0b0011000010001100000000001111101000100100000000000000000000000000
      = ⟨.wait { sc := 2, so := 3, tmo := 1000, vsd := 4, vsw := true }, []⟩
    ∧ decodeSlot 7 0b0001000010001111111111100000000000000000000000000000000000000000
      = ⟨.sig 2 3 true 255, []⟩ := by decide

/-- R128: the check of the empty word with `rep` 255 and with `rep` 0. -/
theorem test_crc : crc8 [0, 0xFF, 0] = 0xFC ∧ crc8 [0, 0, 0] = 0x2B := by decide

/-- R126: the lengths of an empty word, a word of CTL alone, and a full word. -/
theorem test_word_lengths : wordLen 0 = 4 ∧ wordLen 1 = 8 ∧ wordLen 0xFF = 64 := by decide

/-- R125, R129: an empty word with `rep` 255 passes its check, and fails with another check byte. -/
theorem test_fetch :
    (fetchWord [(1, 0xFF), (3, 0xFC)] 0).failed = none ∧ (fetchWord [(1, 0xFF), (3, 0xFD)] 0).failed = some 8 := by decide

/-! ### An ill-formed command for each check of WellFormed -/

def flit0 : Flit :=
  { fk := 1, vl := 0, dl := false, kep := false, ng := 1, lst := true, fseq := 0, fack := 0, cvl := 0, ccl := false, cred := 0,
    hops := 0, dst := 0, job := 0, body := .replicate 224 0, fcrc := 0, trailer := .replicate 16 0, marks := 0, ctr := 0, msg := none }

def hello0 : PeerHello :=
  { lanesLocked := true, identKey := .replicate 1312 0, cert := .replicate 3756 0, ekey := .replicate 1184 0,
    ekeySig := .replicate 2420 0, capsule := .replicate 1088 0 }

def packet0 : HostPacket :=
  { session := 1, dst := 0, q := 0, len := 1, tag := 2, seq := 3, pctr := 4, cipher := .replicate 32 0, tagBytes := .replicate 16 0 }

def core0 : CorePlan :=
  { program := [], regs := [], handles := [], handles2 := none, counters := [], rings := [], tables := [] }

def dies0 (cores : List (Fin 32 × CorePlan)) : List (DieIx × DiePlan) :=
  [(0, { cores := cores, slots := ⟨0, []⟩, lam := 0, delta := 0, double := false, offsets := [] })]

def clear0 : ClearPlan :=
  { seqSlots := [], seed := 0, boxOrigin := (0, 0, 0), boxSize := (2, 2, 2), frameLen := 1000, theta := 0, allow := 0, dies := [] }

def req0 : Req := { ses := 1, rseq := 1, tagOk := true }

theorem test_wf_sector_error :
    Instr.wellFormed (.sectorDecode a0 0 ⟨0, [(1, 2), (1, 3)], 0⟩) = false
    ∧ Instr.wellFormed (.refreshWindowRound 0 0 ⟨0, [(1, 0)], 0⟩) = false
    ∧ Instr.wellFormed (.refreshIntervalRound 0 0 ⟨0, [(1, 2), (1, 3)], 0⟩) = false
    ∧ Instr.wellFormed (.preTickRefresh 0 [(3, ⟨0, [], 0⟩), (3, ⟨1, [], 0⟩)]) = false
    ∧ Instr.wellFormed (.forcedRefresh 0 0 [(3, ⟨0, [(1, 0)], 0⟩)]) = false
    ∧ Instr.wellFormed (.sectorDecode a0 0 ⟨0, [(1, 2), (35, 3)], 0⟩) = true := by decide

theorem test_wf_flit :
    Instr.wellFormed (.flitReceive (.port 0) { flit0 with body := [] } 0 0) = false
    ∧ Instr.wellFormed (.flitReceive (.port 0) { flit0 with trailer := [] } 0 0) = false
    ∧ Instr.wellFormed (.flitReceive (.port 0) { flit0 with ng := 15 } 0 0) = false
    ∧ Instr.wellFormed (.flitReceive (.port 0) { flit0 with ng := 14 } 0 0) = true := by decide

theorem test_wf_hello (p : PortIx) :
    Instr.wellFormed (.trainingComplete (.port p) { hello0 with identKey := [] }) = false
    ∧ Instr.wellFormed (.trainingComplete (.port p) { hello0 with cert := [] }) = false
    ∧ Instr.wellFormed (.linkKeyRenewal p { hello0 with ekey := [] }) = false
    ∧ Instr.wellFormed (.linkKeyRenewal p { hello0 with ekeySig := [] }) = false
    ∧ Instr.wellFormed (.linkKeyRenewal p { hello0 with capsule := [] }) = false
    ∧ Instr.wellFormed (.linkKeyRenewal p hello0) = true := by
  simp [Instr.wellFormed, PeerHello.wellFormed, hello0]

theorem test_wf_host_packet :
    Instr.wellFormed (.hostPacket { packet0 with cipher := [0] }) = false
    ∧ Instr.wellFormed (.hostPacket { packet0 with tagBytes := [] }) = false
    ∧ Instr.wellFormed (.hostPacket packet0) = true := by decide

theorem test_wf_plan :
    Instr.wellFormed (.loadEnd req0 { clear0 with seqSlots := [4, 4] }) = false
    ∧ Instr.wellFormed (.loadEnd req0 { clear0 with dies := dies0 [] ++ dies0 [] }) = false
    ∧ Instr.wellFormed (.loadEnd req0 { clear0 with dies := dies0 [(1, core0), (1, core0)] }) = false
    ∧ Instr.wellFormed (.loadEnd req0 { clear0 with dies := dies0 [(1, { core0 with regs := .replicate 17 0 })] }) = false
    ∧ Instr.wellFormed (.loadEnd req0 { clear0 with dies := dies0 [(1, { core0 with handles := .replicate 65 0 })] }) = false
    ∧ Instr.wellFormed (.loadEnd req0 { clear0 with dies := dies0 [(1, { core0 with handles2 := some (.replicate 65 0) })] }) = false
    ∧ Instr.wellFormed (.loadEnd req0 { clear0 with dies := dies0 [(1, { core0 with counters := [(1, 2), (1, 3)] })] }) = false
    ∧ Instr.wellFormed (.loadEnd req0 { clear0 with dies := dies0 [(1, { core0 with rings := [(1, 2), (1, 3)] })] }) = false
    ∧ Instr.wellFormed (.loadEnd req0 { clear0 with dies := dies0 [(1, { core0 with tables := [(1, []), (1, [])] })] }) = false
    ∧ Instr.wellFormed (.loadEnd req0 { clear0 with dies := dies0 [(1, core0)] }) = true := by decide

theorem test_wf_program_length (bs : Bytes) (h : 0x30000 < bs.length) :
    CorePlan.wellFormed { core0 with program := bs } = false := by
  simp [CorePlan.wellFormed, core0]; omega

theorem test_wf_standby :
    Instr.wellFormed (.standbyEnd req0 ⟨[(1, ⟨none, []⟩), (1, ⟨none, []⟩)]⟩) = false
    ∧ Instr.wellFormed (.standbyEnd req0 ⟨[(1, ⟨none, [(2, ⟨none, none⟩), (2, ⟨none, none⟩)]⟩)]⟩) = false
    ∧ Instr.wellFormed (.standbyEnd req0 ⟨[(1, ⟨none, [(2, ⟨some (.replicate 65 0), none⟩)]⟩)]⟩) = false
    ∧ Instr.wellFormed (.standbyEnd req0 ⟨[(1, ⟨none, [(2, ⟨none, some []⟩)]⟩)]⟩) = true := by decide

theorem test_wf_sizes (key proof : Bytes) (hk : key.length = 1312) :
    Instr.wellFormed (.announcementReceive 0 []) = false
    ∧ Instr.wellFormed (.sessionOpenRequest .fieldPort .tenant [] none none) = false
    ∧ Instr.wellFormed (.sessionOpenRequest .fieldPort .tenant key (some []) none) = false
    ∧ Instr.wellFormed (.sessionOpenRequest .fieldPort .tenant key none (some [])) = false
    ∧ Instr.wellFormed (.sessionOpenRequest .fieldPort .tenant key none none) = true
    ∧ Instr.wellFormed (.sessionProof 0 [] proof) = false
    ∧ Instr.wellFormed (.sessionProof 0 proof []) = false
    ∧ Instr.wellFormed (.imemStandbyWrite a0 true 0x2FFFF [1, 2]) = false
    ∧ Instr.wellFormed (.imemStandbyWrite a0 true 0x2FFFF [1]) = true := by
  simp [Instr.wellFormed, hk]

/-! ### Witnesses: states and operands that meet the hypotheses of each obligation, clause by clause -/

/-- s1 with core 0 of die 0 changed. -/
def onCore (f : Core → Core) : State := s1.modCore a0 f

theorem witness_EveryStepTakesOneCommand :
    step { State.reset with pending := [.cnop a0, .cnop a0] } = .next { State.reset with pending := [.cnop a0] } := rfl

/-- A debug scope that opens the private instructions, with the port in Shift-DR. -/
def jtagState : State :=
  { State.reset with hub := { Hub.init with sec := { Sec.init with scope := 1 }, tap := { Tap.init with st := .shDr, ir := 0x7F } } }

theorem witness_OnlyPrivateJtagStops :
    step { jtagState with pending := [.jtagTckEdge false true 0] } = .refused .privateJtag := rfl

/-- A change of core 0 leaves its die running. -/
theorem onCore_runs (f : Core → Core) : (onCore f).runs a0.die = true := rfl

theorem witness_RegisterOperations : s1.runs a0.die = true := by decide

theorem witness_ImmediateAndLoopOperations : s1.runs a0.die = true ∧ (31 : BitVec 16).toNat < 32 := by decide

theorem witness_LoopBranch :
    (regs 16777215 0).runs a0.die = true ∧ (0xBFFF : BitVec 16).toNat < 0xC000 ∧ ((regs 16777215 0).core a0).ctl.s[2] = 16777215
    ∧ ((onCore (fun k => { k with ctl := { k.ctl with lc := k.ctl.lc.set 1 2 } })).core a0).ctl.lc[1] = 2 := by decide

/-- s1 with comparator 1 and summary registers 1 (U32, poisoned) and 2 (never written) set. -/
def marked : State :=
  onCore (fun k => { k with
    ctl := { k.ctl with cmp := k.ctl.cmp.set 1 ⟨true, true⟩ }
    vec := { k.vec with vs := k.vec.vs.set 1 ⟨9, 2, true⟩ } })

theorem witness_Branches :
    marked.runs a0.die = true ∧ (0xBFFF : BitVec 16).toNat < 0xC000 ∧ (marked.core a0).ctl.cmp[1].poison = true
    ∧ (marked.core a0).ctl.cmp[0].poison = false := by decide

theorem witness_ComparesAndReads :
    marked.runs a0.die = true ∧ (5 : BitVec 3).toNat < 6 ∧ (marked.core a0).vec.vs[1].ty = 2 ∧ (marked.core a0).vec.vs[1].poison = true
    ∧ (marked.core a0).vec.vs[2].ty = 0 ∧ (marked.core a0).vec.vs[2].poison = false := by decide

/-! Word slots outside CTL -/

def wload0 : WloadF := { wh := 1, wsh := 0, woff := 128, fmtW := 3, sclW := 0 }

def mpass0 : MpassF :=
  { amask := 1, ah := 1, sah := 0, aoff := 128, m := 127, dst := 0, acc := false, last := true, sw := false, fmtA := 3,
    sclA := 0, ftz := false }

def tile0 : Tile := { fmt := 3, scl := 0, cols := 128, rows := [], scales := [], poison := false }

def msend0 : MsendF := { sh := 0, so := 0, q := 0, len := 5, ack := 0, nak := 1, tag := 7, hd := false }

def stream0 : StreamF := { su := 0, sh := 0, ih := 0, so := 0, sc := 0, len := 0, rows := 0, kind := 0, sig := true, setv := false }

theorem witness_EmptyAndIllegalSlots :
    s1.runs a0.die = true ∧ slotOf (.wload a0 { wload0 with woff := 129 }) = some (a0, 1, .wload { wload0 with woff := 129 })
    ∧ slotCauses s1 a0 (.wload { wload0 with woff := 129 }) ≠ []
    ∧ slotCauses s1 a0 (.hswap 0) ≠ [] ∧ slotCauses s1 a0 (.stream .ldd { stream0 with su := 6 }) ≠ []
    ∧ slotCauses s1 a0 (.elem .vadd ⟨15, 3, 0, 0, 0, 0, 0, 0, 0, 0, false, false, false, false, 0⟩) ≠ []
    ∧ slotCauses s1 a0 (.msend { msend0 with nak := 0 }) ≠ []
    ∧ 32 ≤ (32 : BitVec 16).toNat ∧ 0xC000 ≤ (0xC000 : BitVec 16).toNat ∧ 6 ≤ (6 : BitVec 3).toNat := by decide

/-- s1 with four sends of the core outstanding. -/
def fourOut : State := onCore (fun k => { k with rings := { k.rings with nout := 4 } })

theorem witness_UnreadySlotsRequestHold :
    fourOut.runs a0.die = true ∧ slotOf (.msend a0 msend0) = some (a0, 6, .msend msend0) ∧ slotCauses fourOut a0 (.msend msend0) = []
    ∧ ¬ Issues fourOut a0 6 (.msend msend0) := by simp only [Issues]; decide

/-- s1 with a complete tile in the shadow. -/
def shadowed : State := onCore (fun k => { k with mtx := { k.mtx with shadow := .complete tile0 } })

/-- s1 with a tile in front. -/
def fronted : State := onCore (fun k => { k with mtx := { k.mtx with front := some tile0 } })

theorem witness_WeightLoadIssues :
    Issues s1 a0 1 (.wload wload0) ∧ (s1.core a0).mtx.shadow = .empty ∧ Issues shadowed a0 1 (.wload wload0)
    ∧ (shadowed.core a0).mtx.shadow ≠ .empty := by simp only [Issues]; decide

theorem witness_PassIssues :
    Issues fronted a0 1 (.mpass mpass0) ∧ (fronted.core a0).mtx.front = some tile0 ∧ bit mpass0.amask 0 = true
    ∧ bit mpass0.amask 3 = false
    ∧ Issues shadowed a0 1 (.mpass { mpass0 with sw := true }) := by simp only [Issues]; decide

/-- A weight load of one column of four bytes, whose bytes are all in. -/
def load0 : TileLoad := { fmt := 3, scl := 0, cols := 1, src := 0, rowBytes := 4, sclSrc := 0, sclBytes := 0, beats := 1 }

def queued : State :=
  onCore (fun k => { k with mtx := { k.mtx with shadow := .complete tile0, queue := some load0 } })

theorem witness_EmptyPass :
    ({ mpass0 with amask := 0 }).amask = 0 ∧ Issues shadowed a0 1 (.mpass { mpass0 with amask := 0, sw := true })
    ∧ Issues queued a0 1 (.mpass { mpass0 with amask := 0, sw := true }) ∧ (queued.core a0).mtx.queue = some load0
    ∧ s1.runs a0.die = true ∧ ({ mpass0 with amask := 0 }).sw = false := by
  simp only [Issues]; decide

def filling : State :=
  onCore (fun k => { k with mtx := { k.mtx with shadow := .filling load0 900 [1, 2, 3, 4] false } })

theorem witness_PassIssues_queued :
    Issues queued a0 1 (.mpass { mpass0 with sw := true }) ∧ (queued.core a0).mtx.shadow.toTile = some tile0
    ∧ (queued.core a0).mtx.queue = some load0 := by simp only [Issues]; decide

/-- A pass of one vector on array 0, all of whose sums are in. -/
def pass0 : Pass :=
  { array := 0, start := 600, src := 0, rowBytes := 128, sclSrc := 0, sclBytes := 0, vecs := 1, cyc := 1, fmt := 3, scl := 0,
    ftz := false, dst := 0, acc := false, last := true, kind := .fp32, tile := tile0, sums := [⟨.replicate 128 5, false, false⟩] }

def passing : State := onCore (fun k => { k with mtx := { k.mtx with passes := [pass0] } })

theorem witness_MatrixWorkCompletes :
    filling.runs a0.die = true ∧ passing.runs a0.die = true ∧ (filling.core a0).mtx.shadow = .filling load0 900 [1, 2, 3, 4] false ∧ [1, 2, 3, 4].length = load0.total
    ∧ 256 * (load0.beats - 1) < [1, 2, 3, 4].length ∧ filling.dies[a0.die].dueRun (900 + load0.beats - 1) = true
    ∧ (passing.core a0).mtx.passes = [pass0] ∧ pass0.sums.length = pass0.vecs ∧ pass0.tile.cols = 128 ∧ pass0.acc = false
    ∧ (∀ x ∈ pass0.sums, x.words.length = 128) ∧ pass0.doneAt ≤ runCycle passing a0
    ∧ passing.dies[a0.die].heldNow = false ∧ Cells.wf (passing.core a0).mtx.acc = true
    ∧ (pass0.sums[0]?.bind (fun x => x.words[127]?)) = some 5 := by decide

/-- The same for a tile of 256 columns, accumulating in both halves, with sums of 5 on INT32 words of 0x7FFFFFFF and of 2. -/
def wide (kind : AccKind) (sum : U32) : Pass :=
  { pass0 with tile := { tile0 with cols := 256 }, dst := 2, acc := true, kind := kind, sums := [⟨.replicate 256 sum, false, false⟩] }

def widely (p : Pass) : State := onCore (fun k => { k with mtx := { k.mtx with passes := [p], acc := [(0, 0x7FFFFFFF), (1, 2)] } })

theorem witness_MatrixWorkCompletes_wide :
    ∀ p ∈ [wide .int32 5, wide .fp32 0x3F800000],
      (widely p).runs a0.die = true ∧ ((widely p).core a0).mtx.passes = [p] ∧ p.sums.length = p.vecs ∧ p.tile.cols = 256 ∧ p.acc = true
      ∧ p.vecs * p.tile.cols ≤ 256 * 128 ∧ (∀ x ∈ p.sums, x.words.length = 256) ∧ p.doneAt ≤ runCycle (widely p) a0
      ∧ (widely p).dies[a0.die].heldNow = false ∧ Cells.wf ((widely p).core a0).mtx.acc = true
      ∧ Cells.get ((widely p).core a0).mtx.acc (accKey p.array.val (p.place 0 0).1 (p.place 0 0).2) = 0x7FFFFFFF := by decide

def elem0 : ElemF := ⟨15, 0, 0, 0, 0, 0, 0, 0, 0, 0, false, false, false, false, 0⟩
def red0 : RedF := ⟨15, 0, 0, 1, true, 0, 0, 0, 0, 0, false, false, 4⟩
def vacc0 : VaccF := ⟨1, 0, true, false, false, 0, false, 0, false, 0, 0, 0, 0, 0, 0, false, false⟩
def vtld0 : VtldF := ⟨0, 0, 1, true⟩

/-- s1 with function table 0 valid and array 0's lower half closed. -/
def vectors : State :=
  onCore (fun k => { k with
    vec := { k.vec with ft := k.vec.ft.set 0 { bank0 := { valid := true } } }
    mtx := { k.mtx with halves := k.mtx.halves.set 0 ⟨.closed, .fp32⟩ } })

theorem witness_VectorOperationsIssue :
    (∀ op ∈ [ElemOp.vadd, .vsub, .vmul, .vfma, .vmin, .vmax, .vclt, .vcle, .vceq, .vsel, .vcvt, .vfn, .vrand],
        Issues vectors a0 2 (.elem op elem0))
    ∧ (∀ op ∈ [RedOp.vsum, .vmaxr, .vargmax, .vsumsq], Issues vectors a0 3 (.red op red0))
    ∧ Issues vectors a0 2 (.vacc vacc0) ∧ Issues vectors a0 3 (.vtld vtld0) := by simp only [Issues]; decide

/-- A vector operation in execution with all 17 beats made by run cycle 900. -/
def run0 (op : SlotOp) : VecRun :=
  { op := op, regs := .replicate 16 0, n := 17, taken := 17, start := 884, frame := 7, d := ⟨0, 0, 1⟩, dScl := ⟨0, 0, 0⟩,
    a := ⟨0, 0, 1⟩, aScl := ⟨0, 0, 0⟩, b := ⟨0, 0, 1⟩, bScl := ⟨0, 0, 0⟩, table := {}, tabBank := false, dst4 := [],
    dst4Blk := [], dst4Row := [], rowA4 := [], inVals := [], raw := [], rawPz := [], lastBeat := none }

def loadingTable : State := onCore (fun k => { k with vec := { k.vec with run1 := some (run0 (.vtld vtld0)) } })

theorem witness_TableLoadCompletes :
    loadingTable.runs a0.die = true ∧ (loadingTable.core a0).vec.run .vec1 = some (run0 (.vtld vtld0)) ∧ (run0 (.vtld vtld0)).op = .vtld vtld0
    ∧ (run0 (.vtld vtld0)).n ≤ (run0 (.vtld vtld0)).taken
    ∧ loadingTable.dies[a0.die].dueRun ((run0 (.vtld vtld0)).start + 16) = true := by decide

def sum0 (rank : Nat) : SummaryWrite :=
  { due := 900, onClk := false, rank := rank, unit := 0, vs := 3, val := 42, ty := 2, poison := true }

def summed (q : List SummaryWrite) : State :=
  onCore (fun k => { k with vec := { k.vec with sumQ := q, releases := [⟨900, 0⟩, ⟨901, 1⟩] } })

theorem witness_VectorWritesLand :
    (∀ q ∈ [[sum0 3], [sum0 3, sum0 4]], (summed q).runs a0.die = true ∧ (summed q).dies[a0.die].heldNow = false)
    ∧ ((summed [sum0 3]).core a0).vec.writes = [] ∧ (sum0 3).onClk = false
    ∧ ((summed [sum0 3]).core a0).vec.sumQ = [sum0 3] ∧ (sum0 3).due ≤ runCycle (summed [sum0 3]) a0
    ∧ ((summed [sum0 3, sum0 4]).core a0).vec.sumQ = [sum0 3, sum0 4] ∧ (sum0 3).rank < (sum0 4).rank := by decide

theorem witness_VectorWritesLand_again :
    let s := (summed [sum0 3]).modCore a0 (fun k => { k with vec := { k.vec with sumNow := [sum0 4] } })
    s.runs a0.die = true ∧ s.dies[a0.die].heldNow = false ∧ (s.core a0).vec.writes = [] ∧ (s.core a0).vec.sumQ = [sum0 3]
    ∧ (s.core a0).vec.sumNow = [sum0 4] ∧ (sum0 4).vs = (sum0 3).vs ∧ (sum0 3).rank < (sum0 4).rank
    ∧ (sum0 3).due ≤ runCycle s a0 := by decide

def result0 : VecWrite := { due := 900, port := .vec0, elems := [⟨⟨0x100, 0, 16⟩, 3, 0x3F800000, false⟩], scale := [] }

def landing : State := onCore (fun k => { k with vec := { k.vec with writes := [result0] } })

theorem witness_VectorResultStored :
    landing.runs a0.die = true ∧ landing.dies[a0.die].heldNow = false ∧ Cells.wf (landing.core a0).scratch = true
    ∧ (landing.core a0).vec.writes = [result0] ∧ (landing.core a0).vec.sumQ = [] ∧ result0.scale = []
    ∧ result0.due ≤ runCycle landing a0 ∧ (∀ e ∈ result0.elems, e.into.fmt = 0 ∧ 0 < e.into.g) := by decide

/-! Streams and own DRAM -/

/-- A descriptor of one row of one sector. -/
def desc0 (op : DescOp) : Desc :=
  { op := op, kind := 0, sp := 0, spStride := 64, dr := 0, drStride := 64, rowBytes := 64, rows := 1, pattern := 0, idxBase := 0,
    cntFirst := 0, cntN := 0, cntFmt := 0, cntRel := 0, cntVsd := 0, cntAcc := 0, cntPz := false, sig := true, sc := 1,
    setv := true, handle := 2, half := true, live := true, dest := 0, rsc := 0, dtag := 0, started := none, offerAt := 0,
    index := [], next := .replicate 16 0, left := 1, done := 0, zeroLeft := 0 }

/-- s1 with descriptors in the places of unit 0 and of unit 1. -/
def streams (xs ys : List Desc) : State :=
  onCore (fun k => { k with st := (k.st.set 0 ⟨xs, 0, false, 0⟩).set 1 ⟨ys, 0, false, 0⟩ })

/-- Register 4 names core 1 of the die. -/
def toCore1 : State := onCore (fun k => { k with ctl := { k.ctl with s := k.ctl.s.set 4 1 } })

def scount0 : ScountF := { su := 5, sh := 0, so := 0, sc := 0, cnt := 15, rel := 0, sig := true, vsd := 7, fmt := 0 }

theorem witness_DescriptorsTakePlaces :
    Issues toCore1 a0 4 (.stream .ldd { stream0 with sh := 2, setv := true }) ∧ Issues toCore1 a0 4 (.stream .sfill stream0)
    ∧ Issues toCore1 a0 4 (.stream .ldd { stream0 with sh := 2, kind := 2, rows := 15 })
    ∧ (toCore1.core a0).buf 2 true ≠ none ∧ (toCore1.core a0).buf 0 ≠ none
    ∧ Issues toCore1 a0 4 (.stream .scopy { stream0 with sh := 2 }) ∧ Issues toCore1 a0 5 (.stream .std { stream0 with su := 5 })
    ∧ Issues toCore1 a0 5 (.stream .str stream0) ∧ Issues toCore1 a0 4 (.scount scount0) := by simp only [Issues]; decide

theorem witness_DescriptorStarts :
    (streams [desc0 .ldd] []).runs a0.die = true
    ∧ ((streams [desc0 .ldd] []).core a0).st[0].places = [desc0 .ldd] ∧ (desc0 .ldd).started = none ∧ (desc0 .ldd).index = []
    ∧ 0 < (desc0 .ldd).rows ∧ (desc0 .ldd).kind ≠ 2
    ∧ ((streams [{ desc0 .ldd with kind := 2 }] []).core a0).st[0].places = [{ desc0 .ldd with kind := 2 }]
    ∧ (streams [{ desc0 .ldd with kind := 2 }] []).dies[a0.die].heldNow = false
    ∧ ((streams [desc0 .ldd] []).core a0).st[0].ended = false
    ∧ (let s := (streams [desc0 .ldd] []).modCore a0 (fun k => { k with st := vupd k.st 0 (fun y => { y with ended := true }) })
       s.runs a0.die = true ∧ (s.core a0).st[0].places = [desc0 .ldd] ∧ (s.core a0).st[0].ended = true) := by decide

/-- The descriptor with nothing left to move. -/
def done0 (live : Bool) : Desc := { desc0 .ldd with started := some 800, left := 0, live := live }

theorem witness_DescriptorCompletes :
    ∀ live : Bool, ((streams [done0 live] []).core a0).unitBeat (done0 live) 900 = ⟨done0 live, [], false, false⟩
      ∧ (streams [done0 live] []).runs a0.die = true ∧ runCycle (streams [done0 live] []) a0 = 900 ∧ (streams [done0 live] []).dies[a0.die].heldNow = false
      ∧ ((streams [done0 live] []).core a0).st[0].places = [done0 live] ∧ (done0 live).finished = true
      ∧ (done0 live).op ≠ .scount ∧ ((streams [done0 live] []).core a0).dueSectors 0 900 = []
      ∧ ((streams [done0 live] []).core a0).hdl.sets = []
      ∧ ((streams [done0 live] []).core a0).vault.writes = [] ∧ (done0 live).setv = true := by
  intro live; cases live <;> exact ⟨rfl, by decide⟩

theorem witness_DescriptorCompletes_held :
    let s := (streams [done0 true] []).modDie 0 (fun d => { d with hold := { d.hold with timed := [⟨8, 990, 1010⟩] } })
    s.runs a0.die = true ∧ s.dies[a0.die].heldNow = true ∧ runCycle s a0 = 899 + 1
      ∧ (s.core a0).unitBeat (done0 true) 899 = ⟨done0 true, [], false, false⟩ ∧ (s.core a0).st[0].places = [done0 true]
      ∧ (s.core a0).dueSectors 0 899 = [] ∧ (s.core a0).vault.writes = [] ∧ (s.core a0).hdl.sets = [] := ⟨by decide, by decide, by decide, rfl, by decide⟩

/-- A descriptor that offers its sector on channel j. -/
def offering (op : DescOp) (j : Nat) : Desc := { desc0 op with started := some 800, dr := 64 * j }

def moving : State :=
  (streams [offering .ldd 9] [offering .std 12]).modCore a0
    (fun k => { k with vault := { k.vault with remote := [⟨15, .replicate 64 7, false, 0, 0, false⟩] } })

/-- The same with sector 9 corrected and waiting in the write-back queue. -/
def movingBack : State := moving.modCore a0 (fun k => k.modChan 9 (fun x => { x with wb := [(9, .replicate 64 3)] }))

theorem witness_WheelServes :
    (∀ j : Fin 16, moving.dies[a0.die].chanClosed a0.core j = false ∧ (moving.core a0).vault.chans[j].servedAt = none)
    ∧ wheelClass moving.dies[a0.die].clock.pcyc 9 = 0 ∧ ((moving.core a0).offer .ldd 9 900).isSome = true
    ∧ wheelClass moving.dies[a0.die].clock.pcyc 12 = 1 ∧ ((moving.core a0).offer .std 12 900).isSome = true
    ∧ wheelClass moving.dies[a0.die].clock.pcyc 15 = 2
    ∧ ((moving.core a0).vault.remote.find? (fun r => chanOf r.sector = 15)).isSome = true
    ∧ (moving.core a0).vault.chans[9].wb.find? (fun q => q.1 = 9) = none ∧ moving.runs a0.die = true
    ∧ (movingBack.core a0).vault.chans[9].wb.find? (fun q => q.1 = 9) = some (9, .replicate 64 3)
    ∧ ((movingBack.core a0).offer .ldd 9 900).isSome = true ∧ movingBack.runs a0.die = true
    ∧ (let s := moving.modCore a0 (fun k => k.modChan 9 (fun x => { x with servedAt := some 1000 }))
       (s.core a0).vault.chans[9].servedAt = some (clockCycle s a0)) := by decide

/-- A sector read in run cycle 884 that awaits its decode on channel 3. -/
def served0 : Served :=
  { unit := 0, chan := 3, at_ := 884, sector := 3, into := 0, data := .replicate 64 0, pz := false, decoded := false, drop := false }

def reading : State := onCore (fun k => { k with vault := { k.vault with served := [served0] } })

theorem witness_SectorDecodes :
    reading.dies[a0.die].toDecode a0.core 3 = some 0 ∧ (reading.core a0).vault.served[0]? = some served0
    ∧ tagOf served0.pz ^^^ 0 = 0 ∧ reading.dies[a0.die].frm.frun = true
    ∧ [errorWeight [], errorWeight [(0, 1)], errorWeight [(0, 1), (35, 2)], errorWeight [(0, 1), (1, 1), (2, 1)],
        errorWeight [(0, 1), (1, 1), (2, 1), (3, 1)]] = [0, 1, 2, 3, 4] := by decide

/-! Words, messages and counters -/

/-- s1 with bytes in the active instruction bank. -/
def program (m : Mem) (pc : BitVec 16) (fails : Nat) : State :=
  onCore (fun k => { k with ctl := { k.ctl with imem0 := m, pc := pc, failRun := fails } })

def wordAt (s : State) : Word := fetchWord (s.core a0).ctl.bank (4 * (s.core a0).ctl.pc.toNat)

/-- `movi` s1, 9 alone in a word. -/
def moviWord : Mem := [(0, 1), (3, crc8 [1, 0, 0, 9, 0, 0x40, 0x44]), (4, 9), (6, 0x40), (7, 0x44)]

theorem witness_WordsAreChecked :
    s1.runs a0.die = true ∧ s1.dies[a0.die].checkDue a0.core = true ∧ s0.runs a0.die = true ∧ s0.dies[a0.die].checkDue a0.core = false
    ∧ (wordAt (program [(1, 0xFF), (3, 0xFC)] 0 0)).failed = none ∧ (wordAt (program [(1, 0xFF), (3, 0xFC)] 0 0)).mask = 0
    ∧ (wordAt (program [] 0xBFFF 7)).failed = some 8 ∧ 4 * 0xBFFF + wordLen (wordAt (program [] 0xBFFF 7)).mask ≤ 0x30000
    ∧ ¬ (4 * 0xBFFF + wordLen (wordAt (program [(0x2FFFC, 1)] 0xBFFF 0)).mask ≤ 0x30000)
    ∧ (wordAt (program moviWord 0 0)).failed = none ∧ (wordAt (program moviWord 0 0)).mask = 1
    ∧ ctlCause (wordAt (program moviWord 0 0)).ctlBits = none
    ∧ decodeCtl (wordAt (program moviWord 0 0)).ctlBits = some ⟨.movi 1 9, false⟩ := by decide

/-- An `msend` that waits, with its hold request. -/
def holding : State :=
  ((onCore (fun k => { k with
      ctl := { k.ctl with checked := [⟨96, 6, .msend msend0, .replicate 16 0, 0⟩] } })).modDie 0
    (fun d => { d with hold := { d.hold with reqs := [⟨96, 0, 6, 3, none⟩, ⟨95, 0, 4, 2, some 7⟩], timed := [⟨8, 990, 999⟩, ⟨9, 990, 1000⟩] } }))

theorem witness_HoldsEnd :
    holding.runs a0.die = true ∧ (6 : Fin 8) ≠ 7 ∧ holding.dies[0].hold.reqs[0]? = some ⟨96, 0, 6, 3, none⟩
    ∧ holding.dies[0].hold.reqs[1]? = some ⟨95, 0, 4, 2, some 7⟩
    ∧ (holding.dies[0].cores[0].ctl.checked.find? (fun x => x.due == 96 && x.slot = 6)).isSome = true := by decide

def send0 : Send := { f := { msend0 with len := 7 }, src := 0, gran := 7, dest := 0, seq := 3, frm := 7, flits := 1, sent := 0 }

def sending : State := onCore (fun k => { k with rings := { k.rings with sends := [send0] } })

theorem witness_MessagesAreSent :
    Issues s1 a0 6 (.msend msend0) ∧ s0.dies[a0.die].frm.frun = false ∧ s0.dies[a0.die].router.outMsgs = []
    ∧ sending.runs a0.die = true ∧ sending.dies[a0.die].frm.frun = true ∧ (sending.core a0).ctl.ended = false ∧ sending.dies[a0.die].heldNow = false
    ∧ (sending.core a0).rings.injAt ≠ some (runCycle sending a0) ∧ (sending.core a0).rings.sends = [send0]
    ∧ sending.dies[a0.die].isLocal send0.dest.toNat = true ∧ desCore send0.dest.toNat = a0.core
    ∧ (∀ u : Fin 6, (sending.core a0).st[u].places = []) ∧ sending.dies[a0.die].router.outMsgs = [] := by
  simp only [Issues]; decide

theorem witness_SyncSlotOperations :
    s1.runs a0.die = true ∧ (s1.core a0).ctl.ends = [] ∧ slotCauses s1 a0 (.sig 0 0 false 255) = [] ∧ slotCauses s1 a0 (.cons 1 0) = [] ∧ slotCauses s1 a0 (.sig 63 0 true 0) = []
    ∧ s1.dies[a0.die].isLocal (opReg s1 a0 0 0).toNat = true ∧ toCore1.dies[a0.die].isLocal (opReg toCore1 a0 4 0).toNat = true
    ∧ slotCauses s1 a0 (.qrp 0 0) = [] ∧ slotCauses s1 a0 (.hswap 2) = [] ∧ slotCauses s1 a0 (.hval 2 true false) = [] := by
  decide

def wait0 : WaitF := { sc := 0, so := 2, tmo := 5, vsd := 6, vsw := true }
def pwait0 : PwaitF := { h := 0, so := 2, tmo := 5, vsd := 6, vsw := true, cond := 0 }
def qsel0 : QselF := { qmask := 3, rot := false, tmo := 5, vsd := 7 }

/-- s1 with a message in ring 1. -/
def visible : State := onCore (fun k => { k with rings := { k.rings with q := k.rings.q.set 1 { en := true, wp := 16 } } })

theorem witness_WaitsBegin :
    s1.runs a0.die = true ∧ slotCauses s1 a0 (.wait wait0) = [] ∧ (opReg s1 a0 2 0).toNat ≤ (s1.core a0).sync.ctr[0].s.toNat
    ∧ slotCauses (regs 1 0) a0 (.wait wait0) = [] ∧ ((regs 1 0).core a0).sync.ctr[0].s.toNat < (opReg (regs 1 0) a0 2 0).toNat
    ∧ slotCauses s1 a0 (.pwait pwait0) = [] ∧ (s1.core a0).buf 0 ≠ none ∧ (s1.core a0).earlier (slotNow s1 a0 7 (.pwait pwait0)) = []
    ∧ ((regs 0 1).core a0).earlier (slotNow (regs 0 1) a0 7 (.pwait pwait0)) = [] ∧ qsel0.rot = false
    ∧ condInt 0 true (BitVec.ofNat 32 (leNat ((s1.core a0).readScratch 0 4))) (opReg s1 a0 2 1) = true
    ∧ slotCauses (regs 0 1) a0 (.pwait pwait0) = []
    ∧ condInt 0 true (BitVec.ofNat 32 (leNat (((regs 0 1).core a0).readScratch 0 4))) (opReg (regs 0 1) a0 2 1) = false
    ∧ slotCauses visible a0 (.qsel qsel0) = [] ∧ (visible.core a0).rings.q[1].waiting = true
    ∧ (visible.core a0).rings.q[0].waiting = false ∧ slotCauses s1 a0 (.qsel qsel0) = []
    ∧ (∀ x : Fin 16, (s1.core a0).rings.q[x].waiting = false) := by decide

/-- Messages in rings 1 and 3, with the rotation after ring 1. -/
def visible2 : State :=
  onCore (fun k => { k with rings := { k.rings with
    q := (k.rings.q.set 1 { en := true, wp := 16 }).set 3 { en := true, base := 1, wp := 16 }, rot := 1 } })

theorem witness_WaitsBegin_rotation :
    let q : QselF := { qsel0 with qmask := 0xA, rot := true }
    visible2.runs a0.die = true ∧ slotCauses visible2 a0 (.qsel q) = [] ∧ (visible2.core a0).rings.q[3].waiting = true
    ∧ (visible2.core a0).rings.q[1].waiting = true
    ∧ ∀ x : Fin 16, (x.val + 15 - (visible2.core a0).rings.rot.toNat) % 16 < (3 + 15 - 1) % 16 → bit q.qmask x.val = true →
        (visible2.core a0).rings.q[x].waiting = false := by decide

def waiting0 (tmo : Nat) : Waiting := { what := .count 0 1, v0 := 1000, tmo := tmo, vsd := 6, vsw := true, due := 96 }

/-- A core whose one wait holds the present plan cycle. -/
def waitingFor (w : Waiting) (f : Core → Core) : State :=
  (onCore (fun k => f { k with sync := { k.sync with waits := [w] } })).modDie 0
    (fun d => { d with hold := { d.hold with reqs := [⟨96, 0, 7, 4, none⟩] } })

def timing (tmo : Nat) : State := waitingFor (waiting0 tmo) id

/-- A reservation whose record of 32 bytes is complete. -/
def resv0 : Resv :=
  { hdr := { ho := false, pz := false, q := 0, len := 1, tag := 7, src := 1, seq := 2, frm := 7 }, start := 0, size := 32,
    wrapAt := none, got := 2, void := false, full := some 999, from_ := none, job := 5 }

/-- Ring 0 open to hosts with that reservation, to be shown in this cycle. -/
def complete : State :=
  onCore (fun k => { k with rings := { k.rings with q := k.rings.q.set 0 { en := true, wres := 32, resv := [resv0] } } })

/-- The wait of a core for ring 0 alone, whose last cycle is the present one. -/
def choosing0 : Waiting := { waiting0 1 with what := .ring 1 false }

def choosing : State :=
  waitingFor choosing0 (fun k => { k with rings := { k.rings with q := k.rings.q.set 0 { en := true, wres := 32, resv := [resv0] } } })

/-- The one wait of a core with nothing on its way to it. -/
def Alone (s : State) (w : Waiting) : Prop :=
  s.runs a0.die = true ∧ (s.core a0).sync.waits = [w] ∧ w.tmo ≠ 0 ∧ (s.core a0).sync.incs = [] ∧ (s.core a0).vault.tally = []
    ∧ (s.core a0).vault.writes = [] ∧ (s.core a0).vec.sumQ = [] ∧ (s.core a0).vec.sumNow = [] ∧ (s.core a0).rings.losses = []

/-- Such a wait at its last cycle, with nothing more to land. -/
def Settled (s : State) (w : Waiting) : Prop :=
  Alone s w ∧ w.v0 + w.tmo - 1 ≤ clockCycle s a0 ∧ s.dies[a0.die].waitSettled a0.core w = true
    ∧ (w.v0 < clockCycle s a0 → (s.core a0).waitMet w.what = false)

/-- A wait for the word at address 0 of handle 0 to equal a register. -/
def waitingWord (ref : U32) (v0 : Nat) : Waiting := { waiting0 1 with what := .word 0 0 0 ref, v0 := v0 }

theorem witness_WaitsTimeOut :
    (∀ tmo ∈ [1, 2], Alone (timing tmo) (waiting0 tmo) ∧ (waiting0 tmo).what = .count 0 1
      ∧ ((timing tmo).core a0).sync.ctr[0].s.toNat < (1 : BitVec 48).toNat ∧ (∀ q : Fin 16, ((timing tmo).core a0).rings.q[q].resv = [])
      ∧ ((waiting0 tmo).v0 + (waiting0 tmo).tmo - 1 ≤ clockCycle (timing tmo) a0 ↔ tmo = 1))
    ∧ (let s := (timing 1).modCore a0 (fun k => { k with sync := { k.sync with ctr := k.sync.ctr.set 0 { s := 1, depth := 8, decl := true } } })
       Alone s (waiting0 1) ∧ (1 : BitVec 48).toNat ≤ (s.core a0).sync.ctr[0].s.toNat) ∧ (waiting0 1).vsw = true := by
  simp only [Alone]; decide

theorem witness_WaitsTimeOut_ring :
    Settled choosing choosing0 ∧ choosing0.what = .ring 1 false
    ∧ (∀ y : Fin 16, bit (1 : BitVec 16) y.val = decide (y = 0)) ∧ (∀ y : Fin 16, y ≠ 0 → (choosing.core a0).rings.q[y].resv = [])
    ∧ (choosing.core a0).rings.q[0].en = true ∧ (choosing.core a0).rings.q[0].resv = [resv0] ∧ resv0.full ≠ none
    ∧ resv0.wrapAt = none ∧ resv0.void = false ∧ resv0.from_ = none
    ∧ (resv0.start + resv0.size) % 2 ^ 32 ≠ ((choosing.core a0).rings.q[0]).rp.toNat := by
  simp only [Settled, Alone]; decide

theorem witness_WaitsTimeOut_word :
    Settled (waitingFor (waitingWord 0 1000) id) (waitingWord 0 1000)
    ∧ (∀ q : Fin 16, ((waitingFor (waitingWord 0 1000) id).core a0).rings.q[q].resv = [])
    ∧ condInt 0 true (BitVec.ofNat 32 (leNat (((waitingFor (waitingWord 0 1000) id).core a0).readScratch 0 4))) 0 = true := by
  simp only [Settled, Alone]; decide

theorem witness_WaitsTimeOut_unmet :
    Settled (waitingFor (waitingWord 7 1000) id) (waitingWord 7 1000)
    ∧ condInt 0 true (BitVec.ofNat 32 (leNat (((waitingFor (waitingWord 7 1000) id).core a0).readScratch 0 4))) 7 = false := by
  simp only [Settled, Alone]; decide

theorem witness_WaitsTimeOut_none :
    Settled (waitingFor choosing0 id) choosing0
    ∧ (∀ q : Fin 16, ((waitingFor choosing0 id).core a0).rings.q[q].resv = [] ∧ ((waitingFor choosing0 id).core a0).rings.q[q].waiting = false) := by
  simp only [Settled, Alone]; decide

/-- Waits that are met as their last cycle starts. -/
theorem witness_WaitsTimeOut_met :
    (let w := { waiting0 1 with what := .count 0 0, v0 := 999 }
     let s := waitingFor w id
     Alone s w ∧ w.v0 + w.tmo - 1 ≤ clockCycle s a0 ∧ w.v0 < clockCycle s a0 ∧ (s.core a0).waitMet w.what = true)
    ∧ (let w := waitingWord 0 999
       let s := waitingFor w id
       Alone s w ∧ w.v0 < clockCycle s a0 ∧ (s.core a0).waitMet w.what = true)
    ∧ (let w : Waiting := { waiting0 1 with what := .ring 3 true, v0 := 999 }
       let s := waitingFor w (fun k => { k with rings := { k.rings with q := k.rings.q.set 1 { en := true, wp := 16 } } })
       Alone s w ∧ w.v0 < clockCycle s a0 ∧ (s.core a0).waitMet w.what = true ∧ (s.core a0).rings.select 3 true = some 1) := by
  simp only [Alone]; decide

/-- s1 with increments due on counter 0, from the core itself and from another of the plan's job. -/
def landingIncs (xs : List (Bool × Nat)) : State :=
  onCore (fun k => { k with sync := { k.sync with
    incs := xs.map (fun (c, n) => { due := 1000, sc := 0, onC := c, amt := n, rem := !c, src := 1, job := 5, ans := none }) } })

theorem witness_IncrementsApplyTogether :
    ∀ xs ∈ [[(false, 8)], [(false, 9)], [(true, 1)], [(false, 2 ^ 48)]],
      (landingIncs xs).dies[a0.die].plan = some plan0 ∧ (landingIncs xs).dies[a0.die].pow.clearing = false
      ∧ (∀ i ∈ ((landingIncs xs).core a0).sync.incs, i.rem = true → i.job = plan0.job)
      ∧ ((landingIncs xs).core a0).sync.ctr[0].decl = true
      ∧ ((landingIncs xs).core a0).sync.incs.filter (fun i => decide (i.sc = 0) && decide (i.due ≤ 1000)) ≠ [] := by decide

/-- A message of this die for ring q, of len granules. -/
def msg0 (q : BitVec 4) (ho : Bool) (len : BitVec 8) : MsgIn :=
  { hdr := { ho := ho, pz := false, q := q, len := len, tag := 7, src := 1, seq := 2, frm := 7 }, from_ := none, job := 5,
    body := [(.replicate 16 1, false)] }

def arriving (m : MsgIn) : State := onCore (fun k => { k with rings := { k.rings with arrive := [.mesh m 0 1] } })

/-- The same with the pointers of ring 0, of 4,096 bytes, set. -/
def pointed (m : MsgIn) (wres rp : U32) : State :=
  (arriving m).modCore a0 (fun k => { k with rings := { k.rings with
    q := k.rings.q.set 0 { en := true, host := true, wp := wres, wres := wres, rp := rp } } })

/-- The bytes of ring 0 from `wres` to its end, and those that are free. -/
def tailOf (s : State) : Nat := let r := (s.core a0).rings.q[0]; ringSize r - r.wres.toNat % ringSize r
def freeOf (s : State) : Nat := let r := (s.core a0).rings.q[0]; ringSize r - (r.wres - r.rp).toNat

theorem witness_MessagesReachRings :
    (∀ m ∈ [msg0 0 true 1, msg0 1 true 1, msg0 2 false 1],
      (arriving m).runs a0.die = true ∧ ((arriving m).core a0).rings.arrive = [.mesh m 0 1] ∧ m.from_ = none
      ∧ ((arriving m).core a0).rings.isAnswered m.hdr.src m.hdr.seq = false ∧ ((arriving m).core a0).rings.markers = []
      ∧ Cells.wf ((arriving m).core a0).scratch = true)
    ∧ (msg0 0 true 1).hdr.size ≤ ringSize (((arriving (msg0 0 true 1)).core a0).rings.q[0])
    ∧ ((s1.core a0).rings.q[2]).en = false ∧ ((s1.core a0).rings.q[1]).host = false
    ∧ ringSize ((s1.core a0).rings.q[0]) < (msg0 0 true 0).hdr.size
    ∧ complete.runs a0.die = true ∧ ((complete.core a0).rings.q[0]).resv = [resv0] ∧ resv0.full ≠ none ∧ resv0.wrapAt = none
    ∧ resv0.void = false := by decide

theorem witness_MessagesReachRings_rows (wres rp : U32) :
    let s := pointed (msg0 0 true 1) wres rp
    s.runs a0.die = true ∧ (s.core a0).rings.arrive = [.mesh (msg0 0 true 1) 0 1] ∧ (s.core a0).rings.markers = []
    ∧ Cells.wf (s.core a0).scratch = true ∧ (s.core a0).rings.q[0].en = true ∧ (s.core a0).rings.q[0].host = true :=
  ⟨rfl, rfl, rfl, rfl, rfl, rfl⟩

theorem witness_MessagesReachRings_rooms :
    let b := (msg0 0 true 1).hdr.size
    (let s := pointed (msg0 0 true 1) 4064 0; b ≤ tailOf s ∧ b ≤ freeOf s)
    ∧ (let s := pointed (msg0 0 true 1) 4080 4080; tailOf s < b ∧ tailOf s + b ≤ freeOf s)
    ∧ (let s := pointed (msg0 0 true 1) 4080 0; freeOf s < b)
    ∧ (let s := pointed (msg0 0 true 1) 4080 16; b ≤ freeOf s ∧ tailOf s < b ∧ freeOf s < tailOf s + b) := by decide

def loss0 : Loss := { due := 1000, ho := false, q := 1, tag := 7, src := 1, seq := 2, from_ := none, job := 5 }
def total0 : StoreTotal := { due := 1000, total := 4, rsc := 1, job := 5 }
def tally0 : Tally := { src := 1, tag := 2, written := 4, total := some total0 }
def remote0 : DramWrite :=
  { due := 1000, onClk := true, unit := 0, sector := 5, data := .replicate 64 9, pz := true, src := 1, tag := 2 }
def segment0 (idle : Nat) : Segment :=
  { core := 0, dtag := 0, dest := 1, off := 0, sectors := [(.replicate 64 1, false)], total := 1, rsc := 0, idleAt := idle }

def remoteWork (idle : Nat) : State :=
  (onCore (fun k => { k with
      rings := { k.rings with losses := [loss0] }
      vault := { k.vault with tally := [tally0], writes := [remote0] } })).modDie 0
    (fun d => { d with router := { d.router with segs := [segment0 idle] } })

theorem witness_RemoteWorkLands :
    (∀ n ∈ [1000, 1001], (remoteWork n).runs a0.die = true) ∧ ((remoteWork 1000).core a0).rings.losses = [loss0] ∧ loss0.due ≤ clockCycle (remoteWork 1000) a0
    ∧ ((remoteWork 1000).core a0).rings.isAnswered loss0.src loss0.seq = false
    ∧ (((remoteWork 1000).core a0).rings.q[loss0.q.toFin]).resv = []
    ∧ ((remoteWork 1000).core a0).vault.tally = [tally0] ∧ tally0.total = some total0 ∧ total0.total ≤ tally0.written
    ∧ total0.due ≤ clockCycle (remoteWork 1000) a0 ∧ ((remoteWork 1000).core a0).sync.incs = []
    ∧ (let y := ((remoteWork 1000).core a0).sync.ctr[fin64 total0.rsc]
       y.decl = true ∧ y.c.toNat ≤ y.s.toNat ∧ y.s.toNat + 1 ≤ y.c.toNat + y.depth.toNat ∧ y.s.toNat + 1 < 2 ^ 48)
    ∧ (remoteWork 1000).dies[a0.die].plan = some plan0 ∧ plan0.job = total0.job
    ∧ (remoteWork 1000).dies[a0.die].pow.clearing = false ∧ ((remoteWork 1000).core a0).vault.remote = []
    ∧ ((remoteWork 1000).core a0).vault.writes = [remote0] ∧ remote0.onClk = true ∧ remote0.due ≤ 1000
    ∧ Cells.wf ((remoteWork 1000).core a0).vault.mem = true ∧ remote0.data.length = 64
    ∧ (remoteWork 1000).dies[a0.die].router.segs = [segment0 1000] ∧ (segment0 1000).core = a0.core
    ∧ (segment0 1000).idleAt ≤ clockCycle (remoteWork 1000) a0
    ∧ (∀ g ∈ (remoteWork 1001).dies[a0.die].router.segs, g.core = a0.core → clockCycle (remoteWork 1001) a0 < g.idleAt) := by
  decide

/-! Frames, clocks and time -/

/-- s0 with the die's counter at tc and ticks fallen. -/
def atTick (tc : Nat) (fallen : List Nat) : State :=
  s0.modDie 0 (fun d => { d with clock := { d.clock with tc := BitVec.ofNat 64 tc }, frm := { d.frm with fallen := fallen } })

theorem witness_TicksOpenFrames :
    (∀ s ∈ [atTick 4203 [], atTick 4202 [], atTick 4199 [3000, 3600]],
      s.hub.time.tc.toNat < s.hub.time.nextTick ∧ s.hub.power.capDue = none ∧ s.dies[0].opens = true ∧ s.dies[0].clock.aligned = true
      ∧ s.planClear 0 = true
      ∧ s.dies[0].outsideRound = false ∧ s.dies[0].frm.frun = false)
    ∧ (atTick 4203 []).dies[0].frm.nextTick + 3 ≤ (atTick 4203 []).dies[0].clock.tc.toNat
    ∧ (atTick 4202 []).dies[0].clock.tc.toNat < (atTick 4202 []).dies[0].frm.nextTick + 3
    ∧ (atTick 4199 [3000, 3600]).dies[0].frm.fallen = [3000] ++ [3600] ∧ [3000] ≠ []
    ∧ (atTick 4199 [3000, 3600]).dies[0].clock.tc.toNat < (atTick 4199 [3000, 3600]).dies[0].frm.nextTick
    ∧ s1.dies[0].frm.frun = true ∧ s1.dies[0].clock.tc.toNat < s1.dies[0].frm.nextTick
    ∧ (let d := (s1.modDie 0 (fun d => { d with clock := { d.clock with tc := 4200 } })).dies[0]
       d.frm.frun = true ∧ d.frm.nextTick ≤ d.clock.tc.toNat) := by decide

/-- A frame whose cores wait, with watchdog and margin at their limits. -/
def watched (run : Nat) (pcyc : Int) : State :=
  (timing 5).modDie 0 (fun d => { d with hold := { d.hold with wd := 5, run := run, margin := 20 }, clock := { d.clock with pcyc := pcyc } })

theorem witness_WatchdogsAbort :
    (∀ s ∈ [watched 5 1016, watched 4 1015], s.runs 0 = true ∧ s.dies[0].unloadAtEnd = false ∧ s.dies[0].pow.passAtEnd = false
      ∧ s.dies[0].frm.frun = true ∧ s.dies[0].plan = some plan0 ∧ s.dies[0].frm.invThis = false
      ∧ s.dies[0].cores[0].sync.waits = [waiting0 5])
    ∧ (watched 5 1016).dies[0].hold.wd ≤ (watched 5 1016).dies[0].hold.run
    ∧ (watched 4 1015).dies[0].hold.run < (watched 4 1015).dies[0].hold.wd
    ∧ (let d := (watched 5 96).dies[0]
       d.hold.wd ≤ d.hold.run ∧ d.cores[0].sync.waits.find? (fun w => w.due = d.clock.pcyc) = some (waiting0 5)
       ∧ ∀ w ∈ d.cores[1].sync.waits, w.due ≠ d.clock.pcyc)
    ∧ (watched 5 96).runs 0 = true
    ∧ plan0.frameLen + (watched 5 1016).dies[0].hold.margin ≤ (watched 5 1016).dies[0].frameLen
    ∧ (watched 4 1015).dies[0].frameLen < plan0.frameLen + (watched 4 1015).dies[0].hold.margin := by decide

/-- s1 with die 0's window count and voltage, and Marigold's record of the die. -/
def window (count mv : Nat) : State :=
  (s1.modDie 0 (fun d => { d with
      clock := { d.clock with fwStart := 3750, fwCount := count, thrNext := 500, thrMax := 499 }, pow := { d.pow with vcoreMv := mv } })).modHub
    (fun h => { h with power := { h.power with raiseDue := h.power.raiseDue.set 0 true, fast := h.power.fast.set 0 1000 } })

theorem witness_ClocksAndVoltage :
    (∀ count ∈ [845, 846, 869, 870, 919, 920], (window count 800).dies[0].fwDue = true)
    ∧ (window 845 800).dies[0].clock.winDone ≠ some (window 845 800).dies[0].window ∧ (window 845 800).dies[0].frm.frun = true
    ∧ s0.dies[0].frm.frun = false ∧ (window 845 800).dies[0].clock.thrMax.toNat < (window 845 800).dies[0].clock.thrNext.toNat
    ∧ (∀ s ∈ [window 845 800, s0], s.runs 0 = true) ∧ s0.dies[0].clock.winDone ≠ some s0.dies[0].window
    ∧ s0.dies[0].clock.thrNext.toNat ≤ s0.dies[0].clock.thrMax.toNat ∧ (window 845 800).dies[0].plan ≠ none
    ∧ (let d := ((window 845 800).modDie 0 (fun d => { d with plan := none })).dies[0]; d.fwDue = true ∧ d.plan = none)
    ∧ 800 ≤ (window 845 800).dies[0].pow.vcoreMv ∧ (window 845 799).dies[0].pow.vcoreMv < 800
    ∧ (window 845 799).hub.power.raiseDue[(0 : DieIx)] = true ∧ (window 845 799).hub.power.raiseAt[(0 : DieIx)] = 0
    ∧ s0.dies[0].pow.lane = true ∧ s1.dies[0].pow.lane = true ∧ s1.dies[0].frm.frun = true := by decide

theorem witness_ClocksAndVoltage_lower :
    1000 ≤ (window 845 (vcoreFloor 0 + 5)).hub.power.fast[(0 : DieIx)]
    ∧ vcoreFloor 0 + 5 ≤ (window 845 (vcoreFloor 0 + 5)).dies[0].pow.vcoreMv := ⟨by decide, Nat.le_refl _⟩

theorem witness_ClocksAndVoltage_off :
    (let s := (window 845 799).modDie 0 (fun d => { d with pow := { d.pow with vcoreOn := false } })
     s.hub.power.raiseDue[(0 : DieIx)] = true ∧ s.dies[0].pow.vcoreOn = false)
    ∧ (window 845 799).dies[0].pow.vcoreOn = true ∧ s0.hub.power.raiseDue[(0 : DieIx)] = false := by decide

/-- The module after reset with port p trained, at wall time now. -/
def porting (p : PortIx) (now : Nat) (f : Port → Port) : State :=
  (State.reset.modPort p (fun x => f { x with link := { x.link with st := .up } })).modHub
    (fun h => { h with time := { h.time with tc := BitVec.ofNat 64 now, wall := now, align := 1 } })

def exchange0 (t1 t2 t3 : Option (BitVec 72)) : Exchange := { tex := 4, t1 := t1, t2 := t2, t3 := t3, bad := false }

theorem witness_TimeExchanges :
    s0.dies[0].pow.vcoreOn = true ∧ s0.dies[0].pow.lane = true ∧ s0.mayStep = false ∧ 64000 < (s0.dieOffset 0).natAbs
    ∧ (let s := s0.modDie 0 (fun d => { d with plan := none })
       s.dies[0].pow.vcoreOn = true ∧ s.dies[0].pow.lane = true ∧ s.mayStep = true ∧ 64000 < (s.dieOffset 0).natAbs)
    ∧ (let s := s0.modDie 0 (fun d => { d with plan := none, clock := { d.clock with tc := 250 } })
       s.mayStep = true ∧ (s.dieOffset 0).natAbs ≤ 64000)
    ∧ (let s := porting 3 15625000 id; s.ports[3].talks = true ∧ s.ports[3].exAt + 15625000 ≤ s.now)
    ∧ (porting 3 0 id).mayStep = true ∧ (exchange0 none none none).bad = false ∧ (porting 3 0 id).ports[3].link.await = false
    ∧ ((porting 3 0 id).modHub (fun h => { h with time := { h.time with upstream := 3 } })).hub.time.upstream.toNat = 3
    ∧ (s0.modHub (fun h => { h with time := { h.time with upstream := 3 } })).mayStep = false
    ∧ 3 ≤ ({ HubTime.init with good := 3 }).good
    ∧ (porting 3 0 id).ports[3].talks = true ∧ (porting 3 0 id).ports[3].exAt = 0
    ∧ (porting 3 0 id).hub.time.upstream.toNat ≠ 3
    ∧ (porting 3 0 (fun x => { x with ex := some (exchange0 none (some 5) none) })).ports[3].ex = some (exchange0 none (some 5) none)
    ∧ (porting 3 0 (fun x => { x with ex := some (exchange0 (some 1) (some 5) (some 9)) })).ports[3].ex
        = some { exchange0 none none none with t1 := some 1, t2 := some 5, t3 := some 9 }
    ∧ (let s := (porting 3 250000000 id).modHub (fun h => { h with time := { h.time with upstream := 3 } })
       s.hub.time.upstream.toNat = 3 ∧ s.hub.time.upstream ≠ 0xFF ∧ s.hub.time.align = 1
       ∧ s.hub.time.lastEx + 250000000 ≤ s.now)
    ∧ (exchangeOffset 0 64000 0 0).natAbs ≤ 64000 ∧ 64000 < (exchangeOffset 0 128002 0 0).natAbs
    ∧ (exchangeOffset 0 2560 0 0).natAbs ≤ 1280 ∧ 1280 < (exchangeOffset 0 2562 0 0).natAbs := by decide

/-- Die 0 not aligned, with its counter at tc and the hub's at zero. -/
def unaligned (tc : Nat) (plan : Option Loaded) : State :=
  s0.modDie 0 (fun d => { d with plan := plan, clock := { d.clock with tc := BitVec.ofNat 64 tc, aligned := false } })

theorem witness_TimeExchanges_aligned :
    ((unaligned 1 none).dieOffset 0).natAbs ≤ 256 ∧ 256 < ((unaligned 2 none).dieOffset 0).natAbs
    ∧ (∀ p ∈ [none, some plan0], let s := unaligned 4000 p
        s.dies[0].clock.aligned = false ∧ 64000 < (s.dieOffset 0).natAbs ∧ s.mayStep = p.isNone) := by decide

/-- Die 0 with a refresh window open on every channel in its present plan cycle, its counter at tc. -/
def refreshing (frun : Bool) (tc : Nat) (f : Chan → Chan) : State :=
  (s1.modDie 0 (fun d => { d with
      plan := some { plan0 with lam := 1, delta := 8 }, frm := { d.frm with frun := frun }
      clock := { d.clock with tc := BitVec.ofNat 64 tc } })).modCore a0
    (fun k => { k with vault := { k.vault with chans := vupd k.vault.chans 3 f } })

theorem witness_DramIsServed :
    chanCore 3 = 0 ∧ chanIn 3 = 3
    ∧ (refreshing true 4000 id).dies[0].dramOn = true ∧ (refreshing true 4000 id).dies[0].windowStart 0 3 = true
    ∧ ((refreshing true 4000 id).dies[0].cores[0].vault.chans[3]).round = none
    ∧ (let s := refreshing false 8000 (fun x => { x with wb := [(3, .replicate 64 1)], scrubAt := 8001 })
       s.dies[0].dramOn = true ∧ s.dies[0].frm.frun = false ∧ s.dies[0].cores[0].vault.chans[3].since + 8000 ≤ 8000
       ∧ s.dies[0].cores[0].vault.chans[3].wb = [(3, .replicate 64 1)] ∧ s.dies[0].clock.tc.toNat < s.dies[0].cores[0].vault.chans[3].scrubAt)
    ∧ (let s := refreshing true 4000 (fun x => { x with round := some ⟨.forced, 3700, 0⟩ })
       s.runs 0 = true ∧ s.dies[0].dramOn = true ∧ s.dies[0].cores[0].vault.chans[3].round = some ⟨.forced, 3700, 0⟩
       ∧ 3700 + 300 ≤ s.dies[0].clock.tc.toNat ∧ s.dies[0].windowStart 0 3 = true)
    ∧ (let s := refreshing false 3875 (fun x => { x with since := 3875 })
       s.dies[0].frm.nextTick ≤ s.dies[0].clock.tc.toNat + 325 ∧ s.dies[0].clock.tc.toNat < s.dies[0].frm.nextTick
       ∧ s.dies[0].dramOn = true ∧ s.dies[0].frm.frun = false ∧ s.dies[0].frm.preDone ≠ some s.dies[0].frm.nextTick
       ∧ ({ s.dies[0] with frm := { s.dies[0].frm with preDone := some 4200 } }).frm.preDone = some s.dies[0].frm.nextTick)
    ∧ (let s := (refreshing true 8000 id).modDie 0 (fun d => { d with plan := some plan0 })
       s.dies[0].forced = none ∧ s.dies[0].windowStart 0 3 = false ∧ s.dies[0].dramOn = true ∧ s.dies[0].frm.frun = true ∧ s.dies[0].cores[0].vault.chans[3].round = none
       ∧ s.dies[0].cores[0].vault.chans[3].since + 8000 ≤ s.dies[0].clock.tc.toNat)
    ∧ (∀ start ∈ [1000, 1001], let s := s1.modDie 0 (fun d => { d with forced := some ⟨start, []⟩ })
       s.dies[0].forced = some ⟨start, []⟩ ∧ s.dies[0].frm.frun = true ∧ (start ≤ s.dies[0].clock.clk ↔ start = 1000))
    ∧ s0.hub.board.rstLow = false ∧ s0.dies[0].pow.vcoreOn = true ∧ (∃ x ∈ [-321, 0, 0, (0 : Int)], x < -320 ∨ 1200 < x)
    ∧ (∀ x ∈ [680, 0, 0, (0 : Int)], -320 ≤ x ∧ x ≤ 1200)
    ∧ (∃ x ∈ [681, 0, 0, (0 : Int)], 680 < x) ∧ (∀ x ∈ [664, 0, 0, (0 : Int)], x ≤ 664)
    ∧ ((∀ x ∈ [680, 0, 0, (0 : Int)], x ≤ 680) ∧ ∃ x ∈ [680, 0, 0, (0 : Int)], 664 < x) ∧ (∃ x ∈ [761, 0, 0, (0 : Int)], 760 < x)
    ∧ (let s := (s0.modDie 0 (fun d => { d with pow := { d.pow with clearing := true } }))
       s.dies[0].pow.clearing = true ∧ s.now < s.dies[0].pow.clearAt + 550000)
    ∧ (let s := (s0.modDie 0 (fun d => { d with pow := { d.pow with clearing := true } })).modHub
          (fun h => { h with time := { h.time with wall := 550000 } })
       s.dies[0].pow.clearAt + 550000 ≤ s.now) := by decide

/-- The window of `refreshing`, in a plan cycle that a hold takes. -/
def heldWindow : State :=
  (refreshing true 4000 id).modDie 0 (fun d => { d with hold := { d.hold with timed := [⟨8, 990, 1010⟩] } })

theorem witness_DramIsServed_executes :
    ((refreshing true 4000 id).cycleStart 0).dies[0].executes = true ∧ (heldWindow.cycleStart 0).dies[0].executes = false
    ∧ heldWindow.dies[0].windowStart 0 3 = false := by decide +kernel

theorem witness_DramIsServed_fraction :
    (∀ frac ∈ [0, 7], let s := refreshing true 4000 (fun x => { x with round := some ⟨.window, 3700, frac⟩ })
      s.runs 0 = true ∧ s.dies[0].cores[0].vault.chans[3].round = some ⟨.window, 3700, frac⟩ ∧ s.dies[0].clock.tc.toNat = 3700 + 300
      ∧ s.dies[0].clock.tcFrac = 0)
    ∧ (refreshing true 3999 (fun x => { x with round := some ⟨.window, 3700, 0⟩ })).dies[0].clock.tc.toNat < 3700 + 300 := by decide

/-! Links and the torus -/

/-- A flit with its check word. -/
def checked (f : Flit) : Flit := { f with fcrc := flitCrc f }

/-- s1 with the package end of die 0 on the x axis changed. -/
def package (f : Link → Link) : State := s1.modLink (.pkg 0 0) f

theorem witness_FlitsAreChecked :
    (s1.link (.port 0)).trained = false ∧ ((porting 0 0 id).link (.port 0)).trained = true ∧ flitCrc flit0 ≠ flit0.fcrc
    ∧ flitCrc (checked flit0) = (checked flit0).fcrc ∧ (checked flit0).fk ≠ 0 ∧ (checked flit0).fk ≠ 4
    ∧ (let l := (package (fun l => { l with st := .up, replay := [flit0, { flit0 with fseq := 1 }] })).link (.pkg 0 0)
       l.trained = true ∧ l.enc = false ∧ l.replay = [] ++ flit0 :: [{ flit0 with fseq := 1 }] ∧ flit0.fseq = (checked flit0).fack
       ∧ (checked flit0).fseq = l.expect)
    ∧ (let l := (package (fun l => { l with st := .up, expect := 0xFFF })).link (.pkg 0 0)
       (checked flit0).fseq ≠ l.expect ∧ ∀ y ∈ l.replay, y.fseq ≠ (checked flit0).fack)
    ∧ (∀ fails ∈ [[0, 1, 2, 3], [2, 3]], let s := porting 0 250000000 (fun x => { x with
          link := { x.link with enc := true, inCtr := 1 }, tagFails := fails })
       (s.link (.port 0)).trained = true ∧ (s.link (.port 0)).openFlit (checked flit0) = none ∧ (s.link (.port 0)).await = false
       ∧ (3 ≤ (s.ports[0].tagFails.filter (fun x => decide (s.now < x + 250000000))).length ↔ fails.length = 4))
    ∧ (let s := porting 0 0 (fun x => { x with link := { x.link with enc := true, inCtr := 1, await := true } })
       (s.link (.port 0)).await = true ∧ s.now < (s.link (.port 0)).reqAt + 250) := by decide +kernel

theorem witness_LinkEndsReplayAndFail :
    (∀ stuck ∈ [15, 16], let s := porting 0 2500 (fun x => { x with link := { x.link with replay := [flit0], stuck := stuck } })
      (s.link (.port 0)).trained = true ∧ (∃ f ∈ (s.link (.port 0)).replay, f.fseq = 0)
      ∧ (s.link (.port 0)).replay ≠ [] ∧ ((s.link (.port 0)).times).headD 0 + 2500 ≤ s.now)
    ∧ (let l := (porting 0 0 (fun x => { x with link := { x.link with enc := true, txCtr := 2 ^ 32 } })).link (.port 0)
       l.trained = true ∧ l.enc = true ∧ 2 ^ 32 ≤ l.txCtr)
    ∧ (s1.link (.pkg 0 0)).trained = false := by decide

theorem witness_LinkEndsReplayAndFail_upstream :
    let s := (porting 3 0 id).modHub (fun h => { h with fw := { h.fw with running := true }, time := { h.time with upstream := 3, hops := 2 } })
    s.hub.fw.running = true ∧ s.hub.time.root = false ∧ s.hub.time.upstream.toNat = 3 ∧ (s.link (.port 3)).trained = true
    ∧ ∀ q : PortIx, q ≠ 3 → s.ports[q].nb = .none_ := by decide

/-- A port Down of a module in step 6 of bring-up, four dies wide, its rails good. -/
def downPort (st : LinkState) : State :=
  (State.reset.modPort 3 (fun x => { x with link := { x.link with st := st } })).modHub
    (fun h => { h with
      power := { h.power with rails := (h.power.rails.set 10 { good := true }).set 11 { good := true } }
      bring := { h.bring with step := 6 }, dict := { h.dict with size := 0x00040404 } })

theorem witness_LinkEndsTrain :
    ((downPort .down).link (.port 3)).st = .down ∧ ((downPort .down).link (.port 3)).retryAt ≤ (downPort .down).now
    ∧ 6 ≤ (downPort .down).hub.bring.step.toNat ∧ (downPort .down).endUsed (.port 3) = true
    ∧ (downPort .down).endHeld (.port 3) = false ∧ (downPort .down).hub.sec.puffed = false
    ∧ (let s := (package (fun l => { l with st := .down })).modDie 1 (fun d => { d with pow := { d.pow with vcoreOn := true } })
       let s := s.modHub (fun h => { h with bring := { h.bring with step := 10 } })
       (s.link (.pkg 0 0)).st = .down ∧ s.endHeld (.pkg 0 0) = false ∧ s.endUsed (.pkg 0 0) = true
       ∧ (s.link (.pkg 0 0)).retryAt ≤ s.now ∧ 6 ≤ s.hub.bring.step.toNat)
    ∧ ((downPort .training).link (.port 3)).st = .training
    ∧ ((package (fun l => { l with st := .training })).link (.pkg 0 0)).st = .training
    ∧ (downPort .training).hub.dict.hostPort.toNat ≠ 3
    ∧ ((downPort .training).modHub (fun h => { h with dict := { h.dict with hostPort := 3 } })).hub.dict.hostPort.toNat = 3
    ∧ (let l := (porting 3 0 (fun x => { x with link := { x.link with enc := true, txCtr := 2 ^ 31 } })).ports[3].link
       l.enc = true ∧ l.trained = true ∧ 2 ^ 31 ≤ l.txCtr)
    ∧ (let l := (porting 3 0 (fun x => { x with link := { x.link with enc := true, rxCtr := 2 ^ 31 } })).ports[3].link
       l.enc = true ∧ l.trained = true ∧ 2 ^ 31 ≤ l.rxCtr) := by decide

theorem witness_LinkEndsTrain_puffed :
    let s := (downPort .training).modHub (fun h => { h with sec := { h.sec with puffed := true } })
    s.ports[3].link.st = .training ∧ hello0.lanesLocked = true ∧ s.hub.sec.puffed = true := by decide

/-- Both sides of the far end's checks: a certificate of the wrong length fails them whatever the algorithms answer, and a far
end passes them where they answer so (the algorithms of R400 to R402 are uninterpreted). -/
theorem witness_LinkEndsTrain_peer :
    hello0.lanesLocked = true ∧ ({ hello0 with lanesLocked := false } : PeerHello).lanesLocked = false
    ∧ (downPort .training).peerOk 3 { hello0 with cert := [] } = false
    ∧ ∀ h : PeerHello, certOk h.identKey h.cert = true → Config.dsaVerify h.identKey "YZB8 link" h.ekey h.ekeySig = true →
        Config.sha3 h.identKey ≠ Config.sha3 (downPort .training).hub.sec.idKey → (downPort .training).peerOk 3 h = true := by
  refine ⟨rfl, rfl, by simp [State.peerOk, certOk], fun h h1 h2 h3 => ?_⟩
  simp [State.peerOk, h1, h2, h3]
  exact .inl (by decide)

/-- An announcement body of a module at base 2, 0, 0 in a torus of four dies a side, as port 0 sees it from port 3. -/
def announce (port flags : BitVec 8) : Bytes :=
  .replicate 20 0 ++ [2, 0, 0, 0, 4, 4, 4, 0, port, 0, 0, flags] ++ .replicate 192 0

/-- Port 0 Up with a far end whose identity digest begins with zeros, the module Ready in that torus. -/
def neighbour (now : Nat) (nb : NbState) (at_ : Option Nat) : State :=
  (porting 0 now (fun x => { x with nb := nb, annAt := at_, peerId := .replicate 32 0, annCnt := 1, annSentAt := 0 })).modHub
    (fun h => { h with bring := { h.bring with step := 10 }, dict := { h.dict with size := 0x00040404 } })

theorem witness_NeighboursAreHeard :
    (neighbour 25000000 .none_ none).ports[0].talks = true
    ∧ (let s := (neighbour 25000000 .none_ none).modHub (fun h => { h with fw := { h.fw with running := true } })
       s.hub.fw.running = true ∧ s.ports[0].annSentAt + 25000000 ≤ s.now)
    ∧ (neighbour 0 .none_ none).verified 0 (slice (announce 3 2) 0 224) = true
    ∧ annFlags (slice (announce 3 2) 0 224) / 2 % 2 = 1
    ∧ 9 ≤ (neighbour 0 .none_ none).hub.bring.step.toNat ∧ (neighbour 0 .none_ none).portUsed 0 = true
    ∧ (porting 0 0 id).ports[0].talks = true ∧ (porting 0 0 id).ports[0].annCnt = 0 ∧ (neighbour 0 .none_ none).hub.board.rstLow = false
    ∧ (neighbour 0 .none_ none).verified 0 (slice (announce 4 2) 0 224) = false
    ∧ s1.ports[0].talks = false ∧ (neighbour 75000000 .seen (some 0)).ports[0].talks = true ∧ (neighbour 75000000 .seen (some 0)).ports[0].nb ≠ .none_
    ∧ (neighbour 75000000 .seen (some 0)).ports[0].annAt = some 0 ∧ 0 + 75000000 ≤ (neighbour 75000000 .seen (some 0)).now
    ∧ ({ Dict.init with hostPort := 23 } : Dict).hostPort.toNat < 24 ∧ 24 ≤ Dict.init.hostPort.toNat := by decide +kernel

theorem witness_NeighboursAreHeard_puffed :
    let s := (neighbour 75000000 .seen (some 0)).modHub (fun h => { h with sec := { h.sec with puffed := true } })
    s.ports[0].talks = true ∧ s.ports[0].nb ≠ .none_ ∧ s.ports[0].annAt = some 0 ∧ 0 + 75000000 ≤ s.now ∧ s.hub.sec.puffed = true := by
  decide

/-- s1 with a flit at input i of die 0, a route image whose entries are all e, and its package end on the x axis Up. -/
def routing (i : Fin 7) (f : Flit) (e : BitVec 8) : State :=
  (package (fun l => { l with st := .up })).modDie 0 (fun d => { d with router := { d.router with
    inq := d.router.inq.set i [f], image0 := .replicate 1056 e } })

/-- The same with a packet for the own cores awaiting delivery. -/
def delivering (f : Flit) : State := s1.modDie 0 (fun d => { d with router := { d.router with local_ := [(0, [f])] } })

theorem witness_RoutersForward :
    (let s := routing 6 flit0 0x00
     s.runs 0 = true ∧ s.dies[0].router.inq[6] = [flit0] ∧ flit0.fk = 1 ∧ flit0.hops.toNat < 64
     ∧ s.dies[0].router.chooseOut 6 flit0.dst = some (0, false) ∧ endOf 0 0 = .pkg 0 0 ∧ s.routes (.pkg 0 0) = true
     ∧ s.dies[0].router.locked 6 0 false = false ∧ (s.link (.pkg 0 0)).outq.length < 512)
    ∧ (let s := routing 5 flit0 0x77
       s.dies[0].router.inq[5] = [flit0] ∧ s.dies[0].router.chooseOut 5 flit0.dst = none)
    ∧ (let f : Flit := { flit0 with hops := 64 }
       (routing 0 f 0).dies[0].router.inq[0] = [f] ∧ 64 ≤ f.hops.toNat)
    ∧ (let f : Flit := { flit0 with fk := 3, hops := 63 }
       (routing 0 f 0x66).dies[0].router.inq[0] = [f] ∧ f.hops.toNat < 64
       ∧ (routing 0 f 0x66).dies[0].router.chooseOut 0 f.dst = some (6, false))
    ∧ (let f : Flit := { flit0 with fk := 3 }
       (delivering f).dies[0].router.local_ = (0, [f]) :: [] ∧ (delivering f).runs 0 = true ∧ f.ng = 1 ∧ (recOf (slice f.body 0 16)).ik = 0
       ∧ (delivering f).dies[0].router.pthru = false)
    ∧ s1.dies[0].accepts 5 = 0 ∧ s1.dies[0].accepts 6 = 2
    ∧ s1.runs 0 = true ∧ s1.dies[0].clock.tc.toNat < s1.dies[0].router.nextSwap
    ∧ (let k := { s1.dies[0].cores[0] with rings := { s1.dies[0].cores[0].rings with arrive := .replicate 4 (.link (msg0 0 false 0) 0) } }
       16384 < k.buffered + 0) := by decide +kernel

/-- Die 0 of s1 with a decision on its route swap due. -/
def swapping (arm wait : Bool) (f : BitVec 48) : Die := { s1.dies[0] with
  router := { Router.init with arm := arm, notReady := wait, frame := f, nextSwap := 0 } }

theorem witness_RoutersForward_swap :
    (swapping true false 0).router.nextSwap ≤ (swapping true false 0).clock.tc.toNat
    ∧ 62500 * (swapping true false 0).router.frame.toNat ≤ (swapping true false 0).router.nextSwap
    ∧ (swapping true true 0).router.arm = true ∧ (swapping true true 0).router.notReady = true
    ∧ (swapping false false 0).router.arm = false
    ∧ (swapping true false 100).router.nextSwap < 62500 * (swapping true false 100).router.frame.toNat := by decide +kernel

/-- The header of a message packet, and a granule under its key. -/
def ph0 : Bytes := 1 :: .replicate 15 0
def granule0 : Bytes := .replicate 16 0

/-- A message packet of job 5 with the tag that its key gives. -/
def sealed (tag : Bytes) : Flit := { flit0 with job := 5, ng := 3, body := (ph0 ++ granule0) ++ tag ++ .replicate 176 0 }

/-- The bytes of that packet, part by part. -/
theorem sealed_parts (tag : Bytes) (h : tag.length = 16) :
    packetBytes [sealed tag] = (ph0 ++ granule0) ++ tag ∧ slice (sealed tag).body 0 16 = ph0
    ∧ slice ((ph0 ++ granule0) ++ tag) 0 16 = ph0 ∧ slice ((ph0 ++ granule0) ++ tag) 16 16 = granule0
    ∧ slice ((ph0 ++ granule0) ++ tag) 32 16 = tag ∧ ((ph0 ++ granule0) ++ tag).length = 48 := by
  refine ⟨?_, ?_, ?_, ?_, ?_, ?_⟩
  · show slice _ 0 48 = _
    simp [sealed, slice, ph0, granule0, h]
  all_goals simp [sealed, slice, ph0, granule0, h]

theorem s1_job5 : s1.dies[0].keyReg = [] ∧ s1.dies[0].accepts 5 = 0 ∧ ∀ c : CoreIx, (s1.dies[0].cores[c]).buffered = 0 := by decide

/-- A message packet that opens: its tag is that of R321's algorithm, whatever that answers. -/
theorem witness_RoutersForward_message :
    ∃ f : Flit, f.fk = 1 ∧ f.vl = 0 ∧ bits (leAt f.body 0 16) 1 0 = 1 ∧ s1.dies[0].accepts f.job = 0
      ∧ (s1.dies[0].cores[desCore f.dst.toNat]).buffered + ((packetBytes [f]).length - 32) ≤ 16384 ∧ 32 < (packetBytes [f]).length
      ∧ ∃ m, s1.dies[0].openMessage [f] f (packetBytes [f]) = some m := by
  obtain ⟨tag, htag⟩ : ∃ t, t = slice (Config.gcmTag (trafficKey []) (packetNonce 0 0 0) ph0 granule0) 0 16 := ⟨_, rfl⟩
  have hlen : tag.length = 16 := by rw [htag]; exact slice_length _ _ _
  obtain ⟨hp, hb, h0, h1, h2, hn⟩ := sealed_parts tag hlen
  have hk : s1.dies[0].keyReg = [] := s1_job5.1
  have hs : flitSrc (sealed tag) = 0 := by simp only [flitSrc, leAt, hb]; decide
  have hv : (sealed tag).vl = 0 := rfl
  have hc : BitVec.ofNat 48 (bits (leAt ((ph0 ++ granule0) ++ tag) 0 16) 127 80) = 0 := by simp only [leAt, h0]; decide
  refine ⟨sealed tag, rfl, rfl, ?_, s1_job5.2.1, ?_, ?_, ?_⟩
  · simp only [leAt, hb]; decide
  · rw [hp, hn, s1_job5.2.2]; decide
  · rw [hp, hn]; decide
  · have ho : gcmOpen (trafficKey []) (packetNonce 0 0 0) ph0 granule0 tag
        = some (xorBytes granule0 (slice (Config.gcmStream (trafficKey []) (packetNonce 0 0 0) granule0.length) 0 granule0.length)) := by
      simp [gcmOpen, htag]
    rw [hp]
    generalize (ph0 ++ granule0) ++ tag = bs at *
    simp [Die.openMessage, hv, hn, h0, h1, h2, hc, hs, hk]
    exact ⟨_, ho⟩

/-- A bridge at port 3 with a host session of job 5 and a packet to the host. -/
def bridge (now : Nat) (sent : Bool) : State :=
  (State.reset.modPort 3 (fun x => { x with link := { x.link with st := .host } })).modHub (fun h => { h with
    time := { h.time with tc := BitVec.ofNat 64 now, wall := now }
    dict := { h.dict with hostPort := 3, hostSes := [(1, 5)], toHost := [⟨0, [flit0], 0, ⟨false, 0, 0, 0, 1⟩, 5, sent⟩] } })

theorem witness_TheBridgeCarriesHostPackets :
    (bridge 12500 false).hub.dict.hostPort.toNat = 3 ∧ (bridge 12500 false).ports[3].link.st = .host
    ∧ (bridge 12500 false).hub.dict.hostSes.find? (fun y => y.1 = (1 : BitVec 16)) = some (1, 5)
    ∧ (bridge 12500 false).hub.dict.hostSes.all (fun y => y.1 ≠ 2) = true ∧ 12500 ≤ (bridge 12500 false).now
    ∧ (let s := bridge 0 false
       s.ports[3].link.credits[(4 : Fin 5)] ≤ (s.ports[3].link.outq.filter (fun f => f.vl = 3)).length)
    ∧ (let s := (bridge 0 false).modPort 3 (fun x => { x with link := { x.link with credits := #v[0, 0, 0, 16, 1] } })
       s.ports[3].link.st = .host ∧ (s.ports[3].link.outq.filter (fun f => f.vl = 3)).length < s.ports[3].link.credits[(4 : Fin 5)]) := by
  decide

theorem witness_TheBridgeCarriesHostPackets_queue (sent : Bool) :
    (bridge 12500 sent).hub.dict.toHost = [⟨0, [flit0], 0, ⟨false, 0, 0, 0, 1⟩, 5, sent⟩] ∧ packet0.session = 1 := ⟨rfl, rfl⟩

/-! Power and bring-up -/

/-- The module after reset with Marigold's power state changed, at wall time now. -/
def powering (now : Nat) (f : Power → Power) : State :=
  State.reset.modHub (fun h => { h with time := { h.time with tc := BitVec.ofNat 64 now, wall := now }, power := f h.power })

def reading0 (status : BitVec 16) : RailReading := { mv := 750, ma := 1000, temp8 := 400, status := status, ocWarn := false }

theorem witness_SensorsAndRegulators :
    State.reset.hub.board.rstLow = false ∧ State.reset.hub.bring.step ≠ 4 ∧ State.reset.goingOff = false ∧ (reading0 0).status = 0 ∧ (reading0 0).status &&& 0x3E = 0 ∧ (reading0 2).status &&& 0x3E ≠ 0
    ∧ (let p := (powering 0 (fun p => { p with rails := p.rails.set 0 { enabled := true, missed := 2 } })).hub.power
       p.rails[vcoreRail 0].enabled = true ∧ 2 ≤ p.rails[vcoreRail 0].missed) ∧ State.reset.dies[0].pow.fenced = false
    ∧ 8 ≤ (8 : RailIx).val
    ∧ ((powering 0 (fun p => { p with rails := p.rails.set 8 { enabled := true } })).hub.power.rails[8]).enabled = true
    ∧ (let s := State.reset.modDie 0 (fun d => { d with logic := d.logic.set 0 920 })
       s.tripPoint = true ∧ s.hub.sens.thermtripLow = false) ∧ State.reset.tripPoint = false
    ∧ (let s := State.reset.modDie 0 (fun d => { d with temps := d.temps.set 0 840 }); s.tripPoint = true)
    ∧ (fp32 0x42200001).isNan = false ∧ (Num.ofInt 40).lt (fp32 0x42200001) = true
    ∧ (Num.ofInt 38).lt (fp32 0x42180000) = false ∧ (Num.ofInt 40).lt (fp32 0x42180000) = false
    ∧ State.reset.hub.sens.inletStale = false
    ∧ (powering 1250000000 id).hub.sens.inletAt + 1250000000 ≤ (powering 1250000000 id).now := by decide

theorem witness_SensorsAndRegulators_rows :
    (let p := (powering 0 (fun p => { p with rails := p.rails.set 0 { enabled := true, missedA := 2 } })).hub.power
     p.rails[vcoreRail 0].enabled = true ∧ 2 ≤ p.rails[vcoreRail 0].missedA)
    ∧ (let s := powering 0 (fun p => { p with rails := p.rails.set 8 { enabled := true } })
       s.hub.power.rails[8].failed = false ∧ s.goingOff = false ∧ s.hub.bring.step ≠ 4)
    ∧ (let s := State.reset.modHub (fun h => { h with fw := { h.fw with running := true } })
       s.hub.fw.running = true ∧ s.hub.dict.fieldIn = [] ∧ s.hub.board.rstLow = false)
    ∧ State.reset.hub.fw.running = false := by decide

/-- Power of 4 kW on the modules' VCORE rails against a cap of 800 W, with runs of short and overlong periods. -/
def capped (power duty : Nat) : State :=
  (s1.modHub (fun h => { h with power := { h.power with
    capForce := 800, duty := duty, shortRun := 9, overRun := 99, avs := h.power.avs.set 0 (List.replicate 10 power) } }))

/-- State.reset with the sensor of a die, and a hub sensor, set. -/
def heated (logic dram hub : Int) (f : Die → Die) : State :=
  (State.reset.modDie 0 (fun d => f { d with
      pow := { d.pow with vcoreOn := true }, logic := .replicate 16 logic, temps := .replicate 16 dram })).modHub
    (fun h => { h with sens := { h.sens with hub := h.sens.hub.set 0 hub } })

theorem witness_PowerAndHeatAreCapped :
    (capped 4000000000 1000).hub.power.capForce.toNat * 1000000 * 105 < (capped 4000000000 1000).hub.power.compute * 100
    ∧ (capped 4000000000 1000).allAtTheta = true ∧ (capped 4000000000 1000).hub.board.rstLow = false ∧ (capped 4000000000 1000).dies[0].reached = true ∧ 9 ≤ (capped 4000000000 1000).hub.power.shortRun
    ∧ 99 ≤ (capped 4000000000 1000).hub.power.overRun ∧ (capped 4000000000 1000).hub.power.prot = false
    ∧ (capped 0 1000).hub.power.compute * 100 < (capped 0 1000).hub.power.capForce.toNat * 1000000 * 97
    ∧ (∀ s ∈ [heated 800 0 0 id, heated 0 761 0 id, heated 799 760 0 id],
        (∀ d ∈ s.dies.toList, d.logicMax < 840 ∧ d.dramMax ≤ 784) ∧ (∀ m : DieIx, s.hub.power.protDuty[m] < 480)
        ∧ (∀ y ∈ s.hub.sens.hub.toList, y < 880) ∧ s.dies[0].pow.fenced = false ∧ s.dies[0].pow.vcoreOn = true)
    ∧ (let s := (heated 0 0 880 (fun d => { d with pow := { d.pow with vcoreOn := false } })).modHub
          (fun h => { h with power := { h.power with state := 3 } })
       s.hub.board.rstLow = false ∧ (∃ y ∈ s.hub.sens.hub.toList, 880 ≤ y) ∧ s.hub.power.trans = none ∧ s.hub.power.state ≠ 0
       ∧ ∀ d ∈ s.dies.toList, d.pow.vcoreOn = false)
    ∧ (s1.modDie 0 (fun d => { d with pow := { d.pow with noMore := true } })).dies[0].reached = false := by decide

/-- Die 0 with only VDRAM up and its DRAM above 98 °C for 10 ms, or with its VCORE up, and with a hub sensor at 110 °C. -/
def hotDram (on : Bool) : State :=
  (heated 0 785 880 (fun d => { d with pow := { d.pow with vcoreOn := on } })).modHub (fun h => { h with
    time := { h.time with tc := 2500000, wall := 2500000 }
    power := { h.power with dramSince := h.power.dramSince.set 0 (some 0), rails := h.power.rails.set 8 { enabled := true } } })

theorem witness_PowerAndHeatAreCapped_dram :
    (∀ on : Bool, let s := hotDram on
      s.hub.board.rstLow = false ∧ s.dies[0].pow.fenced = false ∧ s.hub.power.goal = .hold ∧ s.hub.power.rails[vdram].enabled = true
      ∧ 784 < s.dies[0].dramMax ∧ s.hub.power.dramSince[(0 : DieIx)] = some 0 ∧ 0 + 2500000 ≤ s.now ∧ s.hub.power.hubHot = false
      ∧ ∃ y ∈ s.hub.sens.hub.toList, 880 ≤ y)
    ∧ (let s := (heated 0 0 0 (fun d => { d with pow := { d.pow with vcoreOn := false } })).modHub
          (fun h => { h with power := { h.power with rails := h.power.rails.set 8 { enabled := true } } })
       s.dies[0].pow.vcoreOn = false ∧ s.dies[0].pow.fenced = false ∧ s.hub.power.rails[vdram].enabled = true) := by decide

/-- Rails on their way: rail k commanded as r. -/
def railing (now : Nat) (k : RailIx) (r : Rail) (f : Hub → Hub) : State :=
  (powering now (fun p => { p with rails := p.rails.set k r })).modHub f

theorem witness_RailsComeAndGo :
    (let s := railing 250000 11 { enabled := true } (fun h => { h with
        power := { h.power with goal := .up [11, 10, 8] }, board := { h.board with pwrgd := true } })
     let p := s.hub.power
     p.rails[11].enabledAt + 250000 ≤ s.now ∧ s.hub.board.rstLow = false ∧ p.rails[11].enabled = true ∧ p.rails[11].good = false ∧ p.goal = .up (11 :: 10 :: [8]) ∧ s.hub.board.pwrgd = true
     ∧ p.rails[10].good = false ∧ p.rails[10].enabled = false)
    ∧ (∀ k ∈ [(7 : RailIx), 8], let s := railing 5000000 k { enabled := true } (fun h => { h with bring := { h.bring with step := 4 } })
       s.hub.power.rails[k].enabled = true ∧ s.hub.power.rails[k].good = false ∧ s.hub.power.trans = none
       ∧ s.hub.bring.standbyOnly = false ∧ s.hub.power.goal = .hold ∧ s.hub.board.rstLow = false
       ∧ s.hub.power.rails[k].enabledAt + 5000000 ≤ s.now ∧ s.hub.bring.step = 4 ∧ s.hub.power.railTries = 0)
    ∧ State.reset.hub.bring.step ≠ 4 ∧ State.reset.goingOff = false
    ∧ (let s := (railing 12500000 9 { falling := true } (fun h => { h with power := { h.power with
          goal := .down [9, 8] true false, rails := h.power.rails.set 8 { enabled := true, good := true } } }))
       s.hub.power.rails[9].falling = true ∧ s.hub.power.rails[9].enabled = false
       ∧ s.hub.power.goal = .down [9, 8] true false ∧ s.hub.power.rails[8].enabled = true
       ∧ s.hub.power.rails[9].offAt + 12500000 ≤ s.now ∧ s.hub.board.rstLow = false)
    ∧ (let s := railing 25000000 0 {} (fun h => { h with board := { h.board with pwrEn := true }, bring := { h.bring with step := 4 } })
       s.hub.board.rstLow = false ∧ s.hub.board.pwrEn = true ∧ s.hub.board.pwrgd = false ∧ s.hub.bring.step = 4 ∧ s.hub.bring.standbyOnly = false
       ∧ s.hub.bring.stepAt + 25000000 ≤ s.now ∧ ∀ q : RailIx, s.hub.power.rails[q].enabled = false)
    ∧ (let p := (railing 0 0 {} (fun h => { h with power := { h.power with goal := .up [11] } })).hub.power
       p.goal = .up (11 :: []) ∧ p.rails[11].good = false ∧ 8 ≤ (11 : RailIx).val)
    ∧ (∃ m : DieIx, (railing 0 0 { enabled := true } id).hub.power.rails[vcoreRail m].enabled = true)
    ∧ (∀ q : RailIx, State.reset.hub.power.rails[q].enabled = false)
    ∧ State.reset.hub.board.refclk = true
    ∧ (let h := (State.reset.modHub (fun h => { h with board := { h.board with rstLow := true } })).hub
       h.board.rstLow = true ∧ h.board.refclk = true) := by decide

theorem witness_RailsComeAndGo_good :
    (∀ now ∈ [249999, 250000], let s := railing now 0 { enabled := true } id
       s.hub.power.goal = .hold ∧ s.hub.board.rstLow = false ∧ s.hub.power.rails[0].enabled = true ∧ s.hub.power.rails[0].good = false
       ∧ (s.hub.power.rails[0].enabledAt + 250000 ≤ s.now ↔ now = 250000) ∧ s.comesGated = false ∧ railDie 0 = some 0)
    ∧ (powering 0 (fun p => { p with state := 3 })).comesGated = true
    ∧ (let s := railing 250000 9 { enabled := true } (fun h => { h with
        power := { h.power with goal := .up [9, 0, 1] }, board := { h.board with pwrgd := true } })
       s.vcorePaced = true ∧ s.hub.power.goal = .up (9 :: 0 :: [1]) ∧ s.hub.power.rails[0].enabled = false) := by decide

/-- Two VCORE rails of a power-up, the first on its way up as r has it. -/
def pairing (r : Rail) : State :=
  railing 250000 0 r (fun h => { h with power := { h.power with goal := .up [0, 1] }, board := { h.board with pwrgd := true } })

theorem witness_RailsComeAndGo_pace :
    (∀ r ∈ [({ enabled := true, target := 750 } : Rail), { enabled := true, target := 750, read := true, mv := 674 },
        { enabled := true, target := 750, read := true, mv := 675 }], let s := pairing r
      s.hub.board.rstLow = false ∧ s.hub.power.goal = .up (0 :: 1 :: []) ∧ s.hub.board.pwrgd = true ∧ s.hub.power.rails[0] = r
      ∧ r.good = false ∧ s.hub.power.rails[1].enabled = false ∧ s.vcorePaced = true)
    ∧ 10 * 674 < 9 * 750 ∧ 9 * 750 ≤ 10 * 675 := by decide

theorem witness_RailsComeAndGo_supply :
    (let s := railing 25000000 11 { enabled := true } (fun h => { h with
        power := { h.power with goal := .up [11] }, board := { h.board with pwrEn := true }, bring := { h.bring with step := 4 } })
     s.hub.board.pwrgd = false ∧ s.hub.power.goal = .up [11] ∧ s.hub.power.trans = none ∧ s.railsRise = true
     ∧ s.hub.bring.stepAt + 25000000 ≤ s.now)
    ∧ (powering 0 (fun p => { p with goal := .board 0 false })).railsRise = false
    ∧ (let s := railing 0 0 { enabled := true } (fun h => { h with fw := { h.fw with running := true } })
       s.hub.board.refclk = true ∧ s.hub.board.rstLow = false ∧ s.hub.fw.running = true ∧ s.goingOff = false)
    ∧ (let s := railing 0 0 { enabled := true } (fun h => { h with power := { h.power with
          trans := some ⟨0, [.supplyOff, .pwrEnLow], false, 5⟩ } })
       s.hub.power.trans = some ⟨0, .supplyOff :: [.pwrEnLow], false, 5⟩ ∧ s.hub.power.wantOff = false) := by decide

theorem witness_ResetAndStart_refclk :
    (let h := (State.reset.modHub (fun h => { h with board := { h.board with rstLow := true, refclk := false } })).hub
     h.board.standby = true ∧ h.board.rstLow = true ∧ h.board.refclk = false)
    ∧ (let h := (powering 0 (fun p => { p with rails := (p.rails.set 8 { enabled := true, high := true }).set 9 { enabled := true, high := true } })).hub
       (∀ m : DieIx, h.power.rails[vcoreRail m].alive = false)
       ∧ railOrder.reverse.filter (fun q => h.power.rails[q].alive) = 9 :: [8]) := by decide

theorem witness_ResetAndStart :
    State.reset.hub.board.standby = true ∧ State.reset.hub.board.rstLow = false ∧ 5000 ≤ (5000 : Nat) ∧ 1999 < 2000
    ∧ (let h := (State.reset.modHub (fun h => { h with board := { h.board with rstLow := true } })).hub
       h.board.standby = true ∧ h.board.rstLow = true)
    ∧ (State.reset.modHub (fun h => { h with board := { h.board with standby := false } })).hub.board.standby = false
    ∧ (2000 ≤ 2000 ∧ 4999 < 5000)
    ∧ (∃ m : DieIx, (powering 0 (fun p => { p with rails := p.rails.set 0 { enabled := true } })).hub.power.rails[vcoreRail m].enabled = true)
    ∧ (∀ m : DieIx, State.reset.hub.power.rails[vcoreRail m].alive = false)
    ∧ State.reset.hub.romDue = true
    ∧ (∀ tries ∈ [1, 2], let h := (State.reset.modHub (fun h => { h with fw := { h.fw with trial := true, tries := tries } })).hub
       h.romDue = true ∧ h.fw.trial = true ∧ (h.fw.tries < 2 ↔ tries = 1))
    ∧ State.reset.hub.fw.trial = false ∧ slotOk (State.reset.hub.fw.slot true) 0 = false
    ∧ slotOk (State.reset.hub.fw.slot false) 0 = false
    ∧ (let h := (State.reset.modHub (fun h => { h with fw := { h.fw with booted := 0 } })).hub
       h.fw.booted ≠ 0xFF ∧ h.fw.running = false ∧ h.board.rstLow = false ∧ h.board.standby = true ∧ h.bring.step = 3
       ∧ h.power.trans = none ∧ h.power.goal = .hold ∧ h.power.wantOff = false ∧ h.bring.offSeen = false ∧ h.board.refclk = true
       ∧ (∀ q : RailIx, h.power.rails[q].enabled = false) ∧ h.sec.puffed = false)
    ∧ (let s := s0.modHub (fun h => { h with fw := { h.fw with running := true } })
       s.hub.fw.running = true ∧ s.dies[0].plan.isSome = true)
    ∧ clockedBy (.add a0 1 2 3) = some 0 ∧ clockedBy (.vadd a0 .vec0 elem0) = some 0 ∧ clockedBy (.routerForward 0 0) = some 0
    ∧ State.reset.dies[0].pow.vcoreOn = false ∧ byHub .thermtrip = true := by decide

/-- Records of the MRAM whose tags hold, and one whose tag does not where the algorithm tells the two apart. -/
theorem witness_ResetAndStart_tags (key : Bytes) (f : Firmware) :
    Config.kmac key { f with bootTag := Config.kmac key f.bootBytes }.bootBytes = { f with bootTag := Config.kmac key f.bootBytes }.bootTag
    ∧ Config.kmac key { f with floorTag := Config.kmac key f.floorBytes }.floorBytes
        = { f with floorTag := Config.kmac key f.floorBytes }.floorTag
    ∧ Config.kmac key { f with bootTag := 0 :: Config.kmac key f.bootBytes }.bootBytes
        ≠ { f with bootTag := 0 :: Config.kmac key f.bootBytes }.bootTag :=
  ⟨rfl, rfl, fun h => List.cons_ne_self _ _ h.symm⟩

/-- The module in a step of bring-up with its firmware running. -/
def bringing (step : BitVec 8) (now : Nat) (f : Hub → Hub) : State :=
  State.reset.modHub (fun h => f { h with
    time := { h.time with tc := BitVec.ofNat 64 now, wall := now, align := 2 }, fw := { h.fw with running := true }, bring := { h.bring with step := step } })

theorem witness_BringUpProceeds :
    (let s := (bringing 5 0 (fun h => { h with power := { h.power with rails := (h.power.rails.set 8 { good := true }).set 9 { good := true } } })).modDie 0
        (fun d => { d with pow := { d.pow with vcoreOn := true } })
     s.trainDue 0 = true) ∧ State.reset.trainDue 0 = false
    ∧ (let s := bringing 5 0 id
       let s := (List.finRange 8).foldl (fun s n => s.modDie n (fun d => { d with pow := { d.pow with result := .dramFailed } })) s
       s.bringing = true ∧ s.hub.bring.step = 5 ∧ (∀ d ∈ s.dies.toList, d.pow.result ≠ .notUp) ∧ s.dies[0].pkg[0].st = .unused)
    ∧ (let s := bringing 6 0 id; s.bringing = true ∧ s.hub.bring.step = 6 ∧ allEnds.all s.endSettled = true)
    ∧ (let s := bringing 7 0 id
       s.bringing = true ∧ s.hub.bring.step = 7 ∧ ∀ x ∈ s.ports.toList, x.link.st ≠ .up ∨ x.nb = .verified ∨ x.nb = .admitted)
    ∧ (let s := (bringing 7 250000000 id).modPort 0 (fun x => { x with link := { x.link with st := .up } })
       s.hub.bring.stepAt + 250000000 ≤ s.now ∧ ¬ ∀ x ∈ s.ports.toList, x.link.st ≠ .up ∨ x.nb = .verified ∨ x.nb = .admitted)
    ∧ (∀ req ∈ [(3 : BitVec 8), 4], let s := bringing 8 0 (fun h => { h with power := { h.power with request := req } })
       s.bringing = true ∧ s.hub.bring.step = 8 ∧ s.attestHolds = true ∧ s.hub.bring.gate = 0 ∧ s.hub.power.wantOff = false
       ∧ s.hub.power.request = req)
    ∧ (let h := (bringing 8 0 (fun h => { h with bring := { h.bring with gate := 1, offSeen := true } })).hub
       h.bring.gate ≠ 0 ∧ h.bring.offSeen = true) := by decide

theorem witness_BringUpProceeds_off :
    let s := bringing 8 0 (fun h => { h with power := { h.power with wantOff := true } })
    s.bringing = true ∧ s.hub.bring.step = 8 ∧ s.attestHolds = true ∧ s.hub.bring.gate = 0 ∧ s.hub.power.wantOff = true := by decide

def event0 (sev : Nat) : Event :=
  { sev := sev, unitk := 1, unit := 0, rule := 1, bit := 0, frame := none, onDie := true, time := 5, cyc := some 0, det := [] }

/-- The module Ready, in power state st, with a request. -/
def running (st req : BitVec 8) (f : Hub → Hub) : State :=
  (bringing 10 25000000 (fun h => f { h with power := { h.power with state := st, request := req } })).modDie 0
    (fun d => { d with pow := { d.pow with vcoreOn := true } })

theorem witness_PowerStatesChange :
    (∀ s ∈ [running 4 3 id, running 3 4 id, running 4 2 id, running 4 4 id],
      s.hub.power.trans = none ∧ s.hub.bring.step = 10 ∧ s.hub.dict.statePending = false ∧ s.hub.bring.removal = 0
      ∧ s.hub.power.wantOff = false ∧ (∀ d ∈ s.dies.toList, d.pow.vcoreOn = true → d.frm.frun = false) ∧ s.vcoreUp = true)
    ∧ (let s := running 4 2 (fun h => { h with power := { h.power with trans := some ⟨2, [.quiesce, .portsLow], true, 0⟩ } })
       s.hub.power.trans = some { (⟨2, [], false, 0⟩ : Trans) with steps := .quiesce :: [.portsLow], begun := true }
       ∧ s.hub.power.wantOff = false ∧ s.quiet = true)
    ∧ (let s := running 4 2 (fun h => { h with power := { h.power with quietAt := 1 } }); s.quiet = false ∧ s.quiesceLate = false)
    ∧ (let s := running 4 4 (fun h => { h with bring := { h.bring with removal := 2 } })
       s.hub.power.trans = none ∧ s.hub.bring.removal = 2 ∧ s.quiet = true)
    ∧ (let s := running 4 4 (fun h => { h with bring := { h.bring with removal := 1 } })
       s.hub.bring.removal = 1 ∧ ∀ d ∈ s.dies.toList, d.plan = none ∧ d.pow.clearing = false)
    ∧ (running 4 3 id).dies[0].reached = true ∧ (running 4 3 id).dies[0].pow.vcoreOn = true ∧ 3 ≤ (running 4 0 id).hub.power.state.toNat
    ∧ (running 4 0 id).hub.power.request = 0 ∧ (running 4 0 id).vcoreUp = true ∧ (running 4 0 id).fatalWaits = false
    ∧ (running 4 0 (fun h => { h with rec_ := { h.rec_ with queue := [event0 6] } })).fatalWaits = true := by decide

/-- The module asleep in Doze or Deep, its VCORE rails off and its supplies up, with a request. -/
def asleep (st req : BitVec 8) (f : Hub → Hub) : State :=
  bringing 10 25000000 (fun h => f { h with power := { h.power with state := st, request := req }, board := { h.board with pwrgd := true } })

theorem witness_PowerStatesChange_wake :
    (∀ st ∈ [(1 : BitVec 8), 2], ∀ req ∈ [(3 : BitVec 8), 4], let s := asleep st req id
      s.hub.power.trans = none ∧ s.hub.bring.step = 10 ∧ s.hub.dict.statePending = false ∧ s.hub.bring.removal = 0
      ∧ s.hub.power.wantOff = false ∧ s.hub.power.state = st ∧ s.hub.board.pwrgd = true ∧ s.vcorePaced = true
      ∧ (∀ m : DieIx, s.hub.power.rails[vcoreRail m].enabled = false ∧ s.hub.power.rails[vcoreRail m].good = false)
      ∧ s.vcoreRails ≠ [] ∧ s.hub.power.rails[vdram].enabled = false ∧ s.hub.power.rails[vdram].good = false
      ∧ s.hub.power.rails[vwl].good = false) := by decide

/-- The same in a step of its way to Run. -/
def waking (steps : List TransStep) (begun : Bool) : State :=
  asleep 2 4 (fun h => { h with power := { h.power with trans := some ⟨4, steps, begun, 5⟩ } })

theorem witness_PowerStatesChange_steps :
    (∀ b : Bool, ∀ k ∈ [TransStep.train, .align, .exitRefresh, .portsUp], let s := waking [k, .announce] b
      s.hub.power.trans = some { (⟨4, [], false, 5⟩ : Trans) with steps := k :: [.announce], begun := b } ∧ s.hub.power.wantOff = false)
    ∧ (∀ d ∈ (waking [.train, .announce] true).dies.toList, d.pow.vcoreOn = true → d.pow.result ≠ .notUp)
    ∧ (let s := (waking [.train, .announce] true).modDie 0 (fun d => { d with pow := { d.pow with vcoreOn := true } })
       ∃ d ∈ s.dies.toList, d.pow.vcoreOn = true ∧ d.pow.result = .notUp)
    ∧ (let s := (waking [.align, .announce] false).modDie 0 (fun d => { d with
          pow := { d.pow with vcoreOn := true, lane := true }, clock := { d.clock with tc := 4000 } })
       s.dies[0].pow.vcoreOn = true ∧ s.dies[0].pow.lane = true ∧ s.mayStep = true ∧ 64000 < (s.dieOffset 0).natAbs)
    ∧ (∀ lane : Bool, let s := (waking [.exitRefresh, .announce] false).modDie 0 (fun d => { d with
          pow := { d.pow with vcoreOn := true, noMore := !lane, selfRef := true } })
       s.dies[0].pow.selfRef = true ∧ s.dies[0].reached = lane)
    ∧ (let s := (waking [.portsUp, .announce] false).modPort 3 (fun x => { x with link := { x.link with st := .lowRate } })
       s.ports[3].link.st = .lowRate ∧ s.ports[3].cmd ≠ 2 ∧ s.ports[3].rising = none)
    ∧ (∀ x ∈ (waking [.portsUp, .announce] true).ports.toList, x.link.st ≠ .training ∧ x.rising = none)
    ∧ (let s := (waking [.portsUp, .announce] true).modPort 3 (fun x => { x with rising := some 5 })
       ∃ x ∈ s.ports.toList, x.link.st = .training ∨ x.rising ≠ none)
    ∧ (let s := (waking [.announce] false).modPort 3 (fun x => { x with link := { x.link with st := .up } })
       s.ports[3].talks = true ∧ s.hub.power.trans = some ⟨4, .announce :: [], false, 5⟩) := by decide

/-! Requests of the object dictionary -/

/-- An open session of a role, on job 5 and die 0. -/
def ses0 (role : Role) : Session :=
  { num := 1, role := role, key := [], aes := [], salt := [], rseq := 0, resp := none, bad := 0, lastAt := 0, job := 5, mask := 1,
    pos := 0, seg := none, host := 0, offer := none }

/-- State s with the firmware running and one session open. -/
def talking (x : Session) (s : State) : State :=
  s.modHub (fun h => { h with fw := { h.fw with running := true }, dict := { h.dict with sessions := [x] } })

/-- The first request of a session finds it fresh, whatever else the state holds. -/
theorem fresh0 (role : Role) (s : State) (hr : s.hub.board.rstLow = false) : Fresh (talking (ses0 role) s) req0 (ses0 role) :=
  ⟨rfl, hr, rfl, rfl, rfl, rfl, rfl, rfl⟩

theorem witness_RequestsAreGated_unheard :
    (s0.modHub (fun h => { h with board := { h.board with rstLow := true } })).hub.board.rstLow = true
    ∧ State.reset.reachedBy .inBand = false ∧ s0.hub.board.rstLow = false ∧ s0.reachedBy .fieldPort = true
    ∧ (∀ idx sub off tot more v, Instr.updateBegin req0 ≠ .dictWrite req0 idx sub off tot more v) := by
  refine ⟨rfl, by decide, rfl, rfl, fun _ _ _ _ _ _ h => by cases h⟩

theorem witness_RequestsAreGated :
    requestOf (.updateBegin req0) = some req0 ∧ State.reset.hub.fw.running = false ∧ State.reset.hub.bring.romOnly = false
    ∧ State.reset.session 1 = none ∧ (talking (ses0 .operator) s0).hub.fw.running = true
    ∧ (∀ bad ∈ [14, 15], (talking { ses0 .operator with bad := bad } s0).session 1 = some { ses0 .operator with bad := bad })
    ∧ ({ req0 with tagOk := false } : Req).tagOk = false ∧ ({ req0 with rseq := 2 } : Req).rseq ≠ (ses0 .operator).rseq + 1
    ∧ (talking { ses0 .operator with rseq := 1, resp := some ⟨0x82, 0, 0, 0, [], 0x2010, 1, 0⟩ } s0).session 1
        = some { ses0 .operator with rseq := 1, resp := some ⟨0x82, 0, 0, 0, [], 0x2010, 1, 0⟩ }
    ∧ (talking { ses0 .operator with seg := some (0x6010, 1, 1312, [1]) } s0).session 1
        = some { ses0 .operator with seg := some (0x6010, 1, 1312, [1]) } := by decide

/-- The operator's session in a module Ready in a power state, with no plan. -/
def ordering (st : BitVec 8) (f : Hub → Hub) : State := talking (ses0 .operator) (running st st f)

theorem witness_ModuleRequestsAct :
    (800 : U32).toNat = 800 ∧ (3400 : U32).toNat ≤ 3400 ∧ (799 : U32).toNat < 800 ∧ 3400 < (3401 : U32).toNat
    ∧ (249 : U32).toNat < 250 ∧ 65000 < (65001 : U32).toNat
    ∧ (∀ m : DieIx, (s0.dies[m].plan.map (fun p => decide (p.theta ≤ 500 ∧ p.frameLen + p.allow ≤ 846 * 250 * (1000 - p.theta) / 1000))).getD
        true = true)
    ∧ s0.dies[0].plan = some plan0 ∧ plan0.theta ≤ 500 ∧ plan0.frameLen + plan0.allow ≤ 846 * 250 * (1000 - plan0.theta) / 1000
    ∧ 846 * 250 * (1000 - 0) / 1000 < ({ plan0 with frameLen := 211501 } : Loaded).frameLen
    ∧ coordOwn false 0x00000001 = false ∧ coordOwn true 0x00020202 = true ∧ s0.anyPlan = true ∧ State.reset.anyPlan = false
    ∧ coordsFit 0x00020202 0x00020202 = false ∧ coordsFit 0 0x00040404 = true
    ∧ State.reset.dies[0].pow.fenced = false ∧ (State.reset.modDie 0 (fun d => { d with pow := { d.pow with fenced := true } })).dies[0].pow.fenced = true
    ∧ (let h := (ordering 3 (fun h => { h with board := { h.board with pwrgd := true } })).hub
       3 ≤ h.power.state.toNat ∧ h.power.trans = none ∧ h.power.goal = .hold ∧ h.board.pwrgd = true
       ∧ h.power.rails[vcoreRail 0].good = false ∧ h.power.rails[vcoreRail 0].enabled = false)
    ∧ (ordering 4 id).hub.bring.removal = 0 ∧ (ordering 4 id).bringing = false
    ∧ (∀ r ∈ [(1 : BitVec 8), 2, 3], (ordering 4 (fun h => { h with bring := { h.bring with removal := r } })).hub.bring.removal = r)
    ∧ (let s := bringing 8 0 id; s.bringing = true ∧ s.hub.bring.step = 8 ∧ s.hub.bring.released = false)
    ∧ (ordering 4 id).hub.bring.romOnly = false ∧ (ordering 4 id).hub.sec.puffed = false ∧ (ordering 4 id).anyPlan = false
    ∧ (ordering 4 id).hub.power.wantOff = false ∧ (ordering 0 id).hub.power.state = 0 ∧ (ordering 0 id).hub.board.refclk = true
    ∧ ((ordering 4 id).modDie 0 (fun d => { d with plan := some plan0 })).anyPlan = true := by decide

/-- Ports of a module Ready four dies a side: port 3 Up with a verified neighbour, port 4 out of use. -/
def coordinated : State :=
  ((ordering 4 (fun h => { h with dict := { h.dict with size := 0x00040404 } })).modPort 3 (fun x =>
    { x with link := { x.link with st := .up }, nb := .verified }))

/-- Whatever its module stands at, the operator's first request is fresh. -/
theorem ordering_fresh (st : BitVec 8) (f : Hub → Hub) (h : (running st st f).hub.board.rstLow = false) :
    Fresh (ordering st f) req0 (ses0 .operator) := fresh0 _ _ h

theorem witness_ModuleRequestsAct_coordinates :
    coordOwn true 0x00020202 = true ∧ coordOwn true 0x00040404 = true ∧ (0xC0C4C4C4 : U32) &&& 0x3F3F3F = 0x00040404
    ∧ coordsFit coordinated.hub.dict.base 0x00020202 = true ∧ coordsFit coordinated.hub.dict.base 0x00040404 = true ∧ coordinated.anyPlan = false
    ∧ coordinated.ports[3].link.st = .up ∧ coordinated.ports[3].nb = .verified ∧ coordinated.hostEnd ≠ some 3
    ∧ coordinated.ports[4].link.st = .unused ∧ coordinated.portsLive = true ∧ coordinated.ports[4].cmd ≠ 1
    ∧ 2 < bits (0x00040404 : U32).toNat (8 * (portAxis 3).val + 5) (8 * (portAxis 3).val)
    ∧ 2 < bits (0x00040404 : U32).toNat (8 * (portAxis 4).val + 5) (8 * (portAxis 4).val)
    ∧ ¬ 2 < bits (0x00020202 : U32).toNat (8 * (portAxis 3).val + 5) (8 * (portAxis 3).val)
    ∧ (coordinated.modHub (fun h => { h with dict := { h.dict with hostPort := 3 } })).hostEnd = some 3 := by decide

/-- Die 0 fenced in a module Ready whose other VCORE rails are up. -/
def releasable : State :=
  (ordering 4 (fun h => { h with
    board := { h.board with pwrgd := true }
    power := { h.power with rails := (Vector.replicate 12 { enabled := true, good := true }).set 0 {} } })).modDie 0
    (fun d => { d with pow := { d.pow with fenced := true } })

theorem witness_ModuleRequestsAct_release :
    let h := releasable.hub
    releasable.dies[0].pow.fenced = true ∧ 3 ≤ h.power.state.toNat ∧ h.power.trans = none ∧ h.bring.standbyOnly = false
    ∧ h.bring.removal.toNat ≤ 2 ∧ h.power.goal = .hold ∧ h.board.pwrgd = true ∧ releasable.vcorePaced = true
    ∧ h.power.rails[vcoreRail 0].good = false ∧ h.power.rails[vcoreRail 0].alive = false
    ∧ (∀ m : DieIx, m ≠ 0 → h.power.rails[vcoreRail m].alive = true) := by decide

theorem witness_ModuleRequestsAct_state :
    (let s := (ordering 4 id).modDie 0 (fun d => { d with plan := some plan0 })
     s.hub.bring.removal = 0 ∧ s.hub.power.trans = none ∧ s.bringing = false ∧ s.anyPlan = true ∧ s.hub.power.state ≠ 0
     ∧ s.dies[0].reached = true ∧ s.dies[0].frm.frun = false)
    ∧ (ordering 0 id).hub.power.goal = .hold ∧ (ordering 0 id).hub.power.wantOff = false ∧ (ordering 0 id).bringing = false
    ∧ (bringing 8 0 id).hub.bring.removal = 0 ∧ (bringing 8 0 id).anyPlan = false
    ∧ (let s := (ordering 4 id).modDie 0 (fun d => { d with
        plan := some plan0, frm := { d.frm with frun := true }, pow := { d.pow with noMore := true } })
       s.dies[0].frm.frun = true ∧ s.dies[0].plan ≠ none ∧ s.dies[0].reached = false) := by
  decide

theorem witness_ModuleRequestsAct_wake :
    (∀ st ∈ [(1 : BitVec 8), 2], let s := talking (ses0 .operator) (asleep st st id)
      s.hub.bring.removal = 0 ∧ s.hub.power.trans = none ∧ s.bringing = false ∧ s.hub.bring.romOnly = false ∧ s.hub.sec.puffed = false
      ∧ s.anyPlan = false ∧ s.hub.power.state = st ∧ s.hub.bring.step = 10 ∧ s.hub.power.wantOff = false)
    ∧ (∀ plan ∈ [none, some plan0], let s := (talking (ses0 .operator) (bringing 6 0 id)).modDie 0 (fun d => { d with plan := plan })
      s.hub.bring.removal = 0 ∧ s.bringing = true ∧ s.anyPlan = plan.isSome) := by decide

theorem witness_RoutesAndPorts :
    ([] : Bytes).length ≠ 1056 ∧ (0xFFFFFFFFFFFF : U64).toNat < 2 ^ 48 ∧ 2 ^ 48 ≤ (0x1000000000000 : U64).toNat
    ∧ s0.dies[0].plan ≠ none ∧ State.reset.dies[0].plan = none ∧ State.reset.dies[0].router.pthru = false
    ∧ (s0.modDie 0 (fun d => { d with router := { d.router with pthru := true } })).dies[0].router.pthru = true
    ∧ s0.dies[0].pow.trained = true ∧ State.reset.sleeps = false ∧ (ordering 2 id).sleeps = true
    ∧ (∀ st ∈ [LinkState.lowRate, .up, .disabled, .down],
        ((ordering 4 id).modPort 3 (fun x => { x with link := { x.link with st := st } })).ports[3].link.st = st)
    ∧ 1 ≤ (ordering 4 id).hub.power.state.toNat
    ∧ (ordering 4 (fun h => { h with dict := { h.dict with size := 0x00040404 } })).portUsed 3 = true := by decide

theorem witness_RoutesAndPorts_lane :
    (ordering 4 id).dies[0].reached = true
    ∧ ((ordering 4 id).modDie 0 (fun d => { d with pow := { d.pow with noMore := true } })).dies[0].reached = false
    ∧ (ordering 4 id).ports[3].rising = none ∧ (ordering 4 id).sleeps = false ∧ (ordering 4 id).portsLive = true
    ∧ (let s := (ordering 4 id).modPort 3 (fun x => { x with rising := some 5, link := { x.link with st := .lowRate } })
       s.ports[3].rising ≠ none ∧ s.ports[3].link.st = .lowRate)
    ∧ (ordering 4 id).ports[3].link.trained = false ∧ (ordering 4 id).hub.dict.size = 0x00020202 ∧ 1056 < (1057 : Nat) := by decide

/-- A route image with no valid map entry, and one whose reserved bit 6 is set. -/
theorem witness_RoutesAndPorts_image :
    imageOk (.replicate 1056 0) 0x00020202 = true ∧ imageOk (.replicate 1056 0x40) 0x00020202 = false := by
  have h : ∀ i, (List.replicate 1056 (0 : Byte)).getD i 0 = 0 := fun i => by
    rw [List.getD_eq_getElem?_getD, List.getElem?_replicate]; split <;> rfl
  have hn : (List.replicate 1056 (0 : Byte)).length = 1056 := List.length_replicate
  refine ⟨?_, by decide +kernel⟩
  generalize List.replicate 1056 (0 : Byte) = im at h hn
  simp only [imageOk, mapsOk, mapEntry, h, hn]
  decide

theorem witness_UpdateRequests :
    (∀ u ∈ [UpdState.idle, .failed, .receiving, .verified, .pending],
        (ordering 4 (fun h => { h with fw := { h.fw with upd := u } })).hub.fw.upd = u)
    ∧ 4096 < (List.replicate 4097 (0 : Nat)).length ∧ ([0, 0, 0, 0, 1, 2, 3] : Bytes).length < 8 ∧ 8 ≤ ([0, 0, 0, 0, 1, 2, 3, 4] : Bytes).length
    ∧ leNat (slice [1, 0, 0, 0, 1, 2, 3, 4] 0 4) % 4 ≠ 0 ∧ leNat (slice [0xFC, 0xFF, 0x3F, 0, 1, 2, 3, 4] 0 4) + 4 = 4194304
    ∧ Cells.wf ((ordering 4 id).hub.fw.slot (ordering 4 id).hub.fw.inactive) = true
    ∧ (ordering 4 id).anyPlan = false
    ∧ (let f := (ordering 4 (fun h => { h with fw := { h.fw with trial := true, booted := 0 } })).hub.fw
       f.trial = true ∧ f.booted = (if f.pref then 1 else 0))
    ∧ (ordering 4 id).hub.fw.trial = false := by decide

/-- A boot record written with its tag reads as written. -/
theorem sealed_boot (h : Hub) (f : Firmware) : (h.sealBoot f).fwSeen.trial = f.trial ∧ (h.sealBoot f).fwSeen.pref = f.pref := by
  have ok : (h.sealBoot f).bootOk = true := by simp [Hub.bootOk, Hub.sealBoot, Firmware.bootBytes]
  simp only [Hub.fwSeen, ok, if_true]
  split <;> exact ⟨rfl, rfl⟩

/-- A trial that the records hold, of the slot that runs, and none: whatever a tag of R401 is. -/
theorem witness_UpdateRequests_trial (h : Hub) (b : BitVec 8) (hb : b = if h.fw.pref then 1 else 0) :
    (let g := h.sealBoot { h.fw with trial := true, booted := b }
     g.fwSeen.trial = true ∧ g.fw.booted = (if g.fwSeen.pref then 1 else 0))
    ∧ (h.sealBoot { h.fw with trial := false }).fwSeen.trial = false := by
  refine ⟨⟨(sealed_boot _ _).1, ?_⟩, (sealed_boot _ _).1⟩
  rw [(sealed_boot _ _).2]
  exact hb

/-- The header of a firmware image of no bytes. -/
def image0 : Mem := [(0, 0x59), (1, 0x4D), (2, 0x47), (3, 0x46), (4, 0xA0), (5, 0xB8), (8, 1)]

/-- It passes where the algorithms of R369 and R370 answer so (they are uninterpreted). -/
theorem witness_ResetAndStart_slot (h : Config.sha3 [] = fwMeas image0) (hv : ∀ k c x g, Config.dsaVerify k c x g = true) :
    slotOk image0 0 = true := by
  have hl : fwLen image0 = 0 := by decide
  have hm : leNat (Cells.getN image0 0 4) = 0x46474D59 ∧ leNat (Cells.getN image0 4 4) = productCode
      ∧ leNat (Cells.getN image0 8 2) = 1 := by decide
  have h0 : Cells.getN image0 4096 0 = [] := rfl
  simp [slotOk, hl, hv, hm, ← h, h0]

/-! Sessions -/

/-- Enrolment of a tenant in slot 15 by the operator of key 0, with counter 1. -/
def enrol0 : Bytes := [1, 15, 0, 0] ++ .replicate 32 9 ++ leBytes 8 1 ++ .replicate 2420 0

def challenge0 (role : Role) : Challenge :=
  { id := 0, role := role, key := [1], nonce := [], seed := [], cert := none, route := .fieldPort, sent := [] }

def opening (role : Role) : State :=
  (talking (ses0 .operator) s0).modHub (fun h => { h with dict := { h.dict with challenges := [challenge0 role] } })

theorem witness_SessionsOpenAndClose :
    (opening .tenant).hub.fw.running = true ∧ (opening .tenant).hub.board.rstLow = false ∧ (opening .tenant).reachedBy .fieldPort = true
    ∧ (porting 3 0 id).reachedBy .inBand = true ∧ (opening .tenant).hub.sec.puffed = false
    ∧ (opening .tenant).hub.dict.sessions.length < 16
    ∧ (let h := (s0.modHub (fun h => { h with dict := { h.dict with sessions := .replicate 16 (ses0 .tenant) } })).hub
       16 ≤ h.dict.sessions.length)
    ∧ (s0.modHub (fun h => { h with sec := { h.sec with puffed := true } })).hub.sec.puffed = true
    ∧ s0.enrolOk [] = false
    ∧ (opening .tenant).hub.dict.challenges.find? (fun y => y.id = 0) = some (challenge0 .tenant)
    ∧ (opening .tenant).hub.dict.challenges.find? (fun y => y.id = 1) = none
    ∧ (opening .operator).roleOk .fieldPort .operator [1] none = true
    ∧ (∀ k ∈ (opening .operator).hub.sec.opKeys.toList, k = [])
    ∧ (let s := (talking (ses0 .tenant) s0).modHub (fun h => { h with dict := { h.dict with load := { h.dict.load with st := .receiving, owner := 1 } } })
       s.hub.dict.load.st = .receiving ∧ s.hub.dict.load.owner = req0.ses)
    ∧ (talking (ses0 .tenant) s0).hub.dict.load.owner ≠ req0.ses
    ∧ (let s := (talking (ses0 .tenant) s0).modHub (fun h => { h with time := { h.time with wall := 15000000000 } })
       s.session 1 = some (ses0 .tenant) ∧ (ses0 .tenant).lastAt + 15000000000 ≤ s.now)
    ∧ (talking (ses0 .tenant) s0).now < (ses0 .tenant).lastAt + 15000000000 := by decide

theorem witness_SessionsOpenAndClose_key : Fresh (talking (ses0 .operator) s0) req0 (ses0 .operator) := fresh0 _ _ rfl

/-- Both sides of a proof and of an enrolment: a tenant that no slot names fails whatever the algorithms answer, an operator
on the field port and a record in order pass where ML-DSA verifies (it is uninterpreted). -/
theorem witness_SessionsOpenAndClose_checks :
    (State.reset.roleOk .fieldPort .tenant [1] none = false)
    ∧ ((∀ k c x g, Config.dsaVerify k c x g = true) →
        (s0.modHub (fun h => { h with sec := { h.sec with opKeys := h.sec.opKeys.set 0 [7] } })).enrolOk enrol0 = true) := by
  refine ⟨by simp only [State.roleOk, Sec.seen]; split <;> decide, fun hv => ?_⟩
  have h1 : enrol0.length = 2464 := by simp [enrol0, leBytes]
  have h2 : leAt enrol0 0 1 = 1 ∧ leAt enrol0 1 1 = 15 ∧ leAt enrol0 2 1 = 0 ∧ leAt enrol0 3 1 = 0 ∧ leAt enrol0 36 8 = 1 := by
    simp [enrol0, leAt, slice, leNat, leBytes]
  have h3 : ∀ s : State, s = s0.modHub (fun h => { h with sec := { h.sec with opKeys := h.sec.opKeys.set 0 [7] } }) →
      s.hub.sec.enrCtr = 0 ∧ s.hub.sec.scope = 0 ∧ s.hub.sec.opKeys.toList.getD 0 [] = [7] := by
    intro s hs; subst hs; decide
  obtain ⟨a, b, c⟩ := h3 _ rfl
  have a' : (s0.modHub (fun h => { h with sec := { h.sec with opKeys := h.sec.opKeys.set 0 [7] } })).hub.sec.seen.enrCtr = 0 := by
    simp only [Sec.seen, a]; split <;> rfl
  simp only [State.enrolOk, h1, h2.1, h2.2.1, h2.2.2.1, h2.2.2.2.1, h2.2.2.2.2, a', b, c, hv]
  decide

/-- Tenant slots under their tag, and under one that does not hold where the algorithm tells the two apart. -/
theorem witness_SessionsOpenAndClose_tags (x : Sec) :
    x.sealSlots.recordOk 0 = true
    ∧ ({ x with slotTag := 0 :: Config.kmac x.mramKey (x.recordBytes 0) } : Sec).recordOk 0 = false := by
  have h : ∀ t : Bytes, ({ x with slotTag := t } : Sec).mramKey = x.mramKey ∧ ({ x with slotTag := t } : Sec).recordBytes 0 = x.recordBytes 0 :=
    fun _ => ⟨rfl, rfl⟩
  refine ⟨?_, ?_⟩
  · simp only [Sec.recordOk, decide_eq_true_eq]; rfl
  · simp only [Sec.recordOk, Sec.recordTag, h, decide_eq_false_iff_not]
    exact fun e => List.cons_ne_self _ _ e

theorem witness_DictionaryReadsAndWrites :
    (talking (ses0 .operator) s0).hub.fw.running = true
    ∧ (talking (ses0 .operator) s0).mayRead (ses0 .operator) 0x2011 0 ≠ 0
    ∧ (talking (ses0 .operator) s0).mayRead (ses0 .operator) 0x2010 1 = 0 ∧ (kindOf 0x2010 1).isSome = true
    ∧ (0x2010 : BitVec 16) ≠ 0x4020 ∧ (0x2010 : BitVec 16) ≠ 0x6000
    ∧ ((kindOf 0x2010 1).bind (fun k => typeBytes k.ty)).isSome = true ∧ ((kindOf 0x1008 0).bind (fun k => typeBytes k.ty)).isSome = false
    ∧ (1024 : BitVec 16).toNat ≤ 1024 ∧ 1024 < (1025 : BitVec 16).toNat ∧ mayWrite .operator 0x2000 2 ≠ 0
    ∧ (ses0 .tenant).role = .tenant ∧ (ses0 .vendor).role ≠ .tenant ∧ ([5] : Bytes).length = 1 ∧ ([] : Bytes).length ≠ 1
    ∧ (7 : BitVec 8).toNat < 8 ∧ 8 ≤ (8 : BitVec 8).toNat
    ∧ s0.periodFits 8000 = true ∧ (s0.modDie 0 (fun d => { d with plan := some { plan0 with frameLen := 6768001 } })).periodFits 8000 = false
    ∧ (let x : Session := { ses0 .operator with seg := some (0x6010, 1, 1312, .replicate 1024 1) }
       x.seg = some (0x6010, 1, 1312, .replicate 1024 1) ∧ (talking x s0).session 1 = some x) := by decide +kernel

theorem witness_DictionaryReadsAndWrites_discovery :
    highest 0x0FFF = none ∧ highest 0x1018 ≠ none ∧ subExists 0x1018 5 = false ∧ subExists 0x1018 4 = true
    ∧ (kindOf 0x1018 1).map (·.acc) = some .const_ ∧ (kindOf 0x1100 1).map (·.acc) ≠ some .const_
    ∧ (4 : BitVec 16) ≠ 0 ∧ (4 : BitVec 16).toNat ≤ 1024
    ∧ ((kindOf 0x1018 4).bind (fun k => typeBytes k.ty)).isSome = false
    ∧ s0.hub.board.rstLow = false ∧ s0.reachedBy .fieldPort = true := by decide

/-- Die 0 of the module of `talking` out of its lane's reach. -/
def outOfReach : State := (talking (ses0 .operator) s0).modDie 0 (fun d => { d with pow := { d.pow with noMore := true } })

theorem witness_DictionaryReadsAndWrites_checks :
    (talking (ses0 .operator) s0).laneAway 0x8000 1 = false ∧ outOfReach.laneAway 0x8000 1 = true
    ∧ outOfReach.mayRead (ses0 .operator) 0x8000 1 = 0 ∧ mayWrite .operator 0x8000 1 = 0
    ∧ (kindOf 0x8000 1).map (fun k => (fits k (.replicate 8 0), offType k (.replicate 8 0), fits k [])) = some (true, false, false)
    ∧ mayWrite .operator 0x3000 8 = 0 ∧ (kindOf 0x3000 8).map (fun k => (fits k [2], offType k [2])) = some (true, true)
    ∧ (talking (ses0 .operator) s0).mayRead (ses0 .operator) 0x6000 2 = 0 ∧ s0.hub.sec.report = []
    ∧ faultUnit (dieIndex 0x8000).2 1 = some .sched ∧ 0x8000 ≤ 0x8000 ∧ s0.dies[(dieIndex 0x8000).1].reached = true
    ∧ (faultUnit (dieIndex 0x813F).2 0x6D).isSome = true ∧ mayWrite .vendor 0x813F 0x6D = 0
    ∧ (4096 : U32).toNat = 4096 ∧ (268435456 : U32).toNat = 268435456 ∧ (4095 : U32).toNat < 4096
    ∧ 268435456 < (268435457 : U32).toNat ∧ (800 : U32).toNat = 800 ∧ (3400 : U32).toNat = 3400 ∧ (ses0 .operator).role ≠ .vendor := by
  decide +kernel

/-- A tenant whose plan is alone on the dies, and one whose plan is not. -/
theorem witness_DictionaryReadsAndWrites_tenants (x : Session) (h : x.role = .tenant) :
    (talking x State.reset).tenantMay x (List.finRange 8) = true
    ∧ ((talking x State.reset).modDie 0 (fun d => { d with plan := some { plan0 with tenant := 0 :: x.digest } })).tenantMay x (List.finRange 8)
        = false := by
  constructor
  · simp only [State.tenantMay, h]; rfl
  · have hne : ¬ 0 :: x.digest = x.digest := List.cons_ne_self _ _
    simp only [State.tenantMay, h, ne_eq, not_true_eq_false, decide_false, Bool.false_or]
    refine List.all_eq_false.mpr ⟨0, List.mem_finRange _, ?_⟩
    show ¬ decide (0 :: x.digest = x.digest) = true
    simp [hne]

theorem witness_DictionaryReadsAndWrites_segments :
    (List.replicate 1024 (1 : Byte)).length + (List.replicate 288 (2 : Byte)).length = 1312
    ∧ (List.replicate 288 (2 : Byte)).length ≤ 1024 ∧ (0 : BitVec 32).toNat ≠ (List.replicate 1024 (1 : Byte)).length := by
  simp only [List.length_replicate]; decide

/-- The key of job 5, of the tenant of these sessions. -/
def key0 : JobKey := { job := 5, tenant := Config.sha3 [], key := .replicate 32 1, at_ := 0, maxSerial := 0, loaded := false }

/-- The module Ready with die 0 in service, a tenant's session, and the key of job 5. -/
def tenancy (f : Hub → Hub) : State :=
  (talking (ses0 .tenant) s0).modHub (fun h => f { h with
    power := { h.power with state := 4 }, sec := { h.sec with keys := [key0] } })

theorem witness_SecurityRequests :
    ([] : Bytes).length ≠ 32 ∧ (List.replicate 32 (0 : Byte)).length = 32
    ∧ (tenancy id).hub.sec.unlocked = false ∧ ({ Sec.init with fault := 0x10 } : Sec).unlocked = true ∧ (1 : BitVec 16) ≠ 0 ∧ (1024 : BitVec 16).toNat ≤ 1024 ∧ ([] : Bytes).length ≠ 1092
    ∧ ({ ses0 .tenant with offer := some (5, [1]) } : Session).offer = some (5, [1]) ∧ (ses0 .tenant).offer = none
    ∧ (talking (ses0 .tenant) s0).jobRuns 5 = true ∧ (talking (ses0 .tenant) State.reset).jobRuns 5 = false
    ∧ ([] : Bytes).length ≠ 2508 ∧ Sec.init.tokenOk [] = false
    ∧ (let h := (s0.modHub (fun h => { h with sec := { h.sec with readyAt := some 0 }, fw := { h.fw with running := true } })).hub
       h.sec.readyAt ≠ none ∧ h.fw.running = true) ∧ State.reset.hub.sec.readyAt = none := by decide

theorem witness_SecurityRequests_capsule (rest : Bytes) (h : rest.length = 1088) :
    ([5, 0, 0, 0] ++ rest).length = 1092 ∧ ([5, 0, 0, 0] ++ rest).take 4 = ([5, 0, 0, 0] : Bytes)
    ∧ (talking (ses0 .tenant) State.reset).boundElse 5 (ses0 .tenant).digest = false
    ∧ ((talking (ses0 .tenant) State.reset).modHub (fun h => { h with dict := { h.dict with
        bindings := [(5, 0 :: (ses0 .tenant).digest)] } })).boundElse 5 (ses0 .tenant).digest = true := by
  refine ⟨by simp [h], by simp, rfl, ?_⟩
  simp [State.boundElse, State.modHub, talking]

theorem witness_SecurityRequests_expiry :
    ((tenancy (fun h => { h with time := { h.time with wall := 15000000000 } })).modDie 0 (fun d => { d with plan := none })).jobKey 5 = some key0
    ∧ key0.loaded = false ∧ key0.at_ + 15000000000 ≤ 15000000000
    ∧ (tenancy (fun h => { h with time := { h.time with wall := 15000000000 } })).now = 15000000000
    ∧ (tenancy id).now < key0.at_ + 15000000000 := ⟨rfl, rfl, Nat.le_refl _, rfl, by decide⟩

/-- A token passes where its fields are the module's and ML-DSA verifies (they are uninterpreted). -/
theorem witness_SecurityRequests_token (x : Sec) (v : Bytes) (h : leAt v 0 4 = 0x47445A59 ∧ leAt v 84 1 < 8 ∧ slice v 85 3 = slice [] 0 3)
    (hs : slice v 4 16 = serial16 ∧ slice v 20 32 = x.digest ∧ slice v 52 32 = x.chal)
    (hv : ∀ k c m g, Config.dsaVerify k c m g = true) : x.tokenOk v = true := by
  simp [Sec.tokenOk, h, hs, hv]

/-! Plan loading -/

/-- A container of job 5 with no section, of serial 1. -/
def container0 : Mem := [(4, 0xA0), (5, 0xB8), (8, 0xA1), (9, 5), (12, 1)]

/-- A load of the session of `tenancy` in progress, on a die without a plan. -/
def loading (standby : Bool) : State :=
  (tenancy (fun h => { h with dict := { h.dict with load := { LoadOp.init with
      st := .receiving, owner := 1, tenant := (ses0 .tenant).digest, job := 5, mask := 1, standby := standby, data := container0, size := 16 } } })).modDie 0
    (fun d => { d with plan := none })

/-- A plan for die 0 that passes every check of R477. -/
def plan1 : ClearPlan :=
  { clear0 with dies := [(0, { cores := [(3, { core0 with regs := [7], program := [1] })], slots := ⟨1, .replicate 136 [0]⟩, lam := 1128, delta := 1129,
                               double := false, offsets := .replicate 512 0 })] }

theorem witness_PlansLoad :
    (tenancy id).mayLoad = true ∧ (tenancy id).hub.dict.load.st ≠ .receiving ∧ (tenancy id).hub.dict.load.st ≠ .checking
    ∧ (ses0 .tenant).mask ≠ 0 ∧ (State.reset).mayLoad = false
    ∧ (∀ m : DieIx, bit (ses0 .tenant).mask m.val = true → (tenancy id).dies[m].inService = true
        ∧ (tenancy id).dies[m].plan = some plan0 ∧ plan0.job = (ses0 .tenant).job ∧ (tenancy id).dies[m].unloadAtEnd = false)
    ∧ ([0, 0, 0, 0, 0, 0, 0, 0] : Bytes).length < 9 ∧ 9 ≤ ([0, 0, 0, 0, 0, 0, 0, 0, 1] : Bytes).length
    ∧ (∀ b : Bool, (loading b).hub.dict.load.st = .receiving ∧ (loading b).hub.dict.load.owner = (ses0 .tenant).num
        ∧ (loading b).hub.dict.load.standby = b ∧ Cells.wf (loading b).hub.dict.load.data = true)
    ∧ bit (loading true).hub.dict.load.mask 0 = true
    ∧ (∀ m : DieIx, (loading true).tickDue m = false ∧ (loading true).lateDue m = false ∧ (loading true).dies[m].reached = true)
    ∧ s1.dies[a0.die].reached = true ∧ s1.tickDue 0 = false ∧ s1.lateDue 0 = false ∧ s1.runs 0 = true
    ∧ (tenancy id).hostEnd = none
    ∧ (let s := tenancy (fun h => { h with dict := { h.dict with hostPort := 3, hostSes := [(7, 5), (8, 6)] } })
       s.hostEnd ≠ none ∧ 3 ≤ s.hub.power.state.toNat ∧ s.hub.dict.hostSes.length < 65534
       ∧ s.hub.dict.hostSes.find? (fun z => z.1 = 7) = some (7, 5) ∧ (5 : BitVec 8) = (ses0 .tenant).job
       ∧ s.hub.dict.hostSes.find? (fun z => z.1 = 8) = some (8, 6) ∧ (6 : BitVec 8) ≠ (ses0 .tenant).job
       ∧ s.hub.dict.hostSes.find? (fun z => z.1 = 9) = none) := by decide

theorem witness_PlansLoad_keys :
    Fresh (tenancy id) req0 (ses0 .tenant) ∧ (tenancy id).boundElse (ses0 .tenant).job (ses0 .tenant).digest = false
    ∧ (tenancy id).jobKey (ses0 .tenant).job = some key0 ∧ key0.tenant = (ses0 .tenant).digest
    ∧ (loading false).jobKey (loading false).hub.dict.load.job = some key0 :=
  ⟨⟨rfl, rfl, rfl, rfl, rfl, rfl, rfl, rfl⟩, rfl, rfl, rfl, rfl⟩

/-- A job bound to another tenant, a job without its key, before and in a load, and a die with a tick to recognise. -/
theorem witness_PlansLoad_rows :
    ((tenancy (fun h => { h with dict := { h.dict with bindings := [(5, 0 :: (ses0 .tenant).digest)] } })).boundElse (ses0 .tenant).job
        (ses0 .tenant).digest = true)
    ∧ (tenancy (fun h => { h with sec := { h.sec with keys := [] } })).jobKey (ses0 .tenant).job = none
    ∧ (let s := (loading false).modHub (fun h => { h with sec := { h.sec with keys := [] } })
       s.jobKey s.hub.dict.load.job = none ∧ s.hub.dict.load.st = .receiving ∧ s.hub.dict.load.owner = (ses0 .tenant).num)
    ∧ (ses0 .tenant).mask = 1 <<< (0 : Fin 8).val ∧ (tenancy id).dies[0].reached = true := by
  refine ⟨?_, rfl, ⟨rfl, rfl, rfl⟩, by decide, by decide⟩
  simp [State.boundElse, State.modHub, tenancy, talking, ses0]

theorem witness_PlansLoad_tick :
    (((tenancy id).modDie 0 (fun d => { d with clock := { d.clock with tc := 4203 } })).tickDue 0 = true) := by decide

/-- A plan of the tenant of the session, and one of another: an operand of `planUnload` and of the arms. -/
theorem witness_PlansLoad_mine :
    (let s := (tenancy id).modDie 0 (fun d => { d with plan := some { plan0 with tenant := (ses0 .tenant).digest } })
     s.dies[0].plan = some { plan0 with tenant := (ses0 .tenant).digest } ∧ s.dies[0].frm.frun = false)
    ∧ (let s := (tenancy id).modDie 0 (fun d => { d with plan := some { plan0 with tenant := 0 :: (ses0 .tenant).digest } })
       s.dies[0].plan = some { plan0 with tenant := 0 :: (ses0 .tenant).digest } ∧ 0 :: (ses0 .tenant).digest ≠ (ses0 .tenant).digest) :=
  ⟨⟨rfl, rfl⟩, rfl, List.cons_ne_self _ _⟩

/-- A container of another product code is refused under R413. -/
theorem witness_PlansLoad_refused :
    ((loading false).modHub (fun h => { h with dict := { h.dict with load := { h.dict.load with data := [] } } })).loadVerdict (ses0 .tenant) key0 plan1
      = some (413, 0) := by decide

theorem loading_fields (b : Bool) : maskDies (loading b).hub.dict.load.mask = [0]
    ∧ (loading b).hub.dict.load.num 4 4 = productCode ∧ (loading b).hub.dict.load.num 8 1 = 0xA1
    ∧ (loading b).hub.dict.load.num 9 1 = (loading b).hub.dict.load.job.toNat ∧ (loading b).hub.dict.load.num 10 2 = 0 := by
  cases b <;> decide

/-- The container passes where ML-DSA verifies (it is uninterpreted), and the plan passes every further check. -/
theorem witness_PlansLoad_passes (hv : ∀ k c m g, Config.dsaVerify k c m g = true) :
    (∀ b : Bool, (loading b).envelopeBad (ses0 .tenant) key0 = none) ∧ (loading false).loadVerdict (ses0 .tenant) key0 plan1 = none := by
  have env : ∀ b : Bool, (loading b).envelopeBad (ses0 .tenant) key0 = none := fun b => by
    obtain ⟨hm, h1, h2, h3, h4⟩ := loading_fields b
    simp [State.envelopeBad, firstBad, hm, h1, h2, h3, h4, hv, LoadOp.sectionsOf, key0]
  refine ⟨env, ?_⟩
  unfold State.loadVerdict
  rw [env]
  decide +kernel

/-- Die 0 waiting for its plan, between frames and within one, and done. -/
def applying (frun wait : Bool) : State :=
  (s0.modDie 0 (fun d => { d with loadAtEnd := wait, frm := { d.frm with frun := frun } })).modHub (fun h => { h with dict := { h.dict with load :=
    { LoadOp.init with st := .checking, mask := 1, job := 5, plan := some (plan1, [], 1) } } })

theorem witness_PlansLoad_apply :
    (∀ frun wait : Bool, (applying frun wait).hub.dict.load.st = .checking ∧ (applying frun wait).dies[0].loadAtEnd = wait
      ∧ (applying frun wait).dies[0].inService = true ∧ (applying frun wait).dies[0].frm.frun = frun ∧ (applying frun wait).dies[0].ix = 0)
    ∧ (applying false false).dies[0].pow.clearing = false ∧ bit (applying true true).hub.dict.load.mask 0 = true
    ∧ (planForDie plan1 0).cores = [(3, { core0 with regs := [7], program := [1] })]
    ∧ (s0.core a0).ctl.act = false ∧ Cells.wf (s0.core a0).ctl.imem1 = true
    ∧ (0x2FFFF : BitVec 18).toNat + 0 < 0x30000 ∧ (0x30000 : BitVec 18).toNat ≤ 0x30000 := by decide

/-! Recorder and test access -/

def evented (sev : Nat) : State := s0.modDie 2 (fun d => { d with evq := [event0 sev] })

def record0 : Record := ⟨1, 1, event0 4, 0, 1⟩

theorem witness_RecordsAndTestAccess_order :
    (State.reset.stamped.firstEvent = none) ∧ (evented 2).stamped.firstEvent = some (2, { event0 2 with arr := some 0 })
    ∧ (let s := (State.reset.modHub (fun h => { h with rec_ := { h.rec_ with queue := [event0 2, event0 3] } })).stamped
       s.hub.rec_.queue = { event0 2 with arr := some 0 } :: [{ event0 3 with arr := some 0 }] ∧ s.firstEvent = none)
    ∧ (∀ at_ ∈ [4, 5], let s := ((evented 2).modHub (fun h => { h with
          time := { h.time with tc := 5, wall := 5 }, rec_ := { h.rec_ with queue := [{ event0 3 with arr := some at_ }] } })).stamped
       s.firstEvent = some (2, { event0 2 with arr := some 5 }) ∧ s.hub.rec_.queue = { event0 3 with arr := some at_ } :: []) := by decide +kernel

theorem witness_RecordsAndTestAccess :
    State.reset.hub.board.rstLow = false ∧ State.reset.hub.board.standby = true
    ∧ State.reset.hub.rec_.queue = [] ∧ (evented 2).engineReady = true
    ∧ (State.reset.modHub (fun h => { h with rec_ := { h.rec_ with takenAt := some 0 } })).engineReady = false ∧ (event0 1).sev < (evented 1).hub.rec_.minSev.toNat
    ∧ (evented 2).hub.rec_.minSev.toNat ≤ (event0 2).sev
    ∧ ((evented 2).hub.rec_.slots.map (·.1)).Pairwise (· < ·) ∧ (evented 2).hub.rec_.slots.length < 8192
    ∧ (let h := (State.reset.modHub (fun h => { h with fw := { h.fw with running := true }, rec_ := { h.rec_ with optime := 60 } })).hub
       h.fw.running = true ∧ h.rec_.stored.toNat + 60 ≤ h.rec_.optime.toNat)
    ∧ State.reset.hub.rec_.optime.toNat < State.reset.hub.rec_.stored.toNat + 60
    ∧ (let h := (State.reset.modHub (fun h => { h with dict := { h.dict with plcaNode := 3 } })).hub
       h.dict.plcaInForce ≠ h.dict.plcaNode ∧ h.dict.plcaAt ≤ h.time.wall)
    ∧ (let s := State.reset.modHub (fun h => { h with dict := { h.dict with plcaAt := 1 } }); s.now < s.hub.dict.plcaAt)
    ∧ (State.reset.modHub (fun h => { h with board := { h.board with standby := false } })).hub.board.standby = false
    ∧ State.reset.hub.tap.st ≠ .shDr ∧ jtagState.hub.tap.st = .shDr
    ∧ ({ Tap.init with st := .shDr, ir := 0x01 } : Tap).ir = 0x01 ∧ State.reset.hub.dataReg = .idcode
    ∧ ({ Hub.init with tap := { Tap.init with ir := 0xFF } } : Hub).dataReg = .bypass ∧ TapState.after .selIr true = .reset := by decide

theorem event0_less : (event0 2).sev < record0.ev.sev := by decide

/-- A full recorder whose every record is more severe. -/
theorem witness_RecordsAndTestAccess_full :
    8192 ≤ ((List.range 8192).map (fun i => (i, record0))).length ∧ ∀ y ∈ (List.range 8192).map (fun i => (i, record0)), (event0 2).sev < y.2.ev.sev := by
  refine ⟨by simp, fun y hy => ?_⟩
  obtain ⟨i, -, rfl⟩ := List.mem_map.mp hy
  exact event0_less

theorem witness_PowerModesLegal :
    ModesLegal { State.reset with pending := [.cnop a0] } ∧ step { State.reset with pending := [.cnop a0] } = .next State.reset := by
  refine ⟨⟨by decide, by decide, ?_, by decide, by decide⟩, rfl⟩
  intro t h; cases h


end Sys2Proof.Tests
end

/-! # Reads and writes of the object dictionary (O55)

A request of a session that is heard is executed and answered: first what every request, write and read does, then what the
entries of the statement do, and last the statement. -/

namespace Sys2Proof.Machine

/-! ### Requests that a session takes -/

section
variable {s : State} {r : Req} {x : Session} (pt : BitVec 8) (name : Response → Response) {cont : Session → Bool}
  (act : State → Session → State × Response)

/-- The next request of a session breaks off a segmented write that it does not continue, and else is executed and answered. -/
theorem State.request_inOrder (hx : s.session r.ses = some x) (ht : r.tagOk = true) (hn : r.rseq = x.rseq + 1) :
    s.request r true pt name cont act
      = if x.seg.isSome && !cont x then (s.modSession r.ses (fun y => { y with seg := none })).reply r (name (bare pt 0x0A))
        else (act s x).1.reply r (name (act s x).2) := by
  simp [State.request, hx, ht, hn]

theorem State.request_next (hx : s.session r.ses = some x) (ht : r.tagOk = true) (hn : r.rseq = x.rseq + 1)
    (hs : x.seg = none ∨ cont x = true) : s.request r true pt name cont act = (act s x).1.reply r (name (act s x).2) :=
  (s.request_inOrder pt name act hx ht hn).trans (if_neg (by obtain h | h := hs <;> simp [h]))

theorem State.request_breaks (hx : s.session r.ses = some x) (ht : r.tagOk = true) (hn : r.rseq = x.rseq + 1)
    (hs : x.seg.isSome = true) (hc : cont x = false) :
    s.request r true pt name cont act = (s.modSession r.ses (fun y => { y with seg := none })).reply r (name (bare pt 0x0A)) :=
  (s.request_inOrder pt name act hx ht hn).trans (if_pos (by simp [hs, hc]))

end

/-- Running firmware hears every request on the field port while RST_N is high. -/
theorem State.hears_fieldPort {s : State} (hr : s.hub.fw.running = true) (hl : s.hub.board.rstLow = false) (idx sub : Nat) :
    s.hears .fieldPort idx sub = true := by
  simp [State.hears, State.reachedBy, hr, hl]

/-! ### What a response leaves -/

theorem State.session_reply {s : State} {r : Req} {x : Session} (h : s.session r.ses = some x) (o : Response) :
    (s.reply r o).session r.ses = some { x with rseq := r.rseq, lastAt := s.now, resp := some o } :=
  s.session_modSession r.ses (fun y => { y with rseq := r.rseq, lastAt := s.now, resp := some o }) (fun _ => rfl) x h

theorem replied_reply (s : State) (r : Req) (o : Response) : Replied s r o (s.reply r o) := by
  refine ⟨rfl, ?_⟩
  simp [State.reply, State.modSession, State.modDict, updWhere]

theorem written_reply (s : State) (r : Req) (st : BitVec 8) (tot : Nat) (idx : BitVec 16) (sub : BitVec 8) (off : BitVec 32) :
    Written s r st (s.reply r ((bare 0x82 st tot).at_ idx sub off)) := ⟨idx, sub, off, tot, replied_reply ..⟩

theorem answered_reply {s : State} {r : Req} {x : Session} (h : s.session r.ses = some x) (pt st : BitVec 8) (tot : Nat)
    (idx : BitVec 16) (sub : BitVec 8) (off : BitVec 32) : Answered (s.reply r ((bare pt st tot).at_ idx sub off)) r pt st :=
  ⟨_, idx, sub, off, tot, State.session_reply h _, rfl, rfl⟩

theorem OnlySessions.reply {s t : State} (h : OnlySessions s t) (r : Req) (o : Response) : OnlySessions s (t.reply r o) := h

/-! ### Requests of a fresh session -/

section
variable {s : State} {r : Req} {x : Session}

theorem Fresh.session_eq (h : Fresh s r x) : s.session r.ses = some x := by
  obtain ⟨-, -, hx, -⟩ := h
  exact hx

theorem Fresh.num_eq (h : Fresh s r x) : x.num = r.ses := State.session_num h.session_eq

theorem Fresh.mramOk_eq (h : Fresh s r x) : r.mramOk = true := by
  obtain ⟨-, -, -, -, -, hm, -⟩ := h
  exact hm

theorem Fresh.seg_eq (h : Fresh s r x) : x.seg = none := by
  obtain ⟨-, -, -, -, -, -, -, hs⟩ := h
  exact hs

theorem Fresh.buffer_eq (h : Fresh s r x) : x.buffer = [] := by simp [Session.buffer, h.seg_eq]

theorem Fresh.whole_eq (h : Fresh s r x) (tot : Nat) : x.whole tot = tot := by simp [Session.whole, h.seg_eq]

end

/-- A row for the write of one entry: the whole value is judged and answered, whether or not the MRAM takes its commit. -/
theorem Fresh.put_mram {s : State} {r : Req} {x : Session} (h : Fresh s r x) (m : Bool) (idx sub : Nat) (v : Bytes) :
    s.put { r with mramOk := m } idx sub v
      = let e := s.writeEntry x idx sub v noPlan noStandby m
        .next (e.1.reply r ((bare 0x82 e.2 v.length).at_ (BitVec.ofNat 16 idx) (BitVec.ofNat 8 sub))) := by
  obtain ⟨hr, hl, hx, ht, hp, -, hn, hs⟩ := h
  have hh : s.hears { r with mramOk := m }.route idx sub = true := by simpa only [hp] using State.hears_fieldPort hr hl idx sub
  unfold State.put
  rw [hh, State.request_next (r := { r with mramOk := m }) _ _ _ hx ht hn (.inl hs)]
  rfl

theorem Fresh.put {s : State} {r : Req} {x : Session} (h : Fresh s r x) (idx sub : Nat) (v : Bytes) :
    s.put r idx sub v
      = let e := s.writeEntry x idx sub v noPlan noStandby
        .next (e.1.reply r ((bare 0x82 e.2 v.length).at_ (BitVec.ofNat 16 idx) (BitVec.ofNat 8 sub))) := by
  have hr : { r with mramOk := true } = r := by rw [← h.mramOk_eq]
  simpa only [hr] using h.put_mram true idx sub v

theorem Fresh.dictRead {s : State} {r : Req} {x : Session} (h : Fresh s r x) (idx : BitVec 16) (sub : BitVec 8) (off : BitVec 32)
    (len : BitVec 16) :
    exec (.dictRead r idx sub off len) s
      = let e := s.readEntry x idx.toNat sub.toNat off.toNat len.toNat
        .next (e.1.reply r (e.2.at_ idx sub off)) := by
  obtain ⟨hr, hl, hx, ht, hp, -, hn, hs⟩ := h
  show execDictRead r idx sub off len s = _
  simp only [execDictRead, State.readReq, hp, State.hears_fieldPort hr hl, BitVec.ofNat_toNat, BitVec.setWidth_eq]
  rw [State.request_next _ _ _ hx ht hn (.inl hs)]

/-- The next write PDU of a session is judged as a value or as the segment that continues it. -/
theorem State.dictWrite_next {s : State} {r : Req} {x : Session} {idx : BitVec 16} {sub : BitVec 8} {off : BitVec 32}
    (hh : s.hears r.route idx.toNat sub.toNat = true) (hx : s.session r.ses = some x) (ht : r.tagOk = true) (hn : r.rseq = x.rseq + 1)
    (hs : x.seg = none ∨ Session.continues idx sub off.toNat x = true) (tot : BitVec 32) (more : Bool) (v : Bytes) :
    exec (.dictWrite r idx sub off tot more v) s
      = let e := s.writeSegment x idx sub off.toNat tot.toNat more v r.mramOk
        .next (e.1.reply r (e.2.at_ idx sub off)) := by
  show execDictWrite r idx sub off tot more v s = _
  rw [execDictWrite, State.writeReq, hh, State.request_next _ _ _ hx ht hn hs]

/-- One that does not continue the session's segments drops them. -/
theorem State.dictWrite_breaks {s : State} {r : Req} {x : Session} {idx : BitVec 16} {sub : BitVec 8} {off : BitVec 32}
    (hh : s.hears r.route idx.toNat sub.toNat = true) (hx : s.session r.ses = some x) (ht : r.tagOk = true) (hn : r.rseq = x.rseq + 1)
    (hs : x.seg.isSome = true) (hc : Session.continues idx sub off.toNat x = false) (tot : BitVec 32) (more : Bool) (v : Bytes) :
    exec (.dictWrite r idx sub off tot more v) s
      = .next ((s.modSession r.ses (fun y => { y with seg := none })).reply r ((bare 0x82 0x0A).at_ idx sub off)) := by
  show execDictWrite r idx sub off tot more v s = _
  rw [execDictWrite, State.writeReq, hh, State.request_breaks _ _ _ hx ht hn hs hc]

theorem Fresh.dictWrite {s : State} {r : Req} {x : Session} (h : Fresh s r x) (idx : BitVec 16) (sub : BitVec 8)
    (off tot : BitVec 32) (more : Bool) (v : Bytes) :
    exec (.dictWrite r idx sub off tot more v) s
      = let e := s.writeSegment x idx sub off.toNat tot.toNat more v true
        .next (e.1.reply r (e.2.at_ idx sub off)) := by
  obtain ⟨hr, hl, hx, ht, hp, hm, hn, hs⟩ := h
  rw [State.dictWrite_next (by rw [hp]; exact State.hears_fieldPort hr hl ..) hx ht hn (.inl hs), hm]

/-! ### The checks of a write, in their order (R395) -/

section
variable {s : State} {x : Session} {idx sub : Nat} {v : Bytes} {p : ClearPlan} {c : ClearStandby} {m : Bool} {k : EntryKind}

theorem State.writeEntry_forbidden (h : mayWrite x.role idx sub ≠ 0) :
    s.writeEntry x idx sub v p c m = (s, mayWrite x.role idx sub) := if_pos h

theorem State.writeEntry_wrongLength (h : mayWrite x.role idx sub = 0) (hk : kindOf idx sub = some k) (hf : fits k v = false) :
    s.writeEntry x idx sub v p c m = (s, 6) := by
  simp [State.writeEntry, h, hk, hf]

theorem State.writeEntry_offType (h : mayWrite x.role idx sub = 0) (hk : kindOf idx sub = some k) (hf : fits k v = true)
    (ho : offType k v = true) : s.writeEntry x idx sub v p c m = (s, 7) := by
  simp [State.writeEntry, h, hk, hf, ho]

theorem State.writeEntry_laneAway (h : mayWrite x.role idx sub = 0) (hk : kindOf idx sub = some k) (hf : fits k v = true)
    (ho : offType k v = false) (hl : s.laneAway idx sub = true) : s.writeEntry x idx sub v p c m = (s, 8) := by
  simp [State.writeEntry, h, hk, hf, ho, hl]

theorem State.writeEntry_passes (h : mayWrite x.role idx sub = 0) (hk : kindOf idx sub = some k) (hf : fits k v = true)
    (ho : offType k v = false) (hl : s.laneAway idx sub = false) :
    s.writeEntry x idx sub v p c m = commit s (storedEntry idx sub) m (s.effect x idx sub v p c) := by
  simp [State.writeEntry, h, hk, hf, ho, hl]

/-- Where the MRAM takes what is committed to it, a write that passes the checks has its entry's effect. -/
theorem State.writeEntry_effect (h : mayWrite x.role idx sub = 0) (hk : kindOf idx sub = some k) (hf : fits k v = true)
    (ho : offType k v = false) (hl : s.laneAway idx sub = false) :
    s.writeEntry x idx sub v p c = s.effect x idx sub v p c := by
  simp [State.writeEntry_passes h hk hf ho hl, commit]

end

/-! ### Whole values in one request -/

/-- The session of a number without its open segments. -/
def State.dropSegments (s : State) (n : BitVec 16) : State := s.modSession n (fun y => { y with seg := none })

theorem State.session_dropSegments {s : State} {n : BitVec 16} {x : Session} (h : s.session n = some x) :
    (s.dropSegments n).session n = some { x with seg := none } :=
  s.session_modSession n (fun y => { y with seg := none }) (fun _ => rfl) x h

theorem onlySessions_dropSegments (s : State) (n : BitVec 16) : OnlySessions s (s.dropSegments n) := rfl

/-- A write that the role may not make is refused, segmented or not. -/
theorem State.writeSegment_forbidden {s : State} {x : Session} {idx : BitVec 16} {sub : BitVec 8}
    (h : mayWrite x.role idx.toNat sub.toNat ≠ 0) (off tot : Nat) (more : Bool) (v : Bytes) (m : Bool) :
    s.writeSegment x idx sub off tot more v m
      = (s.dropSegments x.num, bare 0x82 (mayWrite x.role idx.toNat sub.toNat) (x.whole tot)) := if_pos h

/-- The last segment of a value is judged as that value, whole. -/
theorem State.writeSegment_last {s : State} {x : Session} {idx : BitVec 16} {sub : BitVec 8} {off tot : Nat} {v : Bytes} (m : Bool)
    (hv : v.length ≤ 1024) (ho : off = x.buffer.length) (hn : (x.buffer ++ v).length = x.whole tot) :
    s.writeSegment x idx sub off tot false v m
      = (s.dropSegments x.num).writeWhole { x with seg := none } idx.toNat sub.toNat (x.buffer ++ v) noPlan noStandby m := by
  by_cases h : mayWrite x.role idx.toNat sub.toNat = 0
  · simp [State.writeSegment, h, Nat.not_lt.2 hv, ho, hn, State.dropSegments]
  · rw [State.writeSegment_forbidden h, State.writeWhole, State.writeEntry_forbidden (x := { x with seg := none }) h, hn]

/-- A segment of an octet string that more are to follow is kept with those before it. -/
theorem State.writeSegment_more {s : State} {x : Session} {idx : BitVec 16} {sub : BitVec 8} {off tot : Nat} {v : Bytes} {k : EntryKind}
    (m : Bool) (h : mayWrite x.role idx.toNat sub.toNat = 0) (hk : kindOf idx.toNat sub.toNat = some k) (ht : typeBytes k.ty = none)
    (hv : v.length ≤ 1024) (ho : off = x.buffer.length) (hn : x.whole tot ≤ k.most) (hl : (x.buffer ++ v).length ≤ x.whole tot) :
    s.writeSegment x idx sub off tot true v m
      = (s.modSession x.num (fun y => { y with seg := some (idx, sub, x.whole tot, x.buffer ++ v) }), bare 0x82 0 (x.whole tot)) := by
  simp only [State.writeSegment, h, hk, ht, Nat.not_lt.2 hv, ho, Nat.not_lt.2 hn, Nat.not_lt.2 hl, ne_eq, not_true_eq_false,
    if_false, if_true, Option.isSome_none, decide_false, Bool.or_self, Bool.false_eq_true]

/-- A whole value in one request of a fresh session, as the statements about writes say it. -/
def Writes (s : State) (r : Req) (idx : BitVec 16) (sub : BitVec 8) (v : Bytes) (st : BitVec 8) (z : State) : Prop :=
  ∃ t, exec (.dictWrite r idx sub 0 (BitVec.ofNat 32 v.length) false v) s = .next t ∧ OnlySessions z t ∧ Answered t r 0x82 st

section
variable {s u z : State} {r : Req} {x : Session} {idx : BitVec 16} {sub : BitVec 8} {v : Bytes} {st : BitVec 8}

theorem Fresh.dropSegments_session (h : Fresh s r x) : (s.dropSegments r.ses).session r.ses = some x := by
  rw [State.session_dropSegments h.session_eq, ← h.seg_eq]

/-- A whole value in one request is judged and answered on the state without the session's segments. -/
theorem Fresh.writeValue (h : Fresh s r x) (hv : v.length ≤ 1024) :
    exec (.dictWrite r idx sub 0 (BitVec.ofNat 32 v.length) false v) s
      = let e := (s.dropSegments r.ses).writeEntry x idx.toNat sub.toNat v noPlan noStandby
        .next (e.1.reply r ((bare 0x82 e.2 v.length).at_ idx sub 0)) := by
  have hx : { x with seg := none } = x := by rw [← h.seg_eq]
  have hn : (BitVec.ofNat 32 v.length).toNat = v.length := by rw [BitVec.toNat_ofNat, Nat.mod_eq_of_lt (by omega)]
  rw [h.dictWrite, State.writeSegment_last true hv (by simp [h.buffer_eq]) (by rw [h.buffer_eq, h.whole_eq, hn]; rfl), hx,
    h.buffer_eq, h.num_eq]
  rfl

theorem Fresh.writeValue_eq (h : Fresh s r x) (hv : v.length ≤ 1024)
    (he : (s.dropSegments r.ses).writeEntry x idx.toNat sub.toNat v noPlan noStandby = (u, st)) :
    exec (.dictWrite r idx sub 0 (BitVec.ofNat 32 v.length) false v) s
      = .next (u.reply r ((bare 0x82 st v.length).at_ idx sub)) := by
  rw [h.writeValue hv, he]

/-- What a write of a whole value does and answers is what its entry does and answers. -/
theorem Fresh.writes (h : Fresh s r x) (hv : v.length ≤ 1024)
    (he : (s.dropSegments r.ses).writeEntry x idx.toNat sub.toNat v noPlan noStandby = (u, st)) (hz : OnlySessions z u)
    {y : Session} (hu : u.session r.ses = some y) : Writes s r idx sub v st z :=
  ⟨_, h.writeValue_eq hv he, hz.reply r _, answered_reply hu ..⟩

/-- A refused write of a whole value changes no more than its session. -/
theorem Fresh.writes_refused (h : Fresh s r x) (hv : v.length ≤ 1024)
    (he : (s.dropSegments r.ses).writeEntry x idx.toNat sub.toNat v noPlan noStandby = (s.dropSegments r.ses, st)) :
    Writes s r idx sub v st s :=
  h.writes hv he (onlySessions_dropSegments s r.ses) h.dropSegments_session

end

/-! ### Reads and discovery -/

/-- A read asks for no byte, for more than 1,024, or for a later part of a scalar: the test that reads and discovery share. -/
def partBad (k : EntryKind) (off len : Nat) : Bool := len = 0 || 1024 < len || (off ≠ 0 && (typeBytes k.ty).isSome)

theorem partBad_eq_false_iff (k : EntryKind) (off : BitVec 32) (len : BitVec 16) :
    partBad k off.toNat len.toNat = false ↔ len ≠ 0 ∧ len.toNat ≤ 1024 ∧ (off = 0 ∨ (typeBytes k.ty).isSome = false) := by
  have ho : off.toNat = 0 ↔ off = 0 := by rw [← BitVec.toNat_inj]; rfl
  have hl : len.toNat = 0 ↔ len = 0 := by rw [← BitVec.toNat_inj]; rfl
  simp only [partBad, Bool.or_eq_false_iff, Bool.and_eq_false_iff, decide_eq_false_iff_not, ho, hl, not_lt, not_not, ne_eq, and_assoc]

/-- The response of a read that answers a part of a value. -/
def partOf (k : EntryKind) (v : Bytes) (off len : Nat) : Response :=
  { pt := 0x81, st := 0, ty := BitVec.ofNat 8 k.ty, tot := v.length, value := cut v off len }

theorem entryType_of_kindOf {i j : Nat} {k : EntryKind} (hs : subExists i j = true) (hk : kindOf i j = some k) :
    entryType i j = k.ty := by simp [entryType, hs, hk]

/-- A part of a value that is not empty keeps its type code and length when it names its entry. -/
theorem Response.at_of_value {o : Response} {idx : BitVec 16} {sub : BitVec 8} {off : BitVec 32} {k : EntryKind}
    (hs : subExists idx.toNat sub.toNat = true) (hk : kindOf idx.toNat sub.toNat = some k) (hty : o.ty = BitVec.ofNat 8 k.ty)
    (ht : o.tot ≠ 0) : o.at_ idx sub off = { o with idx := idx, sub := sub, off := off } := by
  simp [Response.at_, entryType_of_kindOf hs hk, hty, ht]

section
variable {s : State} {x : Session} {idx sub off len : Nat} {k : EntryKind}

theorem State.readEntry_forbidden (h : s.mayRead x idx sub ≠ 0) :
    s.readEntry x idx sub off len = (s, bare 0x81 (s.mayRead x idx sub)) := if_pos h

theorem State.readEntry_badPart (h : s.mayRead x idx sub = 0) (hk : kindOf idx sub = some k) (hp : partBad k off len = true) :
    s.readEntry x idx sub off len = (s, bare 0x81 6) := by
  simp only [State.readEntry, h, hk]
  exact if_pos hp

/-- 0x6000.02 holds nothing until its report is ready (R406). -/
theorem State.readEntry_noReport (h : s.mayRead x 0x6000 2 = 0) (hk : kindOf 0x6000 2 = some k) (hp : partBad k off len = false)
    (hr : s.hub.sec.report = []) : s.readEntry x 0x6000 2 off len = (s, bare 0x81 8) := by
  simp only [State.readEntry, h, hk]
  refine (if_neg (Bool.eq_false_iff.1 hp)).trans ?_
  simp [hr]

/-- Every entry but the job key offer and a report that is not there is read over the lane it needs. -/
theorem State.readEntry_rest (h : s.mayRead x idx sub = 0) (hk : kindOf idx sub = some k) (hp : partBad k off len = false)
    (ho : idx ≠ 0x4020 ∨ sub ≠ 1) (hr : idx ≠ 0x6000 ∨ sub ≠ 2 ∨ s.hub.sec.report ≠ []) :
    s.readEntry x idx sub off len
      = (s, if s.laneAway idx sub then bare 0x81 8 else partOf k (s.value x idx sub) off len) := by
  have ho' : (decide (idx = 0x4020) && decide (sub = 1)) = false := by simpa [imp_iff_not_or] using ho
  have hr' : (decide (idx = 0x6000) && decide (sub = 2) && s.hub.sec.report.isEmpty) = false := by
    simpa [imp_iff_not_or, or_assoc] using hr
  simp only [State.readEntry, h, hk]
  refine (if_neg (Bool.eq_false_iff.1 hp)).trans ?_
  simp only [ho', hr', Bool.false_eq_true, if_false]
  split <;> rfl

theorem State.subExists_of_mayRead (h : s.mayRead x idx sub = 0) : subExists idx sub = true := by
  by_contra hn
  unfold State.mayRead at h
  split at h
  · cases h
  · rw [if_pos (by simpa using hn)] at h
    cases h

end

/-- Below 0x2000 no value depends on the session. -/
theorem State.value_below {s : State} {x : Session} {i j : Nat} (h : i < 0x2000) :
    s.value x i j = if j = 0 && i ≠ 0x1008 then leBytes 1 ((highest i).getD 0) else s.value1 i j := by
  simp only [State.value, h, if_true]

/-! #### Discovery (R390) -/

/-- What a discovery read that is heard answers: the first check that fails, or the part of the value. -/
def State.discoveryAnswer (s : State) (route : Route) (i j off len : Nat) : Response :=
  if (highest i).isNone then bare 0x81 1
  else if !subExists i j then bare 0x81 2
  else
    match kindOf i j with
    | none => bare 0x81 2
    | some k =>
      if route ≠ .fieldPort || i < 0x1000 || 0x2000 ≤ i || k.acc ≠ .const_ then bare 0x81 3
      else if partBad k off len then bare 0x81 6
      else partOf k (if j = 0 && i ≠ 0x1008 then leBytes 1 ((highest i).getD 0) else s.value1 i j) off len

section
variable {s : State} {route : Route} {i j off len : Nat} {k : EntryKind}

theorem State.discoveryAnswer_noIndex (h : highest i = none) : s.discoveryAnswer route i j off len = bare 0x81 1 := by
  simp [State.discoveryAnswer, h]

theorem State.discoveryAnswer_noSub (h : highest i ≠ none) (hs : subExists i j = false) :
    s.discoveryAnswer route i j off len = bare 0x81 2 := by
  simp [State.discoveryAnswer, h, hs]

theorem State.discoveryAnswer_closed (h : highest i ≠ none) (hs : subExists i j = true) (hk : kindOf i j = some k)
    (hc : route = .inBand ∨ i < 0x1000 ∨ 0x2000 ≤ i ∨ k.acc ≠ .const_) : s.discoveryAnswer route i j off len = bare 0x81 3 := by
  have hc' : (route ≠ .fieldPort || i < 0x1000 || 0x2000 ≤ i || k.acc ≠ .const_) = true := by
    obtain rfl | h | h | h := hc <;> simp [h]
  simp only [State.discoveryAnswer, Option.isNone_iff_eq_none, h, hs, hk, hc', if_true, if_false, Bool.not_true, Bool.false_eq_true]

/-- A const entry of 0x1000 to 0x1FFF answers on the field port. -/
theorem State.discoveryAnswer_open (x : Session) (h : highest i ≠ none) (hs : subExists i j = true) (hk : kindOf i j = some k)
    (hl : 0x1000 ≤ i) (hu : i < 0x2000) (hc : k.acc = .const_) :
    s.discoveryAnswer .fieldPort i j off len
      = if partBad k off len then bare 0x81 6 else partOf k (s.value x i j) off len := by
  simp only [State.discoveryAnswer, Option.isNone_iff_eq_none, h, hs, hk, hc, State.value_below hu, Nat.not_lt.2 hl, Nat.not_le.2 hu,
    ne_eq, not_true_eq_false, decide_false, Bool.or_self, if_false, Bool.not_true, Bool.false_eq_true]

end

/-- A discovery read that is heard changes the last discovery response alone. -/
theorem discoveryRead_heard {s : State} {route : Route} (hr : s.hub.fw.running = true) (hl : s.hub.board.rstLow = false)
    (hb : s.reachedBy route = true) (idx : BitVec 16) (sub : BitVec 8) (off : BitVec 32) (len : BitVec 16) :
    exec (.discoveryRead route idx sub off len) s
      = .next (s.modDict (fun d => { d with
          lastDisc := some ((s.discoveryAnswer route idx.toNat sub.toNat off.toNat len.toNat).at_ idx sub off) })) := by
  show execDiscoveryRead route idx sub off len s = _
  simp only [execDiscoveryRead, State.discover, hr, hl, hb, BitVec.ofNat_toNat, BitVec.setWidth_eq, Bool.not_true, Bool.or_self,
    Bool.false_eq_true, if_false, State.discoveryAnswer]
  split
  · rfl
  · split
    · rfl
    · cases kindOf idx.toNat sub.toNat with
      | none => rfl
      | some k =>
        dsimp only
        split
        · rfl
        · by_cases hp : partBad k off.toNat len.toNat = true
          · rw [if_pos hp]; exact congrArg _ (if_pos hp)
          · rw [if_neg hp]; exact congrArg _ (if_neg hp)

/-! ### What a port that begins anew leaves

A change of the host-facing port takes a link down and wakes another. Neither touches what the module holds for its users: the
sessions, the coordinates, the role keys and the plans. -/

/-- What the module holds for its users. -/
structure Holdings where
  sessions : List Session
  base     : U32
  size     : U32
  opKeys   : Vector Bytes 8
  tenants  : Vector (Option Bytes) 16
  plans    : Vector (Option Loaded) 8

def State.holdings (s : State) : Holdings :=
  ⟨s.hub.dict.sessions, s.hub.dict.base, s.hub.dict.size, s.hub.sec.opKeys, s.hub.sec.tenants, s.dies.map (·.plan)⟩

/-- Updates of the state keep the holdings where the update of the part does. -/
theorem State.holdings_modDie (s : State) (n : DieIx) (f : Die → Die) (h : ∀ d, (f d).plan = d.plan) :
    (s.modDie n f).holdings = s.holdings := by
  have : (vupd s.dies n f).map (·.plan) = s.dies.map (·.plan) := by
    ext i hi
    by_cases e : n.val = i
    · subst e; simp [h]
    · simp [vupd_get_ne _ _ _ _ _ e]
  simp [State.holdings, State.modDie, this]

@[simp] theorem State.holdings_modPort (s : State) (p : PortIx) (f : Port → Port) : (s.modPort p f).holdings = s.holdings := rfl

theorem State.holdings_modHub (s : State) (f : Hub → Hub) (hd : (f s.hub).dict.sessions = s.hub.dict.sessions)
    (hb : (f s.hub).dict.base = s.hub.dict.base) (hz : (f s.hub).dict.size = s.hub.dict.size)
    (hs : (f s.hub).sec.opKeys = s.hub.sec.opKeys) (ht : (f s.hub).sec.tenants = s.hub.sec.tenants) :
    (s.modHub f).holdings = s.holdings := by simp [State.holdings, hd, hb, hz, hs, ht]

theorem State.holdings_foldl {α : Type} {f : State → α → State} (h : ∀ s a, (f s a).holdings = s.holdings) (l : List α) (s : State) :
    (l.foldl f s).holdings = s.holdings := by
  induction l generalizing s with
  | nil => rfl
  | cons a l ih => exact (ih (f s a)).trans (h s a)

@[simp] theorem State.holdings_modLink (s : State) (e : LinkEnd) (f : Link → Link) : (s.modLink e f).holdings = s.holdings := by
  cases e with
  | port p => rfl
  | pkg n a => exact s.holdings_modDie n _ (fun _ => rfl)

/-! #### Dies -/

theorem Die.fault_plan (d : Die) (u : DieUnit) (b : FBit) (sub : Nat) : (d.fault u b sub).plan = d.plan := by
  have h := congrArg Die.plan (d.fault_only u b sub)
  cases u <;> exact h

theorem Die.eventOnce_plan (d : Die) (sev : Nat) (unitk : BitVec 8) (unit : BitVec 16) (rule : Nat) (bit : BitVec 8) (det : Bytes) :
    (d.eventOnce sev unitk unit rule bit det).plan = d.plan := by
  have h := congrArg Die.plan (d.eventOnce_only sev unitk unit rule bit det)
  exact h

theorem Die.answerOwn_plan (d : Die) (c by_ : CoreIx) (a : Answer) (due : Nat) : (d.answerOwn c by_ a due).plan = d.plan := by
  unfold Die.answerOwn
  split <;> rfl

theorem Die.lossAway_plan (d : Die) (r : Routed) : (d.lossAway r).plan = d.plan := by
  unfold Die.lossAway
  split <;> rfl

theorem Die.cutLane_plan (d : Die) (i : Fin 7) (host : Bool) : (d.cutLane i host).plan = d.plan := by
  unfold Die.cutLane
  dsimp only
  split
  · split
    · exact Die.lossAway_plan ..
    · split
      · exact Die.lossAway_plan ..
      · rfl
  · split
    · split
      · exact Die.lossAway_plan ..
      · rfl
    · rfl

/-! #### Answers of routers and of the bridge -/

@[simp] theorem State.holdings_notifyHost (s : State) (code : Nat) (o : HostOut) : (s.notifyHost code o).holdings = s.holdings := by
  unfold State.notifyHost
  split <;> simp [State.enqueueFlit]

@[simp] theorem State.holdings_answerHost (s : State) (code : Nat) (m : MsgId) (by_ : Option (BitVec 23)) :
    (s.answerHost code m by_).holdings = s.holdings := by
  unfold State.answerHost
  split
  · rw [State.holdings_notifyHost, State.holdings_modHub] <;> rfl
  · rfl

@[simp] theorem State.holdings_answerHere (s : State) (n : DieIx) (c by_ : CoreIx) (code : Nat) (m : MsgId) (host : Bool) :
    (s.answerHere n c by_ code m host).holdings = s.holdings := by
  unfold State.answerHere
  split
  · simp
  · exact s.holdings_modDie n _ (fun d => d.answerOwn_plan ..)

@[simp] theorem State.holdings_answerFlit (s : State) (n : DieIx) (f : Flit) (code : Nat) (bridge : Bool) :
    (s.answerFlit n f code bridge).holdings = s.holdings := by
  unfold State.answerFlit
  split
  · rfl
  · split
    · simp
    · exact s.holdings_modDie n _ (fun _ => rfl)

@[simp] theorem State.holdings_hostDone (s : State) (x : ToHost) (code : Nat) : (s.hostDone x code).holdings = s.holdings := by
  have h : (s.modHub (fun h => { h with dict := { h.dict with toHost := h.dict.toHost.erase x } })).holdings = s.holdings := by
    rw [State.holdings_modHub] <;> rfl
  unfold State.hostDone
  dsimp only
  split
  · rw [State.holdings_answerFlit, h]
  · exact h

/-! #### Link ends -/

@[simp] theorem State.holdings_flushOut (s : State) (e : LinkEnd) : (s.flushOut e).holdings = s.holdings := by
  have hq : (if (s.link e).st = .host then (s.hub.dict.toHost.filter (·.sent)).foldl (fun s x => s.hostDone x 7) s
      else ((s.link e).outq.filter (fun f => f.fk = 1)).foldl (fun s f => s.answerFlit (endDie e) f 7) s).holdings = s.holdings := by
    split
    · exact State.holdings_foldl (fun s x => s.holdings_hostDone x 7) _ s
    · exact State.holdings_foldl (fun s f => s.holdings_answerFlit (endDie e) f 7 false) _ s
  unfold State.flushOut
  dsimp only
  refine (State.holdings_modDie _ _ _ ?_).trans ?_
  · exact fun _ => rfl
  split
  · exact (State.holdings_modDie _ _ _ (fun d => d.fault_plan ..)).trans hq
  · exact hq

@[simp] theorem State.holdings_dropLink (s : State) (e : LinkEnd) (new : LinkState) : (s.dropLink e new).holdings = s.holdings := by
  unfold State.dropLink
  dsimp only
  rw [State.holdings_modLink, State.holdings_modDie _ _ _ (fun d => by rw [Die.cutLane_plan, Die.cutLane_plan]),
    State.holdings_flushOut]

/-- A change of the alignment state changes it and the recorder's queue alone. -/
theorem Hub.setAlign_eq (h : Hub) (st : BitVec 8) :
    ∃ a q, h.setAlign st = { h with time := { h.time with align := a }, rec_ := { h.rec_ with queue := q } } := by
  unfold Hub.setAlign
  split
  · exact ⟨_, _, rfl⟩
  · exact ⟨_, _, rfl⟩

/-- A choice of the upstream neighbour changes the hub die's time and the recorder's queue alone, and no frame period. -/
theorem State.chooseUpstream_eq (s : State) :
    ∃ time q, s.chooseUpstream = { s with hub := { s.hub with time := time, rec_ := { s.hub.rec_ with queue := q } } }
      ∧ time.period = s.hub.time.period := by
  have aligned : ∀ (time : HubTime) (st : BitVec 8), time.period = s.hub.time.period →
      ∃ time' q, s.modHub (fun h => ({ h with time := time } : Hub).setAlign st)
          = { s with hub := { s.hub with time := time', rec_ := { s.hub.rec_ with queue := q } } }
        ∧ time'.period = s.hub.time.period := fun time st h => by
    obtain ⟨a, q, e⟩ := ({ s.hub with time := time } : Hub).setAlign_eq st
    exact ⟨{ time with align := a }, q, by rw [State.modHub, e], h⟩
  unfold State.chooseUpstream
  split
  · exact aligned _ 0 rfl
  · split
    · exact ⟨_, _, rfl, rfl⟩
    · dsimp only
      split
      · exact ⟨_, _, rfl, rfl⟩
      · exact aligned _ 1 rfl

@[simp] theorem State.holdings_chooseUpstream (s : State) : s.chooseUpstream.holdings = s.holdings := by
  obtain ⟨time, q, e, -⟩ := s.chooseUpstream_eq
  rw [e]
  rfl

@[simp] theorem State.holdings_upstreamLost (s : State) : s.upstreamLost.holdings = s.holdings := by
  unfold State.upstreamLost
  dsimp only
  split <;> simp

@[simp] theorem State.holdings_portFault (s : State) (p : PortIx) (b : FBit) (det : Option Bytes) :
    (s.portFault p b det).holdings = s.holdings := by
  unfold State.portFault
  dsimp only
  refine (State.holdings_modDie _ _ _ ?_).trans (s.holdings_modPort ..)
  exact fun d => d.eventOnce_plan ..

@[simp] theorem State.holdings_event (s : State) (sev : Nat) (unitk : BitVec 8) (unit : BitVec 16) (rule : Nat) (bit : BitVec 8)
    (det : Bytes) : (s.modHub (·.event sev unitk unit rule bit det)).holdings = s.holdings := rfl

@[simp] theorem State.holdings_raiseTopo (s : State) : s.raiseTopo.holdings = s.holdings := rfl

theorem State.holdings_addReport (s : State) (r : Bytes) : (s.modHub (·.addReport r)).holdings = s.holdings := by
  simp [State.holdings, Hub.addReport]

@[simp] theorem State.holdings_report (s : State) (p : PortIx) (cause : Nat) : (s.report p cause).holdings = s.holdings := by
  unfold State.report
  dsimp only
  split
  · rfl
  · split
    · exact s.holdings_addReport _
    · exact s.holdings_modDie _ _ (fun d => by split <;> rfl)

@[simp] theorem State.holdings_portDown (s : State) (p : PortIx) (new : LinkState) (cause : Nat) :
    (s.portDown p new cause).holdings = s.holdings := by
  unfold State.portDown
  dsimp only
  rw [State.holdings_report, State.holdings_raiseTopo]
  split <;> simp

@[simp] theorem State.holdings_linkDown (s : State) (e : LinkEnd) (new : LinkState) (cause : Nat) :
    (s.linkDown e new cause).holdings = s.holdings := by
  unfold State.linkDown
  split
  · cases e <;> simp
  · rfl

@[simp] theorem State.holdings_wakeEnd (s : State) (e : LinkEnd) : (s.wakeEnd e).holdings = s.holdings := by
  unfold State.wakeEnd
  dsimp only
  split
  · split <;> simp
  · simp
  · rfl

@[simp] theorem State.holdings_portAnew (s : State) (p : PortIx) : (s.portAnew p).holdings = s.holdings := by
  unfold State.portAnew
  dsimp only
  split
  · split <;> simp
  · split <;> simp

theorem State.holdings_writeHostPort (s : State) (v : BitVec 8) : (s.writeHostPort v).1.holdings = s.holdings := by
  have h : (s.modHub (fun h => Hub.takeCfg { h with dict := { h.dict with hostPort := v } })).holdings = s.holdings := rfl
  unfold State.writeHostPort
  split
  · rfl
  · split
    · rfl
    · dsimp only
      split <;> split <;> simp [h]

/-- A plan, if there is one, fits a frame period (R204). -/
def planFits (n : Nat) : Option Loaded → Bool
  | some p => budgetOk p.frameLen p.allow p.theta n
  | none => true

/-- Which frame periods fit is judged on the plans alone. -/
theorem State.periodFits_eq (s : State) (n : Nat) : s.periodFits n = s.holdings.plans.toList.all (planFits n) := by
  rw [show s.holdings.plans = s.dies.map (·.plan) from rfl, Vector.toList_map, List.all_map]
  rfl

theorem State.periodFits_of_holdings {s t : State} (h : t.holdings = s.holdings) (n : Nat) : t.periodFits n = s.periodFits n := by
  rw [State.periodFits_eq, State.periodFits_eq, h]

/-! ### Fault words of a die (R7, R379) -/

/-- The core that a unit belongs to; none for the units of the die itself. -/
def DieUnit.coreOf : DieUnit → Option CoreIx
  | .ctl c | .core c | .vec c | .stream c _ | .hdl c | .sync c | .rings c | .chan c _ => some c
  | .sched | .clock | .router => none

/-- The fault word of a unit within its core. -/
def Core.faultOf (k : Core) : DieUnit → U64
  | .ctl _ => k.ctl.fault
  | .core _ => k.fault
  | .vec _ => k.vec.fault
  | .stream _ u => k.st[u].fault
  | .hdl _ => k.hdl.fault
  | .sync _ => k.sync.fault
  | .rings _ => k.rings.fault
  | .chan _ j => k.vault.chans[j].fault
  | .sched | .clock | .router => 0

theorem Die.faultOf_of_core (d : Die) {o : DieUnit} {c : CoreIx} (h : o.coreOf = some c) : d.faultOf o = d.cores[c].faultOf o := by
  cases o <;> cases h <;> rfl

/-- A change of a core changes the fault words of its own units alone. -/
theorem Die.faultOf_modCore (d : Die) (c : CoreIx) (f : Core → Core) (o : DieUnit) :
    (d.modCore c f).faultOf o = if o.coreOf = some c then (f d.cores[c]).faultOf o else d.faultOf o := by
  cases h : o.coreOf with
  | none => cases o <;> cases h <;> rfl
  | some x =>
    rw [Die.faultOf_of_core _ h, Die.faultOf_of_core _ h]
    by_cases e : x = c
    · subst e; simp
    · rw [d.modCore_other c x f e, if_neg (by simpa using e)]

theorem vupd_get_val {α : Type} {n : Nat} (v : Vector α n) (i j : Fin n) (f : α → α) :
    (vupd v i f)[j.val] = if j = i then f v[i.val] else v[j.val] := vupd_get v i j f

theorem Die.faultOf_modFault_same (d : Die) (f : U64 → U64) (u : DieUnit) : (d.modFault f u).faultOf u = f (d.faultOf u) := by
  cases u <;> simp [Die.modFault, Die.faultOf]

/-- A change of a core that leaves a unit's fault word within it leaves that unit's fault word. -/
theorem Die.faultOf_modCore_kept (d : Die) (c : CoreIx) (f : Core → Core) (o : DieUnit)
    (h : o.coreOf = some c → (f d.cores[c]).faultOf o = d.cores[c].faultOf o) : (d.modCore c f).faultOf o = d.faultOf o := by
  rw [Die.faultOf_modCore]
  split
  case isTrue e => rw [h e, d.faultOf_of_core e]
  case isFalse => rfl

/-- Every unit has a fault word of its own: two units of one core differ in kind or in sub-unit. -/
theorem Die.faultOf_modFault_other (d : Die) (f : U64 → U64) {u o : DieUnit} (h : o ≠ u) :
    (d.modFault f u).faultOf o = d.faultOf o := by
  cases u with
  | sched | clock | router => cases o <;> simp_all [Die.modFault, Die.faultOf]
  | ctl c | core c | vec c | stream c _ | hdl c | sync c | rings c | chan c _ =>
    refine d.faultOf_modCore_kept c _ o (fun e => ?_)
    cases o <;> simp_all [Core.faultOf, DieUnit.coreOf, vupd_get_val]

/-- A field of the cores that a change of one core leaves. -/
theorem Die.modCore_field {α : Type} (d : Die) (c : CoreIx) {f : Core → Core} (g : Core → α) (h : ∀ k, g (f k) = g k) (x : CoreIx) :
    g (d.modCore c f).cores[x] = g d.cores[x] := by
  by_cases e : x = c
  · subst e
    exact (congrArg g (d.modCore_same x f)).trans (h _)
  · rw [d.modCore_other c x f e]

/-- A change of a fault word leaves scratchpads and scalar registers as they are. -/
theorem Die.modFault_cores (d : Die) (f : U64 → U64) (u : DieUnit) (x : CoreIx) :
    (d.modFault f u).cores[x].scratch = d.cores[x].scratch ∧ (d.modFault f u).cores[x].ctl.s = d.cores[x].ctl.s := by
  cases u with
  | sched | clock | router => exact ⟨rfl, rfl⟩
  | ctl c | core c | vec c | stream c _ | hdl c | sync c | rings c | chan c _ =>
    refine ⟨d.modCore_field c (·.scratch) ?_ x, d.modCore_field c (·.ctl.s) ?_ x⟩ <;> intro k <;> rfl

/-- A capture that is rearmed is one of a core, or the die's own: fault words, scratchpads and scalar registers stay. -/
theorem Die.rearm_cases (d : Die) (u : DieUnit) :
    (∃ c f, d.rearm u = d.modCore c f
      ∧ ∀ k : Core, (f k).scratch = k.scratch ∧ (f k).ctl.s = k.ctl.s ∧ ∀ o, (f k).faultOf o = k.faultOf o)
    ∨ ∃ w, d.rearm u = { d with hold := { d.hold with capture := w } } := by
  unfold Die.rearm
  split
  · split
    · exact .inl ⟨_, _, rfl, fun k => ⟨rfl, rfl, fun o => by cases o <;> rfl⟩⟩
    · exact .inr ⟨d.hold.capture, rfl⟩
  · split
    · exact .inl ⟨_, _, rfl, fun k => ⟨rfl, rfl, fun o => by cases o <;> rfl⟩⟩
    · exact .inr ⟨d.hold.capture, rfl⟩
  · split
    · exact .inr ⟨_, rfl⟩
    · exact .inr ⟨d.hold.capture, rfl⟩
  · exact .inr ⟨d.hold.capture, rfl⟩

theorem Die.rearm_cores (d : Die) (u : DieUnit) (x : CoreIx) :
    (d.rearm u).cores[x].scratch = d.cores[x].scratch ∧ (d.rearm u).cores[x].ctl.s = d.cores[x].ctl.s := by
  obtain ⟨c, f, e, hf⟩ | ⟨w, e⟩ := d.rearm_cases u
  · rw [e]
    exact ⟨d.modCore_field c (·.scratch) (fun k => (hf k).1) x, d.modCore_field c (·.ctl.s) (fun k => (hf k).2.1) x⟩
  · rw [e]
    exact ⟨rfl, rfl⟩

theorem Die.faultOf_rearm (d : Die) (u o : DieUnit) : (d.rearm u).faultOf o = d.faultOf o := by
  obtain ⟨c, f, e, hf⟩ | ⟨w, e⟩ := d.rearm_cases u
  · rw [e]
    exact d.faultOf_modCore_kept c f o (fun _ => (hf _).2.2 o)
  · rw [e]
    cases o <;> rfl

/-- A write of ones to a fault word clears the bits that it names, but for those set in the same cycle (R7, R379). -/
theorem Die.faultOf_clearFault_same (d : Die) (u : DieUnit) (q : U64) :
    (d.clearFault u q).faultOf u = d.faultOf u &&& ~~~(q &&& ~~~d.setThisCycle u) := by
  rw [Die.clearFault, Die.faultOf_rearm, Die.faultOf_modFault_same]

theorem Die.faultOf_clearFault_other (d : Die) {u o : DieUnit} (q : U64) (h : o ≠ u) :
    (d.clearFault u q).faultOf o = d.faultOf o := by
  rw [Die.clearFault, Die.faultOf_rearm, Die.faultOf_modFault_other _ _ h]

theorem Die.clearFault_cores (d : Die) (u : DieUnit) (q : U64) (x : CoreIx) :
    (d.clearFault u q).cores[x].scratch = d.cores[x].scratch ∧ (d.clearFault u q).cores[x].ctl.s = d.cores[x].ctl.s := by
  obtain ⟨h1, h2⟩ := Die.rearm_cores (d.modFault (fun w => w &&& ~~~(q &&& ~~~d.setThisCycle u)) u) u x
  obtain ⟨h3, h4⟩ := d.modFault_cores (fun w => w &&& ~~~(q &&& ~~~d.setThisCycle u)) u x
  exact ⟨h1.trans h3, h2.trans h4⟩

/-! ### The entries of a die's fault words (R387, R388, R429) -/

/-- An entry of 0x8000 on that holds a fault word is written as a 64-bit word. -/
theorem kindOf_faultWord {i j : Nat} {u : DieUnit} (hi : 0x8000 ≤ i) (hh : i < 0x8800) (hu : faultUnit (dieIndex i).2 j = some u) :
    kindOf i j = some (kU64 .rw) := by
  have hj : j ≠ 0 := by
    rintro rfl
    unfold faultUnit at hu
    split at hu
    · simp at hu
    · split at hu
      · simp at hu
      · cases hu
  have hk : kindHigh i j = some (kU64 .rw) := by
    unfold kindHigh
    split
    case h_24 => simp [hi, hh, hu]
    all_goals omega
  have h3 : ¬ i < 0x3000 := by omega
  have h5 : ¬ i < 0x5000 := by omega
  simp [kindOf, hj, h3, h5, hk]

/-- Its write clears bits of that unit's fault word. -/
theorem State.write5_faultWord (s : State) (x : Session) {i j : Nat} {u : DieUnit} (v : Bytes) (hi : 0x8000 ≤ i)
    (hu : faultUnit (dieIndex i).2 j = some u) :
    s.write5 x i j v = (s.modDie (dieIndex i).1 (fun d => d.clearFault u (BitVec.ofNat 64 (leNat v))), 0) := by
  unfold State.write5
  extract_lets b w q
  split
  case h_11 =>
    generalize dieIndex i = y at hu ⊢
    obtain ⟨n, off⟩ := y
    dsimp only at hu ⊢
    rw [hu]
  all_goals omega

theorem State.effect_faultWord (s : State) (x : Session) {i j : Nat} {u : DieUnit} (v : Bytes) (p : ClearPlan) (c : ClearStandby)
    (hi : 0x8000 ≤ i) (hu : faultUnit (dieIndex i).2 j = some u) :
    s.effect x i j v p c = (s.modDie (dieIndex i).1 (fun d => d.clearFault u (BitVec.ofNat 64 (leNat v))), 0) := by
  have h3 : ¬ i < 0x3000 := by omega
  have h4 : ¬ i < 0x4000 := by omega
  have h5 : ¬ i < 0x5000 := by omega
  rw [State.effect, if_neg h3, if_neg h4, if_neg h5, s.write5_faultWord x v hi hu]

/-- An index that a role may write exists. -/
theorem highest_of_mayWrite {o : Role} {i j : Nat} (h : mayWrite o i j = 0) : (highest i).isNone = false := by
  by_contra hn
  rw [mayWrite, if_pos (by simpa using hn)] at h
  cases h

/-- The die ranges end below 0x8800. -/
theorem lt_of_highest {i : Nat} (hi : 0x8000 ≤ i) (h : (highest i).isNone = false) : i < 0x8800 := by
  by_contra hn
  unfold highest at h
  split at h
  case h_42 => simp [hn] at h
  all_goals omega

/-! ### Entries written by a fresh session -/

/-- A word reads back from the bytes that carry it. -/
theorem ofNat_leNat_leBytes (n : Nat) (q : BitVec (8 * n)) : BitVec.ofNat (8 * n) (leNat (leBytes n q.toNat)) = q := by
  rw [leNat_leBytes n q.toNat (by simpa only [Nat.pow_mul] using q.isLt)]
  simp

section
variable {s u z : State} {r : Req} {x : Session} {idx : BitVec 16} {sub : BitVec 8} {v : Bytes} {st : BitVec 8} {i j : Nat} {k : EntryKind}

theorem State.laneAway_dropSegments (s : State) (n : BitVec 16) (i j : Nat) : (s.dropSegments n).laneAway i j = s.laneAway i j := rfl

/-- A whole value that passes every check is answered as its entry answers. -/
theorem Fresh.writes_entry (h : Fresh s r x) (hi : idx.toNat = i) (hj : sub.toNat = j) (hv : v.length ≤ 1024)
    (hm : mayWrite x.role i j = 0) (hk : kindOf i j = some k) (hf : fits k v = true) (ho : offType k v = false)
    (hl : s.laneAway i j = false) (he : (s.dropSegments r.ses).effect x i j v noPlan noStandby = (u, st)) (hz : OnlySessions z u)
    {y : Session} (hu : u.session r.ses = some y) : Writes s r idx sub v st z := by
  subst hi hj
  have hl' := (s.laneAway_dropSegments r.ses _ _).trans hl
  exact h.writes hv ((State.writeEntry_effect hm hk hf ho hl').trans he) hz hu

/-- A whole 64-bit word is taken by an entry that needs no lane, or whose lane is there. -/
theorem Fresh.writes_word64 (h : Fresh s r x) (hi : idx.toNat = i) (hj : sub.toNat = j) (q : U64) (hm : mayWrite x.role i j = 0)
    (hk : kindOf i j = some (kU64 .rw)) (hl : s.laneAway i j = false)
    (he : (s.dropSegments r.ses).effect x i j (leBytes 8 q.toNat) noPlan noStandby = (u, 0)) (hz : OnlySessions z u)
    {y : Session} (hu : u.session r.ses = some y) : Writes s r idx sub (leBytes 8 q.toNat) 0 z :=
  h.writes_entry hi hj (by simp) hm hk (by simp [fits, typeBytes, kU64]) rfl hl he hz hu

/-- A module's own entries need no lane. -/
theorem State.laneAway_of_none (s : State) (h : laneDie i j = none) : s.laneAway i j = false := by
  simp [State.laneAway, h]

/-! #### Fault words -/

/-- Entries that an operator and the vendor write. -/
theorem mayWrite_notTenant {o : Role} (h : o ≠ .tenant) :
    mayWrite o 0x2010 1 = 0 ∧ mayWrite o 0x2080 1 = 0 ∧ mayWrite o 0x5010 5 = 0 ∧ mayWrite o 0x6000 5 = 0 := by
  revert h
  cases o <;> decide

theorem Fresh.writes_mrgFault (h : Fresh s r x) (hr : x.role ≠ .tenant) (q : U64) :
    Writes s r 0x2080 1 (leBytes 8 q.toNat) 0
      { s with hub := { s.hub with fault := s.hub.fault &&& ~~~(q &&& 0x17F &&& ~~~s.hub.setNow) } } := by
  obtain ⟨-, hm, -, -⟩ := mayWrite_notTenant hr
  refine h.writes_word64 (i := 0x2080) (j := 1) rfl rfl q hm rfl (s.laneAway_of_none rfl) rfl ?_ h.dropSegments_session
  rw [show BitVec.ofNat 64 (leNat (leBytes 8 q.toNat)) = q from ofNat_leNat_leBytes 8 q]
  rfl

theorem Fresh.writes_secFault (h : Fresh s r x) (hr : x.role ≠ .tenant) (q : U64) :
    Writes s r 0x6000 5 (leBytes 8 q.toNat) 0
      { s with hub := { s.hub with sec := { s.hub.sec with fault := s.hub.sec.fault &&& ~~~(q &&& 0x2E &&& ~~~s.hub.sec.setNow) } } } := by
  obtain ⟨-, -, -, hm⟩ := mayWrite_notTenant hr
  refine h.writes_word64 (i := 0x6000) (j := 5) rfl rfl q hm rfl (s.laneAway_of_none rfl) rfl ?_ h.dropSegments_session
  rw [show BitVec.ofNat 64 (leNat (leBytes 8 q.toNat)) = q from ofNat_leNat_leBytes 8 q]
  rfl

/-- Ports and dies have the subindexes from 1 on. -/
theorem toNat_unitSub {n : Nat} (p : Fin n) (h : n ≤ 255) : (BitVec.ofNat 8 (p.val + 1)).toNat = p.val + 1 := by
  rw [BitVec.toNat_ofNat, Nat.mod_eq_of_lt (by omega)]

theorem portAt_succ (p : PortIx) : portAt (p.val + 1) = p := by simp [portAt]

theorem dieOf_succ (d : DieIx) : dieOf (d.val + 1) = d := by simp [dieOf]

theorem mayWrite_portFault {o : Role} (h : o ≠ .tenant) (p : PortIx) : mayWrite o 0x30A0 (p.val + 1) = 0 := by
  revert h p
  cases o <;> decide

theorem mayWrite_routerFault {o : Role} (h : o ≠ .tenant) (d : DieIx) : mayWrite o 0x30B0 (d.val + 1) = 0 := by
  revert h d
  cases o <;> decide

theorem Fresh.writes_portFault (h : Fresh s r x) (hr : x.role ≠ .tenant) (p : PortIx) (q : U64) :
    Writes s r 0x30A0 (BitVec.ofNat 8 (p.val + 1)) (leBytes 8 q.toNat) 0
      (s.modPort p (fun y => { y with fault := y.fault &&& ~~~(q &&& ~~~y.setNow) })) := by
  refine h.writes_word64 (i := 0x30A0) rfl (toNat_unitSub p (by decide)) q (mayWrite_portFault hr p) rfl (s.laneAway_of_none rfl) rfl ?_
    h.dropSegments_session
  rw [show BitVec.ofNat 64 (leNat (leBytes 8 q.toNat)) = q from ofNat_leNat_leBytes 8 q, portAt_succ]
  rfl

theorem Fresh.writes_routerFault (h : Fresh s r x) (hr : x.role ≠ .tenant) (d : DieIx) (q : U64) (hd : s.dies[d].reached = true) :
    Writes s r 0x30B0 (BitVec.ofNat 8 (d.val + 1)) (leBytes 8 q.toNat) 0
      (s.modDie d (fun y => { y with router :=
        { y.router with fault := y.router.fault &&& ~~~(q &&& ~~~(y.setThisCycle .router)) } })) := by
  have hl : s.laneAway 0x30B0 (d.val + 1) = false := by
    have e : laneDie 0x30B0 (d.val + 1) = some d := congrArg some (dieOf_succ d)
    simpa [State.laneAway, e] using hd
  refine h.writes_word64 (i := 0x30B0) rfl (toNat_unitSub d (by decide)) q (mayWrite_routerFault hr d) rfl hl rfl ?_ h.dropSegments_session
  rw [show BitVec.ofNat 64 (leNat (leBytes 8 q.toNat)) = q from ofNat_leNat_leBytes 8 q, dieOf_succ]
  rfl

/-- A write to a fault word of a die clears bits of that word alone (R7, R379). -/
theorem Fresh.writes_dieFault (h : Fresh s r x) (idx : BitVec 16) (sub : BitVec 8) (q : U64) {u : DieUnit} (hi : 0x8000 ≤ idx.toNat)
    (hm : mayWrite x.role idx.toNat sub.toNat = 0) (hu : faultUnit (dieIndex idx.toNat).2 sub.toNat = some u)
    (hd : s.dies[(dieIndex idx.toNat).1].reached = true) :
    ∃ t, exec (.dictWrite r idx sub 0 (BitVec.ofNat 32 (leBytes 8 q.toNat).length) false (leBytes 8 q.toNat)) s = .next t
      ∧ Answered t r 0x82 0 ∧ t.ports = s.ports ∧ (∀ m : DieIx, m ≠ (dieIndex idx.toNat).1 → t.dies[m] = s.dies[m])
      ∧ t.dies[(dieIndex idx.toNat).1] = s.dies[(dieIndex idx.toNat).1].clearFault u q := by
  have hl : s.laneAway idx.toNat sub.toNat = false := by
    have e : laneDie idx.toNat sub.toNat = some (dieIndex idx.toNat).1 := if_pos hi
    simpa [State.laneAway, e] using hd
  have hk := kindOf_faultWord hi (lt_of_highest hi (highest_of_mayWrite hm)) hu
  have he := (State.writeEntry_effect (s := s.dropSegments r.ses) (v := leBytes 8 q.toNat) (p := noPlan) (c := noStandby) hm hk
    (by simp [fits, typeBytes, kU64]) rfl ((s.laneAway_dropSegments r.ses _ _).trans hl)).trans (State.effect_faultWord _ x _ _ _ hi hu)
  rw [show BitVec.ofNat 64 (leNat (leBytes 8 q.toNat)) = q from ofNat_leNat_leBytes 8 q] at he
  refine ⟨_, h.writeValue_eq (by simp) he, ?_, rfl, ?_, ?_⟩
  · exact answered_reply (s := (s.dropSegments r.ses).modDie _ _) h.dropSegments_session ..
  · exact fun m hne => State.modDie_other (s.dropSegments r.ses) _ m _ hne
  · exact State.modDie_same (s.dropSegments r.ses) _ _

/-! #### Watchdog limits (R207, R208) -/

theorem State.tenantMay_dropSegments (s : State) (n : BitVec 16) (x : Session) (l : List DieIx) :
    (s.dropSegments n).tenantMay x l = s.tenantMay x l := rfl

theorem mayWrite_limit (o : Role) : mayWrite o 0x4100 4 = 0 ∧ mayWrite o 0x4100 5 = 0 := by cases o <;> decide

/-- Which limit a subindex names, and what its write does. -/
theorem State.effect_limits (s : State) (x : Session) (l : U32) :
    s.effect x 0x4100 4 (leBytes 4 l.toNat) noPlan noStandby
        = (if s.tenantMay x (List.finRange 8) then s.writeLimit false l else (s, 3))
    ∧ s.effect x 0x4100 5 (leBytes 4 l.toNat) noPlan noStandby
        = (if s.tenantMay x (List.finRange 8) then s.writeLimit true l else (s, 3)) := by
  have hl : BitVec.ofNat 32 (leNat (leBytes 4 l.toNat)) = l := ofNat_leNat_leBytes 4 l
  constructor
  · conv_rhs => rw [← hl]
    rfl
  · conv_rhs => rw [← hl]
    rfl

/-- A write of a limit is answered as the checks of its tenant and of its range have it. -/
theorem Fresh.writes_limits (h : Fresh s r x) (l : U32) {a b : State}
    (ha : (s.dropSegments r.ses).effect x 0x4100 4 (leBytes 4 l.toNat) noPlan noStandby = (a, st))
    (hb : (s.dropSegments r.ses).effect x 0x4100 5 (leBytes 4 l.toNat) noPlan noStandby = (b, st)) {y z : State}
    (hy : OnlySessions y a) (hz : OnlySessions z b) (ya : a.session r.ses = some x) (zb : b.session r.ses = some x) :
    Writes s r 0x4100 4 (leBytes 4 l.toNat) st y ∧ Writes s r 0x4100 5 (leBytes 4 l.toNat) st z :=
  ⟨h.writes_entry (i := 0x4100) (j := 4) rfl rfl (by simp) (mayWrite_limit x.role).1 rfl (by simp [fits, typeBytes, kU32]) rfl
      (s.laneAway_of_none rfl) ha hy ya,
   h.writes_entry (i := 0x4100) (j := 5) rfl rfl (by simp) (mayWrite_limit x.role).2 rfl (by simp [fits, typeBytes, kU32]) rfl
      (s.laneAway_of_none rfl) hb hz zb⟩

theorem Fresh.writes_limits_taken (h : Fresh s r x) (l : U32) (ht : s.tenantMay x (List.finRange 8) = true) (hl : 4096 ≤ l.toNat)
    (hu : l.toNat ≤ 268435456) :
    Writes s r 0x4100 4 (leBytes 4 l.toNat) 0 { s with hub := { s.hub with dict := { s.hub.dict with wd := l } } }
    ∧ Writes s r 0x4100 5 (leBytes 4 l.toNat) 0 { s with hub := { s.hub with dict := { s.hub.dict with margin := l } } } := by
  have hw : ∀ run, (s.dropSegments r.ses).writeLimit run l
      = ((s.dropSegments r.ses).modDict (fun d => if run then { d with margin := l } else { d with wd := l }), 0) := fun run => by
    simp [State.writeLimit, Nat.not_lt.2 hl, Nat.not_lt.2 hu]
  obtain ⟨h4, h5⟩ := (s.dropSegments r.ses).effect_limits x l
  rw [State.tenantMay_dropSegments, if_pos ht, hw] at h4 h5
  exact h.writes_limits l h4 h5 rfl rfl h.dropSegments_session h.dropSegments_session

theorem Fresh.writes_limits_range (h : Fresh s r x) (l : U32) (ht : s.tenantMay x (List.finRange 8) = true)
    (hl : l.toNat < 4096 ∨ 268435456 < l.toNat) :
    Writes s r 0x4100 4 (leBytes 4 l.toNat) 7 s ∧ Writes s r 0x4100 5 (leBytes 4 l.toNat) 7 s := by
  have hw : ∀ run, (s.dropSegments r.ses).writeLimit run l = (s.dropSegments r.ses, 7) := fun run => if_pos (by simpa using hl)
  obtain ⟨h4, h5⟩ := (s.dropSegments r.ses).effect_limits x l
  rw [State.tenantMay_dropSegments, if_pos ht, hw] at h4 h5
  exact h.writes_limits l h4 h5 rfl rfl h.dropSegments_session h.dropSegments_session

theorem Fresh.writes_limits_tenant (h : Fresh s r x) (l : U32) (ht : s.tenantMay x (List.finRange 8) = false) :
    Writes s r 0x4100 4 (leBytes 4 l.toNat) 3 s ∧ Writes s r 0x4100 5 (leBytes 4 l.toNat) 3 s := by
  obtain ⟨h4, h5⟩ := (s.dropSegments r.ses).effect_limits x l
  rw [State.tenantMay_dropSegments, if_neg (Bool.eq_false_iff.1 ht)] at h4 h5
  exact h.writes_limits l h4 h5 rfl rfl h.dropSegments_session h.dropSegments_session

/-! #### Entries that each session has of its own (R383) -/

theorem mayWrite_own {o : Role} (h : o ≠ .vendor) : mayWrite o 0x4000 3 = 0 ∧ mayWrite o 0x4000 4 = 0 := by
  revert h
  cases o <;> decide

theorem Fresh.writes_job_zero (h : Fresh s r x) (hr : x.role ≠ .vendor) : Writes s r 0x4000 3 [0] 7 s :=
  h.writes_entry (i := 0x4000) (j := 3) rfl rfl (by simp) (mayWrite_own hr).1 rfl rfl rfl (s.laneAway_of_none rfl) rfl
    (onlySessions_dropSegments s r.ses) h.dropSegments_session

/-- A write of a session's own entry changes its session alone. -/
theorem Fresh.writes_own (h : Fresh s r x) {idx : BitVec 16} {sub : BitVec 8} {b : BitVec 8} {f : Session → Session}
    (he : (s.dropSegments r.ses).writeEntry x idx.toNat sub.toNat [b] noPlan noStandby
      = ((s.dropSegments r.ses).modSession x.num f, 0)) (hf : ∀ y, (f y).num = y.num) :
    ∃ t, exec (.dictWrite r idx sub 0 1 false [b]) s = .next t ∧ OnlySessions s t ∧ Answered t r 0x82 0
      ∧ ∃ o, t.session r.ses = some { f x with rseq := r.rseq, lastAt := s.now, resp := o } := by
  have hs : ((s.dropSegments r.ses).modSession x.num f).session r.ses = some (f x) := by
    rw [h.num_eq]
    exact State.session_modSession _ _ f hf x h.dropSegments_session
  exact ⟨_, h.writeValue_eq (v := [b]) (by simp) he, rfl, answered_reply hs .., _, State.session_reply hs _⟩

theorem Fresh.writes_job (h : Fresh s r x) (hr : x.role ≠ .vendor) {b : BitVec 8} (hb : b ≠ 0) :
    ∃ t y, exec (.dictWrite r 0x4000 3 0 1 false [b]) s = .next t ∧ OnlySessions s t ∧ Answered t r 0x82 0
      ∧ t.session r.ses = some y ∧ y.job = b ∧ y.mask = x.mask := by
  have he : (s.dropSegments r.ses).writeEntry x 0x4000 3 [b] noPlan noStandby
      = ((s.dropSegments r.ses).modSession x.num (fun y => { y with job := b }), 0) :=
    (State.writeEntry_effect (mayWrite_own hr).1 rfl rfl rfl (State.laneAway_of_none _ rfl)).trans (if_neg hb)
  obtain ⟨t, ht, hs, ha, o, hy⟩ := h.writes_own (idx := 0x4000) (sub := 3) he (fun _ => rfl)
  exact ⟨t, _, ht, hs, ha, hy, rfl, rfl⟩

theorem Fresh.writes_mask (h : Fresh s r x) (hr : x.role ≠ .vendor) (b : BitVec 8) :
    ∃ t y, exec (.dictWrite r 0x4000 4 0 1 false [b]) s = .next t ∧ OnlySessions s t ∧ Answered t r 0x82 0
      ∧ t.session r.ses = some y ∧ y.mask = b ∧ y.job = x.job := by
  have he : (s.dropSegments r.ses).writeEntry x 0x4000 4 [b] noPlan noStandby
      = ((s.dropSegments r.ses).modSession x.num (fun y => { y with mask := b }), 0) :=
    State.writeEntry_effect (mayWrite_own hr).2 rfl rfl rfl (State.laneAway_of_none _ rfl)
  obtain ⟨t, ht, hs, ha, o, hy⟩ := h.writes_own (idx := 0x4000) (sub := 4) he (fun _ => rfl)
  exact ⟨t, _, ht, hs, ha, hy, rfl, rfl⟩

end

/-! ### The clauses on reads and on the checks of a write -/

section
variable {s : State} {r : Req} {x : Session} {v : Bytes} {k : EntryKind}

/-- A read that its role may make answers by the entry's own checks, and else the part of the value. -/
theorem Fresh.read (h : Fresh s r x) (idx : BitVec 16) (sub : BitVec 8) (off : BitVec 32) (len : BitVec 16)
    (hm : s.mayRead x idx.toNat sub.toNat = 0) (hk : kindOf idx.toNat sub.toNat = some k) :
    let value := s.value x idx.toNat sub.toNat
    let sized := len ≠ 0 ∧ len.toNat ≤ 1024 ∧ (off = 0 ∨ (typeBytes k.ty).isSome = false)
    let part : Response := ⟨0x81, 0, BitVec.ofNat 8 k.ty, value.length, (value.drop off.toNat).take len.toNat, idx, sub, off⟩
    let refused (st : BitVec 8) : Response := (bare 0x81 st).at_ idx sub off
    ∃ t, exec (.dictRead r idx sub off len) s = .next t
      ∧ (¬sized → Replied s r (refused 6) t)
      ∧ (sized → idx.toNat = 0x6000 → sub.toNat = 2 → s.hub.sec.report = [] → Replied s r (refused 8) t)
      ∧ (sized → (idx.toNat ≠ 0x4020 ∨ sub.toNat ≠ 1) → (idx.toNat ≠ 0x6000 ∨ sub.toNat ≠ 2 ∨ s.hub.sec.report ≠ []) →
          (s.laneAway idx.toNat sub.toNat = true → Replied s r (refused 8) t)
          ∧ (s.laneAway idx.toNat sub.toNat = false → Replied s r (part.at_ idx sub off) t
            ∧ (value ≠ [] → part.at_ idx sub off = part))) := by
  intro value sized part refused
  have reply : ∀ o, s.readEntry x idx.toNat sub.toNat off.toNat len.toNat = (s, o) →
      Replied s r (o.at_ idx sub off) ((s.readEntry x idx.toNat sub.toNat off.toNat len.toNat).1.reply r
        ((s.readEntry x idx.toNat sub.toNat off.toNat len.toNat).2.at_ idx sub off)) := fun o e => by
    rw [e]
    exact replied_reply s r _
  have good : sized → partBad k off.toNat len.toNat = false := (partBad_eq_false_iff k off len).2
  refine ⟨_, h.dictRead idx sub off len, fun hs => ?_, fun hs hi hj hr => ?_, fun hs ho hr => ?_⟩
  · have hp : partBad k off.toNat len.toNat = true :=
      Bool.eq_true_of_not_eq_false (fun e => hs ((partBad_eq_false_iff k off len).1 e))
    exact reply _ (State.readEntry_badPart hm hk hp)
  · have hp := good hs
    rw [hi, hj] at hm hk reply
    rw [hi, hj]
    exact reply _ (State.readEntry_noReport hm hk hp hr)
  · have e := State.readEntry_rest hm hk (good hs) ho hr
    refine ⟨fun hl => reply _ (by rw [e, if_pos hl]), fun hl => ⟨?_, fun hne => ?_⟩⟩
    · exact reply (partOf k value off.toNat len.toNat) (by rw [e, if_neg (Bool.eq_false_iff.1 hl)])
    · exact Response.at_of_value (State.subExists_of_mayRead hm) hk rfl (by simpa [part] using hne)

theorem Fresh.read_forbidden (h : Fresh s r x) (idx : BitVec 16) (sub : BitVec 8) (off : BitVec 32) (len : BitVec 16)
    (hm : s.mayRead x idx.toNat sub.toNat ≠ 0) :
    ∃ t, exec (.dictRead r idx sub off len) s = .next t
      ∧ Replied s r ((bare 0x81 (s.mayRead x idx.toNat sub.toNat)).at_ idx sub off) t :=
  ⟨_, (h.dictRead idx sub off len).trans (by rw [State.readEntry_forbidden hm]), replied_reply s r _⟩

theorem Fresh.write_forbidden (h : Fresh s r x) (idx : BitVec 16) (sub : BitVec 8) (off tot : BitVec 32) (more : Bool) (v : Bytes)
    (hm : mayWrite x.role idx.toNat sub.toNat ≠ 0) :
    ∃ t, exec (.dictWrite r idx sub off tot more v) s = .next t ∧ OnlySessions s t
      ∧ Answered t r 0x82 (mayWrite x.role idx.toNat sub.toNat) := by
  have e := State.writeSegment_forbidden (s := s) hm off.toNat tot.toNat more v true
  rw [h.num_eq] at e
  exact ⟨_, (h.dictWrite idx sub off tot more v).trans (by rw [e]), (onlySessions_dropSegments s r.ses).reply r _,
    answered_reply h.dropSegments_session ..⟩

/-- The checks of length, type and lane refuse in that order. -/
theorem Fresh.writes_checked (h : Fresh s r x) (idx : BitVec 16) (sub : BitVec 8) (hm : mayWrite x.role idx.toNat sub.toNat = 0)
    (hk : kindOf idx.toNat sub.toNat = some k) (hv : v.length ≤ 1024) :
    (fits k v = false → Writes s r idx sub v 6 s) ∧ (fits k v = true → offType k v = true → Writes s r idx sub v 7 s)
    ∧ (fits k v = true → offType k v = false → s.laneAway idx.toNat sub.toNat = true → Writes s r idx sub v 8 s) :=
  ⟨fun hf => h.writes_refused hv (State.writeEntry_wrongLength hm hk hf),
   fun hf ho => h.writes_refused hv (State.writeEntry_offType hm hk hf ho),
   fun hf ho hl => h.writes_refused hv (State.writeEntry_laneAway hm hk hf ho ((s.laneAway_dropSegments r.ses _ _).trans hl))⟩

/-! ### Roles (R390) -/

/-- What a role may not read is answered with 3. -/
theorem State.mayRead_noRole {i j : Nat} (hi : (highest i).isNone = false) (hj : subExists i j = true) (hr : s.roleReads x i = false) :
    s.mayRead x i j = 3 := by
  rw [State.mayRead, if_neg (by simp [hi]), if_neg (by simp [hj]), if_pos (by simp [hr])]

theorem State.mayRead_role {i j : Nat} (hr : s.roleReads x i = true) (hk : kindOf i j = some k) (hi : (highest i).isNone = false)
    (hj : subExists i j = true) : s.mayRead x i j = if k.acc = .wo then 4 else 0 := by
  rw [State.mayRead, if_neg (by simp [hi]), if_neg (by simp [hj]), if_neg (by simp [hr]), hk]

theorem State.mayRead_tenant (hr : x.role = .tenant) : s.mayRead x 0x2010 1 = 3 ∧ s.mayRead x 0x4010 1 = 4 ∧ s.mayRead x 0x4000 3 = 0 := by
  have hn : s.roleReads x 0x2010 = false := by simp [State.roleReads, hr]
  have hy : s.roleReads x 0x4000 = true ∧ s.roleReads x 0x4010 = true := by simp [State.roleReads, hr]
  exact ⟨State.mayRead_noRole rfl rfl hn, State.mayRead_role (k := kOct .wo 4096) hy.2 rfl rfl rfl,
    State.mayRead_role (k := kU8 .rw) hy.1 rfl rfl rfl⟩

theorem State.mayRead_enrolment (hr : x.role ≠ .tenant) : s.mayRead x 0x6020 1 = 3 := by
  refine State.mayRead_noRole rfl rfl ?_
  cases e : x.role with
  | operator | vendor => simp [State.roleReads, e]
  | tenant => exact absurd e hr

theorem State.mayRead_operator (hr : x.role = .operator) : s.mayRead x 0x2010 1 = 0 := by
  have hy : s.roleReads x 0x2010 = true := by simp [State.roleReads, hr]
  exact State.mayRead_role (k := kU32 .rw) hy rfl rfl rfl

/-! ### Entries of the operator -/

theorem State.writeSegment_tooLong {idx : BitVec 16} {sub : BitVec 8} (hm : mayWrite x.role idx.toNat sub.toNat = 0) (off tot : Nat)
    (more m : Bool) (hv : 1024 < v.length) :
    s.writeSegment x idx sub off tot more v m = (s.dropSegments x.num, bare 0x82 6 (x.whole tot)) := by
  simp only [State.writeSegment, hm, ne_eq, not_true_eq_false, if_false, hv, if_true, State.dropSegments]

/-- The node number of the coolant node is one byte (R363, R382). -/
theorem Fresh.write_coolant (h : Fresh s r x) (hr : x.role = .operator) (v : Bytes) (b : BitVec 8) :
    ∃ t, exec (.dictWrite r 0x2050 2 0 (BitVec.ofNat 32 v.length) false v) s = .next t ∧ t.dies = s.dies ∧ t.ports = s.ports
      ∧ (v = [b] → Answered t r 0x82 0 ∧ t.hub.dict.coolant = b ∧ t.hub.power = s.hub.power)
      ∧ (v.length ≠ 1 → v.length < 4294967296 → Answered t r 0x82 6 ∧ OnlySessions s t) := by
  have hm : mayWrite x.role 0x2050 2 = 0 := by rw [hr]; decide
  by_cases hv : v.length = 1
  · obtain ⟨c, rfl⟩ := List.length_eq_one_iff.1 hv
    have he : (s.dropSegments r.ses).writeEntry x 0x2050 2 [c] noPlan noStandby
        = ((s.dropSegments r.ses).modDict (fun d => { d with coolant := c }), 0) :=
      State.writeEntry_effect hm rfl rfl rfl (State.laneAway_of_none _ rfl)
    refine ⟨_, h.writeValue_eq (idx := 0x2050) (sub := 2) (by simp) he, rfl, rfl, fun e => ⟨?_, ?_, rfl⟩, fun hn => absurd rfl hn⟩
    · exact answered_reply (by exact h.dropSegments_session) ..
    · exact List.head_eq_of_cons_eq e
  · have refused : ∃ tot, exec (.dictWrite r 0x2050 2 0 (BitVec.ofNat 32 v.length) false v) s
        = .next ((s.dropSegments r.ses).reply r ((bare 0x82 6 tot).at_ 0x2050 2)) := by
      by_cases hl : v.length ≤ 1024
      · have hf : fits (kU8 .admin) v = false := by simp [fits, typeBytes, kU8, hv]
        exact ⟨_, h.writeValue_eq (idx := 0x2050) (sub := 2) hl (State.writeEntry_wrongLength hm rfl hf)⟩
      · have e := State.writeSegment_tooLong (s := s) (idx := 0x2050) (sub := 2) hm 0 (BitVec.ofNat 32 v.length).toNat false true
          (Nat.not_le.1 hl)
        rw [h.num_eq] at e
        exact ⟨_, (h.dictWrite ..).trans (by rw [show (0 : BitVec 32).toNat = 0 from rfl, e])⟩
    obtain ⟨tot, e⟩ := refused
    exact ⟨_, e, rfl, rfl, fun e => absurd (by rw [e]; rfl) hv,
      fun _ _ => ⟨answered_reply h.dropSegments_session .., (onlySessions_dropSegments s r.ses).reply r _⟩⟩

/-- A new node number takes effect 10 ms after its write (R397). -/
theorem Fresh.write_plca (h : Fresh s r x) (hr : x.role = .operator) (b : BitVec 8) :
    ∃ t, exec (.dictWrite r 0x1100 1 0 1 false [b]) s = .next t
      ∧ (b.toNat < 8 ∨ b = 0xFF → Answered t r 0x82 0 ∧ t.hub.dict.plcaNode = b ∧ t.hub.dict.plcaAt = s.now + 2500000
          ∧ t.hub.dict.plcaInForce = s.hub.dict.plcaInForce)
      ∧ (8 ≤ b.toNat → b ≠ 0xFF → Answered t r 0x82 7 ∧ OnlySessions s t) := by
  have hm : mayWrite x.role 0x1100 1 = 0 := by rw [hr]; decide
  have he : (s.dropSegments r.ses).writeEntry x 0x1100 1 [b] noPlan noStandby = (s.dropSegments r.ses).writePlca b :=
    State.writeEntry_effect hm rfl rfl rfl (State.laneAway_of_none _ rfl)
  by_cases hb : b.toNat < 8 ∨ b = 0xFF
  · have hw := he.trans (if_pos (by simpa using hb))
    refine ⟨_, h.writeValue_eq (idx := 0x1100) (sub := 1) (v := [b]) (by simp) hw, fun _ => ⟨?_, rfl, rfl, rfl⟩,
      fun hl hn => absurd hb (not_or.2 ⟨Nat.not_lt.2 hl, hn⟩)⟩
    exact answered_reply (by exact h.dropSegments_session) ..
  · have hw := he.trans (if_neg (by simpa using hb))
    exact ⟨_, h.writeValue_eq (idx := 0x1100) (sub := 1) (v := [b]) (by simp) hw, fun h => absurd h hb,
      fun _ _ => ⟨answered_reply h.dropSegments_session .., (onlySessions_dropSegments s r.ses).reply r _⟩⟩

/-- The first segment of an operator key is kept (R396). -/
theorem Fresh.write_firstSegment (h : Fresh s r x) (hr : x.role = .operator) (hv : v.length ≤ 1024) :
    ∃ t y, exec (.dictWrite r 0x6010 1 0 1312 true v) s = .next t ∧ OnlySessions s t
      ∧ Answered t r 0x82 0 ∧ t.session r.ses = some y ∧ y.seg = some (0x6010, 1, 1312, v) := by
  have hm : mayWrite x.role 0x6010 1 = 0 := by rw [hr]; decide
  have e := State.writeSegment_more (s := s) (idx := 0x6010) (sub := 1) (off := 0) (tot := 1312) (k := kOct .admin 1312) true hm rfl rfl hv
    (by rw [h.buffer_eq]; rfl) (by rw [h.whole_eq]; exact Nat.le_refl _) (by rw [h.whole_eq, h.buffer_eq, List.nil_append]; omega)
  rw [h.whole_eq, h.buffer_eq, List.nil_append, h.num_eq] at e
  have hy := s.session_modSession r.ses (fun y => { y with seg := some (0x6010, 1, 1312, v) }) (fun _ => rfl) x h.session_eq
  have ht := (h.dictWrite 0x6010 1 0 1312 true v).trans (congrArg (fun e => Host.Outcome.next (e.1.reply r (e.2.at_ 0x6010 1 0))) e)
  exact ⟨_, _, ht, rfl, answered_reply hy .., State.session_reply hy _, rfl⟩

/-! ### Rows that write one entry -/

/-- A failed commit keeps the old value of a stored entry (R380, R395). -/
theorem Fresh.powerCap_uncommitted (h : Fresh s r x) (hr : x.role ≠ .tenant) (l : U32) (hl : 800 ≤ l.toNat) (hu : l.toNat ≤ 3400) :
    ∃ t, exec (.powerCapWrite { r with mramOk := false } l) s = .next t ∧ Written s r 0x0B t := by
  obtain ⟨hm, -, -, -⟩ := mayWrite_notTenant hr
  have hw : s.writeCap l = (s.modHub (fun h => { h with power := { h.power with cap := l } }), 0) := if_pos (by simp [hl, hu])
  have hn : BitVec.ofNat 32 (leNat (leBytes 4 l.toNat)) = l := ofNat_leNat_leBytes 4 l
  have hf : s.effect x 0x2010 1 (leBytes 4 l.toNat) noPlan noStandby = s.writeCap l := by
    conv_rhs => rw [← hn]
    rfl
  have he : s.writeEntry x 0x2010 1 (leBytes 4 l.toNat) noPlan noStandby false = (s, 0x0B) := by
    rw [State.writeEntry_passes hm rfl (by simp [fits, typeBytes, kU32]) rfl (s.laneAway_of_none rfl), hf, hw]
    rfl
  have e := h.put_mram false 0x2010 1 (leBytes 4 l.toNat)
  rw [he] at e
  exact ⟨_, e, written_reply ..⟩

/-- A row that writes an entry is answered with the entry's status. -/
theorem Fresh.put_written (h : Fresh s r x) {i j : Nat} {u : State} {st : BitVec 8}
    (he : s.writeEntry x i j v noPlan noStandby = (u, st)) : ∃ t, s.put r i j v = .next t ∧ Written u r st t := by
  have e := h.put i j v
  rw [he] at e
  exact ⟨_, e, written_reply ..⟩

theorem Fresh.recorderEmpty (h : Fresh s r x) :
    ∃ t, exec (.recorderEmpty r) s = .next t
      ∧ (x.role ≠ .tenant → Written { s with hub := { s.hub with rec_ := { s.hub.rec_ with slots := [], cut := none } } } r 0 t)
      ∧ (x.role = .tenant → Written s r 3 t) := by
  by_cases hr : x.role = .tenant
  · have hm : mayWrite x.role 0x5010 5 = 3 := by rw [hr]; decide
    have he := State.writeEntry_forbidden (s := s) (x := x) (v := [1]) (p := noPlan) (c := noStandby) (m := true) (idx := 0x5010) (sub := 5)
      (by rw [hm]; decide)
    rw [hm] at he
    obtain ⟨t, ht, hw⟩ := h.put_written he
    exact ⟨t, ht, fun hn => absurd hr hn, fun _ => hw⟩
  · obtain ⟨-, -, hm, -⟩ := mayWrite_notTenant hr
    have he := State.writeEntry_effect (s := s) (v := [1]) (p := noPlan) (c := noStandby) hm rfl rfl rfl (s.laneAway_of_none rfl)
    obtain ⟨t, ht, hw⟩ := h.put_written he
    exact ⟨t, ht, fun _ => hw, fun hn => absurd hn hr⟩

theorem Fresh.mirrorEmpty (h : Fresh s r x) :
    ∃ t, exec (.mirrorEmpty r) s = .next t
      ∧ (x.role = .vendor → Written { s with hub := { s.hub with rec_ := { s.hub.rec_ with mirror := [], cutMirror := none } } } r 0 t)
      ∧ (x.role ≠ .vendor → Written s r 3 t) := by
  have he : s.writeEntry x 0x5010 5 [2] noPlan noStandby
      = if x.role = .vendor then (s.modHub (fun h => { h with rec_ := { h.rec_ with mirror := [], cutMirror := none } }), 0) else (s, 3) := by
    by_cases hr : x.role = .tenant
    · have hm : mayWrite x.role 0x5010 5 = 3 := by rw [hr]; decide
      rw [State.writeEntry_forbidden (by rw [hm]; decide), hm, if_neg (by rw [hr]; decide)]
    · obtain ⟨-, -, hm, -⟩ := mayWrite_notTenant hr
      exact State.writeEntry_effect hm rfl rfl rfl (s.laneAway_of_none rfl)
  by_cases hr : x.role = .vendor
  · rw [if_pos hr] at he
    obtain ⟨t, ht, hw⟩ := h.put_written he
    exact ⟨t, ht, fun _ => hw, fun hn => absurd hr hn⟩
  · rw [if_neg hr] at he
    obtain ⟨t, ht, hw⟩ := h.put_written he
    exact ⟨t, ht, fun hn => absurd hn hr, fun _ => hw⟩

end

/-! ### Restore of the defaults (R382) -/

/-- The defaults of the stored entries that the statement names. -/
def DefaultsStand (t : State) : Prop :=
  t.hub.time.period = 8000 ∧ t.hub.power.cap = 3400 ∧ t.hub.dict.plcaNode = 0xFF ∧ t.hub.dict.hostPort = 0xFF ∧ t.hub.rec_.minSev = 2
    ∧ t.hub.bring.gate = 0

theorem State.session_of_holdings {s t : State} (h : t.holdings = s.holdings) (n : BitVec 16) : t.session n = s.session n :=
  congrArg (fun y : Holdings => y.sessions.find? (fun x : Session => x.num = n)) h

section
variable {s : State} {r : Req} {x : Session} {v : Bytes}

theorem State.restore_fits (h : s.periodFits 8000 = true) :
    ∃ t, s.restore 0x10AD = (t, 0) ∧ t.holdings = s.holdings ∧ t.dies = s.dies ∧ t.ports = s.ports ∧ DefaultsStand t :=
  ⟨_, (if_neg (by simp)).trans (if_neg (by simp [h])), rfl, rfl, rfl, rfl, rfl, rfl, rfl, rfl, rfl⟩

theorem State.restoreAll_badValue {w : BitVec 16} (h : w ≠ 0x10AD) : s.restoreAll w = (s, 7) := by
  have e : s.restore w = (s, 7) := if_pos h
  rw [State.restoreAll, e]
  rfl

theorem State.restoreAll_unfit (h : s.periodFits 8000 = false) : s.restoreAll 0x10AD = (s, 9) := by
  have e : s.restore 0x10AD = (s, 9) := (if_neg (by simp)).trans (if_pos (by simp [h]))
  rw [State.restoreAll, e]
  rfl

/-- The defaults are restored after the host-facing port is given up, and the time root is chosen anew: the holdings stay. -/
theorem State.restoreAll_fits (h : s.periodFits 8000 = true) :
    ∃ t, s.restoreAll 0x10AD = (t, 0) ∧ t.holdings = s.holdings ∧ DefaultsStand t
      ∧ (s.hub.dict.hostPort = 0xFF → t.dies = s.dies ∧ t.ports = s.ports) := by
  obtain ⟨_, e, -⟩ := State.restore_fits h
  have hw := s.holdings_writeHostPort 0xFF
  obtain ⟨t, et, ht, hd, hp, hs⟩ := State.restore_fits ((State.periodFits_of_holdings hw 8000).trans h)
  obtain ⟨time, q, ec, hperiod⟩ := t.chooseUpstream_eq
  have all : s.restoreAll 0x10AD = (t.chooseUpstream, 0) := by
    rw [State.restoreAll, e, et]
    rfl
  obtain ⟨h1, h2, h3, h4, h5, h6⟩ := hs
  refine ⟨_, all, t.holdings_chooseUpstream.trans (ht.trans hw), ?_, fun hf => ?_⟩
  · rw [ec]
    exact ⟨hperiod.trans h1, h2, h3, h4, h5, h6⟩
  · have stays : s.writeHostPort 0xFF = (s, 0) := (if_neg (by simp)).trans (if_pos hf.symm)
    rw [stays] at hd hp
    rw [ec]
    exact ⟨hd, hp⟩

/-- The restore of the defaults is the vendor's, and is judged by its value and by the plans. -/
theorem Fresh.restoreDefaults (h : Fresh s r x) (w : BitVec 16) :
    ∃ t, exec (.restoreDefaults r w) s = .next t
      ∧ (x.role ≠ .vendor → Written s r 3 t)
      ∧ (x.role = .vendor → w ≠ 0x10AD → Written s r 7 t)
      ∧ (x.role = .vendor → w = 0x10AD → s.periodFits 8000 = false → Written s r 9 t)
      ∧ (x.role = .vendor → w = 0x10AD → s.periodFits 8000 = true →
          Answered t r 0x82 0 ∧ t.hub.time.period = 8000 ∧ t.hub.power.cap = 3400
          ∧ t.hub.dict.plcaNode = 0xFF ∧ t.hub.dict.hostPort = 0xFF ∧ t.hub.rec_.minSev = 2 ∧ t.hub.bring.gate = 0
          ∧ t.hub.dict.base = s.hub.dict.base ∧ t.hub.dict.size = s.hub.dict.size ∧ t.hub.sec.opKeys = s.hub.sec.opKeys
          ∧ t.hub.sec.tenants = s.hub.sec.tenants
          ∧ (s.hub.dict.hostPort = 0xFF → t.dies = s.dies ∧ t.ports = s.ports)) := by
  by_cases hr : x.role = .vendor
  · have hm : mayWrite x.role 0x1010 1 = 0 := by rw [hr]; decide
    have hn : BitVec.ofNat 16 (leNat (leBytes 2 w.toNat)) = w := ofNat_leNat_leBytes 2 w
    have hf : s.effect x 0x1010 1 (leBytes 2 w.toNat) noPlan noStandby = s.restoreAll w := by
      conv_rhs => rw [← hn]
      rfl
    have he := (State.writeEntry_effect (s := s) (p := noPlan) (c := noStandby) hm rfl (by simp [fits, typeBytes, kU16]) rfl
      (s.laneAway_of_none rfl)).trans hf
    by_cases hw : w = 0x10AD
    · subst hw
      by_cases hp : s.periodFits 8000 = true
      · obtain ⟨u, hu, hh, ⟨h1, h2, h3, h4, h5, h6⟩, hd⟩ := State.restoreAll_fits hp
        have e := h.put 0x1010 1 (leBytes 2 (0x10AD : BitVec 16).toNat)
        rw [he, hu] at e
        refine ⟨_, e, fun hn => absurd hr hn, fun _ hn => absurd rfl hn, fun _ _ hn => absurd hp (by rw [hn]; decide), fun _ _ _ => ?_⟩
        exact ⟨answered_reply ((State.session_of_holdings hh r.ses).trans h.session_eq) .., h1, h2, h3, h4, h5, h6,
          congrArg Holdings.base hh, congrArg Holdings.size hh, congrArg Holdings.opKeys hh, congrArg Holdings.tenants hh, hd⟩
      · obtain ⟨t, ht, hw⟩ := h.put_written (he.trans (State.restoreAll_unfit (Bool.eq_false_iff.2 hp)))
        exact ⟨t, ht, fun hn => absurd hr hn, fun _ hn => absurd rfl hn, fun _ _ _ => hw, fun _ _ hn => absurd hn hp⟩
    · obtain ⟨t, ht, ha⟩ := h.put_written (he.trans (State.restoreAll_badValue hw))
      exact ⟨t, ht, fun hn => absurd hr hn, fun _ _ => ha, fun _ e => absurd e hw, fun _ e => absurd e hw⟩
  · have hm : mayWrite x.role 0x1010 1 = 3 := by revert hr; cases x.role <;> decide
    have he := State.writeEntry_forbidden (s := s) (x := x) (v := leBytes 2 w.toNat) (p := noPlan) (c := noStandby) (m := true)
      (idx := 0x1010) (sub := 1) (by rw [hm]; decide)
    rw [hm] at he
    obtain ⟨t, ht, hw⟩ := h.put_written he
    exact ⟨t, ht, fun _ => hw, fun e => absurd e hr, fun e => absurd e hr, fun e => absurd e hr⟩

/-! ### The last segment (R396) -/

/-- The first operator key takes a value, which the measurement of the configuration covers. -/
def State.withOpKey (s : State) (v : Bytes) : State :=
  s.modHub (fun h => Hub.takeCfg { h with sec := { h.sec with opKeys := vupd h.sec.opKeys 0 (fun _ => v) } })

/-- 0x6010.01 takes a whole key. -/
theorem State.writeEntry_opKey (hr : x.role = .operator) (hv : v.length = 1312) :
    s.writeEntry x 0x6010 1 v noPlan noStandby = (s.withOpKey v, 0) := by
  have hm : mayWrite x.role 0x6010 1 = 0 := by rw [hr]; decide
  have hf : fits (kOct .admin 1312) v = true := by simp [fits, typeBytes, kOct, hv]
  have hk : s.writeOpKey 0 v = (s.withOpKey v, 0) := if_pos (by simp [hv])
  exact (State.writeEntry_effect hm rfl hf rfl (s.laneAway_of_none rfl)).trans hk

/-- The last segment of an operator key writes the whole key. -/
theorem State.write_lastSegment {w : Bytes} (hh : s.hears r.route 0x6010 1 = true) (hx : s.session r.ses = some x) (ht : r.tagOk = true)
    (hm : r.mramOk = true) (hn : r.rseq = x.rseq + 1) (ho : x.role = .operator) (hs : x.seg = some (0x6010, 1, 1312, w))
    (hv : v.length ≤ 1024) (hw : w.length + v.length = 1312) :
    ∃ t y, exec (.dictWrite r 0x6010 1 (BitVec.ofNat 32 w.length) 1312 false v) s = .next t
      ∧ Answered t r 0x82 0 ∧ t.hub.sec.opKeys[0] = w ++ v ∧ t.session r.ses = some y ∧ y.seg = none := by
  have hb : x.buffer = w := by simp [Session.buffer, hs]
  have hlen : (w ++ v).length = 1312 := by rw [List.length_append, hw]
  have hwh : x.whole 1312 = 1312 := by simp [Session.whole, hs]
  have hoff : (BitVec.ofNat 32 w.length).toNat = w.length := by rw [BitVec.toNat_ofNat, Nat.mod_eq_of_lt (by omega)]
  have hc : Session.continues 0x6010 1 (BitVec.ofNat 32 w.length).toNat x = true := by simp [Session.continues, hs, hoff]
  have hd : s.dropSegments x.num = s.dropSegments r.ses := by rw [State.session_num hx]
  have hseg := State.writeSegment_last (s := s) (x := x) (idx := 0x6010) (sub := 1) (tot := 1312) true hv (hoff.trans (by rw [hb]))
    (by rw [hb, hlen, hwh])
  rw [hd, hb] at hseg
  have he := State.writeEntry_opKey (s := s.dropSegments r.ses) (x := { x with seg := none }) ho hlen
  have hact : s.writeSegment x 0x6010 1 (BitVec.ofNat 32 w.length).toNat 1312 false v true
      = ((s.dropSegments r.ses).withOpKey (w ++ v), bare 0x82 0 (w ++ v).length) :=
    hseg.trans (congrArg (fun e : State × BitVec 8 => (e.1, bare 0x82 e.2 (w ++ v).length)) he)
  have hexec := State.dictWrite_next (idx := 0x6010) (sub := 1) hh hx ht hn (.inr hc) 1312 false v
  rw [hm, show (1312 : BitVec 32).toNat = 1312 from rfl, hact] at hexec
  have hy : ((s.dropSegments r.ses).withOpKey (w ++ v)).session r.ses = some { x with seg := none } := State.session_dropSegments hx
  exact ⟨_, _, hexec, answered_reply hy .., vupd_get_same s.hub.sec.opKeys 0 (fun _ => w ++ v) _, State.session_reply hy _, rfl⟩

/-- A segment out of order drops them all, and is refused. -/
theorem State.write_brokenSegment {w : Bytes} (hh : s.hears r.route 0x6010 1 = true) (hx : s.session r.ses = some x) (ht : r.tagOk = true)
    (hn : r.rseq = x.rseq + 1) (hs : x.seg = some (0x6010, 1, 1312, w)) {off : BitVec 32} (ho : off.toNat ≠ w.length) :
    ∃ t, exec (.dictWrite r 0x6010 1 off 1312 false v) s = .next t ∧ OnlySessions s t ∧ Answered t r 0x82 0x0A := by
  have hc : Session.continues 0x6010 1 off.toNat x = false := by simp [Session.continues, hs, ho]
  exact ⟨_, State.dictWrite_breaks (idx := 0x6010) (sub := 1) hh hx ht hn (by rw [hs]; rfl) hc 1312 false v, rfl,
    answered_reply (State.session_dropSegments hx) ..⟩

end

/-! ### The statement -/

section
variable {s : State} {r : Req} {x : Session} {k : EntryKind}

/-- The answer of a discovery read: to the first check that fails, or the part of the value (R390). -/
theorem discovery_answers (x : Session) {route : Route} (hr : s.hub.fw.running = true) (hl : s.hub.board.rstLow = false)
    (hb : s.reachedBy route = true) (idx : BitVec 16) (sub : BitVec 8) (off : BitVec 32) (len : BitVec 16) :
    let value := s.value x idx.toNat sub.toNat
    let found (o : Response) : Prop := exec (.discoveryRead route idx sub off len) s
      = .next { s with hub := { s.hub with dict := { s.hub.dict with lastDisc := some (o.at_ idx sub off) } } }
    let sized := len ≠ 0 ∧ len.toNat ≤ 1024 ∧ (off = 0 ∨ (typeBytes k.ty).isSome = false)
    (highest idx.toNat = none → found ⟨0x81, 1, 0, 0, [], 0, 0, 0⟩)
    ∧ (highest idx.toNat ≠ none → subExists idx.toNat sub.toNat = false → found ⟨0x81, 2, 0, 0, [], 0, 0, 0⟩)
    ∧ (highest idx.toNat ≠ none → subExists idx.toNat sub.toNat = true → kindOf idx.toNat sub.toNat = some k →
        (route = .inBand ∨ idx.toNat < 0x1000 ∨ 0x2000 ≤ idx.toNat ∨ k.acc ≠ .const_ → found ⟨0x81, 3, 0, 0, [], 0, 0, 0⟩)
        ∧ (route = .fieldPort → 0x1000 ≤ idx.toNat → idx.toNat < 0x2000 → k.acc = .const_ →
            (sized → found ⟨0x81, 0, BitVec.ofNat 8 k.ty, value.length, (value.drop off.toNat).take len.toNat, idx, sub, off⟩)
            ∧ (¬sized → found ⟨0x81, 6, 0, 0, [], 0, 0, 0⟩))) := by
  intro value found sized
  have e := discoveryRead_heard hr hl hb idx sub off len
  refine ⟨fun h => ?_, fun h hs => ?_, fun h hs hk => ⟨fun hc => ?_, ?_⟩⟩
  · rw [State.discoveryAnswer_noIndex h] at e
    exact e
  · rw [State.discoveryAnswer_noSub h hs] at e
    exact e
  · rw [State.discoveryAnswer_closed h hs hk hc] at e
    exact e
  · rintro rfl hlo hhi hc
    rw [State.discoveryAnswer_open x h hs hk hlo hhi hc] at e
    constructor
    · intro hz
      rw [if_neg (Bool.eq_false_iff.1 ((partBad_eq_false_iff k off len).2 hz))] at e
      exact e
    · intro hz
      rw [if_pos (Bool.eq_true_of_not_eq_false (fun h => hz ((partBad_eq_false_iff k off len).1 h)))] at e
      exact e

end

/-- Settles O55: each clause by the lemma on its request, entry or role. -/
theorem dictionaryReadsAndWrites : Obligations.DictionaryReadsAndWrites := by
  unfold Obligations.DictionaryReadsAndWrites
  intro s r x route idx v16 sub b off tot len more v w k p d u l q
  refine ⟨fun hr hl hb => discovery_answers x hr hl hb idx sub off len, rfl, rfl, rfl, fun hf => ?fresh, ?segments⟩
  case fresh =>
    refine ⟨hf.read_forbidden idx sub off len, fun hm hk => hf.read idx sub off len hm hk, hf.write_forbidden idx sub off tot more v,
      fun hm hk hv => hf.writes_checked idx sub hm hk hv, rfl, rfl, State.mayRead_enrolment, by cases x.role <;> rfl,
      fun ht => ?tenant, fun ho => ?operator, fun hr => hf.powerCap_uncommitted hr l, fun hr => ?faults, fun ht => ?limits,
      hf.writes_limits_tenant l, fun hr => ?own, hf.recorderEmpty, hf.mirrorEmpty, hf.restoreDefaults v16⟩
    case tenant =>
      obtain ⟨h1, h2, h3⟩ := State.mayRead_tenant (s := s) ht
      exact ⟨h1, h2, by rw [ht]; decide, h3, rfl⟩
    case operator =>
      exact ⟨State.mayRead_operator ho, rfl, by rw [ho]; decide, hf.write_coolant ho v b, hf.write_plca ho b,
        hf.write_firstSegment ho⟩
    case faults =>
      refine ⟨hf.writes_mrgFault hr q, hf.writes_secFault hr q, hf.writes_portFault hr p q, hf.writes_routerFault hr d q,
        fun hi hm hu hd => ?_⟩
      obtain ⟨t, ht, ha, hp, ho, hz⟩ := hf.writes_dieFault idx sub q hi hm hu hd
      refine ⟨t, ht, ha, hp, ho, ?_⟩
      rw [hz]
      exact ⟨Die.faultOf_clearFault_same .., fun o hne => Die.faultOf_clearFault_other _ q hne, Die.clearFault_cores _ u q⟩
    case limits =>
      exact ⟨hf.writes_limits_taken l ht, hf.writes_limits_range l ht⟩
    case own =>
      exact ⟨fun hb => by rw [hb]; exact hf.writes_job_zero hr, hf.writes_job hr, hf.writes_mask hr b⟩
  case segments =>
    intro hr hl hp hx ht hm hn ho hs hv hw
    have hh : s.hears r.route 0x6010 1 = true := by rw [hp]; exact State.hears_fieldPort hr hl _ _
    exact ⟨State.write_lastSegment hh hx ht hm hn ho hs hv hw, State.write_brokenSegment hh hx ht hn hs⟩

end Sys2Proof.Machine

/-! # Every command but a private JTAG shift answers a next state (O3) -/

namespace Sys2Proof.Machine

/-- A served sector is decoded whether or not there is one, and whatever the code finds in it. -/
theorem exec_sectorDecode_next (a : CoreRef) (j : Fin 16) (err : SectorErr) (s : State) :
    ∃ t, exec (.sectorDecode a j err) s = .next t := by
  show ∃ t, execSectorDecode a j err s = .next t
  unfold execSectorDecode
  split
  · exact ⟨_, rfl⟩
  · split
    split
    · exact ⟨_, rfl⟩
    · exact ⟨_, rfl⟩

/-- A write of an instruction bank reaches its die over the lane, or nothing happens. -/
theorem exec_imemStandbyWrite_next (a : CoreRef) (bank : Bool) (addr : BitVec 18) (data : Bytes) (s : State) :
    ∃ t, exec (.imemStandbyWrite a bank addr data) s = .next t := by
  show ∃ t, execImemStandbyWrite a bank addr data s = .next t
  unfold execImemStandbyWrite
  split
  · exact ⟨_, rfl⟩
  · exact ⟨_, rfl⟩

/-- An edge of TCK stops in one case: it would shift a private data register that an unlock has opened (R418, R475). -/
theorem exec_jtagTckEdge_cases (tms tdi : Bool) (pins : BitVec 12) (s : State) :
    (∃ t, exec (.jtagTckEdge tms tdi pins) s = .next t)
    ∨ (exec (.jtagTckEdge tms tdi pins) s = .refused .privateJtag ∧ s.hub.board.standby = true ∧ s.hub.tap.st = .shDr
        ∧ s.hub.dataReg = .priv) := by
  show (∃ t, execJtagTckEdge tms tdi pins s = .next t) ∨ (execJtagTckEdge tms tdi pins s = .refused .privateJtag ∧ _)
  unfold execJtagTckEdge
  split
  case isTrue => exact .inl ⟨_, rfl⟩
  case isFalse hp =>
    split
    case isTrue hd =>
      obtain ⟨hst, hreg⟩ : s.hub.tap.st = .shDr ∧ s.hub.dataReg = .priv := by simpa using hd
      exact .inr ⟨rfl, by simpa using hp, hst, hreg⟩
    case isFalse => exact .inl ⟨_, rfl⟩

/-- Every other command's meaning is a next state: that of its die, of the hub die, of a session's request, or its own. -/
theorem exec_next (c : Instr) (hc : ∀ tms tdi pins, c ≠ .jtagTckEdge tms tdi pins) (s : State) : ∃ t, exec c s = .next t := by
  cases c
  case sectorDecode a j err => exact exec_sectorDecode_next a j err s
  case imemStandbyWrite a bank addr data => exact exec_imemStandbyWrite_next a bank addr data s
  case jtagTckEdge tms tdi pins => exact absurd rfl (hc tms tdi pins)
  all_goals exact ⟨_, rfl⟩

/-- Settles O3: a step is the passing of time or a command, and the one command that may stop is an edge of TCK. -/
theorem onlyPrivateJtagStops : Obligations.OnlyPrivateJtagStops := by
  unfold Obligations.OnlyPrivateJtagStops
  intro s
  cases hq : s.pending with
  | nil => exact .inl ⟨_, step_nil s hq⟩
  | cons c rest =>
    rw [step_cons s c rest hq]
    by_cases hc : ∃ tms tdi pins, c = .jtagTckEdge tms tdi pins
    · obtain ⟨tms, tdi, pins, rfl⟩ := hc
      obtain h | ⟨hr, hs, hst, hreg⟩ := exec_jtagTckEdge_cases tms tdi pins { s with pending := rest }
      · exact .inl h
      · exact .inr ⟨hr, hs, hst, hreg, tms, tdi, pins, rfl⟩
    · exact .inl (exec_next c (fun tms tdi pins e => hc ⟨tms, tdi, pins, e⟩) _)

end Sys2Proof.Machine

/-! # Ticks open frames (O33)

What a recognition cycle does to a die: first its decisions, then the start of each core, then the ticks it skips. -/

namespace Sys2Proof.Machine

/-! ### Counts and bits -/

theorem satAdd_zero {w : Nat} (x : BitVec w) : satAdd x 0 = x := by
  have h := x.isLt
  rw [satAdd, Nat.add_zero, Nat.min_eq_left (by omega), BitVec.ofNat_toNat, BitVec.setWidth_eq]

theorem satAdd_satAdd {w : Nat} (x : BitVec w) (m n : Nat) : satAdd (satAdd x m) n = satAdd x (m + n) := by
  have hw : 0 < 2 ^ w := Nat.two_pow_pos w
  have hm : (satAdd x m).toNat = min (x.toNat + m) (2 ^ w - 1) := by
    rw [satAdd, BitVec.toNat_ofNat, Nat.mod_eq_of_lt (by omega)]
  rw [satAdd, hm, satAdd]
  congr 1
  omega

theorem bit_setBit_same {w : Nat} (x : BitVec w) {n : Nat} (h : n < w) : bit (setBit x n) n = true := by
  simp only [bit, setBit, BitVec.getLsbD_or, BitVec.getLsbD_ofNat, Nat.testBit_two_pow_self, h, decide_true, Bool.and_self, Bool.or_true]

/-! ### One die -/

theorem onlyDie_modDie (s : State) (n : DieIx) (f : Die → Die) : OnlyDie n s (s.modDie n f) :=
  ⟨rfl, fun m h => s.modDie_other n m f h⟩

/-! ### What the decisions of a recognition cycle leave (R117, R149, R222) -/

/-- The scratchpad and the control core of a core, but for its bank, the standby bank's state and its fault word. -/
def Core.standing (k : Core) : Mem × Ctl := (k.scratch, { k.ctl with act := false, sbState := .empty, fault := 0 })

/-- Frame, holds and clock of a die stay, and so does the standing of each core. -/
def KeepsStanding (d e : Die) : Prop :=
  e.frm = d.frm ∧ e.hold = d.hold ∧ e.clock = d.clock ∧ ∀ x : CoreIx, e.cores[x].standing = d.cores[x].standing

theorem KeepsStanding.refl (d : Die) : KeepsStanding d d := ⟨rfl, rfl, rfl, fun _ => rfl⟩

theorem KeepsStanding.trans {d e f : Die} (h : KeepsStanding d e) (g : KeepsStanding e f) : KeepsStanding d f := by
  obtain ⟨h1, h2, h3, h4⟩ := h
  obtain ⟨g1, g2, g3, g4⟩ := g
  exact ⟨g1.trans h1, g2.trans h2, g3.trans h3, fun x => (g4 x).trans (h4 x)⟩

theorem KeepsStanding.foldl {α : Type} {f : Die → α → Die} (h : ∀ d a, KeepsStanding d (f d a)) (l : List α) (d : Die) :
    KeepsStanding d (l.foldl f d) := by
  induction l generalizing d with
  | nil => exact .refl d
  | cons a l ih => exact (h d a).trans (ih (f d a))

theorem KeepsStanding.forCores {f : Die → CoreIx → Die} (h : ∀ d c, KeepsStanding d (f d c)) (d : Die) :
    KeepsStanding d (d.forCores f) := .foldl h (List.finRange 32) d

theorem keepsStanding_modCore (d : Die) (c : CoreIx) {f : Core → Core} (h : ∀ k, (f k).standing = k.standing) :
    KeepsStanding d (d.modCore c f) := ⟨rfl, rfl, rfl, d.modCore_field c Core.standing h⟩

/-- A fault changes the fault word of its unit, and else only what notes and records it. -/
theorem Die.fault_parts (d : Die) (u : DieUnit) (b : FBit) :
    let e := d.modFault (fun w => setBit w b.bit) u
    (d.fault u b).frm = e.frm ∧ (d.fault u b).hold = e.hold ∧ (d.fault u b).clock = e.clock ∧ (d.fault u b).cores = e.cores := by
  have h := d.fault_only u b 0
  have hf := congrArg Die.frm h
  have hh := congrArg Die.hold h
  have hc := congrArg Die.clock h
  have hk := congrArg Die.cores h
  exact ⟨hf, hh, hc, hk⟩

/-- A fault of one of a core's units sets a bit of that unit's fault word. -/
theorem keepsStanding_fault (d : Die) {u : DieUnit} {c : CoreIx} (h : u.coreOf = some c) (b : FBit) :
    KeepsStanding d (d.fault u b) := by
  obtain ⟨hf, hh, hc, hk⟩ := d.fault_parts u b
  have noted : KeepsStanding (d.modFault (fun w => setBit w b.bit) u) (d.fault u b) := ⟨hf, hh, hc, fun x => by rw [hk]⟩
  refine KeepsStanding.trans ?_ noted
  cases u <;> cases h <;> exact keepsStanding_modCore d _ (fun _ => rfl)

theorem keepsStanding_flipDecision (d : Die) : KeepsStanding d d.flipDecision.1 := by
  unfold Die.flipDecision
  split
  · exact .refl d
  · split <;> dsimp only
    · exact ⟨rfl, rfl, rfl, fun x => by simp [Core.standing]⟩
    · exact KeepsStanding.forCores (f := fun d c => d.fault (.ctl c) imemFlipLate) (fun d c => keepsStanding_fault d rfl _) d

theorem keepsStanding_handleDecision (d : Die) (c : CoreIx) (flip : Bool) : KeepsStanding d (d.handleDecision c flip) := by
  unfold Die.handleDecision
  dsimp only
  split
  · split
    · exact keepsStanding_fault d (u := .hdl c) rfl _
    · have exchanged : KeepsStanding d (d.modCore c (·.exchangeHandles)) := keepsStanding_modCore d c (fun _ => rfl)
      exact exchanged.trans (KeepsStanding.foldl (f := fun d (x : Filled) => d.fault (.stream c x.unit) setvLost)
        (fun d x => keepsStanding_fault d rfl _) _ _)
  · exact .refl d

theorem keepsStanding_tableDecision (d : Die) (c : CoreIx) (t : Fin 4) : KeepsStanding d (d.tableDecision c t) := by
  unfold Die.tableDecision
  dsimp only
  split
  · exact .refl d
  · split
    · exact keepsStanding_fault d (u := .vec c) rfl _
    · exact keepsStanding_modCore d c (fun _ => rfl)

/-! ### The start of the cores (R143) -/

/-- A core that a frame starts: its word at address zero is next. -/
def startStanding (v : Mem × Ctl) : Mem × Ctl :=
  (v.1, { v.2 with pc := 0, nextChk := -4, ended := false, stopped := false, endAt := none, failRun := 0 })

/-- The cores of a list start; every other stands as it did. -/
def StartsCores (l : List CoreIx) (d e : Die) : Prop :=
  e.frm = d.frm ∧ e.hold = d.hold ∧ e.clock = d.clock
    ∧ ∀ x : CoreIx, e.cores[x].standing = if x ∈ l then startStanding d.cores[x].standing else d.cores[x].standing

theorem startsCores_beginCore (d : Die) (flip late inv : Bool) (c : CoreIx) : StartsCores [c] d (d.beginCore flip late inv c) := by
  have decided := (keepsStanding_handleDecision d c flip).trans
    (KeepsStanding.foldl (f := fun d t => d.tableDecision c t) (fun d t => keepsStanding_tableDecision d c t) (List.finRange 4) _)
  unfold Die.beginCore
  extract_lets d1 d2 marks
  obtain ⟨hf, hh, hc, hk⟩ : KeepsStanding d d2 := decided
  clear_value d2 marks
  refine ⟨hf, hh, hc, fun x => ?_⟩
  rw [← hk x]
  by_cases e : x = c
  · subst e
    rw [if_pos List.mem_cons_self]
    exact congrArg Core.standing (d2.modCore_same x _)
  · rw [if_neg (by simpa using e), d2.modCore_other c x _ e]

theorem StartsCores.cons {c : CoreIx} {l : List CoreIx} {d e f : Die} (h : StartsCores [c] d e) (g : StartsCores l e f) :
    StartsCores (c :: l) d f := by
  obtain ⟨h1, h2, h3, h4⟩ := h
  obtain ⟨g1, g2, g3, g4⟩ := g
  refine ⟨g1.trans h1, g2.trans h2, g3.trans h3, fun x => (g4 x).trans ?_⟩
  rw [h4 x]
  by_cases e : x = c <;> by_cases m : x ∈ l <;> simp [e, m, startStanding]

theorem startsCores_foldl (flip late inv : Bool) (l : List CoreIx) (d : Die) :
    StartsCores l d (l.foldl (fun d c => d.beginCore flip late inv c) d) := by
  induction l generalizing d with
  | nil => exact ⟨rfl, rfl, rfl, fun x => (if_neg List.not_mem_nil).symm⟩
  | cons c l ih => 
    rw [List.foldl_cons]
    exact (startsCores_beginCore d flip late inv c).cons (ih _)

/-! ### The frame that opens (R143, R187, R307, R309) -/

/-- A die whose frame state, holds and clock are those of a frame that opens, before the decisions of its first cycle. -/
def Die.opened (d : Die) (v : Nat) (late : Bool) : Die :=
  let num := BitVec.ofNat 48 (v / 62500)
  { d with
    once := []
    frm := { d.frm with frun := true, fnum := num, flate := late, fallen := [], invThis := false, invMark := false,
                        lateFrame := if late then num else d.frm.lateFrame, lateAny := d.frm.lateAny || late }
    hold := { d.hold with reqs := [], timed := [], conflict := 0, run := 0, inFrame := 0, held := false }
    clock := { d.clock with pcyc := -4, winBase := d.clock.clk, winDone := none } }

theorem Die.openFrame_eq (d : Die) (v : Nat) (late : Bool) :
    d.openFrame v late
      = let e := (d.opened v late).flipDecision
        (List.finRange 32).foldl (fun x c => x.beginCore e.2 late d.frm.invMark c) e.1 := rfl

/-- Every core of a die that opens a frame starts. -/
theorem startsCores_openFrame (d : Die) (v : Nat) (late : Bool) :
    StartsCores (List.finRange 32) (d.opened v late) (d.openFrame v late) := by
  rw [d.openFrame_eq]
  obtain ⟨ff, fh, fc, fk⟩ := keepsStanding_flipDecision (d.opened v late)
  obtain ⟨bf, bh, bc, bk⟩ := startsCores_foldl (d.opened v late).flipDecision.2 late d.frm.invMark (List.finRange 32)
    (d.opened v late).flipDecision.1
  exact ⟨bf.trans ff, bh.trans fh, bc.trans fc, fun x => (bk x).trans (by rw [fk x])⟩

/-- The fields of a core that a start sets or leaves, read from its standing. -/
theorem ctl_of_standing {k k' : Core} (h : k'.standing = startStanding k.standing) :
    k'.ctl.pc = 0 ∧ k'.ctl.nextChk = -4 ∧ k'.ctl.ended = false ∧ k'.ctl.stopped = false ∧ k'.ctl.s = k.ctl.s ∧ k'.scratch = k.scratch :=
  ⟨congrArg (·.2.pc) h, congrArg (·.2.nextChk) h, congrArg (·.2.ended) h, congrArg (·.2.stopped) h, congrArg (·.2.s) h,
    congrArg (·.1) h⟩

/-! ### Ticks that open no frame (R309) -/

/-- A fault of a die's clock that each tick records sets its bit, and adds an event. -/
theorem Die.faultEach_clock (d : Die) (b : FBit) :
    ∃ q e n, d.faultEach .clock b
      = { d with frm := { d.frm with fault := setBit d.frm.fault b.bit }, evq := q, evLost := e, setNow := n } := by
  unfold Die.faultEach Die.event Die.enqueue
  dsimp only
  split
  · exact ⟨_, _, _, rfl⟩
  · exact ⟨_, _, _, rfl⟩

/-- Ticks that are skipped are counted, and flagged where there is one. -/
theorem foldl_skipTick (xs : List Nat) (d : Die) :
    ∃ w q e n, xs.foldl Die.skipTick d
        = { d with frm := { d.frm with skip := satAdd d.frm.skip xs.length, fault := w }, evq := q, evLost := e, setNow := n }
      ∧ (xs ≠ [] ∨ bit d.frm.fault 2 = true → bit w 2 = true) := by
  induction xs generalizing d with
  | nil => exact ⟨d.frm.fault, d.evq, d.evLost, d.setNow, by rw [List.foldl_nil, List.length_nil, satAdd_zero], by simp⟩
  | cons v xs ih =>
    obtain ⟨q, e, n, hd⟩ := Die.faultEach_clock { d with frm := { d.frm with skip := satAdd d.frm.skip 1 } } frSkip
    obtain ⟨w, q', e', n', ht, hb⟩ := ih (d.skipTick v)
    have hs : d.skipTick v = { d with
        frm := { d.frm with skip := satAdd d.frm.skip 1, fault := setBit d.frm.fault 2 }, evq := q, evLost := e, setNow := n } := hd
    refine ⟨w, q', e', n', ?_, fun _ => hb (.inr ?_)⟩
    · rw [List.foldl_cons, ht, hs]
      simp [satAdd_satAdd, Nat.add_comm 1]
    · rw [hs]
      exact bit_setBit_same _ (by decide)

/-! ### Recognition -/

section
variable {s : State} {n : DieIx}

/-- Below its next tick value the hub die meets no tick. -/
theorem State.hubTick_below (h : s.hub.time.tc.toNat < s.hub.time.nextTick) : s.hubTick = s := if_neg (Nat.not_le.2 h)

/-- The die that recognises a tick: its next tick value and the limits in force, and then the frame. -/
def State.tickDie (s : State) (n : DieIx) (met : Bool) : Die :=
  let d := s.dies[n]
  { d with
    frm := { d.frm with nextTick := if met then tickAfter d.frm.nextTick (s.periodFrom d.frm.nextTick) else d.frm.nextTick }
    hold := { d.hold with wd := s.hub.dict.wdForce.toNat, margin := s.hub.dict.marginForce.toNat } }

theorem State.tickRecognition_due (hub : s.hub.time.tc.toNat < s.hub.time.nextTick) (h : s.tickDue n = true) :
    s.tickRecognition n = s.modDie n (fun _ => (s.tickDie n true).openFrame s.dies[n].frm.nextTick false) := by
  unfold State.tickRecognition
  rw [State.hubTick_below hub]
  dsimp only
  rw [if_pos h]
  simp only [State.meetTick, State.takeLimits, State.modDie_modDie]
  exact s.modDie_congr n _ _ rfl

theorem State.tickRecognition_early (hub : s.hub.time.tc.toNat < s.hub.time.nextTick) (h : s.tickDue n = false)
    (ho : s.dies[n].opens = true) (ha : s.dies[n].clock.aligned = true) (hc : s.planClear n = true) : s.tickRecognition n = s := by
  unfold State.tickRecognition
  rw [State.hubTick_below hub]
  dsimp only
  rw [if_neg (by simp [h])]
  exact if_neg (by simp only [ho, ha, hc, Bool.and_self, Bool.not_true, Bool.and_false, Bool.false_and, Bool.false_eq_true, not_false_eq_true])

theorem State.lateRecognition_due (hub : s.hub.time.tc.toNat < s.hub.time.nextTick) (h : s.lateDue n = true) {xs : List Nat} {v : Nat}
    (hf : s.dies[n].frm.fallen = xs ++ [v]) (hn : s.dies[n].clock.tc.toNat < s.dies[n].frm.nextTick) :
    s.lateRecognition n = s.modDie n (fun _ => xs.foldl Die.skipTick ((s.tickDie n false).openFrame v true)) := by
  unfold State.lateRecognition
  rw [State.hubTick_below hub]
  dsimp only
  rw [if_pos h]
  simp only [Nat.not_le.2 hn, decide_false, Bool.false_eq_true, if_false, hf, List.getLast?_append, List.getLast?_singleton,
    List.dropLast_concat, Option.some_or, Option.getD_some, State.takeLimits, State.modDie_modDie]
  exact s.modDie_congr n _ _ rfl

/-- A frame is open on a die that has opened it, whatever ticks it has skipped since. -/
theorem frameOpens_of_openFrame {t : State} {v : Nat} {late : Bool} {d : Die} (hk : d.cores = s.dies[n].cores)
    (hc : t.dies[n].cores = (d.openFrame v late).cores) (hh : t.dies[n].hold = (d.openFrame v late).hold)
    (hp : t.dies[n].clock = (d.openFrame v late).clock) {w : U64} {k : BitVec 32}
    (hf : t.dies[n].frm = { (d.openFrame v late).frm with skip := k, fault := w }) :
    FrameOpens n (v / 62500) late s t := by
  obtain ⟨of, oh, oc, ok⟩ := startsCores_openFrame d v late
  rw [of] at hf
  rw [oh] at hh
  rw [oc] at hp
  refine ⟨by rw [hf]; rfl, by rw [hf]; rfl, by rw [hf]; rfl, by rw [hf]; rfl, by rw [hp]; rfl, by rw [hh]; rfl, by rw [hh]; rfl,
    fun c => ?_⟩
  have hs := (ok c).trans (if_pos (List.mem_finRange c))
  rw [hc, ← hk]
  exact ctl_of_standing hs

/-- A tick that is due opens the frame of its number. -/
theorem State.tickRecognition_opens (hub : s.hub.time.tc.toNat < s.hub.time.nextTick) (h : s.tickDue n = true) :
    let d := s.dies[n]
    let t := s.tickRecognition n
    OnlyDie n s t ∧ FrameOpens n (d.frm.nextTick / 62500) false s t ∧ t.dies[n].frm.skip = d.frm.skip ∧ t.dies[n].frm.ovr = d.frm.ovr
      ∧ (t.dies[n].hold.wd = s.hub.dict.wdForce.toNat ∧ t.dies[n].hold.margin = s.hub.dict.marginForce.toNat)
      ∧ t.dies[n].frm.nextTick = tickAfter d.frm.nextTick (s.periodFrom d.frm.nextTick) := by
  intro d t
  have ht : t = s.modDie n (fun _ => (s.tickDie n true).openFrame d.frm.nextTick false) := State.tickRecognition_due hub h
  have hd : t.dies[n] = (s.tickDie n true).openFrame d.frm.nextTick false := by rw [ht]; exact s.modDie_same n _
  obtain ⟨hf, hh, -, -⟩ := startsCores_openFrame (s.tickDie n true) d.frm.nextTick false
  refine ⟨?_, frameOpens_of_openFrame (d := s.tickDie n true) rfl ?_ ?_ ?_ ?_ (k := d.frm.skip) (w := d.frm.fault), ?_⟩
  · rw [ht]
    exact onlyDie_modDie s n _
  · rw [hd]
  · rw [hd]
  · rw [hd]
  · rw [hd, hf]; rfl
  · rw [hd, hf, hh]
    exact ⟨rfl, rfl, ⟨rfl, rfl⟩, rfl⟩

/-- Ticks that fell in the last frame open one late frame: that of the latest. -/
theorem State.lateRecognition_opens (hub : s.hub.time.tc.toNat < s.hub.time.nextTick) (h : s.lateDue n = true) {xs : List Nat} {v : Nat}
    (hx : s.dies[n].frm.fallen = xs ++ [v]) (hn : s.dies[n].clock.tc.toNat < s.dies[n].frm.nextTick) :
    let d := s.dies[n]
    let t := s.lateRecognition n
    OnlyDie n s t ∧ FrameOpens n (v / 62500) true s t
      ∧ t.dies[n].frm.lateFrame = BitVec.ofNat 48 (v / 62500) ∧ t.dies[n].frm.lateAny = true
      ∧ t.dies[n].frm.skip = satAdd d.frm.skip xs.length
      ∧ (t.dies[n].hold.wd = s.hub.dict.wdForce.toNat ∧ t.dies[n].hold.margin = s.hub.dict.marginForce.toNat)
      ∧ t.dies[n].frm.nextTick = d.frm.nextTick ∧ (xs ≠ [] → bit t.dies[n].frm.fault 2 = true) := by
  intro d t
  have ht : t = s.modDie n (fun _ => xs.foldl Die.skipTick ((s.tickDie n false).openFrame v true)) :=
    State.lateRecognition_due hub h hx hn
  obtain ⟨w, q, e, k, hs, hb⟩ := foldl_skipTick xs ((s.tickDie n false).openFrame v true)
  have hd : t.dies[n] = xs.foldl Die.skipTick ((s.tickDie n false).openFrame v true) := by rw [ht]; exact s.modDie_same n _
  rw [hs] at hd
  obtain ⟨hf, hh, -, -⟩ := startsCores_openFrame (s.tickDie n false) v true
  refine ⟨?_, frameOpens_of_openFrame (d := s.tickDie n false) rfl ?_ ?_ ?_ ?_ (w := w)
    (k := satAdd ((s.tickDie n false).openFrame v true).frm.skip xs.length), ?_⟩
  · rw [ht]
    exact onlyDie_modDie s n _
  · rw [hd]
  · rw [hd]
  · rw [hd]
  · rw [hd]
  · rw [hd]
    dsimp only
    rw [hf, hh]
    exact ⟨rfl, Bool.or_true _, rfl, ⟨rfl, rfl⟩, rfl, fun hne => hb (.inl hne)⟩

/-- A tick value met while the frame runs is counted and kept, and the frame runs on. -/
theorem State.tickOverrun_counts (hr : s.dies[n].frm.frun = true) (hn : s.dies[n].frm.nextTick ≤ s.dies[n].clock.tc.toNat) :
    let d := s.dies[n]
    let t := s.tickOverrun n
    OnlyDie n s t ∧ t.dies[n].cores = d.cores ∧ t.dies[n].frm.frun = true ∧ t.dies[n].frm.fnum = d.frm.fnum
      ∧ t.dies[n].frm.ovr = satAdd d.frm.ovr 1 ∧ t.dies[n].frm.fallen = d.frm.fallen ++ [d.frm.nextTick]
      ∧ bit t.dies[n].frm.fault 1 = true ∧ t.dies[n].hold = d.hold
      ∧ t.dies[n].frm.nextTick = tickAfter d.frm.nextTick (s.periodFrom d.frm.nextTick) := by
  intro d t
  let met : Die := { d with frm := { d.frm with
    nextTick := tickAfter d.frm.nextTick (s.periodFrom d.frm.nextTick), ovr := satAdd d.frm.ovr 1
    fallen := d.frm.fallen ++ [d.frm.nextTick] } }
  have ht : t = s.modDie n (fun _ => met.faultEach .clock frOvr) := by
    refine (if_pos (by simp only [hr, hn, decide_true, Bool.and_self])).trans ?_
    simp only [State.meetTick, State.modDie_modDie]
    exact s.modDie_congr n _ _ rfl
  obtain ⟨q, e, k, hm⟩ := met.faultEach_clock frOvr
  have hd : t.dies[n] = met.faultEach .clock frOvr := by rw [ht]; exact s.modDie_same n _
  rw [hd, hm, ht]
  exact ⟨onlyDie_modDie s n _, rfl, hr, rfl, rfl, rfl, bit_setBit_same _ (by decide), rfl, rfl⟩

end

/-- Settles O33: a tick that is due, one that is not yet, the late frame, and the overrun. -/
theorem ticksOpenFrames : Obligations.TicksOpenFrames := by
  unfold Obligations.TicksOpenFrames
  intro s n d next limits
  refine ⟨fun hub ho ha hc hr hf => ⟨fun he hn => ?due, fun he hn => ?early, fun xs v hx hn => ?late⟩, fun hf hn => ?overrun,
    fun h => ?none⟩
  case due =>
    have h : s.tickDue n = true := by
      simp only [State.tickDue, show s.dies[n] = d from rfl, hf, he, ho, ha, hc, hn, hr]
      rfl
    exact ⟨_, rfl, State.tickRecognition_opens hub h⟩
  case early =>
    have h : s.tickDue n = false := by
      simp only [State.tickDue, show s.dies[n] = d from rfl, Nat.not_le.2 hn, decide_false, Bool.and_false, Bool.false_and]
    exact congrArg Host.Outcome.next (State.tickRecognition_early hub h ho ha hc)
  case late =>
    have h : s.lateDue n = true := by
      simp only [State.lateDue, show s.dies[n] = d from rfl, hf, hx, ho, ha, hc, hr]
      simp
    exact ⟨_, rfl, State.lateRecognition_opens hub h hx hn⟩
  case overrun =>
    obtain ⟨h1, h2, h3, h4, h5, h6, h7, h8, h9⟩ := State.tickOverrun_counts hf hn
    exact ⟨_, rfl, h1, h2, h3, h4, h5, h6, h7, h8, h9⟩
  case none =>
    refine congrArg Host.Outcome.next (if_neg ?_)
    obtain h | h := h
    · simp only [show s.dies[n] = d from rfl, h, Bool.false_and, Bool.false_eq_true, not_false_eq_true]
    · simp only [show s.dies[n] = d from rfl, Nat.not_le.2 h, decide_false, Bool.and_false, Bool.false_eq_true, not_false_eq_true]

end Sys2Proof.Machine

/-! # What the working of links leaves

Packets that are answered, ports that go down or begin anew, and the reports of it change little of what the requests of a module
speak of. What they leave is said once here. -/

namespace Sys2Proof.Machine

/-! ### Dies -/

/-- The plan of a die, its power state, its coordinate, and the control core and scratchpad of each of its cores stay. -/
def DieKept (d e : Die) : Prop :=
  e.plan = d.plan ∧ e.pow = d.pow ∧ e.router.phys = d.router.phys
    ∧ ∀ c : CoreIx, e.cores[c].ctl = d.cores[c].ctl ∧ e.cores[c].scratch = d.cores[c].scratch

theorem DieKept.refl (d : Die) : DieKept d d := ⟨rfl, rfl, rfl, fun _ => ⟨rfl, rfl⟩⟩

theorem DieKept.trans {d e f : Die} (h : DieKept d e) (g : DieKept e f) : DieKept d f := by
  obtain ⟨h1, h2, h3, h4⟩ := h
  obtain ⟨g1, g2, g3, g4⟩ := g
  exact ⟨g1.trans h1, g2.trans h2, g3.trans h3, fun c => ⟨(g4 c).1.trans (h4 c).1, (g4 c).2.trans (h4 c).2⟩⟩

theorem dieKept_modCore (d : Die) (c : CoreIx) {f : Core → Core} (hc : ∀ k, (f k).ctl = k.ctl) (hs : ∀ k, (f k).scratch = k.scratch) :
    DieKept d (d.modCore c f) := ⟨rfl, rfl, rfl, fun x => ⟨d.modCore_field c (·.ctl) hc x, d.modCore_field c (·.scratch) hs x⟩⟩

theorem dieKept_answerOwn (d : Die) (c by_ : CoreIx) (a : Answer) (due : Nat) : DieKept d (d.answerOwn c by_ a due) := by
  unfold Die.answerOwn
  split
  · exact dieKept_modCore d c (fun _ => rfl) (fun _ => rfl)
  · exact .refl d

theorem dieKept_lossAway (d : Die) (r : Routed) : DieKept d (d.lossAway r) := by
  unfold Die.lossAway
  split
  · exact ⟨rfl, rfl, rfl, fun _ => ⟨rfl, rfl⟩⟩
  · exact .refl d

theorem dieKept_cutLane (d : Die) (i : Fin 7) (host : Bool) : DieKept d (d.cutLane i host) := by
  have cut : ∀ r : Router, r.phys = d.router.phys → DieKept d { d with router := r } :=
    fun r h => ⟨rfl, rfl, h, fun _ => ⟨rfl, rfl⟩⟩
  unfold Die.cutLane
  dsimp only
  split
  · split
    · exact (cut _ (by exact rfl)).trans (dieKept_lossAway _ _)
    · split
      · exact (cut _ (by exact rfl)).trans (dieKept_lossAway _ _)
      · exact cut _ rfl
  · split
    · split
      · exact (cut _ (by exact rfl)).trans (dieKept_lossAway _ _)
      · exact cut _ rfl
    · exact .refl d

/-- A fault of the router sets a bit of its fault word, and else changes only what notes and records it. -/
theorem Die.fault_router (d : Die) (b : FBit) :
    ∃ q e o n, d.fault .router b
      = { d with router := { d.router with fault := setBit d.router.fault b.bit }, evq := q, evLost := e, once := o, setNow := n } := by
  have h := d.fault_only .router b 0
  refine ⟨(d.fault .router b).evq, (d.fault .router b).evLost, (d.fault .router b).once, (d.fault .router b).setNow, ?_⟩
  have g := congrArg (fun y : Die => { y with
    evq := (d.fault .router b).evq, evLost := (d.fault .router b).evLost, once := (d.fault .router b).once
    setNow := (d.fault .router b).setNow }) h
  exact g

theorem dieKept_faultRouter (d : Die) (b : FBit) : DieKept d (d.fault .router b) := by
  obtain ⟨q, e, o, n, h⟩ := d.fault_router b
  rw [h]
  exact ⟨rfl, rfl, rfl, fun _ => ⟨rfl, rfl⟩⟩

theorem dieKept_eventOnce (d : Die) (sev : Nat) (unitk : BitVec 8) (unit : BitVec 16) (rule : Nat) (bit : BitVec 8) (det : Bytes) :
    DieKept d (d.eventOnce sev unitk unit rule bit det) := by
  have h := d.eventOnce_only sev unitk unit rule bit det
  have hp := congrArg Die.plan h
  have hw := congrArg Die.pow h
  have hr := congrArg (·.router.phys) h
  have hk := congrArg Die.cores h
  exact ⟨hp, hw, hr, fun c => ⟨congrArg (fun v : Vector Core 32 => v[c].ctl) hk, congrArg (fun v : Vector Core 32 => v[c].scratch) hk⟩⟩

/-! ### The module -/

/-- From s to t links have worked: the hub die's time, recorder, packets and messages of the host, and reports may change, and its
dies as far as `DieKept` lets them. A port that is not one of `own` stays, but for what a host-facing one has to send. -/
structure LinkWork (own : PortIx → Prop) (s t : State) : Prop where
  hub : { t.hub with time := s.hub.time, rec_ := s.hub.rec_, dict := { t.hub.dict with
    toHost := s.hub.dict.toHost, hostOuts := s.hub.dict.hostOuts, groupLog := s.hub.dict.groupLog
    topoGen := s.hub.dict.topoGen } } = s.hub
  dies : ∀ m : DieIx, DieKept s.dies[m] t.dies[m]
  ports : ∀ p : PortIx, ¬own p → (s.hostEnd ≠ some p → t.ports[p] = s.ports[p])
    ∧ { t.ports[p] with link := { t.ports[p].link with outq := s.ports[p].link.outq } } = s.ports[p]

section
variable {own : PortIx → Prop} {s t u : State}

theorem LinkWork.power (h : LinkWork own s t) : t.hub.power = s.hub.power := congrArg (·.power) h.hub
theorem LinkWork.bring (h : LinkWork own s t) : t.hub.bring = s.hub.bring := congrArg (·.bring) h.hub
theorem LinkWork.base (h : LinkWork own s t) : t.hub.dict.base = s.hub.dict.base := congrArg (·.dict.base) h.hub
theorem LinkWork.size (h : LinkWork own s t) : t.hub.dict.size = s.hub.dict.size := congrArg (·.dict.size) h.hub
theorem LinkWork.sessions (h : LinkWork own s t) : t.hub.dict.sessions = s.hub.dict.sessions := congrArg (·.dict.sessions) h.hub
theorem LinkWork.hostPort (h : LinkWork own s t) : t.hub.dict.hostPort = s.hub.dict.hostPort := congrArg (·.dict.hostPort) h.hub

theorem State.hostEnd_congr (h : t.hub.dict.hostPort = s.hub.dict.hostPort) : t.hostEnd = s.hostEnd := by
  simp only [State.hostEnd, h]

theorem LinkWork.refl (own : PortIx → Prop) (s : State) : LinkWork own s s := ⟨rfl, fun _ => .refl _, fun _ _ => ⟨fun _ => rfl, rfl⟩⟩

theorem LinkWork.trans (h : LinkWork own s t) (g : LinkWork own t u) : LinkWork own s u where
  hub := by
    have e := congrArg (fun y : Hub => { y with time := s.hub.time, rec_ := s.hub.rec_, dict := { y.dict with
      toHost := s.hub.dict.toHost, hostOuts := s.hub.dict.hostOuts, groupLog := s.hub.dict.groupLog
      topoGen := s.hub.dict.topoGen } }) g.hub
    exact e.trans h.hub
  dies := fun m => (h.dies m).trans (g.dies m)
  ports := fun p hp => by
    obtain ⟨h1, h2⟩ := h.ports p hp
    obtain ⟨g1, g2⟩ := g.ports p hp
    refine ⟨fun hn => (g1 (by rwa [State.hostEnd_congr h.hostPort])).trans (h1 hn), ?_⟩
    have e := congrArg (fun y : Port => { y with link := { y.link with outq := s.ports[p].link.outq } }) g2
    exact e.trans h2

theorem LinkWork.mono {own' : PortIx → Prop} (h : LinkWork own s t) (hs : ∀ p, own p → own' p) : LinkWork own' s t :=
  ⟨h.hub, h.dies, fun p hp => h.ports p (fun e => hp (hs p e))⟩

theorem LinkWork.foldl {α : Type} {f : State → α → State} {l : List α} (h : ∀ s, ∀ a ∈ l, LinkWork own s (f s a)) (s : State) :
    LinkWork own s (l.foldl f s) := by
  induction l generalizing s with
  | nil => exact .refl own s
  | cons a l ih =>
    rw [List.foldl_cons]
    exact (h s a List.mem_cons_self).trans (ih (fun s b hb => h s b (List.mem_cons_of_mem a hb)) _)

/-- The state of a port that is not touched itself. -/
theorem LinkWork.portSt (h : LinkWork own s t) {p : PortIx} (hp : ¬own p) : t.ports[p].link.st = s.ports[p].link.st :=
  congrArg (·.link.st) (h.ports p hp).2

theorem LinkWork.portNb (h : LinkWork own s t) {p : PortIx} (hp : ¬own p) : t.ports[p].nb = s.ports[p].nb :=
  congrArg (·.nb) (h.ports p hp).2

theorem LinkWork.portCmd (h : LinkWork own s t) {p : PortIx} (hp : ¬own p) : t.ports[p].cmd = s.ports[p].cmd :=
  congrArg (·.cmd) (h.ports p hp).2

/-! ### Changes of one part -/

theorem linkWork_modDie (s : State) (n : DieIx) {f : Die → Die} (h : ∀ d, DieKept d (f d)) : LinkWork own s (s.modDie n f) where
  hub := rfl
  dies := fun m => by
    by_cases e : m = n
    · subst e
      have := s.modDie_same m f
      simp only [Fin.getElem_fin, this]
      exact h _
    · rw [s.modDie_other n m f e]
      exact .refl _
  ports := fun _ _ => ⟨fun _ => rfl, rfl⟩

theorem State.modPort_other (s : State) (p q : PortIx) (f : Port → Port) (h : q ≠ p) : (s.modPort p f).ports[q] = s.ports[q] := by
  simp only [State.modPort, vupd_get, if_neg h]

theorem linkWork_modPort (s : State) (p : PortIx) (f : Port → Port) : LinkWork (· = p) s (s.modPort p f) where
  hub := rfl
  dies := fun _ => .refl _
  ports := fun q hq => by
    rw [s.modPort_other p q f hq]
    exact ⟨fun _ => rfl, rfl⟩

/-- The ports that a change of a link end touches. -/
def endOwns : LinkEnd → PortIx → Prop
  | .port p, q => q = p
  | .pkg _ _, _ => False

theorem linkWork_modLink (s : State) (e : LinkEnd) (f : Link → Link) : LinkWork (endOwns e) s (s.modLink e f) := by
  cases e with
  | port p => exact linkWork_modPort s p _
  | pkg n a => exact linkWork_modDie s n (fun _ => ⟨rfl, rfl, rfl, fun _ => ⟨rfl, rfl⟩⟩)

/-! ### Answers of routers and of the bridge -/

/-- A host notice waits in the queue of the host-facing port. -/
theorem linkWork_notifyHost (s : State) (code : Nat) (o : HostOut) : LinkWork own s (s.notifyHost code o) := by
  unfold State.notifyHost
  split
  case h_1 p hp =>
    refine ⟨rfl, fun _ => .refl _, fun q _ => ?_⟩
    by_cases e : q = p
    · subst e
      have same := s.modPort_same q (fun x => { x with link := { x.link with outq := x.link.outq ++ [mkFlit 3 3 1 true 0 0 (hostNotice code o) 0] } })
      refine ⟨fun hn => absurd hp hn, ?_⟩
      exact congrArg (fun y : Port => { y with link := { y.link with outq := s.ports[q].link.outq } }) same
    · have other := s.modPort_other p q (fun x => { x with link := { x.link with outq := x.link.outq ++ [mkFlit 3 3 1 true 0 0 (hostNotice code o) 0] } }) e
      exact ⟨fun _ => other, congrArg (fun y : Port => { y with link := { y.link with outq := s.ports[q].link.outq } }) other⟩
  case h_2 => exact .refl own s

theorem linkWork_answerHost (s : State) (code : Nat) (m : MsgId) (by_ : Option (BitVec 23)) : LinkWork own s (s.answerHost code m by_) := by
  unfold State.answerHost
  split
  · refine LinkWork.trans ?_ (linkWork_notifyHost _ _ _)
    exact ⟨rfl, fun _ => .refl _, fun _ _ => ⟨fun _ => rfl, rfl⟩⟩
  · exact .refl own s

theorem linkWork_answerHere (s : State) (n : DieIx) (c by_ : CoreIx) (code : Nat) (m : MsgId) (host : Bool) :
    LinkWork own s (s.answerHere n c by_ code m host) := by
  unfold State.answerHere
  split
  · exact linkWork_answerHost s code m _
  · exact linkWork_modDie s n (fun d => dieKept_answerOwn d ..)

theorem linkWork_answerFlit (s : State) (n : DieIx) (f : Flit) (code : Nat) (bridge : Bool) :
    LinkWork own s (s.answerFlit n f code bridge) := by
  unfold State.answerFlit
  split
  · exact .refl own s
  · split
    · exact linkWork_answerHere ..
    · exact linkWork_modDie s n (fun _ => ⟨rfl, rfl, rfl, fun _ => ⟨rfl, rfl⟩⟩)

theorem linkWork_hostDone (s : State) (x : ToHost) (code : Nat) : LinkWork own s (s.hostDone x code) := by
  have removed : LinkWork own s (s.modHub (fun h => { h with dict := { h.dict with toHost := h.dict.toHost.erase x } })) :=
    ⟨rfl, fun _ => .refl _, fun _ _ => ⟨fun _ => rfl, rfl⟩⟩
  unfold State.hostDone
  dsimp only
  split
  · exact removed.trans (linkWork_answerFlit ..)
  · exact removed

/-! ### Link ends that leave the trained states -/

theorem linkWork_flushOut (s : State) (e : LinkEnd) : LinkWork own s (s.flushOut e) := by
  have answered : LinkWork own s (if (s.link e).st = .host then (s.hub.dict.toHost.filter (·.sent)).foldl (fun s x => s.hostDone x 7) s
      else ((s.link e).outq.filter (fun f => f.fk = 1)).foldl (fun s f => s.answerFlit (endDie e) f 7) s) := by
    split
    · exact .foldl (fun s x _ => linkWork_hostDone s x 7) s
    · exact .foldl (fun s f _ => linkWork_answerFlit s (endDie e) f 7 false) s
  unfold State.flushOut
  dsimp only
  refine LinkWork.trans ?_ (linkWork_modDie _ _ (fun _ => ⟨rfl, rfl, rfl, fun _ => ⟨rfl, rfl⟩⟩))
  split
  · exact answered.trans (linkWork_modDie _ _ (fun d => dieKept_faultRouter d _))
  · exact answered

theorem linkWork_dropLink (s : State) (e : LinkEnd) (new : LinkState) : LinkWork (endOwns e) s (s.dropLink e new) := by
  unfold State.dropLink
  dsimp only
  refine ((linkWork_flushOut s e).trans ?_).trans (linkWork_modLink _ e _)
  exact linkWork_modDie _ _ (fun d => (dieKept_cutLane d _ _).trans (dieKept_cutLane _ _ _))

/-- A link end that is dropped takes its new state. -/
theorem State.dropLink_st (s : State) (p : PortIx) (new : LinkState) : (s.dropLink (.port p) new).ports[p].link.st = new := by
  unfold State.dropLink
  exact congrArg (·.link.st) (State.modPort_same _ p _)

theorem linkWork_chooseUpstream (s : State) : LinkWork own s s.chooseUpstream := by
  obtain ⟨time, q, e, -⟩ := s.chooseUpstream_eq
  rw [e]
  exact ⟨rfl, fun _ => .refl _, fun _ _ => ⟨fun _ => rfl, rfl⟩⟩

theorem linkWork_upstreamLost (s : State) : LinkWork own s s.upstreamLost := by
  unfold State.upstreamLost
  dsimp only
  split
  · exact linkWork_chooseUpstream s
  · exact .refl own s

theorem linkWork_event (s : State) (sev : Nat) (unitk : BitVec 8) (unit : BitVec 16) (rule : Nat) (bit : BitVec 8) (det : Bytes) :
    LinkWork own s (s.modHub (·.event sev unitk unit rule bit det)) := ⟨rfl, fun _ => .refl _, fun _ _ => ⟨fun _ => rfl, rfl⟩⟩

theorem linkWork_raiseTopo (s : State) : LinkWork own s s.raiseTopo := ⟨rfl, fun _ => .refl _, fun _ _ => ⟨fun _ => rfl, rfl⟩⟩

theorem Hub.addReport_eq (h : Hub) (r : Bytes) : ∃ l, h.addReport r = { h with dict := { h.dict with groupLog := l } } := ⟨_, rfl⟩

theorem linkWork_addReport (s : State) (r : Bytes) : LinkWork own s (s.modHub (·.addReport r)) := by
  obtain ⟨l, e⟩ := s.hub.addReport_eq r
  rw [State.modHub, e]
  exact ⟨rfl, fun _ => .refl _, fun _ _ => ⟨fun _ => rfl, rfl⟩⟩

theorem linkWork_report (s : State) (p : PortIx) (cause : Nat) : LinkWork own s (s.report p cause) := by
  unfold State.report
  dsimp only
  split
  · exact .refl own s
  · split
    · exact linkWork_addReport s _
    · refine linkWork_modDie s _ (fun d => ?_)
      split
      · exact ⟨rfl, rfl, rfl, fun _ => ⟨rfl, rfl⟩⟩
      · exact .refl d

theorem linkWork_portFault (s : State) (p : PortIx) (b : FBit) (det : Option Bytes) : LinkWork (· = p) s (s.portFault p b det) := by
  unfold State.portFault
  dsimp only
  exact (linkWork_modPort s p _).trans (linkWork_modDie _ _ (fun d => dieKept_eventOnce d ..))

theorem State.portFault_link (s : State) (p : PortIx) (b : FBit) (det : Option Bytes) :
    (s.portFault p b det).ports[p].link = s.ports[p].link := by
  have h := congrArg Port.link
    (s.modPort_same p (fun x => { x with fault := setBit x.fault b.bit, setNow := setBit x.setNow b.bit }))
  exact h

/-- The record of a port that has left the trained states: as a fault where it is Down. -/
theorem portDown_record (s : State) (p : PortIx) (new : LinkState) (det : Bytes) :
    let t := if new = .down then s.portFault p lnkLost det else s.modHub (·.event 4 0x0C (BitVec.ofNat 16 p.val) 343 0xFF det)
    LinkWork (· = p) s t ∧ t.ports[p].link = s.ports[p].link := by
  intro t
  by_cases h : new = .down
  · rw [show t = s.portFault p lnkLost det from if_pos h]
    exact ⟨linkWork_portFault .., s.portFault_link ..⟩
  · rw [show t = s.modHub (·.event 4 0x0C (BitVec.ofNat 16 p.val) 343 0xFF det) from if_neg h]
    exact ⟨linkWork_event .., rfl⟩

theorem portDown_works (s : State) (p : PortIx) (new : LinkState) (cause : Nat) :
    LinkWork (· = p) s (s.portDown p new cause) ∧ (s.portDown p new cause).ports[p].link.st = new := by
  unfold State.portDown
  extract_lets x cause s1 s2 s3 det s4
  have h1 : LinkWork (· = p) s s1 := linkWork_dropLink s (.port p) new
  have h2 : LinkWork (· = p) s1 s2 := linkWork_modPort ..
  have h3 : LinkWork (fun _ => False) s2 s3 := linkWork_upstreamLost s2
  obtain ⟨h4, h4'⟩ := portDown_record s3 p new det
  have h5 : LinkWork (fun _ => False) s4 (s4.raiseTopo.report p cause) := (linkWork_raiseTopo s4).trans (linkWork_report ..)
  have weak : ∀ q : PortIx, False → q = p := fun _ h => h.elim
  refine ⟨(((h1.trans h2).trans (h3.mono weak)).trans h4).trans (h5.mono weak), ?_⟩
  calc (s4.raiseTopo.report p cause).ports[p].link.st
      = s4.ports[p].link.st := h5.portSt id
    _ = s3.ports[p].link.st := congrArg Link.st h4'
    _ = s2.ports[p].link.st := h3.portSt id
    _ = s1.ports[p].link.st := congrArg (·.link.st) (s1.modPort_same p _)
    _ = new := s.dropLink_st p new

theorem linkWork_linkDown (s : State) (e : LinkEnd) (new : LinkState) (cause : Nat) : LinkWork (endOwns e) s (s.linkDown e new cause) := by
  unfold State.linkDown
  split
  · cases e with
    | port p => exact (portDown_works s p new cause).1
    | pkg n a => exact linkWork_dropLink ..
  · exact .refl _ s

/-- A port that was trained takes the state that it goes down to. -/
theorem State.linkDown_st {s : State} {p : PortIx} (h : s.ports[p].link.trained = true) (new : LinkState) (cause : Nat) :
    (s.linkDown (.port p) new cause).ports[p].link.st = new := by
  rw [State.linkDown, if_pos (show (s.link (.port p)).trained = true from h)]
  exact (portDown_works s p new cause).2

theorem linkWork_endDown (s : State) (e : LinkEnd) (cause : Nat) : LinkWork (endOwns e) s (s.endDown e cause) := by
  unfold State.endDown
  split
  · exact linkWork_linkDown ..
  · split
    · exact linkWork_modLink ..
    · exact .refl _ s

theorem linkWork_wakeEnd (s : State) (e : LinkEnd) : LinkWork (endOwns e) s (s.wakeEnd e) := by
  unfold State.wakeEnd
  dsimp only
  split
  · split
    · exact .refl _ s
    · exact linkWork_modLink ..
  · exact linkWork_modLink ..
  · exact .refl _ s

theorem linkWork_portAnew (s : State) (p : PortIx) : LinkWork (· = p) s (s.portAnew p) := by
  unfold State.portAnew
  extract_lets e s1 _ s2
  have h1 : LinkWork (· = p) s s1 := by
    by_cases h : (s.link e).trained = true
    · rw [show s1 = s.linkDown e .unused 6 from if_pos h]
      exact linkWork_linkDown s (.port p) _ _
    · rw [show s1 = s from if_neg h]
      exact .refl _ s
  have h2 : LinkWork (· = p) s1 s2 := linkWork_modLink s1 (.port p) _
  split
  · exact (h1.trans h2).trans (linkWork_wakeEnd s2 (.port p))
  · exact h1.trans h2

end

end Sys2Proof.Machine

/-! # Writes of the rows that name an entry

The value that a fresh session of an operator writes through a row of its own is judged and has its entry's effect; what the statements
say of it is read off the state and the status that come of it. -/

namespace Sys2Proof.Machine

/-- The state that a write leaves, with the response that carries its status kept. -/
def Responds (r : Req) (e : State × BitVec 8) (t : State) : Prop :=
  ∃ tot idx sub, t = e.1.reply r ((bare 0x82 e.2 tot).at_ idx sub)

section
variable {s u t : State} {r : Req} {x y : Session} {e : State × BitVec 8} {st : BitVec 8} {i j : Nat} {k : EntryKind} {v : Bytes}

theorem Fresh.put_responds (h : Fresh s r x) (i j : Nat) (v : Bytes) :
    ∃ t, s.put r i j v = .next t ∧ Responds r (s.writeEntry x i j v noPlan noStandby) t :=
  ⟨_, h.put i j v, _, _, _, rfl⟩

theorem Responds.written (h : Responds r e t) (he : e = (u, st)) : Written u r st t := by
  obtain ⟨tot, idx, sub, rfl⟩ := h
  subst he
  exact written_reply ..

theorem Responds.answered (h : Responds r e t) (hs : e.2 = st) (hx : e.1.session r.ses = some y) : Answered t r 0x82 st := by
  obtain ⟨tot, idx, sub, rfl⟩ := h
  subst hs
  exact answered_reply hx ..

theorem Responds.only (h : Responds r e t) : OnlySessions e.1 t := by
  obtain ⟨tot, idx, sub, rfl⟩ := h
  rfl

theorem Responds.dies (h : Responds r e t) : t.dies = e.1.dies := congrArg (·.dies) h.only
theorem Responds.ports (h : Responds r e t) : t.ports = e.1.ports := congrArg (·.ports) h.only
theorem Responds.power (h : Responds r e t) : t.hub.power = e.1.hub.power := congrArg (·.hub.power) h.only
theorem Responds.bring (h : Responds r e t) : t.hub.bring = e.1.hub.bring := congrArg (·.hub.bring) h.only
theorem Responds.board (h : Responds r e t) : t.hub.board = e.1.hub.board := congrArg (·.hub.board) h.only
theorem Responds.base (h : Responds r e t) : t.hub.dict.base = e.1.hub.dict.base := congrArg (·.hub.dict.base) h.only
theorem Responds.size (h : Responds r e t) : t.hub.dict.size = e.1.hub.dict.size := congrArg (·.hub.dict.size) h.only

/-! ### The checks before an entry's own -/

/-- A value that fits its entry's type has the entry's effect where no lane is in the way. -/
theorem State.writeEntry_ofKind (hm : mayWrite x.role i j = 0) (hk : kindOf i j = some k) (hf : fits k v = true)
    (ho : offType k v = false) (hl : laneDie i j = none) : s.writeEntry x i j v noPlan noStandby = s.effect x i j v noPlan noStandby :=
  State.writeEntry_effect hm hk hf ho (s.laneAway_of_none hl)

theorem State.laneAway_ofDie {d : DieIx} (h : laneDie i j = some d) : s.laneAway i j = !s.dies[d].reached := by
  simp [State.laneAway, h]

/-- An entry of a die is refused with 8 where the die's lane has failed. -/
theorem State.writeEntry_unreached {d : DieIx} (hm : mayWrite x.role i j = 0) (hk : kindOf i j = some k) (hf : fits k v = true)
    (ho : offType k v = false) (hl : laneDie i j = some d) (hd : s.dies[d].reached = false) :
    s.writeEntry x i j v noPlan noStandby = (s, 8) :=
  State.writeEntry_laneAway hm hk hf ho (by rw [State.laneAway_ofDie hl, hd]; rfl)

theorem State.writeEntry_reached {d : DieIx} (hm : mayWrite x.role i j = 0) (hk : kindOf i j = some k) (hf : fits k v = true)
    (ho : offType k v = false) (hl : laneDie i j = some d) (hd : s.dies[d].reached = true) :
    s.writeEntry x i j v noPlan noStandby = s.effect x i j v noPlan noStandby :=
  State.writeEntry_effect hm hk hf ho (by rw [State.laneAway_ofDie hl, hd]; rfl)

theorem LinkWork.session {own : PortIx → Prop} (h : LinkWork own s t) (n : BitVec 16) : t.session n = s.session n := by
  simp only [State.session, h.sessions]

end

end Sys2Proof.Machine

/-! # Routes and ports (O52) -/

namespace Sys2Proof.Machine

/-! ### Entries of a die and of a port -/

theorem mayWrite_operator_die (d : DieIx) : mayWrite .operator 0x3060 (d.val + 1) = 0 ∧ mayWrite .operator 0x3070 (d.val + 1) = 0
    ∧ mayWrite .operator 0x3080 (d.val + 1) = 0 := by
  revert d
  decide

theorem kindOf_die (d : DieIx) : kindOf 0x3060 (d.val + 1) = some (kBool .admin) ∧ kindOf 0x3070 (d.val + 1) = some (kOct .admin 1056)
    ∧ kindOf 0x3080 (d.val + 1) = some (kU64 .admin) := by
  revert d
  decide

theorem laneDie_die (d : DieIx) : laneDie 0x3060 (d.val + 1) = some d ∧ laneDie 0x3070 (d.val + 1) = some d
    ∧ laneDie 0x3080 (d.val + 1) = some d := by
  revert d
  decide

theorem portCommand_entry (p : PortIx) : mayWrite .operator 0x3050 (p.val + 1) = 0 ∧ kindOf 0x3050 (p.val + 1) = some (kU8 .admin)
    ∧ laneDie 0x3050 (p.val + 1) = none := by
  revert p
  decide

section
variable {s t : State} {r : Req} {x : Session}

theorem State.modPort_modPort (s : State) (p : PortIx) (f g : Port → Port) :
    (s.modPort p f).modPort p g = s.modPort p (fun x => g (f x)) := by simp [State.modPort]

theorem State.effect_route (s : State) (x : Session) (d : DieIx) (v : Bytes) :
    s.effect x 0x3070 (d.val + 1) v noPlan noStandby = s.writeRoute d v := by
  conv_rhs => rw [← dieOf_succ d]
  rfl

theorem State.effect_swap (s : State) (x : Session) (d : DieIx) (q : U64) :
    s.effect x 0x3080 (d.val + 1) (leBytes 8 q.toNat) noPlan noStandby = s.writeSwap d q := by
  conv_rhs => rw [← dieOf_succ d, ← ofNat_leNat_leBytes 8 q]
  rfl

theorem State.effect_pass (s : State) (x : Session) (d : DieIx) (b : BitVec 8) :
    s.effect x 0x3060 (d.val + 1) [b] noPlan noStandby = s.writePass d b := by
  conv_rhs => rw [← dieOf_succ d]
  rfl

theorem State.effect_portCommand (s : State) (x : Session) (p : PortIx) (b : BitVec 8) :
    s.effect x 0x3050 (p.val + 1) [b] noPlan noStandby = s.portCommand p b := by
  conv_rhs => rw [← portAt_succ p]
  rfl

/-! ### Route images (R339) -/

theorem imageOk_length {im : Bytes} {size : U32} (h : imageOk im size = true) : im.length = 1056 := by
  rw [imageOk, Bool.and_eq_true, decide_eq_true_iff] at h
  exact h.1

/-- An image of the right length that passes its checks fills the standby bank. -/
theorem State.writeRoute_good {s : State} {d : DieIx} {im : Bytes} (h : imageOk im s.hub.dict.size = true) :
    s.writeRoute d im = (s.modDie d (fun y => { y with router :=
      if s.dies[d].router.act then { s.dies[d].router with image0 := im, notReady := false }
      else { s.dies[d].router with image1 := im, notReady := false } }), 0) := by
  rw [State.writeRoute, if_neg (not_not.2 (imageOk_length h)), State.writeImage, if_pos h]
  exact congrArg (·, 0) (s.modDie_congr d _ _ rfl)

/-- One that fails them sets RT_LOAD_BAD. -/
theorem State.writeRoute_bad {s : State} {d : DieIx} {im : Bytes} (hl : im.length = 1056) (h : imageOk im s.hub.dict.size = false) :
    s.writeRoute d im = (s.modDie d (fun y => y.fault .router rtLoadBad), 7) := by
  rw [State.writeRoute, if_neg (not_not.2 hl), State.writeImage, h]
  rfl

/-- The operator's write of a route image (R339). -/
theorem routeImageWrite_acts (h : Fresh s r x) (hx : x.role = .operator) (d : DieIx) (image : Bytes) :
    let rt := s.dies[d].router
    ∃ t, exec (.routeImageWrite r d image) s = .next t
        ∧ (1056 < image.length → Written s r 6 t)
        ∧ (image.length ≤ 1056 → s.dies[d].reached = false → Written s r 8 t)
        ∧ (image.length < 1056 → s.dies[d].reached = true → Written s r 6 t)
        ∧ (s.dies[d].reached = true → imageOk image s.hub.dict.size = true →
            Written (s.modDie d (fun y => { y with router :=
              if rt.act then { rt with image0 := image, notReady := false } else { rt with image1 := image, notReady := false } })) r 0 t)
        ∧ (image.length = 1056 → s.dies[d].reached = true → imageOk image s.hub.dict.size = false →
            Answered t r 0x82 7 ∧ (∀ m : DieIx, m ≠ d → t.dies[m] = s.dies[m]) ∧ t.ports = s.ports
            ∧ t.dies[d].router.image0 = rt.image0 ∧ t.dies[d].router.image1 = rt.image1
            ∧ bit t.dies[d].router.fault 5 = true ∧ t.dies[d].cores = s.dies[d].cores) := by
  intro rt
  obtain ⟨t, ht, hr⟩ := h.put_responds 0x3070 (d.val + 1) image
  have hm : mayWrite x.role 0x3070 (d.val + 1) = 0 := by rw [hx]; exact (mayWrite_operator_die d).2.1
  have hk := (kindOf_die d).2.1
  have hl := (laneDie_die d).2.1
  have fit : image.length ≤ 1056 → fits (kOct .admin 1056) image = true := fun hn => decide_eq_true hn
  have reached : image.length ≤ 1056 → s.dies[d].reached = true →
      s.writeEntry x 0x3070 (d.val + 1) image noPlan noStandby = s.writeRoute d image := fun hn hd =>
    (State.writeEntry_reached hm hk (fit hn) rfl hl hd).trans (s.effect_route x d image)
  refine ⟨t, ht, fun hn => ?_, fun hn hd => ?_, fun hn hd => ?_, fun hd ho => ?_, fun hn hd ho => ?_⟩
  · exact hr.written (State.writeEntry_wrongLength hm hk (decide_eq_false (Nat.not_le.2 hn)))
  · exact hr.written (State.writeEntry_unreached hm hk (fit hn) rfl hl hd)
  · exact hr.written ((reached hn.le hd).trans (if_pos hn.ne))
  · exact hr.written ((reached (imageOk_length ho).le hd).trans (State.writeRoute_good ho))
  · have he := (reached hn.le hd).trans (State.writeRoute_bad hn ho)
    rw [he] at hr
    obtain ⟨ev, lost, once, now, hf⟩ := s.dies[d].fault_router rtLoadBad
    have same : t.dies[d] = s.dies[d].fault .router rtLoadBad := by
      rw [hr.dies]
      exact s.modDie_same d _
    refine ⟨hr.answered rfl h.session_eq, fun m hm => ?_, hr.ports, ?_⟩
    · rw [hr.dies]
      exact s.modDie_other d m _ hm
    · rw [same, hf]
      exact ⟨rfl, rfl, bit_setBit_same _ (by decide), rfl⟩

/-- The operator arms or disarms a swap (R339). -/
theorem routeSwapArm_acts (h : Fresh s r x) (hx : x.role = .operator) (d : DieIx) (q : U64) :
    ∃ t, exec (.routeSwapArm r d q) s = .next t
        ∧ (s.dies[d].reached = true → Written (s.modDie d (fun y => { y with router :=
            { s.dies[d].router with arm := decide (q.toNat % 2 ^ 48 ≠ 0), frame := BitVec.ofNat 48 (q.toNat % 2 ^ 48) } })) r 0 t)
        ∧ (s.dies[d].reached = false → Written s r 8 t) := by
  obtain ⟨t, ht, hr⟩ := h.put_responds 0x3080 (d.val + 1) (leBytes 8 q.toNat)
  have hm : mayWrite x.role 0x3080 (d.val + 1) = 0 := by rw [hx]; exact (mayWrite_operator_die d).2.2
  have hk := (kindOf_die d).2.2
  have hl := (laneDie_die d).2.2
  have fit : fits (kU64 .admin) (leBytes 8 q.toNat) = true := by simp [fits, typeBytes, kU64]
  refine ⟨t, ht, fun hd => ?_, fun hd => ?_⟩
  · refine hr.written ((State.writeEntry_reached hm hk fit rfl hl hd).trans ((s.effect_swap x d q).trans ?_))
    have frame : q.extractLsb' 0 48 = BitVec.ofNat 48 (q.toNat % 2 ^ 48) := by
      apply BitVec.eq_of_toNat_eq
      simp
    have arm : decide (q.extractLsb' 0 48 ≠ 0) = decide (q.toNat % 2 ^ 48 ≠ 0) := by
      refine decide_eq_decide.2 (not_congr ?_)
      rw [← BitVec.toNat_inj]
      simp
    refine congrArg (·, 0) (s.modDie_congr d _ _ ?_)
    simp only [frame, ← arm]
  · exact hr.written (State.writeEntry_unreached hm hk fit rfl hl hd)

/-! ### Pass-through (R340) -/

/-- A die without a plan keeps its cores when it takes no further part. -/
theorem Die.passThrough_idle {d : Die} (h : d.plan = none) (now : Nat) : (d.passThrough now).cores = d.cores := by
  rw [Die.passThrough, Die.endPlan, if_pos (by rw [h]; rfl)]

/-- A die takes part again, and clears its DRAM first where that is trained. -/
def Die.leavePass (now : Nat) (d : Die) : Die :=
  let d := { d with router := { d.router with pthru := false }, pow := { d.pow with leaving := d.pow.trained } }
  if d.pow.trained then d.startClear now else d

theorem Die.leavePass_router (now : Nat) (d : Die) : (d.leavePass now).router = { d.router with pthru := false } := by
  unfold Die.leavePass
  dsimp only
  split <;> rfl

theorem Die.leavePass_clears {d : Die} (h : d.pow.trained = true) (now : Nat) :
    (d.leavePass now).pow.clearing = true ∧ (d.leavePass now).pow.clearAt = now := by
  unfold Die.leavePass
  dsimp only
  rw [if_pos h]
  exact ⟨rfl, rfl⟩

theorem State.writePass_leaves {s : State} {d : DieIx} (h : s.dies[d].router.pthru = true) :
    s.writePass d 0 = (s.modDie d (Die.leavePass s.now), 0) := by
  rw [State.writePass, if_pos rfl, if_pos h]
  rfl

theorem passThroughWrite_acts (h : Fresh s r x) (hx : x.role = .operator) (d : DieIx) (b : BitVec 8) :
    let rt := s.dies[d].router
    ∃ t, exec (.passThroughWrite r d b) s = .next t
        ∧ (2 ≤ b.toNat → Written s r 7 t)
        ∧ (b.toNat ≤ 1 → s.dies[d].reached = false → Written s r 8 t)
        ∧ (b = 1 → s.dies[d].reached = true → s.dies[d].plan ≠ none → Written s r 8 t)
        ∧ (b = 1 → s.dies[d].reached = true → s.dies[d].plan = none → Answered t r 0x82 0 ∧ t.dies[d].router.pthru = true
            ∧ t.dies[d].cores = s.dies[d].cores ∧ (∀ m : DieIx, m ≠ d → t.dies[m] = s.dies[m]) ∧ t.ports = s.ports)
        ∧ (b = 0 → s.dies[d].reached = true → rt.pthru = false → Written s r 0 t)
        ∧ (b = 0 → s.dies[d].reached = true → rt.pthru = true → Answered t r 0x82 0 ∧ t.dies[d].router = { rt with pthru := false }
            ∧ (s.dies[d].pow.trained = true → t.dies[d].pow.clearing = true ∧ t.dies[d].pow.clearAt = s.now)) := by
  intro rt
  obtain ⟨t, ht, hr⟩ := h.put_responds 0x3060 (d.val + 1) [b]
  have hm : mayWrite x.role 0x3060 (d.val + 1) = 0 := by rw [hx]; exact (mayWrite_operator_die d).1
  have hk := (kindOf_die d).1
  have hl := (laneDie_die d).1
  have onType : b.toNat ≤ 1 → offType (kBool .admin) [b] = false := fun hb => by simpa [offType, kBool] using hb
  have reached : b.toNat ≤ 1 → s.dies[d].reached = true →
      s.writeEntry x 0x3060 (d.val + 1) [b] noPlan noStandby = s.writePass d b := fun hb hd =>
    (State.writeEntry_reached hm hk rfl (onType hb) hl hd).trans (s.effect_pass x d b)
  refine ⟨t, ht, fun hb => ?_, fun hb hd => ?_, fun hb hd hp => ?_, fun hb hd hp => ?_, fun hb hd hp => ?_, fun hb hd hp => ?_⟩
  · have off : offType (kBool .admin) [b] = true := by simpa [offType, kBool] using (show 1 < b.toNat from hb)
    exact hr.written (State.writeEntry_offType hm hk rfl off)
  · exact hr.written (State.writeEntry_unreached hm hk rfl (onType hb) hl hd)
  · subst hb
    refine hr.written ((reached (by decide) hd).trans ?_)
    rw [State.writePass, if_neg (by decide), if_neg (by decide), if_pos (Option.isSome_iff_ne_none.2 hp)]
  · subst hb
    have he : s.writePass d 1 = (s.modDie d (Die.passThrough s.now), 0) := by
      rw [State.writePass, if_neg (by decide), if_neg (by decide), if_neg (by rw [hp]; decide)]
    rw [(reached (by decide) hd).trans he] at hr
    have same : t.dies[d] = s.dies[d].passThrough s.now := by
      rw [hr.dies]
      exact s.modDie_same d _
    refine ⟨hr.answered rfl h.session_eq, ?_, ?_, fun m hm => ?_, hr.ports⟩
    · rw [same]; rfl
    · rw [same]; exact Die.passThrough_idle hp s.now
    · rw [hr.dies]
      exact s.modDie_other d m _ hm
  · subst hb
    refine hr.written ((reached (by decide) hd).trans ?_)
    rw [State.writePass, if_pos rfl, if_neg (by rw [hp]; decide)]
  · subst hb
    rw [(reached (by decide) hd).trans (State.writePass_leaves hp)] at hr
    have same : t.dies[d] = s.dies[d].leavePass s.now := by
      rw [hr.dies]
      exact s.modDie_same d _
    refine ⟨hr.answered rfl h.session_eq, ?_, fun hc => ?_⟩
    · rw [same]; exact Die.leavePass_router ..
    · rw [same]; exact Die.leavePass_clears hc s.now

/-! ### Port commands (R317, R330, R454) -/

/-- A port command is obeyed whatever it finds. -/
theorem Fresh.portCommand (h : Fresh s r x) (hx : x.role = .operator) (p : PortIx) (b : BitVec 8) :
    ∃ t, s.put r 0x3050 (p.val + 1) [b] = .next t ∧ Responds r (s.portCommand p b) t := by
  obtain ⟨t, ht, hr⟩ := h.put_responds 0x3050 (p.val + 1) [b]
  obtain ⟨hm, hk, hl⟩ := portCommand_entry p
  rw [State.writeEntry_ofKind (by rw [hx]; exact hm) hk rfl rfl hl, s.effect_portCommand x p b] at hr
  exact ⟨t, ht, hr⟩

/-- The state with the command of a port kept. -/
def State.commanded (s : State) (p : PortIx) (c : BitVec 8) : State := s.modPort p (fun y => { y with cmd := c })

theorem State.commanded_port (s : State) (p : PortIx) (c : BitVec 8) : (s.commanded p c).ports[p] = { s.ports[p] with cmd := c } :=
  s.modPort_same p _

theorem portAutomatic_acts (h : Fresh s r x) (hx : x.role = .operator) (p : PortIx) :
    ∃ t, exec (.portAutomatic r p) s = .next t
        ∧ (s.sleeps = true ∨ s.ports[p].link.st ≠ .lowRate ∨ s.ports[p].rising ≠ none → Written (s.commanded p 0) r 0 t)
        ∧ (s.sleeps = false → s.ports[p].link.st = .lowRate → s.ports[p].rising = none →
            Written (s.modPort p (fun y =>
              { y with cmd := 0, rising := some s.now, link := { y.link with outq := y.link.outq ++ [moveFlit false] } })) r 0 t) := by
  obtain ⟨t, ht, hr⟩ := h.portCommand hx p 0
  have he : s.portCommand p 0 = (if s.sleeps then s.commanded p 0 else (s.commanded p 0).toFullRate p, 0) := rfl
  rw [he] at hr
  refine ⟨t, ht, fun hn => hr.written (congrArg (·, 0) ?_), fun hs hl hp => hr.written (congrArg (·, 0) ?_)⟩
  · by_cases hs : s.sleeps = true
    · rw [if_pos hs]
    · rw [if_neg hs, State.toFullRate, if_neg]
      rw [Bool.and_eq_true, decide_eq_true_iff, State.commanded_port, Option.isNone_iff_eq_none]
      rintro ⟨hl, hp⟩
      obtain hn | hn | hn := hn
      · exact hs hn
      · exact hn hl
      · exact hn hp
  · rw [if_neg (by rw [hs]; decide), State.toFullRate, if_pos]
    · rw [State.commanded, State.enqueueFlit, State.modLink, State.modPort_modPort, State.modPort_modPort]
      rfl
    · rw [Bool.and_eq_true, decide_eq_true_iff, State.commanded_port, Option.isNone_iff_eq_none]
      exact ⟨hl, hp⟩

theorem portDisable_acts (h : Fresh s r x) (hx : x.role = .operator) (p : PortIx) :
    ∃ t, exec (.portDisable r p) s = .next t ∧ Answered t r 0x82 0 ∧ t.ports[p].cmd = 1 ∧ t.ports[p].link.st = .disabled
        ∧ (s.ports[p].link.trained = false → (∀ m : PortIx, m ≠ p → t.ports[m] = s.ports[m]) ∧ t.dies = s.dies) := by
  obtain ⟨t, ht, hr⟩ := h.portCommand hx p 1
  refine ⟨t, ht, ?_⟩
  let u := if s.ports[p].link.trained then s.linkDown (.port p) .disabled 6 else s.modLink (.port p) (fun _ => { Link.init with st := .disabled })
  have he : s.portCommand p 1 = (u.commanded p 1, 0) := rfl
  rw [he] at hr
  have hu : u.session r.ses = some x ∧ u.ports[p].link.st = .disabled := by
    by_cases hl : s.ports[p].link.trained = true
    · rw [show u = s.linkDown (.port p) .disabled 6 from if_pos hl]
      exact ⟨((linkWork_linkDown s _ _ _).session _).trans h.session_eq, State.linkDown_st hl _ _⟩
    · rw [show u = s.modLink (.port p) (fun _ => { Link.init with st := .disabled }) from if_neg hl]
      exact ⟨h.session_eq, congrArg (·.link.st) (s.modPort_same p _)⟩
  have same : t.ports[p] = { u.ports[p] with cmd := 1 } := by
    rw [hr.ports]
    exact u.commanded_port p 1
  refine ⟨hr.answered rfl hu.1, ?_, ?_, fun hl => ?_⟩
  · rw [same]
  · rw [same]
    exact hu.2
  · have hu : u = s.modLink (.port p) (fun _ => { Link.init with st := .disabled }) := if_neg (by rw [hl]; decide)
    refine ⟨fun m hm => ?_, ?_⟩
    · rw [hr.ports]
      exact (u.modPort_other p m _ hm).trans (by rw [hu]; exact s.modPort_other p m _ hm)
    · rw [hr.dies, hu]
      rfl

theorem portLowRate_acts (h : Fresh s r x) (hx : x.role = .operator) (p : PortIx) :
    ∃ t, exec (.portLowRate r p) s = .next t
        ∧ (s.ports[p].link.st ≠ .up → Written (s.commanded p 2) r 0 t)
        ∧ (s.ports[p].link.st = .up → Answered t r 0x82 0 ∧ t.ports[p].cmd = 2 ∧ t.ports[p].link.st = .lowRate
            ∧ t.ports[p].link.outq.head? = some (moveFlit true) ∧ ∀ f ∈ t.ports[p].link.outq.tail, f.vl = 2) := by
  obtain ⟨t, ht, hr⟩ := h.portCommand hx p 2
  have he : s.portCommand p 2 = ((s.toLowRate p).commanded p 2, 0) := rfl
  refine ⟨t, ht, fun hl => ?_, fun hl => ?_⟩
  · exact hr.written (he.trans (by rw [State.toLowRate, if_neg hl]))
  · rw [he, State.toLowRate, if_pos hl] at hr
    let e := LinkEnd.port p
    let u := (s.flushOut e).modDie (portDie p) (fun d => (d.cutLane (inputOf e) false).cutLane (inputOf e) true)
    let low (l : Link) : Link := { l with
      st := .lowRate, outq := moveFlit true :: l.outq.filter (fun f => f.vl = 2)
      credits := l.credits.mapIdx (fun i c => if i = 3 then c else 0) }
    have same : t.ports[p] = { u.ports[p] with cmd := 2, link := low u.ports[p].link } := by
      rw [hr.ports]
      exact ((u.modLink e low).commanded_port p 2).trans (congrArg (fun y : Port => { y with cmd := 2 }) (u.modPort_same p _))
    have hx : ((u.modLink e low).commanded p 2).session r.ses = some x :=
      ((linkWork_flushOut (own := fun _ => True) s e).session r.ses).trans h.session_eq
    refine ⟨hr.answered rfl hx, ?_, ?_, ?_, ?_⟩
    · rw [same]
    · rw [same]
    · rw [same]; rfl
    · rw [same]
      intro f hf
      exact of_decide_eq_true (List.mem_filter.1 hf).2

/-- A port that wakes changes its link alone. -/
theorem State.wakeEnd_port (s : State) (p : PortIx) : ∃ f : Link → Link, s.wakeEnd (.port p) = s.modLink (.port p) f := by
  have idle : s = s.modLink (.port p) id := by
    have h : vupd s.ports p (fun y => { y with link := id y.link }) = s.ports := vupd_eq_self _ _ _ rfl
    exact (congrArg (fun v => { s with ports := v }) h).symm
  unfold State.wakeEnd
  dsimp only
  split
  · split
    · exact ⟨id, idle⟩
    · exact ⟨_, rfl⟩
  · exact ⟨_, rfl⟩
  · exact ⟨id, idle⟩

/-- A port that is enabled again is as new, and trained where it is used. -/
theorem State.wakeEnd_unused {s : State} {p : PortIx} (hl : s.ports[p].link.st = .unused) (hu : s.portUsed p = true)
    (hc : s.ports[p].cmd ≠ 1) :
    s.wakeEnd (.port p) = s.modPort p (fun y => { y with link := { y.link with st := .down, retryAt := s.now, failed := 0 } }) := by
  unfold State.wakeEnd
  dsimp only
  rw [show (s.link (.port p)).st = .unused from hl]
  dsimp only
  rw [if_neg (by rw [show s.endUsed (.port p) = true from hu]; decide)]
  simp only [decide_eq_false hc]
  rfl

theorem portReenable_acts (h : Fresh s r x) (hx : x.role = .operator) (p : PortIx) :
    ∃ t, exec (.portReenable r p) s = .next t
        ∧ (s.ports[p].link.st ≠ .disabled → Written (s.commanded p 3) r 0 t)
        ∧ (s.ports[p].link.st = .disabled → Answered t r 0x82 0 ∧ t.ports[p].cmd = 3 ∧ t.dies = s.dies
            ∧ (s.portsLive = true → s.portUsed p = true → t.ports[p].link.st = .down)
            ∧ (∀ m : PortIx, m ≠ p → t.ports[m] = s.ports[m])) := by
  obtain ⟨t, ht, hr⟩ := h.portCommand hx p 3
  let v := (s.commanded p 3).modLink (.port p) (fun _ => Link.init)
  have he : s.portCommand p 3 = (if (s.commanded p 3).ports[p].link.st = .disabled then
      (if v.portsLive then v.wakeEnd (.port p) else v) else s.commanded p 3, 0) := rfl
  rw [he, s.commanded_port] at hr
  refine ⟨t, ht, fun hl => ?_, fun hl => ?_⟩
  · exact hr.written (congrArg (·, 0) (if_neg hl))
  · rw [if_pos hl] at hr
    let w := if v.portsLive then v.wakeEnd (.port p) else v
    have shape : ∃ f : Link → Link, w = (s.commanded p 3).modLink (.port p) f := by
      obtain ⟨f, hf⟩ := v.wakeEnd_port p
      by_cases hv : v.portsLive = true
      · exact ⟨fun _ => f .init, (if_pos hv).trans (hf.trans ((s.commanded p 3).modPort_modPort p _ _))⟩
      · exact ⟨fun _ => .init, if_neg hv⟩
    obtain ⟨f, hf⟩ := shape
    have same : w.ports[p] = { s.ports[p] with cmd := 3, link := f s.ports[p].link } := by
      rw [hf]
      exact ((s.commanded p 3).modPort_same p _).trans (congrArg (fun y : Port => { y with link := f y.link }) (s.commanded_port p 3))
    refine ⟨hr.answered rfl (y := x) ?_, ?_, ?_, fun hl hu => ?_, fun m hm => ?_⟩
    · show w.session r.ses = some x
      rw [hf]
      exact h.session_eq
    · rw [hr.ports]
      exact congrArg (·.cmd) same
    · rw [hr.dies]
      show w.dies = s.dies
      rw [hf]
      rfl
    · have hv : v.ports[p] = { s.ports[p] with cmd := 3, link := .init } :=
        ((s.commanded p 3).modPort_same p _).trans (congrArg (fun y : Port => { y with link := .init }) (s.commanded_port p 3))
      have wakes := State.wakeEnd_unused (s := v) (p := p) (by rw [hv]; rfl) hu (by rw [hv]; show (3 : BitVec 8) ≠ 1; decide)
      rw [hr.ports]
      refine (congrArg (fun z : State => z.ports[p].link.st) ((if_pos hl : w = v.wakeEnd (.port p)).trans wakes)).trans ?_
      exact congrArg (·.link.st) (v.modPort_same p _)
    · rw [hr.ports]
      show w.ports[m] = s.ports[m]
      rw [hf]
      exact ((s.commanded p 3).modPort_other p m _ hm).trans (s.modPort_other p m _ hm)

/-- Settles O52: each entry's own checks and effect, read off the state and the status that its write leaves. -/
theorem routesAndPorts : Obligations.RoutesAndPorts := by
  unfold Obligations.RoutesAndPorts
  intro s r x d p image q b h hx
  exact ⟨routeImageWrite_acts h hx d image, routeSwapArm_acts h hx d q, passThroughWrite_acts h hx d b, portAutomatic_acts h hx p,
    portDisable_acts h hx p, portLowRate_acts h hx p, portReenable_acts h hx p⟩

end

end Sys2Proof.Machine

/-! # What the sequences of rails leave

A sequence of rails, and the steps with which a transition can begin, leave the sessions, what the module has been asked for, and a
die that a command has fenced. What they change besides is said where a statement needs it. -/

namespace Sys2Proof.Machine

/-- What the module has been asked for: the state asked for, the transition and the request for Off that waits, and its state. -/
def Power.asked (p : Power) : BitVec 8 × Option Trans × Bool × BitVec 8 := (p.request, p.trans, p.wantOff, p.state)

/-- A die stands fenced by command: it has no plan, its VCORE rail is off, and no sequence brings that up. -/
def FencedOff (d : DieIx) (s : State) : Prop :=
  s.dies[d].pow.fenced = true ∧ s.dies[d].pow.result = .fencedCmd ∧ s.dies[d].plan = none
    ∧ s.hub.power.rails[vcoreRail d].enabled = false ∧ ∀ l, s.hub.power.goal = .up l → vcoreRail d ∉ l

/-- From s to t rails have worked. A request for Off that waits may be taken up on the way. -/
structure RailWork (s t : State) : Prop where
  sessions : t.hub.dict.sessions = s.hub.dict.sessions
  asked : s.hub.power.wantOff = false → t.hub.power.asked = s.hub.power.asked
  fenced : ∀ d, FencedOff d s → FencedOff d t

section
variable {s t u : State}

theorem RailWork.refl (s : State) : RailWork s s := ⟨rfl, fun _ => rfl, fun _ h => h⟩

theorem Power.wantOff_of_asked {p q : Power} (h : q.asked = p.asked) : q.wantOff = p.wantOff := congrArg (·.2.2.1) h

theorem RailWork.wantOff (h : RailWork s t) (hs : s.hub.power.wantOff = false) : t.hub.power.wantOff = false :=
  (Power.wantOff_of_asked (h.asked hs)).trans hs

theorem RailWork.trans (h : RailWork s t) (g : RailWork t u) : RailWork s u where
  sessions := g.sessions.trans h.sessions
  asked := fun hs => (g.asked (h.wantOff hs)).trans (h.asked hs)
  fenced := fun d hd => g.fenced d (h.fenced d hd)

theorem RailWork.foldl {α : Type} {f : State → α → State} {l : List α} (h : ∀ s, ∀ a ∈ l, RailWork s (f s a)) (s : State) :
    RailWork s (l.foldl f s) := by
  induction l generalizing s with
  | nil => exact .refl s
  | cons a l ih =>
    rw [List.foldl_cons]
    exact (h s a List.mem_cons_self).trans (ih (fun s b hb => h s b (List.mem_cons_of_mem a hb)) _)

/-- Links that work while rails do. -/
theorem LinkWork.rail {own : PortIx → Prop} (h : LinkWork own s t) : RailWork s t where
  sessions := h.sessions
  asked := fun _ => by rw [h.power]
  fenced := fun d hd => by
    obtain ⟨hf, hr, hp, he, hg⟩ := hd
    obtain ⟨plan, pow, -⟩ := h.dies d
    exact ⟨by rw [pow, hf], by rw [pow, hr], by rw [plan, hp], by rw [h.power, he], by rw [h.power]; exact hg⟩

/-- A change of the hub die that keeps sessions, rails and goal. -/
theorem railWork_modHub (s : State) {f : Hub → Hub} (hs : (f s.hub).dict.sessions = s.hub.dict.sessions)
    (ha : s.hub.power.wantOff = false → (f s.hub).power.asked = s.hub.power.asked) (hr : (f s.hub).power.rails = s.hub.power.rails)
    (hg : (f s.hub).power.goal = s.hub.power.goal) : RailWork s (s.modHub f) where
  sessions := hs
  asked := ha
  fenced := fun d hd => by
    obtain ⟨h1, h2, h3, h4, h5⟩ := hd
    exact ⟨h1, h2, h3, (congrArg (fun v : Vector Rail 12 => v[vcoreRail d].enabled) hr).trans h4, fun l hl => h5 l (hg.symm.trans hl)⟩

/-- A change of the dies that keeps their power states and plans. -/
theorem railWork_dies (s : State) {ds : Vector Die 8} (h : ∀ d : DieIx, ds[d].pow = s.dies[d].pow ∧ ds[d].plan = s.dies[d].plan) :
    RailWork s { s with dies := ds } where
  sessions := rfl
  asked := fun _ => rfl
  fenced := fun d hd => by
    obtain ⟨h1, h2, h3, h4, h5⟩ := hd
    obtain ⟨pow, plan⟩ := h d
    exact ⟨(congrArg (·.fenced) pow).trans h1, (congrArg (·.result) pow).trans h2, plan.trans h3, h4, h5⟩

/-! ### Goals and rails -/

theorem railWork_goal (s : State) (g : RailGoal) (h : ∀ d l, FencedOff d s → g = .up l → vcoreRail d ∉ l) :
    RailWork s (s.modHub (fun h => { h with power := { h.power with goal := g } })) where
  sessions := rfl
  asked := fun _ => rfl
  fenced := fun d hd => by
    have hl := fun l => h d l hd
    obtain ⟨h1, h2, h3, h4, -⟩ := hd
    exact ⟨h1, h2, h3, h4, hl⟩

theorem railWork_modRail (s : State) (k : RailIx) {f : Rail → Rail}
    (h : ∀ d, FencedOff d s → k ≠ vcoreRail d ∨ ∀ r, (f r).enabled = false) : RailWork s (s.modRail k f) where
  sessions := rfl
  asked := fun _ => rfl
  fenced := fun d hd => by
    have hk := h d hd
    obtain ⟨h1, h2, h3, h4, h5⟩ := hd
    refine ⟨h1, h2, h3, ?_, h5⟩
    show (vupd s.hub.power.rails k f)[vcoreRail d].enabled = false
    rw [vupd_get]
    split
    · next e =>
      obtain hk | hk := hk
      · exact absurd e.symm hk
      · exact hk _
    · exact h4

theorem railWork_enableRail (s : State) (k : RailIx) (h : ∀ d, FencedOff d s → k ≠ vcoreRail d) : RailWork s (s.enableRail k) :=
  railWork_modRail s k (fun d hd => .inl (h d hd))

/-- Gating the clocks of a die leaves its power state and its plan. -/
theorem Die.setGate_kept (d : Die) (g : Bool) : (d.setGate g).pow = d.pow ∧ (d.setGate g).plan = d.plan := by
  unfold Die.setGate
  split
  · exact ⟨rfl, rfl⟩
  · have kept := Die.enqueue_only (Die.freshWindow { d with clock := { d.clock with gated := g }, frm := { d.frm with fallen := [] } })
      { sev := 2, unitk := 0x0A, unit := unitIx d.ix.val 0 0, rule := 361, bit := 0xFF, frame := some d.frm.fnum, onDie := true,
        time := d.clock.tc, cyc := d.evCycle, det := [] }
    have pow := congrArg Die.pow kept
    have plan := congrArg Die.plan kept
    exact ⟨pow, plan⟩

theorem Die.powerOff_fenced (keep : Bool) (d : Die) : (d.powerOff keep).pow.fenced = d.pow.fenced
    ∧ (d.powerOff keep).pow.result = d.pow.result ∧ (d.powerOff keep).plan = none := by
  have gate := (d.setGate_kept false).1
  exact ⟨congrArg (·.fenced) gate, congrArg (·.result) gate, rfl⟩

theorem railWork_powerOff (s : State) (n : DieIx) (keep : Die → Bool) : RailWork s (s.modDie n (fun d => d.powerOff (keep d))) where
  sessions := rfl
  asked := fun _ => rfl
  fenced := fun d hd => by
    by_cases e : d = n
    · subst e
      obtain ⟨h1, h2, h3, h4, h5⟩ := hd
      obtain ⟨g1, g2, g3⟩ := Die.powerOff_fenced (keep s.dies[d]) s.dies[d]
      have same := s.modDie_same d (fun d => d.powerOff (keep d))
      exact ⟨(congrArg (·.pow.fenced) same).trans (g1.trans h1), (congrArg (·.pow.result) same).trans (g2.trans h2),
        (congrArg (·.plan) same).trans g3, h4, h5⟩
    · have other := s.modDie_other n d (fun d => d.powerOff (keep d)) e
      obtain ⟨h1, h2, h3, h4, h5⟩ := hd
      exact ⟨(congrArg (·.pow.fenced) other).trans h1, (congrArg (·.pow.result) other).trans h2, (congrArg (·.plan) other).trans h3, h4, h5⟩

theorem railWork_dropDram (s : State) : RailWork s { s with dies := s.dies.map Die.dropDram } where
  sessions := rfl
  asked := fun _ => rfl
  fenced := fun d hd => by
    obtain ⟨h1, h2, h3, h4, h5⟩ := hd
    have same : (s.dies.map Die.dropDram)[d] = s.dies[d].dropDram := Vector.getElem_map ..
    have result : s.dies[d].dropDram.pow.result = .fencedCmd := by
      show (if s.dies[d].pow.result = .ready || s.dies[d].pow.result = .dramFailed then DieResult.notUp else s.dies[d].pow.result) = .fencedCmd
      rw [h2]
      rfl
    exact ⟨(congrArg (·.pow.fenced) same).trans h1, (congrArg (·.pow.result) same).trans result, (congrArg (·.plan) same).trans h3, h4, h5⟩

theorem railWork_dropLoop (s : State) (n : DieIx) : RailWork s (s.dropLoop n) := railWork_modHub s rfl (fun _ => rfl) rfl rfl

theorem linkWork_endsDown (s : State) (l : List LinkEnd) : LinkWork (fun _ => True) s (l.foldl (fun s e => s.endDown e 6) s) :=
  .foldl (fun s e _ => (linkWork_endDown s e 6).mono (fun _ _ => trivial)) s

theorem railWork_endsDown (s : State) (l : List LinkEnd) : RailWork s (l.foldl (fun s e => s.endDown e 6) s) := (linkWork_endsDown s l).rail

theorem railWork_portsDown (s : State) (l : List PortIx) : RailWork s (l.foldl (fun s p => s.endDown (.port p) 6) s) :=
  .foldl (fun s p _ => (linkWork_endDown s (.port p) 6).rail) s

theorem railWork_disableRail (s : State) (k : RailIx) : RailWork s (s.disableRail k) := by
  unfold State.disableRail
  dsimp only
  refine (railWork_modRail s k (f := fun r => { r with
    enabled := false, good := false, falling := r.enabled || r.falling, offAt := s.now, ocWarn := false }) (fun _ _ => .inr fun _ => rfl)).trans ?_
  split
  · next n hn =>
    exact (railWork_endsDown _ (diePkgs n)).trans ((railWork_dropLoop _ n).trans (railWork_powerOff _ n (fun d => d.pow.selfRef)))
  · split
    · exact railWork_dropDram _
    · exact railWork_portsDown _ allPorts

/-! ### Sequences -/

theorem State.nextUp_mem {s : State} {l : List RailIx} {k : RailIx} (h : s.nextUp l = some k) : k ∈ l := by
  unfold State.nextUp at h
  dsimp only at h
  split at h
  · cases h
  · next m _ e =>
    split at h
    · cases h
      exact List.mem_of_mem_drop (e ▸ List.mem_cons_self)
    · cases h

theorem State.trimGoal_up {s : State} {l : List RailIx} (h : s.trimGoal = .up l) : ∃ m, s.hub.power.goal = .up m ∧ l ⊆ m := by
  unfold State.trimGoal at h
  split at h
  · next m e =>
    cases h
    exact ⟨m, e, List.dropWhile_subset _⟩
  · cases h
  · next h1 _ =>
    exact absurd h (h1 _)

/-- The goal without the rails that need nothing more. -/
def State.trimmed (s : State) : State := s.modHub (fun h => { h with power := { h.power with goal := s.trimGoal } })

theorem railWork_trimmed (s : State) : RailWork s s.trimmed :=
  railWork_goal s s.trimGoal (fun d l hd hl hk => by
    obtain ⟨m, hm, hs⟩ := State.trimGoal_up hl
    obtain ⟨-, -, -, -, h5⟩ := hd
    exact h5 m hm (hs hk))

theorem railWork_railNext (s : State) : RailWork s s.railNext := by
  refine (railWork_trimmed s).trans ?_
  have disabled (u : State) (k : RailIx) : RailWork u (if (u.rail k).enabled then u.disableRail k else u) := by
    split
    · exact railWork_disableRail u k
    · exact .refl u
  show RailWork s.trimmed (match s.trimmed.hub.power.goal with
    | .up l => if s.trimmed.hub.board.pwrgd then (match s.trimmed.nextUp l with | some k => s.trimmed.enableRail k | none => s.trimmed) else s.trimmed
    | .down (k :: _) _ _ => if (s.trimmed.rail k).enabled then s.trimmed.disableRail k else s.trimmed
    | .board _ _ =>
      if s.trimmed.vcoreAlive then s.trimmed
      else match s.trimmed.railsUp with
        | k :: _ => if (s.trimmed.rail k).enabled then s.trimmed.disableRail k else s.trimmed
        | [] => s.trimmed
    | _ => s.trimmed)
  generalize s.trimmed = u
  cases hg : u.hub.power.goal with
  | hold => exact .refl u
  | up l =>
    dsimp only
    split
    · cases hn : u.nextUp l with
      | none => exact .refl u
      | some k =>
        refine railWork_enableRail u k (fun d hd e => ?_)
        obtain ⟨-, -, -, -, h5⟩ := hd
        exact h5 l hg (e ▸ State.nextUp_mem hn)
    · exact .refl u
  | down l e a =>
    cases l with
    | nil => exact .refl u
    | cons k l => exact disabled u k
  | board t a =>
    dsimp only
    split
    · exact .refl u
    · split
      · exact disabled u _
      · exact .refl u

/-- No rail of a list belongs to a fenced die. -/
def State.spares (s : State) (l : List RailIx) : Prop := ∀ d : DieIx, s.dies[d].pow.fenced = true → vcoreRail d ∉ l

theorem railWork_raiseRails (s : State) {l : List RailIx} (h : s.spares l) : RailWork s (s.raiseRails l) := by
  unfold State.raiseRails
  refine RailWork.trans ?_ (railWork_railNext _)
  refine railWork_goal s _ (fun d m hd hm hk => ?_)
  obtain ⟨h1, -⟩ := hd
  split at hm
  · cases hm
  · cases hm
    exact h d h1 (List.mem_of_mem_filter hk)

theorem railDie_vcoreRail (d : DieIx) : railDie (vcoreRail d) = some d := by
  revert d
  decide

/-- A list from which the rails of fenced dies are taken. -/
theorem State.spares_filter (s : State) (l : List RailIx) {f : RailIx → Bool}
    (h : ∀ d : DieIx, s.dies[d].pow.fenced = true → f (vcoreRail d) = false) : s.spares (l.filter f) := fun d hd hm => by
  have := (List.mem_filter.1 hm).2
  rw [h d hd] at this
  cases this

theorem State.spares_step4Rails (s : State) : s.spares s.step4Rails :=
  s.spares_filter _ (fun d hd => by rw [railDie_vcoreRail]; dsimp only; rw [hd, Bool.not_true, Bool.and_false])

theorem railWork_takeOff (s : State) (h : s.hub.power.wantOff = true) : RailWork s s.takeOff :=
  railWork_modHub s rfl (fun hs => by rw [h] at hs; cases hs) rfl rfl

theorem railWork_setStep (s : State) (k : BitVec 8) : RailWork s (s.setStep k) := by
  unfold State.setStep
  dsimp only
  refine RailWork.trans (railWork_modHub s (f := fun h => Hub.event { h with
    bring := { h.bring with step := k, stepAt := h.time.wall, late8 := h.bring.late8 && k ≠ 8 } } 2 0x0E 0 442 0xFF [])
    rfl (fun _ => rfl) rfl rfl) ?_
  split
  · next h => exact railWork_takeOff _ h
  · exact .refl _

theorem railWork_startRails (s : State) : RailWork s s.startRails := by
  unfold State.startRails
  split
  · exact railWork_goal s _ (fun _ _ _ h => nomatch h)
  · exact railWork_goal s _ (fun _ _ _ h => nomatch h)
  · refine (railWork_setStep s 4).trans ?_
    dsimp only
    split
    · exact .refl _
    · exact (railWork_modHub _ rfl (fun _ => rfl) rfl rfl).trans (railWork_raiseRails _ (State.spares_step4Rails _))

theorem railWork_hold (s : State) : RailWork s (s.modHub (fun h => { h with power := { h.power with goal := .hold } })) :=
  railWork_goal s .hold (fun _ _ _ h => nomatch h)

theorem railWork_railsEnd (s : State) : RailWork s s.railsEnd := by
  have again (u : State) (b : Bool) : RailWork u (if b then u.startRails else u) := by
    split
    · exact railWork_startRails u
    · exact .refl u
  unfold State.railsEnd
  dsimp only
  split
  · refine (railWork_hold s).trans ?_
    split
    · exact railWork_setStep _ 5
    · exact .refl _
  · refine (railWork_hold s).trans (RailWork.trans ?_ (again _ _))
    split
    · exact railWork_modHub _ rfl (fun _ => rfl) rfl rfl
    · exact .refl _
  · split
    · exact (railWork_hold s).trans (again _ _)
    · exact .refl s
  · exact .refl s

theorem railWork_railDone (s : State) : RailWork s s.railDone := (railWork_railNext s).trans (railWork_railsEnd _)

theorem railWork_lowerRails (s : State) (l : List RailIx) (lowerEn again : Bool) : RailWork s (s.lowerRails l lowerEn again) := by
  unfold State.lowerRails
  split
  · exact railWork_railDone s
  · exact (railWork_goal s (.down l lowerEn again) (by rintro _ _ _ ⟨⟩)).trans (railWork_railDone _)

theorem State.spares_leftRails (s : State) : s.spares s.leftRails := fun d hd hm => by
  unfold State.leftRails at hm
  split at hm
  · obtain ⟨n, hn, e⟩ := List.mem_map.1 hm
    have e' : n = d := by
      have := congrArg railDie e
      rwa [railDie_vcoreRail, railDie_vcoreRail, Option.some_inj] at this
    subst e'
    have := (List.mem_filter.1 hn).2
    rw [hd] at this
    cases this
  · cases hm

theorem railWork_raiseLeft (s : State) : RailWork s s.raiseLeft := by
  unfold State.raiseLeft
  split
  · exact railWork_raiseRails s s.spares_leftRails
  · exact .refl s

end

end Sys2Proof.Machine

/-! # Requests for a power state

What a transition begins with, and what a write of 0x2000.01 comes to in each state of the module. -/

namespace Sys2Proof.Machine

section
variable {s t u : State}

/-- The steps with which a transition can begin. -/
def TransStep.opens : TransStep → Bool
  | .commit | .quiesce | .gate | .ungate | .railsUp _ | .railsDown _ => true
  | _ => false

theorem State.stepsFor_opens (s : State) (src dst : BitVec 8) :
    ∃ k rest, s.stepsFor src dst = k :: rest ∧ k.opens = true ∧ (src = 1 ∨ src = 2 → 3 ≤ dst.toNat → rest ≠ []) := by
  unfold State.stepsFor
  extract_lets vs sleep wake idle
  split
  · next h =>
    subst h
    exact ⟨_, _, rfl, rfl, fun _ hd => absurd hd (by decide)⟩
  · split
    · next hs =>
      have no : ∀ p : Prop, src = 1 ∨ src = 2 → p := by
        rintro p (rfl | rfl) <;> exact absurd hs (by decide)
      split
      · exact ⟨_, _, rfl, rfl, fun h => no _ h⟩
      · split
        · exact ⟨_, _, rfl, rfl, fun h => no _ h⟩
        · split
          · exact ⟨_, _, rfl, rfl, fun h => no _ h⟩
          · exact ⟨_, _, rfl, rfl, fun h => no _ h⟩
    · split
      · split
        · next hd => exact ⟨_, _, rfl, rfl, fun _ h => absurd h (by rw [hd]; decide)⟩
        · exact ⟨_, _, rfl, rfl, fun _ _ => by simp [wake]⟩
      · exact ⟨_, _, rfl, rfl, fun _ _ => by simp [wake]⟩

/-! ### The first step of a transition -/

theorem railWork_closeHosts (s : State) : RailWork s s.closeHosts := railWork_modHub s rfl (fun _ => rfl) rfl rfl

theorem railWork_announceAs (s : State) (p : PortIx) (pst : BitVec 8) : RailWork s (s.announceAs p pst) := by
  unfold State.announceAs State.enqueueFlit
  exact ((linkWork_modPort s p _).trans (linkWork_modLink _ (.port p) _)).rail

theorem railWork_announceEach (s : State) (pst : BitVec 8) (l : List PortIx) :
    RailWork s (l.foldl (fun s p => if s.ports[p].link.st = .up then s.announceAs p pst else s) s) :=
  .foldl (fun s p _ => by split; exacts [railWork_announceAs s p pst, .refl s]) s

theorem railWork_announceAll (s : State) (pst : BitVec 8) : RailWork s (s.announceAll pst) := by
  unfold State.announceAll
  exact railWork_announceEach s pst allPorts

theorem railWork_quiesceBegin (s : State) : RailWork s s.quiesceBegin :=
  (railWork_modHub s rfl (fun _ => rfl) rfl rfl).trans ((railWork_announceAll _ _).trans (railWork_closeHosts _))

theorem railWork_gateDies (s : State) (g : Bool) : RailWork s (s.gateDies g) := by
  refine railWork_dies s (fun d => ?_)
  have e : (s.dies.map (fun d => if d.pow.vcoreOn && d.reached && !(g && d.frm.frun) then d.setGate g else d))[d]
      = if s.dies[d].pow.vcoreOn && s.dies[d].reached && !(g && s.dies[d].frm.frun) then s.dies[d].setGate g else s.dies[d] :=
    Vector.getElem_map ..
  rw [e]
  split
  · exact Die.setGate_kept _ g
  · exact ⟨rfl, rfl⟩

theorem railWork_beginStep (s : State) {k : TransStep} (h : k.opens = true) : RailWork s (s.beginStep k) := by
  cases k <;> cases h
  case quiesce => exact railWork_quiesceBegin s
  case railsDown l => exact railWork_lowerRails s l false false
  case railsUp l =>
    exact railWork_raiseRails s (s.spares_filter l (fun d hd => by rw [railDie_vcoreRail]; dsimp only; rw [hd]; rfl))
  case commit => exact .refl s
  case gate => exact .refl s
  case ungate => exact railWork_gateDies s false

theorem railWork_endStep (s : State) {k : TransStep} (h : k.opens = true) : RailWork s (s.endStep k) := by
  cases k <;> cases h
  case quiesce =>
    unfold State.endStep
    dsimp only
    split
    · exact .refl s
    · exact railWork_modHub s rfl (fun _ => rfl) rfl rfl
  all_goals exact .refl s

theorem railWork_attest (s : State) : RailWork s s.attest := by
  unfold State.attest
  split
  · exact railWork_modHub s rfl (fun _ => rfl) rfl rfl
  · exact .refl s

theorem railWork_setRemoval (s : State) (k : BitVec 8) : RailWork s (s.setRemoval k) := railWork_modHub s rfl (fun _ => rfl) rfl rfl

/-- A transition that has ended leaves the request as it is, and the module in its state. -/
theorem State.transEnd_works (s : State) (target : BitVec 8) :
    (s.transEnd target).hub.dict.sessions = s.hub.dict.sessions
      ∧ (s.transEnd target).hub.power.asked = (s.hub.power.request, none, false, target) := by
  unfold State.transEnd
  extract_lets s1 s2 s3 s4
  have h2 : RailWork s1 s2 := by
    by_cases h : (target = 0 && s1.hub.bring.step ≠ 10 && s1.hub.bring.step ≠ 3) = true
    · rw [show s2 = s1.setStep 3 from if_pos h]
      exact railWork_setStep s1 3
    · rw [show s2 = s1 from if_neg h]
      exact .refl s1
  have h3 : RailWork s2 s3 := by
    by_cases h : target.toNat ≤ 2
    · rw [show s3 = s2.closeHosts from if_pos h]
      exact railWork_closeHosts s2
    · rw [show s3 = s2 from if_neg h]
      exact .refl s2
  have h4 : RailWork s3 s4 := by
    by_cases h : (s3.hub.bring.removal = 3 && target = 0) = true
    · rw [show s4 = s3.setRemoval 4 from if_pos h]
      exact railWork_setRemoval s3 4
    · rw [show s4 = s3 from if_neg h]
      exact .refl s3
  have all := (((h2.trans h3).trans h4).trans (railWork_attest s4)).trans (railWork_raiseLeft _)
  exact ⟨all.sessions, all.asked rfl⟩

/-- What a transition whose first step has been taken up comes to: it goes on to its target, or it has got there. -/
def Underway (s : State) (x : Trans) (u : State) : Prop :=
  u.hub.dict.sessions = s.hub.dict.sessions ∧ u.hub.power.request = s.hub.power.request
    ∧ ((∃ y, u.hub.power.trans = some y ∧ y.target = x.target) ∨ (x.steps.length ≤ 1 ∧ u.hub.power.state = x.target))

theorem State.transNext_underway {x : Trans} {k : TransStep} {rest : List TransStep} (hx : x.steps = k :: rest)
    (hw : s.hub.power.wantOff = false) : Underway s x (s.transNext x rest) := by
  unfold State.transNext
  rw [if_neg (by rw [hw]; decide)]
  cases rest with
  | nil =>
    obtain ⟨hs, ha⟩ := s.transEnd_works x.target
    exact ⟨hs, congrArg (·.1) ha, .inr ⟨(congrArg List.length hx).le, congrArg (·.2.2.2) ha⟩⟩
  | cons j rest => exact ⟨rfl, rfl, .inl ⟨_, rfl, rfl⟩⟩

theorem Underway.of_work {x : Trans} (h : RailWork s t) (hw : s.hub.power.wantOff = false) (g : Underway t x u) : Underway s x u := by
  obtain ⟨hs, hr, ht⟩ := g
  exact ⟨hs.trans h.sessions, hr.trans (congrArg (·.1) (h.asked hw)), ht⟩

/-- The first step of a transition is taken up. -/
def State.begunTrans (s : State) (x : Trans) : State :=
  s.modHub (fun h => { h with power := { h.power with trans := some { x with begun := true, since := h.time.wall } } })

/-- A transition that is taken up runs its first step, and goes on where that has ended. -/
theorem State.transGo_fresh (s : State) (target : BitVec 8) (k : TransStep) (rest : List TransStep) (since : Nat) :
    let x : Trans := { target := target, steps := k :: rest, begun := false, since := since }
    s.transGo x =
      (let v := (s.begunTrans x).beginStep k
       let v := if k = .gate then v.gateDies true else v
       if v.stepDone ((v.hub.power.trans.map (·.since)).getD 0) k then (v.endStep k).transNext x rest else v) := rfl

theorem State.transGo_underway {x : Trans} {k : TransStep} {rest : List TransStep} (hx : x.steps = k :: rest)
    (hb : x.begun = false) (hk : k.opens = true) (hw : s.hub.power.wantOff = false) : Underway s x (s.transGo x) := by
  have same := s.transGo_fresh x.target k rest x.since
  rw [← hx, ← hb] at same
  dsimp only at same
  have hw1 : (s.begunTrans x).hub.power.wantOff = false := hw
  have gated (v : State) : RailWork v (if k = .gate then v.gateDies true else v) := by
    split
    · exact railWork_gateDies v true
    · exact .refl v
  rw [same]
  have works := (railWork_beginStep (s.begunTrans x) hk).trans (gated _)
  revert works
  generalize (if k = .gate then ((s.begunTrans x).beginStep k).gateDies true else (s.begunTrans x).beginStep k) = v
  intro works
  have first : ∀ w, Underway (s.begunTrans x) x w → Underway s x w := fun w h => h
  split
  · have hv := works.wantOff hw1
    have ends := railWork_endStep v hk
    exact first _ (.of_work works hw1 (.of_work ends hv (State.transNext_underway hx (ends.wantOff hv))))
  · exact first _ ⟨works.sessions, congrArg (·.1) (works.asked hw1),
      .inl ⟨{ x with begun := true, since := s.hub.time.wall }, congrArg (·.2.1) (works.asked hw1), rfl⟩⟩

/-- The transition that a request which differs from the state begins. -/
def State.newTrans (s : State) : Trans :=
  { target := s.hub.power.request, steps := s.stepsFor s.hub.power.state s.hub.power.request, begun := false }

theorem State.powerTransition_underway (ht : s.hub.power.trans = none) (hs : s.hub.bring.step = 10) (hp : s.hub.dict.statePending = false)
    (hr : s.hub.power.request ≠ s.hub.power.state) (hm : s.hub.bring.removal = 0) (hw : s.hub.power.wantOff = false) :
    Underway s s.newTrans s.powerTransition := by
  obtain ⟨k, rest, he, hk, -⟩ := s.stepsFor_opens s.hub.power.state s.hub.power.request
  have same : s.powerTransition
      = (s.modHub (fun h => { h with power := { h.power with trans := some s.newTrans } })).transGo s.newTrans := by
    unfold State.powerTransition
    dsimp only
    rw [ht]
    exact if_pos (by simp [hs, hp, hr, hm])
  rw [same]
  exact State.transGo_underway (s := s.modHub (fun h => { h with power := { h.power with trans := some s.newTrans } })) he rfl hk hw

/-- A request that is taken leaves itself where no transition runs. -/
theorem State.powerTransition_request (ht : s.hub.power.trans = none) (hw : s.hub.power.wantOff = false) :
    s.powerTransition.hub.dict.sessions = s.hub.dict.sessions ∧ s.powerTransition.hub.power.request = s.hub.power.request := by
  by_cases h : (s.hub.bring.step = 10 && !s.hub.dict.statePending && s.hub.power.request ≠ s.hub.power.state && s.hub.bring.removal = 0) = true
  · simp only [Bool.and_eq_true, decide_eq_true_iff, Bool.not_eq_true'] at h
    obtain ⟨⟨⟨hs, hp⟩, hr⟩, hm⟩ := h
    obtain ⟨h1, h2, -⟩ := State.powerTransition_underway ht hs hp hr hm hw
    exact ⟨h1, h2⟩
  · have same : s.powerTransition = s := by
      unfold State.powerTransition
      dsimp only
      rw [ht]
      exact if_neg h
    rw [same]
    exact ⟨rfl, rfl⟩

/-! ### What a value asks for -/

/-- The module takes requests: no removal runs, its firmware booted a slot, and its identity matches. -/
def State.takesRequests (s : State) : Prop := s.hub.bring.removal = 0 ∧ s.hub.bring.romOnly = false ∧ s.hub.sec.puffed = false

/-- The rest of `State.askFor`, for a legal value and a module that takes requests. -/
theorem State.askFor_legal {v : BitVec 8} (h : s.takesRequests) (hv : v.toNat ≤ 4) :
    s.askFor v =
      if s.anyPlan && v.toNat ≤ 2 then (s, 8)
      else if s.hub.power.trans.isSome || s.bringing then
        if v = 0 then (if s.goingOff then s else s.modHub (fun h => { h with power := { h.power with wantOff := true } }), 0) else (s, 8)
      else if s.hub.power.state = 0 then
        if v = 0 then (s.modHub (fun h => { h with power := { h.power with request := 0, goal := h.power.goal.then_ false } }), 0)
        else if 3 ≤ v.toNat && s.hub.board.refclk then (s.powerUp v, 0)
        else (s, 8)
      else if s.hub.power.state = 1 && v = 2 then (s, 8)
      else
        let s := s.modHub (fun h => { h with power := { h.power with request := v }, dict := { h.dict with statePending := s.anyPlan } })
        (if s.hub.dict.statePending then s else s.powerTransition, 0) := by
  obtain ⟨hm, hr, hp⟩ := h
  unfold State.askFor
  dsimp only
  rw [if_neg (Nat.not_lt.2 hv), if_neg (by rw [hm]; decide), if_neg (by rw [hr, hp]; decide), if_neg (by rw [hm]; decide)]

theorem State.askState_refused {v st : BitVec 8} (h : s.askFor v = (u, st)) (hs : st ≠ 0) : s.askState v = (s, st) := by
  unfold State.askState
  rw [h]
  exact if_neg hs

/-- A value that is taken is what 0x2000.01 reads. -/
theorem State.askState_taken {v : BitVec 8} (h : s.askFor v = (u, 0)) :
    s.askState v = (u.modHub (fun h => { h with power := { h.power with written := v } }), 0) := by
  unfold State.askState
  rw [h]
  rfl

/-- The module has settled in its state and the request asks for a change. -/
def State.asking (s : State) (v : BitVec 8) : State :=
  s.modHub (fun h => { h with power := { h.power with request := v }, dict := { h.dict with statePending := s.anyPlan } })

theorem State.askFor_settled {v : BitVec 8} (h : s.takesRequests) (hv : v.toNat ≤ 4) (ht : s.hub.power.trans = none)
    (hb : s.bringing = false) (h0 : s.hub.power.state ≠ 0) (hp : s.anyPlan = false ∨ 3 ≤ v.toNat)
    (hd : ¬(s.hub.power.state = 1 ∧ v = 2)) :
    s.askFor v = (if s.anyPlan then s.asking v else (s.asking v).powerTransition, 0) := by
  have hp' : (s.anyPlan && v.toNat ≤ 2) = false := by
    rw [Bool.and_eq_false_iff, decide_eq_false_iff_not]
    exact hp.imp id (fun h => by omega)
  rw [State.askFor_legal h hv, if_neg (by rw [hp']; decide), if_neg (by rw [ht, hb]; decide), if_neg h0, if_neg (by simpa using hd)]
  rfl

end

end Sys2Proof.Machine

/-! # The power state, and rails that come up (O51) -/

namespace Sys2Proof.Machine

section
variable {s t u : State} {r : Req} {x : Session}

/-! ### Rails that come up -/

/-- State s with other rails and another goal of their sequence. -/
def State.withRails (s : State) (rails : Vector Rail 12) (goal : RailGoal) : State :=
  s.modHub (fun h => { h with power := { h.power with rails := rails, goal := goal } })

/-- Where rails come up, or none move, the sequence of rails changes rails and goal alone. -/
theorem State.railNext_raising (h : (∃ l, s.hub.power.goal = .up l) ∨ s.hub.power.goal = .hold) :
    ∃ rails goal, s.railNext = s.withRails rails goal := by
  obtain ⟨l, h⟩ | h := h
  · have trim : s.trimGoal = .up (l.dropWhile (fun k => (s.rail k).good)) := by
      unfold State.trimGoal
      rw [h]
    unfold State.railNext
    rw [trim]
    dsimp only [State.modHub]
    split
    · split
      · exact ⟨_, _, rfl⟩
      · exact ⟨_, _, rfl⟩
    · exact ⟨_, _, rfl⟩
  · have trim : s.trimGoal = .hold := by
      unfold State.trimGoal
      rw [h]
    unfold State.railNext
    rw [trim]
    exact ⟨_, _, rfl⟩

theorem State.raiseRails_eq (s : State) (l : List RailIx) : ∃ rails goal, s.raiseRails l = s.withRails rails goal := by
  unfold State.raiseRails
  dsimp only
  have raising (g : RailGoal) (hg : (∃ l, g = .up l) ∨ g = .hold) :
      ∃ rails goal, (s.modHub (fun h => { h with power := { h.power with goal := g } })).railNext = s.withRails rails goal := by
    obtain ⟨rails, goal, e⟩ := State.railNext_raising (s := s.modHub (fun h => { h with power := { h.power with goal := g } })) hg
    exact ⟨rails, goal, e⟩
  refine raising _ ?_
  split
  · exact .inr rfl
  · exact .inl ⟨_, rfl⟩

theorem State.raiseLeft_eq (s : State) : ∃ rails goal, s.raiseLeft = s.withRails rails goal := by
  unfold State.raiseLeft
  split
  · exact s.raiseRails_eq _
  · exact ⟨s.hub.power.rails, s.hub.power.goal, rfl⟩

/-- Step 4 begins at once where no rail moves and no request for Off waits. -/
theorem State.powerUp_works (v : BitVec 8) (ht : s.hub.power.trans = none) (hw : s.hub.power.wantOff = false)
    (hg : s.hub.power.goal = .hold) :
    (s.powerUp v).hub.dict.sessions = s.hub.dict.sessions ∧ (s.powerUp v).hub.power.request = v ∧ (s.powerUp v).hub.bring.step = 4
      ∧ (s.powerUp v).hub.board.pwrEn = true := by
  let s1 := s.modHub (fun h => { h with power := { h.power with request := v, railTries := 0, skipRails := [] } })
  let s2 := s1.setStep 4
  let s3 := s2.modHub (fun h => { h with board := { h.board with pwrEn := true }, bring := { h.bring with standbyOnly := false } })
  have h2 : s2 = s1.modHub (fun h => Hub.event { h with
      bring := { h.bring with step := 4, stepAt := h.time.wall, late8 := h.bring.late8 && (4 : BitVec 8) ≠ 8 } } 2 0x0E 0 442 0xFF []) := by
    refine if_neg ?_
    show ¬s.hub.power.wantOff = true
    rw [hw]
    decide
  have same : s.powerUp v = s3.raiseRails s3.step4Rails := by
    have hg1 : s1.hub.power.goal = .hold := hg
    have off : s2.goingOff = false := by
      rw [h2]
      show (match s.hub.power.trans with | some t => decide (t.target = 0) | none => false) = false
      rw [ht]
    show s1.startRails = _
    unfold State.startRails
    rw [hg1]
    exact if_neg (by rw [show (s1.setStep 4).goingOff = false from off]; decide)
  obtain ⟨rails, goal, e⟩ := s3.raiseRails_eq s3.step4Rails
  rw [same, e]
  show s2.hub.dict.sessions = _ ∧ s2.hub.power.request = _ ∧ s2.hub.bring.step = _ ∧ _
  rw [h2]
  exact ⟨rfl, rfl, rfl, rfl⟩

/-! ### The power state (R361, R444 to R446, R448) -/

theorem State.bringing_trans (h : s.bringing = true) : s.hub.power.trans = none := by
  unfold State.bringing at h
  rw [Bool.and_eq_true] at h
  exact Option.isNone_iff_eq_none.1 h.2

/-- A value that is taken is answered, and what the statement reads is that of the state which it asks for. -/
theorem Responds.asks {b : BitVec 8} (hr : Responds r (s.askState b) t) (hx : s.session r.ses = some x) (he : s.askFor b = (u, 0))
    (hs : u.hub.dict.sessions = s.hub.dict.sessions) :
    Answered t r 0x82 0 ∧ t.hub.power = { u.hub.power with written := b } ∧ t.hub.bring = u.hub.bring ∧ t.hub.board = u.hub.board := by
  rw [State.askState_taken he] at hr
  refine ⟨hr.answered rfl (y := x) ?_, hr.power, hr.bring, hr.board⟩
  show List.find? _ u.hub.dict.sessions = some x
  rw [hs]
  exact hx

theorem Responds.askRefused {b st : BitVec 8} (hr : Responds r (s.askState b) t) (hst : st ≠ 0) (he : s.askFor b = (s, st)) :
    Written s r st t := hr.written (State.askState_refused he hst)

section
variable {b : BitVec 8} (hr : Responds r (s.askState b) t) (hx : s.session r.ses = some x) (takes : s.takesRequests) (hb : b.toNat ≤ 4)

section
variable (htr : s.hub.power.trans = none) (hbr : s.bringing = false) (hp : s.anyPlan = false) (hw : s.hub.power.wantOff = false)
include takes hb htr hbr hp

/-- Without a plan a settled module that is not in Off takes the request up at once. -/
theorem State.askFor_noPlan (h0 : s.hub.power.state ≠ 0) (hd : ¬(s.hub.power.state = 1 ∧ b = 2)) :
    s.askFor b = ((s.asking b).powerTransition, 0) := by
  rw [State.askFor_settled takes hb htr hbr h0 (.inl hp) hd, if_neg (by rw [hp]; decide)]

include hr hx hw

theorem Responds.asks_inRun (h3 : 3 ≤ s.hub.power.state.toNat) :
    Answered t r 0x82 0 ∧ t.hub.power.request = b ∧ t.hub.power.written = b := by
  have h0 : s.hub.power.state ≠ 0 := fun e => absurd h3 (by rw [e]; decide)
  have h1 : s.hub.power.state ≠ 1 := fun e => absurd h3 (by rw [e]; decide)
  obtain ⟨hs, hq⟩ := State.powerTransition_request (s := s.asking b) htr hw
  obtain ⟨ha, hpw, -⟩ := hr.asks hx (State.askFor_noPlan takes hb htr hbr hp h0 (fun e => h1 e.1)) hs
  exact ⟨ha, by rw [hpw]; exact hq, by rw [hpw]⟩

/-- Doze and Deep are left in more than one step. -/
theorem Responds.asks_wake (hst : s.hub.power.state = 1 ∨ s.hub.power.state = 2) (hstep : s.hub.bring.step = 10) (h3 : 3 ≤ b.toNat) :
    Answered t r 0x82 0 ∧ t.hub.power.request = b ∧ t.hub.power.written = b ∧ ∃ y, t.hub.power.trans = some y ∧ y.target = b := by
  have h0 : s.hub.power.state ≠ 0 := by obtain e | e := hst <;> rw [e] <;> decide
  have hb2 : b ≠ 2 := by rintro rfl; exact absurd h3 (by decide)
  have hne : b ≠ s.hub.power.state := by
    rintro rfl
    obtain e | e := hst <;> exact absurd h3 (by rw [e]; decide)
  have ⟨hm, _⟩ := takes
  obtain ⟨hs, hq, hy⟩ := State.powerTransition_underway (s := s.asking b) htr hstep hp hne hm hw
  obtain ⟨ha, hpw, -⟩ := hr.asks hx (State.askFor_noPlan takes hb htr hbr hp h0 (fun e => hb2 e.2)) hs
  obtain ⟨k, rest, he, -, hl⟩ := (s.asking b).stepsFor_opens s.hub.power.state b
  refine ⟨ha, by rw [hpw]; exact hq, by rw [hpw], ?_⟩
  obtain ⟨y, hy, htg⟩ | ⟨hlen, -⟩ := hy
  · exact ⟨y, by rw [hpw]; exact hy, htg⟩
  · have hlen' : (k :: rest).length ≤ 1 := (congrArg List.length he).ge.trans hlen
    exact absurd (List.length_eq_zero_iff.1 (by simpa using hlen')) (hl hst h3)

theorem Responds.asks_deepen (h2 : s.hub.power.state = 2) (hstep : s.hub.bring.step = 10) (h1 : b = 1) :
    Answered t r 0x82 0 ∧ t.hub.power.written = 1 ∧ (t.hub.power.state = 1 ∨ ∃ y, t.hub.power.trans = some y ∧ y.target = 1) := by
  subst h1
  have h0 : s.hub.power.state ≠ 0 := by rw [h2]; decide
  have hne : (1 : BitVec 8) ≠ s.hub.power.state := by rw [h2]; decide
  have ⟨hm, _⟩ := takes
  obtain ⟨hs, -, hy⟩ := State.powerTransition_underway (s := s.asking 1) htr hstep hp hne hm hw
  obtain ⟨ha, hpw, -⟩ := hr.asks hx (State.askFor_noPlan takes hb htr hbr hp h0 (fun e => absurd e.2 (by decide))) hs
  refine ⟨ha, by rw [hpw], ?_⟩
  rw [hpw]
  obtain hy | ⟨-, hst⟩ := hy
  · exact .inr hy
  · exact .inl hst

end

include hr hx takes hb

/-- In Off steps 4 to 9 begin, where REFCLK is there (R446, R470). -/
theorem Responds.asks_comeUp (htr : s.hub.power.trans = none) (hbr : s.bringing = false) (h0 : s.hub.power.state = 0) (h3 : 3 ≤ b.toNat)
    (hck : s.hub.board.refclk = true) (hw : s.hub.power.wantOff = false) (hg : s.hub.power.goal = .hold) :
    Answered t r 0x82 0 ∧ t.hub.power.request = b ∧ t.hub.power.written = b ∧ t.hub.bring.step = 4 ∧ t.hub.board.pwrEn = true := by
  have he : s.askFor b = (s.powerUp b, 0) := by
    rw [State.askFor_legal takes hb, if_neg (by simp; omega), if_neg (by rw [htr, hbr]; decide), if_pos h0,
      if_neg (by rintro rfl; exact absurd h3 (by decide)), if_pos (by rw [hck]; simpa using h3)]
  obtain ⟨hs, hq, hstep, hen⟩ := State.powerUp_works b htr hw hg
  obtain ⟨ha, hpw, hbg, hbd⟩ := hr.asks hx he hs
  exact ⟨ha, by rw [hpw]; exact hq, by rw [hpw], by rw [hbg]; exact hstep, by rw [hbd]; exact hen⟩

omit hx

theorem Responds.asks_withPlans (hp : s.anyPlan = true) (h2 : b.toNat ≤ 2) : Written s r 8 t := by
  refine hr.askRefused (by decide) ?_
  rw [State.askFor_legal takes hb, if_pos (by simp [hp, h2])]

/-- During bring-up Off alone is taken, and waits (R448). -/
theorem Responds.asks_bringing (hbr : s.bringing = true) :
    (b = 0 → s.anyPlan = false → Written { s with hub := { s.hub with power := { s.hub.power with wantOff := true, written := 0 } } } r 0 t)
      ∧ (b ≠ 0 → Written s r 8 t) := by
  have busy : (s.hub.power.trans.isSome || s.bringing) = true := by rw [hbr, Bool.or_true]
  refine ⟨fun h0 hp => ?_, fun h0 => hr.askRefused (by decide) ?_⟩
  · subst h0
    have off : s.goingOff = false := by
      unfold State.goingOff
      rw [State.bringing_trans hbr]
    have he : s.askFor 0 = (s.modHub (fun h => { h with power := { h.power with wantOff := true } }), 0) := by
      rw [State.askFor_legal takes (by decide), if_neg (by rw [hp]; decide), if_pos busy, if_pos rfl, if_neg (by rw [off]; decide)]
    exact hr.written (State.askState_taken he)
  · rw [State.askFor_legal takes hb, if_pos busy, if_neg h0, ite_self]

end

/-- The operator's request for a power state, in each state of the module. -/
theorem powerStateRequest_acts (h : Fresh s r x) (hx : x.role = .operator) (b : BitVec 8) :
    let h := s.hub
    let settled := h.power.trans = none ∧ s.bringing = false ∧ h.bring.romOnly = false ∧ h.sec.puffed = false
    ∃ t, exec (.powerStateRequest r b) s = .next t
        ∧ (4 < b.toNat → Written s r 7 t)
        ∧ (h.bring.removal = 0 → settled → b.toNat ≤ 4 →
            (b.toNat ≤ 2 → s.anyPlan = true → Written s r 8 t)
            ∧ (3 ≤ b.toNat → s.anyPlan = true → h.power.state ≠ 0 →
                Written { s with hub := { h with power := { h.power with request := b, written := b }, dict := { h.dict with statePending := true } } } r 0 t)
            ∧ (s.anyPlan = false → 3 ≤ h.power.state.toNat → h.power.wantOff = false →
                Answered t r 0x82 0 ∧ t.hub.power.request = b ∧ t.hub.power.written = b)
            ∧ (s.anyPlan = false → h.power.state = 1 ∨ h.power.state = 2 → h.bring.step = 10 → h.power.wantOff = false →
                (3 ≤ b.toNat → Answered t r 0x82 0 ∧ t.hub.power.request = b ∧ t.hub.power.written = b
                  ∧ ∃ y, t.hub.power.trans = some y ∧ y.target = b)
                ∧ (h.power.state = 2 → b = 1 → Answered t r 0x82 0 ∧ t.hub.power.written = 1
                  ∧ (t.hub.power.state = 1 ∨ ∃ y, t.hub.power.trans = some y ∧ y.target = 1))
                ∧ (h.power.state = 1 → b = 2 → Written s r 8 t))
            ∧ (h.power.state = 0 → 3 ≤ b.toNat → h.board.refclk = true → h.power.wantOff = false → h.power.goal = .hold →
                Answered t r 0x82 0 ∧ t.hub.power.request = b ∧ t.hub.power.written = b ∧ t.hub.bring.step = 4 ∧ t.hub.board.pwrEn = true))
        ∧ (h.bring.removal = 0 → h.bring.romOnly = false → h.sec.puffed = false → s.bringing = true →
            (b = 0 → s.anyPlan = false → Written { s with hub := { h with power := { h.power with wantOff := true, written := 0 } } } r 0 t)
            ∧ (b = 0 → s.anyPlan = true → Written s r 8 t)
            ∧ (b ≠ 0 → Written s r (if 4 < b.toNat then 7 else 8) t)) := by
  intro hub settled
  obtain ⟨t, ht, hr⟩ := h.put_responds 0x2000 1 [b]
  rw [State.writeEntry_ofKind (by rw [hx]; decide) rfl rfl rfl rfl] at hr
  replace hr : Responds r (s.askState b) t := hr
  have hses := h.session_eq
  refine ⟨t, ht, fun hb => hr.askRefused (by decide) (if_pos hb), fun hrem hset hb => ?_, fun hrem hrom hpuf hbr => ?_⟩
  · obtain ⟨htr, hbr, hrom, hpuf⟩ := hset
    have takes : s.takesRequests := ⟨hrem, hrom, hpuf⟩
    refine ⟨fun h2 hp => hr.asks_withPlans takes hb hp h2, fun h3 hp h0 => ?_,
      fun hp h3 hw => hr.asks_inRun hses takes hb htr hbr hp hw h3, fun hp hst hstep hw => ⟨fun h3 =>
        hr.asks_wake hses takes hb htr hbr hp hw hst hstep h3, fun h2 h1 => hr.asks_deepen hses takes hb htr hbr hp hw h2 hstep h1,
        fun h1 h2 => ?_⟩,
      fun h0 h3 hck hw hg => hr.asks_comeUp hses takes hb htr hbr h0 h3 hck hw hg⟩
    · have he := State.askFor_settled takes hb htr hbr h0 (.inr h3) (by rintro ⟨-, rfl⟩; exact absurd h3 (by decide))
      rw [hp, if_pos rfl] at he
      refine hr.written ((State.askState_taken he).trans ?_)
      rw [State.asking, hp]
      rfl
    · refine hr.askRefused (by decide) ?_
      have hs1 : s.hub.power.state = 1 := h1
      rw [State.askFor_legal takes hb, if_neg (by rw [hp, Bool.false_and]; decide), if_neg (by rw [htr, hbr]; decide), if_neg (by rw [hs1]; decide),
        if_pos (by rw [hs1, h2]; decide)]
  · have takes : s.takesRequests := ⟨hrem, hrom, hpuf⟩
    refine ⟨fun h0 hp => (hr.asks_bringing takes (by rw [h0]; decide) hbr).1 h0 hp, fun h0 hp =>
      hr.asks_withPlans takes (by rw [h0]; decide) hp (by rw [h0]; decide), fun h0 => ?_⟩
    split
    · next hbad => exact hr.askRefused (by decide) (if_pos hbad)
    · next hok => exact (hr.asks_bringing takes (Nat.not_lt.1 hok) hbr).2 h0

end

end Sys2Proof.Machine

/-! # The power cap, the frame period, and the fence of a die (O51) -/

namespace Sys2Proof.Machine

section
variable {s t u : State} {r : Req} {x : Session}

/-! ### The power cap and the frame period (R204, R308, R365) -/

theorem powerCapWrite_acts (h : Fresh s r x) (hx : x.role = .operator) (v : U32) :
    ∃ t, exec (.powerCapWrite r v) s = .next t
        ∧ (800 ≤ v.toNat → v.toNat ≤ 3400 → Written { s with hub := { s.hub with power := { s.hub.power with cap := v } } } r 0 t)
        ∧ (v.toNat < 800 ∨ 3400 < v.toNat → Written s r 7 t) := by
  obtain ⟨t, ht, hr⟩ := h.put_responds 0x2010 1 (leBytes 4 v.toNat)
  have he : s.effect x 0x2010 1 (leBytes 4 v.toNat) noPlan noStandby = s.writeCap v := by
    conv_rhs => rw [← ofNat_leNat_leBytes 4 v]
    rfl
  rw [State.writeEntry_ofKind (by rw [hx]; decide) rfl (by simp [fits, typeBytes, kU32]) rfl rfl, he] at hr
  refine ⟨t, ht, fun hl hu => hr.written (if_pos (by simp [hl, hu])), fun hb => hr.written (if_neg ?_)⟩
  rw [Bool.and_eq_true, decide_eq_true_iff, decide_eq_true_iff]
  omega

/-- A period fits where it fits the plan of each die that has one. -/
theorem State.periodFits_iff (s : State) (n : Nat) :
    s.periodFits n = true ↔ ∀ (m : DieIx) (p : Loaded), s.dies[m].plan = some p → budgetOk p.frameLen p.allow p.theta n = true := by
  rw [State.periodFits_eq, List.all_eq_true]
  have plan (m : DieIx) : s.holdings.plans[m] = s.dies[m].plan := Vector.getElem_map ..
  constructor
  · intro h m p hp
    have := h s.holdings.plans[m] (Vector.mem_toList_iff.2 (Vector.getElem_mem _))
    rw [plan, hp] at this
    exact this
  · intro h o ho
    obtain ⟨i, hi, rfl⟩ := Vector.getElem_of_mem (Vector.mem_toList_iff.1 ho)
    show planFits n s.holdings.plans[(⟨i, hi⟩ : DieIx)] = true
    rw [plan ⟨i, hi⟩]
    cases hp : s.dies[(⟨i, hi⟩ : DieIx)].plan with
    | none => rfl
    | some p => exact h ⟨i, hi⟩ p hp

theorem framePeriodWrite_acts (h : Fresh s r x) (hx : x.role = .operator) (v : U32) :
    ∃ t, exec (.framePeriodWrite r v) s = .next t
        ∧ (v.toNat < 250 ∨ 65000 < v.toNat → Written s r 7 t)
        ∧ (250 ≤ v.toNat → v.toNat ≤ 65000 →
            ((∀ (m : DieIx) (p : Loaded), s.dies[m].plan = some p →
                p.theta ≤ 500 ∧ p.frameLen + p.allow ≤ 846 * v.toNat * (1000 - p.theta) / 1000) →
              Written { s with hub := { s.hub with time := { s.hub.time with period := v } } } r 0 t)
            ∧ (∀ (m : DieIx) (p : Loaded), s.dies[m].plan = some p → 846 * v.toNat * (1000 - p.theta) / 1000 < p.frameLen + p.allow →
                Written s r 9 t)) := by
  obtain ⟨t, ht, hr⟩ := h.put_responds 0x4100 1 (leBytes 4 v.toNat)
  have he : s.effect x 0x4100 1 (leBytes 4 v.toNat) noPlan noStandby = s.writePeriod v := by
    have may : s.tenantMay x (List.finRange 8) = true := by rw [State.tenantMay, hx]; rfl
    conv_rhs => rw [← ofNat_leNat_leBytes 4 v]
    exact if_pos may
  rw [State.writeEntry_ofKind (by rw [hx]; decide) rfl (by simp [fits, typeBytes, kU32]) rfl rfl, he] at hr
  refine ⟨t, ht, fun hb => hr.written (if_pos (by simpa using hb)), fun hl hu => ?_⟩
  have range : ¬(v.toNat < 250 || 65000 < v.toNat) = true := by simpa using ⟨hl, hu⟩
  refine ⟨fun hp => hr.written ?_, fun m p hm hp => hr.written ?_⟩
  · have fits : s.periodFits v.toNat = true := (s.periodFits_iff _).2 (fun m p hm => by simpa [budgetOk] using hp m p hm)
    rw [State.writePeriod, if_neg range, if_neg (by rw [fits]; decide)]
    rfl
  · have misfit : s.periodFits v.toNat = false := by
      rw [← Bool.not_eq_true, State.periodFits_iff]
      intro all
      have := all m p hm
      rw [budgetOk, Bool.and_eq_true, decide_eq_true_iff, decide_eq_true_iff] at this
      omega
    rw [State.writePeriod, if_neg range, if_pos (by rw [misfit]; rfl)]

/-! ### Fence and release (R368) -/

theorem dieCommand_entry (d : DieIx) : mayWrite .operator 0x2020 (d.val + 1) = 0 ∧ kindOf 0x2020 (d.val + 1) = some (kU8 .admin)
    ∧ laneDie 0x2020 (d.val + 1) = none := by
  revert d
  decide

theorem Fresh.dieCommand (h : Fresh s r x) (hx : x.role = .operator) (d : DieIx) (b : BitVec 8) :
    ∃ t, s.put r 0x2020 (d.val + 1) [b] = .next t ∧ Responds r (s.dieCommand d b) t := by
  obtain ⟨t, ht, hr⟩ := h.put_responds 0x2020 (d.val + 1) [b]
  obtain ⟨hm, hk, hl⟩ := dieCommand_entry d
  have he : s.effect x 0x2020 (d.val + 1) [b] noPlan noStandby = s.dieCommand d b := by
    conv_rhs => rw [← dieOf_succ d]
    rfl
  rw [State.writeEntry_ofKind (by rw [hx]; exact hm) hk rfl rfl hl, he] at hr
  exact ⟨t, ht, hr⟩

/-- A VCORE rail that is disabled is off, and its die has no plan. -/
theorem State.disableRail_core (s : State) (d : DieIx) :
    (s.disableRail (vcoreRail d)).hub.power.rails[vcoreRail d].enabled = false ∧ (s.disableRail (vcoreRail d)).dies[d].plan = none := by
  unfold State.disableRail
  extract_lets s1
  rw [railDie_vcoreRail]
  dsimp only
  have works := linkWork_endsDown s1 (diePkgs d)
  generalize (diePkgs d).foldl (fun s e => s.endDown e 6) s1 = w at works
  constructor
  · show w.hub.power.rails[vcoreRail d].enabled = false
    rw [works.power]
    exact congrArg Rail.enabled (vupd_get_same s.hub.power.rails (vcoreRail d) _ _)
  · exact congrArg Die.plan ((w.dropLoop d).modDie_same d _)

theorem RailGoal.notMem_without {g : RailGoal} {k : RailIx} {l : List RailIx} (h : g.without k = .up l) : k ∉ l := by
  cases g with
  | up m =>
    cases h
    exact fun hk => absurd rfl (of_decide_eq_true (List.mem_filter.1 hk).2)
  | hold => cases h
  | down => cases h
  | board => cases h

/-- A die that is fenced. -/
def Die.fencedAs (res : DieResult) (d : Die) : Die :=
  { d with cores := d.cores.map (fun k => { k with vault := k.vault.off false }),
           pow := { d.pow with fenced := true, result := res, trained := false, selfRef := false } }

theorem State.fence_works (s : State) (d : DieIx) (h : s.dies[d].pow.fenced = false) :
    FencedOff d (s.fence d .fencedCmd) ∧ (s.fence d .fencedCmd).hub.dict.sessions = s.hub.dict.sessions := by
  unfold State.fence
  rw [if_neg (by rw [h]; decide)]
  extract_lets s1 s2 s3 s4 s5
  have h2 : RailWork s1 s2 := railWork_endsDown s1 (dieEnds d)
  obtain ⟨off, plan⟩ := s2.disableRail_core d
  have h4 : s4.dies[d] = s3.dies[d].fencedAs .fencedCmd := s3.modDie_same d _
  have only := Hub.mrgFault_only { s4.hub with power := { s4.hub.power with goal := s4.hub.power.goal.without (vcoreRail d) } }
    dieFenced (unitIx d.val 0 0) none
  have h5 : s5.hub.power = { s4.hub.power with goal := s4.hub.power.goal.without (vcoreRail d) } := by
    have := congrArg Hub.power only
    exact this
  have h5' : s5.hub.dict = s4.hub.dict := by
    have := congrArg Hub.dict only
    exact this
  have done := railWork_railDone s5
  refine ⟨done.fenced d ⟨?_, ?_, ?_, ?_, fun l hl hk => ?_⟩, ?_⟩
  · show s4.dies[d].pow.fenced = true
    rw [h4]; rfl
  · show s4.dies[d].pow.result = .fencedCmd
    rw [h4]; rfl
  · show s4.dies[d].plan = none
    rw [h4]; exact plan
  · rw [h5]; exact off
  · rw [h5] at hl
    exact RailGoal.notMem_without hl hk
  · calc s5.railDone.hub.dict.sessions = s5.hub.dict.sessions := done.sessions
      _ = s4.hub.dict.sessions := by rw [h5']
      _ = s2.hub.dict.sessions := (railWork_disableRail s2 (vcoreRail d)).sessions
      _ = s1.hub.dict.sessions := h2.sessions

theorem dieFence_acts (h : Fresh s r x) (hx : x.role = .operator) (d : DieIx) :
    ∃ t, exec (.dieFence r d) s = .next t
        ∧ (s.dies[d].pow.fenced = false → Answered t r 0x82 0 ∧ t.dies[d].pow.fenced = true
            ∧ t.dies[d].pow.result = .fencedCmd ∧ t.dies[d].plan = none ∧ t.hub.power.rails[vcoreRail d].enabled = false)
        ∧ (s.dies[d].pow.fenced = true → Written s r 0 t) := by
  obtain ⟨t, ht, hr⟩ := h.dieCommand hx d 1
  have he : s.dieCommand d 1 = (s.fence d .fencedCmd, 0) := rfl
  rw [he] at hr
  refine ⟨t, ht, fun hf => ?_, fun hf => hr.written (congrArg (·, 0) (if_pos hf))⟩
  obtain ⟨⟨h1, h2, h3, h4, -⟩, hs⟩ := s.fence_works d hf
  have ses : (s.fence d .fencedCmd).session r.ses = some x := by
    rw [State.session, hs]
    exact h.session_eq
  rw [hr.dies, hr.power]
  exact ⟨hr.answered rfl ses, h1, h2, h3, h4⟩

end

end Sys2Proof.Machine

/-! # Release, removal and admission (O51) -/

namespace Sys2Proof.Machine

section
variable {s t u : State} {r : Req} {x : Session}

/-- A die that is no longer fenced. -/
def Die.released (d : Die) : Die := { d with pow := { d.pow with fenced := false, result := .notUp } }

/-- The state when a die is released, before its rail comes up. -/
def State.unfenced (s : State) (d : DieIx) : State :=
  (s.modDie d Die.released).modHub (fun h => { h with power := { h.power with skipRails := h.power.skipRails.filter (· ≠ vcoreRail d) } })

/-- A release changes the die, and of the hub die what governs the rails. -/
theorem State.release_eq {d : DieIx} (h : s.dies[d].pow.fenced = true) :
    ∃ power, s.release d = (s.modDie d Die.released).modHub (fun h => { h with power := power }) := by
  unfold State.release
  rw [if_pos h]
  dsimp only
  split
  · split
    · exact ⟨_, rfl⟩
    · exact ⟨_, rfl⟩
  · obtain ⟨rails, goal, e⟩ := (s.unfenced d).raiseLeft_eq
    exact ⟨_, e⟩

theorem State.release_holding {d : DieIx} (h : s.dies[d].pow.fenced = true) (hg : s.hub.power.goal = .hold) :
    s.release d = (s.unfenced d).raiseLeft := by
  unfold State.release
  rw [if_pos h]
  dsimp only
  split
  · next l hl => exact nomatch hg.symm.trans hl
  · rfl

/-- A VCORE rail that comes up alone is enabled at once where the others are far enough behind. -/
theorem State.raiseRails_one {d : DieIx} (hg : (s.rail (vcoreRail d)).good = false) (he : (s.rail (vcoreRail d)).enabled = false)
    (hp : s.hub.board.pwrgd = true) (hv : s.vcorePaced = true) :
    s.raiseRails [vcoreRail d] = (s.modHub (fun h => { h with power := { h.power with goal := .up [vcoreRail d] } })).enableRail (vcoreRail d) := by
  let s1 := s.modHub (fun h => { h with power := { h.power with goal := .up [vcoreRail d] } })
  have todo : [vcoreRail d].filter (fun k => !(s.rail k).good) = [vcoreRail d] := by simp [hg]
  have trim : s1.trimGoal = .up [vcoreRail d] := by
    show RailGoal.up ([vcoreRail d].dropWhile (fun k => (s.rail k).good)) = _
    simp [hg]
  have next : s1.nextUp [vcoreRail d] = some (vcoreRail d) := by
    have before : [vcoreRail d].takeWhile (fun k => (s1.rail k).enabled) = [] := by
      simp [show (s1.rail (vcoreRail d)).enabled = false from he]
    unfold State.nextUp
    rw [before]
    exact if_pos (by rw [show s1.vcorePaced = true from hv]; simp)
  unfold State.raiseRails
  rw [todo]
  show s1.railNext = _
  unfold State.railNext
  rw [trim]
  show (if s1.hub.board.pwrgd then (match s1.nextUp [vcoreRail d] with | some k => s1.enableRail k | none => s1) else s1) = _
  rw [show s1.hub.board.pwrgd = true from hp, if_pos rfl, next]

/-- Where every other die is fenced or has its rail, a release leaves one rail to bring up. -/
theorem State.leftRails_unfenced {d : DieIx} (hst : 3 ≤ s.hub.power.state.toNat) (ht : s.hub.power.trans = none)
    (hs : s.hub.bring.standbyOnly = false) (hm : s.hub.bring.removal.toNat ≤ 2) (ha : (s.rail (vcoreRail d)).alive = false)
    (ho : ∀ m : DieIx, m ≠ d → s.dies[m].pow.fenced = true ∨ (s.rail (vcoreRail m)).alive = true) :
    (s.unfenced d).leftRails = [vcoreRail d] := by
  have only : (List.finRange 8).filter (fun n => !(s.unfenced d).dies[n].pow.fenced && !((s.unfenced d).rail (vcoreRail n)).alive
      && !(s.unfenced d).hub.power.skipRails.contains (vcoreRail n)) = (List.finRange 8).filter (fun n => decide (n = d)) := by
    refine List.filter_congr (fun n _ => ?_)
    by_cases e : n = d
    · subst e
      have same : (s.unfenced n).dies[n] = s.dies[n].released := s.modDie_same n _
      have skip : (s.unfenced n).hub.power.skipRails.contains (vcoreRail n) = false := by
        show (s.hub.power.skipRails.filter (· ≠ vcoreRail n)).contains (vcoreRail n) = false
        simp
      rw [same, skip, show ((s.unfenced n).rail (vcoreRail n)).alive = false from ha]
      simp [Die.released]
    · have other : (s.unfenced d).dies[n] = s.dies[n] := s.modDie_other d n _ e
      rw [other, show (s.unfenced d).rail (vcoreRail n) = s.rail (vcoreRail n) from rfl, decide_eq_false e]
      obtain h | h := ho n e
      · rw [h]; rfl
      · rw [h, Bool.not_true, Bool.and_false, Bool.false_and]
  have one : (List.finRange 8).filter (fun n => decide (n = d)) = [d] := by
    clear * -
    revert d
    decide
  unfold State.leftRails
  rw [if_pos, only, one]
  · rfl
  · show (s.hub.power.trans.isNone && !s.hub.bring.standbyOnly && s.hub.bring.removal.toNat ≤ 2 && _) = true
    rw [ht, hs, decide_eq_true hm, decide_eq_true (show 3 ≤ (s.unfenced d).hub.power.state.toNat from hst)]
    rfl

theorem dieRelease_acts (h : Fresh s r x) (hx : x.role = .operator) (d : DieIx) :
    let h := s.hub
    ∃ t, exec (.dieRelease r d) s = .next t ∧ t.ports = s.ports ∧ (∀ m : DieIx, m ≠ d → t.dies[m] = s.dies[m])
        ∧ (s.dies[d].pow.fenced = true → Answered t r 0x82 0
            ∧ t.dies[d] = { s.dies[d] with pow := { s.dies[d].pow with fenced := false, result := .notUp } }
            ∧ (3 ≤ h.power.state.toNat → h.power.trans = none → h.bring.standbyOnly = false → h.bring.removal.toNat ≤ 2 →
                h.power.goal = .hold → h.board.pwrgd = true → s.vcorePaced = true →
                h.power.rails[vcoreRail d].good = false → h.power.rails[vcoreRail d].alive = false →
                (∀ m : DieIx, m ≠ d → s.dies[m].pow.fenced = true ∨ h.power.rails[vcoreRail m].alive = true) →
                t.hub.power.rails[vcoreRail d].enabled = true ∧ t.hub.power.goal = .up [vcoreRail d]))
        ∧ (s.dies[d].pow.fenced = false → Written s r 0 t) := by
  intro hub
  obtain ⟨t, ht, hr⟩ := h.dieCommand hx d 2
  have he : s.dieCommand d 2 = (s.release d, 0) := rfl
  rw [he] at hr
  refine ⟨t, ht, ?_⟩
  by_cases hf : s.dies[d].pow.fenced = true
  · obtain ⟨power, e⟩ := State.release_eq hf
    have ports : t.ports = s.ports := by rw [hr.ports, e]; rfl
    have dies : t.dies = (s.modDie d Die.released).dies := by rw [hr.dies, e]; rfl
    refine ⟨ports, fun m hm => ?_, fun _ => ⟨?_, ?_, ?_⟩, fun hn => absurd hf (by rw [hn]; decide)⟩
    · rw [dies]
      exact s.modDie_other d m _ hm
    · refine hr.answered rfl (y := x) ?_
      rw [e]
      exact h.session_eq
    · rw [dies]
      exact s.modDie_same d _
    · intro hst htr hso hrm hg hpw hpc hgood halive hoth
      have left := State.leftRails_unfenced hst htr hso hrm halive hoth
      have en : ((s.unfenced d).rail (vcoreRail d)).enabled = false := (Bool.or_eq_false_iff.1 halive).1
      have e : s.release d = (s.unfenced d).raiseRails [vcoreRail d] := by
        rw [State.release_holding hf hg, State.raiseLeft, left, if_pos (by rw [show (s.unfenced d).hub.power.goal = .hold from hg]; rfl)]
      have one := State.raiseRails_one (s := s.unfenced d) hgood en hpw hpc
      rw [hr.power]
      show (s.release d).hub.power.rails[vcoreRail d].enabled = true ∧ (s.release d).hub.power.goal = _
      rw [e, one]
      exact ⟨congrArg Rail.enabled (vupd_get_same s.hub.power.rails (vcoreRail d) _ _), rfl⟩
  · have same : s.release d = s := if_neg hf
    rw [same] at hr
    exact ⟨hr.ports, fun m _ => by rw [hr.dies], fun hn => absurd hn hf, fun _ => hr.written rfl⟩

/-! ### Removal and admission (R445, R451) -/

/-- A change of each die of a list in turn, where the hub die stays as it is. -/
theorem State.foldl_dies {f : State → DieIx → State} {g : DieIx → Die → Die} {l : List DieIx} (hl : l.Nodup) (s : State)
    (hf : ∀ u n, u.hub = s.hub → f u n = u.modDie n (g n)) :
    { l.foldl f s with dies := s.dies } = s ∧ ∀ m, (l.foldl f s).dies[m] = if m ∈ l then g m s.dies[m] else s.dies[m] := by
  induction l generalizing s with
  | nil => exact ⟨rfl, fun m => by simp⟩
  | cons n l ih =>
    obtain ⟨hn, hl⟩ := List.nodup_cons.1 hl
    have first := hf s n rfl
    rw [List.foldl_cons, first]
    obtain ⟨hr, hd⟩ := ih hl (s.modDie n (g n)) (fun u k hu => hf u k hu)
    refine ⟨?_, fun m => ?_⟩
    · have := congrArg (fun u : State => { u with dies := s.dies }) hr
      exact this
    · rw [hd m]
      by_cases e : m = n
      · subst e
        rw [if_neg hn, if_pos List.mem_cons_self]
        exact s.modDie_same m _
      · rw [s.modDie_other n m _ e]
        simp only [List.mem_cons, e, false_or]

theorem State.foldl_allDies {f : State → DieIx → State} {g : DieIx → Die → Die} (s : State)
    (hf : ∀ u n, u.hub = s.hub → f u n = u.modDie n (g n)) :
    { (List.finRange 8).foldl f s with dies := s.dies } = s ∧ ∀ m : DieIx, ((List.finRange 8).foldl f s).dies[m] = g m s.dies[m] := by
  obtain ⟨hr, hd⟩ := State.foldl_dies (List.nodup_finRange 8) s hf
  exact ⟨hr, fun m => (hd m).trans (if_pos (List.mem_finRange m))⟩

/-- What the unload of a die does to it. -/
def Die.unload (now : Nat) (d : Die) : Die :=
  if d.plan.isNone || !d.reached then d
  else if d.frm.frun then { d with unloadAtEnd := true }
  else d.endPlan now

theorem Die.endPlan_plan (now : Nat) (d : Die) : (d.endPlan now).plan = none := by
  unfold Die.endPlan
  split
  · next h => exact Option.isNone_iff_eq_none.1 h
  · rfl

theorem Die.unload_plan (now : Nat) (d : Die) :
    (d.reached = true → d.frm.frun = false → (d.unload now).plan = none)
      ∧ (d.reached = true → d.frm.frun = true → (d.unload now).plan = d.plan ∧ (d.plan ≠ none → (d.unload now).unloadAtEnd = true))
      ∧ (d.reached = false → (d.unload now).plan = d.plan) := by
  refine ⟨fun hr hf => ?_, fun hr hf => ?_, fun hr => ?_⟩
  · unfold Die.unload
    rw [hr, hf]
    by_cases hp : d.plan = none
    · rw [if_pos (by rw [hp]; rfl)]
      exact hp
    · rw [if_neg (by simpa using hp), if_neg (by decide)]
      exact d.endPlan_plan now
  · unfold Die.unload
    rw [hr, hf]
    by_cases hp : d.plan = none
    · rw [if_pos (by rw [hp]; rfl)]
      exact ⟨rfl, fun h => absurd hp h⟩
    · rw [if_neg (by simpa using hp), if_pos rfl]
      exact ⟨rfl, fun _ => rfl⟩
  · unfold Die.unload
    rw [if_pos (by rw [hr, Bool.not_false, Bool.or_true])]

/-- The state as a removal begins, before the plans are unloaded. -/
def State.removing (s : State) : State :=
  (s.setRemoval 1).dropLoad.modHub (fun h => { h with bring := { h.bring with attested := false } })

theorem removalRequest_acts (h : Fresh s r x) (hx : x.role = .operator) :
    ∃ t, exec (.removalRequest r) s = .next t
        ∧ (s.hub.bring.removal = 0 →
            Answered t r 0x82 0 ∧ t.ports = s.ports ∧ t.hub.bring.removal = 1 ∧ t.hub.bring.attested = false
            ∧ ∀ m : DieIx, (s.dies[m].reached = true → s.dies[m].frm.frun = false → t.dies[m].plan = none)
                ∧ (s.dies[m].reached = true → s.dies[m].frm.frun = true → t.dies[m].plan = s.dies[m].plan
                    ∧ (s.dies[m].plan ≠ none → t.dies[m].unloadAtEnd = true))
                ∧ (s.dies[m].reached = false → t.dies[m].plan = s.dies[m].plan))
        ∧ (s.hub.bring.removal ≠ 0 → Written s r 8 t) := by
  obtain ⟨t, ht, hr⟩ := h.put_responds 0x2000 5 [1]
  rw [State.writeEntry_ofKind (by rw [hx]; decide) rfl rfl rfl rfl] at hr
  replace hr : Responds r s.removalRequest t := hr
  refine ⟨t, ht, fun hm => ?_, fun hm => hr.written (if_pos hm)⟩
  have he : s.removalRequest = ((List.finRange 8).foldl (fun s n => s.unloadDie n) s.removing, 0) := if_neg (not_not.2 hm)
  rw [he] at hr
  obtain ⟨kept, dies⟩ := State.foldl_allDies (f := fun s n => s.unloadDie n) (g := fun _ => Die.unload s.now) s.removing
    (fun u n hu => by
      show u.modDie n (Die.unload u.now) = _
      rw [show u.now = s.now from congrArg (·.time.wall) hu])
  have hub : ((List.finRange 8).foldl (fun s n => s.unloadDie n) s.removing).hub = s.removing.hub := congrArg (·.hub) kept
  have ports : ((List.finRange 8).foldl (fun s n => s.unloadDie n) s.removing).ports = s.ports := congrArg (·.ports) kept
  refine ⟨hr.answered rfl (y := x) ?_, hr.ports.trans ports, ?_, ?_, fun m => ?_⟩
  · rw [State.session, hub]
    exact h.session_eq
  · rw [hr.bring, hub]; rfl
  · rw [hr.bring, hub]; rfl
  · have same : s.removing.dies[m] = { s.dies[m] with loadAtEnd := false } := Vector.getElem_map ..
    rw [hr.dies, dies m, same]
    exact Die.unload_plan s.now { s.dies[m] with loadAtEnd := false }

theorem State.attest_eq (s : State) :
    ∃ a, s.attest = s.modHub (fun h => { h with bring := { h.bring with attested := a } }) := by
  unfold State.attest
  split
  · exact ⟨true, rfl⟩
  · exact ⟨s.hub.bring.attested, rfl⟩

theorem removalCancel_acts (h : Fresh s r x) (hx : x.role = .operator) :
    ∃ t, exec (.removalCancel r) s = .next t
        ∧ (s.hub.bring.removal = 1 ∨ s.hub.bring.removal = 2 →
            Answered t r 0x82 0 ∧ OnlyHub s t ∧ t.hub.bring.removal = 0 ∧ t.hub.power = s.hub.power)
        ∧ (s.hub.bring.removal ≠ 1 → s.hub.bring.removal ≠ 2 → Written s r 8 t) := by
  obtain ⟨t, ht, hr⟩ := h.put_responds 0x2000 5 [2]
  rw [State.writeEntry_ofKind (by rw [hx]; decide) rfl rfl rfl rfl] at hr
  replace hr : Responds r s.removalCancel t := hr
  refine ⟨t, ht, fun hm => ?_, fun h1 h2 => hr.written (if_neg (by rw [decide_eq_false h1, decide_eq_false h2]; decide))⟩
  have he : s.removalCancel = ((s.setRemoval 0).attest, 0) := if_pos (by simpa using hm)
  obtain ⟨a, e⟩ := (s.setRemoval 0).attest_eq
  rw [he, e] at hr
  have only : OnlyHub s t := by
    obtain ⟨tot, idx, sub, rfl⟩ := hr
    rfl
  refine ⟨hr.answered rfl (y := x) h.session_eq, only, ?_, ?_⟩
  · rw [hr.bring]; rfl
  · rw [hr.power]; rfl

theorem admissionRelease_acts (h : Fresh s r x) (hx : x.role = .operator) :
    ∃ t, exec (.admissionRelease r) s = .next t
        ∧ (s.bringing = true → s.hub.bring.step = 8 → s.hub.bring.released = false →
            Written { s with hub := { s.hub with bring := { s.hub.bring with released := true } } } r 0 t)
        ∧ (s.bringing = false ∨ s.hub.bring.step ≠ 8 ∨ s.hub.bring.released = true → Written s r 8 t) := by
  obtain ⟨t, ht, hr⟩ := h.put_responds 0x3000 8 [1]
  rw [State.writeEntry_ofKind (by rw [hx]; decide) rfl rfl rfl rfl] at hr
  replace hr : Responds r s.admitRelease t := hr
  refine ⟨t, ht, fun hb hs hl => hr.written (if_pos (by simp [hb, hs, hl])), fun hn => hr.written (if_neg ?_)⟩
  rw [Bool.and_eq_true, Bool.and_eq_true, decide_eq_true_iff, Bool.not_eq_true']
  rintro ⟨⟨hb, hs⟩, hl⟩
  obtain hn | hn | hn := hn
  · rw [hb] at hn; cases hn
  · exact hn hs
  · rw [hl] at hn; cases hn

end

end Sys2Proof.Machine

/-! # Ports and the size of the system (O51)

A port begins anew where its axis comes into use or goes out of it. -/

namespace Sys2Proof.Machine

section
variable {s t u : State} {r : Req} {x : Session}

/-! ### Coordinates (R15, R16, R317, R331, R336, R455) -/

theorem LinkWork.hostEnd {own : PortIx → Prop} (h : LinkWork own s t) : t.hostEnd = s.hostEnd := State.hostEnd_congr h.hostPort

theorem LinkWork.portUsed {own : PortIx → Prop} (h : LinkWork own s t) (p : PortIx) : t.portUsed p = s.portUsed p := by
  simp only [State.portUsed, h.hostEnd, h.size]

theorem LinkWork.portsLive {own : PortIx → Prop} (h : LinkWork own s t) : t.portsLive = s.portsLive := by
  simp only [State.portsLive, State.trains, State.bringing, h.bring, h.power]

/-- A change of each port of a list in turn. -/
theorem State.foldl_ports {f : State → PortIx → State} {g : Port → Port} {l : List PortIx} (hl : l.Nodup) (s : State)
    (hf : ∀ u p, (f u p).ports[p] = g u.ports[p] ∧ ∀ q : PortIx, q ≠ p → (f u p).ports[q] = u.ports[q]) (p : PortIx) :
    (l.foldl f s).ports[p] = if p ∈ l then g s.ports[p] else s.ports[p] := by
  induction l generalizing s with
  | nil => simp
  | cons q l ih =>
    obtain ⟨hq, hl⟩ := List.nodup_cons.1 hl
    obtain ⟨same, other⟩ := hf s q
    rw [List.foldl_cons, ih hl]
    by_cases e : p = q
    · subst e
      rw [if_neg hq, if_pos List.mem_cons_self]
      exact same
    · rw [other p e]
      simp only [List.mem_cons, e, false_or]

/-- What a write of a coordinate makes of a port's neighbour. -/
def Port.seenAgain (y : Port) : Port :=
  if y.link.st = .up && (y.nb = .verified || y.nb = .admitted) then { y with nb := .seen } else y

theorem Port.seenAgain_link (y : Port) : y.seenAgain.link = y.link ∧ y.seenAgain.cmd = y.cmd := by
  unfold Port.seenAgain
  split <;> exact ⟨rfl, rfl⟩

/-- One port of `State.reverify`. -/
def State.reverifyPort (s : State) (p : PortIx) : State :=
  if s.ports[p].link.st = .up && (s.ports[p].nb = .verified || s.ports[p].nb = .admitted) then
    (s.modPort p (fun x => { x with nb := .seen })).raiseTopo
  else s

theorem State.reverifyPort_ports (s : State) (p : PortIx) :
    (s.reverifyPort p).ports[p] = s.ports[p].seenAgain ∧ ∀ q : PortIx, q ≠ p → (s.reverifyPort p).ports[q] = s.ports[q] := by
  unfold State.reverifyPort Port.seenAgain
  split
  · exact ⟨s.modPort_same p _, fun q hq => s.modPort_other p q _ hq⟩
  · exact ⟨rfl, fun _ _ => rfl⟩

theorem linkWork_reverifyPort (s : State) (p : PortIx) : LinkWork (fun _ => True) s (s.reverifyPort p) := by
  unfold State.reverifyPort
  split
  · exact ((linkWork_modPort s p _).mono (fun _ _ => trivial)).trans (linkWork_raiseTopo _)
  · exact .refl _ s

theorem linkWork_reverifyPorts (s : State) (l : List PortIx) : LinkWork (fun _ => True) s (l.foldl State.reverifyPort s) :=
  .foldl (fun s p _ => linkWork_reverifyPort s p) s

theorem State.reverify_works (s : State) :
    LinkWork (fun _ => True) s s.reverify ∧ ∀ p : PortIx, s.reverify.ports[p] = s.ports[p].seenAgain := by
  have same : s.reverify = allPorts.foldl State.reverifyPort s := rfl
  rw [same]
  exact ⟨linkWork_reverifyPorts s allPorts, fun p =>
    (State.foldl_ports (List.nodup_finRange 24) s State.reverifyPort_ports p).trans (if_pos (List.mem_finRange p))⟩

/-- A port that is Disabled, or Unused and not in use, does not wake. -/
theorem State.wakeEnd_rests {p : PortIx} (h : s.ports[p].link.st = .disabled ∨ s.ports[p].link.st = .unused ∧ s.portUsed p = false) :
    s.wakeEnd (.port p) = s := by
  unfold State.wakeEnd
  dsimp only
  obtain h | ⟨h, hu⟩ := h
  · rw [show (s.link (.port p)).st = .disabled from h]
  · rw [show (s.link (.port p)).st = .unused from h]
    exact if_pos (by rw [show s.endUsed (.port p) = false from hu]; rfl)

/-- A port that is not in use and begins anew is Unused, or Disabled as it was. -/
theorem State.portAnew_unused {p : PortIx} (h : s.portUsed p = false) :
    (s.portAnew p).ports[p].link.st = if s.ports[p].link.st = .disabled then .disabled else .unused := by
  unfold State.portAnew
  extract_lets e s1 _ s2
  have h1 : LinkWork (· = p) s s1 ∧ (s1.ports[p].link.st = s.ports[p].link.st ∨ s.ports[p].link.st ≠ .disabled ∧ s1.ports[p].link.st = .unused) := by
    by_cases ht : (s.link e).trained = true
    · rw [show s1 = s.linkDown e .unused 6 from if_pos ht]
      refine ⟨linkWork_linkDown s (.port p) _ _, .inr ⟨fun hd => ?_, State.linkDown_st ht _ _⟩⟩
      rw [Link.trained, show (s.link e).st = .disabled from hd] at ht
      exact absurd ht (by decide)
    · rw [show s1 = s from if_neg ht]
      exact ⟨.refl _ s, .inl rfl⟩
  obtain ⟨w1, h1⟩ := h1
  have w2 : LinkWork (· = p) s1 s2 := linkWork_modLink s1 (.port p) _
  have h2 : s2.ports[p].link.st = if s.ports[p].link.st = .disabled then .disabled else .unused := by
    have same : s2.ports[p].link = if s1.ports[p].link.st = .disabled then s1.ports[p].link else { Link.init with st := .unused } :=
      congrArg Port.link (s1.modPort_same p _)
    rw [same]
    obtain h1 | ⟨hn, h1⟩ := h1
    · rw [h1]
      split
      · next hd => exact h1.trans hd
      · rfl
    · rw [h1, if_neg hn]
      rfl
  have hu : s2.portUsed p = false := (w2.portUsed p).trans ((w1.portUsed p).trans h)
  split
  · have rests : s2.wakeEnd e = s2 := by
      refine State.wakeEnd_rests ?_
      rw [h2]
      split
      · exact .inl rfl
      · exact .inr ⟨rfl, hu⟩
    rw [rests]
    exact h2
  · exact h2

theorem State.portAnew_used {p : PortIx} (h : s.portUsed p = true) (hl : s.ports[p].link.st = .unused) (hv : s.portsLive = true)
    (hc : s.ports[p].cmd ≠ 1) : (s.portAnew p).ports[p].link.st = .down := by
  unfold State.portAnew
  extract_lets e s1 _ s2
  have h1 : s1 = s := if_neg (by rw [Link.trained, show (s.link e).st = .unused from hl]; decide)
  have w : LinkWork (· = p) s s2 := h1 ▸ linkWork_modLink s1 (.port p) _
  have same : s2.ports[p] = { s.ports[p] with link := if s.ports[p].link.st = .disabled then s.ports[p].link else { Link.init with st := .unused } } := by
    rw [← h1]
    exact s1.modPort_same p _
  have st : s2.ports[p].link.st = .unused := by rw [same, hl]; rfl
  have cmd : s2.ports[p].cmd ≠ 1 := by rw [same]; exact hc
  rw [if_pos (w.portsLive.trans hv), State.wakeEnd_unused st ((w.portUsed p).trans h) cmd]
  exact congrArg (·.link.st) (s2.modPort_same p _)

theorem linkWork_fitPort (s : State) (p : PortIx) : LinkWork (· = p) s (s.fitPort p) := by
  unfold State.fitPort
  split
  · exact linkWork_portAnew s p
  · exact .refl _ s

/-- What the fitting of every port to the size of the system does to one of them. -/
def Fitted (s t : State) (p : PortIx) : Prop :=
  (s.portUsed p = true → s.ports[p].link.st ≠ .unused → t.ports[p].link.st = s.ports[p].link.st
    ∧ (s.hostEnd ≠ some p → t.ports[p].link = s.ports[p].link) ∧ t.ports[p].nb = s.ports[p].nb)
  ∧ (s.portUsed p = true → s.ports[p].link.st = .unused → s.portsLive = true → s.ports[p].cmd ≠ 1 → t.ports[p].link.st = .down)
  ∧ (s.portUsed p = false → s.ports[p].link.st = .unused → t.ports[p].link = s.ports[p].link)
  ∧ (s.portUsed p = false → s.ports[p].link.st ≠ .unused →
      t.ports[p].link.st = if s.ports[p].link.st = .disabled then .disabled else .unused)

theorem State.hostEnd_of_unused {p : PortIx} (h : s.portUsed p = false) : s.hostEnd ≠ some p := fun e => by
  rw [State.portUsed, e] at h
  simp at h

/-- A port that is in use and trained, or is out of use and not, stays. -/
theorem State.fitPort_stays {p : PortIx} (h : ¬(s.portUsed p = true ↔ s.ports[p].link.st = .unused)) : s.fitPort p = s :=
  if_neg (fun e => h (iff_of_eq e))

theorem State.fitPort_anew {p : PortIx} (h : s.portUsed p = true ↔ s.ports[p].link.st = .unused) : s.fitPort p = s.portAnew p :=
  if_pos (propext h)

theorem fitted_fitPort (s : State) (p : PortIx) : Fitted s (s.fitPort p) p := by
  refine ⟨fun hu hl => ?_, fun hu hl hv hc => ?_, fun hu hl => ?_, fun hu hl => ?_⟩
  · rw [State.fitPort_stays (fun e => hl (e.1 hu))]
    exact ⟨rfl, fun _ => rfl, rfl⟩
  · rw [State.fitPort_anew (iff_of_true hu hl)]
    exact State.portAnew_used hu hl hv hc
  · rw [State.fitPort_stays (fun e => absurd (e.2 hl) (by rw [hu]; decide))]
  · rw [State.fitPort_anew (iff_of_false (by rw [hu]; decide) hl)]
    exact State.portAnew_unused hu

/-- Work on other ports before and after does not change what the fitting of a port comes to. -/
theorem Fitted.around {own own' : PortIx → Prop} {a b : State} {p : PortIx} (h : LinkWork own s a) (hp : ¬own p) (g : LinkWork own' b t)
    (hp' : ¬own' p) (hb : LinkWork (· = p) a b) (f : Fitted a b p) : Fitted s t p := by
  obtain ⟨f1, f2, f3, f4⟩ := f
  rw [h.portUsed, h.portSt hp] at f1 f2 f3 f4
  rw [h.portsLive, h.portCmd hp] at f2
  have hostEnd : b.hostEnd = s.hostEnd := hb.hostEnd.trans h.hostEnd
  have link (hn : s.hostEnd ≠ some p) (e : b.ports[p].link = a.ports[p].link) : t.ports[p].link = s.ports[p].link := by
    rw [(g.ports p hp').1 (by rwa [hostEnd]), e, (h.ports p hp).1 hn]
  refine ⟨fun hu hl => ?_, fun hu hl hv hc => ?_, fun hu hl => ?_, fun hu hl => ?_⟩
  · obtain ⟨h1, h2, h3⟩ := f1 hu hl
    exact ⟨(g.portSt hp').trans h1, fun hn => link hn (h2 (by rwa [h.hostEnd])),
      (g.portNb hp').trans (h3.trans (h.portNb hp))⟩
  · exact (g.portSt hp').trans (f2 hu hl hv hc)
  · exact link (State.hostEnd_of_unused hu) (f3 hu hl)
  · exact (g.portSt hp').trans (f4 hu hl)

theorem linkWork_fitPorts (s : State) (l : List PortIx) : LinkWork (· ∈ l) s (l.foldl State.fitPort s) :=
  .foldl (fun s p hp => (linkWork_fitPort s p).mono (fun q e => by rw [e]; exact hp)) s

theorem fitted_fitPorts {l : List PortIx} (hl : l.Nodup) (s : State) {p : PortIx} (hp : p ∈ l) : Fitted s (l.foldl State.fitPort s) p := by
  obtain ⟨l1, l2, rfl⟩ := List.append_of_mem hp
  rw [List.nodup_append] at hl
  obtain ⟨-, hl2, hd⟩ := hl
  rw [List.foldl_append, List.foldl_cons]
  exact (fitted_fitPort _ p).around (linkWork_fitPorts s l1) (fun h => hd p h p List.mem_cons_self rfl) (linkWork_fitPorts _ l2)
    (List.nodup_cons.1 hl2).1 (linkWork_fitPort _ p)

end

end Sys2Proof.Machine

/-! # Coordinates, and module requests (O51) -/

namespace Sys2Proof.Machine

section
variable {s t u : State} {r : Req} {x : Session}

/-- The default route of a die: its coordinate, and the default image in both its banks. -/
def Die.defaultRouted (base size : U32) (n : DieIx) (d : Die) : Die :=
  if !d.reached then d
  else
  let co := (bits base.toNat 5 0 + n.val % 2, bits base.toNat 13 8 + n.val / 2 % 2, bits base.toNat 21 16 + n.val / 4)
  let im := defaultImage size co n
  { d with router := { d.router with phys := co, image0 := im, image1 := im, notReady := false } }

theorem Die.defaultRouted_phys (base size : U32) (n : DieIx) (d : Die) :
    (d.defaultRouted base size n).router.phys = (if d.reached then (bits base.toNat 5 0 + n.val % 2,
        bits base.toNat 13 8 + n.val / 2 % 2, bits base.toNat 21 16 + n.val / 4) else d.router.phys)
      ∧ (d.defaultRouted base size n).cores = d.cores := by
  unfold Die.defaultRouted
  cases h : d.reached
  · exact ⟨rfl, rfl⟩
  · exact ⟨rfl, rfl⟩

/-- The state with the coordinates of the module written. -/
def State.placed (s : State) (base size : U32) : State :=
  s.modHub (fun h => Hub.takeCfg { h with dict := { h.dict with base := base, size := size } })

/-- What a write of a coordinate does where no rule is against it. -/
def State.relocated (s : State) (base size : U32) : State := allPorts.foldl State.fitPort (s.placed base size).defaultRoutes.reverify

theorem State.defaultRoutes_works (s : State) :
    { s.defaultRoutes with dies := s.dies } = s
      ∧ ∀ m : DieIx, s.defaultRoutes.dies[m] = s.dies[m].defaultRouted s.hub.dict.base s.hub.dict.size m :=
  State.foldl_allDies s (g := fun n => Die.defaultRouted s.hub.dict.base s.hub.dict.size n) (fun u n hu => by
    rw [← hu]
    rfl)

theorem State.relocated_works (s : State) (base size : U32) :
    let t := s.relocated base size
    t.hub.dict.sessions = s.hub.dict.sessions ∧ t.hub.dict.base = base ∧ t.hub.dict.size = size
      ∧ (∀ m : DieIx, DieKept (s.dies[m].defaultRouted base size m) t.dies[m])
      ∧ ∀ p : PortIx, ∃ a : State, a.hostEnd = s.hostEnd ∧ a.portsLive = s.portsLive ∧ a.hub.dict.size = size
          ∧ a.ports[p] = s.ports[p].seenAgain ∧ Fitted a t p := by
  intro t
  obtain ⟨kept, dies⟩ := (s.placed base size).defaultRoutes_works
  have hub := congrArg State.hub kept
  have ports := congrArg State.ports kept
  dsimp only at hub ports
  obtain ⟨work, again⟩ := (s.placed base size).defaultRoutes.reverify_works
  have same : t = allPorts.foldl State.fitPort (s.placed base size).defaultRoutes.reverify := rfl
  clear_value t
  generalize (s.placed base size).defaultRoutes.reverify = a at work again same
  have fits : LinkWork (fun _ => True) a t := same ▸ (linkWork_fitPorts a allPorts).mono (fun _ _ => trivial)
  have fitted : ∀ p, Fitted a t p := fun p => same ▸ fitted_fitPorts (List.nodup_finRange 24) a (List.mem_finRange p)
  have all := work.trans fits
  refine ⟨?_, ?_, ?_, fun m => ?_, fun p => ⟨a, ?_, ?_, ?_, ?_, fitted p⟩⟩
  · exact all.sessions.trans (congrArg (·.dict.sessions) hub)
  · exact all.base.trans (congrArg (·.dict.base) hub)
  · exact all.size.trans (congrArg (·.dict.size) hub)
  · have := all.dies m
    rw [dies m] at this
    exact this
  · exact work.hostEnd.trans (State.hostEnd_congr (congrArg (·.dict.hostPort) hub))
  · refine work.portsLive.trans ?_
    simp only [State.portsLive, State.trains, State.bringing, hub]
    rfl
  · exact work.size.trans (congrArg (·.dict.size) hub)
  · rw [again p, ports]
    rfl

theorem coordinate_entry (size : Bool) : mayWrite .operator 0x3000 (if size then 2 else 1) = 0
    ∧ kindOf 0x3000 (if size then 2 else 1) = some (kU32 .admin) ∧ laneDie 0x3000 (if size then 2 else 1) = none := by
  revert size
  decide

theorem State.writeCoord_eq (s : State) (size : Bool) (v : U32) :
    let v' := v &&& 0x3F3F3F
    let base := if size then s.hub.dict.base else v'
    let dims := if size then v' else s.hub.dict.size
    s.writeCoord size v = if !coordOwn size v' then (s, 7) else if s.anyPlan then (s, 8) else if !coordsFit base dims then (s, 7)
      else (s.relocated base dims, 0) := rfl

theorem coordinateWrite_acts (h : Fresh s r x) (hx : x.role = .operator) (v : U32) (size : Bool) :
    let h := s.hub
    let v' := v &&& 0x3F3F3F
    let base := if size then h.dict.base else v'
    let dims := if size then v' else h.dict.size
    let used (p : PortIx) : Prop :=
      s.hostEnd = some p ∨ 2 < bits dims.toNat (8 * (portAxis p).val + 5) (8 * (portAxis p).val)
    ∃ t, exec (.coordinateWrite r size v) s = .next t
        ∧ (coordOwn size v' = false → Written s r 7 t)
        ∧ (coordOwn size v' = true → s.anyPlan = true → Written s r 8 t)
        ∧ (coordOwn size v' = true → s.anyPlan = false → coordsFit base dims = false → Written s r 7 t)
        ∧ (coordOwn size v' = true → s.anyPlan = false → coordsFit base dims = true →
            Answered t r 0x82 0 ∧ t.hub.dict.base = base ∧ t.hub.dict.size = dims
            ∧ (∀ m : DieIx, t.dies[m].router.phys = (if s.dies[m].reached then (bits base.toNat 5 0 + m.val % 2,
                    bits base.toNat 13 8 + m.val / 2 % 2, bits base.toNat 21 16 + m.val / 4) else s.dies[m].router.phys)
                ∧ ∀ c : CoreIx, (t.dies[m].cores[c]).ctl = (s.dies[m].cores[c]).ctl
                    ∧ (t.dies[m].cores[c]).scratch = (s.dies[m].cores[c]).scratch)
            ∧ ∀ p : PortIx,
                (used p → s.ports[p].link.st ≠ .unused → t.ports[p].link.st = s.ports[p].link.st
                  ∧ (s.hostEnd ≠ some p → t.ports[p].link = s.ports[p].link)
                  ∧ (s.ports[p].link.st = .up → (s.ports[p].nb = .verified ∨ s.ports[p].nb = .admitted) → t.ports[p].nb = .seen))
                ∧ (used p → s.ports[p].link.st = .unused → s.portsLive = true → s.ports[p].cmd ≠ 1 → t.ports[p].link.st = .down)
                ∧ (¬used p → s.ports[p].link.st = .unused → t.ports[p].link = s.ports[p].link)
                ∧ (¬used p → s.ports[p].link.st ≠ .unused →
                    t.ports[p].link.st = if s.ports[p].link.st = .disabled then .disabled else .unused)) := by
  intro hub v' base dims used
  obtain ⟨t, ht, hr⟩ := h.put_responds 0x3000 (if size then 2 else 1) (leBytes 4 v.toNat)
  have he : s.effect x 0x3000 (if size then 2 else 1) (leBytes 4 v.toNat) noPlan noStandby = s.writeCoord size v := by
    conv_rhs => rw [← ofNat_leNat_leBytes 4 v]
    cases size <;> rfl
  obtain ⟨hm, hk, hl⟩ := coordinate_entry size
  rw [State.writeEntry_ofKind (by rw [hx]; exact hm) hk (by simp [fits, typeBytes, kU32]) rfl hl, he, s.writeCoord_eq size v] at hr
  refine ⟨t, ht, fun ho => ?_, fun ho hp => ?_, fun ho hp hc => ?_, fun ho hp hc => ?_⟩
  · exact hr.written (if_pos (by rw [show coordOwn size v' = false from ho]; rfl))
  · exact hr.written ((if_neg (by rw [show coordOwn size v' = true from ho]; decide)).trans (if_pos hp))
  · exact hr.written ((if_neg (by rw [show coordOwn size v' = true from ho]; decide)).trans
      ((if_neg (by rw [hp]; decide)).trans (if_pos (by rw [show coordsFit base dims = false from hc]; rfl))))
  · have taken : (if !coordOwn size v' then (s, 7) else if s.anyPlan then (s, 8) else if !coordsFit base dims then (s, 7)
        else (s.relocated base dims, 0)) = (s.relocated base dims, (0 : BitVec 8)) :=
      (if_neg (by rw [ho]; decide)).trans ((if_neg (by rw [hp]; decide)).trans (if_neg (by rw [hc]; decide)))
    replace hr : Responds r (s.relocated base dims, 0) t := taken ▸ hr
    obtain ⟨hs, hb, hz, hd, hp⟩ := s.relocated_works base dims
    generalize s.relocated base dims = w at hr hs hb hz hd hp
    have session : w.session r.ses = some x := by
      rw [State.session, hs]
      exact h.session_eq
    refine ⟨hr.answered rfl session, hr.base.trans hb, hr.size.trans hz, fun m => ?_, fun p => ?_⟩
    · obtain ⟨-, -, phys, cores⟩ := hd m
      obtain ⟨phys', cores'⟩ := s.dies[m].defaultRouted_phys base dims m
      rw [hr.dies]
      refine ⟨phys.trans phys', fun c => ?_⟩
      obtain ⟨ctl, scratch⟩ := cores c
      rw [cores'] at ctl scratch
      exact ⟨ctl, scratch⟩
    · obtain ⟨a, hostEnd, live, sz, same, f1, f2, f3, f4⟩ := hp p
      have usedIff : a.portUsed p = true ↔ used p := by
        rw [State.portUsed, hostEnd, sz, Bool.or_eq_true, decide_eq_true_iff, decide_eq_true_iff]
      obtain ⟨link, cmd⟩ := s.ports[p].seenAgain_link
      rw [same, link] at f1 f2 f3 f4
      rw [hostEnd] at f1
      rw [live, cmd] at f2
      rw [hr.ports]
      refine ⟨fun hu hl => ?_, fun hu => f2 (usedIff.2 hu), fun hu => f3 (by rwa [← Bool.not_eq_true, usedIff]),
        fun hu => f4 (by rwa [← Bool.not_eq_true, usedIff])⟩
      obtain ⟨h1, h2, h3⟩ := f1 (usedIff.2 hu) hl
      refine ⟨h1, h2, fun hup hnb => ?_⟩
      rw [h3, Port.seenAgain, if_pos]
      rw [Bool.and_eq_true, Bool.or_eq_true, decide_eq_true_iff, decide_eq_true_iff, decide_eq_true_iff]
      exact ⟨hup, hnb⟩

/-- Settles O51: each entry's own checks and effect. What the ports that begin anew and the rails that move change besides is bounded
by `LinkWork` and `RailWork`. -/
theorem moduleRequestsAct : Obligations.ModuleRequestsAct := by
  unfold Obligations.ModuleRequestsAct
  intro s r x d v b size h hx
  exact ⟨powerCapWrite_acts h hx v, framePeriodWrite_acts h hx v, coordinateWrite_acts h hx v size, dieFence_acts h hx d,
    dieRelease_acts h hx d, removalRequest_acts h hx, removalCancel_acts h hx, admissionRelease_acts h hx, powerStateRequest_acts h hx b⟩

end

end Sys2Proof.Machine

/-! # Commands of one core, and table loads (O16) -/

namespace Sys2Proof.Machine

/-! ### One core of a die, and its faults -/

theorem onlyCore_modCore (s : State) (a : CoreRef) (f : Core → Core) : OnlyCore a s (s.modCore a f) := by
  have hd : (s.modCore a f).dies[a.die] = s.dies[a.die].modCore a.core f := s.modDie_same a.die _
  refine ⟨onlyDie_modDie s a.die _, ?_, fun c hc => ?_⟩
  · rw [hd]; rfl
  · rw [hd, Die.modCore_other _ _ _ _ hc]

/-- The command of a core whose die runs, where it comes to a change of that core. -/
theorem onDie_core {s : State} {a : CoreRef} {f : Die → Die} {g : Core → Core} (hr : s.runs a.die = true)
    (h : f s.dies[a.die] = s.dies[a.die].modCore a.core g) : onDie s a.die f = .next (s.modCore a g) := by
  rw [onDie_runs f hr, s.modDie_congr a.die f (·.modCore a.core g) h, State.modCore]

/-- A core of a die that is changed is that core of the changed die. -/
theorem State.modDie_core (s : State) (a : CoreRef) (f : Die → Die) : (s.modDie a.die f).core a = (f s.dies[a.die]).cores[a.core] :=
  congrArg (fun d : Die => d.cores[a.core]) (s.modDie_same a.die f)

theorem bit_setBit_of_bit {w : Nat} {x : BitVec w} {n : Nat} (m : Nat) (h : bit x n = true) : bit (setBit x m) n = true := by
  rw [bit] at h
  simp [bit, setBit, h]

/-- A fault of a core sets a bit of the core's own fault word. -/
theorem Die.fault_core {d : Die} {c : CoreIx} {k : Core} (h : d.cores[c] = k) (b : FBit) :
    (d.fault (.core c) b).cores[c] = { k with fault := setBit k.fault b.bit } := by
  obtain ⟨-, -, -, hk⟩ := d.fault_parts (.core c) b
  rw [hk, ← h]
  exact d.modCore_same c _

/-- A fault of a vector engine sets a bit of the engine's fault word. -/
theorem Die.fault_vec {d : Die} {c : CoreIx} {k : Core} (h : d.cores[c] = k) (b : FBit) :
    (d.fault (.vec c) b).cores[c] = { k with vec := { k.vec with fault := setBit k.vec.fault b.bit } } := by
  obtain ⟨-, -, -, hk⟩ := d.fault_parts (.vec c) b
  rw [hk, ← h]
  exact d.modCore_same c _

/-! ### Table loads (R66, R116, R117) -/

/-- The standby bank is the one that is not active; the active bank, the choice and the arming stay. -/
theorem FnTable.setStandby_parts (x : FnTable) (b : FtBank) :
    (x.setStandby b).act = x.act ∧ (x.setStandby b).arm = x.arm
      ∧ (if x.act then (x.setStandby b).bank1 = x.bank1 ∧ (x.setStandby b).bank0 = b
          else (x.setStandby b).bank0 = x.bank0 ∧ (x.setStandby b).bank1 = b) := by
  unfold FnTable.setStandby
  cases x.act <;> exact ⟨rfl, rfl, rfl, rfl⟩

/-- A vector engine whose port has ended a table load, with a fault word. -/
def Vec.tableLoaded (v : Vec) (p : VPort) (f : VtldF) (r : VecRun) (w : U64) : Vec :=
  { v.setRun p none with ft := vupd v.ft f.t.toFin (·.setStandby (tableBank r.raw r.rawPz)), fault := w }

theorem Vec.tableLoaded_run (v : Vec) (p : VPort) (f : VtldF) (r : VecRun) (w : U64) : (v.tableLoaded p f r w).run p = none := by
  cases p <;> rfl

theorem Vec.tableLoaded_table (v : Vec) (p : VPort) (f : VtldF) (r : VecRun) (w : U64) :
    (v.tableLoaded p f r w).ft[f.t.toFin] = v.ft[f.t.toFin].setStandby (tableBank r.raw r.rawPz) :=
  vupd_get_same v.ft f.t.toFin _ f.t.toFin.isLt

/-- A core whose table load has ended. -/
def Core.tableLoaded (k : Core) (p : VPort) (f : VtldF) (r : VecRun) : Core := { k with vec := k.vec.tableLoaded p f r k.vec.fault }

/-- With all its beats made and due, a table load ends, and a descriptor whose reserved bits are not zero is a fault. -/
theorem Die.vtldComplete_loaded {d : Die} {c : CoreIx} {p : VPort} {r : VecRun} {f : VtldF} (h : d.cores[c].vec.run p = some r)
    (ho : r.op = .vtld f) (hn : r.n ≤ r.taken) (hd : d.dueRun (r.start + 16) = true) :
    d.vtldComplete c p
      = let e := d.modCore c (·.tableLoaded p f r)
        if descOk (slice r.raw 0 16) then e else e.fault (.vec c) ftBad := by
  have ended : d.vtldComplete c p = d.finishVtld c p := by
    simp only [Die.vtldComplete, h, ho, hd, hn, Nat.le_succ_of_le, decide_true, Bool.and_self, if_true]
  have same : d.modCore c (fun k => { k with vec := { k.vec.setRun p none with
      ft := vupd k.vec.ft (fin4 f.t) (·.setStandby (tableBank r.raw r.rawPz)) } }) = d.modCore c (·.tableLoaded p f r) := by
    cases p <;> rfl
  simp only [ended, Die.finishVtld, h, ho, hn, if_true, same]
  rfl

/-- Settles O16: a table load that ends changes its engine as `Vec.tableLoaded` says, and a bad descriptor sets a fault bit besides. -/
theorem tableLoadCompletes : Obligations.TableLoadCompletes := by
  unfold Obligations.TableLoadCompletes
  intro s a p r f hr h ho hn hd
  have parts := ((s.core a).vec.ft[f.t.toFin]).setStandby_parts (tableBank r.raw r.rawPz)
  have ended := Die.vtldComplete_loaded h ho hn hd
  cases hb : descOk (slice r.raw 0 16) with
  | true =>
    have core := s.modCore_same a (·.tableLoaded p f r)
    refine ⟨_, onDie_core hr (ended.trans (by rw [hb]; rfl)), onlyDie_modDie s a.die _, ?_⟩
    refine ⟨?_, ?_, nofun, fun _ => ⟨onlyCore_modCore s a _, by rw [core]; rfl⟩⟩ <;> rw [core]
    · exact Vec.tableLoaded_run ..
    · rw [Core.tableLoaded, Vec.tableLoaded_table]
      exact parts
  | false =>
    refine ⟨_, onDie_runs (Die.vtldComplete a.core p) hr, onlyDie_modDie s a.die _, ?_⟩
    have vec : ((s.modDie a.die (Die.vtldComplete a.core p)).core a).vec
        = (s.core a).vec.tableLoaded p f r (setBit (s.core a).vec.fault 1) := by
      rw [s.modDie_core, ended, hb]
      exact congrArg Core.vec (Die.fault_vec (Die.modCore_same ..) ftBad)
    rw [vec, Vec.tableLoaded_table]
    exact ⟨Vec.tableLoaded_run .., parts, fun _ => bit_setBit_same _ (by decide), nofun⟩

end Sys2Proof.Machine

/-! # Results that are stored (O18) -/

namespace Sys2Proof.Machine

/-! ### Byte writes (R6, R43, R211) -/

/-- Byte i of a number in little-endian order. -/
theorem leBytes_getD (n : Nat) : ∀ (x i : Nat), i < n → (leBytes n x).getD i 0 = BitVec.ofNat 8 (x / 2 ^ (8 * i)) := by
  induction n with
  | zero => intro x i h; omega
  | succ n ih =>
    intro x i h
    cases i with
    | zero => simp [leBytes]
    | succ i =>
      rw [leBytes, List.getD_cons_succ, ih _ _ (by omega), Nat.div_div_eq_div_mul, show 256 = 2 ^ 8 from rfl, ← Nat.pow_add,
        show 8 * (i + 1) = 8 + 8 * i by omega]

/-- The writes of the bytes of a run from an address. -/
def runWrites (a : Nat) (mk full : Bool) (bs : Bytes) : List ByteWrite := bs.mapIdx (fun i b => ⟨a + i, b, mk, full⟩)

theorem runWrites_cons (a : Nat) (mk full : Bool) (b : Byte) (bs : Bytes) :
    runWrites a mk full (b :: bs) = ⟨a, b, mk, full⟩ :: runWrites (a + 1) mk full bs := by
  simp only [runWrites, List.mapIdx_cons, Nat.add_zero, Nat.add_assoc, Nat.add_comm 1]

theorem foldl_runWrites (mk full : Bool) (bs : Bytes) (a : Nat) (m : Mem) :
    (runWrites a mk full bs).foldl (fun m w => Cells.set m w.a w.v) m = Cells.setN m a bs := by
  induction bs generalizing a m with
  | nil => rfl
  | cons b bs ih => rw [runWrites_cons, List.foldl_cons, ih]; rfl

theorem leNat_lt : ∀ bs : Bytes, leNat bs < 256 ^ bs.length
  | [] => by decide
  | b :: bs => by
    have hb := b.isLt
    have := leNat_lt bs
    simp only [leNat, List.length_cons, Nat.pow_succ]
    omega

/-- One element is one group's write. -/
theorem elemWrites_one (k : Core) (base g : Nat) (f : Fmt) (e c : Nat) (pz : Bool) :
    elemWrites k base g f [(e, c, pz)] = groupWrite k base g f (e / g) (e % g / groupLen f) [(e, c, pz)] := by
  simp [elemWrites, groupOf, List.eraseDups_cons]

/-- An FP32 code takes the whole of its four bytes. -/
theorem packInto_fp32 {v c : Nat} (hv : v < 2 ^ 32) (hc : c < 2 ^ 32) : packInto .fp32 v 0 c = c := by
  simp only [packInto, Fmt.width, Nat.pow_zero, Nat.div_one, Nat.mul_one, Nat.mod_eq_of_lt hv, Nat.mod_eq_of_lt hc, Nat.sub_self,
    Nat.zero_add]

/-- One FP32 element takes its four bytes, whole, whatever stood there. -/
theorem elemWrites_fp32 (k : Core) (base e : Nat) {g c : Nat} (pz : Bool) (hg : 0 < g) (hc : c < 2 ^ 32) :
    elemWrites k base g .fp32 [(e, c, pz)] = runWrites (base + 4 * e) pz true (leBytes 4 c) := by
  have place : base + e / g * (4 * g) + 4 * (e % g) = base + 4 * e := by
    have h := Nat.div_add_mod e g
    rw [Nat.mul_left_comm, Nat.mul_comm (e / g)]
    omega
  have old : leNat (k.readScratch (base + 4 * e) 4) < 2 ^ 32 := by
    simpa [Core.readScratch] using leNat_lt (k.readScratch (base + 4 * e) 4)
  have inRow : ¬g ≤ e % g := Nat.not_le.2 (Nat.mod_lt e hg)
  rw [elemWrites_one]
  simp [groupWrite, groupLen, elemPlace, rowBytes, padGroup, place, packInto_fp32 old hc, inRow, runWrites]

/-- A result of one FP32 element puts its code's bytes at its element. -/
theorem VecWrite.apply_fp32 (k : Core) {w : VecWrite} {e : ElemWrite} (he : w.elems = [e]) (hs : w.scale = []) (hf : e.into.fmt = 0)
    (hg : 0 < e.into.g) : (VecWrite.apply k w).scratch = k.scratch.setN (e.into.base + 4 * e.ix) (leBytes 4 e.code.toNat) := by
  have one : writesOf k w.elems = runWrites (e.into.base + 4 * e.ix) e.pz true (leBytes 4 e.code.toNat) := by
    rw [he, ← elemWrites_fp32 k e.into.base e.ix e.pz hg e.code.isLt]
    simp [writesOf, List.eraseDups_cons, hf, Fmt.ofCode]
  rw [VecWrite.apply, one, hs, List.map_nil, List.append_nil]
  exact foldl_runWrites ..

theorem Cells.get_setN_leBytes (m : Mem) (a n v x : Nat) (h : m.wf = true) :
    (m.setN a (leBytes n v)).get x = if a ≤ x ∧ x < a + n then BitVec.ofNat 8 (v / 2 ^ (8 * (x - a))) else m.get x := by
  rw [Cells.get_setN _ m a x h, leBytes_length]
  refine if_ctx_congr Iff.rfl (fun hx => ?_) (fun _ => rfl)
  exact leBytes_getD n v (x - a) (by omega)

/-! ### The results that are due -/

/-- Without summary writes on their way none lands. -/
theorem Die.landSummaries_none {d : Die} {c : CoreIx} (t : Option Nat) (h : d.cores[c].vec.sumQ = []) : d.landSummaries c t = d := by
  have kept : ∀ f : SummaryWrite → Bool,
      d.modCore c (fun k => { k with vec := { k.vec with sumQ := k.vec.sumQ.filter f } }) = d := fun f => by
    refine d.modCore_self c _ ?_
    simp only [h, List.filter_nil]
    rw [← h]
  have still : ∀ l : List (Fin 8), l.foldl (fun d r => d.landSummary c [] r) d = d := fun l => by
    induction l with
    | nil => rfl
    | cons r l ih => exact ih
  simp only [Die.landSummaries, kept, h, List.filter_nil, still, List.isEmpty_nil, if_true]

/-- A core's one result, once it is due, is applied. -/
def Core.resultApplied (k : Core) (w : VecWrite) : Core := VecWrite.apply { k with vec := { k.vec with writes := [] } } w

/-- Whichever port it came from, the one result that is due is applied. -/
theorem Die.vecWrites_one {d : Die} {c : CoreIx} {t : Nat} {w : VecWrite} (h : d.cores[c].vec.writes = [w]) (ht : w.due ≤ t) :
    d.vecWrites c t = d.modCore c (·.resultApplied w) := by
  refine d.modCore_congr c _ _ ?_
  generalize d.cores[c] = k at h
  cases hp : w.port <;> simp [h, ht, hp, Nat.not_lt.2 ht, Core.resultApplied]

theorem Die.vecResultWrite_one {d : Die} {c : CoreIx} {w : VecWrite} (hd : d.heldNow = false) (h : d.cores[c].vec.writes = [w])
    (hq : d.cores[c].vec.sumQ = []) (ht : w.due ≤ d.clock.rc) : d.vecResultWrite c = d.modCore c (·.resultApplied w) := by
  have now : d.runNow = some d.clock.rc := by simp [Die.runNow, hd]
  have noSums : ((d.modCore c (·.resultApplied w)).cores[c]).vec.sumQ = [] :=
    (congrArg (·.vec.sumQ) (d.modCore_same c (·.resultApplied w))).trans hq
  simp only [Die.vecResultWrite, now, Die.vecWrites_one h ht, Die.landSummaries_none _ noSums]

/-- Settles O18: the one result that is due is the only change of its core's scratchpad. -/
theorem vectorResultStored : Obligations.VectorResultStored := by
  unfold Obligations.VectorResultStored
  intro s a w e hr hh hwf hw hq he hs ht hf hg
  refine ⟨_, onDie_core hr (Die.vecResultWrite_one hh hw hq ht), onlyCore_modCore s a _, ?_, fun x => ?_⟩ <;> rw [s.modCore_same a]
  · rfl
  · rw [Core.resultApplied, VecWrite.apply_fp32 _ he hs hf hg, Cells.get_setN_leBytes _ _ _ _ _ hwf]

end Sys2Proof.Machine

/-! # Loads and passes that are complete (O14)

The words of a pass stand at places of their own (R81), so that each sum meets the word that stood there before the pass. -/

namespace Sys2Proof.Machine

/-! ### Loads (R73) -/

/-- A load whose bytes are all in makes no further beat, and is finished in or after its last beat's cycle. -/
theorem Die.wloadComplete_full {d : Die} {c : CoreIx} {l : TileLoad} {start : Nat} {raw : Bytes} {pz : Bool}
    (h : d.cores[c].mtx.shadow = .filling l start raw pz) (hb : 256 * (l.beats - 1) < raw.length)
    (hd : d.dueRun (start + l.beats - 1) = true) : d.wloadComplete c = d.modCore c Core.finishLoad := by
  have late : (raw.length == 256 * (start + l.beats - 1 - start)) = false := beq_eq_false_iff_ne.2 (by omega)
  have noBeat : d.weightBeat c (start + l.beats - 1) = d := by
    simp only [Die.weightBeat, h, late, Bool.and_false, Bool.false_and, Bool.false_eq_true, if_false]
  simp only [Die.wloadComplete, h, hd, if_true, noBeat]

theorem Core.finishLoad_full {k : Core} {l : TileLoad} {start : Nat} {raw : Bytes} {pz : Bool}
    (h : k.mtx.shadow = .filling l start raw pz) (hl : raw.length = l.total) :
    k.finishLoad = { k with mtx := { k.mtx with shadow := .complete (l.tile raw pz) } } := by
  simp only [Core.finishLoad, h, hl, Nat.le_refl, if_true]

theorem wloadComplete_works {s : State} {a : CoreRef} {l : TileLoad} {start : Nat} {raw : Bytes} {pz : Bool}
    (hr : s.runs a.die = true) (h : (s.core a).mtx.shadow = .filling l start raw pz) (hl : raw.length = l.total)
    (hb : 256 * (l.beats - 1) < raw.length) (hd : s.dies[a.die].dueRun (start + l.beats - 1) = true) :
    ∃ t, exec (.wloadComplete a) s = .next t ∧ OnlyMtx a s t
      ∧ (t.core a).mtx = { (s.core a).mtx with shadow := .complete (l.tile raw pz) } := by
  have core := (s.modCore_same a Core.finishLoad).trans (Core.finishLoad_full h hl)
  exact ⟨_, onDie_core hr (Die.wloadComplete_full h hb hd), ⟨onlyCore_modCore s a _, by rw [core]⟩, congrArg Core.mtx core⟩

/-! ### Words that are written in turn (R62, R63) -/

/-- One word of a pass at its place, and whether it or one before it saturated. -/
def Pass.writeWord (p : Pass) (x : Cells 32 × Bool) (e : Nat × U32) : Cells 32 × Bool :=
  let v := accWord p (Cells.get x.1 e.1) e.2
  (Cells.set x.1 e.1 v.1, x.2 || v.2)

section
variable (p : Pass) {l : List (Nat × U32)} {x : Cells 32 × Bool}

theorem Pass.writeWords_sat (h : x.2 = true) : (l.foldl p.writeWord x).2 = true := by
  induction l generalizing x with
  | nil => exact h
  | cons e l ih => exact ih (by simp [Pass.writeWord, h])

/-- A place that no word names keeps its word. -/
theorem Pass.writeWords_other {key : Nat} (hw : x.1.wf = true) (h : ∀ e ∈ l, e.1 ≠ key) :
    Cells.get (l.foldl p.writeWord x).1 key = Cells.get x.1 key := by
  induction l generalizing x with
  | nil => rfl
  | cons e l ih =>
    obtain ⟨he, hl⟩ := List.forall_mem_cons.1 h
    rw [List.foldl_cons, ih (Cells.wf_set x.1 _ _ hw) hl]
    exact (Cells.get_set x.1 _ _ _ hw).trans (if_neg he.symm)

/-- Where no two words share a place, each place takes what its word and the word that stood there make. -/
theorem Pass.writeWords_own {e : Nat × U32} (hw : x.1.wf = true) (hp : l.Pairwise (fun e e' => e.1 ≠ e'.1)) (h : e ∈ l) :
    Cells.get (l.foldl p.writeWord x).1 e.1 = (accWord p (Cells.get x.1 e.1) e.2).1
      ∧ ((accWord p (Cells.get x.1 e.1) e.2).2 = true → (l.foldl p.writeWord x).2 = true) := by
  induction l generalizing x with
  | nil => cases h
  | cons e' l ih =>
    obtain ⟨hd, hp⟩ := List.pairwise_cons.1 hp
    have hw' := Cells.wf_set x.1 e'.1 (accWord p (Cells.get x.1 e'.1) e'.2).1 hw
    rw [List.foldl_cons]
    obtain rfl | h := List.mem_cons.1 h
    · refine ⟨?_, fun hs => p.writeWords_sat (by simp [Pass.writeWord, hs])⟩
      rw [p.writeWords_other hw' (fun y hy => (hd y hy).symm)]
      exact (Cells.get_set x.1 _ _ _ hw).trans (if_pos rfl)
    · have own := ih (x := p.writeWord x e') hw' hp h
      rwa [show Cells.get (p.writeWord x e').1 e.1 = Cells.get x.1 e.1 from
        (Cells.get_set x.1 _ _ _ hw).trans (if_neg (hd e h).symm)] at own

end

/-! ### Places of a pass (R80, R81) -/

/-- A pass all of whose vectors have entered, each with a word per column of its tile of 128 or 256 columns, and whose target
takes them. -/
structure Pass.Full (p : Pass) : Prop where
  entered : p.sums.length = p.vecs
  cols : p.tile.cols = 128 ∨ p.tile.cols = 256
  takes : p.vecs * p.tile.cols ≤ (if p.dst = 2 then 256 else 128) * 128
  wide : ∀ x ∈ p.sums, x.words.length = p.tile.cols

/-- The key of word j of vector m in the accumulators. -/
def Pass.key (p : Pass) (m j : Nat) : Nat := accKey p.array.val (p.place m j).1 (p.place m j).2

theorem accKey_inj {a r k r' k' : Nat} (hk : k < 128) (hk' : k' < 128) (h : accKey a r k = accKey a r' k') : r = r' ∧ k = k' := by
  unfold accKey at h
  omega

theorem Pass.place_col (p : Pass) (m : Nat) {j : Nat} (h : j < 256) : (p.place m j).2 < 128 := by
  unfold Pass.place
  dsimp only
  split
  · assumption
  · exact Nat.sub_lt_left_of_lt_add (by omega) h

/-- On a tile of 256 columns the vectors of a pass fill no more than half the rows of its target. -/
theorem Pass.Full.rows {p : Pass} (h : p.Full) (hc : ¬p.tile.cols ≤ 128) : p.vecs ≤ (if p.dst = 2 then 256 else 128) / 2 := by
  have ht := h.takes
  rw [h.cols.resolve_left (by omega)] at ht
  omega

/-- Columns of the left half and of the right half of a wide tile fall into different rows, so every word has its own place. -/
theorem Pass.Full.key_inj {p : Pass} (h : p.Full) {m m' j j' : Nat} (hm : m < p.vecs) (hm' : m' < p.vecs) (hj : j < p.tile.cols)
    (hj' : j' < p.tile.cols) (e : p.key m j = p.key m' j') : m = m' ∧ j = j' := by
  have hc := h.cols
  have rows := h.rows
  obtain ⟨hr, hk⟩ := accKey_inj (p.place_col m (by omega)) (p.place_col m' (by omega)) e
  by_cases l : j < 128 <;> by_cases l' : j' < 128 <;> simp only [Pass.place, l, l', if_true, if_false] at hr hk <;> omega

/-! ### The words of a pass -/

theorem mem_indexed {α : Type} {l : List α} {e : Nat × α} : e ∈ l.mapIdx (fun i x => (i, x)) ↔ l[e.1]? = some e.2 := by
  simp only [List.mem_mapIdx, List.getElem?_eq_some_iff, Prod.ext_iff]
  constructor
  · rintro ⟨i, hi, rfl, he⟩
    exact ⟨hi, he⟩
  · rintro ⟨hi, he⟩
    exact ⟨e.1, hi, rfl, he⟩

theorem pairwise_indexed {α : Type} (l : List α) : (l.mapIdx (fun i x => (i, x))).Pairwise (fun e e' => e.1 ≠ e'.1) := by
  simp only [List.pairwise_iff_getElem, List.getElem_mapIdx]
  intro i j hi hj h
  exact h.ne

/-- The words of a numbered vector of a pass with their keys. -/
def Pass.wordsOf (p : Pass) (v : Nat × Sums) : List (Nat × U32) :=
  (v.2.words.mapIdx (fun j w => (j, w))).map (fun e => (p.key v.1 e.1, e.2))

/-- The words of a pass with their keys, vector by vector. -/
def Pass.words (p : Pass) : List (Nat × U32) := (p.sums.mapIdx (fun m x => (m, x))).flatMap p.wordsOf

theorem Pass.writeVectors_eq (p : Pass) (x : Cells 32 × Bool) :
    (p.sums.mapIdx (fun m x => (m, x))).foldl p.writeVector x = p.words.foldl p.writeWord x := by
  have one : p.writeVector = fun x v => (p.wordsOf v).foldl p.writeWord x := by
    funext x v
    rw [Pass.wordsOf, List.foldl_map]
    rfl
  rw [Pass.words, List.foldl_flatMap, one]

theorem Pass.mem_wordsOf {p : Pass} {v : Nat × Sums} {e : Nat × U32} :
    e ∈ p.wordsOf v ↔ ∃ j, v.2.words[j]? = some e.2 ∧ p.key v.1 j = e.1 := by
  simp only [Pass.wordsOf, List.mem_map, mem_indexed, Prod.ext_iff, Prod.exists]
  constructor
  · rintro ⟨j, w, hw, hk, rfl⟩
    exact ⟨j, hw, hk⟩
  · rintro ⟨j, hw, hk⟩
    exact ⟨j, e.2, hw, hk, rfl⟩

/-- Each sum is written at its place, and nothing else is. -/
theorem Pass.mem_words {p : Pass} {e : Nat × U32} :
    e ∈ p.words ↔ ∃ m x j, p.sums[m]? = some x ∧ x.words[j]? = some e.2 ∧ p.key m j = e.1 := by
  simp only [Pass.words, List.mem_flatMap, mem_indexed, Pass.mem_wordsOf, Prod.exists]
  exact exists₂_congr fun m x => by simp only [exists_and_left]

theorem Pass.Full.vec_lt {p : Pass} (h : p.Full) {m : Nat} {x : Sums} (hx : p.sums[m]? = some x) : m < p.vecs :=
  h.entered ▸ (List.getElem?_eq_some_iff.1 hx).1

theorem Pass.Full.col_lt {p : Pass} (h : p.Full) {m j : Nat} {x : Sums} {w : U32} (hx : p.sums[m]? = some x)
    (hw : x.words[j]? = some w) : j < p.tile.cols :=
  h.wide x (List.mem_of_getElem? hx) ▸ (List.getElem?_eq_some_iff.1 hw).1

/-- No two words of a pass share a place. -/
theorem Pass.Full.words_pairwise {p : Pass} (h : p.Full) : p.words.Pairwise (fun e e' => e.1 ≠ e'.1) := by
  refine List.pairwise_flatMap.2 ⟨fun v hv => ?_, ?_⟩
  · rw [mem_indexed] at hv
    refine List.pairwise_map.2 ((pairwise_indexed v.2.words).imp_of_mem fun he he' hne heq => ?_)
    rw [mem_indexed] at he he'
    exact hne (h.key_inj (h.vec_lt hv) (h.vec_lt hv) (h.col_lt hv he) (h.col_lt hv he') heq).2
  · refine (pairwise_indexed p.sums).imp_of_mem fun hv hv' hne e he e' he' heq => ?_
    rw [mem_indexed] at hv hv'
    obtain ⟨j, hj, hk⟩ := Pass.mem_wordsOf.1 he
    obtain ⟨j', hj', hk'⟩ := Pass.mem_wordsOf.1 he'
    exact hne (h.key_inj (h.vec_lt hv) (h.vec_lt hv') (h.col_lt hv hj) (h.col_lt hv' hj') (by rw [hk, hk', heq])).1

/-! ### One word (R62, R63) -/

theorem satInt_eq (x : Int) :
    satInt x = (max (-2147483648) (min 2147483647 x), decide (x < -2147483648 ∨ 2147483647 < x)) := by
  unfold satInt
  dsimp only
  split_ifs with h h'
  · rw [min_eq_right (by omega), max_eq_left h.le, decide_eq_true (.inl h)]
  · rw [min_eq_left h'.le, max_eq_right (by omega), decide_eq_true (.inr h')]
  · rw [min_eq_right (by omega), max_eq_right (by omega), decide_eq_false (by omega)]

section
variable {p : Pass} (old w : U32)

theorem accWord_store (h : p.acc = false) : accWord p old w = (w, false) := by simp [accWord, h]

theorem accWord_int32 (h : p.acc = true) (hk : p.kind = .int32) :
    accWord p old w = (BitVec.ofInt 32 (max (-2147483648) (min 2147483647 (old.toInt + w.toInt))),
      decide (old.toInt + w.toInt < -2147483648 ∨ 2147483647 < old.toInt + w.toInt)) := by
  simp only [accWord, h, hk, if_true, satInt_eq, u32OfInt]

theorem accWord_fp (h : p.acc = true) (hk : p.kind ≠ .int32) :
    accWord p old w = (toF (roundF p.ftz ((fp32 old).add (fp32 w))), false) := by
  rw [accWord, if_pos h]
  split
  · contradiction
  · rfl

end

/-! ### A pass that is written (R79, R83, R90) -/

/-- A core's accumulators with the words of a pass, and whether one saturated. -/
def Mtx.passWords (x : Mtx) (p : Pass) : Cells 32 × Bool := p.words.foldl p.writeWord (x.acc, false)

/-- Halves with those of a list closed. -/
def closeHalves (l : List (Fin 8)) (hs : Vector Half 8) : Vector Half 8 :=
  l.foldl (fun hs h => vupd hs h (fun x => { x with st := .closed })) hs

/-- A core whose pass is written. -/
def Core.passed (k : Core) (p : Pass) : Core :=
  let sat := if (k.mtx.passWords p).2 || p.sums.any (·.sat) then setBit k.fault accSat.bit else k.fault
  { k with
    mtx := { k.mtx with
      acc := (k.mtx.passWords p).1, rowPz := (p.sums.mapIdx (fun m x => (m, x))).foldl p.markVector k.mtx.rowPz,
      passes := k.mtx.passes.erase p,
      halves := if p.last then closeHalves (halvesOf p.array p.dst) k.mtx.halves else k.mtx.halves }
    fault := if p.sums.any (·.poison) then setBit sat mtxPoison.bit else sat }

theorem Die.fault_core_if {d : Die} {c : CoreIx} {k : Core} (h : d.cores[c] = k) (x : Bool) (b : FBit) :
    (if x then d.fault (.core c) b else d).cores[c] = { k with fault := if x then setBit k.fault b.bit else k.fault } := by
  cases x
  · exact h
  · exact Die.fault_core h b

theorem Die.finishPass_core (d : Die) (c : CoreIx) (p : Pass) : (d.finishPass c p).cores[c] = d.cores[c].passed p := by
  unfold Die.finishPass
  dsimp only
  rw [p.writeVectors_eq]
  exact Die.fault_core_if (Die.fault_core_if (Die.modCore_same ..) _ accSat) _ mtxPoison

/-- The one pass of a core, its vectors all in and its last cycle over, is written. -/
theorem Die.passComplete_one {d : Die} {c : CoreIx} {p : Pass} (hd : d.heldNow = false) (h : d.cores[c].mtx.passes = [p])
    (hs : p.sums.length = p.vecs) (ht : p.doneAt ≤ d.clock.rc) : d.passComplete c = d.finishPass c p := by
  simp only [Die.passComplete, Die.passesDone, hd, h]
  simp [hs, ht]

theorem closeHalves_closed (l : List (Fin 8)) (hs : Vector Half 8) {h : Fin 8} (hc : h ∈ l ∨ hs[h].st = .closed) :
    (closeHalves l hs)[h].st = .closed := by
  induction l generalizing hs with
  | nil => exact hc.resolve_left List.not_mem_nil
  | cons i l ih =>
    refine ih _ ?_
    rw [List.mem_cons] at hc
    rw [vupd_get]
    by_cases e : h = i
    · exact .inr (by rw [if_pos e])
    · rw [if_neg e]
      exact hc.imp_left (·.resolve_left e)

theorem Core.passed_half (k : Core) (p : Pass) {h : Fin 8} (hm : h ∈ halvesOf p.array p.dst) :
    (k.passed p).mtx.halves[h].st = if p.last then .closed else k.mtx.halves[h].st := by
  cases hl : p.last with
  | false => simp [Core.passed, hl]
  | true =>
    simp only [Core.passed, hl, if_true]
    exact closeHalves_closed _ _ (.inl hm)

section
variable {k : Core} {p : Pass}

theorem Core.passed_other (hw : k.mtx.acc.wf = true) (hp : p.Full) {key : Nat}
    (h : ∀ m j, m < p.vecs → j < p.tile.cols → key ≠ p.key m j) : Cells.get (k.passed p).mtx.acc key = Cells.get k.mtx.acc key := by
  refine p.writeWords_other hw fun e he => ?_
  obtain ⟨m, x, j, hx, hj, hk⟩ := Pass.mem_words.1 he
  rw [← hk]
  exact (h m j (hp.vec_lt hx) (hp.col_lt hx hj)).symm

theorem Core.passed_word (hw : k.mtx.acc.wf = true) (hp : p.Full) {m j : Nat} {x : Sums} {w : U32} (hx : p.sums[m]? = some x)
    (hj : x.words[j]? = some w) :
    Cells.get (k.passed p).mtx.acc (p.key m j) = (accWord p (Cells.get k.mtx.acc (p.key m j)) w).1
      ∧ ((accWord p (Cells.get k.mtx.acc (p.key m j)) w).2 = true → bit (k.passed p).fault 1 = true) := by
  obtain ⟨word, sat⟩ := p.writeWords_own (x := (k.mtx.acc, false)) hw hp.words_pairwise
    (Pass.mem_words.2 ⟨m, x, j, hx, hj, rfl⟩ : (p.key m j, w) ∈ p.words)
  refine ⟨word, fun hs => ?_⟩
  have hsat : (k.mtx.passWords p).2 = true := sat hs
  have raised : bit (setBit k.fault accSat.bit) 1 = true := bit_setBit_same _ (by decide)
  simp only [Core.passed, hsat, Bool.true_or, if_true]
  split
  · exact bit_setBit_of_bit _ raised
  · exact raised

end

/-- Settles O14: a full load ends without a further beat, and the words of a pass have places of their own, so that each is added
to the word that stood there before the pass. -/
theorem matrixWorkCompletes : Obligations.MatrixWorkCompletes := by
  unfold Obligations.MatrixWorkCompletes
  refine ⟨fun s a l start raw pz hr h hl hb hd => wloadComplete_works hr h hl hb hd, ?_⟩
  intro s a p hr hp hs hc hv hw ht hh hwf
  have full : p.Full := ⟨hs, hc, hv, hw⟩
  have core : (s.modDie a.die (Die.passComplete a.core)).core a = (s.core a).passed p := by
    rw [s.modDie_core, Die.passComplete_one hh hp hs ht]
    exact Die.finishPass_core ..
  refine ⟨_, onDie_runs (Die.passComplete a.core) hr, onlyDie_modDie s a.die _, ?_⟩
  rw [core]
  refine ⟨?_, rfl, rfl, fun m j x w hx hj => ?_, fun key h => Core.passed_other hwf full h, fun h hm => Core.passed_half _ p hm⟩
  · simp [Core.passed, hp]
  · obtain ⟨word, sat⟩ := Core.passed_word hwf full hx hj
    refine ⟨fun h => ?_, fun h hk => ?_, fun h hk => ?_⟩
    · rw [accWord_store _ _ h] at word
      exact word
    · rw [accWord_int32 _ _ h hk] at word sat
      exact ⟨word, fun hs => sat (decide_eq_true hs)⟩
    · rw [accWord_fp _ _ h hk] at word
      exact word

end Sys2Proof.Machine

/-! # Checks of word slots (O10)

An illegal word slot is refused. A legal one that is not a wait issues where it is ready, and else waits under a hold request. -/

namespace Sys2Proof.Machine

/-! ### Slots that are legal (R86, R88, R161) -/

/-- A word-slot command is the check of its operation on its core. -/
theorem exec_slotOf {i : Instr} {a : CoreRef} {b : Fin 8} {op : SlotOp} (h : slotOf i = some (a, b, op)) (s : State) :
    exec i s = slotOut s a b op := by
  unfold slotOf at h
  split at h <;> cases h <;> rfl

/-- The operations that wait for something of their own: a counter, a word, or a message. -/
def isWait : SlotOp → Bool
  | .wait _ | .pwait _ | .qsel _ => true
  | _ => false

theorem isWait_eq_false {op : SlotOp} (hw : ∀ f, op ≠ .wait f) (hp : ∀ f, op ≠ .pwait f) (hq : ∀ f, op ≠ .qsel f) :
    isWait op = false := by
  unfold isWait
  split
  · exact absurd rfl (hw _)
  · exact absurd rfl (hp _)
  · exact absurd rfl (hq _)
  · rfl

section
variable {s : State} {a : CoreRef} {b : Fin 8} {op : SlotOp}

theorem Die.slotOp_legal (hl : slotCauses s a op = []) (hw : isWait op = false) :
    Die.slotOp a.core b op s.dies[a.die]
      = if s.dies[a.die].slotReady a.core (slotNow s a b op) then s.dies[a.die].issueSlot a.core (slotNow s a b op)
        else (s.dies[a.die].queueChecked a.core (slotNow s a b op)).requestHold a.core (slotNow s a b op) := by
  have hn : illegalCauses (s.dies[a.die].designator a.core) s.dies[a.die].cores[a.core] s.dies[a.die].cores[a.core].ctl.s op = [] := hl
  simp only [Die.slotOp, hn, lowestCause, List.foldl_nil]
  cases op
  case wait => cases hw
  case pwait => cases hw
  case qsel => cases hw
  all_goals rfl

theorem slotOut_ready (h : Issues s a b op) (hw : isWait op = false) :
    slotOut s a b op = .next (s.modDie a.die (fun d => d.issueSlot a.core (slotNow s a b op))) := by
  obtain ⟨hr, hl, hy⟩ := h
  rw [slotOut, onDie_runs _ hr]
  exact congrArg _ (s.modDie_congr _ _ _ ((Die.slotOp_legal hl hw).trans (if_pos hy)))

theorem slotOut_unready (hr : s.runs a.die = true) (hl : slotCauses s a op = []) (hn : ¬Issues s a b op) (hw : isWait op = false) :
    slotOut s a b op
      = .next (s.modDie a.die (fun d => (d.queueChecked a.core (slotNow s a b op)).requestHold a.core (slotNow s a b op))) := by
  rw [slotOut, onDie_runs _ hr]
  exact congrArg _ (s.modDie_congr _ _ _ ((Die.slotOp_legal hl hw).trans (if_neg fun hy => hn ⟨hr, hl, hy⟩)))

end

/-- The changed die itself, by its index. -/
theorem State.modDie_die (s : State) (n : DieIx) (f : Die → Die) : (s.modDie n f).dies[n] = f s.dies[n] := s.modDie_same n f

/-! ### Slots that are refused (R151, R154) -/

/-- Of several causes one is the lowest. -/
theorem lowestCause_some {cs : List Nat} (h : cs ≠ []) : ∃ c, lowestCause cs = some c := by
  obtain ⟨x, cs, rfl⟩ := List.exists_cons_of_ne_nil h
  show ∃ c, cs.foldl _ (some x) = some c
  induction cs generalizing x with
  | nil => exact ⟨x, rfl⟩
  | cons y cs ih => exact ih (min x y) (List.cons_ne_nil _ _)

/-- A core of which a slot is refused in a frame. -/
def Core.refused (k : Core) (frame : BitVec 16) (slot cause : Nat) (addr : BitVec 16) : Core :=
  { k with ctl := { k.ctl.refuse frame slot cause addr with fault := setBit k.ctl.fault illSlot.bit } }

/-- A refusal counts, captures and sets a fault bit in its core, notes that bit for its cycle, and may add an event. -/
theorem Die.refuseSlot_only (d : Die) (c : CoreIx) (slot cause : Nat) (addr : BitVec 16) :
    { d.refuseSlot c slot cause addr with evq := d.evq, evLost := d.evLost, setNow := d.setNow }
      = d.modCore c (·.refused d.frame16 slot cause addr) := by
  have keeps (k : Ctl) : (k.refuse d.frame16 slot cause addr).fault = k.fault := by
    unfold Ctl.refuse
    dsimp only
    split <;> rfl
  unfold Die.refuseSlot
  simp only [Die.setFault_eq, Die.modFault, Die.modCore_modCore, keeps]
  split
  · exact congrArg (fun e : Die => { e with setNow := d.setNow }) (Die.enqueue_only ..)
  · rfl

theorem refused_refuseSlot (s : State) (a : CoreRef) (slot cause : Nat) :
    Refused a slot cause s (s.modDie a.die fun d => d.refuseSlot a.core slot cause (s.core a).ctl.pc) := by
  have only := s.dies[a.die].refuseSlot_only a.core slot cause (s.core a).ctl.pc
  have die := s.modDie_die a.die fun d => d.refuseSlot a.core slot cause (s.core a).ctl.pc
  have cores := congrArg Die.cores only
  dsimp only at cores
  have core : (s.modDie a.die fun d => d.refuseSlot a.core slot cause (s.core a).ctl.pc).core a
      = (s.core a).refused s.dies[a.die].frame16 slot cause (s.core a).ctl.pc := by
    rw [s.modDie_core, cores]
    exact s.dies[a.die].modCore_same a.core _
  refine ⟨⟨onlyDie_modDie s a.die _, ?_, fun c hc => ?_, ?_, ?_⟩, ?_, ?_⟩
  · rw [die]
    exact congrArg (fun e : Die => { e with cores := s.dies[a.die].cores }) only
  · rw [die, cores]
    exact s.dies[a.die].modCore_other a.core c _ hc
  all_goals rw [core]
  · rfl
  · unfold Core.refused Ctl.refuse
    dsimp only
    split <;> rfl
  · rfl
  · unfold Core.refused Ctl.refuse
    dsimp only
    split <;> rfl

/-- An illegal slot is refused. -/
theorem slotOut_refused {s : State} {a : CoreRef} {b : Fin 8} {op : SlotOp} (hr : s.runs a.die = true) (hc : slotCauses s a op ≠ []) :
    ∃ t cause, slotOut s a b op = .next t ∧ Refused a b.val cause s t := by
  obtain ⟨cause, hl⟩ := lowestCause_some hc
  have refuses : Die.slotOp a.core b op s.dies[a.die] = s.dies[a.die].refuseSlot a.core b.val cause (s.core a).ctl.pc := by
    have hl : lowestCause (illegalCauses (s.dies[a.die].designator a.core) s.dies[a.die].cores[a.core]
      s.dies[a.die].cores[a.core].ctl.s op) = some cause := hl
    simp only [Die.slotOp, hl]
    rfl
  refine ⟨_, cause, ?_, refused_refuseSlot s a b.val cause⟩
  rw [slotOut, onDie_runs _ hr]
  exact congrArg _ (s.modDie_congr _ _ _ refuses)

/-! ### Slots that wait (R88, R191) -/

/-- The order of the checked slots aside, one that waits is added to them. -/
theorem insertChecked_perm (x : Checked) (l : List Checked) : (insertChecked x l).Perm (x :: l) := by
  induction l with
  | nil => exact .refl _
  | cons y l ih =>
    unfold insertChecked
    split
    · exact .refl _
    · exact (ih.cons y).trans (.swap x y l)

/-- Settles O10: the slot is queued, and its die requests a hold. -/
theorem unreadySlotsRequestHold : Obligations.UnreadySlotsRequestHold := by
  unfold Obligations.UnreadySlotsRequestHold
  intro i a b op s hi hr hl hn hw hp hq
  have die := s.modDie_die a.die fun d => (d.queueChecked a.core (slotNow s a b op)).requestHold a.core (slotNow s a b op)
  have core := (s.modDie_core a fun d => (d.queueChecked a.core (slotNow s a b op)).requestHold a.core (slotNow s a b op)).trans
    (s.dies[a.die].modCore_same a.core _)
  refine ⟨_, (exec_slotOf hi s).trans (slotOut_unready hr hl hn (isWait_eq_false hw hp hq)), onlyDie_modDie s a.die _, ?_⟩
  rw [core, die]
  exact ⟨rfl, fun c hc => s.dies[a.die].modCore_other a.core c _ hc, rfl, rfl, rfl, insertChecked_perm _ _⟩

end Sys2Proof.Machine

/-! # The issue of loads and passes (O11 to O13) -/

namespace Sys2Proof.Machine

/-! ### Slots of the matrix arrays -/

theorem exec_wload_ready {s : State} {a : CoreRef} {f : WloadF} (h : Issues s a 1 (.wload f)) :
    exec (.wload a f) s = .next (s.modCore a (·.issueWload (runCycle s a) f)) :=
  (slotOut_ready h rfl).trans (congrArg _ (s.modDie_congr _ _ (·.modCore a.core (·.issueWload (runCycle s a) f)) rfl))

theorem exec_mpass_ready {s : State} {a : CoreRef} {f : MpassF} (h : Issues s a 1 (.mpass f)) :
    exec (.mpass a f) s = .next (s.modCore a (·.issueMpass (runCycle s a) f)) :=
  (slotOut_ready h rfl).trans (congrArg _ (s.modDie_congr _ _ (·.modCore a.core (·.issueMpass (runCycle s a) f)) rfl))

/-- A change of a core that comes to a change of its matrix arrays. -/
theorem onlyMtx_modCore {s : State} {a : CoreRef} (f : Core → Core) {m : Mtx} (h : f (s.core a) = { s.core a with mtx := m }) :
    OnlyMtx a s (s.modCore a f) ∧ ((s.modCore a f).core a).mtx = m := by
  have core := (s.modCore_same a f).trans h
  exact ⟨⟨onlyCore_modCore s a f, by rw [core]⟩, congrArg Core.mtx core⟩

/-! ### Weight loads (R71, R73, R212) -/

/-- Where a load goes: into an empty shadow, or into the queue behind one that is not. -/
def Mtx.load (m : Mtx) (t : Nat) (l : TileLoad) : Mtx :=
  if m.shadow = .empty then { m with shadow := .filling l t [] false } else { m with queue := some l }

theorem Core.issueWload_eq (k : Core) (t : Nat) (f : WloadF) :
    k.issueWload t f = { k with mtx := k.mtx.load t (k.tileLoad f) } := by
  cases h : k.mtx.shadow <;> simp [Core.issueWload, Mtx.load, h]

/-- Settles O11: what a load goes into is `Mtx.load`, and the load is bound by `Core.tileLoad`. -/
theorem weightLoadIssues : Obligations.WeightLoadIssues := by
  unfold Obligations.WeightLoadIssues
  intro s a f h m
  obtain ⟨only, mtx⟩ := onlyMtx_modCore (·.issueWload (runCycle s a) f) ((s.core a).issueWload_eq (runCycle s a) f)
  refine ⟨_, (s.core a).tileLoad f, exec_wload_ready h, only, fun he => mtx.trans (if_pos he), fun he => mtx.trans (if_neg he),
    rfl, rfl, fun w hw => ?_, fun b hb => ?_, rfl, fun b hs hb => ?_, rfl⟩
  · simp only [Core.tileLoad, hw, Option.getD_some, and_self]
  · simp only [Core.tileLoad, hb, Option.map_some, Option.getD_some]
  · obtain hs | hs := hs <;> simp [Core.tileLoad, hs, hb, scaleBytes]

/-! ### Elements of a vector that change in turn -/

/-- A vector with the elements of a list changed in turn. -/
def vupdAll {α : Type} {n : Nat} (v : Vector α n) (l : List (Fin n)) (g : α → α) : Vector α n := l.foldl (fun v i => vupd v i g) v

/-- Where a second change comes to nothing, every element of the list has changed, however often it is named. -/
theorem vupdAll_get {α : Type} {n : Nat} {g : α → α} (hg : ∀ x, g (g x) = g x) (l : List (Fin n)) (v : Vector α n) (i : Fin n) :
    (vupdAll v l g)[i] = if i ∈ l then g v[i] else v[i] := by
  induction l generalizing v with
  | nil => rfl
  | cons j l ih =>
    rw [vupdAll, List.foldl_cons, ← vupdAll, ih, vupd_get]
    by_cases e : i = j
    · subst e
      simp [hg]
    · simp [e]

/-! ### Passes (R69, R70, R77, R78, R83, R212) -/

def Tile.kind (x : Tile) : TileKind := ⟨x.fmt, x.scl, x.cols⟩

/-- The pass that an `mpass` of run cycle t puts on an array, under a front tile. -/
def Core.passOf (k : Core) (t : Nat) (f : MpassF) (tile : Tile) (x : Fin 4) : Pass :=
  let rb := rowBytes ((Fmt.ofCode f.fmtA).getD .fp32) 128
  let sb := scaleBytes f.sclA
  { array := x, start := t, src := k.baseOf (f.ah.toNat + x.val) + f.aoff.toNat * rb, rowBytes := rb,
    sclSrc := if sb = 0 then 0 else k.baseOf (f.sah.toNat + x.val) + f.aoff.toNat * sb, sclBytes := sb,
    vecs := f.m.toNat + 1, cyc := passCyc f.fmtA tile.kind, fmt := f.fmtA, scl := f.sclA, ftz := f.ftz, dst := f.dst,
    acc := f.acc, last := f.last, kind := accKindOf f.fmtA f.sclA tile.kind, tile := tile, sums := [] }

/-- A half that a pass names. -/
def Half.taken (f : MpassF) (kind : AccKind) (x : Half) : Half :=
  ⟨if f.last then .closing else .opened, if f.acc then x.kind else kind⟩

theorem Half.taken_taken (f : MpassF) (kind : AccKind) (x : Half) : (x.taken f kind).taken f kind = x.taken f kind := by
  unfold Half.taken
  cases f.acc <;> rfl

/-- Matrix arrays of which some have taken the passes of an `mpass`, each until run cycle `next`. -/
def Mtx.taken (m : Mtx) (f : MpassF) (kind : AccKind) (next : Nat) (ps : Fin 4 → Pass) (l : List (Fin 4)) : Mtx :=
  { m with passes := m.passes ++ l.map ps, freeAt := vupdAll m.freeAt l (fun _ => next),
           halves := vupdAll m.halves (l.flatMap (halvesOf · f.dst)) (Half.taken f kind) }

section
variable (m : Mtx) (f : MpassF) (kind : AccKind) (next : Nat) (ps : Fin 4 → Pass)

@[simp] theorem Mtx.taken_nil : m.taken f kind next ps [] = m := by simp [Mtx.taken, vupdAll]

theorem Mtx.taken_cons (x : Fin 4) (l : List (Fin 4)) :
    m.taken f kind next ps (x :: l) = (m.taken f kind next ps [x]).taken f kind next ps l := by
  simp [Mtx.taken, vupdAll, List.flatMap_cons]

theorem Mtx.openHalves (l : List (Fin 8)) :
    l.foldl (fun m h => m.openHalf f kind h) m = { m with halves := vupdAll m.halves l (Half.taken f kind) } := by
  induction l generalizing m with
  | nil => rfl
  | cons h l ih => exact ih _

end

theorem Core.issuePasses_none {k : Core} (h : k.mtx.front = none) (t : Nat) (f : MpassF) (l : List (Fin 4)) :
    l.foldl (Core.issuePass t f) k = k := by
  have one (x : Fin 4) : Core.issuePass t f k x = k := by simp only [Core.issuePass, h]
  exact List.foldl_fixed' one l

/-- The matrix arrays of a core of which some have taken the passes of an `mpass` under a tile. -/
def Core.passesTaken (k : Core) (t : Nat) (f : MpassF) (tile : Tile) (l : List (Fin 4)) (m : Mtx) : Mtx :=
  m.taken f (accKindOf f.fmtA f.sclA tile.kind) (t + (f.m.toNat + 1) * passCyc f.fmtA tile.kind) (k.passOf t f tile) l

theorem Core.passesTaken_cons (k : Core) (t : Nat) (f : MpassF) (tile : Tile) (x : Fin 4) (l : List (Fin 4)) (m : Mtx) :
    k.passesTaken t f tile (x :: l) m = k.passesTaken t f tile l (k.passesTaken t f tile [x] m) := Mtx.taken_cons ..

theorem Core.issuePass_some {k : Core} {tile : Tile} (h : k.mtx.front = some tile) (t : Nat) (f : MpassF) (x : Fin 4) :
    Core.issuePass t f k x = { k with mtx := k.passesTaken t f tile [x] k.mtx } := by
  simp only [Core.issuePass, h, Mtx.openHalves, Core.passesTaken, Mtx.taken, List.flatMap_cons, List.flatMap_nil, List.append_nil]
  rfl

theorem Core.issuePasses_some {k : Core} {tile : Tile} (h : k.mtx.front = some tile) (t : Nat) (f : MpassF) (l : List (Fin 4)) :
    l.foldl (Core.issuePass t f) k = { k with mtx := k.passesTaken t f tile l k.mtx } := by
  induction l generalizing k with
  | nil => simp [Core.passesTaken]
  | cons x l ih =>
    rw [List.foldl_cons, Core.issuePass_some h]
    exact (ih (k := { k with mtx := k.passesTaken t f tile [x] k.mtx }) h).trans
      (congrArg (fun m => { k with mtx := m }) (k.passesTaken_cons t f tile x l k.mtx).symm)

/-- Matrix arrays after the swap, if an `mpass` asks for it (R75). -/
def Mtx.swapIf (m : Mtx) (sw : Bool) (t : Nat) : Mtx := if sw then m.swap t else m

theorem Core.issueMpass_eq (k : Core) (t : Nat) (f : MpassF) :
    k.issueMpass t f = (arraysOf f.amask).foldl (Core.issuePass t f) { k with mtx := k.mtx.swapIf f.sw t } := by
  unfold Core.issueMpass Mtx.swapIf
  cases f.sw <;> rfl

/-- A tile of nothing, which stands for the front tile where there is none. -/
def Tile.none : Tile := ⟨0, 0, 0, [], [], false⟩

/-- The tile in front of the passes of an `mpass` (R75). -/
def Mtx.frontTile (m : Mtx) (sw : Bool) : Option Tile := if sw then m.shadow.toTile else m.front

theorem Mtx.swapIf_front (m : Mtx) (sw : Bool) (t : Nat) : (m.swapIf sw t).front = m.frontTile sw := by
  cases sw <;> rfl

/-- A swap moves tiles and loads alone. -/
theorem Mtx.swapIf_kept (m : Mtx) (sw : Bool) (t : Nat) :
    (m.swapIf sw t).passes = m.passes ∧ (m.swapIf sw t).halves = m.halves ∧ (m.swapIf sw t).freeAt = m.freeAt
      ∧ (m.swapIf sw t).acc = m.acc ∧ (m.swapIf sw t).rowPz = m.rowPz := by
  cases sw <;> exact ⟨rfl, rfl, rfl, rfl, rfl⟩

/-- Arrays that take a pass of an `mpass`: those of its mask, and none without a front tile. -/
def passArrays (f : MpassF) (front : Option Tile) : List (Fin 4) := if front = none then [] else arraysOf f.amask

/-- The matrix arrays after the issue of an `mpass` in run cycle t. -/
def Core.mpassed (k : Core) (t : Nat) (f : MpassF) : Mtx :=
  let front := k.mtx.frontTile f.sw
  k.passesTaken t f (front.getD Tile.none) (passArrays f front) (k.mtx.swapIf f.sw t)

theorem Core.issueMpass_eq_mpassed (k : Core) (t : Nat) (f : MpassF) : k.issueMpass t f = { k with mtx := k.mpassed t f } := by
  have hm := k.mtx.swapIf_front f.sw t
  rw [Core.issueMpass_eq, Core.mpassed]
  generalize k.mtx.swapIf f.sw t = m at hm
  cases h : k.mtx.frontTile f.sw with
  | none =>
    rw [Core.issuePasses_none (k := { k with mtx := m }) (hm.trans h), passArrays, if_pos rfl, Core.passesTaken, Mtx.taken_nil]
  | some tile =>
    rw [Core.issuePasses_some (k := { k with mtx := m }) (hm.trans h), passArrays, if_neg nofun]
    rfl

theorem Mtx.swap_shadow {m : Mtx} (t : Nat) :
    (m.queue = none → (m.swap t).shadow = .empty) ∧ ∀ l, m.queue = some l → (m.swap t).shadow = .filling l t [] false := by
  unfold Mtx.swap
  constructor
  · intro h
    rw [h]
  · intro l h
    rw [h]

theorem mem_arraysOf {m : BitVec 4} {x : Fin 4} : x ∈ arraysOf m ↔ bit m x.val = true := by
  simp [arraysOf]

/-- A half belongs to one array. -/
theorem array_of_mem_halvesOf {x : Fin 4} {c : BitVec 2} {h : Fin 8} (hm : h ∈ halvesOf x c) : h.val / 2 = x.val := by
  revert x c h
  decide

theorem mem_halves_iff {l : List (Fin 4)} {x : Fin 4} {c : BitVec 2} {h : Fin 8} (hx : h ∈ halvesOf x 2) :
    h ∈ l.flatMap (halvesOf · c) ↔ x ∈ l ∧ h ∈ halvesOf x c := by
  rw [List.mem_flatMap]
  constructor
  · rintro ⟨y, hy, hm⟩
    have e : y = x := Fin.ext ((array_of_mem_halvesOf hm).symm.trans (array_of_mem_halvesOf hx))
    exact e ▸ ⟨hy, hm⟩
  · rintro ⟨hy, hm⟩
    exact ⟨x, hy, hm⟩

theorem halvesOf_subset {x : Fin 4} {c : BitVec 2} {h : Fin 8} (hm : h ∈ halvesOf x c) : h ∈ halvesOf x 2 := by
  revert x c h
  decide

section
variable (m : Mtx) (f : MpassF) (kind : AccKind) (next : Nat) (ps : Fin 4 → Pass) {l : List (Fin 4)} {x : Fin 4} {h : Fin 8}

theorem Mtx.taken_freeAt : (m.taken f kind next ps l).freeAt[x] = if x ∈ l then next else m.freeAt[x] :=
  vupdAll_get (g := fun _ => next) (fun _ => rfl) l m.freeAt x

theorem Mtx.taken_half (hx : h ∈ halvesOf x 2) :
    (m.taken f kind next ps l).halves[h] = if x ∈ l ∧ h ∈ halvesOf x f.dst then m.halves[h].taken f kind else m.halves[h] := by
  simp only [← mem_halves_iff hx]
  exact vupdAll_get (Half.taken_taken f kind) _ m.halves h

/-- An array that takes a pass is taken until the pass's last vector has entered, and so are the halves that it names. -/
theorem Mtx.taken_of_mem (hx : x ∈ l) :
    (m.taken f kind next ps l).freeAt[x] = next
      ∧ (∀ h ∈ halvesOf x f.dst, (m.taken f kind next ps l).halves[h] = m.halves[h].taken f kind)
      ∧ ∀ h ∈ halvesOf x 2, h ∉ halvesOf x f.dst → (m.taken f kind next ps l).halves[h] = m.halves[h] :=
  ⟨(m.taken_freeAt ..).trans (if_pos hx),
    fun _ hh => (m.taken_half f kind next ps (halvesOf_subset hh)).trans (if_pos ⟨hx, hh⟩),
    fun _ hh hn => (m.taken_half f kind next ps hh).trans (if_neg fun e => hn e.2)⟩

/-- An array that takes none stays, and its halves do. -/
theorem Mtx.taken_of_notMem (hx : x ∉ l) :
    (m.taken f kind next ps l).freeAt[x] = m.freeAt[x]
      ∧ ∀ h ∈ halvesOf x 2, (m.taken f kind next ps l).halves[h] = m.halves[h] :=
  ⟨(m.taken_freeAt ..).trans (if_neg hx), fun _ hh => (m.taken_half f kind next ps hh).trans (if_neg fun e => hx e.1)⟩

end

theorem mem_passArrays {f : MpassF} {front : Option Tile} {x : Fin 4} :
    x ∈ passArrays f front ↔ front ≠ none ∧ bit f.amask x.val = true := by
  unfold passArrays
  split
  case isTrue h => simp [h]
  case isFalse h => simp [h, mem_arraysOf]

/-- Settles O12: the arrays of the mask take `Core.passOf` of the front tile after the swap, and no other array changes. -/
theorem passIssues : Obligations.PassIssues := by
  unfold Obligations.PassIssues
  intro s a f h m front masked
  obtain ⟨only, mtx⟩ := onlyMtx_modCore (·.issueMpass (runCycle s a) f) ((s.core a).issueMpass_eq_mpassed (runCycle s a) f)
  obtain ⟨hpasses, hhalves, hfree, hacc, hrow⟩ := m.swapIf_kept f.sw (runCycle s a)
  have hfront : (m.swapIf f.sw (runCycle s a)).front = front := m.swapIf_front ..
  refine ⟨_, (s.core a).passOf (runCycle s a) f (front.getD Tile.none), exec_mpass_ready h, only, ?_⟩
  rw [mtx, show (s.core a).mpassed (runCycle s a) f
    = (s.core a).passesTaken (runCycle s a) f (front.getD Tile.none) (passArrays f front) (m.swapIf f.sw (runCycle s a)) from rfl]
  clear_value front
  refine ⟨?_, hfront, hacc, hrow, fun hs => ?_, fun hs => ?_, fun x hx tile ht => ?_, fun x hx => ?_⟩
  · simp only [Core.passesTaken, Mtx.taken, passArrays, hpasses]
    split <;> rfl
  · rw [hs]
    exact ⟨rfl, rfl⟩
  · rw [hs]
    exact ⟨rfl, m.swap_shadow (runCycle s a)⟩
  · subst ht
    have hm : x ∈ passArrays f (some tile) := mem_passArrays.2 ⟨nofun, hx⟩
    obtain ⟨free, named, others⟩ := (m.swapIf f.sw (runCycle s a)).taken_of_mem f (accKindOf f.fmtA f.sclA tile.kind)
      (runCycle s a + (f.m.toNat + 1) * passCyc f.fmtA tile.kind) ((s.core a).passOf (runCycle s a) f tile) hm
    rw [hhalves] at named others
    refine ⟨rfl, rfl, rfl, rfl, rfl, rfl, rfl, rfl, rfl, rfl, rfl, rfl, fun w hw => ?_, rfl, rfl, fun hs => ?_, free, named, others⟩
    · simp only [Core.passOf, hw, Option.getD_some]
    · obtain hs | hs := hs <;> simp [Core.passOf, hs, scaleBytes, bufBase, Core.baseOf]
  · have hm : x ∉ passArrays f front := fun e => Bool.false_ne_true (hx.symm.trans (mem_passArrays.1 e).2)
    rw [← hhalves, ← hfree]
    exact Mtx.taken_of_notMem _ f _ _ _ hm

/-! ### Passes on no array (R76) -/

theorem Core.issueMpass_empty (k : Core) (t : Nat) {f : MpassF} (h : f.amask = 0) :
    k.issueMpass t f = { k with mtx := k.mtx.swapIf f.sw t } := by
  rw [Core.issueMpass_eq, h]
  rfl

/-- Settles O13: with no array in its mask an `mpass` is its swap alone, and without a swap it is illegal. -/
theorem emptyPass : Obligations.EmptyPass := by
  unfold Obligations.EmptyPass
  intro s a f h m
  refine ⟨fun hs hi => ?_, fun hs hr => ?_⟩
  · obtain ⟨only, mtx⟩ := onlyMtx_modCore (·.issueMpass (runCycle s a) f) ((s.core a).issueMpass_empty (runCycle s a) h)
    refine ⟨_, exec_mpass_ready hi, only, ?_⟩
    rw [mtx, hs]
    exact ⟨rfl, rfl, rfl, m.swap_shadow (runCycle s a)⟩
  · have illegal : 7 ∈ slotCauses s a (.mpass f) := by
      simp [slotCauses, illegalCauses, illegalMpass, failIf, h, hs]
    have hc : slotCauses s a (.mpass f) ≠ [] := List.ne_nil_of_mem illegal
    exact ⟨hc, slotOut_refused hr hc⟩

end Sys2Proof.Machine

/-! # Halves that are freed, and summaries that land (O17) -/

namespace Sys2Proof.Machine

/-! ### Releases (R83, R112) -/

theorem Die.runNow_free {d : Die} (h : d.heldNow = false) : d.runNow = some d.clock.rc := by simp [Die.runNow, h]

theorem Core.releaseHalves_half (k : Core) (t : Nat) (h : Fin 8) :
    (k.releaseHalves t).mtx.halves[h]
      = if k.vec.releases.any (fun r => r.half = h && decide (r.due ≤ t)) then {} else k.mtx.halves[h] := by
  have same : (k.releaseHalves t).mtx.halves
      = vupdAll k.mtx.halves ((k.vec.releases.filter (fun r => decide (r.due ≤ t))).map (·.half)) (fun _ => {}) := by
    rw [vupdAll, List.foldl_map]
    rfl
  rw [same, vupdAll_get (g := fun _ => ({} : Half)) (fun _ => rfl)]
  refine if_congr ?_ rfl rfl
  simp only [List.mem_map, List.mem_filter, List.any_eq_true, Bool.and_eq_true, decide_eq_true_eq]
  exact exists_congr fun r => and_assoc.trans (and_congr_right fun _ => and_comm)

theorem accHalfRelease_works {s : State} {a : CoreRef} (hr : s.runs a.die = true) (hh : s.dies[a.die].heldNow = false) :
    exec (.accHalfRelease a) s = .next (s.modCore a (·.releaseHalves (runCycle s a))) := by
  refine onDie_core hr ?_
  simp only [Die.accHalfRelease, Die.runNow_free hh]
  rfl

/-! ### Summary writes (R96, R108, R109, R162) -/

/-- Steps that change nothing, as a fold. -/
theorem foldl_idle {α β : Type} {f : β → α → β} {l : List α} (h : ∀ x ∈ l, ∀ d, f d x = d) (d : β) : l.foldl f d = d := by
  induction l with
  | nil => rfl
  | cons x l ih =>
    rw [List.forall_mem_cons] at h
    rw [List.foldl_cons, h.1, ih h.2]

/-- Only one step of a fold over all indexes changes anything. -/
theorem foldl_finRange_one {n : Nat} {β : Type} {f : β → Fin n → β} (r : Fin n) (h : ∀ x, x ≠ r → ∀ d, f d x = d) (d : β) :
    (List.finRange n).foldl f d = f d r := by
  obtain ⟨l1, l2, hl⟩ := List.append_of_mem (List.mem_finRange r)
  have hd := List.nodup_finRange n
  rw [hl, List.nodup_append, List.nodup_cons] at hd
  obtain ⟨-, ⟨h2, -⟩, h1⟩ := hd
  rw [hl, List.foldl_append, List.foldl_cons, foldl_idle fun x hx => h x (h1 x hx r List.mem_cons_self),
    foldl_idle fun x hx => h x (by rintro rfl; exact h2 hx)]

def SummaryWrite.summary (w : SummaryWrite) : Summary := ⟨w.val, w.ty, w.poison⟩

theorem Die.fault_vec_if {d : Die} {c : CoreIx} {k : Core} (h : d.cores[c] = k) (x : Bool) (b : FBit) :
    (if x then d.fault (.vec c) b else d).cores[c]
      = { k with vec := { k.vec with fault := if x then setBit k.vec.fault b.bit else k.vec.fault } } := by
  cases x
  · exact h
  · exact Die.fault_vec h b

/-- The summary writes of one register that have landed in the cycle in progress. -/
def Vec.metIn (v : Vec) (r : Fin 8) : List SummaryWrite := v.sumNow.filter (fun w => w.vs = r)

theorem Vec.metIn_none {v : Vec} {r : Fin 8} (h : ∀ x ∈ v.sumNow, x.vs ≠ r) : v.metIn r = [] := by simpa [Vec.metIn] using h

theorem Vec.metIn_one {v : Vec} {r : Fin 8} {x : SummaryWrite} (h : v.sumNow = [x]) (hr : x.vs = r) : v.metIn r = [x] := by
  simp [Vec.metIn, h, hr]

/-- The fault word of a vector engine after a summary has landed, with its mark, with others in its cycle or alone. -/
def summaryFaults (fault : U64) (poison met : Bool) : U64 :=
  let marked := if poison then setBit fault vsPoison.bit else fault
  if met then setBit marked vsClash.bit else marked

/-- The vector engine after writes of one register have landed. -/
def Vec.landed (v : Vec) (w : SummaryWrite) (rest : List SummaryWrite) : Vec :=
  let others := rest ++ v.metIn w.vs
  let top := w.top others
  { v with vs := vupd v.vs w.vs (fun _ => top.summary), fault := summaryFaults v.fault top.poison !others.isEmpty }

section
variable {d : Die} {c : CoreIx} {w : SummaryWrite} {rest : List SummaryWrite}

theorem Die.landSummary_other {ws : List SummaryWrite} {r : Fin 8} (h : ∀ x ∈ ws, x.vs ≠ r) : d.landSummary c ws r = d := by
  have hr : ws.filter (fun x => x.vs = r) = [] := by simpa using h
  simp only [Die.landSummary, hr]

theorem Die.landSummary_core (h : ∀ x ∈ rest, x.vs = w.vs) :
    (d.landSummary c (w :: rest) w.vs).cores[c] = { d.cores[c] with vec := d.cores[c].vec.landed w rest } := by
  have all : (w :: rest).filter (fun x => x.vs = w.vs) = w :: rest := by simpa using h
  have clash (x : Bool) (e : Die) : (if x then e else e.fault (.vec c) vsClash) = if !x then e.fault (.vec c) vsClash else e := by
    cases x <;> rfl
  simp only [Die.landSummary, all, clash]
  exact Die.fault_vec_if (Die.fault_vec_if (Die.modCore_same ..) _ vsPoison) _ vsClash

/-- A summary write is due by the end of run cycle t, or of clock cycle clk. -/
def SummaryWrite.dueBy (clk t : Nat) (x : SummaryWrite) : Bool := if x.onClk then decide (x.due ≤ clk) else decide (x.due ≤ t)

theorem SummaryWrite.dueBy_run {clk t : Nat} {x : SummaryWrite} (hc : x.onClk = false) (hd : x.due ≤ t) : x.dueBy clk t = true := by
  rw [SummaryWrite.dueBy, hc]
  exact decide_eq_true hd

/-- A core whose summary writes that are due are taken. -/
def Core.sumsTaken (clk t : Nat) (k : Core) : Core :=
  { k with vec := { k.vec with sumQ := k.vec.sumQ.filter (fun x => !x.dueBy clk t) } }

/-- A core with the summary writes that have landed in its cycle. -/
def Core.sumsLanded (ws : List SummaryWrite) (k : Core) : Core := { k with vec := { k.vec with sumNow := k.vec.sumNow ++ ws } }

theorem Die.landSummaries_eq (d : Die) (c : CoreIx) (t : Nat) :
    d.landSummaries c (some t)
      = let ws := d.cores[c].vec.sumQ.filter (·.dueBy d.clock.clk t)
        let e := (List.finRange 8).foldl (fun d r => d.landSummary c ws r) (d.modCore c (·.sumsTaken d.clock.clk t))
        if ws.isEmpty then e else e.modCore c (·.sumsLanded ws) := rfl

/-- Writes of one register that are all due land together. -/
theorem Die.landSummaries_core {t : Nat} (hq : d.cores[c].vec.sumQ = w :: rest) (hv : ∀ x ∈ rest, x.vs = w.vs)
    (hd : ∀ x ∈ w :: rest, x.onClk = false ∧ x.due ≤ t) :
    (d.landSummaries c (some t)).cores[c]
      = let k := d.cores[c].sumsTaken d.clock.clk t
        { k with vec := k.vec.landed w rest }.sumsLanded (w :: rest) := by
  have due : ∀ x ∈ w :: rest, x.dueBy d.clock.clk t = true := fun x hx => by
    obtain ⟨h1, h2⟩ := hd x hx
    exact SummaryWrite.dueBy_run h1 h2
  have others (r : Fin 8) (hr : r ≠ w.vs) (e : Die) : e.landSummary c (w :: rest) r = e :=
    Die.landSummary_other (List.forall_mem_cons.2 ⟨hr.symm, fun x hx => by rw [hv x hx]; exact hr.symm⟩)
  simp only [Die.landSummaries_eq, hq, List.filter_eq_self.2 due, foldl_finRange_one w.vs others, List.isEmpty_cons,
    Bool.false_eq_true, if_false]
  exact (Die.modCore_same ..).trans (congrArg (Core.sumsLanded (w :: rest)) ((Die.landSummary_core hv).trans
    (congrArg (fun k : Core => { k with vec := k.vec.landed w rest }) (d.modCore_same c _))))

end

/-- Without vector results on their way none is written. -/
theorem Die.vecWrites_none {d : Die} {c : CoreIx} (t : Nat) (h : d.cores[c].vec.writes = []) : d.vecWrites c t = d := by
  refine d.modCore_self c _ ?_
  simp only [h, List.filter_nil, List.foldl_nil]
  rw [← h]

theorem SummaryWrite.beats_rank {w v : SummaryWrite} (h : w.rank < v.rank) : w.beats v = false := by
  have hne : w.rank ≠ v.rank := by omega
  simp [SummaryWrite.beats, Nat.not_lt.2 h.le, hne]

/-- Of two writes of different ranks the one of the higher rank stands. -/
theorem SummaryWrite.top_rank {w v : SummaryWrite} (h : w.rank < v.rank) : w.top [v] = v := by
  rw [SummaryWrite.top, List.foldl_cons, SummaryWrite.beats_rank h]
  rfl

theorem bit_summaryFaults_met (fault : U64) (poison : Bool) : bit (summaryFaults fault poison true) 3 = true :=
  bit_setBit_same _ (by decide)

section
variable {v : Vec} {w : SummaryWrite} {rest : List SummaryWrite}

theorem Vec.landed_register : (v.landed w rest).vs[w.vs] = (w.top (rest ++ v.metIn w.vs)).summary :=
  vupd_get_same v.vs w.vs _ w.vs.isLt

theorem Vec.landed_other {r : Fin 8} (h : r ≠ w.vs) : (v.landed w rest).vs[r] = v.vs[r] :=
  vupd_get_ne v.vs w.vs r.val _ r.isLt (fun e => h (Fin.ext e.symm))

theorem Vec.landed_clash (h : rest ++ v.metIn w.vs ≠ []) : bit (v.landed w rest).fault 3 = true := by
  have met : (!(rest ++ v.metIn w.vs).isEmpty) = true := by simpa using h
  rw [Vec.landed, met]
  exact bit_summaryFaults_met ..

end

/-- What VEC_RESULT_WRITE does to a core on which nothing but summary writes of one register is due. -/
theorem vecResultWrite_summaries {s : State} {a : CoreRef} {w : SummaryWrite} {rest : List SummaryWrite} (hr : s.runs a.die = true)
    (hh : s.dies[a.die].heldNow = false) (hw : (s.core a).vec.writes = []) (hq : (s.core a).vec.sumQ = w :: rest)
    (hv : ∀ x ∈ rest, x.vs = w.vs) (hd : ∀ x ∈ w :: rest, x.onClk = false ∧ x.due ≤ runCycle s a) :
    ∃ t, exec (.vecResultWrite a) s = .next t ∧ OnlyDie a.die s t
      ∧ t.core a
          = let k := (s.core a).sumsTaken (clockCycle s a) (runCycle s a)
            { k with vec := k.vec.landed w rest }.sumsLanded (w :: rest) := by
  refine ⟨_, onDie_runs (Die.vecResultWrite a.core) hr, onlyDie_modDie s a.die _, ?_⟩
  rw [s.modDie_core]
  simp only [Die.vecResultWrite, Die.runNow_free hh, Die.vecWrites_none s.dies[a.die].clock.rc hw]
  exact Die.landSummaries_core hq hv hd

/-- Settles O17: each half and each register by itself; the write of the higher rank is the top of the two that meet. -/
theorem vectorWritesLand : Obligations.VectorWritesLand := by
  unfold Obligations.VectorWritesLand
  intro s a hr hh
  refine ⟨?_, fun w hw hq hc hd => ?_, fun w v hw hq hcw hcv hdw hdv hvs hrank hn => ?_⟩
  · refine ⟨_, accHalfRelease_works hr hh, onlyCore_modCore s a _, ?_⟩
    simp only [SameScratch, s.modCore_same]
    exact ⟨fun h => (s.core a).releaseHalves_half (runCycle s a) h, rfl, rfl, fun _ => rfl⟩
  · obtain ⟨t, ht, only, core⟩ := vecResultWrite_summaries hr hh hw hq nofun (by simpa using ⟨hc, hd⟩)
    refine ⟨t, ht, only, ?_⟩
    simp only [SameScratch, core]
    refine ⟨?_, fun hn => ?_, fun v hs hvs hrank => ?_, fun r hr => Vec.landed_other hr, fun _ => rfl⟩
    · exact List.filter_eq_nil_iff.2 fun x hx => by
        rw [hq, List.mem_singleton] at hx
        rw [hx, SummaryWrite.dueBy_run hc hd]
        decide
    · refine Vec.landed_register.trans ?_
      rw [Vec.metIn_none (v := ((s.core a).sumsTaken _ _).vec) hn]
      rfl
    · have met : ((s.core a).sumsTaken (clockCycle s a) (runCycle s a)).vec.metIn w.vs = [v] := Vec.metIn_one hs hvs
      refine ⟨Vec.landed_register.trans ?_, Vec.landed_clash ?_⟩
      · rw [met, List.nil_append, SummaryWrite.top_rank hrank]
        rfl
      · rw [met]
        exact List.cons_ne_nil _ _
  · obtain ⟨t, ht, -, core⟩ := vecResultWrite_summaries hr hh hw hq (by simp [hvs]) (by simpa using ⟨⟨hcw, hdw⟩, hcv, hdv⟩)
    refine ⟨t, ht, ?_⟩
    rw [core]
    refine ⟨Vec.landed_register.trans ?_, Vec.landed_clash (List.cons_ne_nil _ _)⟩
    rw [Vec.metIn_none (v := ((s.core a).sumsTaken _ _).vec) hn, List.append_nil, SummaryWrite.top_rank hrank]
    rfl

end Sys2Proof.Machine

/-! # Holds that end (O25) -/

namespace Sys2Proof.Machine

section
variable {d : Die} {p : HoldReq → Bool}

/-- What the repeated checks make of one request. -/
def Die.repeated (d : Die) (p : HoldReq → Bool) (q : HoldReq) : HoldReq := if q.slot ≠ 7 && p q then d.reevalReq q else q

theorem Die.reevalReq_released {q : HoldReq} (h : q.release ≠ none) : d.reevalReq q = q :=
  if_pos (Option.isSome_iff_ne_none.2 h)

theorem Die.reevalReq_waiting {q : HoldReq} {x : Checked} (h : q.release = none)
    (hx : d.cores[q.core].ctl.checked.find? (fun x => x.due == q.forCyc && x.slot = q.slot) = some x) :
    d.reevalReq q = if d.slotReady q.core x then { q with release := some d.clock.clk } else q := by
  rw [Die.reevalReq, if_neg (by rw [h]; decide), hx]

/-- A request that has its release, or whose check is not repeated, stays. -/
theorem Die.repeated_stays {q : HoldReq} (h : p q = false ∨ q.release ≠ none) : d.repeated p q = q := by
  obtain h | h := h
  · exact if_neg (by rw [h, Bool.and_false]; decide)
  · rw [Die.repeated, Die.reevalReq_released h, ite_self]

/-- Repeating the checks is a change of each request by itself, also where none of them waits. -/
theorem Die.reevalReqs_eq (d : Die) (p : HoldReq → Bool) :
    d.reevalReqs p = { d with hold := { d.hold with reqs := d.hold.reqs.map (d.repeated p) } } := by
  unfold Die.reevalReqs
  split
  · rfl
  · next h =>
    have same : d.hold.reqs.map (d.repeated p) = d.hold.reqs := by
      refine (List.map_congr_left fun q hq => ?_).trans (List.map_id _)
      by_cases hn : q.release = none
      · refine if_neg fun hp => h (List.any_eq_true.2 ⟨q, hq, ?_⟩)
        rw [hn, Bool.and_assoc, hp]
        rfl
      · exact Die.repeated_stays (.inr hn)
    rw [same]

end

/-- Settles O25: every request of the core and slot is judged again by itself, and the timed holds are filtered by their last cycle. -/
theorem holdsEnd : Obligations.HoldsEnd := by
  unfold Obligations.HoldsEnd
  intro s a b hr hb
  constructor
  · have die := s.modDie_die a.die (Die.holdRelease a.core b)
    have held : Die.holdRelease a.core b s.dies[a.die] = _ := (if_neg hb).trans (Die.reevalReqs_eq ..)
    refine ⟨_, onDie_runs (Die.holdRelease a.core b) hr, onlyDie_modDie s a.die _, ?_⟩
    rw [die, held]
    refine ⟨rfl, rfl, List.length_map _, fun i q hq => ?_⟩
    rw [List.getElem?_map, hq]
    refine ⟨fun x hc hs hn hx => congrArg some ?_, fun h => congrArg some (Die.repeated_stays ?_)⟩
    · rw [Die.repeated, if_pos (by simp [hc, hs, hb]), Die.reevalReq_waiting hn hx]
      rfl
    · obtain h | h | h := h
      · exact .inl (by simp [h])
      · exact .inl (by simp [h])
      · exact .inr h
  · have die := s.modDie_die a.die Die.timedHoldEnd
    refine ⟨_, onDie_runs Die.timedHoldEnd hr, onlyDie_modDie s a.die _, ?_⟩
    rw [die]
    refine ⟨rfl, rfl, fun h => ?_⟩
    simp [Die.timedHoldEnd, clockCycle]

end Sys2Proof.Machine

/-! # The issue of vector operations (O15) -/

namespace Sys2Proof.Machine

/-! ### Operations of a vector port (R94, R168) -/

/-- The operations that take a vector port when they issue: all but the `vnop`, which has no element to take in. -/
def takesPort : SlotOp → Bool
  | .elem op _ => decide (op ≠ .vnop)
  | .red _ _ | .vacc _ | .vtld _ => true
  | _ => false

theorem elemCount_elem {op : ElemOp} (h : op ≠ .vnop) (f : ElemF) : elemCount (.elem op f) = f.vl.toNat + 1 := by
  cases op
  case vnop => exact absurd rfl h
  all_goals rfl

theorem popCount_ne_zero {m : BitVec 4} (h : m ≠ 0) : popCount m ≠ 0 := by
  revert m
  decide

/-- A legal `vacc` names an array (R120). -/
theorem vacc_amask_ne_zero {s : State} {a : CoreRef} {f : VaccF} (h : slotCauses s a (.vacc f) = []) : f.amask ≠ 0 := by
  intro e
  have illegal : 7 ∈ slotCauses s a (.vacc f) := by simp [slotCauses, illegalCauses, illegalVacc, failIf, e]
  rw [h] at illegal
  cases illegal

/-- A legal operation that takes a port has elements to take in. -/
theorem elemCount_ne_zero {s : State} {a : CoreRef} {op : SlotOp} (hv : takesPort op = true) (hl : slotCauses s a op = []) :
    elemCount op ≠ 0 := by
  cases op
  case elem op f =>
    rw [elemCount_elem (of_decide_eq_true hv)]
    exact Nat.succ_ne_zero _
  case red => exact Nat.succ_ne_zero _
  case vacc f =>
    have rows : (if f.half = 2 then 256 else 128) ≠ 0 := by split <;> decide
    exact Nat.mul_ne_zero (Nat.mul_ne_zero (popCount_ne_zero (vacc_amask_ne_zero hl)) rows) (by decide)
  case vtld => exact Nat.succ_ne_zero _
  all_goals cases hv

/-! ### What a port takes, and what a table becomes (R116, R212) -/

/-- The standby bank, not valid (R116). -/
def FnTable.standbyOff (x : FnTable) : FtBank :=
  if x.act then { x.bank0 with valid := false } else { x.bank1 with valid := false }

/-- A table of which a `vtld` loads the standby bank: that bank is not valid, and the table is armed if the `vtld` asks for it. -/
def FnTable.loading (x : FnTable) (arm : Bool) : FnTable :=
  let y := x.setStandby x.standbyOff
  if arm then { y with arm := true } else y

theorem FnTable.loading_parts (x : FnTable) (arm : Bool) :
    let y := x.loading arm
    y.act = x.act ∧ (if x.act then y.bank1 = x.bank1 ∧ y.bank0 = { x.bank0 with valid := false }
      else y.bank0 = x.bank0 ∧ y.bank1 = { x.bank1 with valid := false }) ∧ y.arm = (x.arm || arm) := by
  obtain ⟨b0, b1, act, armed⟩ := x
  cases act <;> cases arm <;> exact ⟨rfl, ⟨rfl, rfl⟩, by simp [loading, setStandby]⟩

/-- The function tables of an engine after the issue of an operation: a `vtld` loads one, and no other operation changes them. -/
def Vec.tablesFor (v : Vec) : SlotOp → Vector FnTable 4
  | .vtld f => vupd v.ft f.t.toFin (·.loading f.arm)
  | _ => v.ft

/-- A vector engine after an operation took a port. -/
def Vec.issued (v : Vec) (p : VPort) (op : SlotOp) (r : VecRun) : Vec := { v.setRun p (some r) with ft := v.tablesFor op }

theorem Core.issueVec_eq {op : SlotOp} (h : elemCount op ≠ 0) (k : Core) (p : VPort) (t frame : Nat) (r : Vector U32 16) :
    k.issueVec p t frame op r = { k with vec := k.vec.issued p op (k.bindVec t frame op r) } := by
  rw [Core.issueVec, if_neg h]
  cases op <;> cases p <;> rfl

/-- An operation other than a `vtld` changes its port alone. -/
theorem Vec.issued_eq_setRun {op : SlotOp} (h : ∀ f, op ≠ .vtld f) (v : Vec) (p : VPort) (r : VecRun) :
    v.issued p op r = v.setRun p (some r) := by
  have tables : v.tablesFor op = v.ft := by
    cases op
    case vtld f => exact absurd rfl (h f)
    all_goals rfl
  rw [Vec.issued, tables]
  cases p <;> rfl

section
variable (v : Vec) (p : VPort) (op : SlotOp) (r : VecRun)

theorem Vec.issued_run : (v.issued p op r).run p = some r := by cases p <;> rfl

theorem Vec.issued_otherRun {q : VPort} (h : q ≠ p) : (v.issued p op r).run q = v.run q := by
  cases p <;> cases q
  case vec0.vec0 => exact absurd rfl h
  case vec1.vec1 => exact absurd rfl h
  all_goals rfl

/-- Outside its ports and tables the engine stays. -/
theorem Vec.issued_frame : { v.issued p op r with run0 := v.run0, run1 := v.run1, ft := v.ft } = v := by cases p <;> rfl

/-- Of the tables a `vtld` changes its own alone. -/
theorem Vec.issued_table (f : VtldF) (u : Fin 4) :
    (v.issued p (.vtld f) r).ft[u] = if u = f.t.toFin then v.ft[f.t.toFin].loading f.arm else v.ft[u] :=
  vupd_get v.ft f.t.toFin u (·.loading f.arm)

end

/-! ### Slots of a vector port -/

/-- What the port of a ready operation takes in the present plan cycle. -/
def boundNow (s : State) (a : CoreRef) (op : SlotOp) : VecRun :=
  (s.core a).bindVec (runCycle s a) s.dies[a.die].frm.fnum.toNat op (s.core a).ctl.s

/-- A legal, ready operation changes its core as its issue on the port does. -/
theorem slotOut_vec {s : State} {a : CoreRef} {p : VPort} {op : SlotOp} (hv : takesPort op = true)
    (h : Issues s a (VPort.slot p) op) :
    slotOut s a (VPort.slot p) op
      = .next (s.modCore a (·.issueVec p (runCycle s a) s.dies[a.die].frm.fnum.toNat op (s.core a).ctl.s)) := by
  have wait : isWait op = false := by
    cases op
    case wait | pwait | qsel => cases hv
    all_goals rfl
  have issue : s.dies[a.die].issueSlot a.core (slotNow s a (VPort.slot p) op)
      = s.dies[a.die].modCore a.core
          (·.issueVec p (runCycle s a) s.dies[a.die].frm.fnum.toNat op (s.core a).ctl.s) := by
    cases op
    case elem | red | vacc | vtld => cases p <;> rfl
    all_goals cases hv
  exact (slotOut_ready h wait).trans (congrArg _ (s.modDie_congr a.die _ (·.modCore a.core _) issue))

/-- It takes its port, and no more of the module changes than the vector engine. -/
theorem exec_vec_ready {s : State} {a : CoreRef} {p : VPort} {op : SlotOp} {i : Instr} (hi : slotOf i = some (a, VPort.slot p, op))
    (hv : takesPort op = true) (h : Issues s a (VPort.slot p) op) :
    ∃ t, exec i s = .next t ∧ OnlyVec a s t ∧ (t.core a).vec = (s.core a).vec.issued p op (boundNow s a op) := by
  obtain ⟨-, hl, -⟩ := id h
  have core := (s.modCore_same a (·.issueVec p (runCycle s a) s.dies[a.die].frm.fnum.toNat op (s.core a).ctl.s)).trans
    (Core.issueVec_eq (elemCount_ne_zero hv hl) ..)
  exact ⟨_, (exec_slotOf hi s).trans (slotOut_vec hv h), ⟨onlyCore_modCore s a _, by rw [core]⟩, congrArg Core.vec core⟩

/-- The same for an operation that is no `vtld`: of the engine only the port changes. -/
theorem exec_vec_setRun {s : State} {a : CoreRef} {p : VPort} {op : SlotOp} {i : Instr} (hi : slotOf i = some (a, VPort.slot p, op))
    (hv : takesPort op = true) (hn : ∀ f, op ≠ .vtld f) (h : Issues s a (VPort.slot p) op) :
    ∃ t, exec i s = .next t ∧ OnlyVec a s t ∧ (t.core a).vec = (s.core a).vec.setRun p (some (boundNow s a op)) := by
  obtain ⟨t, he, only, vec⟩ := exec_vec_ready hi hv h
  exact ⟨t, he, only, vec.trans (Vec.issued_eq_setRun hn ..)⟩

/-! ### The obligation -/

/-- A field `sg` of 12 or less is a row length; one above is no row length, and an element-wise operation may ignore it (R120, R166). -/
theorem rowLen_of_le {sg : BitVec 4} (h : sg.toNat ≤ 12) : (if 12 < sg.toNat then 1 else rowLen sg) = 2 ^ sg.toNat :=
  if_neg (Nat.not_lt.2 h)

/-- Settles O15: the port takes `boundNow`, whose fields are those of `Core.bindVec`, and a `vtld` makes its table `FnTable.loading`. -/
theorem vectorOperationsIssue : Obligations.VectorOperationsIssue := by
  unfold Obligations.VectorOperationsIssue
  refine ⟨fun s a p f i op hm h => ?_, fun s a p f g h => ⟨fun i op hm hi => ?_, fun hi => ?_, fun hi => ?_⟩⟩
  · have hs : slotOf i = some (a, VPort.slot p, .elem op f) ∧ op ≠ .vnop := by
      simp only [List.mem_cons, List.not_mem_nil, or_false, Prod.mk.injEq] at hm
      casesm* _ ∨ _, _ ∧ _ <;> subst_vars <;> exact ⟨rfl, nofun⟩
    obtain ⟨hs, hv⟩ := hs
    obtain ⟨t, he, only, vec⟩ := exec_vec_setRun hs (decide_eq_true hv) nofun h
    refine ⟨t, _, he, only, vec, rfl, elemCount_elem hv f, rfl, rfl, rfl, fun hg => ?_, rfl, rfl, rfl, rfl, rfl, rfl, rfl, rfl, rfl,
      fun ho x hx => ⟨hx ▸ rfl, ?_⟩⟩
    · rw [boundTo, boundTo, boundTo, ← rowLen_of_le hg]
      exact ⟨rfl, rfl, rfl⟩
    · subst hx
      exact if_pos ho
  · have hs : slotOf i = some (a, VPort.slot p, .red op f) := by
      simp only [List.mem_cons, List.not_mem_nil, or_false, Prod.mk.injEq] at hm
      casesm* _ ∨ _, _ ∧ _ <;> subst_vars <;> rfl
    obtain ⟨t, he, only, vec⟩ := exec_vec_setRun hs rfl nofun hi
    exact ⟨t, _, he, only, vec, rfl, rfl, rfl, rfl, rfl, rfl, rfl, rfl, rfl⟩
  · obtain ⟨t, he, only, vec⟩ := exec_vec_setRun (i := .vacc a p g) rfl rfl nofun hi
    exact ⟨t, _, he, only, vec, rfl, rfl, rfl, rfl, rfl, rfl, rfl, rfl, ⟨rfl, rfl, rfl, rfl⟩, rfl, rfl⟩
  · obtain ⟨t, he, only, vec⟩ := exec_vec_ready (i := .vtld a p h) rfl rfl hi
    refine ⟨t, boundNow s a (.vtld h), he, only, ?_, rfl, rfl, rfl, rfl, rfl, rfl, rfl, ?_⟩
    all_goals rw [vec]
    · exact Vec.issued_run ..
    · refine ⟨fun q hq => Vec.issued_otherRun _ _ _ _ hq, Vec.issued_frame .., ?_,
        fun u hu => (Vec.issued_table ..).trans (if_neg hu)⟩
      rw [Vec.issued_table, if_pos rfl]
      exact FnTable.loading_parts ..

end Sys2Proof.Machine

/-! # The control core (O4 to O8)

A legal operation of the CTL slot changes its control core as `CtlRes.after` says, and nothing else unless it uses a poisoned value
or arms the flip; an illegal one is refused. -/

namespace Sys2Proof.Machine

/-! ### What an operation leaves (R130, R137, R141) -/

/-- The control core after a legal operation with this result, in a word whose last plan cycle is `last`. -/
def CtlRes.after (r : CtlRes) (last : Int) : Ctl :=
  { r.ctl with
    pc := r.target.getD r.ctl.pc
    nextChk := if r.branch then r.ctl.nextChk + 1 else r.ctl.nextChk
    endAt := if r.fend then some last else r.ctl.endAt
    fault := if r.poison then setBit r.ctl.fault ctlPoison.bit else r.ctl.fault }

/-- What an operation does on its core as it stands. -/
def ctlRes (s : State) (a : CoreRef) (op : CtlOp) : CtlRes := (s.core a).ctl.run (s.core a).vec.vs s.dies[a.die].frm.fnum op

/-- The control core after a legal operation in the present plan cycle. -/
def ctlAfter (s : State) (a : CoreRef) (op : CtlOp) : Ctl := (ctlRes s a op).after s.dies[a.die].clock.pcyc

/-- A fault of a control core, if it is set, sets a bit of the control core's fault word. -/
theorem Die.fault_ctl_if {d : Die} {c : CoreIx} {k : Core} (h : d.cores[c] = k) (x : Bool) (b : FBit) :
    (if x then d.fault (.ctl c) b else d).cores[c]
      = { k with ctl := { k.ctl with fault := if x then setBit k.ctl.fault b.bit else k.ctl.fault } } := by
  cases x
  · exact h
  · obtain ⟨-, -, -, hk⟩ := d.fault_parts (.ctl c) b
    rw [if_pos rfl, hk, ← h]
    exact d.modCore_same c _

/-- A change of a core that comes to a change of its control core. -/
theorem onlyCtl_modCore {s : State} {a : CoreRef} (f : Core → Core) {k : Ctl} (h : f (s.core a) = { s.core a with ctl := k }) :
    OnlyCtl a s (s.modCore a f) ∧ ((s.modCore a f).core a).ctl = k := by
  have core := (s.modCore_same a f).trans h
  exact ⟨⟨onlyCore_modCore s a f, by rw [core]⟩, congrArg Core.ctl core⟩

/-- The word address and the next check stage after an operation (R130, R141). -/
def CtlRes.moveOn (r : CtlRes) (k : Core) : Core :=
  { k with ctl := { k.ctl with pc := r.target.getD k.ctl.pc, nextChk := if r.branch then k.ctl.nextChk + 1 else k.ctl.nextChk } }

theorem Die.runCtl_core (d : Die) (c : CoreIx) (op : CtlOp) (last : Int) :
    let r := d.cores[c].ctl.run d.cores[c].vec.vs d.frm.fnum op
    ((d.runCtl c op last).1.modCore c r.moveOn).cores[c] = { d.cores[c] with ctl := r.after last } := by
  intro r
  refine (Die.modCore_same _ c _).trans ?_
  have run := d.modCore_same c fun k : Core => { k with ctl := if r.fend then { r.ctl with endAt := some last } else r.ctl }
  have marked := Die.fault_ctl_if run r.poison ctlPoison
  have armed (e : Die) (x : Bool) : (if x then { e with flipArm := true } else e).cores = e.cores := by cases x <;> rfl
  have core : (d.runCtl c op last).1.cores[c] = _ := (congrArg (·[c]) (armed _ r.arm)).trans marked
  refine (congrArg r.moveOn core).trans ?_
  unfold CtlRes.moveOn CtlRes.after
  cases r.fend <;> rfl

/-- Without poison and without an arm the operation changes its control core alone. -/
theorem Die.runCtl_quiet {d : Die} {c : CoreIx} {op : CtlOp} {last : Int}
    (hp : (d.cores[c].ctl.run d.cores[c].vec.vs d.frm.fnum op).poison = false)
    (ha : (d.cores[c].ctl.run d.cores[c].vec.vs d.frm.fnum op).arm = false) :
    let r := d.cores[c].ctl.run d.cores[c].vec.vs d.frm.fnum op
    (d.runCtl c op last).1.modCore c r.moveOn = d.modCore c (fun k => { k with ctl := r.after last }) := by
  simp only [Die.runCtl, hp, ha, Bool.false_eq_true, if_false, Die.modCore_modCore]
  refine d.modCore_congr c _ _ ?_
  unfold CtlRes.moveOn CtlRes.after
  rw [hp]
  split <;> rfl

section
variable {s t : State} {a : CoreRef} {op : CtlOp}

theorem Die.ctlOp_legal (hl : ctlIllegal op = none) :
    Die.ctlOp a.core op s.dies[a.die]
      = (s.dies[a.die].runCtl a.core op s.dies[a.die].clock.pcyc).1.modCore a.core (ctlRes s a op).moveOn := by
  simp only [Die.ctlOp, hl]
  rfl

/-- A legal operation on a core whose die runs. -/
theorem ctl_legal (hr : s.runs a.die = true) (hl : ctlIllegal op = none) :
    ∃ t, ctl s a op = .next t ∧ t.core a = { s.core a with ctl := ctlAfter s a op } := by
  refine ⟨_, onDie_runs _ hr, (s.modDie_core a _).trans ?_⟩
  rw [Die.ctlOp_legal hl]
  exact s.dies[a.die].runCtl_core a.core op _

theorem ctl_quiet (hr : s.runs a.die = true) (hl : ctlIllegal op = none) (hp : (ctlRes s a op).poison = false)
    (ha : (ctlRes s a op).arm = false) :
    ctl s a op = .next (s.modCore a (fun k => { k with ctl := ctlAfter s a op })) :=
  onDie_core hr ((Die.ctlOp_legal hl).trans (Die.runCtl_quiet hp ha))

/-- The same as a frame. -/
theorem ctl_only (hr : s.runs a.die = true) (hl : ctlIllegal op = none) (hp : (ctlRes s a op).poison = false)
    (ha : (ctlRes s a op).arm = false) : ∃ t, ctl s a op = .next t ∧ OnlyCtl a s t ∧ (t.core a).ctl = ctlAfter s a op :=
  ⟨_, ctl_quiet hr hl hp ha, onlyCtl_modCore _ rfl⟩

/-- An illegal operation is refused (R151). -/
theorem ctl_refused {cause : Nat} (hr : s.runs a.die = true) (hl : ctlIllegal op = some cause) :
    ∃ t, ctl s a op = .next t ∧ Refused a 0 cause s t := by
  refine ⟨_, ?_, refused_refuseSlot s a 0 cause⟩
  rw [ctl, onDie_runs _ hr]
  refine congrArg _ (s.modDie_congr _ _ _ ?_)
  simp only [Die.ctlOp, hl]
  rfl

/-! ### Loop counters and comparators read back -/

theorem Ctl.setLc_same (k : Ctl) (lc : BitVec 3) (v : BitVec 24) : (k.setLc lc v).lc[lc.toFin] = v := by simp [Ctl.setLc]

theorem Ctl.setLc_other (k : Ctl) (lc r : BitVec 3) (v : BitVec 24) (h : r ≠ lc) : (k.setLc lc v).lc[r.toFin] = k.lc[r.toFin] := by
  have e : lc.toNat ≠ r.toNat := fun e => h (BitVec.eq_of_toNat_eq e.symm)
  simp [Ctl.setLc, Vector.getElem_set_ne, e]

theorem Ctl.setCmp_same (k : Ctl) (c : BitVec 2) (r p : Bool) : (k.setCmp c r p).cmp[c.toFin] = ⟨r, p⟩ := by simp [Ctl.setCmp]

theorem Ctl.setCmp_other (k : Ctl) (c x : BitVec 2) (r p : Bool) (h : x ≠ c) : (k.setCmp c r p).cmp[x.toFin] = k.cmp[x.toFin] := by
  have e : c.toNat ≠ x.toNat := fun e => h (BitVec.eq_of_toNat_eq e.symm)
  simp [Ctl.setCmp, Vector.getElem_set_ne, e]

/-! ### Operations that write one register, loop counter or comparator -/

theorem setReg_of_setS {rd : BitVec 4} {v : U32} (only : OnlyCtl a s t) (h : (t.core a).ctl = (s.core a).ctl.setS rd v) :
    SetReg a rd v s t := by
  refine ⟨only, ?_⟩
  rw [h]
  exact ⟨rfl, Ctl.setS_same _ _ _, fun r hr => Ctl.setS_other _ _ _ _ hr⟩

theorem ctl_setsReg {rd : BitVec 4} {w : U32} (v : U32) (hr : s.runs a.die = true) (hl : ctlIllegal op = none)
    (h : ctlRes s a op = { ctl := (s.core a).ctl.setS rd w }) (hv : w = v) : ∃ t, ctl s a op = .next t ∧ SetReg a rd v s t := by
  obtain ⟨t, he, only, after⟩ := ctl_only hr hl (by rw [h]) (by rw [h])
  exact ⟨t, he, setReg_of_setS only (by rw [after, ctlAfter, h, hv]; rfl)⟩

theorem ctl_setsLoop {lc : BitVec 3} {w : BitVec 24} (v : BitVec 24) (hr : s.runs a.die = true) (hl : ctlIllegal op = none)
    (h : ctlRes s a op = { ctl := (s.core a).ctl.setLc lc w }) (hv : w = v) : ∃ t, ctl s a op = .next t ∧ SetLoop a lc v s t := by
  obtain ⟨t, he, only, after⟩ := ctl_only hr hl (by rw [h]) (by rw [h])
  have core : (t.core a).ctl = (s.core a).ctl.setLc lc v := by rw [after, ctlAfter, h, hv]; rfl
  refine ⟨t, he, only, ?_⟩
  rw [core]
  exact ⟨rfl, Ctl.setLc_same _ _ _, fun r hr => Ctl.setLc_other _ _ _ _ hr⟩

theorem ctl_setsCmp {c : BitVec 2} {x : Bool} (r p : Bool) (hr : s.runs a.die = true) (hl : ctlIllegal op = none)
    (h : ctlRes s a op = { ctl := (s.core a).ctl.setCmp c x p }) (hv : x = r) : ∃ t, ctl s a op = .next t ∧ SetCmp a c r p s t := by
  obtain ⟨t, he, only, after⟩ := ctl_only hr hl (by rw [h]) (by rw [h])
  have core : (t.core a).ctl = (s.core a).ctl.setCmp c r p := by rw [after, ctlAfter, h, hv]; rfl
  refine ⟨t, he, only, ?_⟩
  rw [core]
  exact ⟨rfl, Ctl.setCmp_same _ _ _ _, fun r hr => Ctl.setCmp_other _ _ _ _ _ hr⟩

end

/-! ### Results of the arithmetic operations (R137) -/

section
variable (x y : U32) (imm : BitVec 16)

theorem aluVal_add : aluVal .add x y = BitVec.ofNat 32 (x.toNat + y.toNat) := by
  show x + y = _
  bv_omega

theorem aluVal_add_int : aluVal .add x y = BitVec.ofInt 32 (x.toInt + y.toInt) := by
  show x + y = _
  rw [BitVec.ofInt_add, BitVec.ofInt_toInt, BitVec.ofInt_toInt]

theorem aluVal_sub : aluVal .sub x y = BitVec.ofInt 32 (x.toInt - y.toInt) := by
  show x - y = _
  exact BitVec.eq_of_toInt_eq (by rw [BitVec.toInt_sub, BitVec.toInt_ofInt])

theorem aluVal_shl : aluVal .shl x y = BitVec.ofNat 32 (x.toNat * 2 ^ (y.toNat % 32)) := by
  show x <<< (y.toNat % 32) = _
  exact BitVec.eq_of_toNat_eq (by rw [BitVec.toNat_shiftLeft, Nat.shiftLeft_eq, BitVec.toNat_ofNat])

theorem aluVal_shr : aluVal .shr x y = BitVec.ofNat 32 (x.toNat / 2 ^ (y.toNat % 32)) := by
  show x >>> (y.toNat % 32) = _
  have := (Nat.div_le_self x.toNat (2 ^ (y.toNat % 32))).trans_lt x.isLt
  exact BitVec.eq_of_toNat_eq (by rw [BitVec.toNat_ushiftRight, Nat.shiftRight_eq_div_pow, BitVec.toNat_ofNat, Nat.mod_eq_of_lt this])

theorem aluVal_sra : aluVal .sra x y = BitVec.ofInt 32 (x.toInt / 2 ^ (y.toNat % 32)) := by
  show x.sshiftRight (y.toNat % 32) = _
  rw [BitVec.sshiftRight, Int.shiftRight_eq_div_pow]
  norm_cast

theorem immVal_toNat {op : AluOp} (h : op ≠ .add) : (immVal op imm).toNat = imm.toNat := by
  cases op
  case add => exact absurd rfl h
  all_goals exact BitVec.toNat_setWidth_of_le (by decide)

theorem immVal_toInt : (immVal .add imm).toInt = imm.toInt := BitVec.toInt_signExtend_of_le (by decide)

end

/-! ### The statements on registers and loop counters -/

/-- Settles O4: each operation writes its destination register with the result of the table. -/
theorem registerOperations : Obligations.RegisterOperations := by
  unfold Obligations.RegisterOperations
  intro s a rd ra rb hr x y
  have sets {op : CtlOp} {w : U32} (v : U32) := ctl_setsReg (s := s) (a := a) (op := op) (rd := rd) (w := w) v hr
  exact ⟨sets _ rfl rfl (aluVal_add x y), sets _ rfl rfl (aluVal_sub x y), sets _ rfl rfl rfl, sets _ rfl rfl rfl,
    sets _ rfl rfl rfl, sets _ rfl rfl (aluVal_shl x y), sets _ rfl rfl (aluVal_shr x y), sets _ rfl rfl (aluVal_sra x y),
    sets _ rfl rfl rfl, sets _ rfl rfl rfl⟩

theorem movhi_eq (imm : BitVec 16) (x : U32) :
    (imm ++ x.extractLsb' 0 16 : BitVec 32) = BitVec.ofNat 32 (imm.toNat * 65536 + x.toNat % 65536) := by
  have lo : (x.extractLsb' 0 16).toNat = x.toNat % 65536 := by rw [BitVec.extractLsb'_toNat, Nat.shiftRight_zero]
  apply BitVec.eq_of_toNat_eq
  rw [BitVec.toNat_append, lo, ← Nat.shiftLeft_add_eq_or_of_lt (by omega), Nat.shiftLeft_eq, BitVec.toNat_ofNat]
  omega

theorem immVal_eq_ofNat {op : AluOp} (imm : BitVec 16) (h : op ≠ .add) : immVal op imm = BitVec.ofNat 32 imm.toNat :=
  BitVec.eq_of_toNat_eq ((immVal_toNat imm h).trans (Nat.mod_eq_of_lt (imm.isLt.trans (by decide))).symm)

/-- The bitwise operations with an immediate. -/
theorem aluVal_immVal_bitwise (x : U32) (imm : BitVec 16) :
    aluVal .and x (immVal .and imm) = BitVec.ofNat 32 (x.toNat &&& imm.toNat)
    ∧ aluVal .or x (immVal .or imm) = BitVec.ofNat 32 (x.toNat ||| imm.toNat)
    ∧ aluVal .xor x (immVal .xor imm) = BitVec.ofNat 32 (x.toNat ^^^ imm.toNat) := by
  rw [immVal_eq_ofNat (op := .and) imm nofun, immVal_eq_ofNat (op := .or) imm nofun, immVal_eq_ofNat (op := .xor) imm nofun,
    BitVec.ofNat_and, BitVec.ofNat_or, BitVec.ofNat_xor, BitVec.ofNat_toNat 32 x, BitVec.setWidth_eq]
  exact ⟨rfl, rfl, rfl⟩

/-- The shifts by an immediate below 32. -/
theorem aluVal_immVal_shift (x : U32) {imm : BitVec 16} (h : imm.toNat < 32) :
    aluVal .shl x (immVal .shl imm) = BitVec.ofNat 32 (x.toNat * 2 ^ imm.toNat)
    ∧ aluVal .shr x (immVal .shr imm) = BitVec.ofNat 32 (x.toNat / 2 ^ imm.toNat)
    ∧ aluVal .sra x (immVal .sra imm) = BitVec.ofInt 32 (x.toInt / 2 ^ imm.toNat) := by
  rw [aluVal_shl, aluVal_shr, aluVal_sra, immVal_toNat (op := .shl) imm nofun, immVal_toNat (op := .shr) imm nofun,
    immVal_toNat (op := .sra) imm nofun, Nat.mod_eq_of_lt h]
  exact ⟨rfl, rfl, rfl⟩

/-- Settles O5: each operation writes its destination, and `cnop` writes the control core as it is. -/
theorem immediateAndLoopOperations : Obligations.ImmediateAndLoopOperations := by
  unfold Obligations.ImmediateAndLoopOperations
  constructor
  · intro s a rd ra imm hr x
    have sets {op : CtlOp} {w : U32} (v : U32) := ctl_setsReg (s := s) (a := a) (op := op) (rd := rd) (w := w) v hr
    obtain ⟨hand, hor, hxor⟩ := aluVal_immVal_bitwise x imm
    refine ⟨sets _ rfl rfl ?_, sets _ rfl rfl hand, sets _ rfl rfl hor, sets _ rfl rfl hxor,
      sets _ rfl rfl (BitVec.ofNat_toNat ..).symm, sets _ rfl rfl (movhi_eq imm _), fun hi => ?_⟩
    · rw [aluVal_add_int, immVal_toInt]
    · obtain ⟨hshl, hshr, hsra⟩ := aluVal_immVal_shift x hi
      exact ⟨sets _ (if_pos hi) rfl hshl, sets _ (if_pos hi) rfl hshr, sets _ (if_pos hi) rfl hsra⟩
  · intro s a rd ra lc imm hr
    refine ⟨ctl_setsLoop _ hr rfl rfl rfl, ctl_setsLoop _ hr rfl rfl (BitVec.ofNat_toNat ..).symm,
      ctl_setsReg _ hr rfl rfl (BitVec.ofNat_toNat ..).symm, (ctl_quiet (op := .cnop) hr rfl rfl rfl).trans ?_⟩
    exact congrArg _ (s.modDie_self _ _ (Die.modCore_self _ _ _ rfl))

/-! ### Loops (R140) -/

/-- A control core after `bloop`. -/
def Ctl.looped (k : Ctl) (lc : BitVec 3) (tgt : BitVec 16) : Ctl :=
  { k.setLc lc (BitVec.ofNat 24 (k.lc[lc.toFin].toNat - 1)) with
    pc := if 1 < k.lc[lc.toFin].toNat then tgt else k.pc
    nextChk := k.nextChk + 1 }

theorem OnlyCtl.runs {a : CoreRef} {s t : State} (h : OnlyCtl a s t) : t.runs a.die = s.runs a.die := by
  obtain ⟨⟨⟨rest, -⟩, die, -⟩, -⟩ := h
  have hub := congrArg State.hub rest
  have pow := congrArg Die.pow die
  dsimp only at hub pow
  rw [State.runs, State.runs, hub, pow]

section
variable {s : State} {a : CoreRef} {lc : BitVec 3} {tgt : BitVec 16}

theorem Ctl.run_bloop (k : Ctl) (vs : Vector Summary 8) (fnum : BitVec 48) (last : Int) :
    (k.run vs fnum (.bloop lc tgt)).after last = k.looped lc tgt := by
  obtain ⟨v, hv⟩ : ∃ v, k.lc[lc.toFin] = v := ⟨_, rfl⟩
  simp only [Ctl.run, Ctl.looped, hv]
  by_cases h0 : v = 0
  · subst h0
    have self : k.setLc lc (BitVec.ofNat 24 ((0 : BitVec 24).toNat - 1)) = k := by
      rw [show BitVec.ofNat 24 ((0 : BitVec 24).toNat - 1) = k.lc[lc.toFin] from hv.symm]
      simp [Ctl.setLc]
    rw [self]
    rfl
  · have less : v - 1 = BitVec.ofNat 24 (v.toNat - 1) := by bv_omega
    have taken : (if v = 1 then none else some tgt : Option (BitVec 16)).getD k.pc = if 1 < v.toNat then tgt else k.pc := by
      by_cases h1 : v = 1
      · rw [if_pos h1, if_neg (by bv_omega), Option.getD_none]
      · rw [if_neg h1, if_pos (by bv_omega), Option.getD_some]
    rw [if_neg h0, less, ← taken]
    rfl

theorem exec_bloop (hr : s.runs a.die = true) (ht : tgt.toNat < 0xC000) :
    ∃ t, exec (.bloop a lc tgt) s = .next t ∧ OnlyCtl a s t ∧ (t.core a).ctl = (s.core a).ctl.looped lc tgt := by
  have quiet : (ctlRes s a (.bloop lc tgt)).poison = false ∧ (ctlRes s a (.bloop lc tgt)).arm = false := by
    simp only [ctlRes, Ctl.run]
    split <;> exact ⟨rfl, rfl⟩
  obtain ⟨t, he, only, after⟩ := ctl_only (op := .bloop lc tgt) hr (if_neg (Nat.not_le.2 ht)) quiet.1 quiet.2
  exact ⟨t, he, only, after.trans (Ctl.run_bloop ..)⟩

theorem Ctl.looped_count (k : Ctl) : (k.looped lc tgt).lc[lc.toFin].toNat = k.lc[lc.toFin].toNat - 1 := by
  have := k.lc[lc.toFin].isLt
  rw [show (k.looped lc tgt).lc[lc.toFin] = BitVec.ofNat 24 (k.lc[lc.toFin].toNat - 1) from Ctl.setLc_same .., BitVec.toNat_ofNat]
  omega

/-- Executions that leave the counter not below 1 answer a next state and count down (R140). -/
theorem bloopRuns_counts (ht : tgt.toNat < 0xC000) : ∀ (k : Nat) (s : State), s.runs a.die = true →
    k < max (s.core a).ctl.lc[lc.toFin].toNat 1 →
    ∃ u, bloopRuns a lc tgt k s = some u ∧ u.runs a.die = true
      ∧ (u.core a).ctl.lc[lc.toFin].toNat = (s.core a).ctl.lc[lc.toFin].toNat - k
  | 0, s, hr, _ => ⟨s, rfl, hr, rfl⟩
  | k + 1, s, hr, hk => by
    obtain ⟨t, he, only, after⟩ := exec_bloop (lc := lc) hr ht
    have count : (t.core a).ctl.lc[lc.toFin].toNat = (s.core a).ctl.lc[lc.toFin].toNat - 1 := by rw [after, Ctl.looped_count]
    obtain ⟨u, hu, hru, hcu⟩ := bloopRuns_counts ht k t (only.runs.trans hr) (by omega)
    exact ⟨u, by simp only [bloopRuns, he, hu], hru, by omega⟩

end

/-- Settles O6, by induction on the number of executions. -/
theorem loopBranch : Obligations.LoopBranch := by
  unfold Obligations.LoopBranch
  constructor
  · intro s a lc tgt hr ht
    refine ⟨?_, fun k hk => ?_⟩
    · obtain ⟨t, he, only, after⟩ := exec_bloop (lc := lc) hr ht
      refine ⟨t, he, only, ?_⟩
      rw [after]
      exact ⟨rfl, Ctl.looped_count _, fun r h => Ctl.setLc_other _ _ _ _ h, rfl, rfl⟩
    · obtain ⟨u, hu, hru, hcu⟩ := bloopRuns_counts ht k s hr hk
      obtain ⟨t, he, -, after⟩ := exec_bloop (lc := lc) hru ht
      refine ⟨u, t, hu, hcu, he, ?_⟩
      rw [after]
      exact if_congr (by omega) rfl rfl
  · intro s a lc ra hr
    refine ⟨?_, fun hs => ?_⟩
    · obtain ⟨t, he, -, -, hlc, -⟩ := ctl_setsLoop (op := .lseti lc 8388607) _ hr rfl rfl rfl
      exact ⟨t, he, by rw [hlc]; rfl⟩
    · obtain ⟨t, he, -, -, hlc, -⟩ := ctl_setsLoop (op := .lset lc ra) _ hr rfl rfl rfl
      refine ⟨t, he, ?_⟩
      rw [hlc, BitVec.extractLsb'_toNat, hs]
      rfl

/-! ### Branches (R137 to R139, R141) -/

/-- A branch with a legal target, taken or not: without poison nothing else changes, and with it the rest of the clause holds. -/
theorem ctl_branches {s : State} {a : CoreRef} {op : CtlOp} {target : Option (BitVec 16)} {poison : Bool} {pc : BitVec 16}
    (hr : s.runs a.die = true) (hl : ctlIllegal op = none)
    (h : ctlRes s a op = { ctl := (s.core a).ctl, target := target, branch := true, poison := poison })
    (hpc : target.getD (s.core a).ctl.pc = pc) :
    ∃ t, ctl s a op = .next t ∧ (poison = false → Branched a pc s t)
      ∧ (poison = true → bit (t.core a).ctl.fault 2 = true ∧ (t.core a).ctl.pc = pc
          ∧ (t.core a).ctl.nextChk = (s.core a).ctl.nextChk + 1 ∧ (t.core a).ctl.s = (s.core a).ctl.s) := by
  subst hpc
  cases poison with
  | false =>
    obtain ⟨t, he, only, after⟩ := ctl_only hr hl (by rw [h]) (by rw [h])
    refine ⟨t, he, fun _ => ⟨only, ?_⟩, nofun⟩
    rw [after, ctlAfter, h]
    exact ⟨rfl, rfl, rfl⟩
  | true =>
    obtain ⟨t, he, core⟩ := ctl_legal hr hl
    refine ⟨t, he, nofun, fun _ => ?_⟩
    rw [core, ctlAfter, h]
    exact ⟨bit_setBit_same _ (by decide), rfl, rfl, rfl⟩

/-- Settles O7. -/
theorem branches : Obligations.Branches := by
  unfold Obligations.Branches
  intro s a c tgt hr ht x pc
  have legal : (if 0xC000 ≤ tgt.toNat then some 5 else none : Option Nat) = none := if_neg (Nat.not_le.2 ht)
  refine ⟨?_, ctl_branches (op := .bc c tgt) hr legal rfl (apply_ite (Option.getD · pc) ..),
    ctl_branches (op := .bnc c tgt) hr legal rfl (apply_ite (Option.getD · pc) ..)⟩
  obtain ⟨t, he, jumps, -⟩ := ctl_branches (op := .jmp tgt) hr legal rfl rfl
  exact ⟨t, he, jumps rfl⟩

/-! ### Compares and reads (R139, R144, R148) -/

/-- A condition of R139 on two integers. -/
def condOn (cond : BitVec 3) (x y : Int) : Bool :=
  if cond = 0 then decide (x = y) else if cond = 1 then decide (x ≠ y) else if cond = 2 then decide (x < y)
  else if cond = 3 then decide (y ≤ x) else if cond = 4 then decide (x ≤ y) else decide (y < x)

theorem condHolds_decide {cond : BitVec 3} (h : cond.toNat < 6) (x y : Int) :
    condHolds cond (decide (x = y)) (decide (x < y)) = condOn cond x y := by
  obtain rfl | rfl | rfl | rfl | rfl | rfl : cond = 0 ∨ cond = 1 ∨ cond = 2 ∨ cond = 3 ∨ cond = 4 ∨ cond = 5 := by bv_omega
  all_goals
    rw [Bool.eq_iff_iff]
    simp [condHolds, condOn]
  all_goals omega

theorem condInt_eq {cond : BitVec 3} (h : cond.toNat < 6) (u : Bool) (x y : U32) :
    condInt cond u x y = if u then condOn cond x.toNat y.toNat else condOn cond x.toInt y.toInt := by
  rw [condInt]
  cases u
  · have same : (x == y) = decide (x.toInt = y.toInt) := by rw [Bool.eq_iff_iff]; simp [BitVec.toInt_inj]
    rw [same]
    exact condHolds_decide h ..
  · have same : (x == y) = decide ((x.toNat : Int) = y.toNat) := by rw [Bool.eq_iff_iff]; simp [BitVec.toNat_inj]
    have less : x.ult y = decide ((x.toNat : Int) < y.toNat) := by simp [BitVec.ult]
    rw [if_pos rfl, same, less]
    exact condHolds_decide h ..

/-- The immediate operand of `cmpi`, zero-extended or sign-extended. -/
theorem condInt_imm {cond : BitVec 3} (h : cond.toNat < 6) (u : Bool) (x : U32) (imm : BitVec 16) :
    condInt cond u x (if u then imm.zeroExtend 32 else imm.signExtend 32)
      = if u then condOn cond x.toNat imm.toNat else condOn cond x.toInt imm.toInt := by
  rw [condInt_eq h]
  cases u
  · exact congrArg (condOn cond x.toInt) (immVal_toInt imm)
  · exact congrArg (fun n : Nat => condOn cond x.toNat n) (immVal_toNat (op := .and) imm nofun)

theorem Die.ctlOp_iarm (d : Die) (c : CoreIx) : Die.ctlOp c .iarm d = { d with flipArm := true } := by
  have self : d.modCore c (fun k => { k with ctl := (d.cores[c].ctl.run d.cores[c].vec.vs d.frm.fnum .iarm).ctl }) = d :=
    d.modCore_self c _ rfl
  simp only [Die.ctlOp, ctlIllegal, Die.runCtl]
  refine (Die.modCore_self _ c _ rfl).trans ?_
  exact congrArg (fun e : Die => { e with flipArm := true }) self

/-- Settles O8: the conditions are those of `condOn`. -/
theorem comparesAndReads : Obligations.ComparesAndReads := by
  unfold Obligations.ComparesAndReads
  constructor
  · intro s a c cond u ra rb imm vs hr hc holds x y v
    have legal : (if condReserved cond then some 1 else none : Option Nat) = none :=
      if_neg (by simpa [condReserved] using hc)
    refine ⟨ctl_setsCmp _ _ hr legal rfl (condInt_eq hc u x y), ctl_setsCmp _ _ hr legal rfl (condInt_imm hc u x imm), ?_⟩
    obtain ⟨t, he, set⟩ := ctl_setsCmp (op := .cmpv c cond vs rb) _ _ hr legal rfl rfl
    refine ⟨t, he, ⟨_, set⟩, fun hv => ?_, fun hv => ?_⟩
    · have val : condVs cond v y = holds v.val.toNat y.toNat := by
        rw [condVs, hv]
        exact condInt_eq hc true v.val y
      exact val ▸ set
    · have val : condVs cond v y = false := by rw [condVs, hv]; rfl
      exact val ▸ set
  · intro s a rd vs hr v
    refine ⟨?_, ⟨_, onDie_runs _ hr, onlyDie_modDie s a.die _, (s.modDie_die a.die _).trans (Die.ctlOp_iarm ..)⟩,
      ctl_only (op := .fend) hr rfl rfl rfl⟩
    have res : ctlRes s a (.rdvs rd vs) = { ctl := (s.core a).ctl.setS rd v.val, poison := v.poison } := rfl
    cases hp : v.poison with
    | false =>
      obtain ⟨t, he, set⟩ := ctl_setsReg (op := .rdvs rd vs) v.val hr rfl (by rw [res, hp]) rfl
      exact ⟨t, he, fun _ => set, nofun⟩
    | true =>
      obtain ⟨t, he, core⟩ := ctl_legal (op := .rdvs rd vs) hr rfl
      refine ⟨t, he, nofun, fun _ => ?_⟩
      rw [core, ctlAfter, res, hp]
      exact ⟨Ctl.setS_same _ _ _, bit_setBit_same _ (by decide), fun r h => Ctl.setS_other _ _ _ _ h⟩

end Sys2Proof.Machine

/-! # Empty and illegal slots (O9) -/

namespace Sys2Proof.Machine

/-! ### Empty slots (R163, R165, R170, R177, R180, R182) -/

/-- The empty operation is legal and ready, and its issue changes nothing. -/
theorem Die.slotOp_nop (d : Die) (c : CoreIx) (b : Fin 8) : Die.slotOp c b .nop d = d := by
  have ready (x : Checked) (hx : x.op = .nop) : d.slotReady c x = true := by
    simp only [Die.slotReady, Die.portFree, Die.bankFree, hx, readyOn, elemCount, if_true, Bool.and_true, List.all_eq_true,
      implies_true]
  have issued (x : Checked) (hx : x.op = .nop) : d.issueSlot c x = d := by
    simp only [Die.issueSlot, hx]
    exact d.modCore_self c _ rfl
  simp only [Die.slotOp, illegalCauses, lowestCause, List.foldl_nil]
  rw [ready _ rfl, if_pos rfl, issued _ rfl]

theorem slotOut_nop (s : State) (a : CoreRef) (b : Fin 8) : slotOut s a b .nop = .next s := by
  rw [slotOut, onDie]
  split
  · rw [s.modDie_self a.die _ (Die.slotOp_nop ..)]
  · rfl

/-! ### The lowest cause (R154) -/

theorem lowestCause_cons (x y : Nat) (cs : List Nat) : lowestCause (x :: y :: cs) = lowestCause (min x y :: cs) := rfl

theorem lowestCause_least {cs : List Nat} {cause : Nat} (h : lowestCause cs = some cause) : cause ∈ cs ∧ ∀ c ∈ cs, cause ≤ c := by
  cases cs with
  | nil => cases h
  | cons x cs =>
    induction cs generalizing x with
    | nil =>
      obtain rfl : x = cause := Option.some.inj h
      simp
    | cons y cs ih =>
      obtain ⟨mem, least⟩ := ih (min x y) ((lowestCause_cons x y cs).symm.trans h)
      simp only [List.mem_cons, forall_eq_or_imp] at mem least ⊢
      refine ⟨?_, by omega, by omega, least.2⟩
      rcases mem with mem | mem
      · omega
      · exact .inr (.inr mem)

/-- An illegal slot is refused under the lowest of its causes. -/
theorem slotOut_lowest {s : State} {a : CoreRef} {b : Fin 8} {op : SlotOp} {cause : Nat} (hr : s.runs a.die = true)
    (hl : lowestCause (slotCauses s a op) = some cause) : ∃ t, slotOut s a b op = .next t ∧ Refused a b.val cause s t := by
  refine ⟨_, ?_, refused_refuseSlot s a b.val cause⟩
  rw [slotOut, onDie_runs _ hr]
  refine congrArg _ (s.modDie_congr _ _ _ ?_)
  have hl : lowestCause (illegalCauses (s.dies[a.die].designator a.core) s.dies[a.die].cores[a.core]
    s.dies[a.die].cores[a.core].ctl.s op) = some cause := hl
  simp only [Die.slotOp, hl]
  rfl

/-- Settles O9: an illegal slot, and an illegal operation of the CTL slot, is refused under its cause. -/
theorem emptyAndIllegalSlots : Obligations.EmptyAndIllegalSlots := by
  unfold Obligations.EmptyAndIllegalSlots
  refine ⟨fun s a p => ⟨slotOut_nop .., slotOut_nop .., slotOut_nop .., slotOut_nop .., slotOut_nop .., slotOut_nop ..⟩,
    fun i a b op s hi hr hc => ?_, fun s a rd ra rb imm tgt c cond lc vs u hr => ⟨fun h => ?_, fun h => ?_, fun h => ?_⟩⟩
  · obtain ⟨cause, hl⟩ := lowestCause_some hc
    obtain ⟨t, he, ref⟩ := slotOut_lowest (b := b) hr hl
    obtain ⟨mem, least⟩ := lowestCause_least hl
    exact ⟨t, cause, (exec_slotOf hi s).trans he, mem, least, ref⟩
  · have cause : (if imm.toNat < 32 then none else some 6 : Option Nat) = some 6 := if_neg (Nat.not_lt.2 h)
    simp only [List.forall_mem_cons, List.not_mem_nil, false_implies, implies_true, and_true]
    exact ⟨ctl_refused (op := .aluImm .shl rd ra imm) hr cause, ctl_refused (op := .aluImm .shr rd ra imm) hr cause,
      ctl_refused (op := .aluImm .sra rd ra imm) hr cause⟩
  · have cause : (if 0xC000 ≤ tgt.toNat then some 5 else none : Option Nat) = some 5 := if_pos h
    simp only [List.forall_mem_cons, List.not_mem_nil, false_implies, implies_true, and_true]
    exact ⟨ctl_refused (op := .jmp tgt) hr cause, ctl_refused (op := .bc c tgt) hr cause, ctl_refused (op := .bnc c tgt) hr cause,
      ctl_refused (op := .bloop lc tgt) hr cause⟩
  · have cause : (if condReserved cond then some 1 else none : Option Nat) = some 1 := if_pos (decide_eq_true h)
    simp only [List.forall_mem_cons, List.not_mem_nil, false_implies, implies_true, and_true]
    exact ⟨ctl_refused (op := .cmpr c cond u ra rb) hr cause, ctl_refused (op := .cmpi c cond u ra imm) hr cause,
      ctl_refused (op := .cmpv c cond vs rb) hr cause⟩

end Sys2Proof.Machine

/-! # Words in the check stage (O24) -/

namespace Sys2Proof.Machine

/-! ### Faults of a control core (R152, R153) -/

/-- A fault of a control core sets a bit of its fault word. -/
theorem Die.fault_ctl {d : Die} {c : CoreIx} {k : Core} (h : d.cores[c] = k) (b : FBit) :
    (d.fault (.ctl c) b).cores[c] = { k with ctl := { k.ctl with fault := setBit k.ctl.fault b.bit } } :=
  Die.fault_ctl_if h true b

/-- A control core that has stopped with a fault. -/
def Ctl.stoppedBy (k : Ctl) (b : FBit) (last : Int) : Ctl :=
  { k with stopped := true, endAt := some last, fault := setBit k.fault b.bit }

theorem Die.stopCore_core {d : Die} {c : CoreIx} {k : Core} (h : d.cores[c] = k) (b : FBit) (last : Int) :
    (d.stopCore c b last).cores[c] = { k with ctl := k.ctl.stoppedBy b last } := by
  have marked (e : Die) : e.markInvalid.cores = e.cores := by
    unfold Die.markInvalid
    split <;> rfl
  subst h
  exact (congrArg (·[c]) (marked _)).trans (Die.fault_ctl (d.modCore_same c _) b)

/-! ### Failed words (R129, R152, R153) -/

theorem Ctl.refuse_parts (k : Ctl) (frame : BitVec 16) (slot cause : Nat) (addr : BitVec 16) :
    (k.refuse frame slot cause addr).s = k.s ∧ (k.refuse frame slot cause addr).stopped = k.stopped
    ∧ (k.refuse frame slot cause addr).cap.cnt = satAdd k.cap.cnt 1
    ∧ (k.cap.valid = false → (k.refuse frame slot cause addr).cap.slot = BitVec.ofNat 4 slot
        ∧ (k.refuse frame slot cause addr).cap.addr = addr) := by
  unfold Ctl.refuse
  dsimp only
  split
  · rename_i h
    exact ⟨rfl, rfl, rfl, fun h' => absurd h (by simp [h'])⟩
  · exact ⟨rfl, rfl, rfl, fun _ => ⟨rfl, rfl⟩⟩

/-- A control core past a failed word, before the stop that the eighth in a row brings. -/
def Ctl.wordFailed (k : Ctl) (frame : BitVec 16) (w : Word) (cause : Nat) (now : Int) : Ctl :=
  let r := k.refuse frame 8 cause k.pc
  { r with
    pc := k.pc + BitVec.ofNat 16 (wordLen w.mask / 4)
    nextChk := now + 1
    failRun := k.failRun + 1
    fault := setBit r.fault hdrChk.bit }

theorem Die.refuseWord_works (d : Die) (c : CoreIx) (cause : Nat) (addr : BitVec 16) :
    let r := d.cores[c].ctl.refuse d.frame16 8 cause addr
    (d.refuseWord c cause addr).cores[c] = { d.cores[c] with ctl := { r with fault := setBit r.fault hdrChk.bit } }
    ∧ (d.refuseWord c cause addr).clock = d.clock := by
  obtain ⟨-, -, hclock, -⟩ :=
    (d.modCore c (fun k => { k with ctl := k.ctl.refuse d.frame16 8 cause addr })).fault_parts (.ctl c) hdrChk
  exact ⟨Die.fault_ctl (d.modCore_same c _) hdrChk, hclock⟩

theorem Die.failedWord_core (d : Die) (c : CoreIx) (w : Word) (cause : Nat) :
    let f := d.cores[c].ctl.wordFailed d.frame16 w cause d.clock.pcyc
    ((d.failedWord c w cause).cores[c]).ctl
      = if 8 ≤ d.cores[c].ctl.failRun + 1 then f.stoppedBy fetchLost (d.clock.pcyc + 4) else f := by
  intro f
  obtain ⟨hcore, hclock⟩ := d.refuseWord_works c cause d.cores[c].ctl.pc
  have moved : ((d.refuseWord c cause d.cores[c].ctl.pc).modCore c (fun k => { k with ctl := { k.ctl with
      pc := d.cores[c].ctl.pc + BitVec.ofNat 16 (wordLen w.mask / 4)
      nextChk := (d.refuseWord c cause d.cores[c].ctl.pc).clock.pcyc + 1
      failRun := d.cores[c].ctl.failRun + 1 } })).cores[c] = { d.cores[c] with ctl := f } := by
    refine (Die.modCore_same _ c _).trans ?_
    rw [show (d.refuseWord c cause d.cores[c].ctl.pc).cores[c.val] = _ from hcore, hclock]
    rfl
  simp only [Die.failedWord]
  split
  · rw [Die.stopCore_core moved]
    exact congrArg (fun x : Clock => f.stoppedBy fetchLost (x.pcyc + 4)) hclock
  · rw [moved]

/-! ### Good words (R130, R131) -/

/-- A control core past a good word. -/
def Ctl.wordPassed (k : Ctl) (w : Word) (now : Int) : Ctl :=
  { k with pc := k.pc + BitVec.ofNat 16 (wordLen w.mask / 4), nextChk := now + (w.rep.toNat + 1), failRun := 0 }

/-- A good word without slots beside CTL. -/
theorem Die.goodWord_ctlOnly {d : Die} {c : CoreIx} {w : Word} (h : ∀ b : Fin 8, b ≠ 0 → bit w.mask b.val = false) :
    let e := d.modCore c (fun k => { k with ctl := d.cores[c].ctl.wordPassed w d.clock.pcyc })
    d.goodWord c w
      = if bit w.mask 0 then e.checkCtl c w.ctlBits (d.clock.pcyc + 4 + w.rep.toNat) d.cores[c].ctl.pc else e := by
  have passed : d.modCore c (fun k => { k with ctl := { k.ctl with
        pc := d.cores[c].ctl.pc + BitVec.ofNat 16 (wordLen w.mask / 4), nextChk := d.clock.pcyc + (w.rep.toNat + 1), failRun := 0 } })
      = d.modCore c (fun k => { k with ctl := d.cores[c].ctl.wordPassed w d.clock.pcyc }) := d.modCore_congr c _ _ rfl
  simp only [Die.goodWord, passed]
  refine foldl_idle (fun b _ e => if_neg ?_) _
  simp only [Bool.and_eq_true, decide_eq_true_eq, not_and, Bool.not_eq_true]
  exact h b

/-- A good word whose only slot is a `movi`. -/
theorem Die.goodWord_movi {d : Die} {c : CoreIx} {w : Word} {rd : BitVec 4} {imm : BitVec 16} (hm : w.mask = 1)
    (hc : ctlCause w.ctlBits = none) (hd : decodeCtl w.ctlBits = some ⟨.movi rd imm, false⟩) :
    d.goodWord c w
      = d.modCore c (fun k => { k with ctl := (d.cores[c].ctl.wordPassed w d.clock.pcyc).setS rd (imm.zeroExtend 32) }) := by
  have passed := d.modCore_same c (fun k => { k with ctl := d.cores[c].ctl.wordPassed w d.clock.pcyc })
  refine ((Die.goodWord_ctlOnly (by rw [hm]; decide)).trans (if_pos (by rw [hm]; decide))).trans ?_
  simp only [Die.checkCtl, hc, hd]
  refine (Die.runCtl_quiet (op := .movi rd imm) rfl rfl).trans ((Die.modCore_modCore ..).trans ?_)
  refine d.modCore_congr c _ _ ?_
  dsimp only
  rw [show (d.modCore c fun k => { k with ctl := d.cores[c].ctl.wordPassed w d.clock.pcyc }).cores[c] = _ from passed]
  rfl

/-! ### The check stage -/

section
variable {s : State} {a : CoreRef}

/-- The word that a core is to fetch next, and whether it lies in the bank (R129, R153). -/
def nextWord (s : State) (a : CoreRef) : Word := fetchWord (s.core a).ctl.bank (4 * (s.core a).ctl.pc.toNat)

def nextInBank (s : State) (a : CoreRef) : Prop :=
  4 * (s.core a).ctl.pc.toNat < 0x30000 ∧ 4 * (s.core a).ctl.pc.toNat + wordLen (nextWord s a).mask ≤ 0x30000

theorem exec_wordCheckStage (hr : s.runs a.die = true) :
    exec (.wordCheckStage a) s = .next (s.modDie a.die (Die.checkStage a.core)) := onDie_runs _ hr

theorem Die.checkStage_outside (hd : s.dies[a.die].checkDue a.core = true) (h : ¬nextInBank s a) :
    Die.checkStage a.core s.dies[a.die] = s.dies[a.die].stopCore a.core pcRange (s.dies[a.die].clock.pcyc + 3) := by
  have h : 0x30000 ≤ 4 * (s.core a).ctl.pc.toNat ∨ 0x30000 < 4 * (s.core a).ctl.pc.toNat + wordLen (nextWord s a).mask := by
    unfold nextInBank at h
    omega
  rw [Die.checkStage, if_pos hd]
  exact if_pos (by rw [Bool.or_eq_true, decide_eq_true_eq, decide_eq_true_eq]; exact h)

theorem Die.checkStage_inside (hd : s.dies[a.die].checkDue a.core = true) (h : nextInBank s a) :
    Die.checkStage a.core s.dies[a.die] = match (nextWord s a).failed with
      | some cause => s.dies[a.die].failedWord a.core (nextWord s a) cause
      | none => s.dies[a.die].goodWord a.core (nextWord s a) := by
  have h : ¬(0x30000 ≤ 4 * (s.core a).ctl.pc.toNat ∨ 0x30000 < 4 * (s.core a).ctl.pc.toNat + wordLen (nextWord s a).mask) := by
    unfold nextInBank at h
    omega
  rw [Die.checkStage, if_pos hd]
  refine (if_neg (by rw [Bool.or_eq_true, decide_eq_true_eq, decide_eq_true_eq]; exact h)).trans ?_
  rfl

/-- A good word that comes to a change of its control core. -/
theorem exec_goodWord {y : Ctl} (hr : s.runs a.die = true) (hd : s.dies[a.die].checkDue a.core = true) (hb : nextInBank s a)
    (hf : (nextWord s a).failed = none)
    (hy : s.dies[a.die].goodWord a.core (nextWord s a) = s.dies[a.die].modCore a.core (fun k => { k with ctl := y })) :
    ∃ t, exec (.wordCheckStage a) s = .next t ∧ OnlyCtl a s t ∧ (t.core a).ctl = y :=
  ⟨_, onDie_core hr ((Die.checkStage_inside hd hb).trans (by rw [hf, hy])), onlyCtl_modCore _ rfl⟩

end

/-- Settles O24, by the branches of the check stage. -/
theorem wordsAreChecked : Obligations.WordsAreChecked := by
  unfold Obligations.WordsAreChecked
  intro s a hr d k w inBank
  have staged := exec_wordCheckStage hr
  have core := s.modDie_core a (Die.checkStage a.core)
  refine ⟨fun hd => ?_, fun hd hb => ?_, fun hd hb hf => ?_, fun hd hb hf hm => ?_, fun rd imm hd hb hf hm hc hdec => ?_⟩
  · exact staged.trans (congrArg _ (s.modDie_self _ _ (if_neg (by rw [hd]; decide))))
  · rw [Die.checkStage_outside hd hb, Die.stopCore_core rfl] at core
    refine ⟨_, staged, onlyDie_modDie .., ?_⟩
    rw [core]
    exact ⟨rfl, bit_setBit_same _ (by decide), rfl, rfl⟩
  · obtain ⟨cause, hcause⟩ := Option.ne_none_iff_exists'.1 hf
    have ctl := congrArg Core.ctl core
    have failed : (nextWord s a).failed = some cause := hcause
    rw [Die.checkStage_inside hd hb, failed] at ctl
    have ctl := ctl.trans (Die.failedWord_core ..)
    obtain ⟨regs, stopped, cnt, cap⟩ := k.refuse_parts d.frame16 8 cause k.pc
    have hdr : bit (k.wordFailed d.frame16 w cause d.clock.pcyc).fault 1 = true := bit_setBit_same _ (by decide)
    refine ⟨_, staged, onlyDie_modDie .., ?_⟩
    by_cases h8 : 8 ≤ k.failRun + 1
    · rw [ctl.trans (if_pos h8)]
      exact ⟨rfl, rfl, rfl, regs, cnt, bit_setBit_of_bit _ hdr, cap, fun h => absurd h (by omega),
        fun _ => ⟨rfl, bit_setBit_same _ (by decide)⟩⟩
    · rw [ctl.trans (if_neg h8)]
      exact ⟨rfl, rfl, rfl, regs, cnt, hdr, cap, fun _ => stopped, fun h => absurd h (by omega)⟩
  · have mask : (nextWord s a).mask = 0 := hm
    obtain ⟨t, he, only, ctl⟩ := exec_goodWord hr hd hb hf
      ((Die.goodWord_ctlOnly (by rw [mask]; decide)).trans (if_neg (by rw [mask]; decide)))
    refine ⟨t, he, only, ctl.trans ?_⟩
    rw [Ctl.wordPassed, mask]
    rfl
  · have mask : (nextWord s a).mask = 1 := hm
    obtain ⟨t, he, only, ctl⟩ := exec_goodWord hr hd hb hf (Die.goodWord_movi mask hc hdec)
    refine ⟨t, he, only, ctl.trans ?_⟩
    rw [Ctl.wordPassed, mask]
    rfl

end Sys2Proof.Machine

/-! # Values at reset (O59) -/

namespace Sys2Proof.Machine

theorem reset_core (n : DieIx) (c : CoreIx) : State.reset.dies[n].cores[c] = Core.init := by
  simp [State.reset, Die.init]

theorem reset_die (n : DieIx) : State.reset.dies[n] = Die.init n := by simp [State.reset]

theorem reset_port (p : PortIx) : State.reset.ports[p] = Port.init := by simp [State.reset]

/-- Settles O59: every core, die and port stands at its reset value. -/
theorem resetValues : Obligations.ResetValues := by
  unfold Obligations.ResetValues
  refine ⟨fun n c => ?_, fun n => ?_, fun p => ?_, by decide, rfl, by decide, by decide, nofun, by decide⟩
  · rw [reset_core]
    refine ⟨rfl, rfl, rfl, rfl, rfl, rfl, rfl, rfl, rfl, rfl, rfl, fun u => ?_, rfl, rfl, rfl, rfl, rfl⟩
    have unit : Core.init.st[u] = Stream.init := by simp [Core.init]
    rw [unit]
    exact ⟨rfl, rfl⟩
  · rw [reset_die]
    exact ⟨rfl, rfl, rfl, rfl, rfl, rfl, rfl, rfl, rfl, rfl, rfl⟩
  · rw [reset_port]
    exact ⟨rfl, rfl, rfl, rfl, rfl, rfl, rfl, rfl, rfl, rfl, rfl⟩

end Sys2Proof.Machine

/-! # Loads that end without their job's key (O57)

Such a load is refused, and the jobs are settled: a key whose job's last plan has ended is erased, from the dies too. -/

namespace Sys2Proof.Machine

/-- A tenant's session that has job 5 and no die. -/
def tenantSession : Session :=
  { num := 1, role := .tenant, key := [], aes := [], salt := [], rseq := 0, resp := none, bad := 0, lastAt := 0, job := 5, mask := 0,
    pos := 0, seg := none, host := 0, offer := none }

/-- The root key of job 7, whose plan no die runs any more. -/
def endedKey : JobKey := { job := 7, tenant := [], key := [1], at_ := 0, maxSerial := 0, loaded := true }

/-- A load of job 5 is in progress, and job 5 has lost its key; die 0, free of any plan, still holds the key of job 7. -/
def otherKeyHeld : State :=
  (State.reset.modDie 0 (fun d => { d with keyReg := [1] })).modHub (fun h => { h with
    fw := { h.fw with running := true }
    sec := { h.sec with keys := [endedKey] }
    dict := { h.dict with sessions := [tenantSession], load := { LoadOp.init with st := .receiving, owner := 1, job := 5, mask := 1 } } })

def firstRequest : Req := { ses := 1, rseq := 1, tagOk := true }

theorem fresh_otherKeyHeld : Fresh otherKeyHeld firstRequest tenantSession := ⟨rfl, rfl, rfl, rfl, rfl, rfl, rfl, rfl⟩

/-- The end of the load finds no key for job 5. -/
theorem endLoad_otherKeyHeld :
    otherKeyHeld.writeEntry tenantSession 0x4000 1 [2] noPlan noStandby = otherKeyHeld.keyLost := by
  refine (State.writeEntry_effect (k := kU8 .wo) (by decide) (by decide) (by decide) (by decide) (by decide)).trans ?_
  rfl

/-- The erasure of a job's key clears it from each die that is free of any plan (R411). -/
theorem State.eraseKey_keyReg {s : State} {job : BitVec 8} {k : JobKey} (h : s.jobKey job = some k) {n : DieIx}
    (hp : s.dies[n].plan = none) (hk : s.dies[n].keyReg = k.key) : (s.eraseKey job).dies[n].keyReg = [] := by
  have key : s.hub.sec.keys.find? (fun k => k.job = job) = some k := h
  have die : (s.eraseKey job).dies[n]
      = if s.dies[n].plan.isNone && s.dies[n].keyReg = k.key then { s.dies[n] with keyReg := [] } else s.dies[n] := by
    simp [State.eraseKey, State.modSec, State.modDict, key]
  rw [die, if_pos (Bool.and_eq_true_iff.2 ⟨by rw [hp]; rfl, decide_eq_true hk⟩)]

/-- With one key to erase, the settling of the jobs erases it. -/
theorem State.settleJobs_dies {s : State} {k : JobKey}
    (h : s.hub.sec.keys.filter (fun k => k.loaded && !(s.jobRuns k.job || (s.hub.dict.load.job = k.job && s.hub.dict.load.st = .checking)))
      = [k]) : s.settleJobs.dies = (s.eraseKey k.job).dies := by
  unfold State.settleJobs
  simp only [h]
  rfl

theorem keyLost_otherKeyHeld : otherKeyHeld.keyLost.1.dies[0].keyReg = [] := by
  unfold State.keyLost
  rw [State.settleJobs_dies (k := endedKey) (by decide)]
  exact State.eraseKey_keyReg (k := endedKey) (n := 0) rfl rfl rfl

/-- Refutes O57 in its clause on a load that ends without its job's key, under which the dies stay as they were: the end of that load
also settles the other jobs, and erases the key of a job whose plan has ended from the dies that hold it (R384, R411). -/
theorem not_plansLoad : ¬ Obligations.PlansLoad := by
  unfold Obligations.PlansLoad
  intro h
  obtain ⟨requests, -⟩ := h otherKeyHeld firstRequest tenantSession endedKey [] [] noPlan noStandby 0 0 ⟨0, 0⟩ false 0 [] 0
  obtain ⟨-, -, -, ⟨t, he, -, keyless, -⟩, -⟩ := requests fresh_otherKeyHeld rfl
  obtain ⟨-, -, -, same⟩ := keyless ⟨rfl, rfl⟩ rfl rfl
  obtain ⟨t', he', resp⟩ := fresh_otherKeyHeld.put_responds 0x4000 1 [2]
  obtain rfl : t = t' := Host.Outcome.next.inj (he.symm.trans he')
  rw [endLoad_otherKeyHeld] at resp
  have held : otherKeyHeld.dies[0].keyReg = [1] := rfl
  have erased := congrArg (fun ds : Vector Die 8 => ds[0].keyReg) (same.symm.trans resp.dies)
  exact absurd (held.symm.trans (erased.trans keyLost_otherKeyHeld)) (by decide)

end Sys2Proof.Machine

/-! # Descriptors take places (O19) -/

namespace Sys2Proof.Machine

/-! ### Slots that issue within their core (R88, R185) -/

/-- The operations that take effect at once, and inside their core: all but the waits, those of the cycle's end, and a `sig` that
names a core. -/
def issuesInCore : SlotOp → Bool
  | .wait _ | .pwait _ | .qsel _ | .qrp _ _ | .hswap _ | .hval _ _ _ | .sig _ _ true _ => false
  | _ => true

/-- A legal, ready operation of that kind changes its core as its issue does. -/
theorem slotOut_issues {s : State} {a : CoreRef} {b : Fin 8} {op : SlotOp} (h : Issues s a b op) (hc : issuesInCore op = true) :
    slotOut s a b op = .next (s.modCore a (fun k =>
      k.issue (runCycle s a) (clockCycle s a) s.dies[a.die].frm.fnum.toNat b op (s.core a).ctl.s)) := by
  have wait : isWait op = false := by
    cases op
    case wait | pwait | qsel => cases hc
    all_goals rfl
  have issue : s.dies[a.die].issueSlot a.core (slotNow s a b op)
      = s.dies[a.die].modCore a.core (fun k =>
          k.issue (runCycle s a) (clockCycle s a) s.dies[a.die].frm.fnum.toNat b op (s.core a).ctl.s) := by
    cases op
    case wait | pwait | qsel | qrp | hswap | hval => cases hc
    case sig sc so rem n =>
      cases rem
      · rfl
      · cases hc
    all_goals rfl
  exact (slotOut_ready h wait).trans (congrArg _ (s.modDie_congr a.die _ (·.modCore a.core _) issue))

/-! ### Places of a stream unit (R161, R225, R322) -/

/-- A change of a core that comes to a place taken on a unit, and to so many more descriptor tags. -/
theorem gainsDescriptor_modCore {s : State} {a : CoreRef} {u : Fin 6} {x : Desc} {tags : BitVec 16} {f : Core → Core}
    (h : f (s.core a) = { (s.core a).takePlace u x with dtag := (s.core a).dtag + tags }) :
    GainsDescriptor a u x tags s (s.modCore a f) := by
  have core := (s.modCore_same a f).trans h
  refine ⟨onlyCore_modCore s a f, ?_, ?_, fun w hw => ?_, ?_⟩ <;> rw [core]
  · rfl
  · exact vupd_get_same (s.core a).st u _ u.isLt
  · exact (vupd_get (s.core a).st u w _).trans (if_neg hw)

theorem Core.takePlace_noTag (k : Core) (u : Fin 6) (x : Desc) : { k.takePlace u x with dtag := k.dtag + 0 } = k.takePlace u x :=
  congrArg (fun t => { k.takePlace u x with dtag := t }) (BitVec.add_zero k.dtag)

theorem Core.issueStream_eq (k : Core) (op : StreamOp) (f : StreamF) (r : Vector U32 16) :
    k.issueStream op f r
      = { k.takePlace (unitOf f.su) (k.descOf op f r) with dtag := k.dtag + if op = .str then 1 else 0 } := by
  cases op
  case str => rfl
  all_goals exact (k.takePlace_noTag ..).symm

/-! ### What a descriptor binds (R171 to R179, R212) -/

/-- The stream operations that fill a buffer: they take the half with the fill role. -/
def fillsBuffer : StreamOp → Bool
  | .ldd | .sfill | .scopy => true
  | .std | .str => false

theorem fillsBuffer_iff {op : StreamOp} : fillsBuffer op = true ↔ op = .ldd ∨ op = .sfill ∨ op = .scopy := by
  cases op <;> decide

theorem fillsBuffer_eq_false {op : StreamOp} (h : ¬(op = .ldd ∨ op = .sfill ∨ op = .scopy)) : fillsBuffer op = false :=
  Bool.eq_false_iff.2 (mt fillsBuffer_iff.1 h)

/-- The operation that a descriptor has from its slot. -/
def descOpOf : StreamOp → DescOp
  | .ldd => .ldd
  | .sfill => .sfill
  | .scopy => .scopy
  | .std => .std
  | .str => .str

/-- Rows, strides, index base, half and marks are bound alike for every stream operation. -/
theorem Core.descOf_common (k : Core) (op : StreamOp) (f : StreamF) (r : Vector U32 16) :
    let x := k.descOf op f r
    let v (i : Nat) : Nat := (regAt r f.so i).toNat
    x.spStride = (if f.kind = 1 then v 3 else 64 * (f.len.toNat + 1))
      ∧ x.drStride = (if f.kind = 1 ∨ f.kind = 2 then v 2 else 64 * (f.len.toNat + 1))
      ∧ (f.kind = 2 → x.idxBase = k.baseOf f.ih.toNat + 4 * v 3)
      ∧ x.left = (f.rows.toNat + 1) * (f.len.toNat + 1) ∧ x.rowBytes = 64 * (f.len.toNat + 1)
      ∧ x.half = ((k.buf f.sh.toNat (fillsBuffer op)).map (·.half)).getD false
      ∧ x.setv = (fillsBuffer op && (f.setv && ((k.buf f.sh.toNat true).map (·.pair)).getD false)) := by
  have bytes : (f.len.toNat + 1) * 64 = 64 * (f.len.toNat + 1) := Nat.mul_comm ..
  cases op <;> simp +contextual [Core.descOf, fillsBuffer, bytes]

/-- So are the fields that the slot gives as they are, and no descriptor has started. -/
theorem Core.descOf_named (k : Core) (op : StreamOp) (f : StreamF) (r : Vector U32 16) :
    let x := k.descOf op f r
    x.op = descOpOf op ∧ x.rows = f.rows.toNat + 1 ∧ x.handle = f.sh.toFin ∧ x.live = true ∧ x.started = none
      ∧ x.done = 0
      ∧ x.sig = f.sig ∧ x.sc = f.sc ∧ x.kind = f.kind := by
  cases op <;> exact ⟨rfl, rfl, rfl, rfl, rfl, rfl, rfl, rfl, rfl⟩

/-- The base of a buffer that is there. -/
theorem base_of_buf {k : Core} {h : Nat} {fill : Bool} {y : Buf} (hy : k.buf h fill = some y) :
    ((k.buf h fill).map (·.base)).getD 0 = y.base := by
  rw [hy]
  rfl

/-- The descriptor of a stream operation that issues in the present plan cycle. -/
def descNow (s : State) (a : CoreRef) (op : StreamOp) (f : StreamF) : Desc := (s.core a).descOf op f (s.core a).ctl.s

/-- A legal, ready stream operation takes a place with that descriptor. -/
theorem exec_stream_ready {s : State} {a : CoreRef} {b : Fin 8} {i : Instr} {op : StreamOp} {f : StreamF}
    (hi : slotOf i = some (a, b, .stream op f)) (h : Issues s a b (.stream op f)) :
    ∃ t, exec i s = .next t ∧ GainsDescriptor a (unitOf f.su) (descNow s a op f) (if op = .str then 1 else 0) s t :=
  ⟨_, (exec_slotOf hi s).trans (slotOut_issues h rfl), gainsDescriptor_modCore (Core.issueStream_eq ..)⟩

/-- A legal, ready `scount` takes a place with its descriptor. -/
theorem exec_scount_ready {s : State} {a : CoreRef} {g : ScountF} (h : Issues s a 4 (.scount g)) :
    ∃ t, exec (.scount a g) s = .next t
      ∧ GainsDescriptor a (unitOf g.su) ((s.core a).scountDesc g (s.core a).ctl.s) 0 s t :=
  ⟨_, (exec_slotOf rfl s).trans (slotOut_issues h rfl), gainsDescriptor_modCore ((s.core a).takePlace_noTag ..).symm⟩

/-- Settles O19: the place is taken with `descNow`, or with `Core.scountDesc`. -/
theorem descriptorsTakePlaces : Obligations.DescriptorsTakePlaces := by
  unfold Obligations.DescriptorsTakePlaces
  intro s a f g
  constructor
  · intro i b op o hm hi v fills
    have hs : slotOf i = some (a, b, .stream op f) ∧ o = descOpOf op := by
      simp only [List.mem_cons, List.not_mem_nil, or_false, Prod.mk.injEq] at hm
      casesm* _ ∨ _, _ ∧ _ <;> subst_vars <;> exact ⟨rfl, rfl⟩
    obtain ⟨hs, rfl⟩ := hs
    obtain ⟨t, he, gains⟩ := exec_stream_ready hs hi
    obtain ⟨spStride, drStride, idxBase, left, rowBytes, half, setv⟩ := (s.core a).descOf_common op f (s.core a).ctl.s
    obtain ⟨named, rows, handle, live, started, done, sig, sc, kind⟩ := (s.core a).descOf_named op f (s.core a).ctl.s
    refine ⟨t, descNow s a op f, he, gains, spStride, drStride, idxBase, handle, live, left, fun hf y hy => ?_,
      fun hf => ⟨?_, fun y hy => ?_⟩, ?_, named, rows, rowBytes, started, done, sig, sc, kind, ?_, ?_, ?_, ?_, ?_⟩
    · rw [descNow, half, setv, fillsBuffer_iff.2 hf, hy]
      exact ⟨rfl, rfl⟩
    · rw [descNow, setv, fillsBuffer_eq_false hf, Bool.false_and]
    · rw [descNow, half, fillsBuffer_eq_false hf, hy]
      rfl
    · rintro rfl
      exact ⟨rfl, rfl⟩
    · rintro (rfl | rfl | rfl) <;> rfl
    · rintro (rfl | rfl) y hy <;> exact congrArg (· + _) (base_of_buf hy)
    · rintro rfl y hy
      exact congrArg (· + _) (base_of_buf hy)
    · rintro rfl
      exact ⟨rfl, fun y hy => congrArg (· + _) (base_of_buf hy)⟩
    · rintro rfl
      exact ⟨rfl, rfl, BitVec.toNat_ofNat ..⟩
  · intro hi
    obtain ⟨t, he, gains⟩ := exec_scount_ready hi
    exact ⟨t, _, he, gains, rfl, rfl, rfl, rfl, rfl, rfl, rfl, rfl, rfl, rfl, rfl, rfl, rfl, rfl, rfl, rfl⟩

end Sys2Proof.Machine

/-! # Descriptors start (O20) -/

namespace Sys2Proof.Machine

/-! ### The head descriptor of a unit -/

/-- The changed core itself, by its index. -/
theorem Die.modCore_core (d : Die) (c : CoreIx) (f : Core → Core) : (d.modCore c f).cores[c] = f d.cores[c] := d.modCore_same c f

/-- A fault of a stream unit sets a bit of the unit's fault word. -/
theorem Die.fault_stream {d : Die} {c : CoreIx} {k : Core} (h : d.cores[c] = k) (u : Fin 6) (b : FBit) :
    (d.fault (.stream c u) b).cores[c] = { k with st := vupd k.st u (fun x => { x with fault := setBit x.fault b.bit }) } := by
  obtain ⟨-, -, -, hk⟩ := d.fault_parts (.stream c u) b
  rw [hk, ← h]
  exact d.modCore_same c _

/-- A unit whose head descriptor changes. -/
def Stream.mapHead (f : Desc → Desc) (x : Stream) : Stream := { x with places := x.places.modifyHead f }

theorem Core.setHead_eq (k : Core) (u : Fin 6) (f : Desc → Desc) :
    k.setHead u f = { k with st := vupd k.st u (Stream.mapHead f) } := by
  refine congrArg (fun g => { k with st := vupd k.st u g }) (funext fun x => ?_)
  rw [Stream.mapHead]
  cases x.places <;> rfl

section
variable {k : Core} {u : Fin 6} {x : Desc} {rest : List Desc}

theorem Stream.mapHead_cons {y : Stream} (h : y.places = x :: rest) (f : Desc → Desc) :
    y.mapHead f = { y with places := f x :: rest } := by
  rw [Stream.mapHead, h, List.modifyHead_cons]

theorem Core.setHead_same (h : k.st[u].places = x :: rest) (f : Desc → Desc) :
    (k.setHead u f).st[u] = { k.st[u] with places := f x :: rest } := by
  rw [Core.setHead_eq, ← Stream.mapHead_cons h f]
  exact vupd_get_same k.st u _ u.isLt

theorem Core.setHead_other (k : Core) {u w : Fin 6} (hw : w ≠ u) (f : Desc → Desc) : (k.setHead u f).st[w] = k.st[w] :=
  (vupd_get k.st u w _).trans (if_neg hw)

/-- Changes of the head that agree on it as it is are the same. -/
theorem Core.setHead_congr (h : k.st[u].places = x :: rest) {f g : Desc → Desc} (hf : f x = g x) :
    k.setHead u f = k.setHead u g := by
  have same : Stream.mapHead f k.st[u] = Stream.mapHead g k.st[u] := by rw [Stream.mapHead_cons h, Stream.mapHead_cons h, hf]
  simp only [Core.setHead_eq, vupd, same]

/-- A change of the head that leaves it as it is is none. -/
theorem Core.setHead_self (h : k.st[u].places = x :: rest) {f : Desc → Desc} (hf : f x = x) : k.setHead u f = k := by
  rw [Core.setHead_eq, vupd_eq_self k.st u _ (by rw [Stream.mapHead_cons h, hf, ← h])]

/-- Two changes of the head in turn are one. -/
theorem Core.setHead_setHead (k : Core) (u : Fin 6) (f g : Desc → Desc) :
    (k.setHead u f).setHead u g = k.setHead u (fun x => g (f x)) := by
  have both (y : Stream) : (y.mapHead f).mapHead g = y.mapHead (fun x => g (f x)) := by
    simp only [Stream.mapHead, List.modifyHead_modifyHead]
    rfl
  simp only [Core.setHead_eq, vupd_vupd, both]

end

/-! ### Index elements (R174, R225) -/

section
variable {k : Core} {x : Desc} {t : Nat}

theorem Core.indexBeat_waiting (k : Core) (h : x.started = none) (t : Nat) : k.indexBeat x t = (x, false) := by
  simp only [Core.indexBeat, h]

theorem Core.indexBeat_direct (k : Core) (h : x.kind ≠ 2) (t : Nat) : k.indexBeat x t = (x, false) := by
  unfold Core.indexBeat
  split
  · rfl
  · simp only [decide_eq_false h, Bool.false_and, Bool.false_eq_true, if_false]

/-- Index elements that are read leave what the descriptor moves and when it started. -/
theorem Desc.addIndex_kept (x : Desc) (es : List (Option Nat × Bool)) (t : Nat) :
    (x.addIndex es t).index = x.index ++ es ∧ (x.addIndex es t).started = x.started ∧ (x.addIndex es t).op = x.op
      ∧ (x.addIndex es t).sp = x.sp ∧ (x.addIndex es t).dr = x.dr := by
  unfold Desc.addIndex
  dsimp only
  split <;> exact ⟨rfl, rfl, rfl, rfl, rfl⟩

/-- An index beat leaves what the descriptor moves and when it started. -/
theorem Core.indexBeat_kept (k : Core) (x : Desc) (t : Nat) :
    (k.indexBeat x t).1.started = x.started ∧ (k.indexBeat x t).1.op = x.op ∧ (k.indexBeat x t).1.sp = x.sp
      ∧ (k.indexBeat x t).1.dr = x.dr := by
  unfold Core.indexBeat
  split
  · exact ⟨rfl, rfl, rfl, rfl⟩
  · split
    · exact (x.addIndex_kept _ t).2
    · exact ⟨rfl, rfl, rfl, rfl⟩

/-- In the run cycle in which an indirect descriptor starts it reads its first 256 index elements. -/
theorem Core.indexBeat_first (k : Core) (hs : x.started = some t) (hk : x.kind = 2) (hi : x.index = []) (hr : 0 < x.rows) :
    (k.indexBeat x t).1.index.length = min 256 x.rows := by
  have due : (decide (x.kind = 2) && decide (t ≤ t) && x.index.length == indexPerCycle * (t - t)
      && decide (x.index.length < x.rows)) = true := by simp [hk, hi, hr]
  simp only [Core.indexBeat, hs, due, if_true]
  obtain ⟨index, -⟩ := x.addIndex_kept (((List.range (min indexPerCycle (x.rows - x.index.length))).map
    (fun i => k.readIndex x (x.index.length + i))).map (·.1)) t
  rw [index, hi]
  simp [indexPerCycle]

end

/-! ### The start (R225) -/

/-- A descriptor that starts in run cycle t. -/
def Desc.startedAt (x : Desc) (t : Nat) : Desc := { x with started := some t, offerAt := t }

/-- A descriptor that starts in the present run cycle, with its first index elements in a cycle that runs, and whether one
is bad. -/
def Die.starting (d : Die) (c : CoreIx) (x : Desc) : Desc × Bool :=
  let y := x.startedAt d.clock.rc
  if d.heldNow then (y, false) else d.cores[c].indexBeat y d.clock.rc

section
variable {d : Die} {c : CoreIx} {u : Fin 6} {x : Desc} {rest : List Desc}

/-- Where the descriptor ahead completed in this cycle nothing starts. -/
theorem Die.descriptorStart_ended (hp : d.cores[c].st[u].places = x :: rest) (hs : x.started = none)
    (he : d.cores[c].st[u].ended = true) : Die.descriptorStart c u d = d := by
  have still : d.modCore c (fun k => k.startHead d.clock.rc u) = d := d.modCore_self c _ (if_pos he)
  have head : d.modCore c (fun k => k.setHead u (fun _ => x)) = d := d.modCore_self c _ (Core.setHead_self hp rfl)
  simp only [Die.descriptorStart, still, hp, Core.indexBeat_waiting _ hs, head]
  simp

/-- The head starts, and its index elements are read as on the die before. -/
theorem Die.descriptorStart_starts (hp : d.cores[c].st[u].places = x :: rest) (hs : x.started = none)
    (he : d.cores[c].st[u].ended = false) :
    Die.descriptorStart c u d
      = let e := d.modCore c (·.setHead u (fun _ => (d.starting c x).1))
        if (d.starting c x).2 then e.fault (.stream c u) idxBad else e := by
  have start : d.modCore c (fun k => k.startHead d.clock.rc u) = d.modCore c (·.setHead u (fun _ => x.startedAt d.clock.rc)) := by
    refine d.modCore_congr c _ _ ((if_neg (by rw [he]; decide)).trans (Core.setHead_congr hp ?_))
    rw [hs]
    rfl
  have core := d.modCore_core c (·.setHead u (fun _ => x.startedAt d.clock.rc))
  have places := congrArg Stream.places (Core.setHead_same hp (fun _ => x.startedAt d.clock.rc))
  have held : (d.modCore c (·.setHead u (fun _ => x.startedAt d.clock.rc))).heldNow = d.heldNow := rfl
  have beat (k : Core) : (k.setHead u (fun _ => x.startedAt d.clock.rc)).indexBeat (x.startedAt d.clock.rc) d.clock.rc
      = k.indexBeat (x.startedAt d.clock.rc) d.clock.rc := rfl
  by_cases hh : d.heldNow = true
  · simp only [Die.descriptorStart, Die.starting, start, held, if_pos hh, Bool.false_eq_true, if_false]
  · simp only [Die.descriptorStart, Die.starting, start, held, if_neg hh, core, places, Die.modCore_clock, beat,
      Die.modCore_modCore, Core.setHead_setHead]

/-- A core with other places on a unit, and another fault word of it. -/
def Core.withPlaces (k : Core) (u : Fin 6) (xs : List Desc) (f : U64 → U64) : Core :=
  { k with st := vupd k.st u (fun z => { z with places := xs, fault := f z.fault }) }

/-- The core of a start: only the unit changes. -/
theorem Die.descriptorStart_core (hp : d.cores[c].st[u].places = x :: rest) (hs : x.started = none)
    (he : d.cores[c].st[u].ended = false) :
    ∃ f, (Die.descriptorStart c u d).cores[c] = d.cores[c].withPlaces u ((d.starting c x).1 :: rest) f := by
  have head : d.cores[c].setHead u (fun _ => (d.starting c x).1) = d.cores[c].withPlaces u ((d.starting c x).1 :: rest) id := by
    rw [Core.setHead_eq]
    have same := Stream.mapHead_cons hp (fun _ => (d.starting c x).1)
    simp only [Core.withPlaces, vupd, same, id]
  have core := (d.modCore_core c (·.setHead u (fun _ => (d.starting c x).1))).trans head
  rw [Die.descriptorStart_starts hp hs he]
  cases (d.starting c x).2 with
  | false => exact ⟨_, core⟩
  | true =>
    exact ⟨(setBit · idxBad.bit), (Die.fault_stream core u idxBad).trans (by simp only [Core.withPlaces, vupd_vupd, id])⟩

theorem Core.withPlaces_other (k : Core) {u w : Fin 6} (hw : w ≠ u) (xs : List Desc) (f : U64 → U64) :
    (k.withPlaces u xs f).st[w] = k.st[w] := (vupd_get k.st u w _).trans (if_neg hw)

end

/-- What a descriptor that starts keeps. -/
theorem Die.starting_kept (d : Die) (c : CoreIx) (x : Desc) :
    (d.starting c x).1.started = some d.clock.rc ∧ (d.starting c x).1.op = x.op ∧ (d.starting c x).1.sp = x.sp
      ∧ (d.starting c x).1.dr = x.dr := by
  unfold Die.starting
  dsimp only
  split
  · exact ⟨rfl, rfl, rfl, rfl⟩
  · exact d.cores[c].indexBeat_kept (x.startedAt d.clock.rc) d.clock.rc

/-- In a held cycle, or without an index, no index element is read. -/
theorem Die.starting_direct {d : Die} {x : Desc} (h : x.kind ≠ 2 ∨ d.heldNow = true) (c : CoreIx) :
    d.starting c x = (x.startedAt d.clock.rc, false) := by
  unfold Die.starting
  obtain h | h := h
  · exact ite_eq_left_iff.2 fun _ => d.cores[c].indexBeat_direct (x := x.startedAt d.clock.rc) h d.clock.rc
  · exact if_pos h

/-- Settles O20: what starts is `Die.starting` of the head. -/
theorem descriptorStarts : Obligations.DescriptorStarts := by
  unfold Obligations.DescriptorStarts
  intro s a u x rest hr hp hs hi hn
  refine ⟨fun he => ?_, fun he => ?_⟩
  · exact (onDie_runs _ hr).trans (congrArg _ (s.modDie_self a.die _ (Die.descriptorStart_ended hp hs he)))
  · obtain ⟨w, hw⟩ := Die.descriptorStart_core hp hs he
    obtain ⟨started, op, sp, dr⟩ := s.dies[a.die].starting_kept a.core x
    have core := (s.modDie_core a (Die.descriptorStart a.core u)).trans hw
    refine ⟨_, (s.dies[a.die].starting a.core x).1, onDie_runs (Die.descriptorStart a.core u) hr,
      onlyDie_modDie s a.die _, ?_, started, op, sp, dr, fun v hv => ?_, fun h => ?_, fun hk hh => ?_, ?_, ?_⟩
    · rw [core]
      exact congrArg Stream.places (vupd_get_same (s.core a).st u _ u.isLt)
    · rw [core]
      exact Core.withPlaces_other _ hv ..
    · have direct := Die.starting_direct h a.core
      have change : Die.descriptorStart a.core u s.dies[a.die]
          = s.dies[a.die].modCore a.core (·.setHead u (fun _ => x.startedAt (runCycle s a))) := by
        rw [Die.descriptorStart_starts hp hs he, direct]
        rfl
      rw [s.modDie_congr a.die _ (·.modCore a.core _) change, direct]
      exact ⟨onlyCore_modCore s a _, rfl⟩
    · rw [Die.starting, if_neg (by rw [hh]; decide)]
      exact Core.indexBeat_first (x := x.startedAt _) _ rfl hk hi hn
    · rw [core]; rfl
    · rw [core]; rfl

end Sys2Proof.Machine

/-! # Descriptors complete (O21) -/

namespace Sys2Proof.Machine

/-! ### Holds that stand -/

/-- Whether the present cycle is held is a matter of frame, holds and clock. -/
theorem KeepsStanding.heldNow {d e : Die} (h : KeepsStanding d e) : e.heldNow = d.heldNow := by
  obtain ⟨frm, hold, clock, -⟩ := h
  unfold Die.heldNow Die.timedHeld Die.reqHeld HoldReq.holds
  rw [frm, hold, clock]

theorem Die.modCore_heldNow (d : Die) (c : CoreIx) (f : Core → Core) : (d.modCore c f).heldNow = d.heldNow := rfl

/-- The run cycle that has ended last: the present one where it runs. -/
theorem Die.runNow_ran {d : Die} {t : Nat} (h : if d.heldNow then d.clock.rc = t + 1 else d.clock.rc = t) : d.runNow = some t := by
  unfold Die.runNow
  split at h
  next held => rw [if_pos held, h]; rfl
  next runs => rw [if_neg runs, h]

/-! ### What a unit does in a cycle in which nothing of it moves -/

/-- Without writes to own DRAM on their way none lands. -/
theorem Core.landWrites_none {k : Core} (h : k.vault.writes = []) (t : Option Nat) (clk : Nat) : k.landWrites t clk = k := by
  unfold Core.landWrites
  simp only [h, List.filter_nil, List.foldl_nil]
  rw [← h]

/-- A core without the served sectors of a unit that were to be written by the end of run cycle t. -/
def Core.servedDone (k : Core) (u : Fin 6) (t : Nat) : Core :=
  { k with vault := { k.vault with served := k.vault.served.filter (fun s => !(s.unit = u && decide (s.at_ + 24 ≤ t))) } }

section
variable {d : Die} {c : CoreIx} {u : Fin 6} {x : Desc} {rest : List Desc} {t : Nat}

theorem Die.streamBeat_idle (hp : d.cores[c].st[u].places = x :: rest) (hb : d.cores[c].unitBeat x t = ⟨x, [], false, false⟩)
    (hl : d.cores[c].dueSectors u t = []) : d.streamBeat c t u = (d.modCore c (·.servedDone u t), []) := by
  have core := d.modCore_core c (·.servedDone u t)
  have places : (d.cores[c].servedDone u t).st[u].places = x :: rest := hp
  have head : (d.modCore c (·.servedDone u t)).modCore c (fun k => k.setHead u (fun _ => x)) = d.modCore c (·.servedDone u t) :=
    Die.modCore_self _ c _ (by rw [core]; exact Core.setHead_self places rfl)
  unfold Die.streamBeat
  extract_lets k due ws e
  have noneDue : due = [] := hl
  have still : e = d.modCore c (·.servedDone u t) :=
    d.modCore_congr c _ _ (Core.setHead_self (k := d.cores[c].servedDone u t) hp (by rw [noneDue]; rfl))
  have noWrites : ws = [] := congrArg (List.map _) noneDue
  clear_value e ws
  subst still noWrites
  simp only [core, places, k, hb, head, Bool.false_eq_true, if_false, List.append_nil]

end

/-! ### The completion (R175, R219, R223, R259) -/

/-- The increment of 1 that a completed descriptor sends to its counter. -/
def Die.doneInc (d : Die) (x : Desc) : Inc :=
  { due := d.clock.clk + 2, sc := fin64 x.sc, onC := false, amt := 1, rem := false, src := 0, job := d.jobOf, ans := none }

/-- A core of which a unit's head descriptor has left its place; what it filled is noted for the end of the cycle. -/
def Core.placeFreed (k : Core) (u : Fin 6) (x : Desc) (rest : List Desc) : Core :=
  { k with
    st := vupd k.st u (fun y => { y with places := rest, ndone := y.ndone + 1, ended := true })
    hdl := if x.setv && x.live then { k.hdl with sets := k.hdl.sets ++ [⟨u, x.handle, x.half⟩] } else k.hdl }

/-- A core of which a unit's head descriptor has completed. -/
def Core.completed (k : Core) (u : Fin 6) (x : Desc) (rest : List Desc) (i : Inc) : Core :=
  { k.placeFreed u x rest with
    st := vupd (k.placeFreed u x rest).st u (fun y => { y with
      fault := if x.setv && !x.live then setBit y.fault setvLost.bit else y.fault })
    sync := { k.sync with incs := k.sync.incs ++ if x.sig then [i] else [] } }

theorem landCycle_self (t : Nat) (c : CoreIx) : landCycle t c c = t + 2 := if_pos rfl

theorem Die.fault_stream_if {d : Die} {c : CoreIx} {k : Core} (h : d.cores[c] = k) (x : Bool) (u : Fin 6) (b : FBit) :
    (if x then d.fault (.stream c u) b else d).cores[c]
      = { k with st := vupd k.st u (fun y => { y with fault := if x then setBit y.fault b.bit else y.fault }) } := by
  cases x with
  | false => exact h.trans (congrArg (fun st => { k with st := st }) (vupd_eq_self k.st u _ rfl).symm)
  | true => exact Die.fault_stream h u b

section
variable {d : Die} {c : CoreIx} {u : Fin 6} {x : Desc} {rest : List Desc}

/-- The die after a descriptor has left its place, with the fault of a valid bit that is lost. -/
def Die.placeFreed (d : Die) (c : CoreIx) (u : Fin 6) (x : Desc) (rest : List Desc) : Die :=
  let e := d.modCore c (·.placeFreed u x rest)
  if x.setv && !x.live then e.fault (.stream c u) setvLost else e

theorem Die.finishDesc_eq (hp : d.cores[c].st[u].places = x :: rest) (hf : x.finished = true) (ho : x.op ≠ .scount) (t : Nat) :
    d.finishDesc c t u = if x.sig then (d.placeFreed c u x rest).ownInc c x.sc else d.placeFreed c u x rest := by
  simp only [Die.finishDesc, hp, hf, if_true, if_neg ho]
  rfl

theorem Die.placeFreed_heldNow :
    (d.placeFreed c u x rest).heldNow = d.heldNow ∧ (d.placeFreed c u x rest).doneInc x = d.doneInc x := by
  unfold Die.placeFreed
  dsimp only
  split
  · have kept := keepsStanding_fault (d.modCore c (·.placeFreed u x rest)) (u := .stream c u) rfl setvLost
    refine ⟨kept.heldNow, ?_⟩
    obtain ⟨-, -, clock, -⟩ := kept
    rw [Die.doneInc, Die.jobOf, clock, Die.fault_plan]
    rfl
  · exact ⟨rfl, rfl⟩

theorem Die.finishDesc_core (hp : d.cores[c].st[u].places = x :: rest) (hf : x.finished = true) (ho : x.op ≠ .scount) (t : Nat) :
    (d.finishDesc c t u).cores[c] = d.cores[c].completed u x rest (d.doneInc x) ∧ (d.finishDesc c t u).heldNow = d.heldNow := by
  have core : (d.placeFreed c u x rest).cores[c] = _ :=
    Die.fault_stream_if (d.modCore_core c (·.placeFreed u x rest)) _ u setvLost
  obtain ⟨held, inc⟩ := d.placeFreed_heldNow (c := c) (u := u) (x := x) (rest := rest)
  rw [Die.finishDesc_eq hp hf ho]
  unfold Core.completed
  split
  · refine ⟨?_, held⟩
    rw [Die.ownInc, Die.modCore_core, core, ← inc, Die.doneInc, landCycle_self]
    rfl
  · refine ⟨core.trans ?_, held⟩
    rw [List.append_nil]
    rfl
end

/-- A core whose cycle has ended, if it has. -/
def Core.endsIf (k : Core) (held : Bool) : Core := if held then k.cycleEnds else k

/-- In a cycle in which nothing of a unit moves but that its head descriptor is finished, it completes; a held cycle has
ended before. -/
theorem Die.descriptorComplete_core {d : Die} {c : CoreIx} {u : Fin 6} {x : Desc} {rest : List Desc} {ran : Nat}
    (hr : if d.heldNow then d.clock.rc = ran + 1 else d.clock.rc = ran) (hp : d.cores[c].st[u].places = x :: rest)
    (hf : x.finished = true) (ho : x.op ≠ .scount) (hb : d.cores[c].unitBeat x ran = ⟨x, [], false, false⟩)
    (hl : d.cores[c].dueSectors u ran = []) (hw : d.cores[c].vault.writes = []) :
    (Die.descriptorComplete c u d).cores[c]
      = ((d.cores[c].servedDone u ran).completed u x rest (d.doneInc x)).endsIf d.heldNow := by
  have landed : (d.modCore c (·.servedDone u ran)).modCore c (fun k => (k.spWrites []).landWrites (some ran) d.clock.clk)
      = d.modCore c (·.servedDone u ran) :=
    Die.modCore_self _ c _ (by rw [Die.modCore_core]; exact Core.landWrites_none (k := d.cores[c].servedDone u ran) hw ..)
  have core := d.modCore_core c (·.servedDone u ran)
  have places : (d.modCore c (·.servedDone u ran)).cores[c].st[u].places = x :: rest := by rw [core]; exact hp
  obtain ⟨done, held⟩ := Die.finishDesc_core places hf ho ran
  rw [core] at done
  have ends : Die.descriptorComplete c u d
      = let e := (d.modCore c (·.servedDone u ran)).finishDesc c ran u
        if d.heldNow then e.modCore c Core.cycleEnds else e := by
    simp only [Die.descriptorComplete, Die.runNow_ran hr, Die.streamBeat_idle hp hb hl, Die.modCore_clock, landed, held,
      Die.modCore_heldNow]
  rw [ends]
  cases d.heldNow with
  | true => exact (Die.modCore_core ..).trans (congrArg Core.cycleEnds done)
  | false => exact done

/-! ### The end of the cycle (R175, R185, R219) -/

theorem halfValid_setHalf_same (r : RunState) (half v : Bool) : halfValid (setHalf r half v) half = v := by
  cases half <;> rfl

section
variable (k : Core) (held : Bool)

theorem Core.cycleEnds_unit (w : Fin 6) : k.cycleEnds.st[w] = { k.st[w] with ended := false } := by
  simp [Core.cycleEnds]

theorem Core.cycleEnds_hdl {k : Core} (h : k.hdl.sets = []) : k.cycleEnds.hdl = k.hdl := by
  simp only [Core.cycleEnds, h, List.foldl_nil]
  rw [← h]

/-- What a cycle ends with is done once. -/
theorem Core.cycleEnds_twice : k.cycleEnds.cycleEnds = k.cycleEnds := by
  simp [Core.cycleEnds]

theorem Core.endsIf_unit (w : Fin 6) : (k.endsIf held).st[w] = { k.st[w] with ended := k.st[w].ended && !held } := by
  cases held
  · simp [Core.endsIf]
  · exact (k.cycleEnds_unit w).trans (by rw [Bool.not_true, Bool.and_false])

theorem Core.endsIf_hdl {k : Core} (h : k.hdl.sets = []) : (k.endsIf held).hdl = k.hdl := by
  cases held
  · rfl
  · exact Core.cycleEnds_hdl h

theorem Core.endsIf_cycleEnds : (k.endsIf held).cycleEnds = k.cycleEnds := by
  cases held
  · rfl
  · exact k.cycleEnds_twice

theorem Core.endsIf_kept : (k.endsIf held).sync = k.sync ∧ (k.endsIf held).scratch = k.scratch := by
  cases held <;> exact ⟨rfl, rfl⟩

variable (u : Fin 6) (x : Desc) (rest : List Desc) (i : Inc)

theorem Core.completed_unit : (k.completed u x rest i).st[u]
    = { places := rest, ndone := k.st[u].ndone + 1, ended := true,
        fault := if x.setv && !x.live then setBit k.st[u].fault setvLost.bit else k.st[u].fault } := by
  simp [Core.completed, Core.placeFreed]

theorem Core.completed_other {w : Fin 6} (hw : w ≠ u) : (k.completed u x rest i).st[w] = k.st[w] := by
  simp only [Core.completed, Core.placeFreed, vupd_vupd, vupd_get, if_neg hw]

/-- Where nothing is noted for the end of the cycle, and the descriptor notes nothing, the handles stay. -/
theorem Core.completed_hdl_kept (h : (x.setv && x.live) = false) : (k.completed u x rest i).hdl = k.hdl :=
  if_neg (by rw [h]; decide)

/-- Where nothing else is noted, the half that the descriptor filled is. -/
theorem Core.completed_hdl_set {k : Core} (h : k.hdl.sets = []) (hv : x.setv = true) (hl : x.live = true) :
    (k.completed u x rest i).hdl = { k.hdl with sets := [⟨u, x.handle, x.half⟩] } := by
  simp [Core.completed, Core.placeFreed, h, hv, hl]

/-- With one half noted, the end of a cycle sets its valid bit alone. -/
theorem Core.cycleEnds_run {k : Core} {y : Filled} (h : k.hdl.sets = [y]) :
    halfValid k.cycleEnds.hdl.run[y.handle] y.half = true
      ∧ ∀ n : Fin 64, n ≠ y.handle → k.cycleEnds.hdl.run[n] = k.hdl.run[n] := by
  have run : k.cycleEnds.hdl.run = vupd k.hdl.run y.handle (fun r => setHalf r y.half true) := by
    simp only [Core.cycleEnds, h, List.foldl_cons, List.foldl_nil]
  rw [run]
  refine ⟨?_, fun n hn => (vupd_get ..).trans (if_neg hn)⟩
  rw [vupd_get, if_pos rfl]
  exact halfValid_setHalf_same ..

end

/-- Settles O21: the core is `Core.completed`, and in a held cycle its end. -/
theorem descriptorCompletes : Obligations.DescriptorCompletes := by
  unfold Obligations.DescriptorCompletes
  intro s a u x rest ran hr hran hp hf ho hb hl hw hsets held
  let k := (s.core a).servedDone u ran
  let i := s.dies[a.die].doneInc x
  have core : (s.modDie a.die (Die.descriptorComplete a.core u)).core a = (k.completed u x rest i).endsIf held :=
    (s.modDie_core a _).trans (Die.descriptorComplete_core hran hp hf ho hb hl hw)
  have unit : ((k.completed u x rest i).endsIf held).st[u] = _ := (Core.endsIf_unit ..).trans (by rw [k.completed_unit u x rest i])
  have other (w : Fin 6) (hw : w ≠ u) : (k.completed u x rest i).st[w] = (s.core a).st[w] := k.completed_other u x rest i hw
  have kept (h : (x.setv && x.live) = false) : ((k.completed u x rest i).endsIf held).hdl = (s.core a).hdl :=
    have same := k.completed_hdl_kept u x rest i h
    (Core.endsIf_hdl held ((congrArg Handles.sets same).trans hsets)).trans same
  obtain ⟨sync, scratch⟩ := (k.completed u x rest i).endsIf_kept held
  refine ⟨_, onDie_runs (Die.descriptorComplete a.core u) hr, onlyDie_modDie s a.die _, ?_⟩
  unfold SameScratch
  generalize (s.modDie a.die (Die.descriptorComplete a.core u)).core a = z at core
  clear_value held
  subst core
  rw [unit, sync, scratch]
  refine ⟨rfl, rfl, rfl, fun hh w hw => ?_, fun w hw => ?_, rfl, fun hv hl hh => ?_, fun hv hl => ?_, fun hv hl => ?_,
    fun hv => kept (by rw [hv]; rfl), fun _ => rfl⟩
  · rw [hh]
    exact other w hw
  · exact (congrArg Stream.places (Core.endsIf_unit ..)).trans (congrArg Stream.places (other w hw) :)
  · have noted : (k.completed u x rest i).hdl = _ := Core.completed_hdl_set u x rest i hsets hv hl
    rw [hh, Core.endsIf, if_neg Bool.false_ne_true, noted]
    exact ⟨congrArg (fun l => { (s.core a).hdl with sets := l }) hsets.symm, rfl⟩
  · have noted : (k.completed u x rest i).hdl = _ := Core.completed_hdl_set u x rest i hsets hv hl
    obtain ⟨valid, others⟩ := Core.cycleEnds_run (k := k.completed u x rest i) (y := ⟨u, x.handle, x.half⟩) (by rw [noted])
    rw [Core.endsIf_cycleEnds]
    refine ⟨valid, fun hh => ?_, fun n hn => (others n hn).trans ?_⟩
    · rw [hh]
      rfl
    · rw [noted]
      rfl
  · refine ⟨?_, kept (by rw [hl, Bool.and_false])⟩
    rw [hv, hl]
    exact bit_setBit_same _ (by decide)

end Sys2Proof.Machine

/-! # Messages are sent (O26) -/

namespace Sys2Proof.Machine

/-! ### Sends that are queued (R180, R278) -/

/-- A change of a core that comes to a change of its rings and sends. -/
theorem onlyRings_modCore {s : State} {a : CoreRef} {f : Core → Core} {r : Rings}
    (h : f (s.core a) = { s.core a with rings := r }) :
    OnlyRings a s (s.modCore a f) ∧ ((s.modCore a f).core a).rings = r := by
  have core := (s.modCore_same a f).trans h
  exact ⟨⟨onlyCore_modCore s a f, by rw [core]⟩, congrArg Core.rings core⟩

/-- The send of an `msend` that issues in the present plan cycle. -/
def sendNow (s : State) (a : CoreRef) (f : MsendF) : Send :=
  { f := f, src := bufBase s a f.sh.toNat + (opReg s a f.so 0).toNat, gran := granulesOf f.len, dest := opReg s a f.so 1,
    seq := (s.core a).rings.seq, frm := BitVec.ofNat 16 s.dies[a.die].frm.fnum.toNat,
    flits := ceilDiv (16 + 16 * granulesOf f.len) 128, sent := 0 }

/-- Rings and sends with one send more. -/
def Rings.sendQueued (r : Rings) (x : Send) : Rings :=
  { r with sends := r.sends ++ [x], seq := r.seq + 1, nout := r.nout + 1,
           outs := r.outs ++ [⟨r.seq, x.f.q, x.f.tag, x.dest, x.f.ack, x.f.nak⟩] }

theorem exec_msend_ready {s : State} {a : CoreRef} {f : MsendF} (h : Issues s a 6 (.msend f)) :
    ∃ t, exec (.msend a f) s = .next t ∧ OnlyRings a s t ∧ (t.core a).rings = (s.core a).rings.sendQueued (sendNow s a f) :=
  ⟨_, (exec_slotOf rfl s).trans (slotOut_issues h rfl), onlyRings_modCore rfl⟩

/-! ### Flits that are injected (R181, R197) -/

/-- With no message of a core on its way to the bridge nothing is sent there. -/
theorem State.sendToHost_none {s : State} {n : DieIx} (h : s.dies[n].router.outMsgs = []) : s.sendToHost n = s := by
  rw [State.sendToHost, h]
  rfl

theorem Die.flitInject_none {d : Die} {c : CoreIx} (h : d.injections c = []) : Die.flitInject c d = d := by
  simp only [Die.flitInject, h, List.isEmpty_nil, if_true]

/-- Outside a frame nothing is injected. -/
theorem Die.injections_idle {d : Die} (h : d.frm.frun = false) (c : CoreIx) : d.injections c = [] := by
  simp [Die.injections, h]

/-- Units without a descriptor store nothing. -/
theorem Die.pickStores_none {d : Die} {c : CoreIx} {l : List (Fin 6)} (h : ∀ u ∈ l, d.cores[c].st[u].places = [])
    (v : PathUse) :
    d.pickStores c l v = [] := by
  induction l with
  | nil => rfl
  | cons u l ih =>
    rw [List.forall_mem_cons] at h
    simp only [Die.pickStores, h.1, ih h.2]

section
variable {d : Die} {c : CoreIx} {x : Send}

/-- The flit of a message that a core sends to itself. -/
def Die.ownPart (d : Die) (c : CoreIx) (x : Send) : MsgIn :=
  { hdr := d.sendHeader c x, from_ := none, job := d.jobOf, body := d.cores[c].sendGranules x }

theorem Die.sendPath_own (hh : x.f.hd = false) (hl : d.isLocal x.dest.toNat = true) (hc : desCore x.dest.toNat = c) :
    d.sendPath c x = .own := by
  simp [Die.sendPath, Die.pathTo, hh, hl, hc]

/-- A core whose one send goes to itself injects that send's flit alone. -/
theorem Die.injections_own (hf : d.frm.frun = true) (he : d.cores[c].ctl.ended = false) (hn : d.heldNow = false)
    (hi : d.cores[c].rings.injAt ≠ some d.clock.rc) (hs : d.cores[c].rings.sends = [x]) (hp : d.sendPath c x = .own)
    (hu : ∀ u : Fin 6, d.cores[c].st[u].places = []) : d.injections c = [.send 0 .own] := by
  have stores (v : PathUse) : d.pickStores c (List.finRange 6) v = [] := Die.pickStores_none (fun u _ => hu u) v
  have may : d.mayInject c {} .own = true := rfl
  have picks : d.pickSends c [x] 0 {} = ([.send 0 .own], { own := true }) := by
    simp only [Die.pickSends, hp, may, if_true]
    rfl
  rw [Die.injections, if_neg (by rw [hf, he, hn, decide_eq_false hi]; decide), hs, picks]
  exact congrArg ([Inject.send 0 .own] ++ ·) (stores _)

/-- Rings and sends of a core whose one send, of one flit, has come back to it in run cycle t. -/
def Rings.ownInjected (r : Rings) (t : Nat) (m : MsgIn) : Rings :=
  { r with sends := [], injAt := some t, arrive := r.arrive ++ [.mesh m 0 1] }

/-- The only flit of that send comes to the core's own arrivals, and the send is done. -/
theorem Die.flitInject_own (h : d.injections c = [.send 0 .own]) (hs : d.cores[c].rings.sends = [x]) (h0 : x.sent = 0)
    (h1 : x.flits = 1) :
    Die.flitInject c d = d.modCore c (fun k => { k with rings := k.rings.ownInjected d.clock.rc (d.ownPart c x) }) := by
  have first : d.cores[c].rings.sends[0]? = some x := by rw [hs]; rfl
  simp only [Die.flitInject, h, List.isEmpty_cons, Bool.false_eq_true, if_false, List.foldl_cons, List.foldl_nil, Die.injectSend,
    first, Die.modCore_modCore]
  have done : (d.cores[c].rings.sends.set 0 { x with sent := x.sent + 1 }).filter (fun s => decide (s.sent < s.flits)) = [] := by
    simp only [hs, List.set_cons_zero, h0, h1]
    rfl
  refine d.modCore_congr c _ _ ?_
  rw [done, h0, h1]
  rfl
end

/-- Settles O26: a send is queued as `sendNow`, and one to the core itself comes to its arrivals as `Die.ownPart`. -/
theorem messagesAreSent : Obligations.MessagesAreSent := by
  unfold Obligations.MessagesAreSent
  intro s a f r d
  refine ⟨fun h => ?_, fun hf ho => ?_, fun x hr hf he hn hi hs h0 h1 hh hl hc hu ho => ?_⟩
  · obtain ⟨t, he, only, rings⟩ := exec_msend_ready h
    refine ⟨t, sendNow s a f, he, only, rings, rfl, rfl, rfl, rfl, rfl, rfl, fun b hb => ?_⟩
    simp only [sendNow, bufBase, hb, Option.map_some, Option.getD_some]
  · have still : s.modDie a.die (Die.flitInject a.core) = s := s.modDie_self _ _ (Die.flitInject_none (Die.injections_idle hf _))
    refine congrArg Host.Outcome.next ?_
    rw [still, State.sendToHost_none ho, ite_self]
  · have inj := Die.flitInject_own (Die.injections_own hf he hn hi hs (Die.sendPath_own hh hl hc) hu) hs h0 h1
    have change := s.modDie_congr a.die _ (·.modCore a.core _) inj
    obtain ⟨only, rings⟩ := onlyRings_modCore (s := s) (a := a)
      (f := fun k => { k with rings := k.rings.ownInjected d.clock.rc (d.ownPart a.core x) }) rfl
    have noneOut : (s.modCore a fun k =>
        { k with rings := k.rings.ownInjected d.clock.rc (d.ownPart a.core x) }).dies[a.die].router.outMsgs = [] :=
      (congrArg (·.router.outMsgs) (s.modDie_die a.die _)).trans ho
    refine ⟨_, d.ownPart a.core x, ?_, only, rings, rfl, rfl, rfl, rfl, rfl, rfl, ?_⟩
    · refine congrArg Host.Outcome.next ((if_pos hr).trans ?_)
      rw [change]
      exact State.sendToHost_none noneOut
    · simp [Die.ownPart, Core.sendGranules, flitGranules, h0]

end Sys2Proof.Machine

/-! # SYN operations (O27) -/

namespace Sys2Proof.Machine

/-! ### Slots of SYN that issue (R161, R185) -/

/-- The operations of SYN that wait for nothing: they are ready at once. -/
def synAtOnce : SlotOp → Bool
  | .sig _ _ _ _ | .cons _ _ | .qrp _ _ | .hswap _ | .hval _ _ _ | .harm => true
  | _ => false

theorem issues_syn {s : State} {a : CoreRef} {op : SlotOp} (hr : s.runs a.die = true) (hl : slotCauses s a op = [])
    (h : synAtOnce op = true) : Issues s a 7 op := by
  refine ⟨hr, hl, ?_⟩
  cases op
  case sig | cons | qrp | hswap | hval | harm => simp [Die.slotReady, slotNow, readyOn, Die.portFree, elemCount, Die.bankFree]
  all_goals cases h

/-! ### Increments (R185, R258, R259) -/

/-- A change of a core that comes to an increment put on its way. -/
theorem sendsInc_modCore {s : State} {a : CoreRef} {i : Inc} {f : Core → Core}
    (h : f (s.core a) = { s.core a with sync := { (s.core a).sync with incs := (s.core a).sync.incs ++ [i] } }) :
    SendsInc a i s (s.modCore a f) := by
  have core := (s.modCore_same a f).trans h
  exact ⟨⟨onlyCore_modCore s a f, by rw [core]⟩, congrArg Core.sync core⟩

/-- The increment that a `sig` to a core of its die sends. -/
def sigInc (s : State) (a : CoreRef) (sc : BitVec 6) (n : BitVec 8) (into : CoreIx) : Inc :=
  { due := landCycle (clockCycle s a) a.core into, sc := sc.toFin, onC := false, amt := n.toNat + 1,
    rem := decide (a.core ≠ into), src := s.dies[a.die].designator a.core, job := s.dies[a.die].jobOf, ans := none }

theorem exec_sig_die {s : State} {a : CoreRef} {sc : BitVec 6} {so : BitVec 4} {n : BitVec 8} (hr : s.runs a.die = true)
    (hl : slotCauses s a (.sig sc so true n) = []) (hd : s.dies[a.die].isLocal (opReg s a so 0).toNat = true) :
    ∃ t, exec (.sig a sc so true n) s = .next t
      ∧ SendsInc ⟨a.die, desCore (opReg s a so 0).toNat⟩ (sigInc s a sc n (desCore (opReg s a so 0).toNat)) s t := by
  have same : s.dies[a.die].modCore a.core (fun k => k) = s.dies[a.die] := Die.modCore_self _ _ _ rfl
  have issue : s.dies[a.die].issueSlot a.core (slotNow s a 7 (.sig sc so true n))
      = s.dies[a.die].modCore (desCore (opReg s a so 0).toNat) (fun k => { k with
          sync := { k.sync with incs := k.sync.incs ++ [sigInc s a sc n (desCore (opReg s a so 0).toNat)] } }) := by
    change Die.sendSig (s.dies[a.die].modCore a.core (fun k => k)) _ _ _ _ = _
    rw [same]
    exact if_pos hd
  refine ⟨_, (exec_slotOf rfl s).trans ((slotOut_ready (issues_syn hr hl rfl) rfl).trans
    (congrArg _ (s.modDie_congr a.die _ (·.modCore _ _) issue))), ?_⟩
  exact sendsInc_modCore (a := ⟨a.die, desCore (opReg s a so 0).toNat⟩)
    (f := fun k => { k with sync := { k.sync with incs := k.sync.incs ++ [_] } }) rfl

/-! ### The end of the cycle (R185, R219, R287) -/

/-- A core with one operation more noted for the end of its cycle. -/
def Core.noted (k : Core) (x : Checked) : Core := { k with ctl := { k.ctl with ends := k.ctl.ends ++ [x] } }

/-- A core with the valid bit of a half set, where one is named. -/
def Core.validAgain (k : Core) : Option (Fin 64 × Bool) → Core
  | some x => { k with hdl := { k.hdl with run := vupd k.hdl.run x.1 (fun r => setHalf r x.2 true) } }
  | none => k

theorem endsWith_modCore (s : State) (a : CoreRef) (op : SlotOp) :
    EndsWith a op s (s.modCore a (·.noted (slotNow s a 7 op))) := by
  have core := s.modCore_same a (·.noted (slotNow s a 7 op))
  exact ⟨⟨onlyCore_modCore s a _, by rw [core]; rfl⟩, congrArg Core.ctl core⟩

/-- A legal operation of the cycle's end is noted for it. -/
theorem exec_ends {s : State} {a : CoreRef} {i : Instr} {op : SlotOp} (hi : slotOf i = some (a, 7, op))
    (hr : s.runs a.die = true) (hl : slotCauses s a op = []) (he : endsCycle op = true) :
    exec i s = .next (s.modCore a (·.noted (slotNow s a 7 op))) := by
  have syn : synAtOnce op = true ∧ isWait op = false := by
    cases op
    case qrp | hswap | hval => exact ⟨rfl, rfl⟩
    all_goals cases he
  obtain ⟨syn, wait⟩ := syn
  have issue : s.dies[a.die].issueSlot a.core (slotNow s a 7 op)
      = s.dies[a.die].modCore a.core (·.noted (slotNow s a 7 op)) := by
    cases op
    case qrp | hswap | hval => rfl
    all_goals cases he
  exact (exec_slotOf hi s).trans ((slotOut_ready (issues_syn hr hl syn) wait).trans
    (congrArg _ (s.modDie_congr a.die _ (·.modCore a.core (·.noted (slotNow s a 7 op))) issue)))

theorem filter_parts_singleton {α : Type} (p : α → Bool) (x : α) : [x].filter (fun y => !p y) ++ [x].filter p = [x] := by
  cases h : p x <;> simp [h]

/-- The end of a cycle in which one operation was noted for it. -/
theorem Core.endOps_noted {k : Core} (h : k.ctl.ends = []) (x : Checked) (rc clk frame : Nat) :
    (k.noted x).endOps rc clk frame = (k.issue rc clk frame x.slot x.op x.regs).validAgain (k.hvalSets x) := by
  have one : (k.noted x).ctl.ends = [x] := congrArg (· ++ [x]) h
  have cleared : { k.noted x with ctl := { (k.noted x).ctl with ends := [] } } = k := by
    change { k with ctl := { k.ctl with ends := [] } } = k
    rw [← h]
  have sets : (k.noted x).hvalSets x = k.hvalSets x := rfl
  unfold Core.endOps
  rw [one, cleared]
  extract_lets swap e run
  have issued : e = k.issue rc clk frame x.slot x.op x.regs :=
    congrArg (List.foldl (fun k x => k.issue rc clk frame x.slot x.op x.regs) k) (filter_parts_singleton swap x)
  clear_value e
  subst issued
  cases named : k.hvalSets x with
  | none =>
    have kept : run = (k.issue rc clk frame x.slot x.op x.regs).hdl.run := by
      simp only [run, List.filterMap_cons, List.filterMap_nil, sets, named, List.foldl_nil]
    rw [kept]; rfl
  | some y =>
    have set : run = vupd (k.issue rc clk frame x.slot x.op x.regs).hdl.run y.1 (fun r => setHalf r y.2 true) := by
      simp only [run, List.filterMap_cons, List.filterMap_nil, sets, named, List.foldl_nil, List.foldl_cons]
    rw [set]; rfl

theorem Core.endOps_qrp {k : Core} (h : k.ctl.ends = []) {x : Checked} {q so : BitVec 4} (hx : x.op = .qrp q so)
    (rc clk frame : Nat) : (k.noted x).endOps rc clk frame = k.issueQrp q.toFin (regAt x.regs so 0) := by
  rw [Core.endOps_noted h, Core.hvalSets, hx]
  rfl

theorem Core.endOps_hswap {k : Core} (h : k.ctl.ends = []) {x : Checked} {i : BitVec 6} (hx : x.op = .hswap i)
    (rc clk frame : Nat) : (k.noted x).endOps rc clk frame = k.issueHswap i.toFin := by
  rw [Core.endOps_noted h, Core.hvalSets, hx]
  rfl

/-- An update goes by what it makes of the element in its place. -/
theorem vupd_at {α : Type} {n : Nat} {v : Vector α n} {i : Fin n} {f g : α → α} (h : f v[i] = g v[i]) :
    vupd v i f = vupd v i g := by
  rw [vupd, vupd, h]

theorem setHalf_setHalf (r : RunState) (half u v : Bool) : setHalf (setHalf r half u) half v = setHalf r half v := by
  cases half <;> rfl

/-- A valid bit that is set a second time is the same bit (R219). -/
theorem Core.endOps_hval {k : Core} (h : k.ctl.ends = []) {x : Checked} {i : BitVec 6} {role v : Bool}
    (hx : x.op = .hval i role v) (rc clk frame : Nat) : (k.noted x).endOps rc clk frame = k.issueHval i.toFin role v := by
  rw [Core.endOps_noted h, Core.hvalSets, hx]
  cases v with
  | false => rfl
  | true =>
    change (k.issueHval i.toFin role true).validAgain (some (i.toFin, halfOf k.hdl.run[i.toFin] (!role)))
      = k.issueHval i.toFin role true
    have half : halfOf k.hdl.run[i.toFin] (!role) = if role then k.hdl.run[i.toFin].role else !k.hdl.run[i.toFin].role := by
      cases role <;> rfl
    have run : vupd (vupd k.hdl.run i.toFin (fun r => setHalf r (if role then r.role else !r.role) true)) i.toFin
        (fun r => setHalf r (halfOf k.hdl.run[i.toFin] (!role)) true)
        = vupd k.hdl.run i.toFin (fun r => setHalf r (if role then r.role else !r.role) true) := by
      rw [vupd_vupd]
      exact vupd_at (by rw [half, setHalf_setHalf])
    exact congrArg (fun r => { k with hdl := { k.hdl with run := r } }) run

/-! ### What those ends leave (R182, R219, R287) -/

theorem halfValid_setHalf_other (r : RunState) (half v : Bool) : halfValid (setHalf r half v) (!half) = halfValid r (!half) := by
  cases half <;> rfl

theorem setHalf_role (r : RunState) (half v : Bool) : (setHalf r half v).role = r.role := by
  cases half <;> rfl

theorem vupd_get_self {α : Type} {n : Nat} (v : Vector α n) (i : Fin n) (f : α → α) : (vupd v i f)[i] = f v[i] :=
  (vupd_get v i i f).trans (if_pos rfl)

theorem vupd_get_other {α : Type} {n : Nat} (v : Vector α n) {i j : Fin n} (f : α → α) (h : j ≠ i) :
    (vupd v i f)[j] = v[j] :=
  (vupd_get v i j f).trans (if_neg h)

/-- Settles O27. The operations of SYN outside the waits are ready at once; those of the cycle's end are noted for it, and
an end that brings one operation is that operation's own effect (`Core.endOps_qrp`, `_hswap`, `_hval`). -/
theorem syncSlotOperations : Obligations.SyncSlotOperations := by
  unfold Obligations.SyncSlotOperations
  intro s a sc h so q n role v hr k atEnd inc
  have noted (op : SlotOp) : (s.modCore a (·.noted (slotNow s a 7 op))).core a = k.noted (slotNow s a 7 op) :=
    s.modCore_same a _
  refine ⟨fun hl => ?_, fun hl => ?_, exec_sig_die hr, fun hl => ?_, fun hl => ?_, fun hl => ?_, ?_⟩
  · exact ⟨_, (exec_slotOf rfl s).trans (slotOut_issues (issues_syn hr hl rfl) rfl), sendsInc_modCore rfl⟩
  · exact ⟨_, (exec_slotOf rfl s).trans (slotOut_issues (issues_syn hr hl rfl) rfl), sendsInc_modCore rfl⟩
  · refine ⟨_, exec_ends rfl hr hl rfl, endsWith_modCore s a _, fun none => ?_⟩
    have ended : atEnd (s.modCore a (·.noted (slotNow s a 7 (.qrp q so)))) = k.issueQrp q.toFin (opReg s a so 0) :=
      (congrArg (Core.endOps · _ _ _) (noted _)).trans (Core.endOps_qrp none rfl _ _ _)
    rw [ended]
    exact ⟨rfl, vupd_get_self _ _ _, fun x hx => vupd_get_other _ _ hx, rfl⟩
  · refine ⟨_, exec_ends rfl hr hl rfl, endsWith_modCore s a _, fun none => ?_⟩
    have ended : atEnd (s.modCore a (·.noted (slotNow s a 7 (.hswap h)))) = k.issueHswap h.toFin :=
      (congrArg (Core.endOps · _ _ _) (noted _)).trans (Core.endOps_hswap none rfl _ _ _)
    have run : (k.issueHswap h.toFin).hdl.run[h.toFin]
        = { setHalf k.hdl.run[h.toFin] k.hdl.run[h.toFin].role false with role := !k.hdl.run[h.toFin].role } :=
      vupd_get_self _ _ _
    rw [ended, run]
    exact ⟨rfl, rfl, halfValid_setHalf_same _ _ _, halfValid_setHalf_other _ _ _, fun x hx => vupd_get_other _ _ hx, rfl⟩
  · refine ⟨_, exec_ends rfl hr hl rfl, endsWith_modCore s a _, fun none => ?_⟩
    have ended : atEnd (s.modCore a (·.noted (slotNow s a 7 (.hval h role v)))) = k.issueHval h.toFin role v :=
      (congrArg (Core.endOps · _ _ _) (noted _)).trans (Core.endOps_hval none rfl _ _ _)
    have run : (k.issueHval h.toFin role v).hdl.run[h.toFin]
        = setHalf k.hdl.run[h.toFin] (if role then k.hdl.run[h.toFin].role else !k.hdl.run[h.toFin].role) v :=
      vupd_get_self _ _ _
    rw [ended, run]
    exact ⟨rfl, ⟨halfValid_setHalf_same _ _ _, halfValid_setHalf_other _ _ _⟩, setHalf_role _ _ _,
      fun x hx => vupd_get_other _ _ hx, rfl⟩
  · have legal : slotCauses s a .harm = [] := rfl
    have core := s.modCore_same a Core.issueHarm
    exact ⟨_, (exec_slotOf rfl s).trans (slotOut_issues (issues_syn hr legal rfl) rfl),
      ⟨onlyCore_modCore s a _, congrArg (fun k : Core => { k with hdl := (s.core a).hdl }) core⟩, congrArg Core.hdl core⟩

end Sys2Proof.Machine

/-! # Waits that begin (O28) -/

namespace Sys2Proof.Machine

/-! ### The first evaluation of a wait (R264) -/

/-- The wait that a slot of SYN begins in the present clock cycle. -/
def waitNow (s : State) (a : CoreRef) (what : WaitFor) (tmo : Nat) (vsd : Fin 8) (vsw : Bool) : Waiting :=
  { what := what, v0 := clockCycle s a, tmo := tmo, vsd := vsd, vsw := vsw, due := s.dies[a.die].clock.pcyc }

/-- A die on which a core waits and asks for a hold (R88, R265). -/
def Die.holdsFor (d : Die) (c : CoreIx) (w : Waiting) (cause : HoldCause) : Die :=
  let e := d.modCore c (fun k => { k with sync := { k.sync with waits := k.sync.waits ++ [w] } })
  { e with hold := { e.hold with reqs := e.hold.reqs ++ [⟨w.due, c, 7, cause, none⟩] } }

section
variable {s : State} {a : CoreRef} {i : Instr} {op : SlotOp} {what : WaitFor} {tmo : Nat} {vsd : Fin 8} {vsw : Bool}

/-- A legal wait ends at once where its condition holds, and else begins. -/
theorem exec_wait (hi : slotOf i = some (a, 7, op)) (hr : s.runs a.die = true) (hl : slotCauses s a op = [])
    (hw : isWait op = true)
    (hf : (s.dies[a.die].aheadCore a.core (slotNow s a 7 op)).waitFor (s.core a).ctl.s op = some (what, tmo, vsd, vsw)) :
    exec i s = .next (s.modDie a.die (fun d =>
      if (s.core a).waitMet what then d.modCore a.core (·.waitEnds (clockCycle s a) (waitNow s a what tmo vsd vsw) true)
      else d.holdsFor a.core (waitNow s a what tmo vsd vsw) (causeOf op))) := by
  rw [exec_slotOf hi, slotOut, onDie_runs _ hr]
  refine congrArg _ (s.modDie_congr _ _ _ ?_)
  have hn : illegalCauses (s.dies[a.die].designator a.core) s.dies[a.die].cores[a.core] s.dies[a.die].cores[a.core].ctl.s op
      = [] := hl
  have started : Die.slotOp a.core 7 op s.dies[a.die]
      = s.dies[a.die].startWait a.core (s.dies[a.die].aheadCore a.core (slotNow s a 7 op)) s.dies[a.die].clock.pcyc op
          (s.core a).ctl.s := by
    simp only [Die.slotOp, hn, lowestCause, List.foldl_nil]
    cases op
    case wait | pwait | qsel => rfl
    all_goals cases hw
  rw [started, Die.startWait, hf]
  rfl

theorem exec_wait_met (hi : slotOf i = some (a, 7, op)) (hr : s.runs a.die = true) (hl : slotCauses s a op = [])
    (hw : isWait op = true)
    (hf : (s.dies[a.die].aheadCore a.core (slotNow s a 7 op)).waitFor (s.core a).ctl.s op = some (what, tmo, vsd, vsw))
    (met : (s.core a).waitMet what = true) :
    exec i s = .next (s.modCore a (·.waitEnds (clockCycle s a) (waitNow s a what tmo vsd vsw) true)) := by
  rw [exec_wait hi hr hl hw hf]
  simp only [met, if_true]
  rfl

theorem exec_wait_unmet (hi : slotOf i = some (a, 7, op)) (hr : s.runs a.die = true) (hl : slotCauses s a op = [])
    (hw : isWait op = true)
    (hf : (s.dies[a.die].aheadCore a.core (slotNow s a 7 op)).waitFor (s.core a).ctl.s op = some (what, tmo, vsd, vsw))
    (unmet : (s.core a).waitMet what = false) :
    exec i s = .next (s.modDie a.die (·.holdsFor a.core (waitNow s a what tmo vsd vsw) (causeOf op))) := by
  rw [exec_wait hi hr hl hw hf]
  simp only [unmet, Bool.false_eq_true, if_false]

end

/-- What a wait that begins leaves: the core waits, and a hold is requested. -/
theorem holdsFor_leaves (s : State) (a : CoreRef) (w : Waiting) (cause : HoldCause) :
    let t := s.modDie a.die (·.holdsFor a.core w cause)
    OnlyDie a.die s t ∧ { t.core a with sync := (s.core a).sync } = s.core a
      ∧ (t.core a).sync = { (s.core a).sync with waits := (s.core a).sync.waits ++ [w] }
      ∧ t.dies[a.die].hold
        = { s.dies[a.die].hold with reqs := s.dies[a.die].hold.reqs ++ [⟨w.due, a.core, 7, cause, none⟩] } := by
  intro t
  have core : t.core a = { s.core a with sync := { (s.core a).sync with waits := (s.core a).sync.waits ++ [w] } } :=
    (s.modDie_core a _).trans (Die.modCore_core ..)
  have die : t.dies[a.die] = s.dies[a.die].holdsFor a.core w cause := s.modDie_die a.die _
  exact ⟨onlyDie_modDie s a.die _, by rw [core], congrArg Core.sync core, congrArg Die.hold die⟩

/-! ### The summaries of a wait (R183) -/

/-- The summary of a count or a word goes where it is asked for. -/
def Waiting.tells (w : Waiting) (clk : Nat) (val : U32) (pz : Bool) : List SummaryWrite :=
  if w.vsw then [synSummary clk w.vsd val pz] else []

theorem Core.waitEnds_count {k : Core} {w : Waiting} {sc : Fin 64} {e : BitVec 48} (h : w.what = .count sc e)
    (clk : Nat) (met : Bool) :
    k.waitEnds clk w met
      = { k with vec := { k.vec with sumQ := k.vec.sumQ ++ w.tells clk (if met then 1 else 0) false } } := by
  unfold Core.waitEnds Waiting.tells
  rw [h]
  cases w.vsw with
  | false => simp only [Bool.false_eq_true, if_false, List.append_nil]
  | true => rfl

theorem Core.waitEnds_word {k : Core} {w : Waiting} {h : Fin 64} {addr : Nat} {cond : BitVec 3} {ref : U32}
    (hw : w.what = .word h addr cond ref) (clk : Nat) (met : Bool) :
    k.waitEnds clk w met
      = { k with vec := { k.vec with sumQ := k.vec.sumQ ++ w.tells clk (if met then 1 else 0) (k.poisoned addr 4) } } := by
  unfold Core.waitEnds Waiting.tells
  rw [hw]
  cases w.vsw with
  | false => simp only [Bool.false_eq_true, if_false, List.append_nil]
  | true => rfl

/-- The two summaries of a `qsel`: the ring, and the head word. -/
def ringTells (clk : Nat) (vsd : Fin 8) (ring head : U32) : List SummaryWrite :=
  [synSummary clk vsd ring false, synSummary clk (vsd + 1) head false]

/-- The core after a `qsel` that takes ring r. -/
def Core.ringTaken (k : Core) (clk : Nat) (vsd : Fin 8) (rot : Bool) (r : Fin 16) : Core :=
  { k with
    vec := { k.vec with sumQ := k.vec.sumQ ++ ringTells clk vsd (BitVec.ofNat 32 r.val) (k.headWord r) }
    rings := if rot then { k.rings with rot := BitVec.ofNat 4 r.val } else k.rings }

theorem Core.waitEnds_ring {k : Core} {w : Waiting} {mask : BitVec 16} {rot : Bool} {r : Fin 16} (hw : w.what = .ring mask rot)
    (hs : k.rings.select mask rot = some r) (clk : Nat) : k.waitEnds clk w true = k.ringTaken clk w.vsd rot r := by
  simp only [Core.waitEnds, hw, hs, if_true]
  rfl

/-! ### The ring that a `qsel` selects (R286) -/

/-- The place of a ring in the order in which a `qsel` looks at the rings. -/
def Rings.place (r : Rings) (rot : Bool) (x : Fin 16) : Nat := if rot then (x.val + 15 - r.rot.toNat) % 16 else x.val

/-- The order in which a `qsel` looks at the rings. -/
def Rings.order (r : Rings) (rot : Bool) : List (Fin 16) :=
  if rot then (List.finRange 16).map (fun i => Fin.ofNat 16 (r.rot.toNat + 1 + i.val)) else List.finRange 16

theorem Rings.select_eq (r : Rings) (mask : BitVec 16) (rot : Bool) :
    r.select mask rot = (r.order rot).find? (fun q => bit mask q.val && (r.q[q]).waiting) := rfl

theorem Rings.order_length (r : Rings) (rot : Bool) : (r.order rot).length = 16 := by
  cases rot <;> simp [Rings.order]

theorem Rings.place_lt (r : Rings) (rot : Bool) (x : Fin 16) : r.place rot x < 16 := by
  cases rot
  · exact x.isLt
  · exact Nat.mod_lt _ (by decide)

theorem Rings.order_place (r : Rings) (rot : Bool) (x : Fin 16) :
    (r.order rot)[r.place rot x]'(by rw [r.order_length]; exact r.place_lt rot x) = x := by
  cases rot with
  | false => simp [Rings.order, Rings.place]
  | true =>
    have := r.rot.isLt
    simp [Rings.order, Rings.place, Fin.ext_iff]
    omega

theorem Rings.place_order (r : Rings) (rot : Bool) (i : Nat) (h : i < (r.order rot).length) :
    r.place rot (r.order rot)[i] = i := by
  have := r.rot.isLt
  have len := r.order_length rot
  cases rot with
  | false => simp [Rings.order, Rings.place]
  | true =>
    simp [Rings.order, Rings.place]
    omega

/-- A `qsel` takes the first ring of its mask, in its order, that has a message. -/
theorem Rings.select_first {r : Rings} {mask : BitVec 16} {rot : Bool} {q : Fin 16} (hm : bit mask q.val = true)
    (hw : (r.q[q]).waiting = true)
    (first : ∀ x : Fin 16, r.place rot x < r.place rot q → bit mask x.val = true → (r.q[x]).waiting = false) :
    r.select mask rot = some q := by
  rw [r.select_eq, List.find?_eq_some_iff_getElem]
  refine ⟨by rw [hm, hw]; rfl, r.place rot q, by rw [r.order_length]; exact r.place_lt rot q, r.order_place rot q,
    fun j hj => ?_⟩
  have lt : j < (r.order rot).length := by
    rw [r.order_length]
    exact hj.trans (r.place_lt rot q)
  cases masked : bit mask ((r.order rot)[j]).val with
  | false => rfl
  | true =>
    have idle := first _ (by rw [r.place_order rot j lt]; exact hj) masked
    rw [idle]
    rfl

theorem Rings.select_none {r : Rings} {mask : BitVec 16} (rot : Bool)
    (h : ∀ x : Fin 16, bit mask x.val = true → (r.q[x]).waiting = false) : r.select mask rot = none := by
  rw [r.select_eq, List.find?_eq_none]
  intro x _ found
  rw [Bool.and_eq_true] at found
  exact absurd found.2 (by rw [h x found.1]; decide)

/-! ### The three waits -/

/-- A change of a core that comes to a change of its vector unit. -/
theorem onlyVec_modCore {s : State} {a : CoreRef} {f : Core → Core} {v : Vec} (h : f (s.core a) = { s.core a with vec := v }) :
    OnlyVec a s (s.modCore a f) ∧ ((s.modCore a f).core a).vec = v := by
  have core := (s.modCore_same a f).trans h
  exact ⟨⟨onlyCore_modCore s a f, by rw [core]⟩, congrArg Core.vec core⟩

/-- The count of a legal `wait` is below 2^48: its upper register holds 16 bits (R182). -/
theorem wait_upper_lt {s : State} {a : CoreRef} {f : WaitF} (h : slotCauses s a (.wait f) = []) :
    (opReg s a f.so 1).toNat < 2 ^ 16 := by
  by_contra big
  have big : 2 ^ 16 ≤ (regAt (s.core a).ctl.s f.so 1).toNat := Nat.le_of_not_lt big
  have none := (List.append_eq_nil_iff.mp h).2
  rw [failIf, if_pos (decide_eq_true big)] at none
  cases none

theorem wait_target {lo hi : U32} (h : hi.toNat < 2 ^ 16) :
    BitVec.ofNat 48 (lo.toNat + hi.toNat % 65536 * 2 ^ 32) = BitVec.ofNat 48 (lo.toNat + hi.toNat * 2 ^ 32)
      ∧ (BitVec.ofNat 48 (lo.toNat + hi.toNat * 2 ^ 32)).toNat = lo.toNat + hi.toNat * 2 ^ 32 := by
  have := lo.isLt
  rw [Nat.mod_eq_of_lt (show hi.toNat < 65536 from h), BitVec.toNat_ofNat]
  exact ⟨rfl, Nat.mod_eq_of_lt (by omega)⟩

/-- Settles O28. A legal wait is judged at once on the core as it stands (`exec_wait`); the ring of a `qsel` is the first of
its order that has a message (`Rings.select_first`). -/
theorem waitsBegin : Obligations.WaitsBegin := by
  unfold Obligations.WaitsBegin
  intro s a f g q hr k clk done holds
  refine ⟨fun hl => ?_, fun hl alone b hb => ?_, fun hl => ?_⟩
  · intro e
    obtain ⟨target, value⟩ := wait_target (lo := opReg s a f.so 0) (wait_upper_lt hl)
    have waits : (s.dies[a.die].aheadCore a.core (slotNow s a 7 (.wait f))).waitFor (s.core a).ctl.s (.wait f)
        = some (.count f.sc.toFin (BitVec.ofNat 48 e), f.tmo.toNat, f.vsd.toFin, f.vsw) :=
      congrArg (fun n => some (WaitFor.count f.sc.toFin n, f.tmo.toNat, f.vsd.toFin, f.vsw)) target
    have met_iff : k.waitMet (.count f.sc.toFin (BitVec.ofNat 48 e)) = decide (e ≤ k.sync.ctr[f.sc.toFin].s.toNat) :=
      congrArg (fun n => decide (n ≤ k.sync.ctr[f.sc.toFin].s.toNat)) value
    by_cases met : e ≤ k.sync.ctr[f.sc.toFin].s.toNat
    · exact ⟨_, exec_wait_met rfl hr hl rfl waits (met_iff.trans (decide_eq_true met)),
        fun _ => onlyVec_modCore (Core.waitEnds_count rfl _ _), fun less => absurd less (Nat.not_lt.mpr met)⟩
    · exact ⟨_, exec_wait_unmet rfl hr hl rfl waits (met_iff.trans (decide_eq_false met)), fun h => absurd h met,
        fun _ => ⟨_, holdsFor_leaves s a _ _, rfl, rfl, rfl, rfl, rfl⟩⟩
  · intro addr met
    have ahead : s.dies[a.die].aheadCore a.core (slotNow s a 7 (.pwait g)) = s.core a := by
      rw [Die.aheadCore, show s.dies[a.die].cores[a.core].earlier _ = [] from alone]
      rfl
    have waits : (s.dies[a.die].aheadCore a.core (slotNow s a 7 (.pwait g))).waitFor (s.core a).ctl.s (.pwait g)
        = some (.word g.h.toFin addr g.cond (opReg s a g.so 1), g.tmo.toNat, g.vsd.toFin, g.vsw) := by
      rw [ahead]
      exact congrArg (fun n => some (WaitFor.word g.h.toFin (n + (opReg s a g.so 0).toNat) g.cond (opReg s a g.so 1),
        g.tmo.toNat, g.vsd.toFin, g.vsw)) (base_of_buf hb)
    cases judged : met with
    | true =>
      exact ⟨_, exec_wait_met rfl hr hl rfl waits judged, fun _ => onlyVec_modCore (Core.waitEnds_word rfl _ _), nofun⟩
    | false =>
      exact ⟨_, exec_wait_unmet rfl hr hl rfl waits judged, nofun,
        fun _ => ⟨_, holdsFor_leaves s a _ _, rfl, rfl, rfl⟩⟩
  · have waits : (s.dies[a.die].aheadCore a.core (slotNow s a 7 (.qsel q))).waitFor (s.core a).ctl.s (.qsel q)
        = some (.ring q.qmask q.rot, q.tmo.toNat, q.vsd.toFin, true) := rfl
    have taken (r : Fin 16) (hm : bit q.qmask r.val = true) (hw : (k.rings.q[r]).waiting = true) :=
      Rings.select_first (r := k.rings) (rot := q.rot) hm hw
    have idle := Rings.select_none (r := k.rings) (mask := q.qmask) q.rot
    cases selected : k.rings.select q.qmask q.rot with
    | none =>
      refine ⟨_, exec_wait_unmet rfl hr hl rfl waits (congrArg Option.isSome selected), ?_,
        fun _ => ⟨_, holdsFor_leaves s a _ _, rfl, rfl, rfl⟩⟩
      intro r hm hw at_ first
      exact absurd (selected.symm.trans (taken r hm hw first)) nofun
    | some r' =>
      refine ⟨_, exec_wait_met rfl hr hl rfl waits (congrArg Option.isSome selected), ?_,
        fun none => absurd (selected.symm.trans (idle none)) nofun⟩
      intro r hm hw at_ first
      have core := (s.modCore_same a
        (·.waitEnds clk (waitNow s a (.ring q.qmask q.rot) q.tmo.toNat q.vsd.toFin true) true)).trans
        (Core.waitEnds_ring rfl (taken r hm hw first) clk)
      exact ⟨onlyCore_modCore s a _, congrArg (fun c : Core => { c with vec := k.vec, rings := k.rings }) core,
        congrArg Core.rings core, congrArg Core.vec core⟩

end Sys2Proof.Machine

/-! # Waits that time out (O29) -/

namespace Sys2Proof.Machine

/-! ### Summaries that land in the present clock cycle (R109, R162) -/

/-- From d to e the summary writes `ws` of a core land in the registers `rs`: of the core only its vector unit changes, a
register of `rs` with one write has it, and the other registers stay. -/
structure SummariesLand (c : CoreIx) (ws : List SummaryWrite) (rs : List (Fin 8)) (d e : Die) : Prop where
  hold : e.hold = d.hold
  core : e.cores[c] = { d.cores[c] with vec := e.cores[c].vec }
  alone : e.cores[c].vec.sumNow = []
  lands : ∀ r ∈ rs, ∀ x, ws.filter (fun w => w.vs = r) = [x] → e.cores[c].vec.vs[r] = x.summary
  stays : ∀ r, r ∉ rs → e.cores[c].vec.vs[r] = d.cores[c].vec.vs[r]

section
variable {d : Die} {c : CoreIx} {ws : List SummaryWrite}

theorem Die.landSummary_filter (r : Fin 8) : d.landSummary c ws r = d.landSummary c (ws.filter (fun w => w.vs = r)) r := by
  simp only [Die.landSummary, List.filter_filter, Bool.and_self]

theorem Die.landSummary_hold (r : Fin 8) : (d.landSummary c ws r).hold = d.hold := by
  have faulted (e : Die) (b : FBit) : (e.fault (.vec c) b).hold = e.hold := (e.fault_parts (.vec c) b).2.1
  unfold Die.landSummary
  split
  · rfl
  · dsimp only
    split
    · split
      · exact faulted _ _
      · rfl
    · rw [faulted]
      split
      · exact faulted _ _
      · rfl

theorem summariesLand_one (h : d.cores[c].vec.sumNow = []) (r : Fin 8) : SummariesLand c ws [r] d (d.landSummary c ws r) := by
  cases hw : ws.filter (fun w => w.vs = r) with
  | nil =>
    have same : d.landSummary c ws r = d := by rw [Die.landSummary_filter, hw]; rfl
    rw [same]
    refine ⟨rfl, rfl, h, fun q hq x hx => ?_, fun _ _ => rfl⟩
    rw [List.mem_singleton.mp hq, hw] at hx
    cases hx
  | cons w rest =>
    have regs : ∀ x ∈ w :: rest, x.vs = r := fun x hx => by
      rw [← hw, List.mem_filter] at hx
      exact of_decide_eq_true hx.2
    have reg : w.vs = r := regs w List.mem_cons_self
    subst reg
    have core : (d.landSummary c ws w.vs).cores[c] = { d.cores[c] with vec := d.cores[c].vec.landed w rest } := by
      rw [Die.landSummary_filter, hw]
      exact Die.landSummary_core (fun x hx => regs x (List.mem_cons_of_mem w hx))
    refine ⟨Die.landSummary_hold _, ?_, ?_, fun q hq x hx => ?_, fun q hq => ?_⟩
    · rw [core]
    · rw [core]; exact h
    · rw [core, List.mem_singleton.mp hq, Vec.landed_register, Vec.metIn, h]
      rw [List.mem_singleton.mp hq, hw] at hx
      obtain ⟨rfl, rfl⟩ := List.cons.inj hx
      rfl
    · rw [core]
      exact Vec.landed_other (fun e => hq (List.mem_singleton.mpr e))

theorem summariesLand_foldl (h : d.cores[c].vec.sumNow = []) (rs : List (Fin 8)) :
    SummariesLand c ws rs d (rs.foldl (fun d r => d.landSummary c ws r) d) := by
  induction rs generalizing d with
  | nil => exact ⟨rfl, rfl, h, fun _ hr => absurd hr List.not_mem_nil, fun _ _ => rfl⟩
  | cons r rs ih =>
    obtain ⟨hold, core, none, lands, stays⟩ := summariesLand_one (ws := ws) h r
    obtain ⟨hold', core', none', lands', stays'⟩ := ih none
    rw [List.foldl_cons]
    refine ⟨hold'.trans hold, by rw [core', core], none', fun q hq x hx => ?_, fun q hq => ?_⟩
    · by_cases later : q ∈ rs
      · exact lands' q later x hx
      · have first : q = r := (List.mem_cons.mp hq).resolve_right later
        exact (stays' q later).trans (lands q (List.mem_singleton.mpr first) x hx)
    · rw [List.mem_cons, not_or] at hq
      exact (stays' q hq.2).trans (stays q (fun m => hq.1 (List.mem_singleton.mp m)))

/-- A summary write is due by the end of clock cycle clk, outside the run cycles. -/
def SummaryWrite.dueOnClk (clk : Nat) (x : SummaryWrite) : Bool := if x.onClk then decide (x.due ≤ clk) else false

/-- A core whose summary writes of the clock cycle are taken. -/
def Core.clkSumsTaken (clk : Nat) (k : Core) : Core :=
  { k with vec := { k.vec with sumQ := k.vec.sumQ.filter (fun x => !x.dueOnClk clk) } }

theorem Die.landSummaries_clk (d : Die) (c : CoreIx) :
    d.landSummaries c none
      = let ws := d.cores[c].vec.sumQ.filter (·.dueOnClk d.clock.clk)
        let e := (List.finRange 8).foldl (fun d r => d.landSummary c ws r) (d.modCore c (·.clkSumsTaken d.clock.clk))
        if ws.isEmpty then e else e.modCore c (·.sumsLanded ws) := rfl

/-- Summary writes that are all due in the clock cycle land in their registers. -/
theorem Die.landSummaries_due (hq : d.cores[c].vec.sumQ = ws) (due : ∀ x ∈ ws, x.dueOnClk d.clock.clk = true)
    (alone : d.cores[c].vec.sumNow = []) :
    let e := d.landSummaries c none
    e.hold = d.hold ∧ e.cores[c] = { d.cores[c] with vec := e.cores[c].vec }
      ∧ ∀ r x, ws.filter (fun w => w.vs = r) = [x] → e.cores[c].vec.vs[r] = x.summary := by
  intro e
  have taken : ws.filter (·.dueOnClk d.clock.clk) = ws := List.filter_eq_self.mpr due
  have core₀ : (d.modCore c (·.clkSumsTaken d.clock.clk)).cores[c] = d.cores[c].clkSumsTaken d.clock.clk :=
    d.modCore_core c _
  obtain ⟨hold, core, -, lands, -⟩ := summariesLand_foldl (d := d.modCore c (·.clkSumsTaken d.clock.clk)) (ws := ws)
    (by rw [core₀]; exact alone) (List.finRange 8)
  have landed : e = _ := d.landSummaries_clk c
  rw [hq, taken] at landed
  dsimp only at landed
  generalize (List.finRange 8).foldl (fun d r => d.landSummary c ws r) (d.modCore c (·.clkSumsTaken d.clock.clk)) = f at *
  rw [core₀] at core
  have frame : f.cores[c] = { d.cores[c] with vec := f.cores[c].vec } := by rw [core]; rfl
  clear_value e
  by_cases any : ws.isEmpty
  · rw [if_pos any] at landed
    subst landed
    exact ⟨hold, frame, fun r => lands r (List.mem_finRange r)⟩
  · rw [if_neg any] at landed
    subst landed
    have last : (f.modCore c (·.sumsLanded ws)).cores[c] = f.cores[c].sumsLanded ws := f.modCore_core c _
    rw [last]
    refine ⟨hold, ?_, fun r x hx => lands r (List.mem_finRange r) x hx⟩
    rw [Core.sumsLanded, frame]

end

/-! ### The end of a wait (R264, R265) -/

/-- The requests of a die, of which the wait's own has its release at v (R88). -/
def releasedAt (c : CoreIx) (due : Int) (v : Nat) (l : List HoldReq) : List HoldReq :=
  l.map (fun q => if q.core = c ∧ q.slot = 7 ∧ q.forCyc = due ∧ q.release = none then { q with release := some v } else q)

theorem Die.releaseWait_reqs (d : Die) (c : CoreIx) (due : Int) (v : Nat) :
    (d.releaseWait c due v).hold.reqs = releasedAt c due v d.hold.reqs := by
  refine List.map_congr_left fun q _ => if_congr ?_ rfl rfl
  simp only [Bool.and_eq_true, decide_eq_true_eq, beq_iff_eq, Option.isNone_iff_eq_none, and_assoc]

/-- A core of which a wait has ended, with the fault word of its counters. -/
def Core.waitOver (k : Core) (clk : Nat) (w : Waiting) (met : Bool) : Core :=
  let e := k.waitEnds clk w met
  { e with sync := { e.sync with waits := e.sync.waits.erase w,
                                 fault := if met then e.sync.fault else setBit e.sync.fault wtTmo.bit } }

/-- A core with the summaries of a wait written and the wait gone. -/
def Core.waitDone (k : Core) (clk : Nat) (w : Waiting) (met : Bool) : Core :=
  let e := k.waitEnds clk w met
  { e with sync := { e.sync with waits := e.sync.waits.erase w } }

/-- A fault of the counters sets a bit of their fault word. -/
theorem Die.fault_sync {d : Die} {c : CoreIx} {k : Core} (h : d.cores[c] = k) (b : FBit) :
    (d.fault (.sync c) b).cores[c] = { k with sync := { k.sync with fault := setBit k.sync.fault b.bit } } := by
  obtain ⟨-, -, -, hk⟩ := d.fault_parts (.sync c) b
  rw [hk, ← h]
  exact d.modCore_same c _

theorem Die.endWait_leaves (d : Die) (c : CoreIx) (w : Waiting) (met : Bool) (v : Nat) :
    (d.endWait c w met v).hold.reqs = releasedAt c w.due v d.hold.reqs ∧ (d.endWait c w met v).clock = d.clock
      ∧ (d.endWait c w met v).cores[c] = d.cores[c].waitOver d.clock.clk w met := by
  have core : (d.modCore c (·.waitDone d.clock.clk w met)).cores[c] = d.cores[c].waitDone d.clock.clk w met :=
    d.modCore_core c _
  have reqs := (d.modCore c (·.waitDone d.clock.clk w met)).releaseWait_reqs c w.due v
  cases met with
  | true => exact ⟨reqs, rfl, core⟩
  | false =>
    obtain ⟨-, hold, clock, cores⟩ :=
      ((d.modCore c (·.waitDone d.clock.clk w false)).releaseWait c w.due v).fault_parts (.sync c) wtTmo
    refine ⟨(congrArg Holds.reqs hold).trans reqs, clock, ?_⟩
    exact Die.fault_sync (d := (d.modCore c (·.waitDone d.clock.clk w false)).releaseWait c w.due v) core wtTmo

/-- From d to e a wait of a core ends with its summaries `ws` landed, the rings `r` and its hold released at v: the core is
else as it was, but for the fault of an unmet wait. -/
structure WaitEnded (c : CoreIx) (w : Waiting) (met : Bool) (v : Nat) (ws : List SummaryWrite) (r : Rings)
    (d e : Die) : Prop where
  reqs : e.hold.reqs = releasedAt c w.due v d.hold.reqs
  core : e.cores[c] = { d.cores[c] with
    vec := e.cores[c].vec, rings := r,
    sync := { d.cores[c].sync with
      waits := [], fault := if met then d.cores[c].sync.fault else setBit d.cores[c].sync.fault wtTmo.bit } }
  silent : ws = [] → e.cores[c].vec = d.cores[c].vec
  tells : ∀ q x, ws.filter (fun w => w.vs = q) = [x] → e.cores[c].vec.vs[q] = x.summary

theorem waitEnded_landSummaries {d : Die} {c : CoreIx} {w : Waiting} {met : Bool} {ws : List SummaryWrite} {r : Rings}
    (waits : d.cores[c].sync.waits = [w]) (queue : d.cores[c].vec.sumQ = []) (alone : d.cores[c].vec.sumNow = [])
    (due : ∀ x ∈ ws, x.dueOnClk d.clock.clk = true)
    (told : d.cores[c].waitEnds d.clock.clk w met
      = { d.cores[c] with vec := { d.cores[c].vec with sumQ := d.cores[c].vec.sumQ ++ ws }, rings := r }) (v : Nat) :
    WaitEnded c w met v ws r d ((d.endWait c w met v).landSummaries c none) := by
  obtain ⟨reqs, clock, core⟩ := d.endWait_leaves c w met v
  rw [Core.waitOver, told] at core
  have erased : d.cores[c].sync.waits.erase w = [] := by rw [waits, List.erase_cons_head]
  generalize d.endWait c w met v = e at *
  have queued : e.cores[c].vec.sumQ = ws := by rw [core, queue]; rfl
  have alone' : e.cores[c].vec.sumNow = [] := by rw [core]; exact alone
  obtain ⟨hold, landed, lands⟩ := Die.landSummaries_due queued (by rw [clock]; exact due) alone'
  refine ⟨(congrArg Holds.reqs hold).trans reqs, ?_, ?_, fun q x => lands q x⟩
  · rw [landed, core]
    simp only [erased]
  · rintro rfl
    rw [Die.landSummaries_none none queued, core, queue]
    change { d.cores[c].vec with sumQ := [] } = d.cores[c].vec
    rw [← queue]

/-! ### The cycle of a timeout (R264) -/

section
variable {d : Die} {c : CoreIx} {w : Waiting}

theorem Die.lastWaits_one (waits : d.cores[c].sync.waits = [w]) (timed : w.tmo ≠ 0) :
    d.lastWaits c = if w.v0 + w.tmo - 1 ≤ d.clock.clk then [w] else [] := by
  rw [Die.lastWaits, waits, List.filter_singleton]
  by_cases last : w.v0 + w.tmo - 1 ≤ d.clock.clk <;> simp [Waiting.last, timed, last]

theorem Die.evalWaits_met (waits : d.cores[c].sync.waits = [w]) (first : w.v0 < d.clock.clk)
    (met : d.cores[c].waitMet w.what = true) : d.evalWaits c = d.endWait c w true d.clock.clk := by
  rw [Die.evalWaits, waits, List.filter_singleton, decide_eq_true first]
  exact if_pos met

theorem Die.evalWaits_unmet (waits : d.cores[c].sync.waits = [w])
    (unmet : w.v0 < d.clock.clk → d.cores[c].waitMet w.what = false) : d.evalWaits c = d := by
  rw [Die.evalWaits, waits, List.filter_singleton]
  by_cases first : w.v0 < d.clock.clk
  · rw [decide_eq_true first]
    exact if_neg (by rw [unmet first]; decide)
  · rw [decide_eq_false first]
    rfl

/-- What a wait's timeout does after the evaluation as at the cycle's start. -/
def Die.waitsJudged (e : Die) (c : CoreIx) : Die :=
  let ws := (e.lastWaits c).filter (e.waitSettled c)
  Die.landSummaries (if ws.isEmpty then e
    else ((e.modCore c (fun k => k.landWrites none e.clock.clk)).arrivalsLand c).judgeWaits c ws) c none

theorem Die.waitTimeout_eq (d : Die) (c : CoreIx) :
    Die.waitTimeout c d = if (d.lastWaits c).isEmpty then d else (d.evalWaits c).waitsJudged c := rfl

theorem Die.waitTimeout_before (waits : d.cores[c].sync.waits = [w]) (timed : w.tmo ≠ 0)
    (before : d.clock.clk < w.v0 + w.tmo - 1) : Die.waitTimeout c d = d := by
  rw [Die.waitTimeout_eq, Die.lastWaits_one waits timed, if_neg (Nat.not_le.mpr before)]
  rfl

theorem Die.waitTimeout_last (waits : d.cores[c].sync.waits = [w]) (timed : w.tmo ≠ 0)
    (last : w.v0 + w.tmo - 1 ≤ d.clock.clk) : Die.waitTimeout c d = (d.evalWaits c).waitsJudged c := by
  rw [Die.waitTimeout_eq, Die.lastWaits_one waits timed, if_pos last]
  rfl

theorem Core.waitEnds_sync (k : Core) (clk : Nat) (w : Waiting) (met : Bool) : (k.waitEnds clk w met).sync = k.sync := by
  unfold Core.waitEnds
  split
  · split <;> rfl
  · split <;> rfl
  · rfl

/-- A wait that was met as its last cycle starts ends with that cycle. -/
theorem Die.waitTimeout_met (waits : d.cores[c].sync.waits = [w]) (timed : w.tmo ≠ 0)
    (last : w.v0 + w.tmo - 1 ≤ d.clock.clk) (first : w.v0 < d.clock.clk) (met : d.cores[c].waitMet w.what = true) :
    Die.waitTimeout c d = (d.endWait c w true d.clock.clk).landSummaries c none := by
  obtain ⟨-, -, core⟩ := d.endWait_leaves c w true d.clock.clk
  have gone : (d.endWait c w true d.clock.clk).cores[c].sync.waits = [] := by
    rw [core, Core.waitOver]
    change (d.cores[c].waitEnds d.clock.clk w true).sync.waits.erase w = []
    rw [Core.waitEnds_sync, waits, List.erase_cons_head]
  have idle : (d.endWait c w true d.clock.clk).lastWaits c = [] := by
    rw [Die.lastWaits, gone]
    rfl
  rw [Die.waitTimeout_last waits timed last, Die.evalWaits_met waits first met, Die.waitsJudged, idle]
  simp only [List.filter_nil, List.isEmpty_nil, if_true]

/-- A wait that is not settled in its last cycle is left to the cycle's end. -/
theorem Die.waitTimeout_unsettled (waits : d.cores[c].sync.waits = [w]) (timed : w.tmo ≠ 0)
    (last : w.v0 + w.tmo - 1 ≤ d.clock.clk) (unmet : w.v0 < d.clock.clk → d.cores[c].waitMet w.what = false)
    (unsettled : d.waitSettled c w = false) (queue : d.cores[c].vec.sumQ = []) : Die.waitTimeout c d = d := by
  rw [Die.waitTimeout_last waits timed last, Die.evalWaits_unmet waits unmet, Die.waitsJudged,
    Die.lastWaits_one waits timed, if_pos last, List.filter_singleton, unsettled]
  exact Die.landSummaries_none none queue

/-- Of what lands with a cycle only messages are on their way to a core. -/
structure OnlyMessagesLand (k : Core) : Prop where
  incs : k.sync.incs = []
  tally : k.vault.tally = []
  writes : k.vault.writes = []
  losses : k.rings.losses = []

theorem Die.arrivalsLand_messages (h : OnlyMessagesLand d.cores[c]) : d.arrivalsLand c = d.showRings c := by
  obtain ⟨incs, tally, writes, losses⟩ := h
  have stores : d.storesDone c = d := by rw [Die.storesDone, tally]; rfl
  have counters : d.landIncs c = d := by rw [Die.landIncs, Die.dueCounters, incs]; rfl
  have notices : Die.lossNotices c d = d := by rw [Die.lossNotices, losses]; rfl
  rw [Die.arrivalsLand, stores, counters, notices]

/-- A settled wait that is not met as its last cycle starts is judged on what lands with that cycle. -/
theorem Die.waitTimeout_settled (waits : d.cores[c].sync.waits = [w]) (timed : w.tmo ≠ 0)
    (last : w.v0 + w.tmo - 1 ≤ d.clock.clk) (unmet : w.v0 < d.clock.clk → d.cores[c].waitMet w.what = false)
    (settled : d.waitSettled c w = true) (h : OnlyMessagesLand d.cores[c]) :
    Die.waitTimeout c d = let e := d.showRings c
      (e.endWait c w (e.cores[c].waitMet w.what) (e.clock.clk + 1)).landSummaries c none := by
  have writes : d.modCore c (fun k => k.landWrites none d.clock.clk) = d :=
    d.modCore_self c _ (Core.landWrites_none h.writes _ _)
  rw [Die.waitTimeout_last waits timed last, Die.evalWaits_unmet waits unmet, Die.waitsJudged,
    Die.lastWaits_one waits timed, if_pos last, List.filter_singleton, settled]
  dsimp only [cond_true]
  rw [writes, Die.arrivalsLand_messages h]
  rfl

/-! ### Records that become visible (R282, R283) -/

theorem foldl_kept {α β : Type} {f : β → α → β} {d : β} {l : List α} (h : ∀ x ∈ l, f d x = d) :
    l.foldl f d = d := by
  induction l with
  | nil => rfl
  | cons x l ih =>
    rw [List.forall_mem_cons] at h
    rw [List.foldl_cons, h.1, ih h.2]

/-- Of a fold over all indexes only one step changes anything, in the state in which each step stands. -/
theorem foldl_finRange_only {n : Nat} {β : Type} {f : β → Fin n → β} (r : Fin n) {d : β}
    (before : ∀ x, x ≠ r → f d x = d) (after : ∀ x, x ≠ r → f (f d r) x = f d r) :
    (List.finRange n).foldl f d = f d r := by
  obtain ⟨l1, l2, hl⟩ := List.append_of_mem (List.mem_finRange r)
  have distinct := List.nodup_finRange n
  rw [hl, List.nodup_append, List.nodup_cons] at distinct
  obtain ⟨-, ⟨h2, -⟩, h1⟩ := distinct
  rw [hl, List.foldl_append, List.foldl_cons, foldl_kept fun x hx => before x (h1 x hx r List.mem_cons_self),
    foldl_kept fun x hx => after x (by rintro rfl; exact h2 hx)]

theorem Die.showRing_none {q : Fin 16} (h : d.cores[c].rings.q[q].resv = []) : d.showRing c q = d := by
  rw [Die.showRing, h]
  rfl

theorem Die.showRings_eq (d : Die) (c : CoreIx) : d.showRings c = (List.finRange 16).foldl (fun d q => d.showRing c q) d := by
  unfold Die.showRings
  split
  next h =>
    refine (foldl_kept fun q _ => Die.showRing_none ?_).symm
    exact List.isEmpty_iff.mp (List.all_eq_true.mp h _ (by simp))
  · rfl

theorem Die.showRings_none (h : ∀ q : Fin 16, d.cores[c].rings.q[q].resv = []) : d.showRings c = d := by
  rw [Die.showRings_eq]
  exact foldl_kept fun q _ => Die.showRing_none (h q)

/-- A core of which the one record of a ring has become visible. -/
def Core.recordShown (k : Core) (q : Fin 16) (x : Resv) : Core :=
  k.modRing q (fun r => { r with resv := [], wp := BitVec.ofNat 32 (x.start + x.size), nacc := r.nacc + 1 })

/-- A core with other increments on their way. -/
def Core.withIncs (k : Core) (l : List Inc) : Core := { k with sync := { k.sync with incs := l } }

/-- The signal of an answer leaves every core but for the increments on their way. -/
theorem Die.answerOwn_leaves (d : Die) (c src by_ : CoreIx) (a : Answer) (due : Nat) :
    let e := d.answerOwn src by_ a due
    e.hold = d.hold ∧ e.clock = d.clock
      ∧ ∃ incs, e.cores[c] = d.cores[c].withIncs incs := by
  intro e
  unfold e Die.answerOwn
  split
  · refine ⟨rfl, rfl, ?_⟩
    unfold Die.pushInc
    by_cases own : c = src
    · subst own
      exact ⟨_, d.modCore_core c _⟩
    · exact ⟨_, d.modCore_other src c _ own⟩
  · exact ⟨rfl, rfl, _, rfl⟩

theorem Die.showRing_one {q : Fin 16} {x : Resv} (one : d.cores[c].rings.q[q].resv = [x]) (full : x.full ≠ none)
    (wrap : x.wrapAt = none) (void : x.void = false) (here : x.from_ = none) :
    let e := d.showRing c q
    e.hold = d.hold ∧ e.clock = d.clock ∧ ∃ incs, e.cores[c] = (d.cores[c].recordShown q x).withIncs incs := by
  intro e
  have shown : e = (d.modCore c (·.recordShown q x)).answerOwn (desCore x.hdr.src.toNat) c
      { code := 0, ring := x.hdr.q, tag := x.hdr.tag, seq := x.hdr.seq }
      (landCycle d.clock.clk c (desCore x.hdr.src.toNat)) := by
    have complete : (x.full.isSome && x.wrapAt.isNone) = true := by
      rw [wrap, Option.isSome_iff_ne_none.mpr full]
      rfl
    unfold e Die.showRing
    rw [one]
    change d.showNext c q = _
    unfold Die.showNext
    rw [one]
    dsimp only
    rw [if_pos complete, void, if_neg Bool.false_ne_true, here]
    rfl
  obtain ⟨hold, clock, incs, core⟩ := (d.modCore c (·.recordShown q x)).answerOwn_leaves c (desCore x.hdr.src.toNat) c
    { code := 0, ring := x.hdr.q, tag := x.hdr.tag, seq := x.hdr.seq } (landCycle d.clock.clk c (desCore x.hdr.src.toNat))
  rw [Die.modCore_core] at core
  rw [shown]
  exact ⟨hold, clock, incs, core⟩

/-- The one record of a core that is complete becomes visible: its ring passes it, and its sender on this die has its answer
on its way. -/
theorem Die.showRings_one {q : Fin 16} {x : Resv} (others : ∀ y : Fin 16, y ≠ q → d.cores[c].rings.q[y].resv = [])
    (one : d.cores[c].rings.q[q].resv = [x]) (full : x.full ≠ none) (wrap : x.wrapAt = none) (void : x.void = false)
    (here : x.from_ = none) :
    let e := d.showRings c
    e.hold = d.hold ∧ e.clock = d.clock ∧ ∃ incs, e.cores[c] = (d.cores[c].recordShown q x).withIncs incs := by
  intro e
  obtain ⟨hold, clock, incs, core⟩ := Die.showRing_one one full wrap void here
  have shown : e = d.showRing c q := by
    refine (d.showRings_eq c).trans (foldl_finRange_only q (fun y hy => Die.showRing_none (others y hy)) fun y hy => ?_)
    refine Die.showRing_none ?_
    rw [core]
    exact (congrArg Ring.resv (vupd_get_other _ _ hy)).trans (others y hy)
  rw [shown]
  exact ⟨hold, clock, incs, core⟩

end

/-! ### A state in which a wait has timed out (R264, R265) -/

/-- A core has one wait, with a timeout, and but for messages nothing is on its way to what that wait looks at or writes. -/
structure LoneWait (s : State) (a : CoreRef) (w : Waiting) : Prop where
  runs : s.runs a.die = true
  waits : (s.core a).sync.waits = [w]
  timed : w.tmo ≠ 0
  queue : (s.core a).vec.sumQ = []
  alone : (s.core a).vec.sumNow = []
  messages : OnlyMessagesLand (s.core a)

/-- From s to t the wait ends as its timeout has it, judged on the core k: its summaries `ws` are written, the rings are r,
and its hold has its release at v. -/
structure TimedOut (s : State) (a : CoreRef) (w : Waiting) (met : Bool) (v : Nat) (ws : List SummaryWrite) (k : Core)
    (r : Rings) (t : State) : Prop where
  exec : exec (.waitTimeout a) s = .next t
  only : OnlyDie a.die s t
  reqs : t.dies[a.die].hold.reqs = releasedAt a.core w.due v s.dies[a.die].hold.reqs
  core : t.core a = { k with
    vec := (t.core a).vec, rings := r,
    sync := { k.sync with waits := [], fault := if met then k.sync.fault else setBit k.sync.fault wtTmo.bit } }
  silent : ws = [] → (t.core a).vec = k.vec
  tells : ∀ q x, ws.filter (fun w => w.vs = q) = [x] → (t.core a).vec.vs[q] = x.summary

section
variable {s t : State} {a : CoreRef} {w : Waiting} {met : Bool} {v : Nat} {ws : List SummaryWrite} {k : Core} {r : Rings}

theorem TimedOut.waits (h : TimedOut s a w met v ws k r t) : (t.core a).sync.waits = [] := by rw [h.core]

theorem TimedOut.rings (h : TimedOut s a w met v ws k r t) : (t.core a).rings = r := by rw [h.core]

theorem TimedOut.fault_met (h : TimedOut s a w true v ws k r t) : (t.core a).sync.fault = k.sync.fault := by rw [h.core]; rfl

theorem TimedOut.fault_unmet (h : TimedOut s a w false v ws k r t) : bit (t.core a).sync.fault 5 = true := by
  rw [h.core]
  exact bit_setBit_same _ (by decide)

theorem LoneWait.exec_timeout (h : LoneWait s a w) :
    exec (.waitTimeout a) s = .next (s.modDie a.die (Die.waitTimeout a.core)) := onDie_runs (Die.waitTimeout a.core) h.runs

theorem LoneWait.exec_still (h : LoneWait s a w) (still : Die.waitTimeout a.core s.dies[a.die] = s.dies[a.die]) :
    exec (.waitTimeout a) s = .next s :=
  h.exec_timeout.trans (congrArg _ (s.modDie_self a.die _ still))

theorem LoneWait.timedOut {e : Die} (h : LoneWait s a w) (hold : e.hold = s.dies[a.die].hold)
    (ended : WaitEnded a.core w met v ws r e (Die.waitTimeout a.core s.dies[a.die])) :
    TimedOut s a w met v ws e.cores[a.core] r (s.modDie a.die (Die.waitTimeout a.core)) := by
  have core := s.modDie_core a (Die.waitTimeout a.core)
  have die := s.modDie_die a.die (Die.waitTimeout a.core)
  obtain ⟨reqs, changed, silent, tells⟩ := ended
  refine ⟨h.exec_timeout, onlyDie_modDie s a.die _, ?_, ?_, fun none => ?_, fun q x hx => ?_⟩
  · rw [die, reqs, hold]
  · rw [core]; exact changed
  · rw [core]; exact silent none
  · rw [core]; exact tells q x hx

/-- A wait that was met as its last cycle starts. -/
theorem LoneWait.timedOut_met (h : LoneWait s a w) (last : w.v0 + w.tmo - 1 ≤ clockCycle s a) (first : w.v0 < clockCycle s a)
    (met : (s.core a).waitMet w.what = true) (due : ∀ x ∈ ws, x.dueOnClk (clockCycle s a) = true)
    (told : (s.core a).waitEnds (clockCycle s a) w true
      = { s.core a with vec := { (s.core a).vec with sumQ := (s.core a).vec.sumQ ++ ws }, rings := r }) :
    TimedOut s a w true (clockCycle s a) ws (s.core a) r (s.modDie a.die (Die.waitTimeout a.core)) := by
  refine h.timedOut (e := s.dies[a.die]) rfl ?_
  rw [Die.waitTimeout_met h.waits h.timed last first met]
  exact waitEnded_landSummaries h.waits h.queue h.alone due told _

/-- A settled wait that was not met as its last cycle starts, judged on the core with its messages visible. -/
theorem LoneWait.timedOut_settled (h : LoneWait s a w) (last : w.v0 + w.tmo - 1 ≤ clockCycle s a)
    (unmet : w.v0 < clockCycle s a → (s.core a).waitMet w.what = false) (settled : s.dies[a.die].waitSettled a.core w = true)
    (hold : (s.dies[a.die].showRings a.core).hold = s.dies[a.die].hold)
    (clock : (s.dies[a.die].showRings a.core).clock = s.dies[a.die].clock)
    (core : (s.dies[a.die].showRings a.core).cores[a.core] = k) (waits : k.sync.waits = [w]) (vec : k.vec = (s.core a).vec)
    (judged : k.waitMet w.what = met) (due : ∀ x ∈ ws, x.dueOnClk (clockCycle s a) = true)
    (told : k.waitEnds (clockCycle s a) w met = { k with vec := { k.vec with sumQ := k.vec.sumQ ++ ws }, rings := r }) :
    TimedOut s a w met (clockCycle s a + 1) ws k r (s.modDie a.die (Die.waitTimeout a.core)) := by
  subst core
  refine h.timedOut hold ?_
  rw [Die.waitTimeout_settled h.waits h.timed last unmet settled h.messages]
  dsimp only
  rw [judged, clock]
  refine waitEnded_landSummaries waits (by rw [vec]; exact h.queue) (by rw [vec]; exact h.alone) (by rw [clock]; exact due) ?_ _
  rw [clock]
  exact told

/-- The same where no message becomes visible. -/
theorem LoneWait.timedOut_still (h : LoneWait s a w) (last : w.v0 + w.tmo - 1 ≤ clockCycle s a)
    (unmet : w.v0 < clockCycle s a → (s.core a).waitMet w.what = false) (settled : s.dies[a.die].waitSettled a.core w = true)
    (still : ∀ q : Fin 16, (s.core a).rings.q[q].resv = []) (judged : (s.core a).waitMet w.what = met)
    (due : ∀ x ∈ ws, x.dueOnClk (clockCycle s a) = true)
    (told : (s.core a).waitEnds (clockCycle s a) w met
      = { s.core a with vec := { (s.core a).vec with sumQ := (s.core a).vec.sumQ ++ ws }, rings := r }) :
    TimedOut s a w met (clockCycle s a + 1) ws (s.core a) r (s.modDie a.die (Die.waitTimeout a.core)) := by
  have same : s.dies[a.die].showRings a.core = s.dies[a.die] := Die.showRings_none still
  exact h.timedOut_settled last unmet settled (by rw [same]) (by rw [same]) (by rw [same]; rfl) h.waits rfl judged due told

end

/-! ### What each wait tells -/

theorem synSummary_due (clk : Nat) (vs : Fin 8) (val : U32) (pz : Bool) : (synSummary clk vs val pz).dueOnClk clk = true :=
  decide_eq_true (Nat.le_refl clk)

theorem Waiting.tells_due (w : Waiting) (clk : Nat) (val : U32) (pz : Bool) :
    ∀ x ∈ w.tells clk val pz, x.dueOnClk clk = true := by
  intro x hx
  unfold Waiting.tells at hx
  split at hx
  · rw [List.mem_singleton.mp hx]
    exact synSummary_due ..
  · cases hx

theorem Waiting.tells_silent {w : Waiting} (h : w.vsw = false) (clk : Nat) (val : U32) (pz : Bool) :
    w.tells clk val pz = [] := by
  rw [Waiting.tells, h, if_neg Bool.false_ne_true]

theorem Waiting.tells_own {w : Waiting} (h : w.vsw = true) (clk : Nat) (val : U32) (pz : Bool) :
    (w.tells clk val pz).filter (fun x => x.vs = w.vsd) = [synSummary clk w.vsd val pz] := by
  rw [Waiting.tells, if_pos h, List.filter_singleton, synSummary, decide_eq_true rfl]
  rfl

theorem ringTells_due (clk : Nat) (vsd : Fin 8) (ring head : U32) :
    ∀ x ∈ ringTells clk vsd ring head, x.dueOnClk clk = true := by
  intro x hx
  rcases List.mem_pair.mp hx with rfl | rfl <;> exact synSummary_due ..

theorem ringTells_ring (clk : Nat) (vsd : Fin 8) (ring head : U32) :
    (ringTells clk vsd ring head).filter (fun x => x.vs = vsd) = [synSummary clk vsd ring false] := by
  have next : vsd + 1 ≠ vsd := by revert vsd; decide
  simp [ringTells, synSummary, next]

theorem ringTells_head (clk : Nat) (vsd : Fin 8) (ring head : U32) :
    (ringTells clk vsd ring head).filter (fun x => x.vs = vsd + 1) = [synSummary clk (vsd + 1) head false] := by
  have next : vsd ≠ vsd + 1 := by revert vsd; decide
  simp [ringTells, synSummary, next]

theorem Core.waitEnds_ring_unmet {k : Core} {w : Waiting} {mask : BitVec 16} {rot : Bool} (hw : w.what = .ring mask rot)
    (clk : Nat) : k.waitEnds clk w false
      = { k with vec := { k.vec with sumQ := k.vec.sumQ ++ ringTells clk w.vsd 16 0 }, rings := k.rings } := by
  unfold Core.waitEnds
  rw [hw]
  rfl

/-! ### Every timeout -/

section
variable {s t : State} {a : CoreRef} {w : Waiting} {met : Bool} {v clk : Nat} {ring head val : U32} {pz : Bool}
  {ws : List SummaryWrite} {k : Core} {r : Rings}

theorem TimedOut.tells_own (h : TimedOut s a w met v (w.tells clk val pz) k r t) (loud : w.vsw = true) :
    (t.core a).vec.vs[w.vsd] = ⟨val, 2, pz⟩ := h.tells _ _ (Waiting.tells_own loud clk val pz)

theorem TimedOut.tells_nothing (h : TimedOut s a w met v (w.tells clk val pz) k r t) (quiet : w.vsw = false) :
    (t.core a).vec = k.vec := h.silent (Waiting.tells_silent quiet clk val pz)

theorem TimedOut.tells_ring (h : TimedOut s a w met v (ringTells clk w.vsd ring head) k r t) :
    (t.core a).vec.vs[w.vsd] = ⟨ring, 2, false⟩ ∧ (t.core a).vec.vs[w.vsd + 1] = ⟨head, 2, false⟩ :=
  ⟨h.tells _ _ (ringTells_ring ..), h.tells _ _ (ringTells_head ..)⟩

/-- The head word of a ring goes by the rings and the scratchpad alone. -/
theorem TimedOut.headWord {rot : Bool} {n : BitVec 4}
    (h : TimedOut s a w met v ws k (if rot then { k.rings with rot := n } else k.rings) t) (q : Fin 16) :
    (t.core a).headWord q = k.headWord q := by
  rw [h.core]
  cases rot <;> rfl

end

theorem Rings.select_only {r : Rings} {mask : BitVec 16} {q : Fin 16} (mine : ∀ y : Fin 16, bit mask y.val = decide (y = q))
    (waits : (r.q[q]).waiting = true) (rot : Bool) : r.select mask rot = some q := by
  refine Rings.select_first ((mine q).trans (decide_eq_true rfl)) waits fun x before hx => ?_
  rw [of_decide_eq_true ((mine x).symm.trans hx)] at before
  exact absurd before (Nat.lt_irrefl _)

theorem ring_waiting_shown {k : Core} {q : Fin 16} {x : Resv} (on : k.rings.q[q].en = true)
    (moved : (x.start + x.size) % 2 ^ 32 ≠ k.rings.q[q].rp.toNat) : ((k.recordShown q x).rings.q[q]).waiting = true := by
  have shown : (k.recordShown q x).rings.q[q] = _ := vupd_get_self ..
  rw [shown, Ring.waiting, on]
  refine decide_eq_true fun same => moved ?_
  rw [← same, BitVec.toNat_ofNat]

/-- Settles O29. A wait that was met as its last cycle starts ends as `LoneWait.timedOut_met` has it; a settled one is judged
on what the landings of the cycle leave (`LoneWait.timedOut_settled`), of which only a record that becomes visible changes
anything for it. -/
theorem waitsTimeOut : Obligations.WaitsTimeOut := by
  unfold Obligations.WaitsTimeOut
  intro s a w hr waits timed incs tally writes queue alone losses k clk settled ends tells met unmet
  have lone : LoneWait s a w := ⟨hr, waits, timed, queue, alone, incs, tally, writes, losses⟩
  refine ⟨fun before => lone.exec_still (Die.waitTimeout_before waits timed before), fun last =>
    ⟨fun first judged => ?_, fun late => ⟨
      fun unsettled => lone.exec_still (Die.waitTimeout_unsettled waits timed last late unsettled queue),
      ?_, ?_, ?_, ?_⟩⟩⟩
  · cases what : w.what with
    | count sc e =>
      have out := lone.timedOut_met last first judged (w.tells_due clk 1 false) (Core.waitEnds_count what clk true)
      exact ⟨_, out.exec, ⟨out.only, out.waits, out.reqs⟩, out.fault_met, fun quiet _ => out.tells_nothing quiet,
        fun _ _ _ loud => out.tells_own loud, nofun, nofun⟩
    | word h addr cond ref =>
      have out := lone.timedOut_met last first judged (w.tells_due clk 1 (k.poisoned addr 4)) (Core.waitEnds_word what clk true)
      refine ⟨_, out.exec, ⟨out.only, out.waits, out.reqs⟩, out.fault_met, fun quiet _ => out.tells_nothing quiet,
        nofun, ?_, nofun⟩
      rintro _ _ _ _ same loud
      cases same
      exact out.tells_own loud
    | ring mask rot =>
      have found : (k.rings.select mask rot).isSome = true := by rw [what] at judged; exact judged
      obtain ⟨q, selected⟩ := Option.isSome_iff_exists.mp found
      have out := lone.timedOut_met last first judged (ringTells_due clk w.vsd (BitVec.ofNat 32 q.val) (k.headWord q))
        (Core.waitEnds_ring what selected clk)
      refine ⟨_, out.exec, ⟨out.only, out.waits, out.reqs⟩, out.fault_met, fun _ other => absurd rfl (other mask rot),
        nofun, nofun, ?_⟩
      rintro _ _ q' same again
      cases same
      rw [Option.some.inj (selected.symm.trans again)] at out
      exact ⟨out.tells_ring.1, out.tells_ring.2, out.rings⟩
  · intro sc e ready what still
    have judged : k.waitMet w.what = decide (e.toNat ≤ k.sync.ctr[sc].s.toNat) := by rw [what]; rfl
    have out := lone.timedOut_still last late ready still judged (w.tells_due clk _ false) (Core.waitEnds_count what clk _)
    refine ⟨_, out.exec, ⟨out.only, out.waits, out.reqs⟩, fun less => ?_, fun come => ?_,
      fun quiet => out.tells_nothing quiet⟩
    · rw [decide_eq_false (Nat.not_le.mpr less)] at out
      exact ⟨out.fault_unmet, fun loud => out.tells_own loud⟩
    · rw [decide_eq_true come] at out
      exact ⟨out.fault_met, fun loud => out.tells_own loud⟩
  · intro h addr cond ref ready what still value
    have judged : k.waitMet w.what = condInt cond true value ref := by rw [what]; rfl
    have out := lone.timedOut_still last late ready still judged (w.tells_due clk _ (k.poisoned addr 4))
      (Core.waitEnds_word what clk _)
    refine ⟨_, out.exec, ⟨out.only, out.waits, out.reqs⟩, fun fails => ?_, fun holds => ?_,
      fun quiet => out.tells_nothing quiet⟩
    · rw [fails] at out
      exact ⟨out.fault_unmet, fun loud => out.tells_own loud⟩
    · rw [holds] at out
      exact ⟨out.fault_met, fun loud => out.tells_own loud⟩
  · intro mask rot ready what empty still
    have judged : k.waitMet w.what = false := by
      rw [what]
      exact congrArg Option.isSome (Rings.select_none rot empty)
    have out := lone.timedOut_still last late ready still judged (ringTells_due clk w.vsd 16 0)
      (Core.waitEnds_ring_unmet what clk)
    exact ⟨_, out.exec, ⟨out.only, out.waits, out.reqs⟩, out.fault_unmet, out.tells_ring.1, out.tells_ring.2, out.rings⟩
  · intro mask rot q x ready what mine others on one full wrap void here moved
    obtain ⟨hold, clock, incs, core⟩ := Die.showRings_one (d := s.dies[a.die]) (c := a.core) others one full wrap void here
    have selected : ((k.recordShown q x).withIncs incs).rings.select mask rot = some q :=
      Rings.select_only mine (ring_waiting_shown on moved) rot
    have judged : ((k.recordShown q x).withIncs incs).waitMet w.what = true := by
      rw [what]
      exact congrArg Option.isSome selected
    have out := lone.timedOut_settled last late ready hold clock core waits rfl judged (ringTells_due clk w.vsd _ _)
      (Core.waitEnds_ring what selected clk)
    refine ⟨_, out.exec, ⟨out.only, out.waits, out.reqs⟩, out.fault_met, out.tells_ring.1, ?_, ?_⟩
    · exact out.tells_ring.2.trans (congrArg (fun h => (⟨h, 2, false⟩ : Summary)) (out.headWord q).symm)
    · rintro rfl
      rw [out.rings]
      rfl

end Sys2Proof.Machine

/-! # Remote work lands (O32)

What reaches a core from elsewhere: the notice of a lost message, the last sector of a store, a remote sector, and, on the way
out, the segment of a store that closes. -/

namespace Sys2Proof.Machine

/-! ### Answers to messages (R181, R259, R283) -/

/-- The increments that an answer to a send brings to a core: one, on the counter that the send names, for the core that sent. -/
def Die.answerIncs (d : Die) (c by_ : CoreIx) (a : Answer) (due : Nat) (x : CoreIx) : List Inc :=
  if x = c then
    ((d.cores[c].rings.answerCounter a).map (fun sc =>
      { due := due, sc := fin64 sc, onC := false, amt := 1, rem := c ≠ by_, src := d.designator by_, job := d.jobOf,
        ans := some a })).toList
  else []

/-- An answer within the die brings its increments and changes nothing else of any core. -/
theorem Die.answerOwn_cores (d : Die) (c by_ : CoreIx) (a : Answer) (due : Nat) (x : CoreIx) :
    (d.answerOwn c by_ a due).cores[x] = { d.cores[x] with
      sync := { d.cores[x].sync with incs := d.cores[x].sync.incs ++ d.answerIncs c by_ a due x } } := by
  unfold Die.answerOwn Die.answerIncs
  cases h : d.cores[c].rings.answerCounter a with
  | none => simp
  | some sc =>
    by_cases e : x = c
    · subst e
      rw [if_pos rfl]
      exact d.modCore_same x _
    · rw [if_neg e, List.append_nil]
      exact d.modCore_other c x _ e

/-- An answer changes of a core no more than the increments on their way to it. -/
theorem Die.answer_core (d : Die) (by_ : CoreIx) (from_ : Option (BitVec 23)) (ho : Bool) (src : BitVec 23) (job : BitVec 8)
    (a : Answer) (x : CoreIx) :
    (d.answer by_ from_ ho src job a).cores[x].rings = d.cores[x].rings
      ∧ (d.answer by_ from_ ho src job a).cores[x].scratch = d.cores[x].scratch := by
  unfold Die.answer
  cases from_ with
  | some p => exact ⟨rfl, rfl⟩
  | none =>
    dsimp only
    rw [Die.answerOwn_cores]
    exact ⟨rfl, rfl⟩

/-- A die that stands as die a.die does, but for what no answer depends on, answers a message of its own core. -/
theorem answersSend_answer {s : State} {a : CoreRef} {e : Die} (clock : e.clock = s.dies[a.die].clock)
    (router : e.router = s.dies[a.die].router) (plan : e.plan = s.dies[a.die].plan)
    (outs : ∀ x : CoreIx, e.cores[x].rings.outs = (s.dies[a.die].cores[x]).rings.outs)
    (incs : ∀ x : CoreIx, e.cores[x].sync.incs = (s.dies[a.die].cores[x]).sync.incs)
    {code : Nat} (hc : code < 16) (ho : Bool) (q : BitVec 4) (tag : BitVec 16) (src : BitVec 23) (seq : BitVec 32) (job : BitVec 8) :
    AnswersSend a q tag src seq code s
      (s.modDie a.die (fun _ => e.answer a.core none ho src job { code := BitVec.ofNat 4 code, ring := q, tag := tag, seq := seq })) := by
  have zero : (BitVec.ofNat 4 code = 0) = (code = 0) := by
    rw [← BitVec.toNat_inj, BitVec.toNat_ofNat, Nat.mod_eq_of_lt hc]
    rfl
  have own : e.designator a.core = s.dies[a.die].designator a.core := by simp only [Die.designator, Die.coord, router]
  have job_ : e.jobOf = s.dies[a.die].jobOf := by simp only [Die.jobOf, plan]
  have land : landCycle e.clock.clk a.core (desCore src.toNat)
      = if a.core = desCore src.toNat then clockCycle s a + 2 else clockCycle s a + 6 + 2 * hops a.core (desCore src.toNat) := by
    rw [clock]
    rfl
  have got := fun x : CoreIx => (congrArg (·.sync.incs) (e.answerOwn_cores (desCore src.toNat) a.core
    { code := BitVec.ofNat 4 code, ring := q, tag := tag, seq := seq } (landCycle e.clock.clk a.core (desCore src.toNat)) x)).trans
    (congrArg (· ++ _) (incs x))
  simp only [AnswersSend, State.modDie_die, Die.answer, Die.answerIncs, Rings.answerCounter, outs, zero, own, job_, land] at got ⊢
  refine ⟨fun x hx => ?_, fun unsent => ?_, fun o sent => ?_⟩
  · rw [got, if_neg hx, List.append_nil]
  · rw [got, if_pos rfl, unsent]
    exact List.append_nil _
  · rw [got, if_pos rfl, sent]
    rfl

/-! ### Loss notices (R285) -/

/-- A fault of a core's rings sets a bit of their fault word, and else changes only what notes and records it. -/
theorem Die.fault_rings (d : Die) (c : CoreIx) (b : FBit) (sub : Nat) :
    ∃ q e o n, d.fault (.rings c) b sub
      = { d.modCore c (fun k => { k with rings := { k.rings with fault := setBit k.rings.fault b.bit } }) with
          evq := q, evLost := e, once := o, setNow := n } := by
  have h := d.fault_only (.rings c) b sub
  generalize d.fault (.rings c) b sub = f at h
  refine ⟨f.evq, f.evLost, f.once, f.setNow, ?_⟩
  exact congrArg (fun y : Die => { y with evq := f.evq, evLost := f.evLost, once := f.once, setNow := f.setNow }) h

/-- A core that has taken its one notice, of a message without a reservation: what has arrived of the message is gone. -/
def Core.lossTaken (x : Loss) (k : Core) : Core :=
  { k with rings := { k.rings with
      losses := [], arrive := k.rings.arrive.filter (fun y => !y.isOf x)
      refusedMsgs := if x.from_.isNone then (x.src, x.seq) :: k.rings.refusedMsgs else k.rings.refusedMsgs
      fault := setBit k.rings.fault qVoid.bit } }

/-- The answer to a message whose loss is told. -/
def Loss.answer (x : Loss) : Answer := { code := 5, ring := x.q, tag := x.tag, seq := x.seq }

/-- What the notice of a message without a reservation does to its core, before the fault and the answer. -/
def Core.lossTold (x : Loss) (k : Core) : Core :=
  { k with rings := { k.rings with
      arrive := k.rings.arrive.filter (fun y => !y.isOf x)
      refusedMsgs := if x.from_.isNone then (x.src, x.seq) :: k.rings.refusedMsgs else k.rings.refusedMsgs } }

theorem Die.lossLands_unreserved {d : Die} {c : CoreIx} {x : Loss}
    (unanswered : x.from_ = none → d.cores[c].rings.isAnswered x.src x.seq = false)
    (free : d.cores[c].rings.q[fin16 x.q].resv = []) :
    d.lossLands c x
      = ((d.modCore c (·.lossTold x)).fault (.rings c) qVoid (fin16 x.q).val).answer c x.from_ x.ho x.src x.job x.answer := by
  have lands : ¬(x.from_.isNone && d.cores[c].rings.isAnswered x.src x.seq) = true := by
    simpa using unanswered
  unfold Die.lossLands
  dsimp only
  rw [if_neg lands, free]
  dsimp only [List.find?_nil]
  cases h : x.from_ <;> simp [Core.lossTold, Loss.answer, h]

/-- A notice that is alone and due by now is taken, and its message answered. -/
theorem Die.lossNotices_lone {d : Die} {c : CoreIx} {x : Loss} (notice : d.cores[c].rings.losses = [x]) (due : x.due ≤ d.clock.clk)
    (unanswered : x.from_ = none → d.cores[c].rings.isAnswered x.src x.seq = false)
    (free : d.cores[c].rings.q[fin16 x.q].resv = []) :
    ∃ q e o n, Die.lossNotices c d
      = Die.answer { d.modCore c (·.lossTaken x) with evq := q, evLost := e, once := o, setNow := n }
          c x.from_ x.ho x.src x.job x.answer := by
  have dueNow : d.cores[c].rings.losses.filter (fun x => decide (x.due ≤ d.clock.clk)) = [x] := by rw [notice]; simp [due]
  have noLater : d.cores[c].rings.losses.filter (fun x => decide (d.clock.clk < x.due)) = [] := by rw [notice]; simp [due]
  let e := d.modCore c (fun k => { k with rings := { k.rings with losses := [] } })
  have taken : d.modCore c (fun k => { k with rings := { k.rings with
      losses := k.rings.losses.filter (fun x => decide (d.clock.clk < x.due)) } }) = e :=
    d.modCore_congr c _ _ (congrArg (fun l => { d.cores[c] with rings := { d.cores[c].rings with losses := l } }) noLater)
  have core : e.cores[c] = { d.cores[c] with rings := { d.cores[c].rings with losses := [] } } := d.modCore_same c _
  have lands : Die.lossNotices c d = e.lossLands c x := by
    unfold Die.lossNotices
    dsimp only
    rw [dueNow, taken]
    rfl
  obtain ⟨q, l, o, n, flagged⟩ := (e.modCore c (·.lossTold x)).fault_rings c qVoid (fin16 x.q).val
  refine ⟨q, l, o, n, ?_⟩
  rw [lands, Die.lossLands_unreserved (by rw [core]; exact unanswered) (by rw [core]; exact free), flagged,
    Die.modCore_modCore, Die.modCore_modCore]
  rfl

/-- LOSS_NOTICE of a message without a reservation, as the statement says it. -/
theorem lossNotice_unreserved {s : State} {a : CoreRef} {x : Loss} (runs : s.runs a.die = true)
    (notice : (s.core a).rings.losses = [x]) (due : x.due ≤ clockCycle s a)
    (unanswered : x.from_ = none → (s.core a).rings.isAnswered x.src x.seq = false)
    (free : ((s.core a).rings.q[x.q.toFin]).resv = []) :
    ∃ t, exec (.lossNotice a) s = .next t ∧ OnlyDie a.die s t ∧ (t.core a).rings.losses = []
      ∧ bit (t.core a).rings.fault 4 = true
      ∧ (t.core a).rings.arrive = (s.core a).rings.arrive.filter (fun y => !y.isOf x) ∧ SameScratch a s t
      ∧ (x.from_ = none → AnswersSend a x.q x.tag x.src x.seq 5 s t) := by
  obtain ⟨q, l, o, n, lands⟩ := Die.lossNotices_lone (d := s.dies[a.die]) notice due unanswered free
  let e : Die := { s.dies[a.die].modCore a.core (·.lossTaken x) with evq := q, evLost := l, once := o, setNow := n }
  have exec_eq : exec (.lossNotice a) s = .next (s.modDie a.die (fun _ => e.answer a.core x.from_ x.ho x.src x.job x.answer)) :=
    (onDie_runs _ runs).trans (congrArg Host.Outcome.next (s.modDie_congr a.die _ _ lands))
  have core : e.cores[a.core] = (s.core a).lossTaken x := s.dies[a.die].modCore_same a.core _
  obtain ⟨rings, scratch⟩ := e.answer_core a.core x.from_ x.ho x.src x.job x.answer a.core
  rw [core] at rings scratch
  refine ⟨_, exec_eq, onlyDie_modDie s a.die _, ?_⟩
  rw [SameScratch, State.modDie_core, rings, scratch]
  refine ⟨rfl, bit_setBit_same _ (by decide), rfl, fun _ => rfl, fun own => ?_⟩
  rw [own]
  exact answersSend_answer (e := e) rfl rfl rfl (s.dies[a.die].modCore_field a.core (·.rings.outs) (fun _ => rfl))
    (s.dies[a.die].modCore_field a.core (·.sync.incs) (fun _ => rfl)) (by decide) x.ho x.q x.tag x.src x.seq x.job

/-! ### Stores that are complete (R258, R262) -/

/-- A step of a counter that keeps within its depth raises S alone (R258). -/
theorem Counter.apply_one {x : Counter} (order : x.c.toNat ≤ x.s.toNat) (room : x.s.toNat + 1 ≤ x.c.toNat + x.depth.toNat)
    (top : x.s.toNat + 1 < 2 ^ 48) : x.apply 1 0 = { ctr := { x with s := BitVec.ofNat 48 (x.s.toNat + 1) }, kinds := [] } := by
  have sat : min (x.s.toNat + 1) maxCount = x.s.toNat + 1 := by unfold maxCount; omega
  have satC : min (x.c.toNat + 0) maxCount = x.c.toNat := by unfold maxCount; omega
  have noTop : (decide (maxCount < x.s.toNat + 1) || decide (maxCount < x.c.toNat + 0)) = false := by
    unfold maxCount
    simp only [Bool.or_eq_false_iff, decide_eq_false_iff_not]
    omega
  simp only [Counter.apply, sat, satC, noTop]
  rw [Nat.min_eq_left (by omega : x.c.toNat ≤ x.s.toNat + 1), Nat.min_eq_left (by omega : x.s.toNat + 1 ≤ x.c.toNat + x.depth.toNat),
    decide_eq_false (by omega), decide_eq_false (by omega)]
  simp

/-- The signal of a store that is complete in clock cycle clk. -/
def StoreTotal.inc (x : StoreTotal) (clk : Nat) (src : BitVec 23) : Inc :=
  { due := clk, sc := fin64 x.rsc, onC := false, amt := 1, rem := true, src := src, job := x.job, ans := none }

/-- A core whose one store is complete, with the signal on its way. -/
def Core.storeDone (k : Core) (i : Inc) : Core :=
  { k with vault := { k.vault with tally := [] }, sync := { k.sync with incs := k.sync.incs ++ [i] } }

theorem Die.storesDone_lone {d : Die} {c : CoreIx} {y : Tally} {x : StoreTotal} (tally : d.cores[c].vault.tally = [y])
    (total : y.total = some x) (all : x.total ≤ y.written) (due : x.due ≤ d.clock.clk) :
    d.storesDone c = d.modCore c (·.storeDone (x.inc d.clock.clk y.src)) := by
  have ready : y.ready d.clock.clk = true := by simp [Tally.ready, total, all, due]
  have now_ : d.cores[c].vault.tally.filter (·.ready d.clock.clk) = [y] := by rw [tally]; simp [ready]
  have later : d.cores[c].vault.tally.filter (fun y => !y.ready d.clock.clk) = [] := by rw [tally]; simp [ready]
  unfold Die.storesDone
  dsimp only
  rw [now_]
  refine d.modCore_congr c _ _ ?_
  rw [later]
  simp [Core.storeDone, Tally.signal, total, StoreTotal.inc]

/-- A core on whose counter a lone increment of S has landed. -/
def Core.counted (k : Core) (sc : Fin 64) : Core :=
  { k with sync := { k.sync with
      incs := [], ctr := vupd k.sync.ctr sc (fun x => { x with s := BitVec.ofNat 48 (x.s.toNat + 1) }) } }

/-- A lone increment of one that is due lands, where its die takes it and its counter has room. -/
theorem Die.landIncs_lone {d : Die} {c : CoreIx} {i : Inc} (lone : d.cores[c].sync.incs = [i]) (due : i.due ≤ d.clock.clk)
    (own : d.foreign i = false) (one : i.onC = false ∧ i.amt = 1 ∧ i.ans = none)
    (decl : d.cores[c].sync.ctr[i.sc].decl = true)
    (applied : d.cores[c].sync.ctr[i.sc].apply 1 0
      = { ctr := { d.cores[c].sync.ctr[i.sc] with s := BitVec.ofNat 48 (d.cores[c].sync.ctr[i.sc].s.toNat + 1) }, kinds := [] }) :
    d.landIncs c = d.modCore c (·.counted i.sc) := by
  obtain ⟨onS, amount, plain⟩ := one
  have counter : d.dueCounters c = [i.sc] := by
    rw [Die.dueCounters, lone]
    simp [due]
    rfl
  have dueNow : d.cores[c].sync.incs.filter (fun j => decide (j.sc = i.sc) && decide (j.due ≤ d.clock.clk)) = [i] := by
    rw [lone]
    simp [due]
  have later : d.cores[c].sync.incs.filter (fun j => !(decide (j.sc = i.sc) && decide (j.due ≤ d.clock.clk))) = [] := by
    rw [lone]
    simp [due]
  have sums : amounts [i] false = 1 ∧ amounts [i] true = 0 := by simp [amounts, onS, amount]
  rw [Die.landIncs, counter]
  show d.landCounter c i.sc = _
  unfold Die.landCounter
  dsimp only
  rw [dueNow]
  simp only [List.filter_cons, List.filter_nil, own, List.filterMap_cons, List.filterMap_nil, plain, List.foldl_nil, List.isEmpty_nil,
    sums, Bool.not_false, Bool.not_true, if_true, Bool.false_and, Bool.false_eq_true, if_false, List.isEmpty_cons]
  have ctr : (d.modCore c (fun k => { k with sync := { k.sync with
      incs := k.sync.incs.filter (fun j => !(decide (j.sc = i.sc) && decide (j.due ≤ d.clock.clk))) } })).cores[c].sync.ctr
      = d.cores[c].sync.ctr := d.modCore_field c (·.sync.ctr) (by exact fun _ => rfl) c
  simp only [ctr]
  rw [if_pos decl, applied, List.foldl_nil, Die.modCore_modCore]
  refine d.modCore_congr c _ _ ?_
  rw [later]
  rfl

/-- STORE_COMPLETION of a lone store whose sectors are all written, as the statement says it. -/
theorem storeCompletion_lone {s : State} {a : CoreRef} {y : Tally} {x : StoreTotal} {p : Loaded} (runs : s.runs a.die = true)
    (tally : (s.core a).vault.tally = [y]) (total : y.total = some x) (all : x.total ≤ y.written) (due : x.due ≤ clockCycle s a)
    (quiet : (s.core a).sync.incs = []) (decl : (s.core a).sync.ctr[fin64 x.rsc].decl = true)
    (plan : s.dies[a.die].plan = some p) (job : p.job = x.job) (clear : s.dies[a.die].pow.clearing = false)
    (order : (s.core a).sync.ctr[fin64 x.rsc].c.toNat ≤ (s.core a).sync.ctr[fin64 x.rsc].s.toNat)
    (room : (s.core a).sync.ctr[fin64 x.rsc].s.toNat + 1
      ≤ (s.core a).sync.ctr[fin64 x.rsc].c.toNat + (s.core a).sync.ctr[fin64 x.rsc].depth.toNat)
    (top : (s.core a).sync.ctr[fin64 x.rsc].s.toNat + 1 < 2 ^ 48) :
    ∃ t, exec (.storeCompletion a) s = .next t ∧ OnlyCore a s t ∧ (t.core a).vault.tally = [] ∧ (t.core a).sync.incs = []
      ∧ (t.core a).sync.ctr[fin64 x.rsc].s.toNat = (s.core a).sync.ctr[fin64 x.rsc].s.toNat + 1
      ∧ (t.core a).sync.ctr[fin64 x.rsc].c = (s.core a).sync.ctr[fin64 x.rsc].c := by
  let d := s.dies[a.die]
  let i := x.inc d.clock.clk y.src
  have core : (d.modCore a.core (·.storeDone i)).cores[a.core] = (s.core a).storeDone i := d.modCore_same a.core _
  have landed : (d.storesDone a.core).landIncs a.core = d.modCore a.core (fun k => (k.storeDone i).counted i.sc) := by
    rw [Die.storesDone_lone tally total all due, Die.landIncs_lone (i := i), Die.modCore_modCore]
    · rw [core]
      exact congrArg (· ++ [i]) quiet
    · exact Nat.le_refl _
    · show d.foreign i = false
      simp [Die.foreign, show d.plan = some p from plan, show d.pow.clearing = false from clear, i, StoreTotal.inc, job]
    · exact ⟨rfl, rfl, rfl⟩
    · rw [core]
      exact decl
    · rw [core]
      exact Counter.apply_one order room top
  refine ⟨_, onDie_core runs landed, onlyCore_modCore s a _, ?_⟩
  rw [State.modCore_same]
  have ctr : (((s.core a).storeDone i).counted i.sc).sync.ctr[fin64 x.rsc]
      = { (s.core a).sync.ctr[fin64 x.rsc] with s := BitVec.ofNat 48 ((s.core a).sync.ctr[fin64 x.rsc].s.toNat + 1) } :=
    vupd_get_same _ (fin64 x.rsc) _ _
  rw [ctr]
  exact ⟨rfl, rfl, Nat.mod_eq_of_lt top, rfl⟩

/-! ### Remote sectors (R200, R229) -/

theorem NatSet.has_add (s : NatSet) (x : Nat) : (s.add x).has x = true := by
  induction s with
  | nil => simp [NatSet.add, NatSet.has]
  | cons y s ih =>
    unfold NatSet.add
    simp only [NatSet.has, List.contains_eq_mem] at ih ⊢
    split
    · simp
    · split
      case isTrue e => simp [e]
      case isFalse => simp [ih]

theorem NatSet.has_del (s : NatSet) (x : Nat) : (s.del x).has x = false := by simp [NatSet.del, NatSet.has]

theorem Vault.tags_writeSector (v : Vault) (sector : Nat) (data : Bytes) (pz : Bool) :
    (v.writeSector sector data pz).tags.has sector = pz := by
  cases pz
  · exact NatSet.has_del v.tags sector
  · exact NatSet.has_add v.tags sector

/-- A sector's write leaves every byte of the other sectors. -/
theorem Vault.get_writeSector_other {v : Vault} {sector : Nat} {data : Bytes} (pz : Bool) (wf : v.mem.wf = true)
    (size : data.length = 64) {x : Nat} (other : x / 64 ≠ sector) :
    (v.writeSector sector data pz).mem.get x = v.mem.get x := by
  refine (Cells.get_setN data v.mem (64 * sector) x wf).trans (if_neg ?_)
  omega

/-- A core whose one write is that of a remote sector, with the sector written and tallied; a correction that waits for it goes
(R229, R242, R262). -/
def Core.remoteWritten (k : Core) (w : DramWrite) : Core :=
  { k with vault := { k.vault.writeSector w.sector w.data w.pz with
      writes := []
      chans := vupd k.vault.chans (chanOf w.sector) (fun x => { x with wb := x.wb.filter (fun q => q.1 ≠ w.sector) })
      tally := addTally w.src w.tag k.vault.tally } }

theorem Core.landWrites_lone {k : Core} {w : DramWrite} (writes : k.vault.writes = [w]) (remote : w.onClk = true) {clk : Nat}
    (due : w.due ≤ clk) (t : Option Nat) :
    k.landWrites t clk = k.remoteWritten w := by
  have isDue : w.isDue t clk = true := by simp [DramWrite.isDue, remote, due]
  unfold Core.landWrites
  dsimp only
  rw [writes]
  simp only [List.filter_cons, List.filter_nil, isDue, Bool.not_true, Bool.false_eq_true, if_true, if_false, List.foldl_cons,
    List.foldl_nil, remote]
  rfl

/-- REMOTE_ARRIVAL_WRITE of a lone sector that is due, as the statement says it. -/
theorem remoteArrivalWrite_lone {s : State} {a : CoreRef} {w : DramWrite} (runs : s.runs a.die = true)
    (none_ : (s.core a).vault.remote = []) (writes : (s.core a).vault.writes = [w]) (remote : w.onClk = true)
    (due : w.due ≤ clockCycle s a) (wf : Cells.wf (s.core a).vault.mem = true) (size : w.data.length = 64) :
    ∃ t, exec (.remoteArrivalWrite a) s = .next t ∧ OnlyCore a s t ∧ (t.core a).vault.writes = []
      ∧ (t.core a).vault.readSector w.sector = w.data ∧ (t.core a).vault.tags.has w.sector = w.pz
      ∧ ∀ x : Nat, x / 64 ≠ w.sector → Cells.get (t.core a).vault.mem x = Cells.get (s.core a).vault.mem x := by
  let d := s.dies[a.die]
  have landed : (s.core a).landWrites d.runNow d.clock.clk = (s.core a).remoteWritten w :=
    Core.landWrites_lone writes remote due d.runNow
  have arrives : Die.remoteArrival a.core d = d.modCore a.core (fun k => k.landWrites d.runNow d.clock.clk) := by
    unfold Die.remoteArrival
    rw [show d.cores[a.core].vault.remote = [] from none_]
    rfl
  refine ⟨_, onDie_core runs arrives, onlyCore_modCore s a _, ?_⟩
  rw [State.modCore_same, landed]
  exact ⟨rfl, Vault.readSector_writeSector _ _ _ w.pz wf size, Vault.tags_writeSector _ _ w.data _,
    fun x other => Vault.get_writeSector_other w.pz wf size other⟩

/-! ### Store segments that close (R322) -/

/-- A segment that closes leaves the router, and no core is touched. -/
theorem Die.closeSegment_parts (d : Die) (g : Segment) :
    (d.closeSegment g).router.segs = d.router.segs.filter (fun x => !(x.core = g.core && x.dtag = g.dtag))
      ∧ (d.closeSegment g).cores = d.cores := by
  unfold Die.closeSegment
  extract_lets r e
  split
  · exact ⟨rfl, rfl⟩
  · split
    · exact ⟨rfl, rfl⟩
    · obtain ⟨q, l, o, n, flagged⟩ := e.fault_router rtUnreach
      rw [flagged]
      exact ⟨rfl, rfl⟩

/-- Settles O32: a lost message, a store that is complete, a remote sector, and a segment that is not yet idle and one that is. -/
theorem remoteWorkLands : Obligations.RemoteWorkLands := by
  unfold Obligations.RemoteWorkLands
  intro s a runs k
  refine ⟨fun x notice due unanswered free => lossNotice_unreserved runs notice due unanswered free,
    fun y x tally total all due quiet decl ⟨p, plan, job⟩ clear order room top =>
      storeCompletion_lone runs tally total all due quiet decl plan job clear order room top,
    fun w none_ writes remote due wf size => remoteArrivalWrite_lone runs none_ writes remote due wf size,
    fun busy => ?open_, fun g only mine idle => ?close⟩
  case open_ =>
    have stays : s.dies[a.die].router.segs.filter (fun g => g.core = a.core && decide (g.idleAt ≤ s.dies[a.die].clock.clk)) = [] := by
      simpa [List.filter_eq_nil_iff, clockCycle] using busy
    refine (onDie_runs _ runs).trans (congrArg Host.Outcome.next (s.modDie_self a.die _ ?_))
    rw [Die.segmentClose, stays]
    rfl
  case close =>
    have closes : Die.segmentClose a.core s.dies[a.die] = s.dies[a.die].closeSegment g := by
      have due : s.dies[a.die].router.segs.filter (fun g => g.core = a.core && decide (g.idleAt ≤ s.dies[a.die].clock.clk)) = [g] := by
        rw [only]
        simpa [mine, clockCycle] using idle
      rw [Die.segmentClose, due]
      rfl
    obtain ⟨segs, cores⟩ := s.dies[a.die].closeSegment_parts g
    refine ⟨_, onDie_runs _ runs, onlyDie_modDie s a.die _, ?_⟩
    rw [State.modDie_die, closes, segs, cores, only]
    exact ⟨by simp, rfl⟩

end Sys2Proof.Machine

/-! # Watchdogs abort (O34)

An abort is followed on a view of the die: its frame, its holds, what its end would bring, and the work of each core. A discarding
step changes the view of one core; the notices and answers that the cut sends bring leave the view alone. -/

namespace Sys2Proof.Machine

/-! ### The view of a die -/

/-- What an abort ends in a core, and the registers, the scratchpad and the wait capture. -/
structure Work where
  ended   : Bool
  checked : List Checked
  s       : Vector U32 16
  waits   : List Waiting
  wcap    : WaitCapture
  sends   : List Send
  passes  : List Pass
  front   : Option Tile
  scratch : Mem
  places  : Fin 6 → List Desc

def Core.work (k : Core) : Work :=
  ⟨k.ctl.ended, k.ctl.checked, k.ctl.s, k.sync.waits, k.sync.wcap, k.rings.sends, k.mtx.passes, k.mtx.front, k.scratch,
    fun u => k.st[u].places⟩

theorem Core.work_withSt (k : Core) (st : Vector Stream 6) :
    ({ k with st := st } : Core).work = { k.work with places := fun u => st[u].places } := rfl

/-- A core whose work is discarded. -/
def Work.discarded (w : Work) : Work :=
  { w with ended := true, checked := [], waits := [], sends := [], passes := [], front := none, places := fun _ => [] }

/-- The frame and the holds of a die, what the end of its frame is to bring, and the work of its cores. -/
structure FrameView where
  frm    : Frames
  hold   : Holds
  unload : Bool
  pow    : DiePower
  works  : CoreIx → Work

def Die.view (d : Die) : FrameView := ⟨d.frm, d.hold, d.unloadAtEnd, d.pow, fun c => d.cores[c].work⟩

/-- A change of the work of one core. -/
def FrameView.mod (v : FrameView) (c : CoreIx) (g : Work → Work) : FrameView :=
  { v with works := Function.update v.works c (g (v.works c)) }

theorem FrameView.mod_mod (v : FrameView) (c : CoreIx) (g h : Work → Work) : (v.mod c g).mod c h = v.mod c (fun w => h (g w)) := by
  simp [FrameView.mod]

theorem Die.view_modCore (d : Die) (c : CoreIx) {f : Core → Core} (g : Work → Work) (h : ∀ k, (f k).work = g k.work) :
    (d.modCore c f).view = d.view.mod c g := by
  have works : (fun x : CoreIx => (d.modCore c f).cores[x].work) = Function.update d.view.works c (g (d.view.works c)) := by
    funext x
    by_cases e : x = c
    · subst e
      rw [Function.update_self]
      exact (congrArg Core.work (d.modCore_same x f)).trans (h _)
    · rw [Function.update_of_ne e, d.modCore_other c x f e]
      rfl
  exact congrArg (FrameView.mk d.frm d.hold d.unloadAtEnd d.pow) works

/-- A change of a core that leaves its work leaves the view. -/
theorem Die.view_modCore_kept (d : Die) (c : CoreIx) {f : Core → Core} (h : ∀ k, (f k).work = k.work) :
    (d.modCore c f).view = d.view :=
  (d.view_modCore c id h).trans (by simp [FrameView.mod])

theorem Die.view_foldl {α : Type} {f : Die → α → Die} (h : ∀ d a, (f d a).view = d.view) (l : List α) (d : Die) :
    (l.foldl f d).view = d.view := by
  induction l generalizing d with
  | nil => rfl
  | cons a l ih => exact (ih (f d a)).trans (h d a)

/-! ### What leaves the view -/

/-- A fault of a die changes the view as the fault bit does. -/
theorem Die.view_fault (d : Die) (u : DieUnit) (b : FBit) : (d.fault u b).view = (d.modFault (fun w => setBit w b.bit) u).view := by
  have h := congrArg Die.view (d.fault_only u b 0)
  exact h

theorem Die.view_faultStream (d : Die) (c : CoreIx) (u : Fin 6) (b : FBit) : (d.fault (.stream c u) b).view = d.view := by
  rw [Die.view_fault]
  refine d.view_modCore_kept c (fun k => ?_)
  have places : (fun x : Fin 6 => (vupd k.st u (fun y => { y with fault := setBit y.fault b.bit }))[x].places)
      = fun x => k.st[x].places := by
    funext x
    rw [vupd_get]
    split
    case isTrue e => rw [e]
    case isFalse => rfl
  rw [Core.work_withSt, places]
  rfl

theorem Die.view_answerOwn (d : Die) (c by_ : CoreIx) (a : Answer) (due : Nat) : (d.answerOwn c by_ a due).view = d.view := by
  unfold Die.answerOwn
  split
  · exact d.view_modCore_kept c (fun _ => rfl)
  · rfl

theorem Die.view_sendLoss (d : Die) (src dst : CoreIx) (m : MsgIn) : (d.sendLoss src dst m).view = d.view := by
  unfold Die.sendLoss
  split
  · rfl
  · exact Die.view_modCore_kept _ dst (fun _ => rfl)

/-- A send that is cut is told to its destination, or answered: it is no core's work (R285, R291). -/
theorem Die.view_cutSend (d : Die) (c : CoreIx) (x : Send) : (d.cutSend c x).view = d.view := by
  unfold Die.cutSend
  extract_lets h m
  split
  · exact d.view_sendLoss ..
  · exact d.view_sendLoss ..
  case h_3 rest _ e _ _ =>
    have cut : e.view = d.view := rfl
    split
    · exact (e.view_answerOwn ..).trans cut
    · split
      · exact cut
      · exact (Die.view_fault _ .router _).trans ((e.view_answerOwn ..).trans cut)

/-! ### What an abort discards in one core -/

theorem Die.view_abortMtx (d : Die) (c : CoreIx) :
    (d.abortMtx c).view = d.view.mod c (fun w => { w with passes := [], front := none }) := by
  unfold Die.abortMtx
  exact Die.view_modCore { d with draws := _ } c _ (fun _ => rfl)

theorem Die.view_abortCtl (d : Die) (c : CoreIx) :
    (d.modCore c (fun k => k.abortVec.abortCtl)).view = d.view.mod c (fun w => { w with ended := true, checked := [] }) :=
  d.view_modCore c _ (fun _ => rfl)

/-- One stream unit of a core loses the descriptors that it holds. -/
def Die.dropPlaces (d : Die) (c : CoreIx) (u : Fin 6) : Die :=
  if d.cores[c].st[u].places.isEmpty then d
  else (d.fault (.stream c u) abortDrop).modCore c (fun k => { k with st := vupd k.st u (fun x => { x with places := [] }) })

theorem Die.view_dropPlaces (d : Die) (c : CoreIx) (u : Fin 6) :
    (d.dropPlaces c u).view = d.view.mod c (fun w => { w with places := Function.update w.places u [] }) := by
  unfold Die.dropPlaces
  split
  case isTrue h =>
    have same : Function.update (d.view.works c).places u [] = (d.view.works c).places :=
      Function.update_eq_self_iff.2 (List.isEmpty_iff.1 h).symm
    simp [FrameView.mod, same]
  case isFalse =>
    rw [← d.view_faultStream c u abortDrop]
    refine Die.view_modCore _ c _ (fun k => ?_)
    have places : (fun x : Fin 6 => (vupd k.st u (fun y => { y with places := [] }))[x].places)
        = Function.update (fun x => k.st[x].places) u [] := by
      funext x
      rw [vupd_get]
      by_cases e : x = u <;> simp [e]
    rw [Core.work_withSt, places]
    rfl

theorem Die.view_dropAll (d : Die) (c : CoreIx) (l : List (Fin 6)) :
    (l.foldl (fun d u => d.dropPlaces c u) d).view
      = d.view.mod c (fun w => { w with places := fun u => if u ∈ l then [] else w.places u }) := by
  induction l generalizing d with
  | nil => simp [FrameView.mod]
  | cons u l ih =>
    rw [List.foldl_cons, ih, Die.view_dropPlaces, FrameView.mod_mod]
    congr 1
    funext w
    congr 1
    funext x
    by_cases e : x = u <;> simp [e]

theorem Die.view_abortStreams (d : Die) (c : CoreIx) :
    (d.abortStreams c).view = d.view.mod c (fun w => { w with places := fun _ => [] }) := by
  unfold Die.abortStreams
  extract_lets e
  have dropped : e.view = _ := d.view_dropAll c (List.finRange 6)
  clear_value e
  refine Eq.trans (e.view_modCore_kept c ?_) (dropped.trans ?_)
  · exact fun _ => rfl
  · simp

theorem Die.view_abortSends (d : Die) (c : CoreIx) : (d.abortSends c).view = d.view.mod c (fun w => { w with sends := [] }) := by
  unfold Die.abortSends
  extract_lets xs gone e
  have cut : e.view = d.view := Die.view_foldl (fun d x => d.view_cutSend c x) _ d
  rw [← cut]
  exact e.view_modCore c _ (fun _ => rfl)

theorem Die.view_abortCore (d : Die) (c : CoreIx) : (d.abortCore c).view = d.view.mod c Work.discarded := by
  unfold Die.abortCore
  extract_lets e f
  have waits : ∀ g : Die, (g.modCore c (fun k => { k with sync := { k.sync with waits := [] } })).view
      = g.view.mod c (fun w => { w with waits := [] }) := fun g => g.view_modCore c _ (fun _ => rfl)
  rw [waits, Die.view_abortSends, Die.view_abortStreams, Die.view_abortCtl, Die.view_abortMtx]
  simp only [FrameView.mod_mod]
  rfl

/-- Every core of a die discards its work. -/
theorem Die.view_abortCores (d : Die) :
    (d.forCores Die.abortCore).view = { d.view with works := fun c => (d.view.works c).discarded } := by
  have some_ : ∀ (l : List CoreIx) (d : Die), (l.foldl Die.abortCore d).view
      = { d.view with works := fun c => if c ∈ l then (d.view.works c).discarded else d.view.works c } := by
    intro l
    induction l with
    | nil => intro d; simp
    | cons c l ih =>
      intro d
      rw [List.foldl_cons, ih, d.view_abortCore]
      simp only [FrameView.mod]
      congr 1
      funext x
      by_cases e : x = c
      · subst e
        simp [Work.discarded]
      · simp [e]
  exact (some_ (List.finRange 32) d).trans (by simp)

/-! ### The end of an aborted frame (R206, R233) -/

/-- From d to e no more than bits of the schedule's fault word are set. -/
def FlagsHold (d e : Die) : Prop :=
  ∃ w, e.view = { d.view with hold := { d.hold with fault := w } } ∧ ∀ n, bit d.hold.fault n = true → bit w n = true

theorem FlagsHold.refl (d : Die) : FlagsHold d d := ⟨_, rfl, fun _ h => h⟩

theorem Die.view_faultSched (d : Die) (b : FBit) :
    (d.fault .sched b).view = { d.view with hold := { d.view.hold with fault := setBit d.view.hold.fault b.bit } } :=
  d.view_fault .sched b

theorem flagsHold_fault (d : Die) (b : FBit) : FlagsHold d (d.fault .sched b) :=
  ⟨_, d.view_faultSched b, fun _ h => bit_setBit_of_bit b.bit h⟩

theorem FlagsHold.trans {d e f : Die} (h : FlagsHold d e) (g : FlagsHold e f) : FlagsHold d f := by
  obtain ⟨w, hw, hb⟩ := h
  obtain ⟨x, gx, gb⟩ := g
  have hold : e.hold = { d.hold with fault := w } := congrArg FrameView.hold hw
  rw [hw, hold] at gx
  rw [hold] at gb
  exact ⟨x, gx, fun n h => gb n (hb n h)⟩

theorem flagsHold_frameChecks (d : Die) : FlagsHold d d.frameChecks := by
  have check : ∀ (e : Die) (p : Prop) [Decidable p] (b : FBit), FlagsHold e (if p then e.fault .sched b else e) := by
    intro e p _ b
    split
    · exact flagsHold_fault e b
    · exact .refl e
  unfold Die.frameChecks
  split
  · exact .refl d
  · exact (check d _ _).trans (check _ _ _)

/-- The tick before which no round is run after the end of a frame (R245). -/
def Die.preDoneAtEnd (d : Die) : Option Nat :=
  if d.beforeTick && !d.frm.fallen.isEmpty then some d.frm.nextTick else d.frm.preDone

/-- The frame of a die that no plan's end and no pass-through await ends with its holds, after the checks of its length. -/
theorem Die.frameEnd_eq {d : Die} (now : Nat) (hu : d.frameChecks.unloadAtEnd = false) (hp : d.frameChecks.pow.passAtEnd = false) :
    d.frameEnd now = { d.frameChecks with
      frm := { d.frameChecks.frm with frun := false, preDone := d.frameChecks.preDoneAtEnd }
      hold := { d.frameChecks.hold with reqs := [], timed := [], conflict := 0, run := 0, held := false } } := by
  unfold Die.frameEnd
  dsimp only
  rw [hu, if_neg Bool.false_ne_true]
  dsimp only
  rw [hp, if_neg Bool.false_ne_true]
  rfl

theorem Die.view_frameEnd {d : Die} (now : Nat) (hu : d.unloadAtEnd = false) (hp : d.pow.passAtEnd = false) :
    ∃ w pre, (d.frameEnd now).view = { d.view with
        frm := { d.frm with frun := false, preDone := pre }
        hold := { d.hold with reqs := [], timed := [], conflict := 0, run := 0, held := false, fault := w } }
      ∧ ∀ n, bit d.hold.fault n = true → bit w n = true := by
  obtain ⟨w, hv, hb⟩ := flagsHold_frameChecks d
  have ended := d.frameEnd_eq now ((congrArg FrameView.unload hv).trans hu) ((congrArg (·.pow.passAtEnd) hv).trans hp)
  refine ⟨w, d.frameChecks.preDoneAtEnd, ?_, hb⟩
  have part := congrArg (fun v : FrameView => { v with
    frm := { v.frm with frun := false, preDone := d.frameChecks.preDoneAtEnd }
    hold := { v.hold with reqs := [], timed := [], conflict := 0, run := 0, held := false } }) hv
  rw [ended]
  exact part

/-- A die whose holds and whose cores' work are discarded and whose frame is marked invalid. -/
def Die.abortFrame (d : Die) : Die :=
  (Die.forCores { d with hold := { d.hold with reqs := [], timed := [], conflict := 0 } } Die.abortCore).markInvalid

theorem Die.abort_eq (d : Die) (now : Nat) (b : FBit) : d.abort now b = (d.abortFrame.fault .sched b).frameEnd now := rfl

theorem Die.view_markInvalid (d : Die) : d.markInvalid.view = { d.view with frm := d.markInvalid.frm } := by
  unfold Die.markInvalid
  split <;> rfl

theorem Die.markInvalid_frm_congr {d e : Die} (h : e.frm = d.frm) : e.markInvalid.frm = d.markInvalid.frm := by
  unfold Die.markInvalid
  rw [h]
  split
  · exact h
  · rfl

/-- A frame marked invalid is named and counted (R208). -/
theorem Die.markInvalid_frm {d : Die} (h : d.frm.invThis = false) :
    d.markInvalid.frm.invFrame = d.frm.fnum ∧ d.markInvalid.frm.invAny = true
      ∧ d.markInvalid.frm.invCnt = satAdd d.frm.invCnt 1 := by
  simp [Die.markInvalid, h]

theorem Die.view_abortFrame (d : Die) : d.abortFrame.view = { d.view with
    frm := d.markInvalid.frm
    hold := { d.hold with reqs := [], timed := [], conflict := 0 }
    works := fun c => (d.view.works c).discarded } := by
  have gone := Die.view_abortCores { d with hold := { d.hold with reqs := [], timed := [], conflict := 0 } }
  unfold Die.abortFrame
  generalize Die.forCores _ Die.abortCore = e at gone
  have frm : e.frm = d.frm := congrArg FrameView.frm gone
  rw [e.view_markInvalid, Die.markInvalid_frm_congr frm, gone]
  rfl

/-- An abort ends the frame of a die that runs on: its cores' work is discarded, its holds are gone, it is marked invalid, and
the watchdog's bit is set. -/
theorem Die.view_abort {d : Die} (now : Nat) (b : FBit) (hb : b.bit < 64) (hu : d.unloadAtEnd = false)
    (hp : d.pow.passAtEnd = false) :
    ∃ w pre, (d.abort now b).view = { d.view with
        frm := { d.markInvalid.frm with frun := false, preDone := pre }
        hold := { d.hold with reqs := [], timed := [], conflict := 0, run := 0, held := false, fault := w }
        works := fun c => (d.view.works c).discarded }
      ∧ bit w b.bit = true := by
  have flagged := d.abortFrame.view_faultSched b
  rw [d.view_abortFrame] at flagged
  rw [Die.abort_eq]
  generalize d.abortFrame.fault .sched b = e at flagged
  obtain ⟨w, pre, ended, kept⟩ := Die.view_frameEnd (d := e) now ((congrArg FrameView.unload flagged).trans hu)
    ((congrArg (·.pow.passAtEnd) flagged).trans hp)
  have frm : e.frm = d.markInvalid.frm := congrArg FrameView.frm flagged
  have hold : e.hold = { d.hold with reqs := [], timed := [], conflict := 0, fault := setBit d.hold.fault b.bit } :=
    congrArg FrameView.hold flagged
  refine ⟨w, pre, ?_, kept _ ?_⟩
  · rw [ended, flagged, frm, hold]
  · rw [hold]
    exact bit_setBit_same _ hb

/-! ### The waits that the hold watchdog captures (R269) -/

/-- A core whose held word waits, with the wait captured. -/
def Core.captured (pcyc : Int) (frame : BitVec 16) (k : Core) : Core :=
  match k.sync.waits.find? (fun w => w.due = pcyc) with
  | none => k
  | some w => { k with sync := { k.sync with wcap := k.waitCapture frame w } }

theorem Core.captured_none {k : Core} {pcyc : Int} {frame : BitVec 16} (h : ∀ w ∈ k.sync.waits, w.due ≠ pcyc) :
    k.captured pcyc frame = k := by
  have none_ : k.sync.waits.find? (fun w => w.due = pcyc) = none := by simpa using h
  rw [Core.captured, none_]

theorem Core.captured_some {k : Core} {pcyc : Int} {frame : BitVec 16} {w : Waiting}
    (h : k.sync.waits.find? (fun w => w.due = pcyc) = some w) :
    k.captured pcyc frame = { k with sync := { k.sync with wcap := k.waitCapture frame w } } := by
  rw [Core.captured, h]

/-- A core captured keeps its work but for the capture. -/
theorem Core.captured_work (k : Core) (pcyc : Int) (frame : BitVec 16) :
    (k.captured pcyc frame).work = { k.work with wcap := (k.captured pcyc frame).sync.wcap } := by
  unfold Core.captured
  split <;> rfl

theorem Core.captured_captured (k : Core) (pcyc : Int) (frame : BitVec 16) :
    (k.captured pcyc frame).captured pcyc frame = k.captured pcyc frame := by
  cases h : k.sync.waits.find? (fun w => w.due = pcyc) with
  | none =>
    have same : k.captured pcyc frame = k := by rw [Core.captured, h]
    rw [same, same]
  | some w =>
    rw [Core.captured_some h]
    exact Core.captured_some (k := { k with sync := { k.sync with wcap := k.waitCapture frame w } }) h

theorem Die.captureWait_eq (d : Die) (c : CoreIx) :
    ∃ q e, d.captureWait c = { d.modCore c (·.captured d.clock.pcyc d.frame16) with evq := q, evLost := e } := by
  unfold Die.captureWait
  split
  next h =>
    refine ⟨d.evq, d.evLost, ?_⟩
    rw [d.modCore_self c _ (by rw [Core.captured, h])]
  next w h =>
    extract_lets x
    have same : d.modCore c (fun k => { k with sync := { k.sync with wcap := x } }) = d.modCore c (·.captured d.clock.pcyc d.frame16) :=
      d.modCore_congr c _ _ (Core.captured_some h).symm
    rw [same]
    unfold Die.event Die.enqueue
    dsimp only
    split <;> exact ⟨_, _, rfl⟩

/-- The captures of all cores change the cores so captured, and what records them. -/
theorem Die.captureWaits_eq (d : Die) :
    ∃ cs q e, d.forCores Die.captureWait = { d with cores := cs, evq := q, evLost := e }
      ∧ ∀ x : CoreIx, cs[x] = d.cores[x].captured d.clock.pcyc d.frame16 := by
  have some_ : ∀ (l : List CoreIx) (d : Die), ∃ cs q e, l.foldl Die.captureWait d = { d with cores := cs, evq := q, evLost := e }
      ∧ ∀ x : CoreIx, cs[x] = if x ∈ l then d.cores[x].captured d.clock.pcyc d.frame16 else d.cores[x] := by
    intro l
    induction l with
    | nil => exact fun d => ⟨d.cores, d.evq, d.evLost, rfl, fun x => (if_neg List.not_mem_nil).symm⟩
    | cons c l ih =>
      intro d
      obtain ⟨q, e, first⟩ := d.captureWait_eq c
      obtain ⟨cs, q', e', rest, cores⟩ := ih (d.captureWait c)
      refine ⟨cs, q', e', ?_, fun x => (cores x).trans ?_⟩
      · rw [List.foldl_cons, rest, first]
        rfl
      · rw [first]
        show (if x ∈ l then ((d.modCore c _).cores[x]).captured d.clock.pcyc d.frame16 else (d.modCore c _).cores[x]) = _
        by_cases e : x = c
        · subst e
          rw [show (d.modCore x _).cores[x] = _ from d.modCore_same x _, if_pos List.mem_cons_self, Core.captured_captured, ite_self]
          rfl
        · rw [d.modCore_other c x _ e]
          simp [e]
  obtain ⟨cs, q, e, h, cores⟩ := some_ (List.finRange 32) d
  exact ⟨cs, q, e, h, fun x => (cores x).trans (if_pos (List.mem_finRange x))⟩

/-! ### The statement -/

section
variable {s : State} {n : DieIx}

/-- What an abort of a die's frame by the watchdog of bit b leaves, as the statement says it. -/
def Aborted (s : State) (n : DieIx) (b : Nat) (t : State) : Prop :=
  let d := s.dies[n]
  OnlyDie n s t ∧ t.dies[n].frm.frun = false ∧ t.dies[n].hold.reqs = [] ∧ t.dies[n].hold.timed = []
    ∧ bit t.dies[n].hold.fault b = true
    ∧ (d.frm.invThis = false → t.dies[n].frm.invFrame = d.frm.fnum ∧ t.dies[n].frm.invAny = true
        ∧ t.dies[n].frm.invCnt = satAdd d.frm.invCnt 1)
    ∧ ∀ c : CoreIx, (t.dies[n].cores[c]).ctl.ended = true ∧ (t.dies[n].cores[c]).ctl.checked = []
        ∧ (t.dies[n].cores[c]).ctl.s = d.cores[c].ctl.s ∧ (t.dies[n].cores[c]).sync.waits = []
        ∧ (t.dies[n].cores[c]).rings.sends = [] ∧ (t.dies[n].cores[c]).mtx.passes = []
        ∧ (t.dies[n].cores[c]).mtx.front = none ∧ (t.dies[n].cores[c]).scratch = d.cores[c].scratch
        ∧ ∀ u : Fin 6, ((t.dies[n].cores[c]).st[u]).places = []

/-- The work of a core of an aborted die, read from the core. -/
theorem work_discarded {k : Core} {w : Work} (h : k.work = w.discarded) :
    k.ctl.ended = true ∧ k.ctl.checked = [] ∧ k.ctl.s = w.s ∧ k.sync.waits = [] ∧ k.rings.sends = [] ∧ k.mtx.passes = []
      ∧ k.mtx.front = none ∧ k.scratch = w.scratch ∧ ∀ u : Fin 6, (k.st[u]).places = [] :=
  ⟨congrArg Work.ended h, congrArg Work.checked h, congrArg Work.s h, congrArg Work.waits h, congrArg Work.sends h,
    congrArg Work.passes h, congrArg Work.front h, congrArg Work.scratch h, fun u => congrArg (fun w : Work => w.places u) h⟩

/-- A die e that stands as die n does, but for captures and records, is aborted as die n is; its captures stay. -/
theorem aborted_of_abort {e : Die} {b : FBit} (now : Nat) (hb : b.bit < 64) (hu : s.dies[n].unloadAtEnd = false)
    (hp : s.dies[n].pow.passAtEnd = false)
    (he : e.view = { s.dies[n].view with works := fun c => { s.dies[n].view.works c with wcap := (e.cores[c]).sync.wcap } }) :
    let t := s.modDie n (fun _ => e.abort now b)
    Aborted s n b.bit t ∧ ∀ c : CoreIx, (t.dies[n].cores[c]).sync.wcap = (e.cores[c]).sync.wcap := by
  intro t
  obtain ⟨w, pre, hv, hw⟩ := Die.view_abort (d := e) now b hb ((congrArg FrameView.unload he).trans hu)
    ((congrArg (·.pow.passAtEnd) he).trans hp)
  have frame : e.frm = s.dies[n].frm := congrArg FrameView.frm he
  have die : t.dies[n].view = _ := (congrArg Die.view (s.modDie_same n (fun _ => e.abort now b))).trans hv
  have frm := congrArg FrameView.frm die
  have hold := congrArg FrameView.hold die
  have work : ∀ c : CoreIx, (t.dies[n].cores[c]).work
      = ({ s.dies[n].view.works c with wcap := (e.cores[c]).sync.wcap } : Work).discarded := fun c => by
    have := congrArg (fun v : FrameView => v.works c) die
    rw [he] at this
    exact this
  refine ⟨⟨onlyDie_modDie s n _, congrArg Frames.frun frm, congrArg Holds.reqs hold, congrArg Holds.timed hold,
    (congrArg (fun h : Holds => bit h.fault b.bit) hold).trans hw, fun hi => ?_, fun c => work_discarded (work c)⟩,
    fun c => congrArg Work.wcap (work c)⟩
  obtain ⟨named, any, count⟩ := Die.markInvalid_frm (d := e) (by rw [frame]; exact hi)
  rw [frame] at named count
  exact ⟨(congrArg Frames.invFrame frm).trans named, (congrArg Frames.invAny frm).trans any, (congrArg Frames.invCnt frm).trans count⟩

end

/-- Settles O34: each watchdog at its count and below it. -/
theorem watchdogsAbort : Obligations.WatchdogsAbort := by
  unfold Obligations.WatchdogsAbort
  intro s n d aborted runs hu hp running
  refine ⟨fun due => ?hold, fun below => ?holdBelow, fun p plan due => ?run, fun p plan below => ?runBelow⟩
  case hold =>
    obtain ⟨cs, q, l, captured, cores⟩ := d.captureWaits_eq
    have exec_eq : exec (.holdWatchdogAbort n) s
        = .next (s.modDie n (fun _ => (d.forCores Die.captureWait).abort s.now wdAbort)) := by
      refine (onDie_runs _ runs).trans (congrArg Host.Outcome.next (s.modDie_congr n _ _ (if_pos ?_)))
      exact Bool.and_eq_true_iff.2 ⟨running, decide_eq_true due⟩
    generalize d.forCores Die.captureWait = e at captured exec_eq
    have caught : ∀ c : CoreIx, (e.cores[c]) = d.cores[c].captured d.clock.pcyc d.frame16 := by rw [captured]; exact cores
    have stands : e.view = { d.view with works := fun c => { d.view.works c with wcap := ((e.cores[c])).sync.wcap } } := by
      have works : e.view.works = fun c => { d.view.works c with wcap := ((e.cores[c])).sync.wcap } := funext fun c => by
        rw [caught c]
        exact (congrArg Core.work (caught c)).trans (Core.captured_work ..)
      rw [← works, captured]
      rfl
    obtain ⟨out, caps⟩ := aborted_of_abort s.now (b := wdAbort) (by decide) hu hp stands
    refine ⟨_, exec_eq, out, fun c => ⟨fun w found => (caps c).trans ?_, fun none_ => (caps c).trans ?_⟩⟩
    · rw [caught, Core.captured_some found]
    · rw [caught, Core.captured_none none_]
  case holdBelow =>
    refine (onDie_runs _ runs).trans (congrArg Host.Outcome.next (s.modDie_self n _ (if_neg ?_)))
    simp [Die.holdWatchdogDue, show s.dies[n] = d from rfl, below]
  case run =>
    have exec_eq : exec (.runWatchdogAbort n) s = .next (s.modDie n (fun _ => d.abort s.now runAbort)) := by
      refine (onDie_runs _ runs).trans (congrArg Host.Outcome.next (s.modDie_congr n _ _ (if_pos ?_)))
      simp [Die.runWatchdogDue, show s.dies[n] = d from rfl, running, plan, due]
    exact ⟨_, exec_eq, (aborted_of_abort s.now (b := runAbort) (by decide) hu hp rfl).1⟩
  case runBelow =>
    refine (onDie_runs _ runs).trans (congrArg Host.Outcome.next (s.modDie_self n _ (if_neg ?_)))
    simp [Die.runWatchdogDue, show s.dies[n] = d from rfl, plan, below]

end Sys2Proof.Machine

/-! # Routers forward (O42)

First what the parts of a router's step leave: the link ends, the hold of back-pressure, and the answers to packets. Then the
lone flit of an input, a packet that is delivered, and the decision on a route swap. -/

namespace Sys2Proof.Machine

/-! ### Link ends -/

theorem State.modDie_field {α : Type} (s : State) (n : DieIx) {f : Die → Die} (g : Die → α) (h : ∀ d, g (f d) = g d) (m : DieIx) :
    g (s.modDie n f).dies[m] = g s.dies[m] := by
  by_cases e : m = n
  · subst e
    exact (congrArg g (s.modDie_die m f)).trans (h _)
  · rw [s.modDie_other n m f e]

theorem State.link_modDie (s : State) (n : DieIx) {f : Die → Die} (h : ∀ d, (f d).pkg = d.pkg) (e : LinkEnd) :
    (s.modDie n f).link e = s.link e := by
  cases e with
  | port p => rfl
  | pkg m a => exact congrArg (fun v : Vector Link 3 => v[a]) (s.modDie_field n (·.pkg) h m)

theorem State.link_modLink_same (s : State) (e : LinkEnd) (f : Link → Link) : (s.modLink e f).link e = f (s.link e) := by
  cases e with
  | port p => exact congrArg Port.link (s.modPort_same p _)
  | pkg n a => exact (congrArg (fun d : Die => d.pkg[a]) (s.modDie_die n _)).trans (vupd_get_same _ a f _)

/-- A field of the link ends that a change of one link end leaves. -/
theorem State.link_modLink_field {α : Type} (s : State) (e : LinkEnd) {f : Link → Link} (g : Link → α) (h : ∀ l, g (f l) = g l)
    (x : LinkEnd) : g ((s.modLink e f).link x) = g (s.link x) := by
  cases e with
  | port p =>
    cases x with
    | port q =>
      by_cases e : q = p
      · subst e
        exact (congrArg (fun y : Port => g y.link) (s.modPort_same q _)).trans (h _)
      · exact congrArg (fun y : Port => g y.link) (s.modPort_other p q _ e)
    | pkg m b => rfl
  | pkg n a =>
    cases x with
    | port q => rfl
    | pkg m b =>
      refine s.modDie_field n (fun d => g d.pkg[b]) (fun d => ?_) m
      dsimp only
      rw [vupd_get]
      split
      case isTrue e => rw [h, e]
      case isFalse => rfl

/-- A change of a link end changes no more of a die than its package links. -/
theorem State.modLink_die (s : State) (e : LinkEnd) (f : Link → Link) (m : DieIx) :
    ∃ p, (s.modLink e f).dies[m] = { s.dies[m] with pkg := p } := by
  cases e with
  | port p => exact ⟨_, rfl⟩
  | pkg n a =>
    by_cases e : m = n
    · subst e
      exact ⟨_, s.modDie_die m _⟩
    · exact ⟨_, s.modDie_other n m _ e⟩

theorem State.modLink_hub (s : State) (e : LinkEnd) (f : Link → Link) : (s.modLink e f).hub = s.hub := by cases e <;> rfl

/-- The ends of a die's own links are no other die's. -/
theorem State.modLink_endOf_other {n m : DieIx} (h : m ≠ n) (s : State) (i : Fin 7) (f : Link → Link) :
    (s.modLink (endOf n i) f).dies[m] = s.dies[m] := by
  unfold endOf
  dsimp only
  split
  · rfl
  · exact s.modDie_other n m _ h

/-! ### Buffer places (R326) -/

section
variable (s : State) (n : DieIx) (i : Fin 7) (f : Flit)

theorem State.freePlace_die (m : DieIx) : ∃ p, (s.freePlace n i f).dies[m] = { s.dies[m] with pkg := p } := by
  unfold State.freePlace
  split
  · exact s.modLink_die _ _ m
  · exact ⟨_, rfl⟩

theorem State.freePlace_hub : (s.freePlace n i f).hub = s.hub := by
  unfold State.freePlace
  split
  · exact s.modLink_hub _ _
  · rfl

theorem State.freePlace_other {m : DieIx} (h : m ≠ n) : (s.freePlace n i f).dies[m] = s.dies[m] := by
  unfold State.freePlace
  split
  · exact s.modLink_endOf_other h _ _
  · rfl

theorem State.freePlace_outq (e : LinkEnd) : ((s.freePlace n i f).link e).outq = (s.link e).outq := by
  unfold State.freePlace
  split
  · exact s.link_modLink_field _ (·.outq) (by exact fun _ => rfl) e
  · rfl

/-- The place of a flit that came over a link is owed to its sender. -/
theorem State.freePlace_owed (h : i.val < 6) :
    ((s.freePlace n i f).link (endOf n i)).owed[laneIx f.vl f.dl] = (s.link (endOf n i)).owed[laneIx f.vl f.dl] + 1 := by
  unfold State.freePlace
  rw [if_pos h]
  exact (congrArg (fun l : Link => l.owed[laneIx f.vl f.dl]) (s.link_modLink_same _ _)).trans (vupd_get_same _ (laneIx f.vl f.dl) _ _)

theorem State.takeIn_die : ∃ p, (s.takeIn n i f).dies[n] = { s.dies[n].outOfQueue i f with pkg := p } := by
  obtain ⟨p, h⟩ := (s.modDie n (fun d => d.outOfQueue i f)).freePlace_die n i f n
  exact ⟨p, h.trans (by rw [State.modDie_die])⟩

theorem State.takeIn_outq (e : LinkEnd) : ((s.takeIn n i f).link e).outq = (s.link e).outq :=
  (State.freePlace_outq _ n i f e).trans (congrArg Link.outq (s.link_modDie n (by exact fun _ => rfl) e))

/-! ### Flits that leave (R201, R333) -/

theorem State.sendOut_die (out : Fin 7) (dl : Bool) : ∃ p, (s.sendOut n i out dl f).dies[n] = { s.dies[n].outOfQueue i f with pkg := p } := by
  unfold State.sendOut
  extract_lets e
  have dies : e.dies[n] = s.dies[n] := by
    unfold e
    split <;> rfl
  obtain ⟨p, taken⟩ := e.takeIn_die n i f
  obtain ⟨q, sent⟩ := (e.takeIn n i f).modLink_die (endOf n out)
    (fun l => { l with outq := l.outq ++ [{ f with hops := f.hops + 1, dl := leaveClass f i out dl }] }) n
  exact ⟨q, sent.trans (by rw [taken, dies])⟩

theorem State.sendOut_outq (out : Fin 7) (dl : Bool) :
    ((s.sendOut n i out dl f).link (endOf n out)).outq
      = (s.link (endOf n out)).outq ++ [{ f with hops := f.hops + 1, dl := leaveClass f i out dl }] := by
  unfold State.sendOut
  extract_lets e
  have link : e.link (endOf n out) = s.link (endOf n out) := by
    unfold e
    split
    · rfl
    · cases endOf n out <;> rfl
  have sent := congrArg Link.outq ((e.takeIn n i f).link_modLink_same (endOf n out)
    (fun l => { l with outq := l.outq ++ [{ f with hops := f.hops + 1, dl := leaveClass f i out dl }] }))
  refine sent.trans ?_
  dsimp only
  rw [State.takeIn_outq, link]

end

/-! ### Port back-pressure (R201) -/

theorem Die.setPressure_parts (d : Die) (q : List (Fin 7)) :
    (d.setPressure q).cores = d.cores ∧ (d.setPressure q).router = { d.router with bpQ := q } ∧ (d.setPressure q).pkg = d.pkg := by
  unfold Die.setPressure
  extract_lets v was r e closed
  split
  · exact ⟨rfl, rfl, rfl⟩
  · split
    · have h := Die.fault_only { e with hold := { e.hold with timed := e.hold.timed ++ [⟨11, v + 4, openEnd⟩] } } .sched portBp 0
      have cores := congrArg Die.cores h
      have router := congrArg Die.router h
      have pkg := congrArg Die.pkg h
      exact ⟨cores, router, pkg⟩
    · exact ⟨rfl, rfl, rfl⟩

/-- Back-pressure changes the hold, and the router's note of its outputs. -/
theorem State.backPressure_die (s : State) (n : DieIx) :
    ∃ q, (s.backPressure n).dies[n].cores = s.dies[n].cores
      ∧ (s.backPressure n).dies[n].router = { s.dies[n].router with bpQ := q } := by
  unfold State.backPressure
  extract_lets q
  split
  · exact ⟨s.dies[n].router.bpQ, rfl, rfl⟩
  · obtain ⟨cores, router, -⟩ := s.dies[n].setPressure_parts q
    rw [State.modDie_die]
    exact ⟨q, cores, router⟩

theorem State.backPressure_link (s : State) (n : DieIx) (e : LinkEnd) : (s.backPressure n).link e = s.link e := by
  unfold State.backPressure
  extract_lets q
  split
  · rfl
  · exact s.link_modDie n (fun d => (d.setPressure_parts q).2.2) e

/-! ### Answers to packets (R283, R338) -/

/-- What the answers to packets leave of a die: the packets that wait, the router's fault word and link inputs, and of each
core the scratchpad and the rings. -/
structure Unanswering where
  waiting : List (Fin 7 × List Flit)
  fault   : U64
  inputs  : Fin 6 → List Flit
  cores   : CoreIx → Mem × Rings

def Die.unanswering (d : Die) : Unanswering :=
  ⟨d.router.local_, d.router.fault, fun j => d.router.inq[j.castSucc], fun c => (d.cores[c].scratch, d.cores[c].rings)⟩

theorem Die.unanswering_answerOwn (d : Die) (c by_ : CoreIx) (a : Answer) (due : Nat) :
    (d.answerOwn c by_ a due).unanswering = d.unanswering := by
  have router : (d.answerOwn c by_ a due).router = d.router := by
    unfold Die.answerOwn
    split <;> rfl
  have cores : (fun x : CoreIx => ((d.answerOwn c by_ a due).cores[x].scratch, (d.answerOwn c by_ a due).cores[x].rings))
      = fun x => (d.cores[x].scratch, d.cores[x].rings) := by
    funext x
    rw [Die.answerOwn_cores]
  simp only [Die.unanswering, router, cores]

/-- A flit of the die's own goes in at the core-side input. -/
theorem Die.unanswering_routeIn (d : Die) (fs : List Flit) : (d.routeIn fs).unanswering = d.unanswering := by
  have inputs : (fun j : Fin 6 => (d.routeIn fs).router.inq[j.castSucc]) = fun j => d.router.inq[j.castSucc] := by
    funext j
    exact (vupd_get _ (6 : Fin 7) j.castSucc _).trans (if_neg (by simp [Fin.ext_iff]; omega))
  simp only [Die.unanswering, inputs]
  rfl

theorem State.unanswering_answerFlit (s : State) (n : DieIx) (f : Flit) (code : Nat) (m : DieIx) :
    (s.answerFlit n f code).dies[m].unanswering = s.dies[m].unanswering := by
  unfold State.answerFlit
  split
  · rfl
  · split
    · unfold State.answerHere
      split
      · unfold State.answerHost State.notifyHost
        split
        · split <;> rfl
        · rfl
      · exact s.modDie_field n Die.unanswering (fun d => d.unanswering_answerOwn ..) m
    · exact s.modDie_field n Die.unanswering (fun d => d.unanswering_routeIn _) m

/-! ### The lone flit of an input (R333, R338) -/

section
variable {s : State} {n : DieIx} {i : Fin 7} {f : Flit}

/-- The lone flit of an input that can move on does. -/
theorem exec_routerForward {t : State} (runs : s.runs n = true) (lone : s.dies[n].router.inq[i] = [f])
    (moves : s.forwardFlit n i f = some t) : exec (.routerForward n i) s = .next (t.backPressure n) := by
  have forward : s.routerForward n i = t.backPressure n := by
    unfold State.routerForward
    rw [lone]
    simp [laneFirsts, moves]
  exact congrArg Host.Outcome.next ((if_pos runs).trans forward)

theorem State.forwardFlit_head (head : f.fk = 1) : s.forwardFlit n i f = s.forwardHead n i f := by
  unfold State.forwardFlit
  rw [head]
  rfl

theorem State.forwardFlit_sync (sync : f.fk = 3) : s.forwardFlit n i f = s.forwardSingle n i f := by
  unfold State.forwardFlit
  rw [sync]
  rfl

/-- The queue of an input without its lone flit. -/
theorem Die.outOfQueue_inq {d : Die} (lone : d.router.inq[i] = [f]) (j : Fin 7) :
    (d.outOfQueue i f).router.inq[j] = if j = i then [] else d.router.inq[j] := by
  refine (vupd_get ..).trans ?_
  rw [lone]
  simp

/-! #### Discards -/

/-- A head flit that is discarded leaves its input, sets its fault bit, and touches no scratchpad. -/
theorem State.discardHead_leaves (lone : s.dies[n].router.inq[i] = [f]) (link : i.val < 6) (b : FBit) (hb : b.bit < 64) :
    let t := (s.discardHead n i f b).backPressure n
    t.dies[n].router.inq[i] = [] ∧ bit t.dies[n].router.fault b.bit = true
      ∧ ∀ c : CoreIx, (t.dies[n].cores[c]).scratch = (s.dies[n].cores[c]).scratch := by
  intro t
  obtain ⟨p, taken⟩ := s.takeIn_die n i f
  let e : State := (s.takeIn n i f).modDie n (fun d => (d.setRoute (laneOf i (f.vl = 3)) none (!f.lst) []).fault .router b)
  let d : Die := { (s.dies[n].outOfQueue i f) with pkg := p }
  obtain ⟨q, l, o, k, flagged⟩ := (d.setRoute (laneOf i (f.vl = 3)) none (!f.lst) []).fault_router b
  have die : e.dies[n] = (d.setRoute (laneOf i (f.vl = 3)) none (!f.lst) []).fault .router b := by
    rw [show e.dies[n] = _ from State.modDie_die .., taken]
  rw [flagged] at die
  have kept : (s.discardHead n i f b).dies[n].unanswering = e.dies[n].unanswering := e.unanswering_answerFlit n f 7 n
  rw [die] at kept
  have input : (s.discardHead n i f b).dies[n].router.inq[i] = (s.dies[n].outOfQueue i f).router.inq[i] :=
    congrArg (fun u : Unanswering => u.inputs ⟨i.val, link⟩) kept
  have fault : (s.discardHead n i f b).dies[n].router.fault = setBit s.dies[n].router.fault b.bit := congrArg Unanswering.fault kept
  have scratch : ∀ c : CoreIx, ((s.discardHead n i f b).dies[n].cores[c]).scratch = (s.dies[n].cores[c]).scratch :=
    fun c => congrArg (fun u : Unanswering => (u.cores c).1) kept
  obtain ⟨q, cores, router⟩ := (s.discardHead n i f b).backPressure_die n
  rw [show t.dies[n].router = _ from router, show t.dies[n].cores = _ from cores]
  refine ⟨input.trans ?_, ?_, scratch⟩
  · rw [Die.outOfQueue_inq lone, if_pos rfl]
  · dsimp only
    rw [fault]
    exact bit_setBit_same _ hb

/-- A head flit without a route is discarded (R338). -/
theorem routerForward_unreachable (runs : s.runs n = true) (lone : s.dies[n].router.inq[i] = [f]) (head : f.fk = 1)
    (young : f.hops.toNat < 64) (link : i.val < 6) (route : s.dies[n].router.chooseOut i f.dst = none) :
    ∃ t, exec (.routerForward n i) s = .next t ∧ t.dies[n].router.inq[i] = [] ∧ bit t.dies[n].router.fault 0 = true
      ∧ ∀ c : CoreIx, (t.dies[n].cores[c]).scratch = (s.dies[n].cores[c]).scratch := by
  have moves : s.forwardFlit n i f = some (s.discardHead n i f rtUnreach) := by
    rw [State.forwardFlit_head head, State.forwardHead, if_neg (Nat.not_le.2 young), route]
  exact ⟨_, exec_routerForward runs lone moves, State.discardHead_leaves lone link rtUnreach (by decide)⟩

/-- A head flit that has made 64 hops is discarded (R338). -/
theorem routerForward_old (runs : s.runs n = true) (lone : s.dies[n].router.inq[i] = [f]) (head : f.fk = 1)
    (old : 64 ≤ f.hops.toNat) (link : i.val < 6) :
    ∃ t, exec (.routerForward n i) s = .next t ∧ t.dies[n].router.inq[i] = [] ∧ bit t.dies[n].router.fault 1 = true := by
  have moves : s.forwardFlit n i f = some (s.discardHead n i f hopLim) := by
    rw [State.forwardFlit_head head, State.forwardHead, if_pos old]
  obtain ⟨queue, flag, -⟩ := State.discardHead_leaves lone link hopLim (by decide)
  exact ⟨_, exec_routerForward runs lone moves, queue, flag⟩

/-! #### Flits that move on -/

theorem State.forwardOn_room {r : Routed} (away : r.out.val < 6) (room : (s.link (endOf n r.out)).outq.length < 512) :
    s.forwardOn n i r f = some ((s.sendOut n i r.out r.dl f).modDie n
      (fun d => d.setRoute (laneOf i (f.vl = 3)) (if f.lst then none else some r) false [])) := by
  unfold State.forwardOn
  dsimp only
  rw [if_neg (Nat.ne_of_lt away)]
  exact if_neg (Nat.not_le.2 room)

/-- A head flit goes out on the link that the image names, one hop further (R326, R333). -/
theorem routerForward_moves {out : Fin 7} {dl : Bool} (runs : s.runs n = true) (lone : s.dies[n].router.inq[i] = [f]) (head : f.fk = 1)
    (young : f.hops.toNat < 64) (route : s.dies[n].router.chooseOut i f.dst = some (out, dl)) (away : out.val < 6)
    (carries : s.routes (endOf n out) = true) (free : s.dies[n].router.locked i out (f.vl = 3) = false)
    (room : (s.link (endOf n out)).outq.length < 512) :
    ∃ t, exec (.routerForward n i) s = .next t ∧ t.dies[n].cores = s.dies[n].cores
      ∧ (t.link (endOf n out)).outq = (s.link (endOf n out)).outq ++ [{ f with hops := f.hops + 1, dl := leaveClass f i out dl }]
      ∧ ∀ j : Fin 7, t.dies[n].router.inq[j] = if j = i then [] else s.dies[n].router.inq[j] := by
  let x := laneOf i (f.vl = 3)
  let e := s.modDie n (fun d => d.setRoute x none false [])
  let u := (e.sendOut n i out dl f).modDie n (fun d => d.setRoute x (if f.lst then none else some (routedOf f out dl)) false [])
  have link : e.link (endOf n out) = s.link (endOf n out) := s.link_modDie n (by exact fun _ => rfl) _
  have moves : s.forwardFlit n i f = some u := by
    have on : e.forwardOn n i (routedOf f out dl) f = some u :=
      State.forwardOn_room (r := routedOf f out dl) away (by rw [show (routedOf f out dl).out = out from rfl, link]; exact room)
    rw [State.forwardFlit_head head, State.forwardHead, if_neg (Nat.not_le.2 young), route]
    simp only [carries, free, away, decide_true, Bool.not_true, Bool.and_false, Bool.false_eq_true, if_false]
    exact on
  obtain ⟨p, sent⟩ := e.sendOut_die n i f out dl
  have die : u.dies[n] = Die.setRoute { (s.dies[n].setRoute x none false []).outOfQueue i f with pkg := p } x
      (if f.lst then none else some (routedOf f out dl)) false [] := by
    rw [show u.dies[n] = _ from State.modDie_die .., sent, show e.dies[n] = _ from State.modDie_die ..]
  obtain ⟨q, cores, router⟩ := u.backPressure_die n
  refine ⟨_, exec_routerForward runs lone moves, ?_, ?_, fun j => ?_⟩
  · rw [cores, die]
    rfl
  · rw [State.backPressure_link, show u.link (endOf n out) = _ from State.link_modDie _ n (by exact fun _ => rfl) _,
      State.sendOut_outq, link]
  · rw [router, die]
    show (vupd s.dies[n].router.inq i (·.erase f))[j] = _
    exact Die.outOfQueue_inq lone j

/-- A sync flit for the own die waits for delivery (R323). -/
theorem routerForward_waits {dl : Bool} (runs : s.runs n = true) (lone : s.dies[n].router.inq[i] = [f]) (sync : f.fk = 3)
    (young : f.hops.toNat < 64) (route : s.dies[n].router.chooseOut i f.dst = some (6, dl)) :
    ∃ t, exec (.routerForward n i) s = .next t ∧ t.dies[n].router.local_ = s.dies[n].router.local_ ++ [(i, [f])]
      ∧ t.dies[n].router.inq[i] = [] ∧ t.dies[n].cores = s.dies[n].cores := by
  let taken (d : Die) : Die :=
    let d := d.outOfQueue i f
    { d with router := { d.router with local_ := d.router.local_ ++ [(i, [f])] } }
  have moves : s.forwardFlit n i f = some (s.modDie n taken) := by
    rw [State.forwardFlit_sync sync, State.forwardSingle, if_neg (by rw [sync]; decide)]
    dsimp only
    rw [if_neg (Nat.not_le.2 young), route]
    rfl
  obtain ⟨q, cores, router⟩ := (s.modDie n taken).backPressure_die n
  refine ⟨_, exec_routerForward runs lone moves, ?_⟩
  rw [cores, router, State.modDie_die]
  exact ⟨rfl, (Die.outOfQueue_inq lone i).trans (if_pos rfl), rfl⟩

/-! ### Deliveries (R200, R321, R340, R342) -/

/-- The first packet that waits is delivered where its core's inbound buffer has room, or where it is not to enter it. -/
theorem Die.deliverable_first {d : Die} {rest : List (Fin 7 × List Flit)}
    (fits : inboundNeed [f] = 0 ∨ (d.cores[desCore f.dst.toNat]).buffered + inboundNeed [f] ≤ inboundBytes ∨ d.accepts f.job ≠ 0) :
    d.deliverable [] ((i, [f]) :: rest) = some (i, [f]) := by
  unfold Die.deliverable
  have room : (inboundNeed [f] ≠ 0 && decide (inboundBytes < (d.cores[desCore f.dst.toNat]).buffered + inboundNeed [f])
      && decide (d.accepts f.job = 0)) = false := by
    simp only [Bool.and_eq_false_iff, decide_eq_false_iff_not, ne_eq, not_not, Nat.not_lt, or_assoc]
    exact fits
  dsimp only [packetCore]
  rw [if_neg (by simp), if_neg (by rw [Bool.not_eq_true]; exact room)]

/-- A lone packet for which there is no room stays. -/
theorem Die.deliverable_none {d : Die} (need : inboundNeed [f] ≠ 0)
    (full : inboundBytes < (d.cores[desCore f.dst.toNat]).buffered + inboundNeed [f]) (own : d.accepts f.job = 0) :
    d.deliverable [] [(i, [f])] = none := by
  unfold Die.deliverable
  dsimp only [packetCore]
  rw [if_neg (by simp), if_pos (by simp only [Bool.and_eq_true, decide_eq_true_eq]; exact ⟨⟨need, full⟩, own⟩)]
  rfl

theorem exec_packetDeliver (runs : s.runs n = true) : exec (.packetDeliver n) s = .next (s.packetDeliver n) :=
  congrArg Host.Outcome.next (if_pos runs)

/-- A packet of one flit that is delivered leaves those that wait, and frees its buffer place. -/
theorem State.popLocal_parts {rest : List (Fin 7 × List Flit)} (first : s.dies[n].router.local_ = (i, [f]) :: rest) :
    let t := s.popLocal n (i, [f])
    t.hub = s.hub ∧ (∀ m : DieIx, m ≠ n → t.dies[m] = s.dies[m])
      ∧ (∃ p, t.dies[n] = { s.dies[n] with router := { s.dies[n].router with local_ := rest }, pkg := p })
      ∧ (i.val < 6 → (t.link (endOf n i)).owed[laneIx f.vl f.dl] = (s.link (endOf n i)).owed[laneIx f.vl f.dl] + 1) := by
  intro t
  let e := s.modDie n (fun d => { d with router := { d.router with local_ := d.router.local_.erase (i, [f]) } })
  obtain ⟨p, freed⟩ := e.freePlace_die n i f n
  have die : e.dies[n] = { s.dies[n] with router := { s.dies[n].router with local_ := rest } } := by
    rw [show e.dies[n] = _ from State.modDie_die .., first, List.erase_cons_head]
  refine ⟨e.freePlace_hub n i f, fun m h => (e.freePlace_other n i f h).trans (s.modDie_other n m _ h), ⟨p, ?_⟩, fun link => ?_⟩
  · rw [show t.dies[n] = _ from freed, die]
  · rw [show t = e.freePlace n i f from rfl, e.freePlace_owed n i f link,
      show e.link (endOf n i) = s.link (endOf n i) from s.link_modDie n (by exact fun _ => rfl) _]

/-- A change of a core's state after a packet of one flit has left those that wait. -/
theorem State.popLocal_modCore {rest : List (Fin 7 × List Flit)} (first : s.dies[n].router.local_ = (i, [f]) :: rest) (c : CoreIx)
    (g : Core → Core) :
    let t := (s.popLocal n (i, [f])).modDie n (fun d => d.modCore c g)
    (t.hub = s.hub ∧ ∀ m : DieIx, m ≠ n → t.dies[m] = s.dies[m])
      ∧ (∃ p, t.dies[n] = Die.modCore { s.dies[n] with router := { s.dies[n].router with local_ := rest }, pkg := p } c g)
      ∧ (i.val < 6 → (t.link (endOf n i)).owed[laneIx f.vl f.dl] = (s.link (endOf n i)).owed[laneIx f.vl f.dl] + 1) := by
  intro t
  obtain ⟨hub, others, ⟨p, die⟩, owed⟩ := State.popLocal_parts first
  refine ⟨⟨hub, fun m h => (State.modDie_other _ n m _ h).trans (others m h)⟩, ⟨p, ?_⟩, fun link => ?_⟩
  · rw [show t.dies[n] = _ from State.modDie_die .., die]
  · rw [show t.link (endOf n i) = _ from State.link_modDie _ n (by exact fun _ => rfl) _]
    exact owed link

/-- A field of the cores to which a change of one core appends. -/
theorem Die.modCore_append {α : Type} (d : Die) (c : CoreIx) {f : Core → Core} (g : Core → List α) {l : List α}
    (h : ∀ k, g (f k) = g k ++ l) (x : CoreIx) :
    g ((d.modCore c f).cores[x]) = g d.cores[x] ++ if x = c then l else [] := by
  by_cases e : x = c
  · subst e
    rw [if_pos rfl]
    exact (congrArg g (d.modCore_core x f)).trans (h _)
  · rw [if_neg e, List.append_nil, d.modCore_other c x f e]

/-- The increment that an increment record brings to its core (R323). -/
def Rec.inc (x : Rec) (d : Die) : Inc :=
  { due := d.clock.clk, sc := fin64 x.isc, onC := false, amt := x.iamt.toNat + 1, rem := true, src := d.router.virtOf x.isrc.toNat,
    job := x.ijob, ans := none }

/-- A waiting flit with one increment record is delivered as that increment. -/
theorem State.packetDeliver_increment {rest : List (Fin 7 × List Flit)} (first : s.dies[n].router.local_ = (i, [f]) :: rest)
    (sync : f.fk = 3) (one : f.ng = 1) (kind : (recOf (slice f.body 0 16)).ik = 0) (open_ : s.dies[n].router.pthru = false) :
    s.packetDeliver n = (s.popLocal n (i, [f])).modDie n (fun d =>
      d.modCore (desCore (recOf (slice f.body 0 16)).idst.toNat) (fun k => { k with
        sync := { k.sync with incs := k.sync.incs ++ [(recOf (slice f.body 0 16)).inc s.dies[n]] } })) := by
  obtain ⟨-, -, ⟨p, die⟩, -⟩ := State.popLocal_parts first
  have taken : s.dies[n].deliverable [] s.dies[n].router.local_ = some (i, [f]) := by
    rw [first]
    exact Die.deliverable_first (.inl (by simp [inboundNeed, sync]))
  have record : (s.popLocal n (i, [f])).deliverRecord n (recOf (slice f.body 0 16)) f.msg
      = (s.popLocal n (i, [f])).modDie n (fun d => d.pushInc (desCore (recOf (slice f.body 0 16)).idst.toNat)
          ((recOf (slice f.body 0 16)).inc s.dies[n])) := by
    unfold State.deliverRecord
    dsimp only
    rw [die, if_neg (by rw [Bool.not_eq_true]; exact open_), kind]
    exact State.modDie_congr _ n _ _ (by rw [die]; rfl)
  unfold State.packetDeliver
  rw [taken]
  dsimp only
  rw [if_pos sync, one]
  exact record

/-- A message packet on the data lane needs room for its message, and is delivered as one. -/
theorem inboundNeed_message (head : f.fk = 1) (lane : f.vl = 0) (message : bits (leAt f.body 0 16) 1 0 = 1) :
    inboundNeed [f] = (packetBytes [f]).length - 32 := by
  simp [inboundNeed, head, lane, message]

theorem State.packetDeliver_message (taken : s.dies[n].deliverable [] s.dies[n].router.local_ = some (i, [f]))
    (head : f.fk = 1) (lane : f.vl = 0) (message : bits (leAt f.body 0 16) 1 0 = 1) :
    s.packetDeliver n = s.deliverMessage n (i, [f]) f := by
  unfold State.packetDeliver
  rw [taken]
  dsimp only
  rw [if_neg (by rw [head]; decide), if_neg (by simp [lane]), message]
  rfl

/-- PACKET_DELIVER of one increment record, as the statement says it. -/
theorem packetDeliver_counts {rest : List (Fin 7 × List Flit)} {x : Rec} (runs : s.runs n = true)
    (first : s.dies[n].router.local_ = (i, [f]) :: rest) (sync : f.fk = 3) (one : f.ng = 1)
    (record : recOf (slice f.body 0 16) = x) (kind : x.ik = 0) (open_ : s.dies[n].router.pthru = false) :
    ∃ t, exec (.packetDeliver n) s = .next t ∧ (t.hub = s.hub ∧ ∀ m : DieIx, m ≠ n → t.dies[m] = s.dies[m])
      ∧ (i.val < 6 → (t.link (endOf n i)).owed[laneIx f.vl f.dl] = (s.link (endOf n i)).owed[laneIx f.vl f.dl] + 1)
      ∧ { t.dies[n] with cores := s.dies[n].cores, router := s.dies[n].router, pkg := s.dies[n].pkg } = s.dies[n]
      ∧ t.dies[n].router = { s.dies[n].router with local_ := rest }
      ∧ ∀ c : CoreIx, (t.dies[n].cores[c]).sync.incs
          = (s.dies[n].cores[c]).sync.incs ++ if c = desCore x.idst.toNat then [x.inc s.dies[n]] else [] := by
  subst record
  obtain ⟨others, ⟨p, die⟩, freed⟩ := State.popLocal_modCore first (desCore (recOf (slice f.body 0 16)).idst.toNat)
    (fun k => { k with sync := { k.sync with incs := k.sync.incs ++ [(recOf (slice f.body 0 16)).inc s.dies[n]] } })
  refine ⟨_, (exec_packetDeliver runs).trans
    (congrArg Host.Outcome.next (State.packetDeliver_increment first sync one kind open_)), others, freed, ?_⟩
  rw [die]
  exact ⟨rfl, rfl, Die.modCore_append _ _ (·.sync.incs) (fun _ => rfl)⟩

section
variable {rest : List (Fin 7 × List Flit)} (runs : s.runs n = true) (first : s.dies[n].router.local_ = (i, [f]) :: rest)
  (head : f.fk = 1) (lane : f.vl = 0) (message : bits (leAt f.body 0 16) 1 0 = 1)
include runs first head lane message

/-- PACKET_DELIVER of a message for which there is room, as the statement says it. -/
theorem packetDeliver_enters {m : MsgIn} (own : s.dies[n].accepts f.job = 0)
    (opens : s.dies[n].openMessage [f] f (packetBytes [f]) = some m)
    (room : (s.dies[n].cores[desCore f.dst.toNat]).buffered + ((packetBytes [f]).length - 32) ≤ 16384) :
    ∃ t, exec (.packetDeliver n) s = .next t ∧ (t.hub = s.hub ∧ ∀ m : DieIx, m ≠ n → t.dies[m] = s.dies[m])
      ∧ (i.val < 6 → (t.link (endOf n i)).owed[laneIx f.vl f.dl] = (s.link (endOf n i)).owed[laneIx f.vl f.dl] + 1)
      ∧ t.dies[n].router.local_ = rest
      ∧ (∀ c : CoreIx, (t.dies[n].cores[c]).rings.arrive
          = (s.dies[n].cores[c]).rings.arrive ++ if c = desCore f.dst.toNat then [.link m 0] else [])
      ∧ ∀ c : CoreIx, (t.dies[n].cores[c]).scratch = (s.dies[n].cores[c]).scratch := by
  have taken : s.dies[n].deliverable [] s.dies[n].router.local_ = some (i, [f]) := by
    rw [first]
    exact Die.deliverable_first (.inr (.inl (by rw [inboundNeed_message head lane message]; exact room)))
  have delivered : s.packetDeliver n = (s.popLocal n (i, [f])).modDie n (fun d => d.messageIn (desCore f.dst.toNat) m) := by
    rw [State.packetDeliver_message taken head lane message]
    unfold State.deliverMessage
    simp only [own, opens]
  obtain ⟨others, ⟨p, die⟩, freed⟩ := State.popLocal_modCore first (desCore f.dst.toNat)
    (fun k => { k with rings := { k.rings with arrive := k.rings.arrive ++ [.link m 0] } })
  refine ⟨_, (exec_packetDeliver runs).trans (congrArg Host.Outcome.next delivered), others, freed, ?_⟩
  rw [show (State.modDie _ n (fun d => d.messageIn (desCore f.dst.toNat) m)).dies[n] = _ from die]
  exact ⟨rfl, Die.modCore_append _ _ (·.rings.arrive) (fun _ => rfl), Die.modCore_field _ _ (·.scratch) (fun _ => rfl)⟩

/-- PACKET_DELIVER of another job's message: it is answered with `job_mis` (R342). -/
theorem packetDeliver_foreign (other : s.dies[n].accepts f.job = 2) :
    ∃ t, exec (.packetDeliver n) s = .next t ∧ t.dies[n].router.local_ = rest ∧ bit t.dies[n].router.fault 3 = true
      ∧ ∀ c : CoreIx, (t.dies[n].cores[c]).rings.arrive = (s.dies[n].cores[c]).rings.arrive := by
  have taken : s.dies[n].deliverable [] s.dies[n].router.local_ = some (i, [f]) := by
    rw [first]
    exact Die.deliverable_first (.inr (.inr (by rw [other]; decide)))
  let e := (s.popLocal n (i, [f])).modDie n (fun d => d.fault .router jobMis)
  have delivered : s.packetDeliver n = e.answerFlit n f 6 := by
    rw [State.packetDeliver_message taken head lane message]
    unfold State.deliverMessage
    dsimp only
    rw [other]
    rfl
  obtain ⟨-, -, ⟨p, die⟩, -⟩ := State.popLocal_parts first
  obtain ⟨q, l, o, k, flagged⟩ := Die.fault_router
    { s.dies[n] with router := { s.dies[n].router with local_ := rest }, pkg := p } jobMis
  have kept := e.unanswering_answerFlit n f 6 n
  rw [show e.dies[n] = _ from State.modDie_die .., die, flagged] at kept
  refine ⟨_, (exec_packetDeliver runs).trans (congrArg Host.Outcome.next delivered), congrArg Unanswering.waiting kept, ?_,
    fun c => congrArg (fun u : Unanswering => (u.cores c).2.arrive) kept⟩
  exact (congrArg (fun u : Unanswering => bit u.fault 3) kept).trans (bit_setBit_same _ (by decide))

end

end

/-! ### Route swaps (R339) -/

section
variable {s : State} {n : DieIx}

theorem State.routeSwap_early (early : s.dies[n].clock.tc.toNat < s.dies[n].router.nextSwap) : s.routeSwap n = s := if_pos early

/-- A die at the tick value of its swap, with the next such value. -/
def State.swapDie (s : State) (n : DieIx) : Die :=
  let r := s.dies[n].router
  { s.dies[n] with router := { r with nextSwap := tickAfter r.nextSwap (s.periodFrom r.nextSwap) } }

/-- The decision on a route swap at its tick value. -/
theorem State.routeSwap_due (due : s.dies[n].router.nextSwap ≤ s.dies[n].clock.tc.toNat) :
    s.routeSwap n = s.modDie n (fun _ =>
      if s.dies[n].router.arm && decide (62500 * s.dies[n].router.frame.toNat ≤ s.dies[n].router.nextSwap) then
        if s.dies[n].router.notReady then (s.swapDie n).fault .router rtSwapLate
        else { s.swapDie n with router := { (s.swapDie n).router with act := !(s.swapDie n).router.act, arm := false } }
      else s.swapDie n) := by
  unfold State.routeSwap
  dsimp only
  rw [if_neg (Nat.not_lt.2 due)]
  split
  · split
    · rw [State.modDie_modDie]
      exact s.modDie_congr n _ _ rfl
    · rw [State.modDie_modDie]
      exact s.modDie_congr n _ _ rfl
  · exact s.modDie_congr n _ _ rfl

/-- ROUTE_SWAP at its tick value, as the statement says it. -/
theorem routeSwap_decides (due : s.dies[n].router.nextSwap ≤ s.dies[n].clock.tc.toNat) :
    let r := s.dies[n].router
    let next := tickAfter r.nextSwap (s.periodFrom r.nextSwap)
    ∃ t, exec (.routeSwap n) s = .next t ∧ OnlyDie n s t ∧ t.dies[n].cores = s.dies[n].cores
      ∧ (r.arm = false ∨ r.nextSwap < 62500 * r.frame.toNat → t.dies[n].router = { r with nextSwap := next })
      ∧ (r.arm = true → 62500 * r.frame.toNat ≤ r.nextSwap →
          (r.notReady = false → t.dies[n].router = { r with act := !r.act, arm := false, nextSwap := next })
          ∧ (r.notReady = true → t.dies[n].router.act = r.act ∧ t.dies[n].router.arm = true
              ∧ bit t.dies[n].router.fault 4 = true)) := by
  intro r next
  refine ⟨_, congrArg Host.Outcome.next (State.routeSwap_due due), onlyDie_modDie s n _, ?_⟩
  rw [State.modDie_die, show s.dies[n].router = r from rfl]
  cases armed : r.arm && decide (62500 * r.frame.toNat ≤ r.nextSwap) with
  | false =>
    have not_ : ¬(r.arm = true ∧ 62500 * r.frame.toNat ≤ r.nextSwap) := by simpa using armed
    exact ⟨rfl, fun _ => rfl, fun arm frame => absurd ⟨arm, frame⟩ not_⟩
  | true =>
    obtain ⟨arm, frame⟩ : r.arm = true ∧ 62500 * r.frame.toNat ≤ r.nextSwap := by simpa using armed
    have decided : ¬(r.arm = false ∨ r.nextSwap < 62500 * r.frame.toNat) := by simp [arm, frame]
    rw [if_pos rfl]
    by_cases wait : r.notReady = true
    · obtain ⟨q, l, o, k, flagged⟩ := (s.swapDie n).fault_router rtSwapLate
      rw [if_pos wait, flagged]
      exact ⟨rfl, fun h => absurd h decided,
        fun _ _ => ⟨fun ready => absurd wait (by simp [ready]), fun _ => ⟨rfl, arm, bit_setBit_same _ (by decide)⟩⟩⟩
    · rw [if_neg wait]
      exact ⟨rfl, fun h => absurd h decided, fun _ _ => ⟨fun _ => rfl, fun h => absurd h wait⟩⟩

end

/-- Settles O42: the lone flit of an input, the deliveries, and the route swap. -/
theorem routersForward : Obligations.RoutersForward := by
  unfold Obligations.RoutersForward
  intro s n i f rest d r others freed runs
  refine ⟨fun lone head young => ⟨fun out dl route away carries free room =>
        routerForward_moves runs lone head young route away carries free room,
      fun link route => routerForward_unreachable runs lone head young link route⟩,
    fun lone head old link => routerForward_old runs lone head old link,
    fun dl lone sync young route => routerForward_waits runs lone sync young route,
    fun x first sync one record kind open_ => packetDeliver_counts runs first sync one record kind open_,
    fun m first head lane message => ⟨fun own opens room => packetDeliver_enters runs first head lane message own opens room,
      fun own full need last => ?full, fun other => packetDeliver_foreign runs first head lane message other⟩,
    fun early => congrArg Host.Outcome.next (State.routeSwap_early early), fun due => routeSwap_decides due⟩
  case full =>
    have bytes := inboundNeed_message head lane message
    have stays : d.deliverable [] r.local_ = none := by
      rw [first, last]
      exact Die.deliverable_none (by rw [bytes]; omega) (by rw [bytes]; exact full) own
    refine (exec_packetDeliver runs).trans (congrArg Host.Outcome.next ?_)
    unfold State.packetDeliver
    rw [show s.dies[n].deliverable [] s.dies[n].router.local_ = none from stays]

end Sys2Proof.Machine

/-! # The DRAM wheel (O22) -/

namespace Sys2Proof.Machine

/-! ### One channel's turn (R228 to R230, R242) -/

/-- The sector that a local read hands to its unit: the correction that waits in the channel's write-back queue, else the
array's (R242). -/
def Core.sectorOut (k : Core) (u : Fin 6) (j : Fin 16) (t sec sp : Nat) : Served :=
  match k.vault.chans[j].wb.find? (fun q => q.1 = sec) with
  | some q => { unit := u, chan := j, at_ := t, sector := sec, into := sp, data := q.2, pz := false, decoded := true, drop := false }
  | none => { unit := u, chan := j, at_ := t, sector := sec, into := sp, data := k.vault.readSector sec,
              pz := k.vault.tags.has sec, decoded := false, drop := false }

/-- The head descriptor of a unit goes on to its next sector of a channel. -/
def Core.nextSector (k : Core) (u : Fin 6) (j : Fin 16) (i : Nat) : Core :=
  k.setHead u (fun x => { x with next := x.next.set j.val (i + 1) j.isLt })

/-- What a channel whose position has the class `cls` serves. -/
def Core.serveClass (k : Core) (cls : Nat) (j : Fin 16) (t clk : Nat) : Core :=
  if cls = 0 then k.serveRead j t else if cls = 1 then k.serveWrite j t else k.serveRemote j clk

section
variable {k : Core} {cls : Nat} {j : Fin 16} {t clk : Nat}

theorem Core.serveClass_read (h : cls = 0) : k.serveClass cls j t clk = k.serveRead j t := if_pos h

theorem Core.serveClass_write (h : cls = 1) : k.serveClass cls j t clk = k.serveWrite j t := by
  rw [Core.serveClass, h, if_neg (by decide), if_pos rfl]

theorem Core.serveClass_remote (h : cls = 2) : k.serveClass cls j t clk = k.serveRemote j clk := by
  rw [Core.serveClass, h, if_neg (by decide), if_neg (by decide)]

end

/-- A turn of the wheel moves sectors on their way alone: from k to l only descriptors and the three lists of sectors
change. -/
structure MovesSectors (k l : Core) : Prop where
  chans : l.vault.chans = k.vault.chans
  mem : l.vault.mem = k.vault.mem
  tags : l.vault.tags = k.vault.tags
  rest : { l with vault := k.vault, st := k.st } = k

section
variable {k : Core} {j : Fin 16} {u : Fin 6} {i t sec sp : Nat}

theorem Core.sectorOut_waiting {q : Nat × Bytes} (waits : k.vault.chans[j].wb.find? (fun q => q.1 = sec) = some q) :
    k.sectorOut u j t sec sp
      = { unit := u, chan := j, at_ := t, sector := sec, into := sp, data := q.2, pz := false, decoded := true, drop := false } := by
  rw [Core.sectorOut, waits]

theorem Core.sectorOut_array (none_ : k.vault.chans[j].wb.find? (fun q => q.1 = sec) = none) :
    k.sectorOut u j t sec sp
      = { unit := u, chan := j, at_ := t, sector := sec, into := sp, data := k.vault.readSector sec,
          pz := k.vault.tags.has sec, decoded := false, drop := false } := by
  rw [Core.sectorOut, none_]

/-- Wherever its bytes come from, the sector is the one the descriptor asked for. -/
theorem Core.sectorOut_place (k : Core) (u : Fin 6) (j : Fin 16) (t sec sp : Nat) :
    (k.sectorOut u j t sec sp).unit = u ∧ (k.sectorOut u j t sec sp).chan = j ∧ (k.sectorOut u j t sec sp).at_ = t
      ∧ (k.sectorOut u j t sec sp).sector = sec ∧ (k.sectorOut u j t sec sp).into = sp := by
  unfold Core.sectorOut
  split <;> exact ⟨rfl, rfl, rfl, rfl, rfl⟩

theorem Core.serveRead_offered (offered : k.offer .ldd j t = some (u, i, sec, sp)) :
    k.serveRead j t
      = { k.nextSector u j i with vault := { k.vault with served := k.vault.served ++ [k.sectorOut u j t sec sp] } } := by
  simp only [Core.serveRead, offered]
  rfl

theorem Core.serveWrite_offered (offered : k.offer .std j t = some (u, i, sec, sp)) :
    k.serveWrite j t
      = { k.nextSector u j i with
          vault := { k.vault with
            writes := k.vault.writes ++ [{ due := t + 8, onClk := false, unit := u, sector := sec, data := k.readScratch sp 64,
                                           pz := k.poisoned sp 64, src := 0, tag := 0 }] } } := by
  simp only [Core.serveWrite, offered]
  rfl

theorem Core.serveRemote_waiting {r : RemoteSector} (waits : k.vault.remote.find? (fun r => chanOf r.sector = j) = some r)
    (clk : Nat) :
    k.serveRemote j clk
      = { k with
          vault := { k.vault with
            remote := k.vault.remote.erase r
            writes := k.vault.writes ++ [{ due := clk + 8, onClk := true, unit := 0, sector := r.sector, data := r.data, pz := r.pz,
                                           src := r.src, tag := r.tag }] } } := by
  simp only [Core.serveRemote, waits]

end

/-! ### What a turn leaves -/

theorem MovesSectors.refl (k : Core) : MovesSectors k k := ⟨rfl, rfl, rfl, rfl⟩

theorem movesSectors_serveRead (k : Core) (j : Fin 16) (t : Nat) : MovesSectors k (k.serveRead j t) := by
  cases offered : k.offer .ldd j t with
  | none =>
    have idle : k.serveRead j t = k := by simp only [Core.serveRead, offered]
    rw [idle]
    exact .refl k
  | some x =>
    obtain ⟨u, i, sec, sp⟩ := x
    rw [Core.serveRead_offered offered]
    exact ⟨rfl, rfl, rfl, rfl⟩

theorem movesSectors_serveWrite (k : Core) (j : Fin 16) (t : Nat) : MovesSectors k (k.serveWrite j t) := by
  cases offered : k.offer .std j t with
  | none =>
    have idle : k.serveWrite j t = k := by simp only [Core.serveWrite, offered]
    rw [idle]
    exact .refl k
  | some x =>
    obtain ⟨u, i, sec, sp⟩ := x
    rw [Core.serveWrite_offered offered]
    exact ⟨rfl, rfl, rfl, rfl⟩

theorem movesSectors_serveRemote (k : Core) (j : Fin 16) (clk : Nat) : MovesSectors k (k.serveRemote j clk) := by
  cases waits : k.vault.remote.find? (fun r => chanOf r.sector = j) with
  | none =>
    have idle : k.serveRemote j clk = k := by simp only [Core.serveRemote, waits]
    rw [idle]
    exact .refl k
  | some r =>
    rw [Core.serveRemote_waiting waits]
    exact ⟨rfl, rfl, rfl, rfl⟩

theorem movesSectors_serveClass (k : Core) (cls : Nat) (j : Fin 16) (t clk : Nat) : MovesSectors k (k.serveClass cls j t clk) := by
  unfold Core.serveClass
  split
  · exact movesSectors_serveRead k j t
  · split
    · exact movesSectors_serveWrite k j t
    · exact movesSectors_serveRemote k j clk

/-! The channel's own record of its turn, on top. -/

section
variable {k l : Core} (moves : MovesSectors k l) (j : Fin 16) (f : Chan → Chan)
include moves

theorem MovesSectors.chan_same : (l.modChan j f).vault.chans[j] = f k.vault.chans[j] := by
  rw [← moves.chans]
  exact vupd_get_self l.vault.chans j f

theorem MovesSectors.chan_other {i : Fin 16} (other : i ≠ j) : (l.modChan j f).vault.chans[i] = k.vault.chans[i] := by
  rw [← moves.chans]
  exact vupd_get_other l.vault.chans f other

theorem MovesSectors.rest_modChan : { l.modChan j f with vault := k.vault, st := k.st } = k := moves.rest

end

/-! ### The command -/

section
variable {d : Die} {c : CoreIx} {j : Fin 16}

/-- The class by which a channel serves in this clock cycle: the remote one in a held cycle (R230). -/
def Die.classOf (d : Die) (j : Fin 16) : Nat := if d.heldNow then 2 else wheelClass d.clock.pcyc j

/-- A channel that has served in this clock cycle does nothing more in it (R228). -/
theorem Die.wheelServe_served (served : d.cores[c].vault.chans[j].servedAt = some d.clock.clk) : Die.wheelServe c j d = d := by
  unfold Die.wheelServe
  rw [if_pos (by rw [decide_eq_true served, Bool.true_or])]

/-- An open channel that has not yet served does so by its class and notes the cycle. -/
theorem Die.wheelServe_open (unserved : d.cores[c].vault.chans[j].servedAt ≠ some d.clock.clk) (open_ : d.chanClosed c j = false) :
    Die.wheelServe c j d = d.modCore c (fun k =>
      (k.serveClass (d.classOf j) j d.clock.rc d.clock.clk).modChan j (fun x => { x with servedAt := some d.clock.clk })) := by
  unfold Die.wheelServe
  rw [if_neg (by rw [decide_eq_false unserved, open_]; decide)]
  rfl

end

/-- Settles O22: the turn of an open channel is `Core.serveClass`, and each class is what its serving lemma says. -/
theorem wheelServes : Obligations.WheelServes := by
  unfold Obligations.WheelServes
  intro s a j runs open_ k cls
  refine ⟨fun served => ?_, fun unserved => ?_⟩
  · exact (onDie_runs _ runs).trans (congrArg _ (s.modDie_self a.die _ (Die.wheelServe_served served)))
  · have moves := movesSectors_serveClass k cls j (runCycle s a) (clockCycle s a)
    refine ⟨_, onDie_core runs (Die.wheelServe_open unserved open_), onlyCore_modCore s a _, ?_⟩
    rw [State.modCore_same]
    refine ⟨moves.chan_same j _, fun i other => moves.chan_other j _ other, moves.mem, moves.tags, moves.rest_modChan j _,
      fun u i sec sp local_ offered => ?_, fun u i sec sp local_ offered => ?_, fun r remote waits => ?_⟩
    · have turn : k.serveClass cls j (runCycle s a) (clockCycle s a) = _ := (Core.serveClass_read local_).trans (Core.serveRead_offered offered)
      obtain ⟨unit, chan, time, sector, into⟩ := k.sectorOut_place u j (runCycle s a) sec sp
      refine ⟨k.sectorOut u j (runCycle s a) sec sp, congrArg (·.vault.served) turn, unit, chan, time, sector, into,
        fun none_ => ?_, fun q waits => ?_, congrArg (·.vault.writes) turn, congrArg (·.vault.remote) turn⟩
      · rw [Core.sectorOut_array none_]
        exact ⟨rfl, rfl, rfl⟩
      · rw [Core.sectorOut_waiting waits]
        exact ⟨rfl, rfl, rfl⟩
    · have turn : k.serveClass cls j (runCycle s a) (clockCycle s a) = _ :=
        (Core.serveClass_write local_).trans (Core.serveWrite_offered offered)
      exact ⟨_, congrArg (·.vault.writes) turn, rfl, rfl, rfl, rfl, rfl, rfl, congrArg (·.vault.served) turn,
        congrArg (·.vault.remote) turn⟩
    · have turn : k.serveClass cls j (runCycle s a) (clockCycle s a) = _ :=
        (Core.serveClass_remote remote).trans (Core.serveRemote_waiting waits _)
      exact ⟨_, congrArg (·.vault.writes) turn, rfl, rfl, rfl, rfl, rfl, congrArg (·.vault.remote) turn,
        congrArg (·.vault.served) turn, congrArg (·.st) turn⟩

end Sys2Proof.Machine

/-! # The channels of a die

What the work on one DRAM channel leaves: every other channel, and what its die counts and holds. -/

namespace Sys2Proof.Machine

section
variable {c : CoreIx} {j : Fin 16} {d e f : Die}

theorem Core.modChan_chan (k : Core) (j i : Fin 16) (f : Chan → Chan) :
    (k.modChan j f).vault.chans[i] = if i = j then f k.vault.chans[j] else k.vault.chans[i] := vupd_get k.vault.chans j i f

theorem Core.modChan_same (k : Core) (j : Fin 16) (f : Chan → Chan) : (k.modChan j f).vault.chans[j] = f k.vault.chans[j] :=
  vupd_get_self k.vault.chans j f

theorem Die.modChan_same (d : Die) (c : CoreIx) (j : Fin 16) (f : Chan → Chan) :
    (d.modCore c (·.modChan j f)).cores[c].vault.chans[j] = f d.cores[c].vault.chans[j] :=
  (congrArg (·.vault.chans[j]) (d.modCore_same c (·.modChan j f))).trans (Core.modChan_same ..)

/-- From d to e channel j of core c has been worked on: its die's clock, frame and holds stay, as do the sectors on their way
to the streams and every other channel. -/
structure ChanWork (c : CoreIx) (j : Fin 16) (d e : Die) : Prop where
  clock : e.clock = d.clock
  frm : e.frm = d.frm
  hold : e.hold = d.hold
  forced : e.forced = d.forced
  served : ∀ x : CoreIx, e.cores[x].vault.served = d.cores[x].vault.served
  other : ∀ (x : CoreIx) (i : Fin 16), ¬(x = c ∧ i = j) → e.cores[x].vault.chans[i] = d.cores[x].vault.chans[i]

theorem ChanWork.refl (c : CoreIx) (j : Fin 16) (d : Die) : ChanWork c j d d := ⟨rfl, rfl, rfl, rfl, fun _ => rfl, fun _ _ _ => rfl⟩

theorem ChanWork.trans (h : ChanWork c j d e) (g : ChanWork c j e f) : ChanWork c j d f where
  clock := g.clock.trans h.clock
  frm := g.frm.trans h.frm
  hold := g.hold.trans h.hold
  forced := g.forced.trans h.forced
  served := fun x => (g.served x).trans (h.served x)
  other := fun x i hx => (g.other x i hx).trans (h.other x i hx)

/-- A change of a core that keeps its served sectors and its other channels. -/
theorem chanWork_modCore (d : Die) {f : Core → Core} (served : (f d.cores[c]).vault.served = d.cores[c].vault.served)
    (other : ∀ i : Fin 16, i ≠ j → (f d.cores[c]).vault.chans[i] = d.cores[c].vault.chans[i]) : ChanWork c j d (d.modCore c f) where
  clock := rfl
  frm := rfl
  hold := rfl
  forced := rfl
  served := fun x => by
    by_cases hx : x = c
    · subst hx
      rw [Die.modCore_core, served]
    · rw [d.modCore_other c x f hx]
  other := fun x i hi => by
    by_cases hx : x = c
    · subst hx
      rw [Die.modCore_core, other i fun h => hi ⟨rfl, h⟩]
    · rw [d.modCore_other c x f hx]

theorem chanWork_modChan (c : CoreIx) (j : Fin 16) (d : Die) (f : Chan → Chan) : ChanWork c j d (d.modCore c (·.modChan j f)) :=
  chanWork_modCore d rfl fun i hi => by rw [Core.modChan_chan, if_neg hi]

/-! ### Fault bits of a channel (R253) -/

/-- From d to e fault bits of channel j of core c may have been set; what else is new, notes and records them. -/
structure ChanFlagged (c : CoreIx) (j : Fin 16) (d e : Die) : Prop extends ChanWork c j d e where
  mem : ∀ x : CoreIx, e.cores[x].vault.mem = d.cores[x].vault.mem
  rest : { e.cores[c].vault.chans[j] with fault := d.cores[c].vault.chans[j].fault } = d.cores[c].vault.chans[j]
  faults : ∀ b, bit d.cores[c].vault.chans[j].fault b = true → bit e.cores[c].vault.chans[j].fault b = true

theorem ChanFlagged.refl (c : CoreIx) (j : Fin 16) (d : Die) : ChanFlagged c j d d := ⟨.refl c j d, fun _ => rfl, rfl, fun _ h => h⟩

theorem ChanFlagged.trans (h : ChanFlagged c j d e) (g : ChanFlagged c j e f) : ChanFlagged c j d f where
  toChanWork := h.toChanWork.trans g.toChanWork
  mem := fun x => (g.mem x).trans (h.mem x)
  rest := (congrArg (fun y : Chan => { y with fault := d.cores[c].vault.chans[j].fault }) g.rest).trans h.rest
  faults := fun b hb => g.faults b (h.faults b hb)

/-- A die with a bit of a channel's fault word set, and its notes and records as given. -/
def Die.chanBit (d : Die) (c : CoreIx) (j : Fin 16) (b : Nat) (q : List Event) (lost : Nat)
    (o : List (BitVec 8 × BitVec 16 × Nat × BitVec 8)) (n : List (BitVec 8 × BitVec 16 × Nat)) : Die :=
  { d.modCore c (·.modChan j (fun x => { x with fault := setBit x.fault b })) with evq := q, evLost := lost, once := o, setNow := n }

theorem Die.setFault_chan (d : Die) (c : CoreIx) (j : Fin 16) (b : Nat) :
    ∃ q l o n, d.setFault (.chan c j) b = d.chanBit c j b q l o n := ⟨d.evq, d.evLost, d.once, _, d.setFault_eq (.chan c j) b⟩

theorem Die.fault_chan (d : Die) (c : CoreIx) (j : Fin 16) (b : FBit) :
    ∃ q l o n, d.fault (.chan c j) b = d.chanBit c j b.bit q l o n := by
  have h := d.fault_only (.chan c j) b 0
  generalize d.fault (.chan c j) b = f at h
  exact ⟨f.evq, f.evLost, f.once, f.setNow,
    congrArg (fun y : Die => { y with evq := f.evq, evLost := f.evLost, once := f.once, setNow := f.setNow }) h⟩

section
variable (d : Die) (c : CoreIx) (j : Fin 16) (b : Nat) (q : List Event) (l : Nat) (o : List (BitVec 8 × BitVec 16 × Nat × BitVec 8))
  (n : List (BitVec 8 × BitVec 16 × Nat))

theorem Die.chanBit_same : (d.chanBit c j b q l o n).cores[c].vault.chans[j]
    = { d.cores[c].vault.chans[j] with fault := setBit d.cores[c].vault.chans[j].fault b } := d.modChan_same c j _

theorem chanFlagged_chanBit : ChanFlagged c j d (d.chanBit c j b q l o n) := by
  obtain ⟨-, -, -, -, served, other⟩ := chanWork_modChan c j d fun x => { x with fault := setBit x.fault b }
  refine ⟨⟨rfl, rfl, rfl, rfl, served, other⟩, fun x => ?_, by rw [Die.chanBit_same], fun i hi => ?_⟩
  · exact d.modCore_field c (f := (·.modChan j (fun x => { x with fault := setBit x.fault b }))) (·.vault.mem) (fun _ => rfl) x
  · rw [Die.chanBit_same]
    exact bit_setBit_of_bit _ hi

end

theorem Die.fault_chan_same (d : Die) (c : CoreIx) (j : Fin 16) (b : FBit) :
    (d.fault (.chan c j) b).cores[c].vault.chans[j]
      = { d.cores[c].vault.chans[j] with fault := setBit d.cores[c].vault.chans[j].fault b.bit } := by
  obtain ⟨q, l, o, n, h⟩ := d.fault_chan c j b
  rw [h, Die.chanBit_same]

theorem chanFlagged_fault (c : CoreIx) (j : Fin 16) (d : Die) (b : FBit) : ChanFlagged c j d (d.fault (.chan c j) b) := by
  obtain ⟨q, l, o, n, h⟩ := d.fault_chan c j b
  rw [h]
  exact chanFlagged_chanBit ..

/-- A repair candidate is known, has no spare left, or is added to the map of the hub die (R249). -/
theorem chanFlagged_candidate (s : State) (a : CoreRef) (j : Fin 16) (sec : Nat) :
    ChanFlagged a.core j s.dies[a.die] (s.candidate a j sec).dies[a.die] := by
  unfold State.candidate
  dsimp only
  split
  · exact .refl _ _ _
  · split
    · rw [State.modDie_die]
      exact chanFlagged_fault _ _ _ _
    · exact .refl _ _ _

/-- What a channel has besides its fault word stays. -/
theorem ChanFlagged.chan {α : Type} (h : ChanFlagged c j d e) (g : Chan → α) (hg : ∀ x f, g { x with fault := f } = g x) :
    g e.cores[c].vault.chans[j] = g d.cores[c].vault.chans[j] :=
  (hg _ _).symm.trans (congrArg g h.rest)

end

end Sys2Proof.Machine

/-! # Sectors decode (O23) -/

namespace Sys2Proof.Machine

/-! ### The outcomes (R239) -/

section
variable {data : Bytes} {pz : Bool} {e : SectorErr}

theorem decodeSector_clean (tag : tagOf pz ^^^ e.tagFlip = 0) (w : errorWeight e.symbols = 0) :
    decodeSector data pz e = ⟨.clean, data, false⟩ := by
  simp only [decodeSector, tag, w, ne_eq, not_true, if_false, if_true]

theorem decodeSector_corrected (tag : tagOf pz ^^^ e.tagFlip = 0) (lo : 1 ≤ errorWeight e.symbols) (hi : errorWeight e.symbols ≤ 2) :
    decodeSector data pz e = ⟨.corrected, data, false⟩ := by
  have some_ : errorWeight e.symbols ≠ 0 := by omega
  simp only [decodeSector, tag, some_, hi, ne_eq, not_true, if_false, if_true]

theorem decodeSector_uncorrectable (tag : tagOf pz ^^^ e.tagFlip = 0) (lo : 3 ≤ errorWeight e.symbols)
    (hi : errorWeight e.symbols ≤ 4) : decodeSector data pz e = ⟨.uncorrectable, zeroSector, true⟩ := by
  have some_ : errorWeight e.symbols ≠ 0 := by omega
  have many : ¬errorWeight e.symbols ≤ 2 := by omega
  simp only [decodeSector, tag, some_, many, hi, ne_eq, not_true, if_false, if_true]

end

/-! ### What an outcome does (R240 to R242, R254) -/

section
variable {d : Die} {c : CoreIx} {j : Fin 16} {i : Nat} {x : Served} {e : SectorErr}

/-- Corrected data takes its place in the channel's queue, or is dropped and flagged. -/
theorem chanWork_queueBack (d : Die) (c : CoreIx) (j : Fin 16) (sec : Nat) (data : Bytes) :
    ChanWork c j d (d.queueBack c j sec data)
      ∧ (d.queueBack c j sec data).cores[c].vault.chans[j].ocRd = d.cores[c].vault.chans[j].ocRd := by
  unfold Die.queueBack
  dsimp only
  split
  · exact ⟨chanWork_modChan c j d _, congrArg (·.ocRd) (d.modChan_same c j _)⟩
  · split
    · exact ⟨chanWork_modChan c j d _, congrArg (·.ocRd) (d.modChan_same c j _)⟩
    · exact ⟨(chanFlagged_fault c j d wbDrop).toChanWork, congrArg (·.ocRd) (d.fault_chan_same c j wbDrop)⟩

/-- The die of a corrected sector but for the hold: the correction is counted and goes to the queue. -/
def Die.correctedAt (d : Die) (c : CoreIx) (j : Fin 16) (sec : Nat) (data : Bytes) : Die :=
  (d.modCore c (·.modChan j (fun x => { x with ocRd := satAdd x.ocRd 1 }))).queueBack c j sec data

theorem chanWork_correctedAt (d : Die) (c : CoreIx) (j : Fin 16) (sec : Nat) (data : Bytes) :
    ChanWork c j d (d.correctedAt c j sec data)
      ∧ (d.correctedAt c j sec data).cores[c].vault.chans[j].ocRd = satAdd d.cores[c].vault.chans[j].ocRd 1 := by
  obtain ⟨queued, count⟩ := chanWork_queueBack (d.modCore c (·.modChan j (fun x => { x with ocRd := satAdd x.ocRd 1 }))) c j sec data
  exact ⟨(chanWork_modChan c j d _).trans queued, count.trans (congrArg (·.ocRd) (d.modChan_same c j _))⟩

theorem Die.readOutcome_corrected (sec : Nat) (r : Decoded) (h : r.verdict = .corrected) :
    d.readOutcome c j sec r
      = if d.frm.frun then (d.correctedAt c j sec r.data).timedHold 8 24 else d.correctedAt c j sec r.data := by
  have frame := (chanWork_correctedAt d c j sec r.data).1.frm
  unfold Die.readOutcome
  rw [h]
  rw [← frame]
  rfl

theorem Die.readOutcome_uncorrectable (sec : Nat) (r : Decoded) (h : r.verdict = .uncorrectable) :
    d.readOutcome c j sec r = (d.modCore c (·.modChan j (·.uncorrectable sec false))).fault (.chan c j) ueRead := by
  unfold Die.readOutcome
  rw [h]

/-- Whatever the outcome, the sectors on their way to the streams stay. -/
theorem Die.readOutcome_served (d : Die) (c : CoreIx) (j : Fin 16) (sec : Nat) (r : Decoded) :
    (d.readOutcome c j sec r).cores[c].vault.served = d.cores[c].vault.served := by
  cases h : r.verdict with
  | corrected =>
    rw [Die.readOutcome_corrected sec r h]
    split <;> exact (chanWork_correctedAt d c j sec r.data).1.served c
  | uncorrectable =>
    rw [Die.readOutcome_uncorrectable sec r h]
    exact ((chanWork_modChan c j d _).trans (chanFlagged_fault c j _ ueRead).toChanWork).served c
  | clean => rw [Die.readOutcome, h]
  | poisoned => rw [Die.readOutcome, h]

/-- The sector as its decode delivers it. -/
def Served.delivered (x : Served) (r : Decoded) (frun : Bool) : Served :=
  { x with data := r.data, pz := r.pz, decoded := true, at_ := x.at_ + if r.verdict = .corrected && !frun then 24 else 0 }

/-- The die with a served sector delivered and its inner corrections counted. -/
def Die.deliver (d : Die) (c : CoreIx) (j : Fin 16) (i : Nat) (y : Served) (inner : Nat) : Die :=
  d.modCore c (fun k => ({ k with vault := { k.vault with served := k.vault.served.set i y } } : Core).modChan j
    (fun x => { x with icCnt := satAdd x.icCnt inner }))

theorem Die.deliver_chan (d : Die) (c : CoreIx) (j : Fin 16) (i : Nat) (y : Served) (inner : Nat) :
    (d.deliver c j i y inner).cores[c].vault.chans[j]
      = { d.cores[c].vault.chans[j] with icCnt := satAdd d.cores[c].vault.chans[j].icCnt inner } := by
  rw [Die.deliver, Die.modCore_core, Core.modChan_same]

theorem Die.deliver_frm (d : Die) (c : CoreIx) (j : Fin 16) (i : Nat) (y : Served) (inner : Nat) :
    (d.deliver c j i y inner).frm = d.frm := rfl

theorem Die.deliver_served (waits : d.cores[c].vault.served[i]? = some x) (y : Served) (inner : Nat) :
    (d.deliver c j i y inner).cores[c].vault.served[i]? = some y := by
  obtain ⟨h, -⟩ := List.getElem?_eq_some_iff.1 waits
  rw [Die.deliver, Die.modCore_core]
  exact List.getElem?_set_self h

/-- The die after a decode whose outcome is r. -/
def Die.decodedAt (d : Die) (c : CoreIx) (j : Fin 16) (i : Nat) (x : Served) (e : SectorErr) (r : Decoded) : Die :=
  (d.deliver c j i (x.delivered r d.frm.frun) e.inner).readOutcome c j x.sector r

theorem Die.decodedAt_served (waits : d.cores[c].vault.served[i]? = some x) (r : Decoded) :
    (d.decodedAt c j i x e r).cores[c].vault.served[i]? = some (x.delivered r d.frm.frun) := by
  rw [Die.decodedAt, Die.readOutcome_served, Die.deliver_served waits]

/-- A corrected sector is counted, and held for inside a frame (R241, R254). -/
theorem Die.decodedAt_corrected (d : Die) (c : CoreIx) (j : Fin 16) (i : Nat) (x : Served) (e : SectorErr) {r : Decoded}
    (h : r.verdict = .corrected) :
    (d.decodedAt c j i x e r).cores[c].vault.chans[j].ocRd = satAdd d.cores[c].vault.chans[j].ocRd 1
      ∧ (d.frm.frun = true → (d.decodedAt c j i x e r).hold.timed
          = d.hold.timed ++ [⟨8, d.clock.clk + 4, d.clock.clk + 27⟩]) := by
  have chan := d.deliver_chan c j i (x.delivered r d.frm.frun) e.inner
  obtain ⟨work, count⟩ := chanWork_correctedAt (d.deliver c j i (x.delivered r d.frm.frun) e.inner) c j x.sector r.data
  rw [chan] at count
  rw [Die.decodedAt, Die.readOutcome_corrected _ _ h, Die.deliver_frm]
  refine ⟨?_, fun frun => ?_⟩
  · split <;> exact count
  · rw [if_pos frun]
    exact congrArg₂ (fun (h : Holds) (k : Clock) => h.timed ++ [⟨8, k.clk + 4, k.clk + 27⟩]) work.hold work.clock

/-- An uncorrectable sector sets `ue_read` and is counted in the scrub report (R239, R254). -/
theorem Die.decodedAt_uncorrectable (d : Die) (c : CoreIx) (j : Fin 16) (i : Nat) (x : Served) (e : SectorErr) {r : Decoded}
    (h : r.verdict = .uncorrectable) :
    let y := (d.decodedAt c j i x e r).cores[c].vault.chans[j]
    y.ueCnt = satAdd d.cores[c].vault.chans[j].ueCnt 1 ∧ y.ueValid = true ∧ bit y.fault ueRead.bit = true := by
  have chan := d.deliver_chan c j i (x.delivered r d.frm.frun) e.inner
  dsimp only
  rw [Die.decodedAt, Die.readOutcome_uncorrectable _ _ h, Die.fault_chan_same, Die.modChan_same, chan]
  exact ⟨rfl, rfl, bit_setBit_same _ (by decide)⟩

end

/-! ### The command -/

section
variable {s : State} {a : CoreRef} {j : Fin 16} {e : SectorErr} {i : Nat} {x : Served} {r : Decoded}

theorem exec_sectorDecode (oldest : s.dies[a.die].toDecode a.core j = some i) (waits : (s.core a).vault.served[i]? = some x)
    (outcome : decodeSector x.data x.pz e = r) :
    exec (.sectorDecode a j e) s
      = .next (if r.verdict = .uncorrectable then (s.modDie a.die (fun d => d.decodedAt a.core j i x e r)).candidate a j x.sector
          else s.modDie a.die (fun d => d.decodedAt a.core j i x e r)) := by
  subst outcome
  show execSectorDecode a j e s = _
  have decoded : s.dies[a.die].decodeServed a.core j i e
      = (s.dies[a.die].decodedAt a.core j i x e (decodeSector x.data x.pz e), some (x.sector, decodeSector x.data x.pz e)) := by
    rw [State.core] at waits
    rw [Die.decodeServed, waits]
    rfl
  rw [execSectorDecode, oldest]
  simp only [decoded]
  rw [s.modDie_congr a.die (fun _ => s.dies[a.die].decodedAt a.core j i x e (decodeSector x.data x.pz e))
    (fun d => d.decodedAt a.core j i x e (decodeSector x.data x.pz e)) rfl]

/-- Every outcome delivers the sector and marks it as decoded. -/
theorem sectorDecode_delivers (oldest : s.dies[a.die].toDecode a.core j = some i) (waits : (s.core a).vault.served[i]? = some x)
    (outcome : decodeSector x.data x.pz e = r) :
    ∃ t, exec (.sectorDecode a j e) s = .next t
      ∧ ChanFlagged a.core j (s.dies[a.die].decodedAt a.core j i x e r) t.dies[a.die]
      ∧ (r.verdict ≠ .uncorrectable → t = s.modDie a.die (fun d => d.decodedAt a.core j i x e r))
      ∧ (t.core a).vault.served[i]? = some (x.delivered r s.dies[a.die].frm.frun) := by
  have flagged : ∃ t, exec (.sectorDecode a j e) s = .next t
      ∧ ChanFlagged a.core j (s.dies[a.die].decodedAt a.core j i x e r) t.dies[a.die]
      ∧ (r.verdict ≠ .uncorrectable → t = s.modDie a.die (fun d => d.decodedAt a.core j i x e r)) := by
    refine ⟨_, exec_sectorDecode oldest waits outcome, ?_, fun h => if_neg h⟩
    have base := s.modDie_die a.die (fun d => d.decodedAt a.core j i x e r)
    split
    · rw [← base]
      exact chanFlagged_candidate _ a j x.sector
    · rw [base]
      exact .refl _ _ _
  obtain ⟨t, ht, work, plain⟩ := flagged
  refine ⟨t, ht, work, plain, ?_⟩
  have served := work.served a.core
  rw [State.core, served]
  exact Die.decodedAt_served waits r

end

/-- Settles O23: by the symbols in error, of which there are none, up to two, up to four, or more. -/
theorem sectorDecodes : Obligations.SectorDecodes := by
  unfold Obligations.SectorDecodes
  intro s a j e i x oldest waits tag w c
  obtain ⟨t, ht, work, plain, served⟩ := sectorDecode_delivers (r := decodeSector x.data x.pz e) oldest waits rfl
  refine ⟨t, _, ht, served, rfl, rfl, rfl, fun few => ?_, fun none_ => ?_, fun one two => ?_, fun three four => ?_⟩
  · have data : (decodeSector x.data x.pz e).data = x.data ∧ (decodeSector x.data x.pz e).pz = false := by
      by_cases h : w = 0
      · rw [decodeSector_clean tag h]
        exact ⟨rfl, rfl⟩
      · rw [decodeSector_corrected tag (by omega) few]
        exact ⟨rfl, rfl⟩
    exact data
  · rw [decodeSector_clean tag none_] at plain
    have clean := plain nofun
    rw [clean]
    refine ⟨?_, ?_, rfl⟩
    · rw [State.modDie_core]
      exact Die.deliver_chan ..
    · rw [State.modDie_die]
      rfl
  · rw [decodeSector_corrected tag one two] at plain
    rw [plain nofun, State.modDie_core, State.modDie_die]
    exact Die.decodedAt_corrected s.dies[a.die] a.core j i x e rfl
  · rw [decodeSector_uncorrectable tag three four] at work ⊢
    obtain ⟨count, valid, fault⟩ :=
      Die.decodedAt_uncorrectable s.dies[a.die] a.core j i x e (r := ⟨.uncorrectable, zeroSector, true⟩) rfl
    exact ⟨rfl, rfl, (work.chan (·.ueCnt) fun _ _ => rfl).trans count, (work.chan (·.ueValid) fun _ _ => rfl).trans valid,
      work.faults _ fault⟩

end Sys2Proof.Machine

/-! # The DRAM is served (O37) -/

namespace Sys2Proof.Machine

/-! ### Steps of which one reaches its end -/

/-- What one step of a list brings about, and every step leaves as it is, holds after the list. -/
theorem foldl_reaches {α β : Type} {R : β → β → Prop} {P : β → Prop} {f : β → α → β} {l : List α} {a : α} {b : β}
    (refl : ∀ b, R b b) (trans : ∀ {x y z}, R x y → R y z → R x z) (keeps : ∀ b x, R b (f b x))
    (lasts : ∀ {x y}, R x y → P x → P y) (hit : ∀ c, R b c → P (f c a)) (ha : a ∈ l) : P (l.foldl f b) := by
  have reach : ∀ (l : List α) (c : β), R c (l.foldl f c) := fun l => by
    induction l with
    | nil => exact refl
    | cons x l ih => exact fun c => trans (keeps c x) (ih _)
  obtain ⟨l1, l2, rfl⟩ := List.append_of_mem ha
  rw [List.foldl_append, List.foldl_cons]
  exact lasts (reach l2 _) (hit _ (reach l1 b))

/-! ### The write-back queue (R242) -/

/-- A core with the sectors of a queue written back. -/
def Core.writtenBack (k : Core) (l : List (Nat × Bytes)) : Core :=
  l.foldl (fun (k : Core) q => { k with vault := k.vault.writeSector q.1 q.2 false }) k

/-- A write-back changes stored bytes and tags alone. -/
theorem Core.writtenBack_rest (k : Core) (l : List (Nat × Bytes)) :
    { k.writtenBack l with vault := { (k.writtenBack l).vault with mem := k.vault.mem, tags := k.vault.tags } } = k := by
  induction l generalizing k with
  | nil => rfl
  | cons q l ih =>
    have rest := ih { k with vault := k.vault.writeSector q.1 q.2 false }
    exact congrArg (fun x : Core => { x with vault := { x.vault with mem := k.vault.mem, tags := k.vault.tags } }) rest

theorem Core.writtenBack_chans (k : Core) (l : List (Nat × Bytes)) : (k.writtenBack l).vault.chans = k.vault.chans :=
  congrArg (·.vault.chans) (k.writtenBack_rest l)

theorem Core.writtenBack_served (k : Core) (l : List (Nat × Bytes)) : (k.writtenBack l).vault.served = k.vault.served :=
  congrArg (·.vault.served) (k.writtenBack_rest l)

/-! ### The start of a round (R242, R245) -/

/-- What the refresh of a channel goes by: its round, the start of its interval and its write-back queue. -/
def Chan.service (x : Chan) : Option Round × Nat × List (Nat × Bytes) := (x.round, x.since, x.wb)

section
variable {c : CoreIx} {j : Fin 16} {d : Die} {kind : RoundKind}

/-- A core whose channel starts a round. -/
def Core.roundStarted (k : Core) (j : Fin 16) (kind : RoundKind) (tc frac : Nat) : Core :=
  (k.writtenBack k.vault.chans[j].wb).modChan j (fun x => { x with wb := [], round := some ⟨kind, tc, frac⟩, since := tc })

theorem Die.startRound_eq (d : Die) (c : CoreIx) (j : Fin 16) (kind : RoundKind) :
    d.startRound c j kind = d.modCore c (·.roundStarted j kind d.clock.tc.toNat d.clock.tcFrac) := rfl

theorem Core.roundStarted_chan (k : Core) (j : Fin 16) (kind : RoundKind) (tc frac : Nat) :
    (k.roundStarted j kind tc frac).vault.chans[j]
      = { k.vault.chans[j] with wb := [], round := some ⟨kind, tc, frac⟩, since := tc } := by
  rw [Core.roundStarted, Core.modChan_same, Core.writtenBack_chans]

theorem chanWork_startRound (c : CoreIx) (j : Fin 16) (d : Die) (kind : RoundKind) : ChanWork c j d (d.startRound c j kind) := by
  rw [Die.startRound_eq]
  refine chanWork_modCore d (Core.writtenBack_served ..) fun i hi => ?_
  rw [Core.roundStarted, Core.modChan_chan, if_neg hi, Core.writtenBack_chans]

theorem Die.startRound_chan (d : Die) (c : CoreIx) (j : Fin 16) (kind : RoundKind) :
    (d.startRound c j kind).cores[c].vault.chans[j]
      = { d.cores[c].vault.chans[j] with wb := [], round := some ⟨kind, d.clock.tc.toNat, d.clock.tcFrac⟩, since := d.clock.tc.toNat } := by
  rw [Die.startRound_eq, Die.modCore_core, Core.roundStarted_chan]

end

/-! ### The patrol scrub (R247, R249) -/

section
variable {k l : Core} {j : Fin 16} {p : BitVec 21}

/-- From k to l the patrol of channel j has come to position p, and what the refresh goes by has stayed, as have the sectors on
their way to the streams and every other channel. -/
structure Patrols (j : Fin 16) (p : BitVec 21) (k l : Core) : Prop where
  served : l.vault.served = k.vault.served
  other : ∀ i : Fin 16, i ≠ j → l.vault.chans[i] = k.vault.chans[i]
  service : l.vault.chans[j].service = k.vault.chans[j].service
  patrol : l.vault.chans[j].patPos = p

theorem patrols_begin (k : Core) (j : Fin 16) {f : Chan → Chan} (service : ∀ x, (f x).service = x.service)
    (patrol : ∀ x, (f x).patPos = x.patPos + 1) : Patrols j (k.vault.chans[j].patPos + 1) k (k.modChan j f) where
  served := rfl
  other := fun i hi => by rw [Core.modChan_chan, if_neg hi]
  service := by rw [Core.modChan_same, service]
  patrol := by rw [Core.modChan_same, patrol]

theorem Patrols.modChan (h : Patrols j p k l) {f : Chan → Chan} (service : ∀ x, (f x).service = x.service)
    (patrol : ∀ x, (f x).patPos = x.patPos) : Patrols j p k (l.modChan j f) where
  served := h.served
  other := fun i hi => by rw [Core.modChan_chan, if_neg hi, h.other i hi]
  service := by rw [Core.modChan_same, service, h.service]
  patrol := by rw [Core.modChan_same, patrol, h.patrol]

theorem Patrols.write (h : Patrols j p k l) (sec : Nat) (data : Bytes) (pz : Bool) :
    Patrols j p k { l with vault := l.vault.writeSector sec data pz } := ⟨h.served, h.other, h.service, h.patrol⟩

/-- A scrub of a channel whose queue is empty moves the patrol on by one sector. -/
theorem patrols_scrubStep (empty : k.vault.chans[j].wb = []) (e : SectorErr) :
    Patrols j (k.vault.chans[j].patPos + 1) k (k.scrubStep j e).1 := by
  unfold Core.scrubStep
  dsimp only
  rw [empty]
  dsimp only [List.find?_nil]
  split
  · refine ((Patrols.modChan (patrols_begin k j ?_ ?_) ?_ ?_).write _ _ _).modChan ?_ ?_ <;> exact fun _ => rfl
  · refine ((Patrols.modChan (patrols_begin k j ?_ ?_) ?_ ?_).write _ _ _).modChan ?_ ?_ <;> exact fun _ => rfl
  · refine (patrols_begin k j ?_ ?_).modChan ?_ ?_ <;> exact fun _ => rfl

end

section
variable {s : State} {a : CoreRef} {j : Fin 16}

theorem State.scrubDue_early (early : s.dies[a.die].clock.tc.toNat < (s.core a).vault.chans[j].scrubAt) (e : SectorErr) :
    s.scrubDue a j e = s := if_pos early

/-- A scrub that is due is done, and its outcome flagged or a repair candidate. -/
theorem State.scrubDue_due (due : ¬s.dies[a.die].clock.tc.toNat < (s.core a).vault.chans[j].scrubAt) (e : SectorErr) :
    ChanFlagged a.core j (s.dies[a.die].modCore a.core (fun k => (k.scrubStep j e).1)) (s.scrubDue a j e).dies[a.die] := by
  have scrubbed (t : State) (h : t = s.modDie a.die (fun d => d.modCore a.core (fun _ => (s.dies[a.die].cores[a.core].scrubStep j e).1))) :
      t.dies[a.die] = s.dies[a.die].modCore a.core (fun k => (k.scrubStep j e).1) := by
    rw [h, State.modDie_die]
    exact Die.modCore_congr _ _ _ _ rfl
  have step := scrubbed _ rfl
  unfold State.scrubDue
  dsimp only
  rw [← step]
  split
  · next early => exact absurd early due
  split
  · split
    · refine ChanFlagged.trans ?_ (chanFlagged_candidate _ a j _)
      rw [State.modDie_die _ _ fun d => d.fault (.chan a.core j) scrubUe]
      exact chanFlagged_fault _ _ _ _
    · split
      · exact chanFlagged_candidate _ a j _
      · exact .refl _ _ _
    · exact .refl _ _ _
  · exact .refl _ _ _

/-- A scrub in a round whose queue is empty leaves what the refresh goes by; a due one moves the patrol on. -/
theorem State.scrubDue_leaves (empty : (s.core a).vault.chans[j].wb = []) (e : SectorErr) :
    ChanWork a.core j s.dies[a.die] (s.scrubDue a j e).dies[a.die]
      ∧ ((s.scrubDue a j e).core a).vault.chans[j].service = (s.core a).vault.chans[j].service
      ∧ ((s.core a).vault.chans[j].scrubAt ≤ s.dies[a.die].clock.tc.toNat →
          ((s.scrubDue a j e).core a).vault.chans[j].patPos = (s.core a).vault.chans[j].patPos + 1) := by
  by_cases early : s.dies[a.die].clock.tc.toNat < (s.core a).vault.chans[j].scrubAt
  · rw [State.scrubDue_early early]
    exact ⟨.refl _ _ _, rfl, fun due => absurd early (by omega)⟩
  · obtain ⟨served, other, service, patrol⟩ := patrols_scrubStep empty e
    have flagged := State.scrubDue_due early e
    have scrubbed := Die.modCore_core s.dies[a.die] a.core (fun k => (k.scrubStep j e).1)
    have work : ChanWork a.core j s.dies[a.die] (s.dies[a.die].modCore a.core (fun k => (k.scrubStep j e).1)) :=
      chanWork_modCore (f := fun k => (k.scrubStep j e).1) s.dies[a.die] served other
    refine ⟨work.trans flagged.toChanWork, ?_, fun _ => ?_⟩
    · show (s.scrubDue a j e).dies[a.die].cores[a.core].vault.chans[j].service = _
      rw [flagged.chan Chan.service fun _ _ => rfl, scrubbed]
      exact service
    · show (s.scrubDue a j e).dies[a.die].cores[a.core].vault.chans[j].patPos = _
      rw [flagged.chan Chan.patPos fun _ _ => rfl, scrubbed]
      exact patrol

end

/-! ### A round of one channel -/

section
variable {n : DieIx} {ch : ChanIx} {kind : RoundKind} {s : State}

/-- A round of the kind has started on a channel in the present count. -/
def Started (n : DieIx) (kind : RoundKind) (q : ChanIx) (s : State) : Prop :=
  (s.dies[n].cores[chanCore q]).vault.chans[chanIn q].service
    = (some ⟨kind, s.dies[n].clock.tc.toNat, s.dies[n].clock.tcFrac⟩, s.dies[n].clock.tc.toNat, [])

/-- What has started, field by field. -/
theorem Started.fields {q : ChanIx} {k : Clock} (h : Started n kind q s) (clock : s.dies[n].clock = k) :
    let z := (s.dies[n].cores[chanCore q]).vault.chans[chanIn q]
    z.round = some ⟨kind, k.tc.toNat, k.tcFrac⟩ ∧ z.since = k.tc.toNat ∧ z.wb = [] := by
  subst clock
  obtain ⟨round, rest⟩ := Prod.mk.inj h
  obtain ⟨since, wb⟩ := Prod.mk.inj rest
  exact ⟨round, since, wb⟩

theorem State.round_works (s : State) (n : DieIx) (ch : ChanIx) (kind : RoundKind) (e : SectorErr) :
    let x := (s.core ⟨n, chanCore ch⟩).vault.chans[chanIn ch]
    ChanWork (chanCore ch) (chanIn ch) s.dies[n] (s.round n ch kind e).dies[n]
      ∧ Started n kind ch (s.round n ch kind e)
      ∧ (x.scrubAt ≤ s.dies[n].clock.tc.toNat →
          ((s.round n ch kind e).core ⟨n, chanCore ch⟩).vault.chans[chanIn ch].patPos = x.patPos + 1) := by
  have die := s.modDie_die n (fun d => d.startRound (chanCore ch) (chanIn ch) kind)
  have chan := Die.startRound_chan s.dies[n] (chanCore ch) (chanIn ch) kind
  have start := chanWork_startRound (chanCore ch) (chanIn ch) s.dies[n] kind
  rw [← die] at chan start
  obtain ⟨work, service, patrol⟩ := State.scrubDue_leaves (a := ⟨n, chanCore ch⟩) (congrArg Chan.wb chan) e
  refine ⟨start.trans work, ?_, fun due => ?_⟩
  · have clock := (start.trans work).clock
    unfold Started State.round
    rw [clock]
    exact service.trans (congrArg Chan.service chan)
  · refine (patrol ?_).trans (congrArg (·.patPos + 1) chan)
    exact (congrArg Chan.scrubAt chan).trans_le (due.trans_eq (congrArg (·.tc.toNat) start.clock.symm))

/-- Without a scrub that is due a round changes its core alone. -/
theorem State.round_early (early : s.dies[n].clock.tc.toNat < (s.core ⟨n, chanCore ch⟩).vault.chans[chanIn ch].scrubAt) (e : SectorErr) :
    s.round n ch kind e
      = s.modCore ⟨n, chanCore ch⟩ (·.roundStarted (chanIn ch) kind s.dies[n].clock.tc.toNat s.dies[n].clock.tcFrac) := by
  have die := s.modDie_die n (fun d => d.startRound (chanCore ch) (chanIn ch) kind)
  have chan := Die.startRound_chan s.dies[n] (chanCore ch) (chanIn ch) kind
  have start := chanWork_startRound (chanCore ch) (chanIn ch) s.dies[n] kind
  rw [← die] at chan start
  unfold State.round
  rw [State.scrubDue_early (a := ⟨n, chanCore ch⟩)
    ((congrArg (·.tc.toNat) start.clock).trans_lt (early.trans_eq (congrArg Chan.scrubAt chan).symm))]
  exact s.modDie_congr n _ _ rfl

/-- What the statement says of a round that starts. -/
theorem roundStarts_round (s : State) (n : DieIx) (ch : ChanIx) (kind : RoundKind) (e : SectorErr) :
    RoundStarts n ch kind s (s.round n ch kind e) := by
  obtain ⟨work, started, patrol⟩ := s.round_works n ch kind e
  obtain ⟨round, since, wb⟩ := started.fields work.clock
  refine ⟨round, since, wb, patrol, fun early => ?_⟩
  rw [State.round_early early]
  refine ⟨onlyCore_modCore s _ _, ?_, fun empty => ?_, fun sec data queued size wf => ?_⟩
  · rw [State.modCore_same, Core.roundStarted_chan]
  · rw [State.modCore_same, Core.roundStarted, empty]
    exact ⟨rfl, rfl⟩
  · rw [State.modCore_same, Core.roundStarted, queued]
    exact Vault.readSector_writeSector _ sec data false wf size

/-! ### Rounds of every channel -/

/-- From s to t rounds of a kind have started on die n. -/
structure RoundsStart (n : DieIx) (kind : RoundKind) (s t : State) : Prop where
  clock : t.dies[n].clock = s.dies[n].clock
  frm : t.dies[n].frm = s.dies[n].frm
  forced : t.dies[n].forced = s.dies[n].forced
  started : ∀ q, Started n kind q s → Started n kind q t

theorem RoundsStart.trans {u t : State} (h : RoundsStart n kind s t) (g : RoundsStart n kind t u) : RoundsStart n kind s u :=
  ⟨g.clock.trans h.clock, g.frm.trans h.frm, g.forced.trans h.forced, fun q hq => g.started q (h.started q hq)⟩

theorem chanIx_ext {p q : ChanIx} (core : chanCore p = chanCore q) (chan : chanIn p = chanIn q) : p = q := by
  have hc : (Fin.ofNat 32 (p.val / 16)).val = (Fin.ofNat 32 (q.val / 16)).val := congrArg Fin.val core
  have hi : (Fin.ofNat 16 p.val).val = (Fin.ofNat 16 q.val).val := congrArg Fin.val chan
  simp only [Fin.val_ofNat] at hc hi
  exact Fin.ext (by omega)

theorem roundsStart_round (s : State) (n : DieIx) (ch : ChanIx) (kind : RoundKind) (e : SectorErr) :
    RoundsStart n kind s (s.round n ch kind e) := by
  obtain ⟨work, started, -⟩ := s.round_works n ch kind e
  refine ⟨work.clock, work.frm, work.forced, fun q hq => ?_⟩
  by_cases same : q = ch
  · rw [same]
    exact started
  · unfold Started at hq ⊢
    rw [work.clock, work.other _ _ fun ⟨core, chan⟩ => same (chanIx_ext core chan)]
    exact hq

/-- A round starts on every channel of a die. -/
@[irreducible] def State.allRounds (s : State) (n : DieIx) (kind : RoundKind) (errs : List (ChanIx × SectorErr)) : State :=
  (List.finRange 512).foldl (fun s ch => s.round n ch kind (errFor errs ch)) s

theorem roundsStart_allRounds (s : State) (n : DieIx) (kind : RoundKind) (errs : List (ChanIx × SectorErr)) :
    RoundsStart n kind s (s.allRounds n kind errs) := by
  unfold State.allRounds
  generalize List.finRange 512 = l
  induction l generalizing s with
  | nil => exact ⟨rfl, rfl, rfl, fun _ h => h⟩
  | cons ch l ih => exact (roundsStart_round s n ch kind _).trans (ih _)

theorem started_of_mem {l : List ChanIx} {q : ChanIx} (hq : q ∈ l) (s : State) (n : DieIx) (kind : RoundKind)
    (errs : List (ChanIx × SectorErr)) : Started n kind q (l.foldl (fun s ch => s.round n ch kind (errFor errs ch)) s) :=
  foldl_reaches (R := RoundsStart n kind) (fun _ => ⟨rfl, rfl, rfl, fun _ h => h⟩) RoundsStart.trans
    (fun t ch => roundsStart_round t n ch kind _) (fun h => h.started q) (fun t _ => (t.round_works n q kind _).2.1) hq

/-- Every channel has started, as the statement says it. -/
theorem State.allRounds_service (s : State) (n : DieIx) (kind : RoundKind) (errs : List (ChanIx × SectorErr)) (q : ChanIx) :
    let z := ((s.allRounds n kind errs).dies[n].cores[chanCore q]).vault.chans[chanIn q]
    z.round = some ⟨kind, s.dies[n].clock.tc.toNat, s.dies[n].clock.tcFrac⟩ ∧ z.since = s.dies[n].clock.tc.toNat ∧ z.wb = [] := by
  have started : Started n kind q (s.allRounds n kind errs) := by
    unfold State.allRounds
    exact started_of_mem (List.mem_finRange q) s n kind errs
  exact started.fields (roundsStart_allRounds s n kind errs).clock

end

/-! ### Rounds that the counter calls for (R245, R246) -/

section
variable {s : State} {n : DieIx} {ch : ChanIx} {err : SectorErr}

theorem exec_windowRound (on : s.dies[n].dramOn = true) (start : s.dies[n].windowStart (chanCore ch) (chanIn ch) = true)
    (executes : (s.cycleStart n).dies[n].executes = true) :
    exec (.refreshWindowRound n ch err) s = .next (s.windowBegins n ch err) :=
  congrArg Host.Outcome.next (if_pos (by rw [on, start, executes]; rfl))

theorem exec_windowRound_not (no : s.dies[n].windowStart (chanCore ch) (chanIn ch) = false ∨ (s.cycleStart n).dies[n].executes = false) :
    exec (.refreshWindowRound n ch err) s = .next s := by
  refine congrArg Host.Outcome.next (if_neg ?_)
  rw [Bool.not_eq_true, Bool.and_eq_false_iff, Bool.and_eq_false_iff]
  exact no.imp_left .inl

theorem State.windowBegins_free (free : (s.dies[n].cores[chanCore ch]).vault.chans[chanIn ch].round = none) :
    s.windowBegins n ch err = s.round n ch .window err := by rw [State.windowBegins, free]

/-- A window that begins in a round restarts the channel's interval alone. -/
theorem State.windowBegins_running (running : (s.dies[n].cores[chanCore ch]).vault.chans[chanIn ch].round ≠ none) :
    s.windowBegins n ch err
      = s.modCore ⟨n, chanCore ch⟩ (·.modChan (chanIn ch) (fun x => { x with since := s.dies[n].clock.tc.toNat })) := by
  obtain ⟨r, hr⟩ := Option.ne_none_iff_exists'.1 running
  rw [State.windowBegins, hr]
  exact s.modDie_congr n _ _ rfl

theorem exec_intervalRound (idle : s.dies[n].frm.frun = false) (on : s.dies[n].dramOn = true)
    (out : s.dies[n].intervalOut (chanCore ch) (chanIn ch) = true)
    (free : (s.dies[n].cores[chanCore ch]).vault.chans[chanIn ch].round = none) :
    exec (.refreshIntervalRound n ch err) s = .next (s.round n ch .outside err) :=
  congrArg Host.Outcome.next (if_pos (by rw [idle, on, out, free]; rfl))

/-- Before a tick every channel of the die starts a round, once. -/
theorem exec_preTickRefresh (errs : List (ChanIx × SectorErr)) (idle : s.dies[n].frm.frun = false) (on : s.dies[n].dramOn = true)
    (near : s.dies[n].beforeTick = true) (undone : s.dies[n].frm.preDone ≠ some s.dies[n].frm.nextTick) :
    exec (.preTickRefresh n errs) s
      = .next ((s.modDie n (fun d => { d with frm := { d.frm with preDone := some d.frm.nextTick } })).allRounds n .outside errs) := by
  unfold State.allRounds
  exact congrArg Host.Outcome.next (if_pos (by rw [Die.preTick, idle, on, near, decide_eq_true undone]; rfl))

theorem exec_preTickRefresh_done (errs : List (ChanIx × SectorErr)) (done : s.dies[n].frm.preDone = some s.dies[n].frm.nextTick) :
    exec (.preTickRefresh n errs) s = .next s :=
  congrArg Host.Outcome.next (if_neg (by rw [Die.preTick, done]; simp))

theorem Die.beforeTick_of (d : Die) (near : d.frm.nextTick ≤ d.clock.tc.toNat + 325) (before : d.clock.tc.toNat < d.frm.nextTick) :
    d.beforeTick = true := by rw [Die.beforeTick, decide_eq_true before, Bool.and_true]; exact decide_eq_true near

/-! ### Forced rounds (R246) -/

theorem State.forcedBegins_early {f : Forced} (waits : s.dies[n].forced = some f) (early : s.dies[n].clock.clk < f.start) :
    s.forcedBegins n = s := by
  rw [State.forcedBegins, waits]
  exact if_pos early

theorem State.forcedBegins_due {f : Forced} (waits : s.dies[n].forced = some f) (frun : s.dies[n].frm.frun = true)
    (due : f.start ≤ s.dies[n].clock.clk) :
    s.forcedBegins n = (s.modDie n (fun d => { d with forced := none })).allRounds n .forced f.errs := by
  unfold State.forcedBegins State.allRounds
  simp only [waits, Nat.not_lt.2 due, frun, if_true, if_false]

/-- The die on which a forced round is on its way, with the hold of its cause. -/
def Die.forcing (d : Die) (errs : List (ChanIx × SectorErr)) : Die :=
  { d with forced := some ⟨d.clock.clk + 4, errs⟩
           hold := { d.hold with timed := d.hold.timed ++ [⟨9, d.clock.clk + 4, openEnd⟩] } }

/-- The fault bit of a forced round on a channel: `t_refr` at a double rate that the plan does not declare, else `refr_late`. -/
def Die.forcedBit (d : Die) (j : Fin 16) : FBit := if bit d.dbl (j.val / 4) && !((d.plan.map (·.double)).getD false) then trefr else refrLate

theorem Die.forcedFault_eq (d : Die) (c : CoreIx) (j : Fin 16) :
    ∃ q l o n, d.forcedFault c j = d.chanBit c j (d.forcedBit j).bit q l o n := by
  unfold Die.forcedFault
  dsimp only
  split
  · exact d.setFault_chan c j _
  · exact d.fault_chan c j _

theorem exec_forcedRefresh (errs : List (ChanIx × SectorErr)) (due : s.dies[n].forcedDue ch = true) :
    exec (.forcedRefresh n ch errs) s
      = .next (s.modDie n (fun d => (d.forcing errs).forcedFault (chanCore ch) (chanIn ch))) := by
  refine congrArg Host.Outcome.next ((if_pos due).trans ?_)
  exact s.modDie_congr n _ _ rfl

/-! ### The end of a round (R244, R246) -/

theorem Die.roundOver_iff {d : Die} {c : CoreIx} {j : Fin 16} {r : Round} (h : d.cores[c].vault.chans[j].round = some r) :
    d.roundOver c j = true
      ↔ r.start + 300 < d.clock.tc.toNat ∨ (d.clock.tc.toNat = r.start + 300 ∧ r.frac ≤ d.clock.tcFrac) := by
  rw [Die.roundOver, h]
  simp only [roundCounts, Bool.or_eq_true, Bool.and_eq_true, decide_eq_true_eq, beq_iff_eq]
  exact or_congr_left decide_eq_true_iff

theorem exec_roundEnd_early (early : s.dies[n].roundOver (chanCore ch) (chanIn ch) = false) :
    exec (.refreshRoundEnd n ch) s = .next s := by
  have idle : Die.roundEnd (chanCore ch) (chanIn ch) s.dies[n] = s.dies[n] := if_neg (by rw [early]; decide)
  show Host.Outcome.next (if s.runs n then _ else s) = _
  rw [s.modDie_self n _ idle, ite_self]

/-- A round that is over is gone, and with the last forced one the hold of its cause may end. -/
theorem Die.roundEnd_over {d : Die} {c : CoreIx} {j : Fin 16} (ended : d.roundOver c j = true) :
    ∃ h, Die.roundEnd c j d = { d.modCore c (·.modChan j (fun x => { x with round := none })) with hold := h } := by
  unfold Die.roundEnd
  rw [if_pos ended]
  dsimp only
  split
  · exact ⟨_, rfl⟩
  · exact ⟨d.hold, rfl⟩

end

/-! ### Temperatures of a layer (R244, R362) -/

/-- A sensor's value as it is kept: at the nearest end of its range. -/
def keptTemp (x : Int) : Int := max (-320) (min 1200 x)

theorem lt_keptTemp {x b : Int} (hb : b < 1200) (hb' : -320 ≤ b) : b < keptTemp x ↔ b < x := by
  unfold keptTemp
  omega

theorem keptTemp_le {x : Int} : keptTemp x ≤ 664 ↔ x ≤ 664 := by
  unfold keptTemp
  omega

/-- The temperatures of a die with one sensor of a layer read. -/
def tempRead (l k : Fin 4) (x : Int) (v : Vector Int 16) : Vector Int 16 := vupd v (Fin.ofNat 16 (4 * l.val + k.val)) (fun _ => keptTemp x)

/-- A die with one sensor of a layer read. -/
def Die.sensed (d : Die) (l k : Fin 4) (x : Int) : Die := { d with temps := tempRead l k x d.temps }

/-- A die with the four sensors of a layer read. -/
def Die.layerSensed (d : Die) (l : Fin 4) (x0 x1 x2 x3 : Int) : Die :=
  { d with temps := tempRead l 3 x3 (tempRead l 2 x2 (tempRead l 1 x1 (tempRead l 0 x0 d.temps))) }

/-- The hub die as it flags a sensor's value out of range, recorded once per sensor. -/
def Hub.sensorOut (h : Hub) (x : SensorId) : Hub :=
  let h := h.setMrg sensBad
  if h.sens.badSeen.contains x then h
  else Hub.event { h with sens := { h.sens with badSeen := x :: h.sens.badSeen } } 3 0x13 (sensorUnit x) 362
    (BitVec.ofNat 8 sensBad.bit) (faultDet h.fault 0)

theorem Hub.sensorOut_fault (h : Hub) (x : SensorId) : (h.sensorOut x).fault = setBit h.fault sensBad.bit := by
  unfold Hub.sensorOut
  dsimp only
  split <;> rfl

/-- A sensor that is read keeps its value on its die; the hub die changes where the value lies outside the range, and then
`sens_bad` is set. -/
theorem State.sensorRead_dram (s : State) (n : DieIx) (l k : Fin 4) (x : Int) :
    ∃ h, s.sensorRead (.dram n l k) x = { s.modDie n (·.sensed l k x) with hub := h }
      ∧ (-320 ≤ x ∧ x ≤ 1200 → h = s.hub) ∧ (x < -320 ∨ 1200 < x → bit h.fault sensBad.bit = true)
      ∧ (bit s.hub.fault sensBad.bit = true → bit h.fault sensBad.bit = true) := by
  by_cases out : x < -320 ∨ 1200 < x
  · have read : s.sensorRead (.dram n l k) x = (s.modDie n (·.sensed l k x)).modHub (·.sensorOut (.dram n l k)) :=
      if_pos (by simpa using out)
    have fault : bit (s.hub.sensorOut (.dram n l k)).fault sensBad.bit = true := by
      rw [Hub.sensorOut_fault]
      exact bit_setBit_same _ (by decide)
    exact ⟨_, read, fun inside => absurd out (by omega), fun _ => fault, fun _ => fault⟩
  · have read : s.sensorRead (.dram n l k) x = s.modDie n (·.sensed l k x) := if_neg (by simpa using out)
    exact ⟨s.hub, read, fun _ => rfl, fun h => absurd h out, id⟩

/-- The four sensors of a layer are read. -/
theorem State.layerRead (s : State) (n : DieIx) (l : Fin 4) (x0 x1 x2 x3 : Int) :
    ∃ h, (((s.sensorRead (.dram n l 0) x0).sensorRead (.dram n l 1) x1).sensorRead (.dram n l 2) x2).sensorRead (.dram n l 3) x3
        = { s.modDie n (·.layerSensed l x0 x1 x2 x3) with hub := h }
      ∧ ((∀ x ∈ [x0, x1, x2, x3], -320 ≤ x ∧ x ≤ 1200) → h = s.hub)
      ∧ ((∃ x ∈ [x0, x1, x2, x3], x < -320 ∨ 1200 < x) → bit h.fault sensBad.bit = true) := by
  obtain ⟨h0, e0, in0, out0, -⟩ := s.sensorRead_dram n l 0 x0
  obtain ⟨h1, e1, in1, out1, keep1⟩ := { s.modDie n (·.sensed l 0 x0) with hub := h0 }.sensorRead_dram n l 1 x1
  obtain ⟨h2, e2, in2, out2, keep2⟩ := { s.modDie n (fun d => (d.sensed l 0 x0).sensed l 1 x1) with hub := h1 }.sensorRead_dram n l 2 x2
  obtain ⟨h3, e3, in3, out3, keep3⟩ :=
    { s.modDie n (fun d => ((d.sensed l 0 x0).sensed l 1 x1).sensed l 2 x2) with hub := h2 }.sensorRead_dram n l 3 x3
  have both (f g : Die → Die) (h h' : Hub) : { State.modDie { s.modDie n f with hub := h } n g with hub := h' }
      = { s.modDie n (fun d => g (f d)) with hub := h' } :=
    congrArg (fun t : State => { t with hub := h' }) (s.modDie_modDie n f g)
  rw [both] at e1 e2 e3
  refine ⟨h3, by rw [e0, e1, e2, e3]; rfl, fun inside => ?_, fun ⟨x, hx, outside⟩ => ?_⟩
  · rw [List.forall_mem_cons, List.forall_mem_cons, List.forall_mem_cons, List.forall_mem_singleton] at inside
    obtain ⟨i0, i1, i2, i3⟩ := inside
    rw [in3 i3, in2 i2, in1 i1, in0 i0]
  · simp only [List.mem_cons, List.not_mem_nil, or_false] at hx
    obtain rfl | rfl | rfl | rfl := hx
    · exact keep3 (keep2 (keep1 (out0 outside)))
    · exact keep3 (keep2 (out1 outside))
    · exact keep3 (out2 outside)
    · exact out3 outside

theorem sensor_eq_iff : ∀ (i : Fin 16) (l k : Fin 4), i = Fin.ofNat 16 (4 * l.val + k.val) ↔ i.val / 4 = l.val ∧ i.val % 4 = k.val := by
  decide

/-- Each sensor of the layer reads its own value, and every other sensor as before. -/
theorem Die.layerSensed_temps (d : Die) (l : Fin 4) (x0 x1 x2 x3 : Int) (i : Fin 16) :
    (d.layerSensed l x0 x1 x2 x3).temps[i]
      = if i.val / 4 = l.val then keptTemp ([x0, x1, x2, x3][i.val % 4]?.getD 0) else d.temps[i] := by
  simp only [Die.layerSensed, tempRead, vupd_get, sensor_eq_iff]
  by_cases layer : i.val / 4 = l.val
  · have four : i.val % 4 < 4 := Nat.mod_lt _ (by decide)
    rw [if_pos layer]
    interval_cases h : i.val % 4 <;> simp [layer]
  · simp only [layer, false_and, if_false]

theorem Die.layerSensed_list (d : Die) (l : Fin 4) (x0 x1 x2 x3 : Int) (k : Fin 4) :
    (d.layerSensed l x0 x1 x2 x3).temps.toList.getD (4 * l.val + k.val) 0 = keptTemp ([x0, x1, x2, x3][k.val]) := by
  have lt : 4 * l.val + k.val < 16 := by omega
  have at_ := d.layerSensed_temps l x0 x1 x2 x3 ⟨4 * l.val + k.val, lt⟩
  rw [if_pos (by dsimp only; omega), show (4 * l.val + k.val) % 4 = k.val by omega] at at_
  rw [List.getD_eq_getElem?_getD, List.getElem?_eq_getElem (by rw [Vector.length_toList]; exact lt), Option.getD_some,
    Vector.getElem_toList]
  refine at_.trans ?_
  rw [List.getElem?_eq_getElem (by exact k.isLt), Option.getD_some]

/-! ### Hot layers (R244, R253) -/

/-- From d to e channels are flagged: sensors and rates stay, and no fault bit of a channel goes. -/
structure HotWork (d e : Die) : Prop where
  dbl : e.dbl = d.dbl
  temps : e.temps = d.temps
  faults : ∀ (c : CoreIx) (j : Fin 16) (b : Nat), bit d.cores[c].vault.chans[j].fault b = true → bit e.cores[c].vault.chans[j].fault b = true

theorem HotWork.refl (d : Die) : HotWork d d := ⟨rfl, rfl, fun _ _ _ h => h⟩

theorem HotWork.trans {d e f : Die} (h : HotWork d e) (g : HotWork e f) : HotWork d f :=
  ⟨g.dbl.trans h.dbl, g.temps.trans h.temps, fun c j b hb => g.faults c j b (h.faults c j b hb)⟩

theorem hotWork_fault (d : Die) (c : CoreIx) (j : Fin 16) (b : FBit) : HotWork d (d.fault (.chan c j) b) := by
  have flagged := chanFlagged_fault c j d b
  obtain ⟨q, l, o, n, h⟩ := d.fault_chan c j b
  refine ⟨by rw [h]; rfl, by rw [h]; rfl, fun x i m hm => ?_⟩
  by_cases same : x = c ∧ i = j
  · obtain ⟨rfl, rfl⟩ := same
    exact flagged.faults m hm
  · rw [flagged.other x i same]
    exact hm

/-- The channels of a layer on one core are flagged. -/
def Die.layerHot (l : Fin 4) (d : Die) (c : CoreIx) : Die := (layerChans l).foldl (fun d j => d.fault (.chan c j) dramHot) d

theorem HotWork.foldl {α : Type} {f : Die → α → Die} (h : ∀ d a, HotWork d (f d a)) (l : List α) (d : Die) : HotWork d (l.foldl f d) := by
  induction l generalizing d with
  | nil => exact .refl d
  | cons a l ih => exact (h d a).trans (ih _)

theorem hotWork_layerHot (l : Fin 4) (d : Die) (c : CoreIx) : HotWork d (d.layerHot l c) :=
  .foldl (fun d j => hotWork_fault d c j dramHot) (layerChans l) d

theorem Die.layerHot_bit {l : Fin 4} {j : Fin 16} (hj : j.val / 4 = l.val) (d : Die) (c : CoreIx) :
    bit (d.layerHot l c).cores[c].vault.chans[j].fault dramHot.bit = true := by
  have mem : j ∈ layerChans l := List.mem_filter.2 ⟨List.mem_finRange j, by simpa using hj⟩
  refine foldl_reaches (R := HotWork) (P := fun e => bit e.cores[c].vault.chans[j].fault dramHot.bit = true) .refl .trans
    (fun d j => hotWork_fault d c j dramHot) (fun h => h.faults c j _) (fun e _ => ?_) mem
  rw [Die.fault_chan_same]
  exact bit_setBit_same _ (by decide)

/-- Every channel of a hot layer takes `dram_hot`. -/
theorem Die.hotLayer (l : Fin 4) (d : Die) :
    HotWork d (d.forCores (Die.layerHot l))
      ∧ ∀ (c : CoreIx) (j : Fin 16), j.val / 4 = l.val →
          bit (d.forCores (Die.layerHot l)).cores[c].vault.chans[j].fault dramHot.bit = true := by
  unfold Die.forCores
  exact ⟨.foldl (hotWork_layerHot l) _ d, fun c j hj =>
    foldl_reaches (R := HotWork) (P := fun e => bit e.cores[c].vault.chans[j].fault dramHot.bit = true) .refl .trans
      (hotWork_layerHot l) (fun h => h.faults c j _) (fun e _ => e.layerHot_bit hj c) (List.mem_finRange c)⟩

/-! ### The comparison (R244) -/

/-- The rates of a die's layers after the comparison of one of them with values xs. -/
def rateAfter (dbl : BitVec 4) (l : Fin 4) (xs : List Int) : BitVec 4 :=
  if xs.any (fun x => decide (680 < x)) then setBit dbl l.val else if xs.all (fun x => decide (x ≤ 664)) then clrBit dbl l.val else dbl

theorem Die.rateCompare_eq (d : Die) (l : Fin 4) (x0 x1 x2 x3 : Int) :
    Die.rateCompare l (d.layerSensed l x0 x1 x2 x3)
      = let xs := [x0, x1, x2, x3]
        let e := { d.layerSensed l x0 x1 x2 x3 with dbl := rateAfter d.dbl l xs }
        if xs.any (fun x => decide (760 < x)) then e.forCores (Die.layerHot l) else e := by
  have t0 := d.layerSensed_list l x0 x1 x2 x3 0
  have t1 := d.layerSensed_list l x0 x1 x2 x3 1
  have t2 := d.layerSensed_list l x0 x1 x2 x3 2
  have t3 := d.layerSensed_list l x0 x1 x2 x3 3
  have kept : [(d.layerSensed l x0 x1 x2 x3).temps.toList.getD (4 * l.val + 0) 0, (d.layerSensed l x0 x1 x2 x3).temps.toList.getD (4 * l.val + 1) 0,
      (d.layerSensed l x0 x1 x2 x3).temps.toList.getD (4 * l.val + 2) 0, (d.layerSensed l x0 x1 x2 x3).temps.toList.getD (4 * l.val + 3) 0]
      = [x0, x1, x2, x3].map keptTemp := by
    simp only [List.map_cons, List.map_nil]
    exact congr (congrArg _ t0) (congr (congrArg _ t1) (congr (congrArg _ t2) (congrArg (· :: []) t3)))
  unfold Die.rateCompare
  dsimp only
  rw [kept]
  have hot {x b : Int} (h1 : b < 1200) (h2 : -320 ≤ b) := lt_keptTemp (x := x) h1 h2
  simp only [List.any_map, List.all_map, Function.comp_def, keptTemp_le, hot (b := 680) (by decide) (by decide),
    hot (b := 760) (by decide) (by decide)]
  rfl

theorem bit_setBit_ne {w m n : Nat} (x : BitVec w) (h : m ≠ n) : bit (setBit x n) m = bit x m := by
  simp only [bit, setBit, BitVec.getLsbD_or, BitVec.getLsbD_ofNat, Nat.testBit_two_pow_of_ne h.symm, Bool.and_false, Bool.or_false]

theorem bit_clrBit_ne {w m n : Nat} (x : BitVec w) (hm : m < w) (h : m ≠ n) : bit (clrBit x n) m = bit x m := by
  simp only [bit, clrBit, BitVec.getLsbD_and, BitVec.getLsbD_not, BitVec.getLsbD_ofNat, Nat.testBit_two_pow_of_ne h.symm, hm,
    decide_true, Bool.and_false, Bool.not_false, Bool.and_true]

theorem bit_clrBit_same {w n : Nat} (x : BitVec w) (h : n < w) : bit (clrBit x n) n = false := by
  simp only [bit, clrBit, BitVec.getLsbD_and, BitVec.getLsbD_not, BitVec.getLsbD_ofNat, Nat.testBit_two_pow_self, h,
    decide_true, Bool.and_true, Bool.not_true, Bool.and_false]

section
variable {dbl : BitVec 4} {l : Fin 4} {xs : List Int}

theorem rateAfter_other {m : Fin 4} (other : m ≠ l) : bit (rateAfter dbl l xs) m.val = bit dbl m.val := by
  have ne : m.val ≠ l.val := fun h => other (Fin.ext h)
  unfold rateAfter
  split
  · exact bit_setBit_ne dbl ne
  · split
    · exact bit_clrBit_ne dbl m.isLt ne
    · rfl

theorem rateAfter_warm (warm : ∃ x ∈ xs, 680 < x) : bit (rateAfter dbl l xs) l.val = true := by
  rw [rateAfter, if_pos (List.any_eq_true.2 (by simpa using warm))]
  exact bit_setBit_same dbl l.isLt

theorem rateAfter_notWarm (mild : ∀ x ∈ xs, x ≤ 680) :
    rateAfter dbl l xs = if xs.all (fun x => decide (x ≤ 664)) then clrBit dbl l.val else dbl :=
  if_neg (by simpa using mild)

theorem rateAfter_cool (cool : ∀ x ∈ xs, x ≤ 664) : bit (rateAfter dbl l xs) l.val = false := by
  rw [rateAfter_notWarm fun x hx => (cool x hx).trans (by decide), if_pos (List.all_eq_true.2 (by simpa using cool))]
  exact bit_clrBit_same dbl l.isLt

theorem rateAfter_between (mild : ∀ x ∈ xs, x ≤ 680) (some_ : ∃ x ∈ xs, 664 < x) : rateAfter dbl l xs = dbl := by
  rw [rateAfter_notWarm mild, if_neg (by simpa using some_)]

end

/-- DRAM_RATE_COMPARE on a die whose controllers run. -/
theorem exec_rateCompare {s : State} {n : DieIx} (l : Fin 4) (x0 x1 x2 x3 : Int) (high : s.hub.board.rstLow = false)
    (on : s.dies[n].pow.vcoreOn = true) :
    ∃ h, exec (.dramRateCompare n l x0 x1 x2 x3) s
        = .next { s.modDie n (fun d => Die.rateCompare l (d.layerSensed l x0 x1 x2 x3)) with hub := h }
      ∧ ((∀ x ∈ [x0, x1, x2, x3], -320 ≤ x ∧ x ≤ 1200) → h = s.hub)
      ∧ ((∃ x ∈ [x0, x1, x2, x3], x < -320 ∨ 1200 < x) → bit h.fault sensBad.bit = true) := by
  obtain ⟨h, read, inside, outside⟩ := s.layerRead n l x0 x1 x2 x3
  refine ⟨h, ?_, inside, outside⟩
  have compared : s.rateCompare n l x0 x1 x2 x3 = { s.modDie n (fun d => Die.rateCompare l (d.layerSensed l x0 x1 x2 x3)) with hub := h } := by
    unfold State.rateCompare
    rw [read]
    have same : (s.modDie n (·.layerSensed l x0 x1 x2 x3)).modDie n (fun d => if d.pow.vcoreOn then Die.rateCompare l d else d)
        = s.modDie n (fun d => Die.rateCompare l (d.layerSensed l x0 x1 x2 x3)) := by
      rw [State.modDie_modDie]
      exact s.modDie_congr n _ _ (if_pos on)
    exact congrArg (fun t : State => { t with hub := h }) same
  exact (act_runs _ high).trans (congrArg Host.Outcome.next compared)

/-! ### The bulk clear (R250) -/

section
variable {s : State} {n : DieIx}

theorem exec_bulkClear (clearing : s.dies[n].pow.clearing = true) (due : s.dies[n].pow.clearAt + 550000 ≤ s.now) :
    exec (.bulkClearComplete n) s = .next (s.modDie n Die.clearDone) := by
  refine congrArg Host.Outcome.next (if_pos ?_)
  rw [clearing, Bool.true_and]
  exact decide_eq_true due

theorem exec_bulkClear_early (early : s.now < s.dies[n].pow.clearAt + 550000) : exec (.bulkClearComplete n) s = .next s := by
  refine congrArg Host.Outcome.next (if_neg ?_)
  rw [decide_eq_false (show ¬s.dies[n].pow.clearAt + clearCounts ≤ s.now from Nat.not_le.2 early), Bool.and_false]
  decide

/-- What a cleared die's cores hold. -/
theorem Die.clearDone_core (d : Die) (c : CoreIx) :
    d.clearDone.cores[c] = { d.cores[c] with vault := d.cores[c].vault.clear } := Vector.getElem_map ..

theorem Vault.clear_chan (v : Vault) (j : Fin 16) : v.clear.chans[j] = { v.chans[j] with wb := [] } := Vector.getElem_map ..

end

/-! ### The statement, part by part -/

section
variable {s : State} {n : DieIx} {ch : ChanIx}

theorem windowRound_restarts {err : SectorErr} (on : s.dies[n].dramOn = true)
    (running : (s.dies[n].cores[chanCore ch]).vault.chans[chanIn ch].round ≠ none)
    (start : s.dies[n].windowStart (chanCore ch) (chanIn ch) = true) (executes : (s.cycleStart n).dies[n].executes = true) :
    let k := s.dies[n].cores[chanCore ch]
    ∃ t, exec (.refreshWindowRound n ch err) s = .next t ∧ OnlyCore ⟨n, chanCore ch⟩ s t
      ∧ { t.core ⟨n, chanCore ch⟩ with vault := k.vault } = k
      ∧ { (t.core ⟨n, chanCore ch⟩).vault with chans := k.vault.chans } = k.vault
      ∧ ∀ j : Fin 16, (t.core ⟨n, chanCore ch⟩).vault.chans[j]
          = if j = chanIn ch then { k.vault.chans[chanIn ch] with since := s.dies[n].clock.tc.toNat } else k.vault.chans[j] := by
  refine ⟨_, (exec_windowRound on start executes).trans (congrArg _ (State.windowBegins_running running)), onlyCore_modCore s _ _, ?_⟩
  rw [State.modCore_same]
  exact ⟨rfl, rfl, fun j => Core.modChan_chan ..⟩

theorem preTickRefresh_starts (errs : List (ChanIx × SectorErr)) (on : s.dies[n].dramOn = true) (idle : s.dies[n].frm.frun = false)
    (near : s.dies[n].beforeTick = true) (undone : s.dies[n].frm.preDone ≠ some s.dies[n].frm.nextTick) :
    ∃ t, exec (.preTickRefresh n errs) s = .next t ∧ t.dies[n].frm.preDone = some s.dies[n].frm.nextTick
      ∧ ∀ q : ChanIx,
          let z := (t.dies[n].cores[chanCore q]).vault.chans[chanIn q]
          z.round = some ⟨.outside, s.dies[n].clock.tc.toNat, s.dies[n].clock.tcFrac⟩ ∧ z.since = s.dies[n].clock.tc.toNat
            ∧ z.wb = [] := by
  refine ⟨_, exec_preTickRefresh errs idle on near undone, ?_, fun q => ?_⟩
  · rw [(roundsStart_allRounds _ n .outside errs).frm, State.modDie_die]
  · have all := State.allRounds_service (s.modDie n (fun d => { d with frm := { d.frm with preDone := some d.frm.nextTick } })) n .outside errs q
    rw [State.modDie_die] at all
    exact all

theorem forcedRefresh_raises (errs : List (ChanIx × SectorErr)) (due : s.dies[n].forcedDue ch = true) :
    let d := s.dies[n]
    ∃ t, exec (.forcedRefresh n ch errs) s = .next t ∧ OnlyDie n s t
      ∧ t.dies[n].forced = some ⟨d.clock.clk + 4, errs⟩
      ∧ t.dies[n].hold.timed = d.hold.timed ++ [⟨9, d.clock.clk + 4, 2 ^ 64⟩]
      ∧ bit ((t.dies[n].cores[chanCore ch]).vault.chans[chanIn ch]).fault (d.forcedBit (chanIn ch)).bit = true
      ∧ ∀ c : CoreIx, (t.dies[n].cores[c]).vault.mem = (d.cores[c]).vault.mem
          ∧ ∀ j : Fin 16, ((t.dies[n].cores[c]).vault.chans[j]).service = ((d.cores[c]).vault.chans[j]).service := by
  refine ⟨_, exec_forcedRefresh errs due, onlyDie_modDie s n _, ?_⟩
  rw [State.modDie_die]
  obtain ⟨q, l, o, m, h⟩ := (s.dies[n].forcing errs).forcedFault_eq (chanCore ch) (chanIn ch)
  have flagged := chanFlagged_chanBit (s.dies[n].forcing errs) (chanCore ch) (chanIn ch) ((s.dies[n].forcing errs).forcedBit (chanIn ch)).bit q l o m
  rw [h]
  refine ⟨flagged.forced, congrArg (·.timed) flagged.hold, ?_, fun c => ⟨flagged.mem c, fun j => ?_⟩⟩
  · rw [Die.chanBit_same]
    refine bit_setBit_same _ ?_
    unfold Die.forcedBit
    split <;> decide
  · by_cases same : c = chanCore ch ∧ j = chanIn ch
    · obtain ⟨rfl, rfl⟩ := same
      exact flagged.chan Chan.service fun _ _ => rfl
    · exact congrArg Chan.service (flagged.other c j same)

theorem forcedBegins_starts {f : Forced} (waits : s.dies[n].forced = some f) (frun : s.dies[n].frm.frun = true)
    (due : f.start ≤ s.dies[n].clock.clk) :
    (s.forcedBegins n).dies[n].forced = none
      ∧ ∀ q : ChanIx,
          let z := ((s.forcedBegins n).dies[n].cores[chanCore q]).vault.chans[chanIn q]
          z.round = some ⟨.forced, s.dies[n].clock.tc.toNat, s.dies[n].clock.tcFrac⟩ ∧ z.since = s.dies[n].clock.tc.toNat
            ∧ z.wb = [] := by
  rw [State.forcedBegins_due waits frun due]
  refine ⟨?_, fun q => ?_⟩
  · rw [(roundsStart_allRounds _ n .forced f.errs).forced, State.modDie_die]
  · have all := State.allRounds_service (s.modDie n (fun d => { d with forced := none })) n .forced f.errs q
    rw [State.modDie_die] at all
    exact all

theorem roundEnd_ends (runs : s.runs n = true) (ended : s.dies[n].roundOver (chanCore ch) (chanIn ch) = true) :
    let d := s.dies[n]
    let k := d.cores[chanCore ch]
    ∃ t, exec (.refreshRoundEnd n ch) s = .next t ∧ OnlyDie n s t
      ∧ (t.core ⟨n, chanCore ch⟩).vault.mem = k.vault.mem
      ∧ (∀ j : Fin 16, (t.core ⟨n, chanCore ch⟩).vault.chans[j]
          = if j = chanIn ch then { k.vault.chans[chanIn ch] with round := none } else k.vault.chans[j])
      ∧ { t.dies[n] with cores := d.cores, hold := d.hold } = d := by
  obtain ⟨h, ends⟩ := Die.roundEnd_over ended
  have core := Die.modCore_core s.dies[n] (chanCore ch) (·.modChan (chanIn ch) (fun x => { x with round := none }))
  refine ⟨_, onDie_runs _ runs, onlyDie_modDie s n _, ?_⟩
  rw [State.modDie_core (a := ⟨n, chanCore ch⟩), State.modDie_die, ends]
  refine ⟨congrArg (·.vault.mem) core, fun j => ?_, rfl⟩
  exact (congrArg (fun k : Core => k.vault.chans[j]) core).trans (Core.modChan_chan ..)

end

/-- A die whose layer has been compared. -/
theorem Die.rateCompare_works (d : Die) (l : Fin 4) (x0 x1 x2 x3 : Int) :
    let xs := [x0, x1, x2, x3]
    let e := Die.rateCompare l (d.layerSensed l x0 x1 x2 x3)
    e.dbl = rateAfter d.dbl l xs
      ∧ ((∀ x ∈ xs, x ≤ 760) → { e with dbl := d.dbl, temps := d.temps } = d)
      ∧ ((∃ x ∈ xs, 760 < x) → ∀ (c : CoreIx) (j : Fin 16), j.val / 4 = l.val → bit (e.cores[c].vault.chans[j]).fault 6 = true)
      ∧ ∀ i : Fin 16, e.temps[i] = if i.val / 4 = l.val then keptTemp (xs[i.val % 4]?.getD 0) else d.temps[i] := by
  dsimp only
  have temps := d.layerSensed_temps l x0 x1 x2 x3
  have same := d.rateCompare_eq l x0 x1 x2 x3
  dsimp only at same
  by_cases hot : ∃ x ∈ [x0, x1, x2, x3], 760 < x
  · rw [if_pos (List.any_eq_true.2 (by simpa using hot))] at same
    obtain ⟨work, bits⟩ := Die.hotLayer l { d.layerSensed l x0 x1 x2 x3 with dbl := rateAfter d.dbl l [x0, x1, x2, x3] }
    rw [same]
    refine ⟨work.dbl, fun mild => ?_, fun _ => bits, fun i => ?_⟩
    · obtain ⟨x, hx, high⟩ := hot
      exact absurd (mild x hx) (Int.not_le.2 high)
    · rw [work.temps]
      exact temps i
  · rw [if_neg (by simpa using hot)] at same
    rw [same]
    exact ⟨rfl, fun _ => rfl, fun h => absurd h hot, temps⟩

/-- Settles O37: a round is `State.round`, of one channel or of all, and the comparison of a layer is `rateAfter`. -/
theorem dramIsServed : Obligations.DramIsServed := by
  unfold Obligations.DramIsServed
  refine ⟨fun s n ch err errs => ⟨fun on free => ⟨fun start executes => ?_, fun idle out => ?_⟩, exec_windowRound_not,
    windowRound_restarts, fun on idle near before => ⟨?_, exec_preTickRefresh_done errs⟩,
    fun on frun no free start out => ?_, fun f waits frun => ⟨State.forcedBegins_early waits, forcedBegins_starts waits frun⟩,
    fun r hr early => ?_, fun r runs hr ended => ?_⟩,
    fun s n l x0 x1 x2 x3 => ⟨fun high on => ?_, fun clearing due => ?_, fun _ => exec_bulkClear_early⟩⟩
  · exact ⟨_, (exec_windowRound on start executes).trans (congrArg _ (State.windowBegins_free free)), roundStarts_round ..⟩
  · exact ⟨_, exec_intervalRound idle on (decide_eq_true out) free, roundStarts_round ..⟩
  · exact preTickRefresh_starts errs on idle (Die.beforeTick_of _ near before)
  · have due : s.dies[n].forcedDue ch = true := by
      have interval : s.dies[n].intervalOut (chanCore ch) (chanIn ch) = true := decide_eq_true out
      rw [Die.forcedDue, frun, on, no, interval, free, start]
      rfl
    obtain ⟨t, ht, only, forced, hold, fault, rest⟩ := forcedRefresh_raises errs due
    refine ⟨t, ht, only, forced, hold, ?_, fun c => ?_⟩
    · unfold Die.forcedBit at fault
      split at fault
      · next h => rw [if_pos h]; exact fault
      · next h => rw [if_neg h]; exact fault
    · obtain ⟨mem, service⟩ := rest c
      refine ⟨mem, fun j => ?_⟩
      obtain ⟨round, more⟩ := Prod.mk.inj (service j)
      obtain ⟨since, wb⟩ := Prod.mk.inj more
      exact ⟨round, since, wb⟩
  · refine exec_roundEnd_early ?_
    rw [← Bool.not_eq_true, Die.roundOver_iff hr]
    omega
  · exact roundEnd_ends runs ((Die.roundOver_iff hr).2 ended)
  · obtain ⟨h, ht, inside, outside⟩ := exec_rateCompare l x0 x1 x2 x3 high on
    obtain ⟨dbl, rest, hot, temps⟩ := s.dies[n].rateCompare_works l x0 x1 x2 x3
    refine ⟨_, ht, rfl, fun m hm => s.modDie_other n m _ hm, inside, outside, ?_⟩
    dsimp only
    rw [State.modDie_die, dbl]
    exact ⟨fun _ => rateAfter_other, rateAfter_warm, rateAfter_cool, fun mild some_ => by rw [rateAfter_between mild some_], rest,
      hot, temps⟩
  · refine ⟨_, exec_bulkClear clearing due, onlyDie_modDie s n _, ?_⟩
    rw [State.modDie_die]
    refine ⟨rfl, fun c => ?_⟩
    rw [Die.clearDone_core]
    refine ⟨fun _ => rfl, rfl, rfl, fun j => ?_⟩
    rw [Vault.clear_chan]

end Sys2Proof.Machine

/-! # Power states change (O49)

First how a transition takes its steps, then what each of its steps leaves, and last the statement. -/

namespace Sys2Proof.Machine

/-! ### How a transition takes its steps (R446, R448) -/

section
variable {s : State} {x : Trans} {k : TransStep} {rest : List TransStep}

/-- The step in progress has ended. -/
def State.stepOver (s : State) (k : TransStep) : Bool := s.stepDone ((s.hub.power.trans.map (·.since)).getD 0) k

/-- The transition goes on to its next step. -/
def State.nextStep (s : State) (x : Trans) (rest : List TransStep) : State :=
  s.modHub (fun h => { h with power := { h.power with trans := some { x with steps := rest, begun := false } } })

theorem State.transNext_more (stays : s.hub.power.wantOff = false) (more : rest ≠ []) : s.transNext x rest = s.nextStep x rest := by
  obtain ⟨j, l, rfl⟩ := List.exists_cons_of_ne_nil more
  rw [State.transNext, stays]
  rfl

theorem State.transNext_last (stays : s.hub.power.wantOff = false) : s.transNext x [] = s.transEnd x.target := by
  rw [State.transNext, stays]
  rfl

/-- A step that has not begun begins, and ends at once where it may. -/
theorem State.transGo_begins (steps : x.steps = k :: rest) (fresh : x.begun = false) (plain : k ≠ .gate) :
    s.transGo x
      = if ((s.begunTrans x).beginStep k).stepOver k then (((s.begunTrans x).beginStep k).endStep k).transNext x rest
        else (s.begunTrans x).beginStep k := by
  have go := s.transGo_fresh x.target k rest x.since
  rw [← steps, ← fresh] at go
  refine go.trans ?_
  simp only [if_neg plain]
  rfl

/-- Gating is asked for as long as it is not done. -/
theorem State.transGo_gates (steps : x.steps = [.gate]) (fresh : x.begun = false) :
    s.transGo x
      = if ((s.begunTrans x).gateDies true).stepOver .gate then ((s.begunTrans x).gateDies true).transNext x []
        else (s.begunTrans x).gateDies true := by
  have go := s.transGo_fresh x.target .gate [] x.since
  rw [← steps, ← fresh] at go
  exact go

/-- A step that has begun goes on, and ends where it may. -/
theorem State.transGo_goes (steps : x.steps = k :: rest) (begun : x.begun = true) (plain : k ≠ .gate) :
    s.transGo x = if s.stepOver k then (s.endStep k).transNext x rest else s := by
  unfold State.transGo
  rw [steps, begun]
  simp only [if_neg plain, if_true]
  rfl

theorem exec_powerTransition_going (going : s.hub.power.trans = some x) : exec .powerTransition s = .next (s.transGo x) := by
  show Host.Outcome.next s.powerTransition = _
  rw [State.powerTransition, going]

/-- A request that differs from the settled state is taken up. -/
theorem exec_powerTransition_fresh (idle : s.hub.power.trans = none) (step : s.hub.bring.step = 10)
    (calm : s.hub.dict.statePending = false) (stays : s.hub.bring.removal = 0) (differs : s.hub.power.request ≠ s.hub.power.state) :
    exec .powerTransition s
      = .next ((s.modHub (fun h => { h with power := { h.power with trans := some s.newTrans } })).transGo s.newTrans) := by
  show Host.Outcome.next s.powerTransition = _
  rw [State.powerTransition]
  dsimp only
  rw [idle]
  exact congrArg Host.Outcome.next (if_pos (by simp [step, calm, stays, differs]))

theorem exec_powerTransition_settled (idle : s.hub.power.trans = none) (same : s.hub.power.request = s.hub.power.state) :
    exec .powerTransition s = .next s := by
  show Host.Outcome.next s.powerTransition = _
  rw [State.powerTransition]
  dsimp only
  rw [idle]
  exact congrArg Host.Outcome.next (if_neg (by simp [same]))

/-- A transition to Run or Idle that has run its steps leaves dies and ports as they are. -/
theorem State.transEnd_awake (s : State) {target : BitVec 8} (awake : 3 ≤ target.toNat) :
    (s.transEnd target).dies = s.dies ∧ (s.transEnd target).ports = s.ports
      ∧ (s.transEnd target).hub.power.state = target ∧ (s.transEnd target).hub.power.trans = none := by
  obtain ⟨-, asked⟩ := s.transEnd_works target
  have notOff : target ≠ 0 := by
    rintro rfl
    exact absurd awake (by decide)
  have attest (u : State) : u.attest.dies = u.dies ∧ u.attest.ports = u.ports := by
    unfold State.attest
    split <;> exact ⟨rfl, rfl⟩
  have kept : (s.transEnd target).dies = s.dies ∧ (s.transEnd target).ports = s.ports := by
    unfold State.transEnd
    have low : ¬target.toNat ≤ 2 := by omega
    simp only [notOff, low, decide_false, Bool.false_and, Bool.and_false, Bool.false_eq_true, if_false]
    obtain ⟨rails, goal, left⟩ := State.raiseLeft_eq (State.attest (s.modHub (fun h =>
      { h with power := { h.power with trans := none, state := target, wantOff := false } })))
    rw [left]
    exact attest _
  exact ⟨kept.1, kept.2, congrArg (·.2.2.2) asked, congrArg (·.2.1) asked⟩

end

/-! ### Clocks (R361) -/

section
variable {s : State} {g : Bool}

theorem Die.setGate_gates (d : Die) (g : Bool) : (d.setGate g).clock.gated = g ∧ (d.setGate g).cores = d.cores := by
  unfold Die.setGate
  split
  · next same => exact ⟨same, rfl⟩
  · have kept := Die.enqueue_only (Die.freshWindow { d with clock := { d.clock with gated := g }, frm := { d.frm with fallen := [] } })
      { sev := 2, unitk := 0x0A, unit := unitIx d.ix.val 0 0, rule := 361, bit := 0xFF, frame := some d.frm.fnum, onDie := true,
        time := d.clock.tc, cyc := d.evCycle, det := [] }
    have clock := congrArg (·.clock.gated) kept
    have cores := congrArg Die.cores kept
    exact ⟨clock, cores⟩

/-- A die is told to gate its clocks or to let them run: one that its lane reaches, and that runs no frame where it is to gate
them. -/
def Die.told (d : Die) (g : Bool) : Die := if d.pow.vcoreOn && d.reached && !(g && d.frm.frun) then d.setGate g else d

theorem State.gateDies_die (s : State) (g : Bool) (m : DieIx) : (s.gateDies g).dies[m] = s.dies[m].told g := Vector.getElem_map ..

theorem Die.told_cores (d : Die) (g : Bool) : (d.told g).cores = d.cores := by
  unfold Die.told
  split
  · exact (d.setGate_gates g).2
  · rfl

theorem Die.told_pow (d : Die) (g : Bool) : (d.told g).pow = d.pow := by
  unfold Die.told
  split
  · exact (d.setGate_kept g).1
  · rfl

theorem Die.told_gated {d : Die} (on : d.pow.vcoreOn = true) (reached : d.reached = true) (free : g = true → d.frm.frun = false) :
    (d.told g).clock.gated = g := by
  have may : (d.pow.vcoreOn && d.reached && !(g && d.frm.frun)) = true := by
    rw [on, reached]
    cases g
    · rfl
    · rw [free rfl]
      rfl
  rw [Die.told, if_pos may]
  exact (d.setGate_gates g).1

/-- Where no die runs a frame, all are gated at once. -/
theorem State.gateDies_over (s : State) (free : ∀ d ∈ s.dies.toList, d.pow.vcoreOn = true → d.frm.frun = false) :
    (s.gateDies true).stepOver .gate = true := by
  show (s.dies.map (·.told true)).toList.all (fun d => !d.pow.vcoreOn || !d.reached || d.clock.gated) = true
  rw [Vector.toList_map, List.all_map, List.all_eq_true]
  intro d hd
  have pow := d.told_pow true
  have reached : (d.told true).reached = d.reached := by rw [Die.reached, pow, Die.reached]
  simp only [Function.comp_apply, pow, reached]
  cases on : d.pow.vcoreOn
  · rfl
  · cases lane : d.reached
    · rfl
    · rw [Die.told_gated on lane fun _ => free d hd on]
      rfl

end

/-! ### Ports, one after another -/

section
variable {f : State → PortIx → State}

theorem OnlyPort.refl (p : PortIx) (s : State) : OnlyPort p s s := ⟨rfl, fun _ _ => rfl⟩

theorem onlyPort_modPort (s : State) (p : PortIx) (g : Port → Port) : OnlyPort p s (s.modPort p g) :=
  ⟨rfl, fun q hq => s.modPort_other p q g hq⟩

theorem OnlyPort.trans {p : PortIx} {s t u : State} (h : OnlyPort p s t) (g : OnlyPort p t u) : OnlyPort p s u :=
  ⟨(congrArg (fun v : State => { v with ports := s.ports }) g.1).trans h.1, fun q hq => (g.2 q hq).trans (h.2 q hq)⟩

theorem onlyPorts_foldl (only : ∀ s p, OnlyPort p s (f s p)) (l : List PortIx) (s : State) :
    { l.foldl f s with ports := s.ports } = s ∧ ∀ q, q ∉ l → (l.foldl f s).ports[q] = s.ports[q] := by
  induction l generalizing s with
  | nil => exact ⟨rfl, fun _ _ => rfl⟩
  | cons p l ih =>
    obtain ⟨rest, others⟩ := ih (f s p)
    obtain ⟨own, other⟩ := only s p
    refine ⟨(congrArg (fun v : State => { v with ports := s.ports }) rest).trans own, fun q hq => ?_⟩
    rw [List.mem_cons, not_or] at hq
    exact (others q hq.2).trans (other q hq.1)

/-- Where each port takes a step of its own, a port is as that step leaves it. -/
theorem foldl_allPorts (only : ∀ s p, OnlyPort p s (f s p)) (s : State) (q : PortIx) :
    ∃ t, { t with ports := s.ports } = s ∧ t.ports[q] = s.ports[q] ∧ (allPorts.foldl f s).ports[q] = (f t q).ports[q] := by
  obtain ⟨l1, l2, split⟩ := List.append_of_mem (List.mem_finRange q)
  have distinct := List.nodup_finRange 24
  rw [split, List.nodup_append, List.nodup_cons] at distinct
  obtain ⟨-, ⟨h2, -⟩, h1⟩ := distinct
  obtain ⟨rest, before⟩ := onlyPorts_foldl only l1 s
  refine ⟨l1.foldl f s, rest, before q fun hq => h1 q hq q List.mem_cons_self rfl, ?_⟩
  rw [allPorts, split, List.foldl_append, List.foldl_cons]
  exact (onlyPorts_foldl only l2 _).2 q h2

end

/-! ### Announcements (R344, R346) -/

theorem onlyPort_announceAs (s : State) (p : PortIx) (pst : BitVec 8) : OnlyPort p s (s.announceAs p pst) := by
  unfold State.announceAs State.enqueueFlit
  exact (onlyPort_modPort s p _).trans (onlyPort_modPort _ p _)

theorem State.announceAll_rest (s : State) (pst : BitVec 8) : { s.announceAll pst with ports := s.ports } = s := by
  refine (onlyPorts_foldl (fun s p => ?_) allPorts s).1
  split
  · exact onlyPort_announceAs s p pst
  · exact .refl p s

/-- The step of a transition that announces. -/
def State.announcePort (s : State) (p : PortIx) : State := if s.ports[p].talks then s.announce p else s

theorem onlyPort_announcePort (s : State) (p : PortIx) : OnlyPort p s (s.announcePort p) := by
  unfold State.announcePort
  split
  · exact onlyPort_announceAs s p _
  · exact .refl p s

theorem State.announcePort_count {s : State} {p : PortIx} (talks : s.ports[p].talks = true) :
    (s.announcePort p).ports[p].annCnt = s.ports[p].annCnt + 1 := by
  rw [State.announcePort, if_pos talks]
  unfold State.announce State.announceAs State.enqueueFlit State.modLink
  exact congrArg Port.annCnt ((congrArg (fun u : State => u.ports[p]) (s.modPort_modPort p _ _)).trans (s.modPort_same p _))

/-! ### Full rate (R330) -/

/-- A port in Low-rate that asks for full rate. -/
def Port.asksFull (x : Port) (now : Nat) : Port :=
  { x with link := { x.link with outq := x.link.outq ++ [moveFlit false] }, rising := some now }

/-- The step of a transition that asks for full rate. -/
def State.portUp (s : State) (p : PortIx) : State := if s.ports[p].cmd = 2 then s else s.toFullRate p

theorem State.toFullRate_asks {s : State} {p : PortIx} (low : s.ports[p].link.st = .lowRate) (calm : s.ports[p].rising = none) :
    s.toFullRate p = s.modPort p (·.asksFull s.now) := by
  rw [State.toFullRate, if_pos (by rw [low, calm]; rfl)]
  exact s.modPort_modPort p _ _

theorem onlyPort_portUp (s : State) (p : PortIx) : OnlyPort p s (s.portUp p) := by
  unfold State.portUp
  split
  · exact .refl p s
  · unfold State.toFullRate
    split
    · exact (onlyPort_modPort s p _).trans (onlyPort_modPort _ p _)
    · exact .refl p s

theorem State.portUp_asks {s : State} {p : PortIx} (low : s.ports[p].link.st = .lowRate) (auto : s.ports[p].cmd ≠ 2)
    (calm : s.ports[p].rising = none) : (s.portUp p).ports[p] = s.ports[p].asksFull s.now := by
  rw [State.portUp, if_neg auto, State.toFullRate_asks low calm]
  exact s.modPort_same p _

/-- A port in Low-rate that may ask is on its way then. -/
theorem State.portUp_rising {s : State} {p : PortIx} (low : s.ports[p].link.st = .lowRate) (auto : s.ports[p].cmd ≠ 2) :
    (s.portUp p).ports[p].rising ≠ none := by
  cases asked : s.ports[p].rising with
  | none =>
    rw [State.portUp_asks low auto asked]
    exact nofun
  | some t =>
    rw [State.portUp, if_neg auto, State.toFullRate, if_neg (by rw [asked, Option.isNone_some, Bool.and_false]; decide), asked]
    exact nofun

/-! ### A request is taken up (R446 to R448) -/

section
variable {s : State}

/-- The module stands in a state, and takes up a request for another. -/
structure State.Settled (s : State) : Prop where
  idle : s.hub.power.trans = none
  works : s.hub.bring.step = 10
  calm : s.hub.dict.statePending = false
  stays : s.hub.bring.removal = 0
  on : s.hub.power.wantOff = false

/-- The first step of the requested transition begins. -/
theorem State.Settled.begins {k : TransStep} {rest : List TransStep} (st : s.Settled) (differs : s.hub.power.request ≠ s.hub.power.state)
    (steps : s.stepsFor s.hub.power.state s.hub.power.request = k :: rest) (plain : k ≠ .gate) :
    exec .powerTransition s
      = .next (if ((s.begunTrans s.newTrans).beginStep k).stepOver k
          then (((s.begunTrans s.newTrans).beginStep k).endStep k).transNext s.newTrans rest
          else (s.begunTrans s.newTrans).beginStep k) := by
  rw [exec_powerTransition_fresh st.idle st.works st.calm st.stays differs]
  exact congrArg Host.Outcome.next (State.transGo_begins steps rfl plain)

/-- What a transition between Run and Idle leaves: its new state, and the clocks of the dies. -/
theorem State.gatesEnd (s : State) (g : Bool) {target : BitVec 8} (awake : 3 ≤ target.toNat) :
    ((s.gateDies g).transEnd target).hub.power.state = target ∧ ((s.gateDies g).transEnd target).hub.power.trans = none
      ∧ ((s.gateDies g).transEnd target).ports = s.ports
      ∧ ∀ m : DieIx, ((s.gateDies g).transEnd target).dies[m] = s.dies[m].told g := by
  obtain ⟨dies, ports, state, trans⟩ := (s.gateDies g).transEnd_awake awake
  refine ⟨state, trans, ports, fun m => ?_⟩
  rw [dies]
  exact s.gateDies_die g m

/-- From Run to Idle the clocks stop. -/
theorem State.Settled.gates (st : s.Settled) (run : s.hub.power.state = 4) (asks : s.hub.power.request = 3)
    (free : ∀ d ∈ s.dies.toList, d.pow.vcoreOn = true → d.frm.frun = false) :
    exec .powerTransition s = .next (((s.begunTrans s.newTrans).gateDies true).transEnd 3) := by
  rw [exec_powerTransition_fresh st.idle st.works st.calm st.stays (by rw [run, asks]; decide)]
  have steps : s.newTrans.steps = [.gate] := by simp [State.newTrans, State.stepsFor, run, asks]
  have ended := (s.begunTrans s.newTrans).gateDies_over free
  have last := State.transNext_last (s := (s.begunTrans s.newTrans).gateDies true) (x := s.newTrans) st.on
  have target : s.newTrans.target = 3 := asks
  rw [target] at last
  exact congrArg Host.Outcome.next ((State.transGo_gates steps rfl).trans ((if_pos ended).trans last))

/-- From Idle to Run the clocks run again. -/
theorem State.Settled.ungates (st : s.Settled) (idle : s.hub.power.state = 3) (asks : s.hub.power.request = 4) :
    exec .powerTransition s = .next (((s.begunTrans s.newTrans).gateDies false).transEnd 4) := by
  have steps : s.stepsFor s.hub.power.state s.hub.power.request = [.ungate] := by simp [State.stepsFor, idle, asks]
  have ended : ((s.begunTrans s.newTrans).beginStep .ungate).stepOver .ungate = true := rfl
  have on : (((s.begunTrans s.newTrans).beginStep .ungate).endStep .ungate).hub.power.wantOff = false := st.on
  rw [st.begins (by rw [idle, asks]; decide) steps nofun, if_pos ended, State.transNext_last on, ← asks]
  rfl

/-- A request for Off begins with the commit of a fatal record. -/
theorem State.Settled.commits (st : s.Settled) (awake : 3 ≤ s.hub.power.state.toNat) (asks : s.hub.power.request = 0) :
    exec .powerTransition s
      = .next (if s.fatalWaits then s.begunTrans s.newTrans else (s.begunTrans s.newTrans).nextStep s.newTrans s.offSteps.tail) := by
  have off : s.offSteps = .commit :: s.offSteps.tail := rfl
  have more : s.offSteps.tail ≠ [] := by simp [State.offSteps]
  have differs : s.hub.power.request ≠ s.hub.power.state := by
    rw [asks]
    intro same
    rw [← same] at awake
    exact absurd awake (by decide)
  rw [st.begins (k := .commit) differs (by rw [asks]; exact off) nofun]
  have on : (((s.begunTrans s.newTrans).beginStep .commit).endStep .commit).hub.power.wantOff = false := st.on
  have wait : ((s.begunTrans s.newTrans).beginStep .commit).stepOver .commit = !s.fatalWaits := by
    show (!s.fatalWaits || decide (s.now + msCounts 5 ≤ s.now)) = _
    rw [decide_eq_false (by simp [msCounts]), Bool.or_false]
  rw [State.transNext_more on more, wait]
  cases s.fatalWaits <;> rfl

/-- What the beginning of quiescing leaves in the hub (R447). -/
def Hub.quiesced (h : Hub) : Hub :=
  { h with
    bring := { h.bring with attested := false }
    power := { h.power with quiesceAt := h.time.wall }
    dict := { h.dict with hostSes := [] } }

theorem State.eq_withPorts {s t : State} (same : { t with ports := s.ports } = s) : t = { s with ports := t.ports } :=
  congrArg (fun u : State => { u with ports := t.ports }) same

theorem State.quiesceBegin_eq (s : State) : ∃ ports, s.quiesceBegin = { s with ports := ports, hub := s.hub.quiesced } := by
  have told := State.eq_withPorts (State.announceAll_rest
    (s.modHub (fun h => { h with bring := { h.bring with attested := false }, power := { h.power with quiesceAt := h.time.wall } }))
    s.hub.power.state)
  exact ⟨_, congrArg State.closeHosts told⟩

/-- Doze and Deep begin with quiescing. -/
theorem State.Settled.quiesces (st : s.Settled) (awake : 3 ≤ s.hub.power.state.toNat) (asks : s.hub.power.request = 1 ∨ s.hub.power.request = 2) :
    ∃ ks ports, exec .powerTransition s = .next { s with
      ports := ports, hub := { s.hub.quiesced with power := { s.hub.quiesced.power with
        trans := some ⟨s.hub.power.request, .quiesce :: ks, true, s.now⟩ } } } := by
  obtain ⟨ks, steps⟩ : ∃ ks, s.stepsFor s.hub.power.state s.hub.power.request = .quiesce :: ks := by
    obtain asks | asks := asks <;> simp [State.stepsFor, awake, asks]
  have differs : s.hub.power.request ≠ s.hub.power.state := by
    intro same
    rw [← same] at awake
    obtain asks | asks := asks <;> rw [asks] at awake <;> exact absurd awake (by decide)
  obtain ⟨ports, begun⟩ := (s.begunTrans s.newTrans).quiesceBegin_eq
  have goes : ((s.begunTrans s.newTrans).beginStep .quiesce).stepOver .quiesce = false := by
    show (s.begunTrans s.newTrans).quiesceBegin.stepOver .quiesce = false
    rw [begun]
    show (decide (max s.hub.power.quietAt s.now + msCounts 100 ≤ s.now) || decide (s.now + secCounts 5 ≤ s.now)) = false
    have ms : 0 < msCounts 100 := by decide
    have sec : 0 < secCounts 5 := by decide
    rw [decide_eq_false (by omega), decide_eq_false (by omega)]
    rfl
  refine ⟨ks, ports, ?_⟩
  rw [st.begins differs steps nofun, goes]
  refine congrArg Host.Outcome.next (begun.trans ?_)
  rw [← steps]
  rfl

end

/-! ### The rails of an exit (R446, R465) -/

section
variable {s : State} {k : RailIx} {ks : List RailIx}

/-- Of rails of which none is good, the first is enabled at once where it is not yet. -/
theorem State.raiseRails_first (low : ∀ j ∈ k :: ks, (s.rail j).good = false) (still : (s.rail k).enabled = false)
    (good : s.hub.board.pwrgd = true) (paced : s.vcorePaced = true) :
    s.raiseRails (k :: ks) = (s.modHub (fun h => { h with power := { h.power with goal := .up (k :: ks) } })).enableRail k := by
  let s1 := s.modHub (fun h => { h with power := { h.power with goal := .up (k :: ks) } })
  have todo : (k :: ks).filter (fun k => !(s.rail k).good) = k :: ks :=
    List.filter_eq_self.2 fun j hj => by rw [low j hj]; rfl
  have trim : s1.trimGoal = .up (k :: ks) := by
    show RailGoal.up ((k :: ks).dropWhile (fun k => (s.rail k).good)) = _
    rw [List.dropWhile_cons_of_neg (by rw [low k List.mem_cons_self]; decide)]
  have next : s1.nextUp (k :: ks) = some k := by
    have before : (k :: ks).takeWhile (fun k => (s1.rail k).enabled) = [] :=
      List.takeWhile_cons_of_neg (by rw [show (s1.rail k).enabled = false from still]; decide)
    unfold State.nextUp
    rw [before]
    exact if_pos (by rw [show s1.vcorePaced = true from paced]; simp)
  unfold State.raiseRails
  rw [todo]
  show s1.railNext = _
  unfold State.railNext
  rw [trim]
  show (if s1.hub.board.pwrgd then (match s1.nextUp (k :: ks) with | some k => s1.enableRail k | none => s1) else s1) = _
  rw [show s1.hub.board.pwrgd = true from good, if_pos rfl, next]

theorem State.enableRail_enables (s : State) (k : RailIx) : (s.enableRail k).hub.power.rails[k].enabled = true :=
  congrArg Rail.enabled (vupd_get_self s.hub.power.rails k _)

/-- The rail is not that of a fenced die. -/
def State.mayRise (s : State) (k : RailIx) : Bool := match railDie k with | some n => !s.dies[n].pow.fenced | none => true

theorem State.vcore_mayRise (s : State) : ((List.finRange 8).map vcoreRail).filter s.mayRise = s.vcoreRails := by
  rw [State.vcoreRails, List.filter_map]
  refine congrArg (List.map vcoreRail) (List.filter_congr fun n _ => ?_)
  rw [Function.comp_apply, State.mayRise, railDie_vcoreRail]

theorem State.all_mayRise (s : State) : ([vdram, vwl] ++ (List.finRange 8).map vcoreRail).filter s.mayRise = vdram :: vwl :: s.vcoreRails := by
  rw [List.filter_append, s.vcore_mayRise]
  rfl

theorem State.vcoreRails_mem {k : RailIx} (listed : k ∈ s.vcoreRails) : ∃ m, k = vcoreRail m := by
  obtain ⟨m, -, rfl⟩ := List.mem_map.1 listed
  exact ⟨m, rfl⟩

/-- An exit from Doze or Deep begins with its rails, the first at once. -/
theorem State.Settled.wakes {rails : List RailIx} {rest : List TransStep} (st : s.Settled) (differs : s.hub.power.request ≠ s.hub.power.state)
    (steps : s.stepsFor s.hub.power.state s.hub.power.request = .railsUp rails :: rest) (more : rest ≠ []) :
    ∃ t, exec .powerTransition s = .next t ∧ t.hub.power.state = s.hub.power.state ∧ t.dies = s.dies ∧ t.ports = s.ports
      ∧ (s.hub.board.pwrgd = true → s.vcorePaced = true → ∀ k ks, rails.filter s.mayRise = k :: ks → (s.rail k).enabled = false →
          (∀ j ∈ k :: ks, (s.rail j).good = false) →
          t.hub.power.trans = some ⟨s.hub.power.request, .railsUp rails :: rest, true, s.now⟩
            ∧ t.hub.power.goal = .up (k :: ks) ∧ t.hub.power.rails[k].enabled = true) := by
  let u := (s.begunTrans s.newTrans).raiseRails (rails.filter s.mayRise)
  have begun : (s.begunTrans s.newTrans).beginStep (.railsUp rails) = u := rfl
  have ends : u.stepOver (.railsUp rails) = decide (u.hub.power.goal = .hold) := rfl
  obtain ⟨rs, goal, only⟩ := (s.begunTrans s.newTrans).raiseRails_eq (rails.filter s.mayRise)
  have next : (u.endStep (.railsUp rails)).transNext s.newTrans rest = u.nextStep s.newTrans rest :=
    State.transNext_more (s := u) ((congrArg (·.hub.power.wantOff) only).trans st.on) more
  have goes := st.begins differs steps nofun
  rw [begun, ends, next] at goes
  refine ⟨_, goes, ?_⟩
  have state : u.hub.power.state = s.hub.power.state := congrArg (·.hub.power.state) only
  have dies : u.dies = s.dies := (congrArg State.dies only).trans rfl
  have ports : u.ports = s.ports := (congrArg State.ports only).trans rfl
  refine ⟨?_, ?_, ?_, ?_⟩
  · split <;> exact state
  · split <;> exact dies
  · split <;> exact ports
  · intro good paced k ks first still low
    have rise : u = ((s.begunTrans s.newTrans).modHub (fun h => { h with power := { h.power with goal := .up (k :: ks) } })).enableRail k := by
      show (s.begunTrans s.newTrans).raiseRails (rails.filter s.mayRise) = _
      rw [first]
      exact State.raiseRails_first low still good paced
    have up : u.hub.power.goal = .up (k :: ks) := by rw [rise]; rfl
    have trans : u.hub.power.trans = some ⟨s.hub.power.request, .railsUp rails :: rest, true, s.now⟩ := by
      rw [rise, ← steps]
      rfl
    rw [if_neg (by rw [up]; exact of_decide_eq_false rfl)]
    refine ⟨trans, up, ?_⟩
    rw [rise]
    exact State.enableRail_enables _ k

end

/-! ### The counters are aligned (R301, R449) -/

section
variable {s : State}

theorem Die.stepTo_kept (d : Die) (t : HubTime) : (d.stepTo t).pow = d.pow ∧ (d.stepTo t).plan = d.plan ∧ (d.stepTo t).clock.tc = t.tc := by
  let e := Die.freshWindow { d.shiftTimes d.clock.tc.toNat t.tc.toNat with
    clock := { d.clock with tc := t.tc, tcFrac := t.frac }
    frm := { d.frm with nextTick := firstTick t.tc.toNat t.inForce.toNat, preDone := none }
    router := { d.router with nextSwap := firstTick t.tc.toNat t.inForce.toNat } }
  have shift : (d.shiftTimes d.clock.tc.toNat t.tc.toNat).pow = d.pow ∧ (d.shiftTimes d.clock.tc.toNat t.tc.toNat).plan = d.plan := by
    unfold Die.shiftTimes
    split <;> exact ⟨rfl, rfl⟩
  have kept := Die.enqueue_only e
    { sev := 2, unitk := 0x0A, unit := unitIx d.ix.val 0 0, rule := 301, bit := 0xFF, frame := e.evFrame,
      onDie := true, time := t.tc, cyc := e.evCycle, det := stepDet d.clock.tc t.tc }
  have pow := congrArg Die.pow kept
  have plan := congrArg Die.plan kept
  have tc := congrArg (·.clock.tc) kept
  exact ⟨pow.trans shift.1, plan.trans shift.2, tc⟩

/-- State t is s with the counters of some dies stepped, or their ρ set. For die m: its counter is as it was, or the hub die's. -/
structure Aligning (m : DieIx) (s t : State) : Prop where
  rest : { t with dies := s.dies } = s
  kept : ∀ n : DieIx, t.dies[n].pow = s.dies[n].pow ∧ t.dies[n].plan = s.dies[n].plan
  count : (t.dies[m].clock.tc = s.dies[m].clock.tc ∧ t.dies[m].clock.tcFrac = s.dies[m].clock.tcFrac)
    ∨ t.dies[m].clock.tc = s.hub.time.tc

theorem Aligning.refl (m : DieIx) (s : State) : Aligning m s s := ⟨rfl, fun _ => ⟨rfl, rfl⟩, .inl ⟨rfl, rfl⟩⟩

theorem Aligning.hub {m : DieIx} {t : State} (h : Aligning m s t) : t.hub = s.hub := (congrArg State.hub h.rest :)

theorem Aligning.ports {m : DieIx} {t : State} (h : Aligning m s t) : t.ports = s.ports := (congrArg State.ports h.rest :)

theorem Aligning.trans {m : DieIx} {t u : State} (h : Aligning m s t) (g : Aligning m t u) : Aligning m s u where
  rest := (congrArg (fun v : State => { v with dies := s.dies }) g.rest).trans h.rest
  kept n := ⟨(g.kept n).1.trans (h.kept n).1, (g.kept n).2.trans (h.kept n).2⟩
  count := by
    obtain ⟨tc, frac⟩ | stepped := g.count
    · rw [tc, frac]
      exact h.count
    · rw [h.hub] at stepped
      exact .inr stepped

theorem Aligning.modDie (m n : DieIx) (s : State) {f : Die → Die}
    (kept : (f s.dies[n]).pow = s.dies[n].pow ∧ (f s.dies[n]).plan = s.dies[n].plan)
    (count : (f s.dies[n]).clock.tc = s.dies[n].clock.tc ∧ (f s.dies[n]).clock.tcFrac = s.dies[n].clock.tcFrac
      ∨ (f s.dies[n]).clock.tc = s.hub.time.tc) : Aligning m s (s.modDie n f) where
  rest := rfl
  kept j := by
    by_cases same : j = n
    · rw [same, s.modDie_die n f]
      exact kept
    · rw [show (s.modDie n f).dies[j] = s.dies[j] from vupd_get_other s.dies f same]
      exact ⟨rfl, rfl⟩
  count := by
    by_cases same : m = n
    · rw [same, s.modDie_die n f]
      exact count
    · rw [show (s.modDie n f).dies[m] = s.dies[m] from vupd_get_other s.dies f same]
      exact .inl ⟨rfl, rfl⟩

theorem aligning_dieAlign (m : DieIx) (s : State) (n : DieIx) : Aligning m s (s.dieAlign n) := by
  unfold State.dieAlign
  dsimp only
  split
  · exact .refl m s
  · split
    · obtain ⟨pow, plan, tc⟩ := s.dies[n].stepTo_kept s.hub.time
      exact .modDie m n s ⟨pow, plan⟩ (.inr tc)
    · exact .modDie m n s ⟨rfl, rfl⟩ (.inl ⟨rfl, rfl⟩)

theorem Aligning.mayStep {m : DieIx} {t : State} (h : Aligning m s t) : t.mayStep = s.mayStep := by
  have idle : t.dies.toList.map (fun d => d.plan.isNone && !d.pow.clearing) = s.dies.toList.map (fun d => d.plan.isNone && !d.pow.clearing) := by
    rw [← Vector.toList_map, ← Vector.toList_map]
    refine congrArg Vector.toList (Vector.ext fun i hi => ?_)
    obtain ⟨pow, plan⟩ := h.kept ⟨i, hi⟩
    simp only [Fin.getElem_fin] at pow plan
    rw [Vector.getElem_map, Vector.getElem_map, pow, plan]
  have all := congrArg (List.all · id) idle
  simp only [List.all_map] at all
  unfold State.mayStep
  rw [h.hub]
  exact congrArg (· && _ && _) all

/-- A die's counter that is far off steps, where counters may step. -/
theorem State.dieAlign_steps {n : DieIx} (on : s.dies[n].pow.vcoreOn = true) (lane : s.dies[n].pow.lane = true) (may : s.mayStep = true)
    (far : 64000 < (s.dieOffset n).natAbs) : (s.dieAlign n).dies[n].clock.tc = s.hub.time.tc := by
  have step : s.dieAlign n = s.modDie n (·.stepTo s.hub.time) := by
    unfold State.dieAlign
    dsimp only
    rw [if_neg (by rw [on, lane]; decide), if_pos (by rw [may, Bool.true_and]; exact decide_eq_true far)]
  rw [step, s.modDie_die]
  exact (s.dies[n].stepTo_kept s.hub.time).2.2

theorem aligning_foldl (m : DieIx) (l : List DieIx) (s : State) : Aligning m s (l.foldl State.dieAlign s) := by
  induction l generalizing s with
  | nil => exact .refl m s
  | cons n l ih => exact (aligning_dieAlign m s n).trans (ih _)

/-- Among the dies that are aligned, the counter of one that is far off steps to the hub die's. -/
theorem State.foldl_dieAlign_steps {m : DieIx} {l : List DieIx} (listed : m ∈ l) (on : s.dies[m].pow.vcoreOn = true)
    (lane : s.dies[m].pow.lane = true) (may : s.mayStep = true) (far : 64000 < (s.dieOffset m).natAbs) :
    (l.foldl State.dieAlign s).dies[m].clock.tc = s.hub.time.tc := by
  have done : (l.foldl State.dieAlign s).dies[m].clock.tc = (l.foldl State.dieAlign s).hub.time.tc := by
    refine foldl_reaches (R := Aligning m) (P := fun t => t.dies[m].clock.tc = t.hub.time.tc) (.refl m) .trans
      (aligning_dieAlign m) (fun {t u} h tc => ?_) (fun t h => ?_) listed
    · show u.dies[m].clock.tc = u.hub.time.tc
      rw [h.hub]
      obtain ⟨same, -⟩ | stepped := h.count
      · exact same.trans tc
      · exact stepped
    · have next := aligning_dieAlign m t m
      show (t.dieAlign m).dies[m].clock.tc = (t.dieAlign m).hub.time.tc
      rw [next.hub]
      obtain ⟨tc, frac⟩ | stepped := h.count
      · refine State.dieAlign_steps ?_ ?_ (h.mayStep.trans may) ?_
        · rw [(h.kept m).1, on]
        · rw [(h.kept m).1, lane]
        · rw [State.dieOffset, h.hub, tc, frac]
          exact far
      · obtain ⟨same, -⟩ | again := next.count
        · rw [same, stepped, h.hub]
        · exact again
  rw [done, (aligning_foldl m l s).hub]

end

theorem State.beginStep_align (s : State) : s.beginStep .align = (List.finRange 8).foldl State.dieAlign s := by
  rw [State.beginStep]

theorem State.beginAlign_rest (s : State) : (s.beginStep .align).hub = s.hub ∧ (s.beginStep .align).ports = s.ports := by
  rw [s.beginStep_align]
  have aligning := aligning_foldl 0 (List.finRange 8) s
  exact ⟨aligning.hub, aligning.ports⟩

theorem State.beginAlign_steps {s : State} {m : DieIx} (on : s.dies[m].pow.vcoreOn = true) (lane : s.dies[m].pow.lane = true)
    (may : s.mayStep = true) (far : 64000 < (s.dieOffset m).natAbs) : (s.beginStep .align).dies[m].clock.tc = s.hub.time.tc := by
  rw [s.beginStep_align]
  exact State.foldl_dieAlign_steps (List.mem_finRange m) on lane may far

/-! ### Self-refresh ends (R251) -/

theorem Die.leaveSelfRefresh_leaves {d : Die} (slept : d.pow.selfRef = true) (reached : d.reached = true) :
    d.leaveSelfRefresh.pow.selfRef = false ∧ ∀ (c : CoreIx) (j : Fin 16),
      ((d.leaveSelfRefresh.cores[c]).vault.chans[j]).round ≠ none ∧ (d.leaveSelfRefresh.cores[c]).vault.mem = (d.cores[c]).vault.mem := by
  rw [Die.leaveSelfRefresh, if_pos (by rw [slept, reached]; rfl)]
  refine ⟨rfl, fun c j => ?_⟩
  simp [Die.roundAll]

theorem Die.leaveSelfRefresh_stays {d : Die} (stays : d.pow.selfRef = false ∨ d.reached = false) : d.leaveSelfRefresh = d := by
  rw [Die.leaveSelfRefresh, if_neg]
  obtain h | h := stays <;> simp [h]

theorem State.exitRefresh_die (s : State) (m : DieIx) : (s.beginStep .exitRefresh).dies[m] = s.dies[m].leaveSelfRefresh := Vector.getElem_map ..

/-! ### Every port takes its step -/

theorem State.beginStep_portsUp (s : State) : s.beginStep .portsUp = allPorts.foldl State.portUp s := by
  rw [State.beginStep]
  rfl

theorem State.beginStep_announce (s : State) : s.beginStep .announce = allPorts.foldl State.announcePort s := by
  rw [State.beginStep]
  rfl

/-- Where ports are asked for full rate, and one is on its way, the step waits. -/
theorem State.portsUp_waits {s : State} {q : PortIx} (low : s.ports[q].link.st = .lowRate) (auto : s.ports[q].cmd ≠ 2) :
    (s.beginStep .portsUp).stepOver .portsUp = false := by
  obtain ⟨t, -, same, port⟩ := foldl_allPorts onlyPort_portUp s q
  have rising : (s.beginStep .portsUp).ports[q].rising ≠ none := by
    rw [s.beginStep_portsUp, port]
    exact State.portUp_rising (by rw [same, low]) (by rw [same]; exact auto)
  refine List.all_eq_false.2 ⟨(s.beginStep .portsUp).ports[q], by simp, ?_⟩
  rw [Option.isNone_eq_false_iff.2 (Option.isSome_iff_ne_none.2 rising), Bool.and_false]
  decide

theorem State.portsUp_asks {s : State} {q : PortIx} (low : s.ports[q].link.st = .lowRate) (auto : s.ports[q].cmd ≠ 2)
    (calm : s.ports[q].rising = none) : (s.beginStep .portsUp).ports[q] = s.ports[q].asksFull s.now := by
  obtain ⟨t, rest, same, port⟩ := foldl_allPorts onlyPort_portUp s q
  have now : t.now = s.now := (congrArg State.now rest :)
  rw [s.beginStep_portsUp, port, State.portUp_asks (by rw [same, low]) (by rw [same]; exact auto) (by rw [same, calm]), same, now]

theorem State.portsOnly_kept {s t : State} (only : { t with ports := s.ports } = s) : t.hub = s.hub ∧ t.dies = s.dies :=
  ⟨(congrArg State.hub only :), (congrArg State.dies only :)⟩

theorem State.beginPortsUp_rest (s : State) : (s.beginStep .portsUp).hub = s.hub ∧ (s.beginStep .portsUp).dies = s.dies := by
  rw [s.beginStep_portsUp]
  exact State.portsOnly_kept (onlyPorts_foldl onlyPort_portUp allPorts s).1

theorem State.beginAnnounce_hub (s : State) : (s.beginStep .announce).hub = s.hub := by
  rw [s.beginStep_announce]
  exact (State.portsOnly_kept (onlyPorts_foldl onlyPort_announcePort allPorts s).1).1

theorem State.announce_counts {s : State} {q : PortIx} (talks : s.ports[q].talks = true) :
    (s.beginStep .announce).ports[q].annCnt = s.ports[q].annCnt + 1 := by
  obtain ⟨t, -, same, port⟩ := foldl_allPorts onlyPort_announcePort s q
  rw [s.beginStep_announce, port, State.announcePort_count (by rw [same, talks]), same]

/-! ### A request of a settled module -/

section
variable {s : State}

/-- From Run to Idle. -/
theorem State.Settled.idles (st : s.Settled) (run : s.hub.power.state = 4) (asks : s.hub.power.request = 3)
    (free : ∀ d ∈ s.dies.toList, d.pow.vcoreOn = true → d.frm.frun = false) :
    ∃ t, exec .powerTransition s = .next t ∧ t.hub.power.state = 3 ∧ t.hub.power.trans = none ∧ t.ports = s.ports
      ∧ ∀ m : DieIx, (s.dies[m].pow.vcoreOn = true → s.dies[m].reached = true → t.dies[m].clock.gated = true)
        ∧ t.dies[m].cores = s.dies[m].cores := by
  obtain ⟨state, trans, ports, die⟩ := (s.begunTrans s.newTrans).gatesEnd true (target := 3) (by decide)
  refine ⟨_, st.gates run asks free, state, trans, ports, fun m => ?_⟩
  rw [die m]
  exact ⟨fun on reached => Die.told_gated on reached fun _ => free s.dies[m] (by simp) on, Die.told_cores ..⟩

/-- From Idle to Run. -/
theorem State.Settled.runs (st : s.Settled) (idle : s.hub.power.state = 3) (asks : s.hub.power.request = 4) :
    ∃ t, exec .powerTransition s = .next t ∧ t.hub.power.state = 4 ∧ t.hub.power.trans = none ∧ t.ports = s.ports
      ∧ ∀ m : DieIx, (s.dies[m].pow.vcoreOn = true → s.dies[m].reached = true → t.dies[m].clock.gated = false)
        ∧ t.dies[m].cores = s.dies[m].cores := by
  obtain ⟨state, trans, ports, die⟩ := (s.begunTrans s.newTrans).gatesEnd false (target := 4) (by decide)
  refine ⟨_, st.ungates idle asks, state, trans, ports, fun m => ?_⟩
  rw [die m]
  exact ⟨fun on reached => Die.told_gated on reached nofun, Die.told_cores ..⟩

/-- To Off. -/
theorem State.Settled.goesOff (st : s.Settled) (awake : 3 ≤ s.hub.power.state.toNat) (asks : s.hub.power.request = 0) (up : s.vcoreUp = true) :
    ∃ t ks, exec .powerTransition s = .next t ∧ t.hub.power.state = s.hub.power.state ∧ t.dies = s.dies
      ∧ (s.fatalWaits = true → t.hub.power.trans = some ⟨0, .commit :: .quiesce :: ks, true, s.now⟩)
      ∧ (s.fatalWaits = false → ∃ k, t.hub.power.trans = some ⟨0, .quiesce :: ks, false, k⟩) := by
  have goes := st.commits awake asks
  obtain ⟨ks, steps⟩ : ∃ ks, s.offSteps = .commit :: .quiesce :: ks := ⟨_, by rw [State.offSteps, up]; rfl⟩
  have new : s.newTrans = ⟨0, .commit :: .quiesce :: ks, false, 0⟩ := by
    rw [State.newTrans, asks, ← steps]
    rfl
  rw [steps, new] at goes
  refine ⟨_, ks, goes, ?_⟩
  cases s.fatalWaits
  · exact ⟨rfl, rfl, nofun, fun _ => ⟨0, rfl⟩⟩
  · exact ⟨rfl, rfl, fun _ => rfl, nofun⟩

/-- To Doze or Deep. -/
theorem State.Settled.sleeps (st : s.Settled) (awake : 3 ≤ s.hub.power.state.toNat) (asks : s.hub.power.request = 1 ∨ s.hub.power.request = 2) :
    ∃ t ks, exec .powerTransition s = .next t ∧ t.hub.power.trans = some ⟨s.hub.power.request, .quiesce :: ks, true, s.now⟩
      ∧ t.hub.power.state = s.hub.power.state ∧ t.hub.dict.hostSes = [] ∧ t.hub.bring.attested = false ∧ t.dies = s.dies := by
  obtain ⟨ks, ports, goes⟩ := st.quiesces awake asks
  exact ⟨_, ks, goes, rfl, rfl, rfl, rfl, rfl⟩

/-- The steps out of Deep. -/
theorem State.stepsFor_deep (s : State) {dst : BitVec 8} (wakes : dst = 3 ∨ dst = 4) :
    s.stepsFor 1 dst = .railsUp ([vdram, vwl] ++ (List.finRange 8).map vcoreRail)
      :: ((if dst = 3 then [.gate] else []) ++ [.train, .align, .linksUp, .portsUp, .announce]) := by
  obtain rfl | rfl := wakes <;> rfl

/-- The steps out of Doze. -/
theorem State.stepsFor_doze (s : State) {dst : BitVec 8} (wakes : dst = 3 ∨ dst = 4) :
    s.stepsFor 2 dst = .railsUp ((List.finRange 8).map vcoreRail)
      :: ((if dst = 3 then [.gate] else []) ++ [.align, .exitRefresh, .linksUp, .portsUp, .announce]) := by
  obtain rfl | rfl := wakes <;> rfl

/-- Out of Doze or Deep. -/
theorem State.Settled.leavesSleep (st : s.Settled) (asleep : s.hub.power.state = 1 ∨ s.hub.power.state = 2)
    (asks : s.hub.power.request = 3 ∨ s.hub.power.request = 4) (good : s.hub.board.pwrgd = true) (paced : s.vcorePaced = true)
    (down : ∀ m : DieIx, (s.rail (vcoreRail m)).enabled = false ∧ (s.rail (vcoreRail m)).good = false) :
    let gate : List TransStep := if s.hub.power.request = 3 then [.gate] else []
    let vcore := (List.finRange 8).map vcoreRail
    ∃ t, exec .powerTransition s = .next t ∧ t.hub.power.state = s.hub.power.state ∧ t.dies = s.dies ∧ t.ports = s.ports
      ∧ (s.hub.power.state = 2 → ∀ k ks, s.vcoreRails = k :: ks →
          t.hub.power.trans = some ⟨s.hub.power.request,
            .railsUp vcore :: (gate ++ [.align, .exitRefresh, .linksUp, .portsUp, .announce]), true, s.now⟩
          ∧ t.hub.power.goal = .up (k :: ks) ∧ t.hub.power.rails[k].enabled = true)
      ∧ (s.hub.power.state = 1 → (s.rail vdram).enabled = false → (s.rail vdram).good = false → (s.rail vwl).good = false →
          t.hub.power.trans = some ⟨s.hub.power.request,
            .railsUp ([vdram, vwl] ++ vcore) :: (gate ++ [.train, .align, .linksUp, .portsUp, .announce]), true, s.now⟩
          ∧ t.hub.power.goal = .up (vdram :: vwl :: s.vcoreRails) ∧ t.hub.power.rails[vdram].enabled = true) := by
  intro gate vcore
  have differs : s.hub.power.request ≠ s.hub.power.state := by
    obtain asks | asks := asks <;> obtain asleep | asleep := asleep <;> rw [asks, asleep] <;> decide
  have low : ∀ j ∈ s.vcoreRails, (s.rail j).good = false := fun j listed => by
    obtain ⟨m, rfl⟩ := State.vcoreRails_mem listed
    exact (down m).2
  obtain deep | doze := asleep
  · obtain ⟨t, goes, state, dies, ports, rise⟩ := st.wakes differs (deep ▸ s.stepsFor_deep asks) (by simp)
    refine ⟨t, goes, state, dies, ports, fun doze => absurd (deep.symm.trans doze) (by decide), fun _ still high wl => ?_⟩
    refine rise good paced vdram (vwl :: s.vcoreRails) s.all_mayRise still fun j listed => ?_
    obtain rfl | listed := List.mem_cons.1 listed
    · exact high
    · obtain rfl | listed := List.mem_cons.1 listed
      · exact wl
      · exact low j listed
  · obtain ⟨t, goes, state, dies, ports, rise⟩ := st.wakes differs (doze ▸ s.stepsFor_doze asks) (by simp)
    refine ⟨t, goes, state, dies, ports, fun _ k ks first => ?_, fun deep => absurd (doze.symm.trans deep) (by decide)⟩
    obtain ⟨m, rfl⟩ := State.vcoreRails_mem (first ▸ List.mem_cons_self : k ∈ s.vcoreRails)
    exact rise good paced _ ks (s.vcore_mayRise.trans first) (down m).1 (first ▸ low)

end

/-! ### A transition in progress -/

section
variable {s : State} {x : Trans} {k : TransStep} {rest : List TransStep}

/-- A step that begins and ends at once, and whose end does nothing. -/
theorem State.transGo_once (steps : x.steps = k :: rest) (fresh : x.begun = false) (plain : k ≠ .gate) (ends : ∀ u : State, u.stepOver k = true)
    (still : ∀ u : State, u.endStep k = u) : s.transGo x = ((s.begunTrans x).beginStep k).transNext x rest := by
  rw [State.transGo_begins steps fresh plain, if_pos (ends _), still]

/-- A step in progress whose end does nothing gives way to the next, or goes on. -/
theorem State.transGo_more (steps : x.steps = k :: rest) (begun : x.begun = true) (plain : k ≠ .gate) (more : rest ≠ [])
    (on : s.hub.power.wantOff = false) (still : s.stepOver k = true → s.endStep k = s) :
    s.transGo x = if s.stepOver k then s.nextStep x rest else s := by
  rw [State.transGo_goes steps begun plain]
  split
  · next done => rw [still done, State.transNext_more on more]
  · rfl

/-- The DRAM trains until every die has a result. -/
theorem exec_trains (going : s.hub.power.trans = some x) (steps : x.steps = .train :: rest) (begun : x.begun = true) (more : rest ≠ [])
    (on : s.hub.power.wantOff = false) :
    ((∀ d ∈ s.dies.toList, d.pow.vcoreOn = true → d.pow.result ≠ .notUp) → exec .powerTransition s = .next (s.nextStep x rest))
    ∧ ((∃ d ∈ s.dies.toList, d.pow.vcoreOn = true ∧ d.pow.result = .notUp) → exec .powerTransition s = .next s) := by
  rw [exec_powerTransition_going going, State.transGo_more steps begun nofun more on fun _ => rfl]
  constructor
  · intro trained
    refine congrArg Host.Outcome.next (if_pos (List.all_eq_true.2 fun d hd => ?_))
    cases powered : d.pow.vcoreOn
    · rfl
    · simpa using trained d hd powered
  · rintro ⟨d, hd, powered, waits⟩
    refine congrArg Host.Outcome.next (if_neg ?_)
    rw [Bool.not_eq_true]
    exact List.all_eq_false.2 ⟨d, hd, by rw [powered, waits]; decide⟩

/-- After a step that begins and ends at once the next one is due, and the rest is as the step has left it. -/
theorem exec_once (going : s.hub.power.trans = some x) (steps : x.steps = k :: rest) (fresh : x.begun = false) (plain : k ≠ .gate)
    (more : rest ≠ []) (ends : ∀ u : State, u.stepOver k = true) (still : ∀ u : State, u.endStep k = u)
    (stays : ((s.begunTrans x).beginStep k).hub.power.wantOff = false) :
    ∃ t, exec .powerTransition s = .next t ∧ t.hub.power.trans = some { x with steps := rest, begun := false }
      ∧ t.ports = ((s.begunTrans x).beginStep k).ports ∧ t.dies = ((s.begunTrans x).beginStep k).dies := by
  rw [exec_powerTransition_going going, State.transGo_once steps fresh plain ends still, State.transNext_more stays more]
  exact ⟨_, rfl, rfl, rfl, rfl⟩

/-- The counters are aligned at once. -/
theorem exec_aligns (going : s.hub.power.trans = some x) (steps : x.steps = .align :: rest) (fresh : x.begun = false) (more : rest ≠ [])
    (on : s.hub.power.wantOff = false) :
    ∃ t, exec .powerTransition s = .next t ∧ t.hub.power.trans = some { x with steps := rest, begun := false } ∧ t.ports = s.ports
      ∧ ∀ m : DieIx, s.dies[m].pow.vcoreOn = true → s.dies[m].pow.lane = true → s.mayStep = true →
          64000 < (s.dieOffset m).natAbs → t.dies[m].clock.tc = s.hub.time.tc := by
  obtain ⟨hub, begun⟩ := (s.begunTrans x).beginAlign_rest
  have stays : ((s.begunTrans x).beginStep .align).hub.power.wantOff = false := by
    rw [hub]
    exact on
  obtain ⟨t, goes, next, ports, dies⟩ := exec_once going steps fresh nofun more (fun _ => rfl) (fun _ => rfl) stays
  refine ⟨t, goes, next, ports.trans begun, fun m powered lane may far => ?_⟩
  have step := State.beginAlign_steps (s := s.begunTrans x) (m := m) powered lane may far
  rw [← dies] at step
  exact step

/-- Self-refresh ends at once on the dies that it reaches. -/
theorem exec_leavesRefresh (going : s.hub.power.trans = some x) (steps : x.steps = .exitRefresh :: rest) (fresh : x.begun = false)
    (more : rest ≠ []) (on : s.hub.power.wantOff = false) :
    ∃ t, exec .powerTransition s = .next t ∧ t.hub.power.trans = some { x with steps := rest, begun := false } ∧ t.ports = s.ports
      ∧ ∀ m : DieIx, t.dies[m] = s.dies[m].leaveSelfRefresh := by
  obtain ⟨t, goes, next, ports, dies⟩ := exec_once going steps fresh nofun more (fun _ => rfl) (fun _ => rfl) on
  refine ⟨t, goes, next, ports, fun m => ?_⟩
  rw [dies]
  exact (s.begunTrans x).exitRefresh_die m

/-- Ports ask for full rate. -/
theorem exec_asksFull {q : PortIx} (going : s.hub.power.trans = some x) (steps : x.steps = .portsUp :: rest) (fresh : x.begun = false)
    (low : s.ports[q].link.st = .lowRate) (auto : s.ports[q].cmd ≠ 2) :
    exec .powerTransition s = .next ((s.begunTrans x).beginStep .portsUp) := by
  rw [exec_powerTransition_going going, State.transGo_begins steps fresh nofun]
  exact congrArg Host.Outcome.next (if_neg (by rw [State.portsUp_waits (s := s.begunTrans x) low auto]; decide))

/-- Ports that have asked are waited for. -/
theorem exec_awaitsPorts (going : s.hub.power.trans = some x) (steps : x.steps = .portsUp :: rest) (begun : x.begun = true) (more : rest ≠ [])
    (on : s.hub.power.wantOff = false) :
    ((∀ p ∈ s.ports.toList, p.link.st ≠ .training ∧ p.rising = none) → exec .powerTransition s = .next (s.nextStep x rest))
    ∧ ((∃ p ∈ s.ports.toList, p.link.st = .training ∨ p.rising ≠ none) → exec .powerTransition s = .next s) := by
  rw [exec_powerTransition_going going, State.transGo_more steps begun nofun more on fun _ => rfl]
  constructor
  · intro calm
    refine congrArg Host.Outcome.next (if_pos (List.all_eq_true.2 fun p hp => ?_))
    obtain ⟨trained, still⟩ := calm p hp
    simp [trained, still]
  · rintro ⟨p, hp, waits⟩
    refine congrArg Host.Outcome.next (if_neg ?_)
    rw [Bool.not_eq_true]
    refine List.all_eq_false.2 ⟨p, hp, ?_⟩
    obtain training | rising := waits
    · simp [training]
    · simp [rising]

/-- The module announces itself, and its transition ends. -/
theorem exec_announces (going : s.hub.power.trans = some x) (steps : x.steps = [.announce]) (fresh : x.begun = false)
    (on : s.hub.power.wantOff = false) :
    exec .powerTransition s = .next (((s.begunTrans x).beginStep .announce).transEnd x.target) := by
  have stays : ((s.begunTrans x).beginStep .announce).hub.power.wantOff = false := by
    rw [State.beginAnnounce_hub]
    exact on
  rw [exec_powerTransition_going going, State.transGo_once steps fresh nofun (fun _ => rfl) (fun _ => rfl), State.transNext_last stays]

/-- Quiescing ends with quiet, and goes on before it is late. -/
theorem exec_quiesceEnd_going (going : s.hub.power.trans = some x) (steps : x.steps = .quiesce :: rest) (begun : x.begun = true)
    (on : s.hub.power.wantOff = false) :
    (s.quiet = true → rest ≠ [] → exec .quiesceEnd s = .next (s.nextStep x rest))
    ∧ (s.quiet = false → s.quiesceLate = false → exec .quiesceEnd s = .next s) := by
  have goes : exec .quiesceEnd s = .next (s.transGo x) := by
    show Host.Outcome.next s.quiesceEnd = _
    rw [State.quiesceEnd, going]
    exact congrArg Host.Outcome.next (if_pos (by rw [begun, steps]; rfl))
  have ends : s.stepOver .quiesce = (s.quiet || s.quiesceLate) := rfl
  rw [goes]
  constructor
  · intro quiet more
    rw [State.transGo_more steps begun nofun more on fun _ => if_pos quiet, ends, quiet]
    rfl
  · intro loud early
    rw [State.transGo_goes steps begun nofun, ends, loud, early]
    rfl

end

/-! ### A removal (R451) -/

section
variable {s : State}

/-- The way of a removal to Off. -/
def removalTrans : Trans :=
  { target := 0, steps := [.commit, .portsDisabled, .linksDown, .railsDown railOrder.reverse, .pwrEnLow], begun := false }

theorem exec_quiesceEnd_removal (idle : s.hub.power.trans = none) (quiesces : s.hub.bring.removal = 2) (quiet : s.quiet = true) :
    exec .quiesceEnd s = .next ((s.setRemoval 3).modHub (fun h => { h with power := { h.power with
      request := 0, trans := some removalTrans } })) := by
  show Host.Outcome.next s.quiesceEnd = _
  have ends : s.endStep .quiesce = s := if_pos quiet
  rw [State.quiesceEnd]
  dsimp only
  rw [idle]
  dsimp only
  rw [if_pos (by rw [quiesces, quiet]; rfl), ends]
  rfl

theorem exec_removalDrainEnd_drained (drains : s.hub.bring.removal = 1) (empty : ∀ d ∈ s.dies.toList, d.plan = none ∧ d.pow.clearing = false) :
    ∃ ports, exec .removalDrainEnd s = .next { s with ports := ports, hub := (s.setRemoval 2).hub.quiesced } := by
  have all : (s.dies.toList.all fun d => d.plan.isNone && !d.pow.clearing) = true := List.all_eq_true.2 fun d hd => by
    obtain ⟨plan, clear⟩ := empty d hd
    rw [plan, clear]
    rfl
  obtain ⟨ports, begun⟩ := (s.setRemoval 2).quiesceBegin_eq
  refine ⟨ports, ?_⟩
  show Host.Outcome.next s.drainEnd = _
  rw [State.drainEnd, if_pos (by rw [drains, all]; rfl), begun]
  rfl

end

/-! ### The statement -/

/-- Settles O49: a request of a settled module, the steps of a transition in progress, and a removal, each by the lemma on its step. -/
theorem powerStatesChange : Obligations.PowerStatesChange := by
  intro s rest t0 h p
  refine ⟨fun idle works calm stays on => ?_, fun k begun going on => ?_, fun going on => ?_, fun idle quiesces quiet => ?_,
    fun drains empty => ?_⟩
  · have st : s.Settled := ⟨idle, works, calm, stays, on⟩
    exact ⟨st.idles, st.runs, st.goesOff, st.sleeps, st.leavesSleep, exec_powerTransition_settled idle⟩
  · refine ⟨?_, ?_, ?_, ?_, ?_⟩
    · rintro rfl more rfl
      obtain ⟨trained, waits⟩ := exec_trains going rfl rfl more on
      exact ⟨fun all => ⟨_, trained all, rfl⟩, waits⟩
    · rintro rfl more rfl
      exact (exec_aligns going rfl rfl more on :)
    · rintro rfl more rfl
      obtain ⟨t, goes, next, ports, die⟩ := exec_leavesRefresh going rfl rfl more on
      refine ⟨t, goes, next, ports, fun m => ?_⟩
      rw [die m]
      exact ⟨Die.leaveSelfRefresh_leaves, Die.leaveSelfRefresh_stays⟩
    · rintro rfl more
      refine ⟨?_, ?_, ?_⟩
      · rintro rfl ⟨q, low, auto⟩
        obtain ⟨hub, dies⟩ := (s.begunTrans { t0 with steps := .portsUp :: rest, begun := false }).beginPortsUp_rest
        refine ⟨_, exec_asksFull going rfl rfl low auto, dies, congrArg (·.power.trans) hub, fun q low auto calm => ?_⟩
        rw [State.portsUp_asks (s := s.begunTrans _) low auto calm]
        exact ⟨rfl, rfl⟩
      · rintro rfl calm
        exact ⟨_, (exec_awaitsPorts going rfl rfl more on).1 calm, rfl, rfl, rfl⟩
      · rintro rfl waits
        exact (exec_awaitsPorts going rfl rfl more on).2 waits
    · rintro rfl rfl rfl awake
      obtain ⟨-, ports, state, trans⟩ :=
        ((s.begunTrans { t0 with steps := [.announce], begun := false }).beginStep .announce).transEnd_awake awake
      refine ⟨_, exec_announces going rfl rfl on, state, trans, fun q talks => ?_⟩
      rw [ports]
      exact State.announce_counts (s := s.begunTrans _) talks
  · obtain ⟨ends, waits⟩ := exec_quiesceEnd_going going rfl rfl on
    exact ⟨fun quiet more => ⟨_, ends quiet more, rfl, rfl⟩, waits⟩
  · exact ⟨_, exec_quiesceEnd_removal idle quiesces quiet, rfl, rfl, rfl, rfl⟩
  · obtain ⟨ports, goes⟩ := exec_removalDrainEnd_drained drains empty
    exact ⟨_, goes, rfl, rfl, rfl, rfl⟩

end Sys2Proof.Machine

/-! # Increments apply together (O30)

First the five steps of R258 on a counter, then what a fault of a counter leaves of its core, and last the landing itself. -/

namespace Sys2Proof.Machine

/-! ### One counter (R258) -/

theorem Counter.apply_depth (x : Counter) (ds dc : Nat) : (x.apply ds dc).ctr.depth = x.depth := rfl

/-- Steps 1 to 3 on C: its sum, as far as the count reaches, and never past S'. -/
theorem Counter.apply_c (x : Counter) (ds dc : Nat) :
    (x.apply ds dc).ctr.c.toNat = min (min (x.c.toNat + dc) maxCount) (min (x.s.toNat + ds) maxCount) := by
  refine (BitVec.toNat_ofNat _ _).trans (Nat.mod_eq_of_lt ?_)
  unfold maxCount
  omega

/-- Steps 1, 2 and 4 on S: its sum, as far as the count reaches, and never further past C' than the depth. -/
theorem Counter.apply_s (x : Counter) (ds dc : Nat) :
    (x.apply ds dc).ctr.s.toNat = min (min (x.s.toNat + ds) maxCount) ((x.apply ds dc).ctr.c.toNat + x.depth.toNat) := by
  rw [Counter.apply_c]
  refine (BitVec.toNat_ofNat _ _).trans (Nat.mod_eq_of_lt ?_)
  unfold maxCount
  omega

theorem Counter.apply_top {x : Counter} {ds dc : Nat} (h : maxCount < x.s.toNat + ds ∨ maxCount < x.c.toNat + dc) :
    2 ∈ (x.apply ds dc).kinds := by
  simp [Counter.apply, h]

theorem Counter.apply_unf {x : Counter} {ds dc : Nat} (h : min (x.s.toNat + ds) maxCount < min (x.c.toNat + dc) maxCount) :
    1 ∈ (x.apply ds dc).kinds := by
  simp only [Counter.apply, decide_eq_true h, if_true, List.mem_append, List.mem_singleton, true_or, or_true]

theorem Counter.apply_ovf {x : Counter} {ds dc : Nat}
    (h : x.depth.toNat < min (x.s.toNat + ds) maxCount - (x.apply ds dc).ctr.c.toNat) : 0 ∈ (x.apply ds dc).kinds := by
  rw [Counter.apply_c] at h
  simp only [Counter.apply, decide_eq_true h, if_true, List.mem_append, List.mem_singleton, or_true]

/-! ### Faults of a counter (R258, R274) -/

theorem counterBit_lt (kind : Nat) : (counterBit kind).bit < 64 := by
  unfold counterBit
  split <;> decide

/-- A core with a fault of one of its counters captured and set. -/
def Core.counterFaulted (sc : Fin 64) (incs : List Inc) (k : Core) (kind : Nat) : Core :=
  { k with sync := { k.sync with cap := k.sync.cap.take sc kind incs, fault := setBit k.sync.fault (counterBit kind).bit } }

theorem Die.enqueue_cores (d : Die) (e : Event) : (d.enqueue e).cores = d.cores := by
  have h := congrArg Die.cores (d.enqueue_only e)
  exact h

theorem Die.counterFault_core (d : Die) (c : CoreIx) (sc : Fin 64) (kind : Nat) (incs : List Inc) :
    (d.counterFault c sc kind incs).cores[c] = d.cores[c].counterFaulted sc incs kind := by
  let e := (d.modCore c fun k => { k with sync := { k.sync with cap := k.sync.cap.take sc kind incs } }).setFault (.sync c)
    (counterBit kind).bit
  have core : e.cores[c] = d.cores[c].counterFaulted sc incs kind := by
    dsimp only [e]
    rw [Die.setFault_eq]
    show ((d.modCore c _).modCore c _).cores[c] = _
    rw [Die.modCore_modCore]
    exact d.modCore_core c _
  refine Eq.trans ?_ core
  unfold Die.counterFault
  extract_lets b captured faulted key
  split
  · rfl
  · exact congrArg (·[c]) (Die.enqueue_cores { faulted with once := key :: faulted.once } _)

theorem Core.counterFaults_frame (sc : Fin 64) (incs : List Inc) (kinds : List Nat) (k : Core) :
    let e := kinds.foldl (Core.counterFaulted sc incs) k
    e.sync.ctr = k.sync.ctr ∧ e.sync.incs = k.sync.incs ∧ e.scratch = k.scratch := by
  induction kinds generalizing k with
  | nil => exact ⟨rfl, rfl, rfl⟩
  | cons kind kinds ih => exact ih (k.counterFaulted sc incs kind)

/-- A bit that is set stays through the faults of a landing. -/
theorem Core.counterFaults_keep {sc : Fin 64} {incs : List Inc} {kinds : List Nat} {k : Core} {n : Nat}
    (set : bit k.sync.fault n = true) : bit (kinds.foldl (Core.counterFaulted sc incs) k).sync.fault n = true := by
  induction kinds generalizing k with
  | nil => exact set
  | cons kind kinds ih => exact ih (bit_setBit_of_bit _ set)

/-- Every kind of fault in a landing sets its bit. -/
theorem Core.counterFaults_set {sc : Fin 64} {incs : List Inc} {kinds : List Nat} {kind : Nat} (mem : kind ∈ kinds) (k : Core) :
    bit (kinds.foldl (Core.counterFaulted sc incs) k).sync.fault (counterBit kind).bit = true := by
  induction kinds generalizing k with
  | nil => cases mem
  | cons first kinds ih =>
    rcases List.mem_cons.mp mem with rfl | later
    · exact Core.counterFaults_keep (k := k.counterFaulted sc incs kind) (bit_setBit_same _ (counterBit_lt kind))
    · exact ih later _

/-! ### The landing (R258, R263) -/

/-- An increment on the counter sc lands by the end of clock cycle clk. -/
def Inc.lands (sc : Fin 64) (clk : Nat) (i : Inc) : Bool := decide (i.sc = sc) && decide (i.due ≤ clk)

/-- What R258 makes of a core's counter with the increments that land on it. -/
def Sync.applied (y : Sync) (sc : Fin 64) (clk : Nat) : Applied :=
  y.ctr[sc].apply (amounts (y.incs.filter (Inc.lands sc clk)) false) (amounts (y.incs.filter (Inc.lands sc clk)) true)

/-- A core that has taken the increments landing on a counter, and the answers they carry, before any fault. -/
def Core.counterLanded (k : Core) (sc : Fin 64) (clk : Nat) : Core :=
  { k with
    sync := { k.sync with
      incs := k.sync.incs.filter (fun i => !i.lands sc clk), ctr := vupd k.sync.ctr sc (fun _ => (k.sync.applied sc clk).ctr) }
    rings := ((k.sync.incs.filter (Inc.lands sc clk)).filterMap (·.ans)).foldl Rings.answered k.rings }

theorem Core.counterLanded_same (k : Core) (sc : Fin 64) (clk : Nat) :
    (k.counterLanded sc clk).sync.ctr[sc] = (k.sync.applied sc clk).ctr := vupd_get_self _ _ _

theorem Core.counterLanded_other (k : Core) {sc x : Fin 64} (clk : Nat) (h : x ≠ sc) :
    (k.counterLanded sc clk).sync.ctr[x] = k.sync.ctr[x] := vupd_get_other _ _ h

/-- With a plan in force a die takes an increment of its own cores, and one of the plan's job. -/
theorem Die.foreign_own {d : Die} {p : Loaded} {i : Inc} (plan : d.plan = some p) (clear : d.pow.clearing = false)
    (job : i.rem = true → i.job = p.job) : d.foreign i = false := by
  unfold Die.foreign
  rw [plan]
  simpa [clear] using job

/-- Increments that the die takes land together on a declared counter, and then the faults of their steps. -/
theorem Die.landCounter_core {d : Die} {c : CoreIx} {sc : Fin 64} (own : ∀ i ∈ d.cores[c].sync.incs, d.foreign i = false)
    (decl : d.cores[c].sync.ctr[sc].decl = true) (arrives : d.cores[c].sync.incs.filter (Inc.lands sc d.clock.clk) ≠ []) :
    (d.landCounter c sc).cores[c] = (d.cores[c].sync.applied sc d.clock.clk).kinds.foldl
      (Core.counterFaulted sc (d.cores[c].sync.incs.filter (Inc.lands sc d.clock.clk)))
      (d.cores[c].counterLanded sc d.clock.clk) := by
  unfold Die.landCounter
  extract_lets due all bad good taken faulted x r counted
  have ownAll : ∀ i ∈ all, d.foreign i = false := fun i hi => own i (List.mem_of_mem_filter hi)
  have noneBad : bad = [] := List.filter_eq_nil_iff.mpr fun i hi => by simp [ownAll i hi]
  have allGood : good = all := List.filter_eq_self.mpr fun i hi => by simp [ownAll i hi]
  have unfaulted : faulted = taken := by
    dsimp only [faulted]
    rw [noneBad]
    rfl
  have counter : x = d.cores[c].sync.ctr[sc] := by
    dsimp only [x]
    rw [unfaulted, Die.modCore_core]
  have applied : r = d.cores[c].sync.applied sc d.clock.clk := by
    dsimp only [r]
    rw [counter, allGood]
    rfl
  have landed : counted.cores[c] = d.cores[c].counterLanded sc d.clock.clk := by
    dsimp only [counted]
    rw [unfaulted, Die.modCore_modCore, applied, Die.modCore_core]
    dsimp only [taken]
    rw [allGood]
    rfl
  have nonempty : ¬all.isEmpty = true := fun none_ => arrives (List.isEmpty_iff.mp none_)
  rw [if_neg nonempty, if_neg (allGood ▸ nonempty), if_pos (counter ▸ decl), allGood, applied, ← landed]
  exact (List.foldl_hom (fun e : Die => e.cores[c]) fun e kind => (e.counterFault_core c sc kind all).symm).symm

/-! ### The statement -/

/-- Settles O30: the core of the landing by `Die.landCounter_core`, its counter by the five steps of `Counter.apply`, and a bit
for each step that changes a value by `Core.counterFaults_set`. -/
theorem incrementsApplyTogether : Obligations.IncrementsApplyTogether := by
  unfold Obligations.IncrementsApplyTogether
  intro s a sc p runs d y due total plan clear job decl arrives top s1 c1 c2 s2
  let all := y.incs.filter due
  let r := y.applied sc (clockCycle s a)
  let landed := (s.core a).counterLanded sc (clockCycle s a)
  have own : ∀ i ∈ y.incs, d.foreign i = false := fun i hi => Die.foreign_own plan clear (job i hi)
  have core : (s.modDie a.die (·.landCounter a.core sc)).core a = r.kinds.foldl (Core.counterFaulted sc all) landed :=
    (State.modDie_core s a _).trans (Die.landCounter_core own decl arrives)
  obtain ⟨ctr, incs, scratch⟩ := Core.counterFaults_frame sc all r.kinds landed
  have same : landed.sync.ctr[sc] = r.ctr := (s.core a).counterLanded_same sc _
  have raised := fun (kind : Nat) (mem : kind ∈ r.kinds) => Core.counterFaults_set (sc := sc) (incs := all) mem landed
  have hc : r.ctr.c.toNat = c2 := Counter.apply_c _ _ _
  have hs : r.ctr.s.toNat = min s1 (c2 + y.ctr[sc].depth.toNat) := hc ▸ Counter.apply_s _ _ _
  refine ⟨_, onDie_runs _ runs, onlyDie_modDie s a.die _, ?_⟩
  rw [SameScratch, core, ctr, incs, scratch, same]
  refine ⟨?_, hc, Counter.apply_depth _ _ _, fun x hx => (s.core a).counterLanded_other _ hx, rfl,
    fun above => raised 2 (Counter.apply_top above), fun below => raised 1 (Counter.apply_unf below),
    fun deep => raised 0 (Counter.apply_ovf (hc.symm ▸ deep)), fun _ => rfl⟩
  rw [hs]
  dsimp only [s2]
  split <;> omega

end Sys2Proof.Machine

/-! # Every step keeps the queue and the modes (O1, O2, O60)

Whatever the module does, it takes nothing from the queue of commands and adds nothing to it, and the modes of R304, R361, R446 and
R451 stay in their ranges. One lemma per operation says so, and the commands and the passing of time follow by composing them. -/

namespace Sys2Proof.Machine

/-! ### What is kept -/

/-- The modes of a hub die are states that the spec names. -/
def HubLegal (h : Hub) : Prop :=
  h.power.state.toNat ≤ 4 ∧ h.power.request.toNat ≤ 4 ∧ (∀ t : Trans, h.power.trans = some t → t.target.toNat ≤ 4)
    ∧ h.bring.removal.toNat ≤ 4 ∧ h.time.align.toNat ≤ 3

/-- From u to s the queue stays, and modes that were legal are legal. -/
def Orderly (u s : State) : Prop := s.pending = u.pending ∧ (HubLegal u.hub → HubLegal s.hub)

section
variable {u s t : State} {h : Hub}

theorem HubLegal.of_eq {a b : Hub} (g : HubLegal a) (e : HubLegal b = HubLegal a) : HubLegal b := e ▸ g

theorem HubLegal.ite {a b : Hub} {c : Prop} [Decidable c] (g : HubLegal a) (g' : HubLegal b) : HubLegal (if c then a else b) := by
  split
  · exact g
  · exact g'

theorem HubLegal.foldl {α : Type} {f : Hub → α → Hub} {l : List α} (hf : ∀ h a, HubLegal h → HubLegal (f h a)) (g : HubLegal h) :
    HubLegal (l.foldl f h) := by
  induction l generalizing h with
  | nil => exact g
  | cons a l ih => exact ih (hf h a g)

/-! ### The hub die -/

theorem HubLegal.event (g : HubLegal h) {sev unitk unit rule bit det} : HubLegal (h.event sev unitk unit rule bit det) := g
theorem HubLegal.setMrg (g : HubLegal h) {b : FBit} : HubLegal (h.setMrg b) := g

theorem HubLegal.eventOnce (g : HubLegal h) {sev unitk unit rule bit det} : HubLegal (h.eventOnce sev unitk unit rule bit det) := by
  unfold Hub.eventOnce
  dsimp only
  split <;> exact g

theorem HubLegal.mrgFault (g : HubLegal h) {b unit det} : HubLegal (h.mrgFault b unit det) := g.setMrg.eventOnce
theorem HubLegal.secFault (g : HubLegal h) {b det} : HubLegal (h.secFault b det) :=
  HubLegal.eventOnce (h := { h with sec := { h.sec with fault := setBit h.sec.fault b.bit, setNow := setBit h.sec.setNow b.bit } }) g
theorem HubLegal.protAt (g : HubLegal h) {rule unit} : HubLegal (h.protAt rule unit) := g.setMrg.eventOnce
theorem HubLegal.protBegins (g : HubLegal h) {rule mask} : HubLegal (h.protBegins rule mask) :=
  HubLegal.foldl (l := onesOf mask) (f := fun h i => h.protAt rule (unitIx i 0 0)) (fun _ _ g => g.protAt) g
theorem HubLegal.addReport (g : HubLegal h) {r : Bytes} : HubLegal (h.addReport r) := by
  obtain ⟨h1, h2, h3, h4, h5⟩ := g
  exact ⟨h1, h2, h3, h4, h5⟩
theorem HubLegal.sealBoot (g : HubLegal h) {f} : HubLegal (h.sealBoot f) := g
theorem HubLegal.sealFloor (g : HubLegal h) {f} : HubLegal (h.sealFloor f) := g
theorem HubLegal.takeCfg (g : HubLegal h) : HubLegal h.takeCfg := g
theorem HubLegal.firmwareUp (g : HubLegal h) {key} : HubLegal (h.firmwareUp key) := g

theorem HubLegal.pduFlit (g : HubLegal h) {n i f} : HubLegal (h.pduFlit n i f) := by
  unfold Hub.pduFlit
  dsimp only
  split <;> exact g

/-- A change of the alignment state to one of the four is legal. -/
theorem HubLegal.setAlign (g : HubLegal h) {st : BitVec 8} (hst : st.toNat ≤ 3) : HubLegal (h.setAlign st) := by
  unfold Hub.setAlign
  split
  · exact g
  · obtain ⟨h1, h2, h3, h4, -⟩ := g
    exact ⟨h1, h2, h3, h4, hst⟩

/-- What RST_N leaves has the modes of the reset. -/
theorem HubLegal.afterReset : HubLegal h.afterReset :=
  ⟨by show (0 : BitVec 8).toNat ≤ 4; decide, by show (4 : BitVec 8).toNat ≤ 4; decide, fun _ e => (Option.some_ne_none _ e.symm).elim,
    by show (0 : BitVec 8).toNat ≤ 4; decide, by show (0 : BitVec 8).toNat ≤ 3; decide⟩

/-- A restart of Marigold asks for the state that the module is in. -/
theorem HubLegal.restart (g : HubLegal h) : HubLegal h.restart := by
  obtain ⟨h1, -, h3, h4, h5⟩ := g
  exact ⟨h1, h1, h3, h4, h5⟩

theorem HubLegal.romBoot (g : HubLegal h) {key} : HubLegal (h.romBoot key) := by
  unfold Hub.romBoot
  extract_lets a b tags c
  have ga : HubLegal a := g
  have gb : HubLegal b := ga.secFault.ite ga
  have gc : HubLegal c := gb.ite gb.secFault
  clear_value a b tags c
  split
  dsimp only
  split <;> exact gc

theorem HubLegal.offTrans {x : Hub} (g : HubLegal h) (st : x.power.state = h.power.state) (rq : x.power.request = 0)
    (tr : ∃ y, x.power.trans = some y ∧ y.target = 0) (rm : x.bring.removal = h.bring.removal) (al : x.time.align = h.time.align) :
    HubLegal x := by
  obtain ⟨h1, -, -, h4, h5⟩ := g
  obtain ⟨y, hy, y0⟩ := tr
  refine ⟨st ▸ h1, rq ▸ by decide, fun t e => ?_, rm ▸ h4, al ▸ h5⟩
  obtain rfl := Option.some.inj (hy.symm.trans e)
  exact y0 ▸ by decide

theorem HubLegal.noTrans {x : Hub} (g : HubLegal h) (st : x.power.state = h.power.state) (rq : x.power.request = h.power.request)
    (tr : x.power.trans = none) (rm : x.bring.removal = h.bring.removal) (al : x.time.align = h.time.align) : HubLegal x := by
  obtain ⟨h1, h2, -, h4, h5⟩ := g
  exact ⟨st ▸ h1, rq ▸ h2, fun t e => (by cases tr.symm.trans e), rm ▸ h4, al ▸ h5⟩

/-- A hub die that takes another state, and bring-up entries of an attested module, has legal modes. -/
theorem HubLegal.joins (g : HubLegal h) {st : BitVec 8} {ready : BitVec 32} (hs : st.toNat ≤ 4) :
    HubLegal { h with bring := { h.bring with attested := true, ready := ready }, power := { h.power with state := st } } := by
  obtain ⟨-, g2, g3, g4, g5⟩ := g
  exact ⟨hs, g2, g3, g4, g5⟩

/-- A transition to a state that the spec names is legal. -/
theorem HubLegal.withTrans (g : HubLegal h) {t : Trans} (ht : t.target.toNat ≤ 4) :
    HubLegal { h with power := { h.power with trans := some t } } := by
  obtain ⟨g1, g2, -, g4, g5⟩ := g
  exact ⟨g1, g2, fun _ e => Option.some.inj e ▸ ht, g4, g5⟩

/-- So is a request for one. -/
theorem HubLegal.asks (g : HubLegal h) {v : BitVec 8} (hv : v.toNat ≤ 4) :
    HubLegal { h with power := { h.power with request := v } } := by
  obtain ⟨g1, -, g3, g4, g5⟩ := g
  exact ⟨g1, hv, g3, g4, g5⟩

/-- A transition ends in its target. -/
theorem HubLegal.transEnds (g : HubLegal h) {v : BitVec 8} (hv : v.toNat ≤ 4) :
    HubLegal { h with power := { h.power with trans := none, state := v, wantOff := false } } := by
  obtain ⟨-, g2, -, g4, g5⟩ := g
  exact ⟨hv, g2, fun _ e => (Option.some_ne_none _ e.symm).elim, g4, g5⟩

/-! ### Changes of the module -/

theorem Orderly.refl (s : State) : Orderly s s := ⟨rfl, id⟩

theorem Orderly.trans (h : Orderly u s) (g : Orderly s t) : Orderly u t := ⟨g.1.trans h.1, fun l => g.2 (h.2 l)⟩

theorem Orderly.ite {a b : State} {c : Prop} [Decidable c] (h : Orderly u a) (g : Orderly u b) : Orderly u (if c then a else b) := by
  split
  · exact h
  · exact g

theorem Orderly.iteFst {α : Type} {a b : State × α} {c : Prop} [Decidable c] (h : Orderly u a.1) (g : Orderly u b.1) :
    Orderly u (if c then a else b).1 := by
  split
  · exact h
  · exact g
theorem Orderly.fst {α : Type} {x : α} (h : Orderly u s) : Orderly u (s, x).1 := h

theorem Orderly.foldl {α : Type} {f : State → α → State} {l : List α} (hf : ∀ s a, Orderly u s → Orderly u (f s a))
    (h : Orderly u s) : Orderly u (l.foldl f s) := by
  induction l generalizing s with
  | nil => exact h
  | cons a l ih => exact ih (hf s a h)

theorem Orderly.iter {f : State → State} (hf : ∀ {s}, Orderly u s → Orderly u (f s)) {n : Nat} (h : Orderly u s) :
    Orderly u (iter f n s) := by
  induction n generalizing s with
  | zero => exact h
  | succ n ih => exact ih (hf h)

/-! ### Changes of one part -/

theorem Orderly.mkDies (h : Orderly u s) {ds : Vector Die 8} : Orderly u { s with dies := ds } := h
theorem Orderly.mkPorts (h : Orderly u s) {ps : Vector Port 24} : Orderly u { s with ports := ps } := h
theorem Orderly.mkHub (h : Orderly u s) {x : Hub} (hx : HubLegal s.hub → HubLegal x) : Orderly u { s with hub := x } :=
  ⟨h.1, fun l => hx (h.2 l)⟩
theorem Orderly.modDie (h : Orderly u s) {n : DieIx} {f : Die → Die} : Orderly u (s.modDie n f) := h
theorem Orderly.modCore (h : Orderly u s) {a : CoreRef} {f : Core → Core} : Orderly u (s.modCore a f) := h
theorem Orderly.modPort (h : Orderly u s) {p : PortIx} {f : Port → Port} : Orderly u (s.modPort p f) := h
theorem Orderly.modHub (h : Orderly u s) {f : Hub → Hub} (hf : HubLegal s.hub → HubLegal (f s.hub)) : Orderly u (s.modHub f) :=
  h.mkHub hf
theorem Orderly.drew (h : Orderly u s) : Orderly u s.drew := h

theorem Orderly.modLink (h : Orderly u s) {e : LinkEnd} {f : Link → Link} : Orderly u (s.modLink e f) := by
  cases e with
  | port p => exact h.modPort
  | pkg n a => exact h.modDie

/-! ### Faults of ports and candidates of the DRAM -/

theorem Orderly.portFault (h : Orderly u s) {p : PortIx} {b : FBit} {det : Option Bytes} : Orderly u (s.portFault p b det) := by
  unfold State.portFault
  exact h.modPort.modDie

theorem Orderly.candidate (h : Orderly u s) {a : CoreRef} {j : Fin 16} {sec : Nat} : Orderly u (s.candidate a j sec) := by
  unfold State.candidate
  dsimp only
  split
  · exact h
  · split
    · exact h.modDie
    · exact h.modHub (fun g => by refine HubLegal.event ?_; exact g)

theorem Orderly.scrubDue (h : Orderly u s) {a : CoreRef} {j : Fin 16} {e : SectorErr} : Orderly u (s.scrubDue a j e) := by
  unfold State.scrubDue
  dsimp only
  split
  · exact h
  · split
    · split
      · exact h.modDie.modDie.candidate
      · split
        · exact h.modDie.candidate
        · exact h.modDie
      · exact h.modDie
    · exact h.modDie

theorem Orderly.round (h : Orderly u s) {n : DieIx} {ch : ChanIx} {kind : RoundKind} {e : SectorErr} :
    Orderly u (s.round n ch kind e) := by
  unfold State.round
  exact h.modDie.scrubDue

theorem Orderly.windowBegins (h : Orderly u s) {n : DieIx} {ch : ChanIx} {err : SectorErr} :
    Orderly u (s.windowBegins n ch err) := by
  unfold State.windowBegins
  split
  · exact h.modDie
  · exact h.round

theorem Orderly.intervalRound (h : Orderly u s) {n : DieIx} {ch : ChanIx} {err : SectorErr} :
    Orderly u (s.intervalRound n ch err) := by
  unfold State.intervalRound
  exact Orderly.ite h.round h

theorem Orderly.preTickRound (h : Orderly u s) {n : DieIx} {errs : List (ChanIx × SectorErr)} :
    Orderly u (s.preTickRound n errs) := by
  unfold State.preTickRound
  split
  · exact Orderly.foldl (fun _ _ h => h.round) h.modDie
  · exact h

theorem Orderly.forcedRound (h : Orderly u s) {n : DieIx} {ch : ChanIx} {errs : List (ChanIx × SectorErr)} :
    Orderly u (s.forcedRound n ch errs) := by
  unfold State.forcedRound
  exact Orderly.ite h.modDie h

theorem Orderly.forcedBegins (h : Orderly u s) {n : DieIx} : Orderly u (s.forcedBegins n) := by
  unfold State.forcedBegins
  split
  · exact h
  · split
    · exact h
    · exact Orderly.foldl (fun _ _ h => h.round) h.modDie

theorem Orderly.bulkClear (h : Orderly u s) {n : DieIx} : Orderly u (s.bulkClear n) := by
  unfold State.bulkClear
  exact Orderly.ite h.modDie h

/-! ### Link ends and time -/

theorem Orderly.oweCredit (h : Orderly u s) {e : LinkEnd} {f : Flit} : Orderly u (s.oweCredit e f) := by
  unfold State.oweCredit
  exact h.modLink

theorem Orderly.enqueueFlit (h : Orderly u s) {e : LinkEnd} {f : Flit} : Orderly u (s.enqueueFlit e f) := by
  unfold State.enqueueFlit
  exact h.modLink

theorem Orderly.countReplay (h : Orderly u s) {e : LinkEnd} : Orderly u (s.countReplay e) := by
  cases e with
  | port p => exact h.modPort
  | pkg n a => exact h

theorem Orderly.dieAlign (h : Orderly u s) {n : DieIx} : Orderly u (s.dieAlign n) := by
  unfold State.dieAlign
  dsimp only
  split
  · exact h
  · exact Orderly.ite h.modDie h.modDie

theorem Orderly.sendTime (h : Orderly u s) {p : PortIx} {body : Bytes} : Orderly u (s.sendTime p body) := by
  unfold State.sendTime
  exact h.enqueueFlit

theorem Orderly.exchangeStart (h : Orderly u s) {p : PortIx} : Orderly u (s.exchangeStart p) := by
  unfold State.exchangeStart
  dsimp only
  split
  · exact ((h.modHub id).modPort).sendTime
  · exact h

theorem Orderly.timeSync (h : Orderly u s) {p : PortIx} {tex : BitVec 16} {frac : BitVec 8} :
    Orderly u (s.timeSync p tex frac) := by
  unfold State.timeSync
  exact Orderly.ite h.modPort h

theorem Orderly.timeFollowUp (h : Orderly u s) {p : PortIx} {tex : BitVec 16} {t1 : BitVec 72} {trt : Bool} {_frac : BitVec 8} :
    Orderly u (s.timeFollowUp p tex t1 trt _frac) := by
  unfold State.timeFollowUp
  split
  · exact Orderly.ite h.modPort.sendTime h
  · exact h

theorem Orderly.timeDelayRequest (h : Orderly u s) {p : PortIx} {tex : BitVec 16} {frac : BitVec 8} :
    Orderly u (s.timeDelayRequest p tex frac) := by
  unfold State.timeDelayRequest
  split
  · exact Orderly.ite h.sendTime h
  · exact h

theorem Orderly.timeLeaves (h : Orderly u s) {p : PortIx} {f : Flit} : Orderly u (s.timeLeaves p f).1 := by
  unfold State.timeLeaves
  dsimp only
  split
  · exact h
  · split
    · exact h
    · split
      · exact h.modPort.sendTime
      · exact h.modPort
      · exact h

theorem Orderly.followRho (h : Orderly u s) {rho : Int} : Orderly u (s.followRho rho) := by
  unfold State.followRho
  exact h.mkDies

/-- An exchange that is found valid moves the alignment to Acquiring or Aligned, if at all (R304). -/
theorem Orderly.applyOffset (h : Orderly u s) {o : Int} {hops : BitVec 8} : Orderly u (s.applyOffset o hops) := by
  unfold State.applyOffset
  extract_lets step old new rho s₁
  refine Orderly.modHub h.followRho fun g => ?_
  extract_lets good t a b
  have ga : HubLegal a := g
  have gb : HubLegal b := ga.event.ite ga
  clear_value b
  refine HubLegal.ite (gb.setAlign ?_) (HubLegal.ite (gb.setAlign ?_) gb)
  · decide
  · decide

theorem Orderly.timeResponse (h : Orderly u s) {p : PortIx} {tex : BitVec 16} {t4 : BitVec 72} {trt : Bool} {thops : BitVec 8} :
    Orderly u (s.timeResponse p tex t4 trt thops) := by
  unfold State.timeResponse
  split
  · split
    · exact Orderly.ite h.modPort h.modPort.applyOffset
    · exact h
  · exact h

theorem Orderly.holdover (h : Orderly u s) : Orderly u s.holdover := by
  unfold State.holdover
  dsimp only
  split
  · exact h.modHub (fun g => by
    refine HubLegal.setAlign ?_ (by decide)
    exact g)
  · exact h

theorem Orderly.chooseUpstream (h : Orderly u s) : Orderly u s.chooseUpstream := by
  unfold State.chooseUpstream
  split
  · exact h.modHub (fun g => by
    refine HubLegal.setAlign ?_ (by decide)
    exact g)
  · split
    · exact h.modHub id
    · dsimp only
      split
      · exact h.modHub id
      · exact h.modHub (fun g => by
    refine HubLegal.setAlign ?_ (by decide)
    exact g)

theorem Orderly.upstreamLost (h : Orderly u s) : Orderly u s.upstreamLost := by
  unfold State.upstreamLost
  exact Orderly.ite h.chooseUpstream h

/-! ### Answers to the host and to cores -/

theorem Orderly.notifyHost (h : Orderly u s) {code : Nat} {o : HostOut} : Orderly u (s.notifyHost code o) := by
  unfold State.notifyHost
  split
  · exact h.enqueueFlit
  · exact h

theorem Orderly.answerHost (h : Orderly u s) {code : Nat} {m : MsgId} {by_ : Option (BitVec 23)} :
    Orderly u (s.answerHost code m by_) := by
  unfold State.answerHost
  split
  · exact Orderly.notifyHost (h.modHub id)
  · exact h

theorem Orderly.answerHere (h : Orderly u s) {n : DieIx} {c by_ : CoreIx} {code : Nat} {m : MsgId} {host : Bool} :
    Orderly u (s.answerHere n c by_ code m host) := by
  unfold State.answerHere
  exact Orderly.ite h.answerHost h.modDie

theorem Orderly.answerFlit (h : Orderly u s) {n : DieIx} {f : Flit} {code : Nat} {bridge : Bool} :
    Orderly u (s.answerFlit n f code bridge) := by
  unfold State.answerFlit
  split
  · exact h
  · split
    · exact h.answerHere
    · exact h.modDie

theorem Orderly.hostDone (h : Orderly u s) {x : ToHost} {code : Nat} : Orderly u (s.hostDone x code) := by
  unfold State.hostDone
  dsimp only
  split
  · exact (h.modHub id).answerFlit
  · exact h.modHub id

theorem Orderly.flushOut (h : Orderly u s) {e : LinkEnd} : Orderly u (s.flushOut e) := by
  unfold State.flushOut
  exact Orderly.modDie (by
      split
      · exact Orderly.modDie (by
      split
      · exact Orderly.foldl (fun _ _ h => h.hostDone) h
      · exact Orderly.foldl (fun _ _ h => h.answerFlit) h)
      · split
        · exact Orderly.foldl (fun _ _ h => h.hostDone) h
        · exact Orderly.foldl (fun _ _ h => h.answerFlit) h)

/-! ### Link ends -/

theorem Orderly.reportArrival (h : Orderly u s) {base : U32} {port st nb cause : BitVec 8} {gen : U32} :
    Orderly u (s.reportArrival base port st nb cause gen) := by
  unfold State.reportArrival
  split
  · exact h.modHub (fun g => by refine HubLegal.addReport ?_; exact g)
  · exact h

theorem Orderly.report (h : Orderly u s) {p : PortIx} {cause : Nat} : Orderly u (s.report p cause) := by
  unfold State.report
  dsimp only
  split
  · exact h
  · split
    · exact h.modHub (fun g => by refine HubLegal.addReport ?_; exact g)
    · exact h.modDie

theorem Orderly.raiseTopo (h : Orderly u s) : Orderly u s.raiseTopo := by
  unfold State.raiseTopo
  exact h.modHub id

theorem Orderly.dropLink (h : Orderly u s) {e : LinkEnd} {new : LinkState} : Orderly u (s.dropLink e new) := by
  unfold State.dropLink
  exact h.flushOut.modDie.modLink

theorem Orderly.portDown (h : Orderly u s) {p : PortIx} {new : LinkState} {cause : Nat} :
    Orderly u (s.portDown p new cause) := by
  unfold State.portDown
  exact (Orderly.raiseTopo (by
      split
      · exact h.dropLink.modPort.upstreamLost.portFault
      · exact h.dropLink.modPort.upstreamLost.modHub (fun g => by refine HubLegal.event ?_; exact g))).report

theorem Orderly.linkDown (h : Orderly u s) {e : LinkEnd} {new : LinkState} {cause : Nat} :
    Orderly u (s.linkDown e new cause) := by
  unfold State.linkDown
  split
  · split
    · exact h.portDown
    · exact h.dropLink
  · exact h

theorem Orderly.spoilExchange (h : Orderly u s) {p : PortIx} : Orderly u (s.spoilExchange p) := by
  unfold State.spoilExchange
  exact h.modPort

theorem Orderly.askReplay (h : Orderly u s) {e : LinkEnd} : Orderly u (s.askReplay e) := by
  unfold State.askReplay
  dsimp only
  split
  · exact h.modLink.spoilExchange
  · exact h.modLink

theorem Orderly.replay (h : Orderly u s) {e : LinkEnd} {fseq : BitVec 12} : Orderly u (s.replay e fseq) := by
  unfold State.replay
  split
  · exact Orderly.linkDown (by
      split
      · exact h.portFault
      · exact h)
  · dsimp only
    split
    · exact Orderly.ite h.countReplay.modLink.spoilExchange h.countReplay.modLink
    · exact h.countReplay.modLink

theorem Orderly.retryRequest (h : Orderly u s) {e : LinkEnd} {fseq : BitVec 12} : Orderly u (s.retryRequest e fseq) := by
  unfold State.retryRequest
  exact Orderly.ite h.replay h

theorem Orderly.replayTimeout (h : Orderly u s) {e : LinkEnd} : Orderly u (s.replayTimeout e) := by
  unfold State.replayTimeout
  split
  · exact Orderly.ite h.replay h
  · exact h

theorem Orderly.sendHello (h : Orderly u s) {p : PortIx} : Orderly u (s.sendHello p) := by
  unfold State.sendHello
  exact Orderly.ite h h.drew.modPort

theorem Orderly.trainingRetry (h : Orderly u s) {e : LinkEnd} : Orderly u (s.trainingRetry e) := by
  unfold State.trainingRetry
  cases e with
  | port p => exact h.modLink.modPort.sendHello.ite h
  | pkg n a => exact h.modLink.ite h

theorem Orderly.trainingFails (h : Orderly u s) {e : LinkEnd} : Orderly u (s.trainingFails e) := by
  unfold State.trainingFails
  exact h.modLink.upstreamLost

theorem Orderly.mismatch (h : Orderly u s) {p : PortIx} {new : LinkState} {nb : NbState} : Orderly u (s.mismatch p new nb) := by
  unfold State.mismatch
  exact h.portFault

theorem Orderly.trainingComplete (h : Orderly u s) {e : LinkEnd} {hello : PeerHello} :
    Orderly u (s.trainingComplete e hello) := by
  unfold State.trainingComplete
  split
  · exact h
  · split
    · exact h.trainingFails
    · split
      · exact h.modLink
      · dsimp only
        split
        · exact h.trainingFails
        · split
          · exact h.modPort
          · split
            · exact h.modPort.modPort.drew.enqueueFlit.ite h.modPort.modPort.drew
            · exact h.mismatch.trainingFails

theorem Orderly.keyRenewal (h : Orderly u s) {p : PortIx} {hello : PeerHello} : Orderly u (s.keyRenewal p hello) := by
  unfold State.keyRenewal
  dsimp only
  split
  · split
    · exact h.sendHello.modPort.drew
    · exact h.mismatch.linkDown
  · exact h

theorem Orderly.keyExpiry (h : Orderly u s) {p : PortIx} : Orderly u (s.keyExpiry p) := by
  unfold State.keyExpiry
  exact Orderly.ite h.portFault.linkDown h

theorem Orderly.retrain (h : Orderly u s) {p : PortIx} {limit : Nat} : Orderly u (s.retrain p limit) := by
  unfold State.retrain
  split
  · exact h.linkDown
  · exact (Orderly.ite h.dropLink.modPort h.dropLink.modPort.raiseTopo).sendHello

theorem Orderly.toLowRate (h : Orderly u s) {p : PortIx} : Orderly u (s.toLowRate p) := by
  unfold State.toLowRate
  exact Orderly.ite h.flushOut.modDie.modLink h

theorem Orderly.toFullRate (h : Orderly u s) {p : PortIx} : Orderly u (s.toFullRate p) := by
  unfold State.toFullRate
  exact Orderly.ite h.enqueueFlit.modPort h

theorem Orderly.riseNext (h : Orderly u s) {p : PortIx} : Orderly u (s.riseNext p) := by
  unfold State.riseNext
  split
  · exact Orderly.ite h.retrain h
  · exact h

theorem Orderly.moveIn (h : Orderly u s) {p : PortIx} {low : Bool} : Orderly u (s.moveIn p low) := by
  unfold State.moveIn
  split
  · exact h.toLowRate
  · exact Orderly.ite h.retrain h

theorem Orderly.announceAs (h : Orderly u s) {p : PortIx} {pst : BitVec 8} : Orderly u (s.announceAs p pst) := by
  unfold State.announceAs
  exact h.modPort.enqueueFlit

theorem Orderly.announce (h : Orderly u s) {p : PortIx} : Orderly u (s.announce p) := by
  unfold State.announce
  exact h.announceAs

theorem Orderly.announcementSend (h : Orderly u s) {p : PortIx} : Orderly u (s.announcementSend p) := by
  unfold State.announcementSend
  exact Orderly.ite h.announce h

theorem Orderly.announcementIn (h : Orderly u s) {p : PortIx} {a : Bytes} : Orderly u (s.announcementIn p a) := by
  unfold State.announcementIn
  extract_lets x b s₁ nb s₂ s₃ s₄ s₅
  have h₁ : Orderly u s₁ := h.modPort
  have h₂ : Orderly u s₂ := h₁.mismatch.ite h₁
  clear_value s₂
  have h₃ : Orderly u s₃ := by
    refine Orderly.ite (h₂.modHub ?_) h₂
    exact fun g => g.event
  clear_value s₃
  have h₅ : Orderly u s₅ := Orderly.modPort (h₃.modPort.ite h₃)
  clear_value s₅
  exact h.ite (h₅.ite h₅.raiseTopo).chooseUpstream

theorem Orderly.neighbourLost (h : Orderly u s) {p : PortIx} : Orderly u (s.neighbourLost p) := by
  unfold State.neighbourLost
  dsimp only
  split
  · split
    · exact ((h.retrain.portFault.modHub (fun g => by refine HubLegal.event ?_; exact g)).report).chooseUpstream
    · exact h
  · exact h

/-! ### Routers -/

theorem Orderly.defaultRoute (h : Orderly u s) {n : DieIx} : Orderly u (s.defaultRoute n) := by
  unfold State.defaultRoute
  exact h.modDie

theorem Orderly.defaultRoutes (h : Orderly u s) : Orderly u s.defaultRoutes := by
  unfold State.defaultRoutes
  exact Orderly.foldl (fun _ _ h => h.defaultRoute) h

theorem Orderly.writeImage (h : Orderly u s) {n : DieIx} {im : Bytes} : Orderly u (s.writeImage n im).1 := by
  unfold State.writeImage
  split <;> exact h.modDie

theorem Orderly.routeSwap (h : Orderly u s) {n : DieIx} : Orderly u (s.routeSwap n) := by
  unfold State.routeSwap
  dsimp only
  split
  · exact h
  · split
    · exact Orderly.ite h.modDie.modDie h.modDie.modDie
    · exact h.modDie

theorem Orderly.backPressure (h : Orderly u s) {n : DieIx} : Orderly u (s.backPressure n) := by
  unfold State.backPressure
  exact Orderly.ite h h.modDie

theorem Orderly.freePlace (h : Orderly u s) {n : DieIx} {i : Fin 7} {f : Flit} : Orderly u (s.freePlace n i f) := by
  unfold State.freePlace
  exact Orderly.ite h.oweCredit h

theorem Orderly.takeIn (h : Orderly u s) {n : DieIx} {i : Fin 7} {f : Flit} : Orderly u (s.takeIn n i f) := by
  unfold State.takeIn
  exact h.modDie.freePlace

theorem Orderly.discardHead (h : Orderly u s) {n : DieIx} {i : Fin 7} {f : Flit} {b : FBit} :
    Orderly u (s.discardHead n i f b) := by
  unfold State.discardHead
  exact h.takeIn.modDie.answerFlit

theorem Orderly.sendOut (h : Orderly u s) {n : DieIx} {i out : Fin 7} {dl : Bool} {f : Flit} :
    Orderly u (s.sendOut n i out dl f) := by
  unfold State.sendOut
  exact (Orderly.takeIn (by
      split
      · exact h
      · exact h.modHub id)).enqueueFlit

theorem Orderly.forwardOn (h : Orderly u s) {n : DieIx} {i : Fin 7} {r : Routed} {f : Flit}
    {t : State} (ht : s.forwardOn n i r f = some t) :
    Orderly u t := by
  unfold State.forwardOn at ht
  dsimp only at ht
  split at ht
  · cases ht
    exact h.modDie
  · split at ht <;> cases ht
    exact h.sendOut.modDie

theorem Orderly.forwardHead (h : Orderly u s) {n : DieIx} {i : Fin 7} {f : Flit}
    {t : State} (ht : s.forwardHead n i f = some t) :
    Orderly u t := by
  unfold State.forwardHead at ht
  split at ht
  · cases ht
    exact h.discardHead
  · split at ht
    · cases ht
      exact h.discardHead
    · split at ht
      · cases ht
        exact h.discardHead
      · split at ht
        · cases ht
        · exact h.modDie.forwardOn ht

theorem Orderly.forwardNext (h : Orderly u s) {n : DieIx} {i : Fin 7} {f : Flit}
    {t : State} (ht : s.forwardNext n i f = some t) :
    Orderly u t := by
  unfold State.forwardNext at ht
  dsimp only at ht
  split at ht
  · cases ht
    exact h.takeIn.modDie
  · split at ht
    · exact h.forwardOn ht
    · cases ht
      exact h.takeIn

/-- A management flit that is sent on, or whose output has no room. -/
theorem Orderly.sendMgmt (h : Orderly u s) {n : DieIx} {i out : Fin 7} {dl keep : Bool} {f : Flit} {t : State}
    (ht : (if !s.carriesPdu (endOf n out) then some ((s.takeIn n i f).modDie n (fun d => d.fault .router rtUnreach))
      else if outQueueLen ≤ (s.link (endOf n out)).outq.length then none
      else some ((s.sendOut n i out dl f).modDie n
        (fun d => if keep then { d with router := d.router.keepWay f.dst i out } else d))) = some t) : Orderly u t := by
  split at ht
  · cases ht
    exact h.takeIn.modDie
  · split at ht <;> cases ht
    exact h.sendOut.modDie

theorem Orderly.forwardMgmt (h : Orderly u s) {n : DieIx} {i : Fin 7} {f : Flit}
    {t : State} (ht : s.forwardMgmt n i f = some t) :
    Orderly u t := by
  unfold State.forwardMgmt at ht
  dsimp only at ht
  split at ht
  · cases ht
    exact h.takeIn.modDie
  · split at ht
    · split at ht
      · cases ht
        exact h.takeIn
      · exact h.sendMgmt ht
    · split at ht
      · split at ht <;> cases ht
        · exact h.takeIn.modHub fun g => g.pduFlit
        · exact h.takeIn.modDie
      · split at ht
        · cases ht
          exact h.takeIn.enqueueFlit.modDie
        · split at ht
          · cases ht
            exact h.takeIn.modDie
          · split at ht
            · cases ht
              exact h.takeIn.modDie
            · exact h.sendMgmt ht

theorem Orderly.forwardSingle (h : Orderly u s) {n : DieIx} {i : Fin 7} {f : Flit}
    {t : State} (ht : s.forwardSingle n i f = some t) :
    Orderly u t := by
  unfold State.forwardSingle at ht
  dsimp only at ht
  split at ht
  · exact h.forwardMgmt ht
  · split at ht
    · cases ht
      exact h.takeIn.modDie
    · split at ht
      · cases ht
        exact h.takeIn.modDie
      · split at ht
        · cases ht
          exact h.modDie
        · split at ht
          · cases ht
            exact h.takeIn.modDie
          · split at ht <;> cases ht
            exact h.sendOut

theorem Orderly.forwardFlit (h : Orderly u s) {n : DieIx} {i : Fin 7} {f : Flit}
    {t : State} (ht : s.forwardFlit n i f = some t) :
    Orderly u t := by
  unfold State.forwardFlit at ht
  split at ht
  · exact h.forwardHead ht
  · exact h.forwardNext ht
  · exact h.forwardSingle ht

theorem Orderly.routerForward (h : Orderly u s) {n : DieIx} {i : Fin 7} : Orderly u (s.routerForward n i) := by
  unfold State.routerForward
  split
  · next t ht =>
    obtain ⟨f, -, hf⟩ := List.exists_of_findSome?_eq_some ht
    exact (h.forwardFlit hf).backPressure
  · exact h

theorem Orderly.popLocal (h : Orderly u s) {n : DieIx} {x : Fin 7 × List Flit} : Orderly u (s.popLocal n x) := by
  unfold State.popLocal
  exact Orderly.foldl (fun _ _ h => h.freePlace) h.modDie

theorem Orderly.deliverMessage (h : Orderly u s) {n : DieIx} {x : Fin 7 × List Flit} {f : Flit} :
    Orderly u (s.deliverMessage n x f) := by
  unfold State.deliverMessage
  dsimp only
  split
  · split
    · exact h.popLocal.modDie.answerFlit
    · exact h.popLocal.modDie
  · exact h.popLocal.answerFlit
  · exact h.popLocal.modDie.answerFlit

theorem Orderly.hostFlush (h : Orderly u s) : Orderly u s.hostFlush := by
  unfold State.hostFlush
  split
  · dsimp only
    split
    · exact (Orderly.foldl (fun _ _ h => h.enqueueFlit) h).modHub id
    · exact h
  · exact h

theorem Orderly.packetToHost (h : Orderly u s) {n : DieIx} {x : Fin 7 × List Flit} {f : Flit} :
    Orderly u (s.packetToHost n x f) := by
  unfold State.packetToHost
  dsimp only
  split
  · exact h.popLocal
  · split
    · exact (h.popLocal.modHub id).hostFlush
    · exact h.popLocal.answerFlit

theorem Orderly.hostCreditTimeout (h : Orderly u s) : Orderly u s.hostCreditTimeout := by
  unfold State.hostCreditTimeout
  dsimp only
  split
  · exact h.hostFlush.hostDone
  · exact h.hostFlush

theorem Orderly.adapterAck (h : Orderly u s) {spaceLeft : Bool} : Orderly u (s.adapterAck spaceLeft) := by
  unfold State.adapterAck
  split
  · exact h.hostDone.hostFlush
  · exact h

theorem Orderly.sendToHost (h : Orderly u s) {n : DieIx} : Orderly u (s.sendToHost n) := by
  unfold State.sendToHost
  exact Orderly.foldl (fun _ _ h => Orderly.ite h.modDie.modDie h.modDie.modDie) h

theorem Orderly.hostAnswer (h : Orderly u s) {m : MsgId} {r : Rec} : Orderly u (s.hostAnswer m r) := by
  unfold State.hostAnswer
  exact h.answerHost

theorem Orderly.recordAnswer (h : Orderly u s) {n : DieIx} {r : Rec} {msg : Option MsgId} :
    Orderly u (s.recordAnswer n r msg) := by
  unfold State.recordAnswer
  dsimp only
  split
  · exact Orderly.ite h.hostAnswer h
  · exact h.modDie

theorem Orderly.deliverRecord (h : Orderly u s) {n : DieIx} {r : Rec} {msg : Option MsgId} :
    Orderly u (s.deliverRecord n r msg) := by
  unfold State.deliverRecord
  dsimp only
  split
  · exact h
  · split
    · exact h.modDie
    · exact h.recordAnswer
    · exact h.recordAnswer
    · exact h.modDie
    · exact h.modDie
    · exact h

theorem Orderly.packetDeliver (h : Orderly u s) {n : DieIx} : Orderly u (s.packetDeliver n) := by
  unfold State.packetDeliver
  split
  · exact h
  · split
    · exact h.popLocal
    · split
      · exact Orderly.foldl (fun _ _ h => h.deliverRecord) h.popLocal
      · split
        · exact h.packetToHost
        · split
          · exact h.deliverMessage
          · exact h.popLocal.modDie
          · exact h.popLocal

theorem Orderly.hostPacket (h : Orderly u s) {pk : HostPacket} : Orderly u (s.hostPacket pk) := by
  unfold State.hostPacket
  split
  · exact h
  · dsimp only
    split
    · exact h
    · split
      · exact Orderly.foldl (fun _ _ h => h.oweCredit) h.notifyHost
      · exact (h.modHub id).modDie

theorem Orderly.hostFlit (h : Orderly u s) {f : Flit} : Orderly u (s.hostFlit f) := by
  unfold State.hostFlit
  dsimp only
  split
  · exact (h.modHub id).hostPacket
  · exact h.modHub id

/-! ### Flits that arrive -/

theorem Orderly.badCrc (h : Orderly u s) {e : LinkEnd} : Orderly u (s.badCrc e) := by
  unfold State.badCrc
  exact Orderly.askReplay (by
      split
      · exact h.modPort
      · exact h)

theorem Orderly.badTag (h : Orderly u s) {e : LinkEnd} : Orderly u (s.badTag e) := by
  unfold State.badTag
  split
  · exact h
  · exact Orderly.ite h.modPort.portFault.linkDown h.modPort.askReplay

theorem Orderly.mgmtIn (h : Orderly u s) {p : PortIx} {f : Flit} : Orderly u (s.mgmtIn p f) := by
  unfold State.mgmtIn
  dsimp only
  split
  · exact h.announcementIn
  · exact h.timeSync
  · exact h.timeFollowUp
  · exact h.timeDelayRequest
  · exact h.timeResponse
  · exact h

theorem Orderly.toRouterIn (h : Orderly u s) {e : LinkEnd} {f : Flit} : Orderly u (s.toRouterIn e f) := by
  unfold State.toRouterIn
  exact h.modDie

theorem Orderly.payloadIn (h : Orderly u s) {p : PortIx} {f : Flit} : Orderly u (s.payloadIn p f) := by
  unfold State.payloadIn
  dsimp only
  split
  · exact h.oweCredit.moveIn
  · split
    · exact (h.modHub (fun g => by refine HubLegal.pduFlit ?_; exact g)).oweCredit
    · exact Orderly.ite h.toRouterIn h.oweCredit

theorem Orderly.flitAccepted (h : Orderly u s) {e : LinkEnd} {f : Flit} : Orderly u (s.flitAccepted e f) := by
  unfold State.flitAccepted
  split
  · exact h.toRouterIn
  · split
    · exact Orderly.ite h.payloadIn h.mgmtIn.oweCredit
    · split
      · exact Orderly.ite h.hostFlit h.oweCredit
      · exact Orderly.ite h.toRouterIn h.oweCredit

theorem Orderly.goodFlit (h : Orderly u s) {e : LinkEnd} {f : Flit} : Orderly u (s.goodFlit e f) := by
  unfold State.goodFlit
  split
  · dsimp only
    split
    · exact (Orderly.ite h.modLink.hostFlush h.modLink).retryRequest
    · split
      · exact (Orderly.ite h.modLink.hostFlush h.modLink).flitAccepted
      · exact Orderly.ite h.modLink.hostFlush h.modLink
  · exact h.askReplay

theorem Orderly.countFec (h : Orderly u s) {e : LinkEnd} {corr unc : Nat} : Orderly u (s.countFec e corr unc) := by
  unfold State.countFec
  split
  · exact h.modPort
  · exact h

theorem Orderly.flitReceive (h : Orderly u s) {e : LinkEnd} {f : Flit} {corr unc : Nat} :
    Orderly u (s.flitReceive e f corr unc) := by
  unfold State.flitReceive
  split
  · exact h
  · dsimp only
    split
    · exact h.countFec.badCrc
    · split
      · exact h.countFec.badTag
      · exact h.countFec.modLink.goodFlit

theorem Orderly.timeOut (h : Orderly u s) {e : LinkEnd} : Orderly u (s.timeOut e) := by
  unfold State.timeOut
  split
  · exact h
  · dsimp only
    split
    · split
      · exact Orderly.ite h.timeLeaves.modLink h
      · exact h
    · exact h

theorem Orderly.linkFlit (h : Orderly u s) {e : LinkEnd} : Orderly u (s.linkFlit e) := by
  unfold State.linkFlit
  split
  · dsimp only
    split
    · exact h.timeOut.modLink.flitReceive
    · exact h.timeOut.modLink
  · exact h

theorem Orderly.linkTick (h : Orderly u s) {e : LinkEnd} : Orderly u (s.linkTick e) := by
  unfold State.linkTick
  exact h.ite (Orderly.iter (fun h => h.linkFlit) h.modLink)

/-! ### Ticks -/

theorem Orderly.takeCap (h : Orderly u s) : Orderly u s.takeCap := by
  unfold State.takeCap
  split
  · split
    · exact h
    · exact h.modHub id
  · exact h

theorem Orderly.offOnce (h : Orderly u s) : Orderly u s.offOnce := by
  unfold State.offOnce
  exact h.mkDies

theorem Orderly.hubTick (h : Orderly u s) : Orderly u s.hubTick := by
  unfold State.hubTick
  dsimp only
  split
  · exact ((h.modHub id).takeCap).offOnce
  · exact h

theorem Orderly.meetTick (h : Orderly u s) {n : DieIx} : Orderly u (s.meetTick n) := by
  unfold State.meetTick
  exact h.modDie

theorem Orderly.takeLimits (h : Orderly u s) {n : DieIx} : Orderly u (s.takeLimits n) := by
  unfold State.takeLimits
  exact h.modDie

theorem Orderly.passTick (h : Orderly u s) {n : DieIx} : Orderly u (s.passTick n) := by
  unfold State.passTick
  exact Orderly.ite h.meetTick.takeLimits.modDie h

theorem Orderly.tickRecognition (h : Orderly u s) {n : DieIx} : Orderly u (s.tickRecognition n) := by
  unfold State.tickRecognition
  exact Orderly.ite h.hubTick.meetTick.takeLimits.modDie h.hubTick.passTick

theorem Orderly.tickOverrun (h : Orderly u s) {n : DieIx} : Orderly u (s.tickOverrun n) := by
  unfold State.tickOverrun
  exact Orderly.ite h.meetTick.modDie h

theorem Orderly.lateRecognition (h : Orderly u s) {n : DieIx} : Orderly u (s.lateRecognition n) := by
  unfold State.lateRecognition
  dsimp only
  split
  · exact ((Orderly.ite h.hubTick.meetTick h.hubTick).takeLimits).modDie
  · exact h.hubTick

/-! ### Clocks and voltage -/

theorem Orderly.frequencyWindow (h : Orderly u s) {n : DieIx} : Orderly u (s.frequencyWindow n) := by
  unfold State.frequencyWindow
  dsimp only
  split
  · exact h.modDie.modHub id
  · exact h

theorem Orderly.slowCheck (h : Orderly u s) {n : DieIx} : Orderly u (s.slowCheck n) := by
  unfold State.slowCheck
  dsimp only
  split
  · exact h.modHub (fun g => by refine HubLegal.event ?_; exact g)
  · split
    · exact h.modHub id
    · exact h

theorem Orderly.setVcore (h : Orderly u s) {n : DieIx} {mv : Nat} : Orderly u (s.setVcore n mv) := by
  unfold State.setVcore
  exact h.modDie.modHub id

theorem Orderly.vcoreRaise (h : Orderly u s) {n : DieIx} : Orderly u (s.vcoreRaise n) := by
  unfold State.vcoreRaise
  split
  · exact h.setVcore.modHub id
  · exact h

theorem Orderly.vcoreLower (h : Orderly u s) {n : DieIx} : Orderly u (s.vcoreLower n) := by
  unfold State.vcoreLower
  split
  · exact h.setVcore.modHub id
  · exact h

theorem Orderly.laneFail (h : Orderly u s) {n : DieIx} {routerWorks : Bool} : Orderly u (s.laneFail n routerWorks) := by
  unfold State.laneFail
  split
  · exact h.modDie.modHub (fun g => by refine HubLegal.event ?_; exact g)
  · exact h

/-! ### Rails -/

theorem Orderly.modRail (h : Orderly u s) {k : RailIx} {f : Rail → Rail} : Orderly u (s.modRail k f) := by
  unfold State.modRail
  exact h.modHub id

theorem Orderly.endDown (h : Orderly u s) {e : LinkEnd} {cause : Nat} : Orderly u (s.endDown e cause) := by
  unfold State.endDown
  split
  · exact h.linkDown
  · exact Orderly.ite h.modLink h

theorem Orderly.enableRail (h : Orderly u s) {k : RailIx} : Orderly u (s.enableRail k) := by
  unfold State.enableRail
  exact h.modRail

theorem Orderly.dropLoop (h : Orderly u s) {n : DieIx} : Orderly u (s.dropLoop n) := by
  unfold State.dropLoop
  exact h.modHub id

theorem Orderly.disableRail (h : Orderly u s) {k : RailIx} : Orderly u (s.disableRail k) := by
  unfold State.disableRail
  dsimp only
  split
  · exact ((Orderly.foldl (fun _ _ h => h.endDown) h.modRail).dropLoop).modDie
  · split
    · exact h.modRail.mkDies
    · exact Orderly.foldl (fun _ _ h => h.endDown) h.modRail

theorem Orderly.railNext (h : Orderly u s) : Orderly u s.railNext := by
  unfold State.railNext
  dsimp only
  split
  · split
    · split
      · exact (h.modHub id).enableRail
      · exact h.modHub id
    · exact h.modHub id
  · split
    · exact (h.modHub id).disableRail
    · exact h.modHub id
  · split
    · exact h.modHub id
    · split
      · split
        · exact (h.modHub id).disableRail
        · exact h.modHub id
      · exact h.modHub id
  · exact h.modHub id

theorem Orderly.raiseRails (h : Orderly u s) {order : List RailIx} : Orderly u (s.raiseRails order) := by
  unfold State.raiseRails
  exact (h.modHub id).railNext

/-- The module takes its way to Off. -/
theorem Orderly.takeOff (h : Orderly u s) : Orderly u s.takeOff :=
  h.modHub fun g => g.offTrans rfl rfl ⟨_, rfl, rfl⟩ rfl rfl

theorem Orderly.goOff (h : Orderly u s) : Orderly u s.goOff := by
  unfold State.goOff
  exact Orderly.ite h h.takeOff

theorem Orderly.setStep (h : Orderly u s) {k : BitVec 8} : Orderly u (s.setStep k) := by
  unfold State.setStep
  dsimp only
  split
  · exact (h.modHub (fun g => by refine HubLegal.event ?_; exact g)).takeOff
  · exact h.modHub (fun g => by refine HubLegal.event ?_; exact g)

theorem Orderly.startRails (h : Orderly u s) : Orderly u s.startRails := by
  unfold State.startRails
  split
  · exact h.modHub id
  · exact h.modHub id
  · dsimp only
    split
    · exact h.setStep
    · exact (h.setStep.modHub id).raiseRails

theorem Orderly.raiseLeft (h : Orderly u s) : Orderly u s.raiseLeft := by
  unfold State.raiseLeft
  exact Orderly.ite h.raiseRails h

theorem Orderly.railsEnd (h : Orderly u s) : Orderly u s.railsEnd := by
  unfold State.railsEnd
  extract_lets hold
  have held : Orderly u (hold s) := h.modHub id
  clear_value hold
  split
  · exact Orderly.ite held.setStep held
  · dsimp only
    refine Orderly.ite (Orderly.startRails (Orderly.ite ?_ held)) (Orderly.ite ?_ held)
    · exact held.modHub id
    · exact held.modHub id
  · exact Orderly.ite (Orderly.ite held.startRails held) h
  · exact h

theorem Orderly.railDone (h : Orderly u s) : Orderly u s.railDone := by
  unfold State.railDone
  exact h.railNext.railsEnd

theorem Orderly.lowerRails (h : Orderly u s) {order : List RailIx} {lowerEn again : Bool} :
    Orderly u (s.lowerRails order lowerEn again) := by
  unfold State.lowerRails
  split
  · exact h.railDone
  · exact (h.modHub id).railDone

theorem Orderly.vcoreRises (h : Orderly u s) {n : DieIx} {mv : Nat} : Orderly u (s.vcoreRises n mv) := by
  unfold State.vcoreRises
  exact h.defaultRoute.modDie

theorem Orderly.railGood (h : Orderly u s) {k : RailIx} : Orderly u (s.railGood k) := by
  unfold State.railGood
  dsimp only
  split
  · exact Orderly.railDone (by
      split
      · exact h.modRail.vcoreRises
      · exact h.modRail)
  · exact h

theorem Orderly.railDischarged (h : Orderly u s) {k : RailIx} : Orderly u (s.railDischarged k) := by
  unfold State.railDischarged
  exact Orderly.ite h.modRail.railDone h

theorem Orderly.dischargeTimeout (h : Orderly u s) {k : RailIx} : Orderly u (s.dischargeTimeout k) := by
  unfold State.dischargeTimeout
  split
  · exact ((h.modHub (fun g => by refine HubLegal.event ?_; exact g)).modRail).railDone
  · exact h

theorem Orderly.boardEnd (h : Orderly u s) : Orderly u s.boardEnd := by
  unfold State.boardEnd
  split
  · split
    · exact (Orderly.foldl (fun _ _ h => (Orderly.ite h.disableRail h).modRail) h).railDone
    · exact h
  · exact h

theorem Orderly.railPace (h : Orderly u s) : Orderly u s.railPace := by
  unfold State.railPace
  split
  · exact h.railDone
  · exact h.raiseLeft

theorem Orderly.fence (h : Orderly u s) {n : DieIx} {r : DieResult} : Orderly u (s.fence n r) := by
  unfold State.fence
  split
  · exact h
  · refine Orderly.railDone (Orderly.modHub (Orderly.foldl (fun _ _ h => h.endDown) h.modDie).disableRail.modDie fun g => ?_)
    refine HubLegal.mrgFault ?_
    exact g

theorem Orderly.supplyLost (h : Orderly u s) : Orderly u s.supplyLost := by
  unfold State.supplyLost
  exact (Orderly.foldl (fun _ _ h => Orderly.ite h.disableRail h) (h.modHub id)).railDone

theorem Orderly.railFlag (h : Orderly u s) {k : RailIx} {status : BitVec 16} : Orderly u (s.railFlag k status) := by
  unfold State.railFlag
  exact h.modHub (fun g => by
    refine HubLegal.eventOnce ?_
    refine HubLegal.setMrg ?_
    exact g)

theorem Orderly.standbyOnly (h : Orderly u s) {unitk : BitVec 8} {unit : BitVec 16} {det : Bytes} :
    Orderly u (s.standbyOnly unitk unit det) := by
  unfold State.standbyOnly
  exact Orderly.lowerRails (h.modHub fun g => g.noTrans rfl rfl rfl rfl rfl)

theorem Orderly.step4Fails (h : Orderly u s) {k : RailIx} {det : Bytes} : Orderly u (s.step4Fails k det) := by
  unfold State.step4Fails
  split
  · dsimp only
    split
    · exact (((h.modHub id).fence).modHub id).lowerRails
    · exact ((h.modHub id).fence).standbyOnly
  · exact h.standbyOnly

theorem Orderly.railFault (h : Orderly u s) {k : RailIx} {status : BitVec 16} : Orderly u (s.railFault k status) := by
  unfold State.railFault
  dsimp only
  split
  · exact Orderly.ite h.railFlag.modRail h.railFlag.modRail.step4Fails
  · split
    · exact h.railFlag.modRail.fence
    · exact Orderly.goOff (by
          split
          · exact h.railFlag.modRail
          · exact h.railFlag.modRail.modHub (fun g => by refine HubLegal.event ?_; exact g))

theorem Orderly.railTimeout (h : Orderly u s) {k : RailIx} : Orderly u (s.railTimeout k) := by
  unfold State.railTimeout
  exact Orderly.ite h.railFault.railDone h

theorem Orderly.pwrgdTimeout (h : Orderly u s) : Orderly u s.pwrgdTimeout := by
  unfold State.pwrgdTimeout
  exact Orderly.ite (Orderly.modHub h fun g => g.noTrans rfl rfl rfl rfl rfl) h

theorem Orderly.pwrgdRise (h : Orderly u s) : Orderly u s.pwrgdRise := by
  unfold State.pwrgdRise
  exact (h.modHub id).railNext

theorem Orderly.pwrgdFall (h : Orderly u s) : Orderly u s.pwrgdFall := by
  unfold State.pwrgdFall
  dsimp only
  split
  · exact ((((h.modHub id).railFlag).modHub (fun g => by refine HubLegal.event ?_; exact g)).goOff).supplyLost
  · exact h.modHub id

theorem Orderly.cutSupply (h : Orderly u s) : Orderly u s.cutSupply := by
  unfold State.cutSupply
  exact (h.modHub id).supplyLost

theorem Orderly.clockLost (h : Orderly u s) : Orderly u s.clockLost := by
  unfold State.clockLost
  extract_lets s₁ s₂
  have h₁ : Orderly u s₁ := h.modHub fun g => g.event
  have h₂ : Orderly u s₂ := (Orderly.foldl (fun _ _ h => h.endDown) h₁).takeOff
  have req : s₂.hub.power.request = 0 := rfl
  clear_value s₂
  exact Orderly.ite (Orderly.modHub h₂ fun g => g.offTrans rfl req ⟨_, rfl, rfl⟩ rfl rfl) h₂.cutSupply

theorem Orderly.refclkLoss (h : Orderly u s) : Orderly u s.refclkLoss := by
  unfold State.refclkLoss
  split
  · dsimp only
    split
    · exact h.modHub id
    · exact (h.modHub id).clockLost
  · exact h

/-! ### Sensors, regulators and heat -/

theorem Orderly.railAnswer (h : Orderly u s) {k : RailIx} {avs : Bool} {r : Option RailReading} {faulty : RailReading → Bool} :
    Orderly u (s.railAnswer k avs r faulty) := by
  unfold State.railAnswer
  dsimp only
  split <;> exact Orderly.ite h.modRail.railFault h.modRail

theorem Orderly.avsbusRead (h : Orderly u s) {n : DieIx} {r : Option RailReading} : Orderly u (s.avsbusRead n r) := by
  unfold State.avsbusRead
  exact Orderly.railAnswer (by
      split
      · exact h.modHub id
      · exact h)

theorem Orderly.pmbusPoll (h : Orderly u s) {k : RailIx} {r : Option RailReading} : Orderly u (s.pmbusPoll k r) := by
  unfold State.pmbusPoll
  exact h.railAnswer

theorem Orderly.keepSensor (h : Orderly u s) {x : SensorId} {v : Int} : Orderly u (s.keepSensor x v) := by
  unfold State.keepSensor
  split
  · exact h.modDie
  · exact h.modDie
  · exact h.modHub id
  · exact h.modHub id

theorem Orderly.sensorRead (h : Orderly u s) {x : SensorId} {value : Int} : Orderly u (s.sensorRead x value) := by
  unfold State.sensorRead
  dsimp only
  refine Orderly.ite (h.keepSensor.modHub fun g => ?_) h.keepSensor
  split
  · exact g
  · exact HubLegal.event (by exact g)

theorem Orderly.rateCompare (h : Orderly u s) {n : DieIx} {l : Fin 4} {t0 t1 t2 t3 : Int} :
    Orderly u (s.rateCompare n l t0 t1 t2 t3) := by
  unfold State.rateCompare
  exact h.sensorRead.sensorRead.sensorRead.sensorRead.modDie

theorem Orderly.thermtrip (h : Orderly u s) : Orderly u s.thermtrip := by
  unfold State.thermtrip
  split
  · exact h.modHub (fun g => by
    dsimp only
    split
    · refine HubLegal.event ?_
      refine HubLegal.setMrg ?_
      exact g
    · refine HubLegal.setMrg ?_
      exact g)
  · exact h

theorem Orderly.inletValue (h : Orderly u s) {v : U32} : Orderly u (s.inletValue v) := by
  unfold State.inletValue
  dsimp only
  split
  · exact h
  · exact h.modHub (fun g => by
    split
    · split
      · exact g
      · refine HubLegal.mrgFault ?_
        exact g
    · split <;> exact g)

theorem Orderly.inletStale (h : Orderly u s) : Orderly u s.inletStale := by
  unfold State.inletStale
  split
  · exact h.modHub (fun g => by refine HubLegal.mrgFault ?_; exact g)
  · exact h

theorem Orderly.sendDuties (h : Orderly u s) : Orderly u s.sendDuties := by
  unfold State.sendDuties
  exact h.mkDies

theorem Orderly.capCompute (h : Orderly u s) : Orderly u s.capCompute := by
  unfold State.capCompute
  extract_lets p uw cap at_ duty short spent calm prot warned s₁
  have h₁ : Orderly u s₁ := h.modHub fun g => by
    extract_lets a b c
    have ga : HubLegal a := g
    have gb : HubLegal b := ga.mrgFault.ite ga
    have gc : HubLegal c := gb.protAt.ite gb
    exact gc.protBegins
  exact h₁.sendDuties

theorem Orderly.thermalDie (h : Orderly u s) {n : DieIx} : Orderly u (s.thermalDie n) := by
  unfold State.thermalDie
  extract_lets d on p now hotL hotD duty hot dram full put s₁
  have h₁ : Orderly u s₁ := h.modHub fun g => by
    extract_lets a b
    have ga : HubLegal a := g
    have gb : HubLegal b := ga.protBegins.ite ga
    exact gb.protBegins.ite gb
  clear_value s₁
  refine h.ite (Orderly.ite (Orderly.fence (h₁.modHub ?_)) h₁)
  exact fun g => g.event

theorem Orderly.thermalProtect (h : Orderly u s) : Orderly u s.thermalProtect := by
  unfold State.thermalProtect
  extract_lets s₁ s₂ hot off new s₃ s₄
  have h₁ : Orderly u s₁ := Orderly.foldl (fun _ _ h => h.thermalDie) h
  clear_value s₁
  have h₂ : Orderly u s₂ := h₁.sendDuties
  clear_value s₂
  have h₃ : Orderly u s₃ := h₂.modHub id
  clear_value s₃
  have h₄ : Orderly u s₄ := by
    refine Orderly.ite (h₃.modHub ?_) h₃
    exact fun g => g.event
  clear_value s₄
  exact h₄.goOff.ite h₄

/-! ### Reset and start -/

/-- A reset keeps the queue, and leaves the modes of the Reset column. -/
theorem Orderly.afterReset (h : Orderly u s) : Orderly u s.afterReset :=
  Orderly.railDone ⟨h.1, fun _ => HubLegal.afterReset⟩

theorem Orderly.rstAssert (h : Orderly u s) {lowNs : Nat} : Orderly u (s.rstAssert lowNs) := by
  unfold State.rstAssert
  split
  · exact h
  · split
    · exact h.afterReset
    · exact Orderly.ite h.drew.afterReset h.drew

theorem Orderly.rstRelease (h : Orderly u s) : Orderly u s.rstRelease := by
  unfold State.rstRelease
  split
  · exact h.modHub (fun g => by
    dsimp only
    split
    · exact g
    · refine HubLegal.event ?_
      exact g)
  · exact h

theorem Orderly.standbyLoss (h : Orderly u s) {torn : Option (Fin 1024)} : Orderly u (s.standbyLoss torn) := by
  unfold State.standbyLoss
  split
  · exact h.afterReset.modHub id
  · exact h

theorem Orderly.standbyApply (h : Orderly u s) : Orderly u s.standbyApply := by
  unfold State.standbyApply
  split
  · exact h
  · exact h.modHub id

theorem Orderly.romBoot (h : Orderly u s) : Orderly u s.romBoot := by
  unfold State.romBoot
  refine Orderly.ite (Orderly.drew (h.modHub ?_)) h
  exact fun g => g.romBoot

theorem Orderly.firmwareStart (h : Orderly u s) : Orderly u s.firmwareStart := by
  unfold State.firmwareStart
  extract_lets fall s₁ s₂ s₃
  have h₁ : Orderly u s₁ := by
    refine Orderly.drew (h.modHub ?_)
    exact fun g => g.firmwareUp
  clear_value s₁
  have h₂ : Orderly u s₂ := by
    refine Orderly.chooseUpstream (Orderly.ite (h₁.modHub ?_) h₁)
    exact fun g => g.mrgFault
  clear_value s₂
  have h₃ : Orderly u s₃ := h₂.setStep.defaultRoutes
  clear_value s₃
  exact ((h₃.ite h₃.startRails).ite h₂).ite h

theorem Orderly.restart (h : Orderly u s) : Orderly u s.restart := by
  unfold State.restart
  exact (h.modHub (fun g => by refine HubLegal.restart ?_; exact g)).mkDies

theorem Orderly.watchdog (h : Orderly u s) : Orderly u s.watchdog := by
  unfold State.watchdog
  split
  · exact (Orderly.foldl (fun _ _ h => Orderly.ite h.fence h) h).restart
  · exact h

/-! ### Bring-up -/

theorem Orderly.loadRepair (h : Orderly u s) {n : DieIx} : Orderly u (s.loadRepair n) := by
  unfold State.loadRepair
  exact Orderly.foldl (fun _ _ h => by
    dsimp only
    split
    · exact h
    · split
      · exact h.modHub (fun g => by refine HubLegal.event ?_; exact g)
      · exact h.modDie) h.modDie

theorem Orderly.dramTraining (h : Orderly u s) {n : DieIx} {ok : Bool} : Orderly u (s.dramTraining n ok) := by
  unfold State.dramTraining
  split
  · split
    · exact h.modDie.loadRepair.dieAlign.modDie
    · exact h.modDie.modHub (fun g => by refine HubLegal.event ?_; exact g)
  · exact h

theorem Orderly.wakeEnd (h : Orderly u s) {e : LinkEnd} : Orderly u (s.wakeEnd e) := by
  unfold State.wakeEnd
  dsimp only
  split
  · exact Orderly.ite h h.modLink
  · exact h.modLink
  · exact h

theorem Orderly.linkStep (h : Orderly u s) : Orderly u s.linkStep := by
  unfold State.linkStep
  split
  · exact h
  · split
    · split
      · exact (Orderly.foldl (fun _ _ h => h.wakeEnd) h).setStep
      · exact h
    · split
      · exact Orderly.ite h.setStep h
      · exact h

theorem Orderly.discovery (h : Orderly u s) : Orderly u s.discovery := by
  unfold State.discovery
  split
  · exact (h.modHub (fun g => by refine HubLegal.takeCfg ?_; exact g)).setStep
  · exact h

theorem Orderly.attest (h : Orderly u s) : Orderly u s.attest := by
  unfold State.attest
  split
  · exact h.modHub id
  · exact h

theorem Orderly.gateDies (h : Orderly u s) {g : Bool} : Orderly u (s.gateDies g) := by
  unfold State.gateDies
  exact h.mkDies

/-- At the end of step 8 the module joins in Idle or Run. -/
theorem Orderly.attestation (h : Orderly u s) : Orderly u s.attestation := by
  unfold State.attestation
  extract_lets b late byTime s₁ s₂ s₃ s₄
  have h₁ : Orderly u s₁ := by
    refine Orderly.ite (h.modHub ?_) h
    exact fun g => g
  clear_value s₁
  have h₂ : Orderly u s₂ := h₁.setStep
  clear_value s₂
  have state (c : Prop) [Decidable c] : (if c then (3 : BitVec 8) else 4).toNat ≤ 4 := by split <;> decide
  have h₃ : Orderly u s₃ := h₂.modHub fun g => g.joins (state _)
  clear_value s₃
  have h₄ : Orderly u s₄ := h₃.gateDies.ite h₃
  clear_value s₄
  exact ((h₂.ite h₄.setStep).ite h₁).ite h

theorem Orderly.admitRelease (h : Orderly u s) : Orderly u s.admitRelease.1 := by
  unfold State.admitRelease
  split
  · exact h.modHub id
  · exact h

/-! ### Power states and removal -/

theorem Orderly.closeHosts (h : Orderly u s) : Orderly u s.closeHosts := by
  unfold State.closeHosts
  exact h.modHub id

theorem Orderly.announceAll (h : Orderly u s) {pst : BitVec 8} : Orderly u (s.announceAll pst) := by
  unfold State.announceAll
  exact Orderly.foldl (fun _ _ h => Orderly.ite h.announceAs h) h

theorem Orderly.quiesceBegin (h : Orderly u s) : Orderly u s.quiesceBegin := by
  unfold State.quiesceBegin
  exact ((h.modHub id).announceAll).closeHosts

theorem Orderly.beginStep (h : Orderly u s) {k : TransStep} : Orderly u (s.beginStep k) := by
  cases k with
  | quiesce => exact h.quiesceBegin
  | portsLow => exact Orderly.foldl (fun _ _ h => h.toLowRate) h
  | portsUp => exact Orderly.foldl (fun _ _ h => h.ite h.toFullRate) h
  | portsUnused => exact Orderly.foldl (fun _ _ h => h.linkDown.modLink) h
  | portsDisabled => exact h.announceAll
  | linksDown => exact Orderly.foldl (fun _ _ h => h.endDown) h
  | linksUp => exact Orderly.foldl (fun _ _ h => h.wakeEnd) h
  | railsDown rails => exact h.lowerRails
  | railsUp rails => exact h.raiseRails
  | align => exact Orderly.foldl (fun _ _ h => h.dieAlign) h
  | exitRefresh => exact h.mkDies
  | announce => exact Orderly.foldl (fun _ _ h => h.announce.ite h) h
  | ungate => exact h.gateDies
  | pwrEnLow => exact h.modHub id
  | supplyOff => exact h.cutSupply
  | commit | selfRefresh | train | gate => exact h

theorem Orderly.endStep (h : Orderly u s) {k : TransStep} : Orderly u (s.endStep k) := by
  unfold State.endStep
  split
  · exact h.ite (h.modHub fun g => g.event)
  · exact h.mkDies
  · exact Orderly.foldl (fun _ _ h => h.linkDown.modLink) h
  · exact h

/-- A removal state that the spec names is taken. -/
theorem Orderly.setRemoval (h : Orderly u s) {k : BitVec 8} (hk : k.toNat ≤ 4) : Orderly u (s.setRemoval k) :=
  h.modHub fun ⟨h1, h2, h3, _, h5⟩ => ⟨h1, h2, h3, hk, h5⟩

/-- A transition ends in its target. -/
theorem Orderly.transEnd (h : Orderly u s) {target : BitVec 8} (ht : HubLegal u.hub → target.toNat ≤ 4) :
    Orderly u (s.transEnd target) := by
  unfold State.transEnd
  extract_lets s₁ s₂ s₃ s₄
  have h₁ : Orderly u s₁ := ⟨h.1, fun l => (h.2 l).transEnds (ht l)⟩
  clear_value s₁
  have h₂ : Orderly u s₂ := h₁.setStep.ite h₁
  clear_value s₂
  have h₃ : Orderly u s₃ := h₂.closeHosts.ite h₂
  clear_value s₃
  have h₄ : Orderly u s₄ := (h₃.setRemoval (k := 4) (by decide)).ite h₃
  clear_value s₄
  exact h₄.attest.raiseLeft

theorem Orderly.transNext (h : Orderly u s) {t : Trans} {rest : List TransStep} (ht : HubLegal u.hub → t.target.toNat ≤ 4) :
    Orderly u (s.transNext t rest) := by
  unfold State.transNext
  exact h.takeOff.ite ((h.transEnd ht).ite ⟨h.1, fun l => (h.2 l).withTrans (ht l)⟩)

theorem Orderly.transGo (h : Orderly u s) {t : Trans} (ht : HubLegal u.hub → t.target.toNat ≤ 4) : Orderly u (s.transGo t) := by
  unfold State.transGo
  split
  · exact h.transEnd ht
  next k rest _ =>
    extract_lets s₁ s₂ since
    have h₁ : Orderly u s₁ := by
      refine h.ite (Orderly.beginStep (s := s.modHub _) ⟨h.1, fun l => ?_⟩)
      exact (h.2 l).withTrans (ht l)
    clear_value s₁
    have h₂ : Orderly u s₂ := h₁.gateDies.ite h₁
    clear_value s₂
    exact (h₂.endStep.transNext ht).ite h₂

/-- The target of a transition is the state asked for. -/
theorem Orderly.powerTransition (h : Orderly u s) : Orderly u s.powerTransition := by
  unfold State.powerTransition
  dsimp only
  split
  · next t ht => exact h.transGo fun l => (h.2 l).2.2.1 t ht
  · refine Orderly.ite (Orderly.transGo (h.modHub ?_) fun l => (h.2 l).2.1) h
    exact fun l => l.withTrans l.2.1

theorem Orderly.powerUp (h : Orderly u s) {v : BitVec 8} (hv : v.toNat ≤ 4) : Orderly u (s.powerUp v) := by
  unfold State.powerUp
  exact Orderly.startRails (h.modHub fun ⟨h1, _, h3, h4, h5⟩ => ⟨h1, hv, h3, h4, h5⟩)

theorem Orderly.enablePorts (h : Orderly u s) : Orderly u s.enablePorts := by
  unfold State.enablePorts
  exact Orderly.foldl (fun _ _ h => Orderly.ite h h.modLink) h

/-- What a write of the power state asks for is a state: any other is refused with 7. -/
theorem Orderly.askFor (h : Orderly u s) {v : BitVec 8} : Orderly u (s.askFor v).1 := by
  by_cases named : v.toNat ≤ 4
  swap
  · rw [State.askFor, if_pos (Nat.lt_of_not_le named)]
    exact h
  unfold State.askFor
  extract_lets b p s₁
  have asked : Orderly u s₁ := h.modHub fun g => g.asks named
  clear_value s₁
  refine Orderly.iteFst h (Orderly.iteFst h (Orderly.iteFst h (Orderly.iteFst (Orderly.iteFst ?back h) (Orderly.iteFst h
    (Orderly.iteFst (Orderly.iteFst (h.ite ?waits) h)
      (Orderly.iteFst (Orderly.iteFst ?stays (Orderly.iteFst ?up h)) (Orderly.iteFst h (asked.ite ?goes))))))))
  case back =>
    have freed : Orderly u (s.setRemoval 0) := h.setRemoval (Nat.zero_le 4)
    exact (freed.enablePorts.powerUp named).fst
  case waits => exact h.modHub id
  case stays => exact h.modHub fun ⟨g1, _, g3, g4, g5⟩ => ⟨g1, Nat.zero_le 4, g3, g4, g5⟩
  case up => exact (h.powerUp named).fst
  case goes => exact asked.powerTransition

theorem Orderly.askState (h : Orderly u s) {v : BitVec 8} : Orderly u (s.askState v).1 := by
  unfold State.askState
  have asked := h.askFor (v := v)
  generalize s.askFor v = r at asked ⊢
  obtain ⟨t, st⟩ := r
  exact Orderly.iteFst (asked.modHub id) h

/-- A hub die that sets out for Off has legal modes. -/
theorem HubLegal.leaves {h : Hub} (g : HubLegal h) {ks : List TransStep} :
    HubLegal { h with power := { h.power with request := 0, trans := some { target := 0, steps := ks, begun := false } } } := by
  obtain ⟨g1, -, -, g4, g5⟩ := g
  exact ⟨g1, Nat.zero_le 4, fun _ e => Option.some.inj e ▸ Nat.zero_le 4, g4, g5⟩

theorem Orderly.quiesceEnd (h : Orderly u s) : Orderly u s.quiesceEnd := by
  unfold State.quiesceEnd
  split
  · next t ht => exact (h.transGo fun l => (h.2 l).2.2.1 t ht).ite h
  · extract_lets s₁
    have h₁ : Orderly u s₁ := h.endStep.setRemoval (k := 3) (by decide)
    clear_value s₁
    exact Orderly.ite (h₁.modHub fun g => g.leaves) h

theorem Orderly.release (h : Orderly u s) {n : DieIx} : Orderly u (s.release n) := by
  unfold State.release
  split
  · dsimp only
    split
    · split
      · exact (h.modDie.modHub id).modHub id
      · exact h.modDie.modHub id
    · exact (h.modDie.modHub id).raiseLeft
  · exact h

theorem Orderly.dieCommand (h : Orderly u s) {n : DieIx} {v : BitVec 8} : Orderly u (s.dieCommand n v).1 := by
  unfold State.dieCommand
  split
  · exact h.fence
  · split
    · exact h.release
    · exact h

theorem Orderly.unloadDie (h : Orderly u s) {n : DieIx} : Orderly u (s.unloadDie n) := by
  unfold State.unloadDie
  exact h.modDie

theorem Orderly.dropLoad (h : Orderly u s) : Orderly u s.dropLoad := by
  unfold State.dropLoad
  exact (h.modHub id).mkDies

theorem Orderly.removalRequest (h : Orderly u s) : Orderly u (s.removalRequest).1 := by
  unfold State.removalRequest
  split
  · exact h
  · exact Orderly.foldl (fun _ _ h => h.unloadDie) ((h.setRemoval (k := 1) (by decide)).dropLoad.modHub id)

theorem Orderly.removalCancel (h : Orderly u s) : Orderly u (s.removalCancel).1 := by
  unfold State.removalCancel
  split
  · exact (h.setRemoval (by exact Nat.le_of_ble_eq_true rfl)).attest
  · exact h

theorem Orderly.drainEnd (h : Orderly u s) : Orderly u s.drainEnd := by
  unfold State.drainEnd
  exact (h.setRemoval (by exact Nat.le_of_ble_eq_true rfl)).quiesceBegin.ite h

/-! ### Update and the recorder -/

theorem Orderly.modFw (h : Orderly u s) {f : Firmware → Firmware} : Orderly u (s.modFw f) := by
  unfold State.modFw
  exact h.modHub id

theorem Orderly.updBegin (h : Orderly u s) : Orderly u s.updBegin.1 := by
  unfold State.updBegin
  split
  · exact h.modFw
  · exact h

theorem Orderly.updChunk (h : Orderly u s) {v : Bytes} : Orderly u (s.updChunk v).1 := by
  unfold State.updChunk
  dsimp only
  split
  · exact h
  · split
    · exact h
    · split
      · exact h
      · exact h.modFw

theorem Orderly.updVerify (h : Orderly u s) : Orderly u s.updVerify.1 := by
  unfold State.updVerify
  split
  · exact h.modFw
  · exact h

theorem Orderly.updActivate (h : Orderly u s) : Orderly u s.updActivate.1 := by
  unfold State.updActivate
  split
  · exact h.modHub (fun g => by refine HubLegal.sealBoot ?_; exact g)
  · exact h

theorem Orderly.updAbort (h : Orderly u s) : Orderly u s.updAbort.1 := by
  unfold State.updAbort
  split
  · exact h
  · exact h.modHub (fun g => by refine HubLegal.sealBoot ?_; exact g)
  · exact h.modFw

theorem Orderly.updRestart (h : Orderly u s) : Orderly u s.updRestart.1 := by
  unfold State.updRestart
  split
  · exact h.restart
  · exact h

theorem Orderly.updCommit (h : Orderly u s) : Orderly u (s.updCommit).1 := by
  unfold State.updCommit
  extract_lets f s₁
  have h₁ : Orderly u s₁ := h.modHub fun g => g.sealBoot
  clear_value s₁
  refine Orderly.iteFst (Orderly.fst (Orderly.ite (h₁.modHub ?_) h₁)) h
  exact fun g => g.sealFloor

theorem Orderly.updCommand (h : Orderly u s) {v : BitVec 8} : Orderly u (s.updCommand v).1 := by
  unfold State.updCommand
  split
  · exact h.updBegin
  · exact h.updVerify
  · exact h.updActivate
  · exact h.updAbort
  · exact h.updRestart
  · exact h.updCommit
  · exact h

theorem Orderly.stamped (h : Orderly u s) : Orderly u s.stamped := by
  unfold State.stamped
  exact (h.mkHub id).mkDies

theorem Orderly.engineTake (h : Orderly u s) : Orderly u s.engineTake := by
  unfold State.engineTake
  dsimp only
  split
  · exact h
  · split
    · exact h.stamped.modDie.modHub id
    · exact h.stamped.modHub id
    · split
      · exact h.stamped.modHub id
      · exact h.stamped.modDie.modHub id
    · exact h

theorem Orderly.optimeStore (h : Orderly u s) : Orderly u s.optimeStore := by
  unfold State.optimeStore
  split
  · exact h.modHub id
  · exact h

theorem Orderly.recCommand (h : Orderly u s) {role : Role} {v : BitVec 8} : Orderly u (s.recCommand role v).1 := by
  unfold State.recCommand
  split
  · exact h.modHub id
  · split
    · split
      · exact h.modHub id
      · exact h
    · exact h

/-! ### Loads, jobs and sessions -/

theorem Orderly.modDict (h : Orderly u s) {f : Dict → Dict} : Orderly u (s.modDict f) := by
  unfold State.modDict
  exact h.modHub id

theorem Orderly.modSec (h : Orderly u s) {f : Sec → Sec} : Orderly u (s.modSec f) := by
  unfold State.modSec
  exact h.modHub id

theorem Orderly.modLoad (h : Orderly u s) {f : LoadOp → LoadOp} : Orderly u (s.modLoad f) := by
  unfold State.modLoad
  exact h.modDict

theorem Orderly.modSession (h : Orderly u s) {num : BitVec 16} {f : Session → Session} : Orderly u (s.modSession num f) := by
  unfold State.modSession
  exact h.modDict

theorem Orderly.eraseKey (h : Orderly u s) {job : BitVec 8} : Orderly u (s.eraseKey job) := by
  unfold State.eraseKey
  exact h.mkDies.modSec.modDict

theorem Orderly.settleJobs (h : Orderly u s) : Orderly u s.settleJobs := by
  unfold State.settleJobs
  exact (Orderly.foldl (fun _ _ h => h.eraseKey) h).modDict

theorem Orderly.keyTimeout (h : Orderly u s) {job : BitVec 8} : Orderly u (s.keyTimeout job) := by
  unfold State.keyTimeout
  split
  · exact Orderly.ite h.eraseKey h
  · exact h

theorem Orderly.openLoad (h : Orderly u s) {x : Session} {standby : Bool} {key : Bytes} :
    Orderly u (s.openLoad x standby key) := by
  unfold State.openLoad
  exact Orderly.foldl (fun _ _ h => h.modDie) h.modDict

theorem Orderly.beginLoad (h : Orderly u s) {x : Session} {standby : Bool} : Orderly u (s.beginLoad x standby).1 := by
  unfold State.beginLoad
  dsimp only
  split
  · exact h
  · split
    · exact h
    · split
      · exact h
      · split
        · exact h
        · split
          · exact h.openLoad
          · exact h

theorem Orderly.planChunk (h : Orderly u s) {x : Session} {v : Bytes} : Orderly u (s.planChunk x v).1 := by
  unfold State.planChunk
  split
  · exact h
  · split
    · exact h
    · exact h.modLoad

theorem Orderly.abortLoad (h : Orderly u s) {x : Session} : Orderly u (s.abortLoad x).1 := by
  unfold State.abortLoad
  split
  · exact h.dropLoad.settleJobs
  · exact h

theorem Orderly.refuseLoad (h : Orderly u s) {rule : Nat} {n : DieIx} : Orderly u (s.refuseLoad rule n) := by
  unfold State.refuseLoad
  exact h.modLoad.modHub (fun g => by
    split
    · refine HubLegal.secFault ?_
      exact g
    · refine HubLegal.event ?_
      exact g)

theorem Orderly.keyLost (h : Orderly u s) : Orderly u s.keyLost.1 := by
  unfold State.keyLost
  exact h.refuseLoad.settleJobs

theorem Orderly.endLoad (h : Orderly u s) {x : Session} {p : ClearPlan} : Orderly u (s.endLoad x p).1 := by
  unfold State.endLoad
  dsimp only
  split
  · exact h
  · split
    · exact h.keyLost
    · split
      · exact h.refuseLoad.settleJobs
      · exact Orderly.foldl (fun _ _ h => h.modDie) h.modLoad

theorem Orderly.applyLoad (h : Orderly u s) : Orderly u s.applyLoad := by
  unfold State.applyLoad
  dsimp only
  split
  · split
    · exact (((Orderly.foldl (fun _ _ h => h.modDie) h).modSec).modLoad).settleJobs
    · exact (Orderly.foldl (fun _ _ h => h.modDie) h).modSec
  · exact h

theorem Orderly.decided (h : Orderly u s) {n : DieIx} : Orderly u (s.decided n) := by
  unfold State.decided
  split
  · exact h.tickRecognition
  · exact Orderly.ite h.lateRecognition h

theorem Orderly.endStandby (h : Orderly u s) {x : Session} {content : ClearStandby} : Orderly u (s.endStandby x content).1 := by
  unfold State.endStandby
  dsimp only
  split
  · exact h
  · split
    · exact h.keyLost
    · split
      · exact h.refuseLoad
      · exact (Orderly.foldl (fun _ _ h => h.decided.modDie) h).modLoad

theorem Orderly.unload (h : Orderly u s) {x : Session} : Orderly u (s.unload x).1 := by
  unfold State.unload
  dsimp only
  split
  · exact h
  · exact (Orderly.foldl (fun _ _ h => h.unloadDie) h).settleJobs

theorem Orderly.setFlip (h : Orderly u s) {x : Session} {v : Bool} : Orderly u (s.setFlip x v).1 := by
  unfold State.setFlip
  dsimp only
  split
  · exact h
  · exact Orderly.foldl (fun _ _ h => h.decided.modDie) h

theorem Orderly.openHost (h : Orderly u s) {x : Session} {job : BitVec 8} : Orderly u (s.openHost x job).1 := by
  unfold State.openHost
  split
  · exact h
  · split
    · exact h
    · split
      · split
        · exact h
        · exact h.modDict.modSession
      · exact h

theorem Orderly.closeHost (h : Orderly u s) {x : Session} {n : BitVec 16} : Orderly u (s.closeHost x n).1 := by
  unfold State.closeHost
  split
  · exact h
  · split
    · exact h
    · exact h.modDict

theorem Orderly.loadCommand (h : Orderly u s) {x : Session} {v : BitVec 8} {p : ClearPlan} {c : ClearStandby} :
    Orderly u (s.loadCommand x v p c).1 := by
  unfold State.loadCommand
  split
  · exact h
  · split
    · exact h.beginLoad
    · exact h.endLoad
    · exact h.beginLoad
    · exact h.endStandby
    · exact h.abortLoad
    · exact h.unload
    · exact h.setFlip
    · exact h.setFlip
    · exact h

theorem Orderly.nonceWrite (h : Orderly u s) {v : Bytes} : Orderly u (s.nonceWrite v).1 := by
  unfold State.nonceWrite
  split
  · exact h
  · exact h.modSec.modSec

theorem Orderly.reportReady (h : Orderly u s) : Orderly u s.reportReady := by
  unfold State.reportReady
  exact Orderly.ite h.modSec h

theorem Orderly.firstOperator (h : Orderly u s) {role : Role} {key : Bytes} : Orderly u (s.firstOperator role key) := by
  unfold State.firstOperator
  split
  · exact h.modHub (fun g => by
    refine HubLegal.takeCfg ?_
    refine HubLegal.event ?_
    exact g)
  · exact h

theorem Orderly.closeSession (h : Orderly u s) {num : BitVec 16} : Orderly u (s.closeSession num) := by
  unfold State.closeSession
  exact (Orderly.ite h.dropLoad.settleJobs h).modDict

theorem Orderly.enrol (h : Orderly u s) {r : Bytes} : Orderly u (s.enrol r) := by
  unfold State.enrol
  split
  · exact h.modSec.ite (Orderly.foldl (fun _ _ h => h.closeSession) h.modSec)
  · exact h.modHub fun g => g.secFault

theorem Orderly.offer (h : Orderly u s) {x : Session} {fresh : Bool} : Orderly u (s.offer x fresh).1 := by
  unfold State.offer
  split
  · exact h
  · split
    · exact h
    · exact h.drew.modSession

theorem Orderly.capsule (h : Orderly u s) {x : Session} {v : Bytes} : Orderly u (s.capsule x v).1 := by
  unfold State.capsule
  split
  · exact h
  · split
    · exact h
    · split
      · exact h
      · split
        · exact h
        · split
          · exact h
          · exact h.eraseKey.modSec.modSession

theorem Orderly.stopPlans (h : Orderly u s) : Orderly u s.stopPlans := by
  unfold State.stopPlans
  exact h.mkDies

theorem Orderly.unlock (h : Orderly u s) {scope : BitVec 8} : Orderly u (s.unlock scope) := by
  unfold State.unlock
  exact (h.modSec.stopPlans.dropLoad.mkDies.modSec.closeHosts.modDict.modHub (fun g => by refine HubLegal.secFault ?_; exact g)).modSec

theorem Orderly.token (h : Orderly u s) {v : Bytes} : Orderly u (s.token v).1 := by
  unfold State.token
  split
  · exact h
  · dsimp only
    split
    · exact h.modSec.drew.unlock
    · exact h.modSec.drew.modHub (fun g => by refine HubLegal.secFault ?_; exact g)

/-! ### The dictionary -/

theorem Orderly.restore (h : Orderly u s) {v : BitVec 16} : Orderly u (s.restore v).1 := by
  unfold State.restore
  split
  · exact h
  · split
    · exact h
    · exact h.modHub (fun g => by refine HubLegal.takeCfg ?_; exact g)

theorem Orderly.writePlca (h : Orderly u s) {v : BitVec 8} : Orderly u (s.writePlca v).1 := by
  unfold State.writePlca
  split
  · exact h.modHub (fun g => by refine HubLegal.takeCfg ?_; exact g)
  · exact h

theorem Orderly.writeRemoval (h : Orderly u s) {v : BitVec 8} : Orderly u (s.writeRemoval v).1 := by
  unfold State.writeRemoval
  split
  · exact h.removalRequest
  · split
    · exact h.removalCancel
    · exact h

theorem Orderly.writeCap (h : Orderly u s) {v : U32} : Orderly u (s.writeCap v).1 := by
  unfold State.writeCap
  split
  · exact h.modHub id
  · exact h

theorem Orderly.writeMrgFault (h : Orderly u s) {v : U64} : Orderly u (s.writeMrgFault v).1 := by
  unfold State.writeMrgFault
  exact h.modHub id

theorem Orderly.reverify (h : Orderly u s) : Orderly u s.reverify := by
  unfold State.reverify
  exact Orderly.foldl (fun _ _ h => Orderly.ite h.modPort.raiseTopo h) h

theorem Orderly.portAnew (h : Orderly u s) {p : PortIx} : Orderly u (s.portAnew p) := by
  unfold State.portAnew
  extract_lets e s₁ l s₂
  have h₁ : Orderly u s₁ := h.linkDown.ite h
  have h₂ : Orderly u s₂ := h₁.modLink
  exact h₂.wakeEnd.ite h₂

theorem Orderly.fitPort (h : Orderly u s) {p : PortIx} : Orderly u (s.fitPort p) := by
  unfold State.fitPort
  exact Orderly.ite h.portAnew h

theorem Orderly.writeCoord (h : Orderly u s) {size : Bool} {v : U32} : Orderly u (s.writeCoord size v).1 := by
  unfold State.writeCoord
  extract_lets w base dims s₁
  have h₁ : Orderly u s₁ := h.modHub fun g => g
  exact Orderly.iteFst h (Orderly.iteFst h (Orderly.iteFst h
    (Orderly.fst (Orderly.foldl (fun _ _ h => h.fitPort) h₁.defaultRoutes.reverify))))

theorem Orderly.writeHostPort (h : Orderly u s) {v : BitVec 8} : Orderly u (s.writeHostPort v).1 := by
  unfold State.writeHostPort
  extract_lets old s₁ s₂
  have anew {t} (g : Orderly u t) {o : Option PortIx} : Orderly u (match o with | some p => t.portAnew p | none => t) := by
    split
    · exact g.portAnew
    · exact g
  have h₁ : Orderly u s₁ := h.modHub fun g => g
  clear_value s₁
  have h₂ : Orderly u s₂ := anew h₁
  exact Orderly.iteFst h (Orderly.iteFst h (Orderly.fst (anew h₂)))

theorem Orderly.restoreAll (h : Orderly u s) {v : BitVec 16} : Orderly u (s.restoreAll v).1 := by
  unfold State.restoreAll
  dsimp only
  split
  · exact h.restore
  · exact h.writeHostPort.restore.chooseUpstream

theorem Orderly.write12 (h : Orderly u s) {idx sub : Nat} {v : Bytes} : Orderly u (s.write12 idx sub v).1 := by
  unfold State.write12
  dsimp only
  split
  · exact h.restoreAll
  · exact h.writePlca
  · exact h.modDict
  · exact h.askState
  · exact h.writeRemoval
  · exact h.writeCap
  · exact h.dieCommand
  · exact h.modDict
  · exact h.modRail
  · exact h.writeMrgFault

theorem Orderly.portCommand (h : Orderly u s) {p : PortIx} {v : BitVec 8} : Orderly u (s.portCommand p v).1 := by
  unfold State.portCommand
  dsimp only
  split
  · exact Orderly.ite h.modPort h.modPort.toFullRate
  · exact (Orderly.ite h.linkDown h.modLink).modPort
  · exact h.toLowRate.modPort
  · split
    · exact Orderly.ite h.modPort.modLink.wakeEnd h.modPort.modLink
    · exact h.modPort
  · exact h

theorem Orderly.writePass (h : Orderly u s) {n : DieIx} {v : BitVec 8} : Orderly u (s.writePass n v).1 := by
  unfold State.writePass
  split
  · split
    · exact h.modDie
    · exact h
  · split
    · exact h
    · split
      · exact h
      · exact h.modDie

theorem Orderly.writeRoute (h : Orderly u s) {n : DieIx} {v : Bytes} : Orderly u (s.writeRoute n v).1 := by
  unfold State.writeRoute
  split
  · exact h
  · exact h.writeImage

theorem Orderly.writeSwap (h : Orderly u s) {n : DieIx} {v : U64} : Orderly u (s.writeSwap n v).1 := by
  unfold State.writeSwap
  exact h.modDie

theorem Orderly.write3 (h : Orderly u s) {idx sub : Nat} {v : Bytes} : Orderly u (s.write3 idx sub v).1 := by
  unfold State.write3
  dsimp only
  split
  · exact h.writeCoord
  · exact h.writeCoord
  · exact h.writeHostPort
  · exact h.modHub (fun g => by refine HubLegal.takeCfg ?_; exact g)
  · split
    · exact h.modDict
    · exact h
  · split
    · exact h.modHub id
    · exact h
  · split
    · exact h.admitRelease
    · exact h
  · exact h.portCommand
  · exact h.writePass
  · exact h.writeRoute
  · exact h.writeSwap
  · exact h.modPort
  · exact h.modDie

theorem Orderly.writePeriod (h : Orderly u s) {v : U32} : Orderly u (s.writePeriod v).1 := by
  unfold State.writePeriod
  split
  · exact h
  · split
    · exact h
    · exact h.modHub id

theorem Orderly.writeLimit (h : Orderly u s) {run : Bool} {v : U32} : Orderly u (s.writeLimit run v).1 := by
  unfold State.writeLimit
  split
  · exact h
  · exact h.modDict

theorem Orderly.write4 (h : Orderly u s) {x : Session} {idx sub : Nat} {v : Bytes} {p : ClearPlan} {c : ClearStandby} :
    Orderly u (s.write4 x idx sub v p c).1 := by
  unfold State.write4
  dsimp only
  split
  · exact h.loadCommand
  · split
    · exact h
    · exact h.modSession
  · exact h.modSession
  · exact h.planChunk
  · exact h.capsule
  · split
    · exact h.writePeriod
    · exact h
  · split
    · exact h.writeLimit
    · exact h
  · split
    · exact h.writeLimit
    · exact h
  · exact (h.modHub id).chooseUpstream
  · exact h.openHost
  · exact h.closeHost

theorem Orderly.clearDropped (h : Orderly u s) : Orderly u s.clearDropped := by
  unfold State.clearDropped
  exact (h.modHub id).mkDies

theorem Orderly.writeOpKey (h : Orderly u s) {k : Nat} {v : Bytes} : Orderly u (s.writeOpKey k v).1 := by
  unfold State.writeOpKey
  split
  · exact h.modHub (fun g => by refine HubLegal.takeCfg ?_; exact g)
  · exact h

theorem Orderly.write5 (h : Orderly u s) {x : Session} {idx sub : Nat} {v : Bytes} : Orderly u (s.write5 x idx sub v).1 := by
  unfold State.write5
  extract_lets b w q
  split
  · exact Orderly.iteFst h.modSession h
  · exact Orderly.iteFst h.clearDropped h
  · exact h.recCommand
  · exact Orderly.iteFst (Orderly.fst (h.modHub id)) h
  · exact h.nonceWrite
  · exact h.modSec
  · exact h.writeOpKey
  · exact h.token
  · exact h.updCommand
  · exact h.updChunk
  · generalize dieIndex idx = r
    obtain ⟨n, off⟩ := r
    dsimp only
    split
    · exact h.modDie
    · exact h

theorem Orderly.effect (h : Orderly u s) {x : Session} {idx sub : Nat} {v : Bytes} {p : ClearPlan} {c : ClearStandby} :
    Orderly u (s.effect x idx sub v p c).1 := by
  unfold State.effect
  split
  · exact h.write12
  · split
    · exact h.write3
    · split
      · exact h.write4
      · exact h.write5

theorem Orderly.commit {t : State × BitVec 8} (h : Orderly u s) (ht : Orderly u t.1) {keeps mramOk : Bool} :
    Orderly u (commit s keeps mramOk t).1 := by
  unfold Sys2Proof.Machine.commit
  split
  · exact h
  · exact ht

theorem Orderly.writeEntry (h : Orderly u s) {x : Session} {idx sub : Nat} {v : Bytes} {p : ClearPlan} {c : ClearStandby}
    {mramOk : Bool} : Orderly u (s.writeEntry x idx sub v p c mramOk).1 := by
  unfold State.writeEntry
  dsimp only
  split
  · exact h
  · split
    · exact h
    · split
      · exact h
      · split
        · exact h
        · split
          · exact h
          · exact h.commit h.effect

/-! ### Requests -/

theorem Orderly.discardReq (h : Orderly u s) {x : Session} : Orderly u (s.discardReq x) := by
  unfold State.discardReq
  exact Orderly.ite h.closeSession h.modSession

theorem Orderly.reply (h : Orderly u s) {r : Req} {o : Response} : Orderly u (s.reply r o) := by
  unfold State.reply
  exact h.modSession

/-- A request is ignored, answered again, discarded, breaks off a segmented write, or has its effect. -/
theorem Orderly.request (h : Orderly u s) {r : Req} {heard : Bool} {pt : BitVec 8} {name : Response → Response}
    {cont : Session → Bool} {act : State → Session → State × Response} (ha : ∀ x, Orderly u (act s x).1) :
    Orderly u (s.request r heard pt name cont act) := by
  obtain ⟨e, -⟩ | ⟨x, -, -, h1 | h2 | h3 | h4⟩ := s.request_cases r heard pt name cont act
  · rw [e]; exact h
  · obtain ⟨-, -, -, e⟩ := h1
    rw [e]; exact h.modSession
  · rw [h2.2]; exact h.discardReq
  · obtain ⟨-, -, -, -, e⟩ := h3
    rw [e]; exact h.modSession.reply
  · obtain ⟨-, -, -, e⟩ := h4
    rw [e]; exact (ha x).reply

theorem Orderly.readEntry (h : Orderly u s) {x : Session} {idx sub off len : Nat} :
    Orderly u (s.readEntry x idx sub off len).1 := by
  unfold State.readEntry
  dsimp only
  split
  · exact h
  · split
    · exact h
    · split
      · exact h
      · split
        · have offered := h.offer (x := x) (fresh := decide (off = 0))
          split
          · next e => rw [e] at offered; exact offered
          · next e => rw [e] at offered; exact offered
        · split
          · exact h
          · split <;> exact h

theorem Orderly.readReq (h : Orderly u s) {r : Req} {idx sub off len : Nat} : Orderly u (s.readReq r idx sub off len) :=
  h.request fun _ => h.readEntry

theorem Orderly.discover (h : Orderly u s) {route : Route} {idx sub off len : Nat} :
    Orderly u (s.discover route idx sub off len) := by
  unfold State.discover
  dsimp only
  split
  · exact h
  · split
    · exact h.modDict
    · split
      · exact h.modDict
      · split
        · exact h.modDict
        · split
          · exact h.modDict
          · exact Orderly.ite h.modDict h.modDict

theorem Orderly.writeWhole (h : Orderly u s) {x : Session} {idx sub : Nat} {v : Bytes} {p : ClearPlan} {c : ClearStandby}
    {mramOk : Bool} :
    Orderly u (s.writeWhole x idx sub v p c mramOk).1 := by
  unfold State.writeWhole
  exact h.writeEntry

theorem Orderly.writeSegment (h : Orderly u s) {x : Session} {idx : BitVec 16} {sub : BitVec 8} {off tot : Nat}
    {more : Bool} {v : Bytes} {mramOk : Bool} :
    Orderly u (s.writeSegment x idx sub off tot more v mramOk).1 := by
  unfold State.writeSegment
  extract_lets keep all n st scalar most
  have kept {g} : Orderly u (keep g s) := h.modSession
  exact Orderly.iteFst kept (Orderly.iteFst kept (Orderly.iteFst kept (Orderly.iteFst (Orderly.iteFst kept kept)
    (Orderly.iteFst kept kept.writeWhole))))

theorem Orderly.writeReq (h :
    Orderly u s) {r : Req} {idx : BitVec 16} {sub : BitVec 8} {off tot : BitVec 32} {more : Bool} {value : Bytes} :
    Orderly u (s.writeReq r idx sub off tot more value) :=
  h.request fun _ => h.writeSegment

theorem Orderly.openReq (h : Orderly u s) {route : Route} {role : Role} {key : Bytes} {enrol cert : Option Bytes} :
    Orderly u (s.openReq route role key enrol cert) := by
  unfold State.openReq
  extract_lets full s₁ fresh nonce seed ek code sent c
  have filled {t} (g : Orderly u t) : Orderly u (full t) := g.modDict
  have h₁ : Orderly u s₁ := by
    dsimp only [s₁]
    split
    · exact h.enrol
    · exact h
  clear_value s₁
  exact h.ite ((filled h).ite ((filled h₁).ite h₁.drew.modDict))

theorem Orderly.proof (h : Orderly u s) {challenge : Nat} {cipher sig : Bytes} : Orderly u (s.proof challenge cipher sig) := by
  unfold State.proof
  split
  · exact h
  · split
    · exact h
    · dsimp only
      split
      · exact h.modDict.modDict
      · split
        · exact h.modDict.modDict
        · split
          · exact h.modDict.modDict
          · exact h.modDict.firstOperator.modDict.modDict

theorem Orderly.closeReq (h : Orderly u s) {r : Req} : Orderly u (s.closeReq r) :=
  h.request fun _ => h.closeSession.modDict

theorem Orderly.sessionTimeout (h : Orderly u s) {ses : BitVec 16} : Orderly u (s.sessionTimeout ses) := by
  unfold State.sessionTimeout
  split
  · exact Orderly.ite h.closeSession h
  · exact h

/-! ### PDUs -/

theorem Orderly.runPdu (h : Orderly u s) {r : Req} {p : Pdu} : Orderly u (s.runPdu r p) := by
  unfold State.runPdu
  split
  · exact h.readReq
  · exact h.writeReq
  · exact h.closeReq
  · exact h

theorem Orderly.sessionPdu (h : Orderly u s) {route : Route} {x : Session} {b : Bytes} :
    Orderly u (s.sessionPdu route x b).1 := by
  unfold State.sessionPdu
  dsimp only
  split
  · exact Orderly.ite h.discardReq h
  · exact h.runPdu

theorem Orderly.wholeOpen (h : Orderly u s) {route : Route} {pt : BitVec 8} {v : Bytes} :
    Orderly u (s.wholeOpen route pt v) := by
  unfold State.wholeOpen
  split
  · dsimp only
    split
    · exact h.openReq
    · exact h
  · split
    · exact h.proof
    · exact h

theorem Orderly.openPduIn (h : Orderly u s) {route : Route} {p : Pdu} : Orderly u (s.openPduIn route p).1 := by
  unfold State.openPduIn
  extract_lets send t got t'
  have h₁ : Orderly u t := h.modDict.discover
  have h₂ : Orderly u t' := h.modDict.wholeOpen
  exact Orderly.iteFst (Orderly.fst h₁) (Orderly.iteFst (Orderly.iteFst (Orderly.fst h.modDict) (Orderly.fst h₂)) h)

theorem Orderly.pduIn (h : Orderly u s) {route : Route} {b : Bytes} : Orderly u (s.pduIn route b).1 := by
  unfold State.pduIn
  split
  · exact h
  · split
    · exact h.openPduIn
    · split
      · exact h.sessionPdu
      · exact h

theorem Orderly.fieldFrame (h : Orderly u s) {frame : Bytes} : Orderly u (s.fieldFrame frame) := by
  unfold State.fieldFrame
  split
  · exact h.inletValue
  · exact h.pduIn.modDict.ite h

theorem Orderly.takeFrame (h : Orderly u s) : Orderly u s.takeFrame := by
  unfold State.takeFrame
  split
  · exact h
  · exact h.modDict.fieldFrame

theorem Orderly.inletRead (h : Orderly u s) {value : Option U32} : Orderly u (s.inletRead value) := by
  unfold State.inletRead
  exact (Orderly.iter (fun h => h.takeFrame) h.modDict).ite h

theorem Orderly.takeInPdu (h : Orderly u s) : Orderly u s.takeInPdu := by
  unfold State.takeInPdu
  split
  · exact h
  · next q r _ =>
    dsimp only
    split
    · exact (h.modDict.modHub fun g => g.addReport).ite h.modDict
    · exact h.modDict.pduIn.ite (Orderly.foldl (fun _ _ h => h.enqueueFlit) h.modDict.pduIn)

theorem Orderly.plcaEffect (h : Orderly u s) : Orderly u s.plcaEffect := by
  unfold State.plcaEffect
  exact Orderly.ite h.modDict h

theorem Orderly.modTap (h : Orderly u s) {f : Tap → Tap} : Orderly u (s.modTap f) := by
  unfold State.modTap
  exact h.modHub id

theorem Orderly.tapRise (h : Orderly u s) {tdi : Bool} {pins : BitVec 12} : Orderly u (s.tapRise tdi pins) := by
  unfold State.tapRise
  dsimp only
  split
  · exact h.modTap
  · exact h.modTap
  · split
    · exact h.modTap.drew
    · exact h.modTap
    · exact h.modTap
  · split <;> exact h.modTap
  · exact h

theorem Orderly.tapFall (h : Orderly u s) : Orderly u s.tapFall := by
  unfold State.tapFall
  dsimp only
  split
  · exact h.modTap
  · exact h.modTap
  · exact Orderly.ite h.modTap h
  · exact h.modTap
  · exact h.modTap
  · exact h

/-! ### Periods -/

theorem Orderly.tickStart (h : Orderly u s) {n : DieIx} : Orderly u (s.tickStart n) := by
  unfold State.tickStart
  exact Orderly.ite h.tickOverrun.tickRecognition h.tickOverrun.lateRecognition

theorem Orderly.roundsDue (h : Orderly u s) {n : DieIx} : Orderly u (s.roundsDue n) := by
  unfold State.roundsDue
  dsimp only
  split
  · exact h
  · split
    · split
      · exact h.forcedRound
      · exact h
    · exact Orderly.foldl (fun _ _ h => h.intervalRound) h.preTickRound

theorem Orderly.windowsBegin (h : Orderly u s) {n : DieIx} {rc : Nat} {pcyc : Int} : Orderly u (s.windowsBegin n rc pcyc) := by
  unfold State.windowsBegin
  split
  · exact Orderly.foldl (fun _ _ h => Orderly.ite h.windowBegins h) h
  · exact h

theorem Orderly.cycleStart (h : Orderly u s) {n : DieIx} : Orderly u (s.cycleStart n) := by
  unfold State.cycleStart
  exact (Orderly.ite h.frequencyWindow.tickStart.routeSwap.roundsDue h.frequencyWindow.tickStart.routeSwap).forcedBegins

theorem Orderly.windowRound (h : Orderly u s) {n : DieIx} {ch : ChanIx} {err : SectorErr} :
    Orderly u (s.windowRound n ch err) := by
  unfold State.windowRound
  exact Orderly.ite h.windowBegins h

theorem Orderly.dieCycle (h : Orderly u s) {n : DieIx} : Orderly u (s.dieCycle n) := by
  unfold State.dieCycle
  dsimp only
  split
  · exact h.cycleStart.modDie.windowsBegin.sendToHost.modDie.slowCheck
  · exact h.cycleStart.modDie.windowsBegin.sendToHost.modDie

theorem Orderly.routerPeriod (h : Orderly u s) {n : DieIx} : Orderly u (s.routerPeriod n) := by
  unfold State.routerPeriod
  extract_lets s₁ s₂ s₃
  have h₁ : Orderly u s₁ := Orderly.foldl (fun _ _ h => h.ite h.routerForward) h
  have h₂ : Orderly u s₂ := Orderly.iter (fun h => h.routerForward) h₁
  exact (h₂.ite h₂.packetDeliver).backPressure

theorem Orderly.dramPeriod (h : Orderly u s) {n : DieIx} : Orderly u (s.dramPeriod n) := by
  unfold State.dramPeriod
  exact (Orderly.ite h.modDie h.modDie.roundsDue).bulkClear

theorem Orderly.diePeriod (h : Orderly u s) {n : DieIx} : Orderly u (s.diePeriod n) := by
  unfold State.diePeriod
  split
  · exact h
  · dsimp only
    split
    · exact h.routerPeriod.dramPeriod.passTick.routeSwap
    · exact Orderly.ite h.routerPeriod.dramPeriod.modDie h.routerPeriod.dramPeriod.modDie.dieCycle

theorem Orderly.advanceTime (h : Orderly u s) : Orderly u s.advanceTime := by
  unfold State.advanceTime
  refine h.mkDies.modHub fun g => ?_
  split
  exact g

theorem Orderly.hubPeriod (h : Orderly u s) : Orderly u s.hubPeriod := by
  unfold State.hubPeriod
  exact h.hubTick.thermtrip.pwrgdTimeout.hostCreditTimeout.boardEnd

theorem Orderly.firmwarePeriod (h : Orderly u s) : Orderly u s.firmwarePeriod := by
  unfold State.firmwarePeriod
  extract_lets rails paced cores steps power loads frames sessions keys report
  have h₁ : Orderly u cores := Orderly.foldl (fun _ _ h => h.vcoreRaise.vcoreLower)
    (Orderly.foldl (fun _ _ h => h.railTimeout.dischargeTimeout) h).railPace
  clear_value cores
  have h₂ : Orderly u power := h₁.linkStep.discovery.attestation.attest.powerTransition.quiesceEnd.drainEnd
  clear_value power
  have h₃ : Orderly u frames := h₂.applyLoad.settleJobs.plcaEffect.takeFrame.takeInPdu
  clear_value frames
  have h₄ : Orderly u keys := Orderly.foldl (fun _ _ h => h.keyTimeout) (Orderly.foldl (fun _ _ h => h.sessionTimeout) h₃)
  clear_value keys
  have h₅ : Orderly u report := by
    dsimp only [report]
    split
    · exact h₄.reportReady.ite h₄
    · exact h₄
  exact h₅.inletStale.optimeStore

theorem Orderly.portPeriod (h : Orderly u s) {p : PortIx} : Orderly u (s.portPeriod p) := by
  unfold State.portPeriod
  exact h.exchangeStart.announcementSend.neighbourLost.keyExpiry.riseNext

theorem Orderly.endPeriod (h : Orderly u s) {e : LinkEnd} : Orderly u (s.endPeriod e) := by
  unfold State.endPeriod
  exact ((Orderly.ite h.replayTimeout.trainingFails h.replayTimeout).trainingRetry).linkTick

theorem Orderly.everyCount (h : Orderly u s) {before : Nat} : Orderly u (s.everyCount before) := by
  unfold State.everyCount
  extract_lets s₁ s₂ s₃
  have h₂ : Orderly u s₂ := h.stamped.engineTake.ite h.stamped
  clear_value s₂
  have h₃ : Orderly u s₃ := Orderly.foldl (fun _ _ h => h.dieAlign) h₂
  clear_value s₃
  exact h₃.capCompute.thermalProtect.ite h₂

theorem Orderly.freshPeriod (h : Orderly u s) : Orderly u s.freshPeriod := by
  unfold State.freshPeriod
  exact (h.mkHub id).stamped

theorem Orderly.closePeriod (h : Orderly u s) {clks : Vector Nat 8} : Orderly u (s.closePeriod clks) := by
  unfold State.closePeriod
  exact ((h.mkHub id).mkDies).mkPorts

/-! ### The passing of time -/

theorem HubLegal.clocked {h : Hub} (g : HubLegal h) {wall frac : Nat} :
    HubLegal { h with time := { h.time with wall := wall, frac := frac } } := g

theorem Orderly.resetPeriod (h : Orderly u s) : Orderly u s.resetPeriod := by
  unfold State.resetPeriod
  refine Orderly.boardEnd (h.modHub ?_)
  exact fun g => g.clocked

/-- A period of the clock keeps the queue and the modes. -/
theorem orderly_tick (s : State) : Orderly s (tick s) := by
  unfold tick
  extract_lets clks s₁ before s₂ s₃ s₄ s₅ s₆
  have h₁ : Orderly s s₁ := (Orderly.refl s).freshPeriod
  clear_value s₁
  have h₂ : Orderly s s₂ := Orderly.foldl (fun _ _ h => h.diePeriod) h₁
  clear_value s₂
  have h₃ : Orderly s s₃ := Orderly.foldl (fun _ _ h => h.endPeriod) h₂
  clear_value s₃
  have h₅ : Orderly s s₅ := h₃.advanceTime.hubPeriod
  clear_value s₅
  have h₆ : Orderly s s₆ := (Orderly.foldl (fun _ _ h => h.portPeriod) h₅.firmwarePeriod).holdover.upstreamLost.ite h₅
  clear_value s₆
  exact (Orderly.refl s).ite (h₁.resetPeriod.closePeriod.ite h₆.everyCount.closePeriod)

/-! ### The commands -/

/-- The next state that an outcome answers keeps the queue and the modes. -/
def OutOrderly (s : State) (o : Out) : Prop := ∀ t, o = .next t → Orderly s t

theorem ended {t : State} (h : Orderly s t) : OutOrderly s (.next t) := fun _ e => (Host.Outcome.next.inj e) ▸ h

theorem acted {t : State} (h : Orderly s t) : OutOrderly s (act s t) := ended ((Orderly.refl s).ite h)

theorem orderly_onDie (n : DieIx) (f : Die → Die) : OutOrderly s (onDie s n f) :=
  ended (Orderly.ite (Orderly.refl s).modDie (Orderly.refl s))

theorem orderly_put (r : Req) (idx sub : Nat) (v : Bytes) (p : ClearPlan) (c : ClearStandby) : OutOrderly s (s.put r idx sub v p c) :=
  ended ((Orderly.refl s).request fun _ => (Orderly.refl s).writeWhole)

theorem orderly_sectorDecode (a : CoreRef) (j : Fin 16) (err : SectorErr) : OutOrderly s (execSectorDecode a j err s) := by
  have r := Orderly.refl s
  unfold execSectorDecode
  split
  · exact ended r
  next i _ =>
    generalize s.dies[a.die].decodeServed a.core j i err = served
    obtain ⟨d, x⟩ := served
    dsimp only
    split
    · exact ended (Orderly.ite r.modDie.candidate r.modDie)
    · exact ended r.modDie

theorem orderly_imemStandbyWrite (a : CoreRef) (bank : Bool) (addr : BitVec 18) (data : Bytes) :
    OutOrderly s (execImemStandbyWrite a bank addr data s) := by
  unfold execImemStandbyWrite
  split
  · exact ended (Orderly.ite (Orderly.refl s).decided.modDie (Orderly.refl s).decided)
  · exact ended (Orderly.refl s)

theorem orderly_jtagTckEdge (tms tdi : Bool) (pins : BitVec 12) : OutOrderly s (execJtagTckEdge tms tdi pins s) := by
  unfold execJtagTckEdge
  split
  · exact ended (Orderly.refl s)
  · split
    · exact fun _ e => nomatch e
    · exact ended (Orderly.refl s).tapRise.modTap.tapFall

/-- A command keeps the queue and the modes. -/
theorem orderly_exec (c : Instr) (s : State) : OutOrderly s (exec c s) := by
  have r := Orderly.refl s
  cases c
  case sectorDecode a j err => exact orderly_sectorDecode a j err
  case imemStandbyWrite a bank addr data => exact orderly_imemStandbyWrite a bank addr data
  case jtagTckEdge tms tdi pins => exact orderly_jtagTckEdge tms tdi pins
  case flitInject => exact ended (Orderly.ite r.modDie.sendToHost r)
  case tickRecognition => exact ended r.tickRecognition
  case tickOverrun => exact ended r.tickOverrun
  case lateFrameRecognition => exact ended r.lateRecognition
  case frequencyWindow => exact ended r.frequencyWindow.slowCheck
  case vcoreRaise => exact ended r.vcoreRaise
  case vcoreLower => exact ended r.vcoreLower
  case dieTimeAlign => exact ended r.dieAlign
  case timeExchangeStart => exact ended r.exchangeStart
  case timeSync => exact ended r.timeSync
  case timeFollowUp => exact ended r.timeFollowUp
  case timeDelayRequest => exact ended r.timeDelayRequest
  case timeResponse => exact ended r.timeResponse
  case timeHoldover => exact ended r.holdover
  case refreshWindowRound => exact ended r.windowRound
  case refreshIntervalRound => exact ended r.intervalRound
  case preTickRefresh => exact ended r.preTickRound
  case forcedRefresh => exact ended r.forcedRound
  case dramRateCompare => exact acted r.rateCompare
  case bulkClearComplete => exact ended r.bulkClear
  case mgmtLaneFail => exact ended r.laneFail
  case flitReceive => exact ended r.flitReceive
  case retryRequest => exact ended r.retryRequest
  case replayTimeout => exact ended r.replayTimeout
  case linkDown => exact ended r.linkDown
  case trainingRetry => exact ended r.trainingRetry
  case trainingComplete => exact ended r.trainingComplete
  case linkKeyRenewal => exact ended r.keyRenewal
  case linkKeyExpiry => exact ended r.keyExpiry
  case routerForward => exact ended (r.routerForward.ite r)
  case packetDeliver => exact ended (r.packetDeliver.ite r)
  case hostPacket => exact ended r.hostPacket
  case hostCreditTimeout => exact ended r.hostCreditTimeout
  case hostAdapterAck => exact ended r.adapterAck
  case routeSwap => exact ended r.routeSwap
  case announcementSend => exact ended r.announcementSend
  case announcementReceive => exact ended r.announcementIn
  case neighbourLost => exact ended r.neighbourLost
  case powerCapCompute => exact acted r.capCompute
  case thermalProtect => exact acted r.thermalProtect
  case avsbusRead => exact acted r.avsbusRead
  case pmbusPoll => exact acted r.pmbusPoll
  case sensorRead => exact acted r.sensorRead
  case thermtrip => exact acted r.thermtrip
  case inletRead => exact acted r.inletRead
  case inletStale => exact acted r.inletStale
  case railGood => exact acted r.railGood
  case railTimeout => exact acted r.railTimeout
  case railDischargeTimeout => exact acted r.dischargeTimeout
  case pwrgdTimeout => exact acted r.pwrgdTimeout
  case pwrgdFall => exact ended r.pwrgdFall
  case rstNAssert => exact ended r.rstAssert
  case rstNRelease => exact ended r.rstRelease
  case refclkLoss => exact ended r.refclkLoss
  case hubRomBoot => exact ended r.romBoot
  case firmwareStart => exact ended r.firmwareStart
  case dramTraining => exact ended r.dramTraining
  case bringupLinkStep => exact ended r.linkStep
  case bringupDiscovery => exact ended r.discovery
  case bringupAttestation => exact ended r.attestation
  case marigoldWatchdog => exact ended r.watchdog
  case powerTransition => exact ended r.powerTransition
  case quiesceEnd => exact ended r.quiesceEnd
  case removalDrainEnd => exact ended r.drainEnd
  case sessionOpenRequest => exact ended r.openReq
  case sessionProof => exact ended r.proof
  case sessionClose => exact ended r.closeReq
  case sessionTimeout => exact ended r.sessionTimeout
  case discoveryRead => exact ended r.discover
  case dictRead => exact ended r.readReq
  case dictWrite => exact ended r.writeReq
  case planLoadApply => exact ended r.applyLoad
  case attestationReady => exact ended r.reportReady
  case jobKeyOffer => exact ended r.readReq
  case jobKeyExpiry => exact ended r.keyTimeout
  case eventEngineTake => exact ended (r.engineTake.modHub id)
  case optimeStore => exact ended r.optimeStore
  case standbyPowerApply => exact ended r.standbyApply
  case standbyPowerLoss => exact ended r.standbyLoss
  case pwrgdRise => exact ended r.pwrgdRise
  case railDischarged => exact ended r.railDischarged
  case refclkReturn => exact ended (r.modHub id)
  case plcaNodeNumberEffect => exact acted r.plcaEffect
  case faultReportArrival => exact acted r.reportArrival
  case trstNAssert => exact ended r.modTap
  case powerStateRequest | dieFence | dieRelease | removalRequest | removalCancel | admissionRelease | updateBegin |
      updateChunk | updateVerify | updateActivate | updateAbort | updateRestart | updateCommit | loadBegin | planChunk |
      loadEnd | standbyBegin | standbyEnd | loadAbort | planUnload | flipArm | flipDisarm | openHostSession |
      closeHostSession | framePeriodWrite | powerCapWrite | coordinateWrite | routeImageWrite | routeSwapArm |
      passThroughWrite | portAutomatic | portDisable | portLowRate | portReenable | attestationNonce | jobKeyCapsule |
      debugUnlockToken | restoreDefaults | recorderEmpty | mirrorEmpty => exact orderly_put _ _ _ _ _ _
  all_goals exact orderly_onDie _ _

end

/-! ### The statements -/

/-- A step that answers a state takes the front command and keeps the modes. -/
theorem orderly_step {s t : State} (e : step s = .next t) : Orderly { s with pending := s.pending.tail } t := by
  cases hq : s.pending with
  | nil =>
    obtain rfl := Host.Outcome.next.inj ((step_nil s hq).symm.trans e)
    exact ⟨(orderly_tick s).1.trans hq, (orderly_tick s).2⟩
  | cons c rest => exact orderly_exec c _ t ((step_cons s c rest hq).symm.trans e)

/-- Settles O1: it is the equation of the step on a queue that is not empty (`step_cons`). -/
theorem stepRunsFrontCommand : Obligations.StepRunsFrontCommand := by
  unfold Obligations.StepRunsFrontCommand
  exact fun _ c rest => step_cons _ c rest rfl

/-- Settles O2: the queue after a step is its tail (`orderly_step`). -/
theorem everyStepTakesOneCommand : Obligations.EveryStepTakesOneCommand := by
  unfold Obligations.EveryStepTakesOneCommand
  exact fun s t e => (orderly_step e).1

/-- Settles O60: a step keeps legal modes legal (`orderly_step`). -/
theorem powerModesLegal : Obligations.PowerModesLegal := by
  unfold Obligations.PowerModesLegal
  exact fun s t legal e => (orderly_step e).2 legal

end Sys2Proof.Machine

/-! # Rails come and go (O46)

A sequence that takes rails down and is to begin again does so as soon as its last rail has fallen: that rail is then enabled at once,
and reads as high again in the state that the fall leaves. -/

namespace Sys2Proof.Machine

/-- Rail 11 is the last one of a sequence that is to begin again, and is on its way down while the supply is good. -/
def lastRailFalling : State :=
  State.reset.modHub fun h => { h with
    board := { h.board with pwrgd := true }
    power := { h.power with rails := h.power.rails.set 11 { falling := true }, goal := .down [11] true true } }

theorem lastRailFalling_comesBack : ((lastRailFalling.railDischarged 11).hub.power.rails[11]).high = true := by
  decide

/-- Refutes O46: with `lastRailFalling` the rail that has fallen is enabled again in the same step, and so reads as high. -/
theorem not_railsComeAndGo : ¬ Obligations.RailsComeAndGo := by
  unfold Obligations.RailsComeAndGo
  intro claim
  obtain ⟨-, -, -, falls, -⟩ := claim lastRailFalling 11 11 []
  obtain ⟨⟨t, e, -, -, low, -⟩, -⟩ := falls rfl rfl
  obtain rfl := Host.Outcome.next.inj e
  exact Bool.false_ne_true (low.symm.trans lastRailFalling_comesBack)

end Sys2Proof.Machine

/-! # What the working of links writes

What a link end that leaves the trained states, a failed check and a choice of the upstream neighbour write, beside what `LinkWork`
says that they leave. -/

namespace Sys2Proof.Machine

/-! ### The hub die -/

/-- The hub die but for the packets and messages of the host and the log of the group's reports. -/
def Hub.steady (h : Hub) : Hub := { h with dict := { h.dict with toHost := [], hostOuts := [], groupLog := [] } }

section
variable {α : Type} {s : State}

theorem steady_foldl {f : State → α → State} (h : ∀ s a, (f s a).hub.steady = s.hub.steady) (l : List α) (s : State) :
    (l.foldl f s).hub.steady = s.hub.steady := by
  induction l generalizing s with
  | nil => rfl
  | cons a l ih => exact (ih (f s a)).trans (h s a)

theorem steady_notifyHost (s : State) (code : Nat) (o : HostOut) : (s.notifyHost code o).hub = s.hub := by
  unfold State.notifyHost
  split
  · exact s.modLink_hub _ _
  · rfl

theorem steady_answerHost (s : State) (code : Nat) (m : MsgId) (by_ : Option (BitVec 23)) :
    (s.answerHost code m by_).hub.steady = s.hub.steady := by
  unfold State.answerHost
  split
  · exact (congrArg Hub.steady (steady_notifyHost _ _ _)).trans (by exact rfl)
  · rfl

theorem steady_answerFlit (s : State) (n : DieIx) (f : Flit) (code : Nat) (bridge : Bool) :
    (s.answerFlit n f code bridge).hub.steady = s.hub.steady := by
  unfold State.answerFlit
  split
  · rfl
  · split
    · unfold State.answerHere
      split
      · exact steady_answerHost ..
      · rfl
    · rfl

theorem steady_hostDone (s : State) (x : ToHost) (code : Nat) : (s.hostDone x code).hub.steady = s.hub.steady := by
  unfold State.hostDone
  dsimp only
  split
  · exact steady_answerFlit ..
  · rfl

theorem steady_flushOut (s : State) (e : LinkEnd) : (s.flushOut e).hub.steady = s.hub.steady := by
  unfold State.flushOut
  extract_lets n q s₁ s₂
  have h₁ : s₁.hub.steady = s.hub.steady := by
    dsimp only [s₁]
    split
    · exact steady_foldl (fun s x => steady_hostDone s x 7) _ s
    · exact steady_foldl (fun s f => steady_answerFlit s n f 7 false) _ s
  have h₂ : s₂.hub = s₁.hub := by
    dsimp only [s₂]
    split <;> rfl
  exact (congrArg Hub.steady h₂).trans h₁

theorem steady_dropLink (s : State) (e : LinkEnd) (new : LinkState) : (s.dropLink e new).hub.steady = s.hub.steady :=
  (congrArg Hub.steady (State.modLink_hub _ _ _)).trans (steady_flushOut s e)

theorem State.addReport_steady (s : State) (r : Bytes) : (s.modHub (·.addReport r)).hub.steady = s.hub.steady := by
  obtain ⟨l, e⟩ := s.hub.addReport_eq r
  rw [State.modHub_hub, e]
  rfl

theorem steady_report (s : State) (p : PortIx) (cause : Nat) : (s.report p cause).hub.steady = s.hub.steady := by
  unfold State.report
  dsimp only
  split
  · rfl
  · split
    · exact s.addReport_steady _
    · exact congrArg Hub.steady (s.modDie_hub _ _)

theorem State.report_ports (s : State) (p : PortIx) (cause : Nat) : (s.report p cause).ports = s.ports := by
  unfold State.report
  dsimp only
  split
  · rfl
  · split
    · exact s.modHub_ports _
    · exact s.modDie_ports _ _

/-! ### A port that leaves the trained states -/

theorem State.now_of_steady {t : State} (h : t.hub.steady = s.hub.steady) : t.now = s.now := congrArg (·.time.wall) h

/-- The link of an end that has been dropped. -/
def droppedLink (now : Nat) (new : LinkState) : Link := { Link.init with st := new, retryAt := now + retryCounts }

theorem droppedLink_eq (now : Nat) (new : LinkState) :
    droppedLink now new = { Link.init with st := new, retryAt := now + 62500000 } := rfl

/-- A link end that is dropped begins anew. -/
theorem State.dropLink_link (s : State) (e : LinkEnd) (new : LinkState) : (s.dropLink e new).link e = droppedLink s.now new := by
  have now : (s.flushOut e).now = s.now := State.now_of_steady (steady_flushOut s e)
  have same : (s.dropLink e new).link e = droppedLink (s.flushOut e).now new := State.link_modLink_same _ e _
  rw [same, now]

/-- Of a port that is dropped nothing but its link changes. -/
theorem State.dropLink_port (s : State) (p : PortIx) (new : LinkState) :
    (s.dropLink (.port p) new).ports[p] = { s.ports[p] with link := droppedLink s.now new } := by
  have now : (s.flushOut (.port p)).now = s.now := State.now_of_steady (steady_flushOut s _)
  have same : (s.dropLink (.port p) new).ports[p]
      = { (s.flushOut (.port p)).ports[p] with link := droppedLink (s.flushOut (.port p)).now new } := State.modPort_same _ p _
  have flushed := ((linkWork_flushOut (own := fun _ => False) s (.port p)).ports p id).2
  rw [same, now]
  exact congrArg (fun x : Port => { x with link := droppedLink s.now new }) flushed

/-- A fault of a port sets its bit, and else notes it. -/
theorem State.portFault_port (s : State) (p : PortIx) (b : FBit) (det : Option Bytes) :
    (s.portFault p b det).ports[p]
      = { s.ports[p] with fault := setBit s.ports[p].fault b.bit, setNow := setBit s.ports[p].setNow b.bit } :=
  s.modPort_same p _

theorem State.portFault_ports_other (s : State) (p q : PortIx) (b : FBit) (det : Option Bytes) (h : q ≠ p) :
    (s.portFault p b det).ports[q] = s.ports[q] := s.modPort_other p q _ h

theorem State.portFault_hub (s : State) (p : PortIx) (b : FBit) (det : Option Bytes) : (s.portFault p b det).hub = s.hub := rfl

/-! ### The choice of the upstream neighbour -/

/-- A choice of the upstream neighbour leaves ports, dies and the rest of the hub die, but for the recorder's queue. -/
theorem State.chooseUpstream_kept (s : State) :
    s.chooseUpstream.ports = s.ports ∧ s.chooseUpstream.dies = s.dies ∧ s.chooseUpstream.hub.dict = s.hub.dict
      ∧ s.chooseUpstream.draws = s.draws ∧ s.chooseUpstream.now = s.now := by
  have aligned : ∀ (h : Hub) (st : BitVec 8), (h.setAlign st).dict = h.dict ∧ (h.setAlign st).time.wall = h.time.wall := fun h st => by
    obtain ⟨a, q, e⟩ := h.setAlign_eq st
    exact e ▸ ⟨rfl, rfl⟩
  unfold State.chooseUpstream
  split
  · obtain ⟨hd, hw⟩ := aligned { s.hub with time := { s.hub.time with upstream := 0xFF, hops := 0 } } 0
    exact ⟨rfl, rfl, hd, rfl, hw⟩
  · split
    · exact ⟨rfl, rfl, rfl, rfl, rfl⟩
    next p _ =>
      dsimp only
      split
      · exact ⟨rfl, rfl, rfl, rfl, rfl⟩
      · obtain ⟨hd, hw⟩ := aligned { s.hub with time := { s.hub.time with
          upstream := BitVec.ofNat 8 p.val, hops := BitVec.ofNat 8 (annHops s.ports[p].lastAnn + 1), good := 0
          lastEx := s.hub.time.wall } } 1
        exact ⟨rfl, rfl, hd, rfl, hw⟩

theorem State.upstreamLost_cases (s : State) : s.upstreamLost = s.chooseUpstream ∨ s.upstreamLost = s := by
  unfold State.upstreamLost
  dsimp only
  split
  · exact .inl rfl
  · exact .inr rfl

theorem State.upstreamLost_kept (s : State) :
    s.upstreamLost.ports = s.ports ∧ s.upstreamLost.dies = s.dies ∧ s.upstreamLost.hub.dict = s.hub.dict
      ∧ s.upstreamLost.draws = s.draws ∧ s.upstreamLost.now = s.now := by
  obtain e | e := s.upstreamLost_cases
  · rw [e]
    exact s.chooseUpstream_kept
  · rw [e]
    exact ⟨rfl, rfl, rfl, rfl, rfl⟩

/-- A search that keeps what it has found or takes the next element ends with an element, or with what it had. -/
theorem foldl_takes {f : Option α → α → Option α} (hf : ∀ b x, f b x = b ∨ f b x = some x) (l : List α) (b : Option α) :
    l.foldl f b = b ∨ ∃ x ∈ l, l.foldl f b = some x := by
  induction l generalizing b with
  | nil => exact .inl rfl
  | cons x l ih =>
    rw [List.foldl_cons]
    obtain e | ⟨y, hy, e⟩ := ih (f b x)
    · obtain k | k := hf b x
      · exact .inl (e.trans k)
      · exact .inr ⟨x, List.mem_cons_self, e.trans k⟩
    · exact .inr ⟨y, List.mem_cons_of_mem x hy, e⟩

theorem foldl_found {f : Option α → α → Option α} {l : List α} {y : α} (h : l.foldl f none = some y)
    (hf : ∀ b x, f b x = b ∨ f b x = some x) : y ∈ l := by
  obtain e | ⟨x, hx, e⟩ := foldl_takes hf l none
  · exact nomatch h.symm.trans e
  · exact Option.some.inj (h.symm.trans e) ▸ hx

/-- The neighbour that is chosen is one that is heard. -/
theorem State.bestUpstream_heard {s : State} {p : PortIx} (h : s.bestUpstream = some p) : p ∈ s.heard := by
  unfold State.bestUpstream at h
  refine (List.mem_filter.mp (foldl_found h fun b x => ?_)).1
  cases b with
  | none => exact .inr rfl
  | some q =>
    dsimp only
    split
    · exact .inr rfl
    · exact .inl rfl

theorem State.heard_talks {s : State} {p : PortIx} (h : p ∈ s.heard) : s.ports[p].talks = true ∧ s.ports[p].nb ≠ .none_ := by
  have heard := (List.mem_filter.mp h).2
  simp only [Bool.and_eq_true, decide_eq_true_eq] at heard
  exact ⟨heard.1.1, heard.1.2⟩

/-- A module that is no root chooses none but a neighbour that is heard, and none where there is none. -/
theorem State.chooseUpstream_notRoot {s : State} (root : s.hub.time.root = false) :
    (s.chooseUpstream.hub.time.upstream = 0xFF ∧ s.chooseUpstream.hub.time.hops = 0xFF)
      ∨ ∃ p ∈ s.heard, s.chooseUpstream.hub.time.upstream.toNat = p.val := by
  have free : s.isRoot = false := by simp only [State.isRoot, root, Bool.false_and]
  unfold State.chooseUpstream
  rw [if_neg (by simp only [free, Bool.false_eq_true, not_false_eq_true])]
  split
  · exact .inl ⟨rfl, rfl⟩
  next p hp =>
    refine .inr ⟨p, State.bestUpstream_heard hp, ?_⟩
    dsimp only
    split
    next same => exact same
    next =>
      have aligned : ∀ (h : Hub) (st : BitVec 8), (h.setAlign st).time.upstream = h.time.upstream := fun h st => by
        obtain ⟨a, q, e⟩ := h.setAlign_eq st
        exact e ▸ rfl
      refine (congrArg BitVec.toNat (aligned _ 1)).trans ?_
      exact (BitVec.toNat_ofNat ..).trans (Nat.mod_eq_of_lt (Nat.lt_trans p.isLt (by decide)))

/-! ### The whole of a port's going down -/

/-- The record of a port that has left the trained states sets `lnk_lost` where it is Down. -/
theorem State.portRecord_facts (s : State) (p : PortIx) (new : LinkState) (det : Bytes) :
    let t := if new = .down then s.portFault p lnkLost det else s.modHub (·.event 4 0x0C (BitVec.ofNat 16 p.val) 343 0xFF det)
    (∃ n, t.ports[p] = { s.ports[p] with
        fault := if new = .down then setBit s.ports[p].fault 0 else s.ports[p].fault, setNow := n })
      ∧ t.hub.dict = s.hub.dict ∧ t.hub.time = s.hub.time := by
  intro t
  by_cases h : new = .down
  · rw [show t = s.portFault p lnkLost det from if_pos h, if_pos h]
    exact ⟨⟨_, s.portFault_port ..⟩, rfl, rfl⟩
  · rw [show t = s.modHub (·.event 4 0x0C (BitVec.ofNat 16 p.val) 343 0xFF det) from if_neg h, if_neg h]
    exact ⟨⟨_, rfl⟩, rfl, rfl⟩

/-- What a port is after it has left the trained states. -/
theorem State.portDown_port (s : State) (p : PortIx) (new : LinkState) (cause : Nat) :
    ∃ old n, (s.portDown p new cause).ports[p] = { s.ports[p] with
      link := droppedLink s.now new, nb := .none_, oldId := old, annAt := none, ex := none, rising := none
      fault := if new = .down then setBit s.ports[p].fault 0 else s.ports[p].fault, setNow := n } := by
  unfold State.portDown
  extract_lets x cause s₁ s₂ s₃ det s₄
  have h₁ : s₁.ports[p] = { s.ports[p] with link := droppedLink s.now new } := s.dropLink_port p new
  have h₂ : s₂.ports[p] = { s₁.ports[p] with
      nb := .none_, oldId := if x.nb = .none_ then s₁.ports[p].oldId else annId x.lastAnn, annAt := none, ex := none, rising := none } :=
    s₁.modPort_same p _
  have h₃ : s₃.ports = s₂.ports := s₂.upstreamLost_kept.1
  obtain ⟨⟨n, h₄⟩, -, -⟩ := s₃.portRecord_facts p new det
  have h₅ : (s₄.raiseTopo.report p cause).ports = s₄.ports := State.report_ports ..
  refine ⟨if x.nb = .none_ then s₁.ports[p].oldId else annId x.lastAnn, n, ?_⟩
  have e₃ : s₃.ports[p] = s₂.ports[p] := congrArg (fun v : Vector Port 24 => v[p]) h₃
  refine (congrArg (fun v : Vector Port 24 => v[p]) h₅).trans (h₄.trans ?_)
  rw [e₃, h₂, h₁]

/-- It raises the topology generation. -/
theorem State.portDown_topoGen (s : State) (p : PortIx) (new : LinkState) (cause : Nat) :
    (s.portDown p new cause).hub.dict.topoGen = s.hub.dict.topoGen + 1 := by
  unfold State.portDown
  extract_lets x cause s₁ s₂ s₃ det s₄
  have h₁ : s₁.hub.dict.topoGen = s.hub.dict.topoGen := congrArg (·.dict.topoGen) (steady_dropLink s (.port p) new)
  have h₃ : s₃.hub.dict = s₂.hub.dict := s₂.upstreamLost_kept.2.2.1
  have h₄ : s₄.hub.dict = s₃.hub.dict := (s₃.portRecord_facts p new det).2.1
  have h₅ : (s₄.raiseTopo.report p cause).hub.dict.topoGen = s₄.hub.dict.topoGen + 1 :=
    congrArg (·.dict.topoGen) (steady_report s₄.raiseTopo p cause)
  rw [h₅, h₄, h₃]
  exact congrArg (· + 1) h₁

/-- Where it was the way to the root, the module chooses another one that is heard, or has none. -/
theorem State.portDown_upstream {s : State} {p : PortIx} (run : s.hub.fw.running = true) (root : s.hub.time.root = false)
    (up : s.hub.time.upstream.toNat = p.val) (cause : Nat) :
    let time := (s.portDown p .down cause).hub.time
    (time.upstream = 0xFF ∧ time.hops = 0xFF) ∨ ∃ q, q ≠ p ∧ s.ports[q].nb ≠ .none_ ∧ time.upstream.toNat = q.val := by
  unfold State.portDown
  extract_lets x cause s₁ s₂ s₃ det s₄ time
  have steady : s₂.hub.steady = s.hub.steady := steady_dropLink s (.port p) .down
  have time₂ : s₂.hub.time = s.hub.time := congrArg (·.time) steady
  have port : s₂.ports[p].link.st = .down ∧ s₂.ports[p].nb = .none_ := by
    have same := s₁.modPort_same p fun y => { y with
      nb := .none_, oldId := if x.nb = .none_ then y.oldId else annId x.lastAnn, annAt := none, ex := none, rising := none }
    exact ⟨(congrArg (·.link.st) same).trans (s.dropLink_st p .down), congrArg Port.nb same⟩
  have others : ∀ q, q ≠ p → s₂.ports[q].nb = s.ports[q].nb := fun q hq =>
    ((linkWork_dropLink s (.port p) .down).trans (linkWork_modPort s₁ p _)).portNb hq
  have lost : s₃ = s₂.chooseUpstream := by
    have running : s₂.hub.fw.running = true := (congrArg (·.fw.running) steady).trans run
    have gone : allPorts.any (fun q => q.val = s₂.hub.time.upstream.toNat && s₂.ports[q].link.st.away) = true := by
      refine List.any_eq_true.mpr ⟨p, List.mem_finRange p, ?_⟩
      simp only [time₂, up, decide_true, port.1, LinkState.away, Bool.and_self]
    exact if_pos (by simp only [running, gone, Bool.true_or, Bool.and_self])
  have same : time = s₃.hub.time :=
    (congrArg (·.time) (steady_report s₄.raiseTopo p cause)).trans (s₃.portRecord_facts p .down det).2.2
  rw [same, lost]
  obtain none | ⟨q, heard, e⟩ := State.chooseUpstream_notRoot ((congrArg HubTime.root time₂).trans root)
  · exact .inl none
  · have named := (State.heard_talks heard).2
    have other : q ≠ p := fun e => named (e ▸ port.2)
    exact .inr ⟨q, other, others q other ▸ named, e⟩

end
end Sys2Proof.Machine

/-! # Link ends replay and fail (O39) -/

namespace Sys2Proof.Machine

section
variable {s : State} {e : LinkEnd} {p : PortIx}

/-- A trained end that goes Down begins anew; a port has then lost its neighbour, and says so. -/
theorem State.linkDown_facts (h : (s.link e).trained = true) (cause : Nat) :
    (s.linkDown e .down cause).link e = droppedLink s.now .down
      ∧ ∀ p, e = .port p → (s.linkDown e .down cause).ports[p].nb = .none_
          ∧ (s.linkDown e .down cause).ports[p].fault = setBit s.ports[p].fault 0
          ∧ (s.linkDown e .down cause).hub.dict.topoGen = s.hub.dict.topoGen + 1 := by
  unfold State.linkDown
  rw [if_pos h]
  cases e with
  | port p =>
    obtain ⟨old, n, port⟩ := s.portDown_port p .down cause
    refine ⟨congrArg Port.link port, ?_⟩
    rintro _ ⟨⟩
    exact ⟨congrArg Port.nb port, congrArg Port.fault port, s.portDown_topoGen p .down cause⟩
  | pkg n a => exact ⟨s.dropLink_link _ _, fun _ e => nomatch e⟩

/-- A fault of a port before it goes Down stays in its fault word. -/
theorem State.faultThenDown (h : s.ports[p].link.trained = true) (b : FBit) (hb : b.bit < 64) (det : Option Bytes) (cause : Nat) :
    let t := (s.portFault p b det).linkDown (.port p) .down cause
    t.link (.port p) = droppedLink s.now .down ∧ t.ports[p].nb = .none_ ∧ bit t.ports[p].fault 0 = true
      ∧ bit t.ports[p].fault b.bit = true ∧ t.hub.dict.topoGen = s.hub.dict.topoGen + 1 := by
  intro t
  have link : (s.portFault p b det).link (.port p) = s.ports[p].link := s.portFault_link ..
  have fault : (s.portFault p b det).ports[p].fault = setBit s.ports[p].fault b.bit := congrArg Port.fault (s.portFault_port ..)
  obtain ⟨gone, said⟩ := State.linkDown_facts (s := s.portFault p b det) (e := .port p) (link ▸ h) cause
  obtain ⟨nb, word, topo⟩ := said p rfl
  refine ⟨gone, nb, ?_, ?_, topo⟩
  · rw [word]
    exact bit_setBit_same _ (by decide)
  · rw [word, fault]
    exact bit_setBit_of_bit _ (bit_setBit_same _ hb)

/-- The part of a replay that is allowed: it is counted, and the flits go out again. -/
theorem State.replay_port (h : s.ports[p].link.stuck < 16) (fseq : BitVec 12) :
    (s.replay (.port p) fseq).dies = s.dies ∧ (s.replay (.port p) fseq).hub = s.hub
      ∧ ∃ ex, (s.replay (.port p) fseq).ports[p]
          = { s.ports[p] with rplCnt := satAdd s.ports[p].rplCnt 1, link := s.ports[p].link.replayFrom s.now fseq, ex := ex } := by
  have counted : ((s.countReplay (.port p)).modLink (.port p) (·.replayFrom s.now fseq)).ports[p]
      = { s.ports[p] with rplCnt := satAdd s.ports[p].rplCnt 1, link := s.ports[p].link.replayFrom s.now fseq } :=
    (State.modPort_same _ p _).trans
      (congrArg (fun x : Port => { x with link := x.link.replayFrom s.now fseq }) (s.modPort_same p _))
  unfold State.replay
  rw [if_neg (show ¬ 16 ≤ (s.link (.port p)).stuck from Nat.not_le.mpr h)]
  dsimp only
  split
  · refine ⟨rfl, rfl, s.ports[p].ex.map fun y : Exchange => { y with bad := true }, (State.modPort_same _ p _).trans ?_⟩
    exact congrArg (fun x : Port => { x with ex := x.ex.map fun y : Exchange => { y with bad := true } }) counted
  · exact ⟨rfl, rfl, _, counted⟩

/-- A replay that is still allowed sends the rest of the replay buffer again. -/
theorem State.replay_again (h : (s.link e).stuck < 16) (fseq : BitVec 12) :
    let t := s.replay e fseq
    t.hub = s.hub ∧ (t.link e).resend = (s.link e).replay.dropWhile (fun f => f.fseq ≠ fseq) ∧ (t.link e).replay = (s.link e).replay
      ∧ (t.link e).stuck = (s.link e).stuck + 1
      ∧ (∀ m : DieIx, t.dies[m].router = s.dies[m].router ∧ t.dies[m].cores = s.dies[m].cores)
      ∧ ∀ p, e = .port p → t.ports[p].rplCnt = satAdd s.ports[p].rplCnt 1 := by
  intro t
  cases e with
  | port p =>
    obtain ⟨dies, hub, ex, port⟩ := State.replay_port (p := p) h fseq
    have link : t.link (.port p) = s.ports[p].link.replayFrom s.now fseq := congrArg Port.link port
    refine ⟨hub, congrArg (·.resend) link, congrArg (·.replay) link, congrArg (·.stuck) link, fun m => ?_, ?_⟩
    · rw [show t.dies = s.dies from dies]
      exact ⟨rfl, rfl⟩
    · rintro _ ⟨⟩
      exact congrArg Port.rplCnt port
  | pkg n a =>
    have done : t = s.modLink (.pkg n a) (·.replayFrom s.now fseq) := if_neg (Nat.not_le.mpr h)
    have link : t.link (.pkg n a) = (s.link (.pkg n a)).replayFrom s.now fseq := done ▸ s.link_modLink_same _ _
    refine ⟨done ▸ s.modLink_hub _ _, congrArg (·.resend) link, congrArg (·.replay) link, congrArg (·.stuck) link, fun m => ?_,
      fun _ e => nomatch e⟩
    obtain ⟨pkg, die⟩ := s.modLink_die (.pkg n a) (·.replayFrom s.now fseq) m
    rw [done, die]
    exact ⟨rfl, rfl⟩

/-- A call for one more replay after sixteen takes the end Down. -/
theorem State.replay_fails (trained : (s.link e).trained = true) (h : 16 ≤ (s.link e).stuck) (fseq : BitVec 12) :
    let t := s.replay e fseq
    t.link e = droppedLink s.now .down
      ∧ ∀ p, e = .port p → t.ports[p].nb = .none_ ∧ bit t.ports[p].fault 0 = true ∧ (∀ x, some 4 = some x → bit t.ports[p].fault x = true)
          ∧ t.hub.dict.topoGen = s.hub.dict.topoGen + 1 := by
  intro t
  cases e with
  | port p =>
    have down : t = (s.portFault p rplLim).linkDown (.port p) .down 3 := if_pos h
    obtain ⟨gone, nb, lost, limit, topo⟩ := State.faultThenDown (p := p) trained rplLim (by decide) none 3
    rw [down]
    refine ⟨gone, ?_⟩
    rintro _ ⟨⟩
    exact ⟨nb, lost, fun x e => Option.some.inj e ▸ limit, topo⟩
  | pkg n a =>
    have down : t = s.linkDown (.pkg n a) .down 3 := if_pos h
    rw [down]
    exact ⟨(State.linkDown_facts trained 3).1, fun _ e => nomatch e⟩

theorem dropWhile_head {l : List Flit} {f : Flit} {r : List Flit} (h : l = f :: r) : l.dropWhile (fun x => x.fseq ≠ f.fseq) = l := by
  subst h
  exact List.dropWhile_cons_of_neg (by simp)

end

/-! ### The statement -/

/-- Settles O39: replays by `replay_again` and `replay_fails`, an end that goes Down by `linkDown_facts` and `faultThenDown`, and the
upstream neighbour by `portDown_upstream`. -/
theorem linkEndsReplayAndFail : Obligations.LinkEndsReplayAndFail := by
  unfold Obligations.LinkEndsReplayAndFail
  intro s e fseq quiet l down replays
  refine ⟨fun trained held => ?_, fun trained waits late => ?_, fun trained => ?_, ?_, fun idle => ?_⟩
  · have asked : s.retryRequest e fseq = s.replay e fseq := by
      obtain ⟨f, hf, same⟩ := held
      refine if_pos ?_
      rw [Bool.and_eq_true]
      exact ⟨trained, List.any_eq_true.mpr ⟨f, hf, decide_eq_true same⟩⟩
    exact ⟨_, rfl, fun some => asked ▸ State.replay_again some fseq, fun spent => asked ▸ State.replay_fails trained spent fseq⟩
  · obtain ⟨f, r, hl⟩ := List.exists_cons_of_ne_nil waits
    have again : s.replayTimeout e = s.replay e f.fseq := by
      unfold State.replayTimeout
      rw [hl]
      refine if_pos ?_
      rw [Bool.and_eq_true]
      exact ⟨trained, decide_eq_true late⟩
    refine ⟨_, rfl, fun some => ?_, fun spent => again ▸ State.replay_fails trained spent f.fseq⟩
    have sent := State.replay_again some f.fseq
    rw [dropWhile_head hl] at sent
    exact again ▸ sent
  · obtain ⟨gone, said⟩ := State.linkDown_facts trained (if quiet then 2 else 1)
    refine ⟨_, rfl, ⟨gone, fun p hp => ?_⟩, ?_⟩
    · obtain ⟨nb, word, topo⟩ := said p hp
      exact ⟨nb, word ▸ bit_setBit_same _ (by decide), (fun _ e => nomatch e), topo⟩
    · rintro p rfl run root up
      have whole : s.linkDown (.port p) .down (if quiet then 2 else 1) = s.portDown p .down (if quiet then 2 else 1) := if_pos trained
      rw [whole]
      obtain ⟨none, hops⟩ | ⟨q, other, named, e⟩ := State.portDown_upstream run root up (if quiet then 2 else 1)
      · exact ⟨by rw [none]; exact (Nat.lt_trans p.isLt (by decide)).ne', fun _ => ⟨none, hops⟩⟩
      · exact ⟨fun same => other (Fin.ext (e.symm.trans same)), fun alone => absurd (alone q other) named⟩
  · rintro p rfl trained enc worn
    have expired : s.keyExpiry p = (s.portFault p keyExp).linkDown (.port p) .down 4 := by
      refine if_pos ?_
      simp only [Bool.and_eq_true, decide_eq_true_eq]
      exact ⟨⟨enc, trained⟩, worn⟩
    obtain ⟨gone, nb, lost, worn, topo⟩ := State.faultThenDown (p := p) trained keyExp (by decide) none 4
    refine ⟨_, rfl, ?_⟩
    rw [expired]
    refine ⟨gone, ?_⟩
    rintro _ ⟨⟩
    exact ⟨nb, lost, fun x e => Option.some.inj e ▸ worn, topo⟩
  · have still : ¬ l.trained = true := by rw [idle]; exact Bool.false_ne_true
    refine ⟨congrArg Host.Outcome.next (if_neg still), congrArg Host.Outcome.next (if_neg ?_), congrArg Host.Outcome.next ?_⟩
    · rw [show (s.link e).trained = false from idle, Bool.false_and]
      exact Bool.false_ne_true
    · unfold State.replayTimeout
      split
      · rw [show (s.link e).trained = false from idle, Bool.false_and]
        exact if_neg Bool.false_ne_true
      · rfl

end Sys2Proof.Machine

/-! # Neighbours are heard (O41) -/

namespace Sys2Proof.Machine

section
variable {s : State} {p : PortIx}

/-! ### Announcements that are sent (R344) -/

/-- A field that stands after others. -/
theorem leAt_after (a b : Bytes) (off n : Nat) (h : a.length ≤ off) : leAt (a ++ b) off n = leAt b (off - a.length) n := by
  rw [leAt, leAt, slice, slice, List.drop_append, List.drop_eq_nil_of_le h, List.nil_append]

theorem leAt_field {n x : Nat} (b : Bytes) (hx : x < 256 ^ n) : leAt (leBytes n x ++ b) 0 n = x := by
  rw [leAt, slice, List.drop_zero, List.take_left' (leBytes_length n x), leBytes_length, Nat.sub_self]
  exact (congrArg leNat (List.append_nil _)).trans (leNat_leBytes n x hx)

/-- The fields of an announcement that the rules name. -/
theorem State.annBody_fields (s : State) (p : PortIx) :
    let b := s.annBody p s.hub.power.state
    leAt b 0 4 = s.ports[p].annCnt.toNat ∧ leAt b 20 4 = s.hub.dict.base.toNat ∧ leAt b 24 4 = s.hub.dict.size.toNat
      ∧ leAt b 28 1 = p.val ∧ leAt b 29 1 = s.hub.power.state.toNat ∧ leAt b 30 1 = s.hub.time.hops.toNat := by
  have word (w : BitVec 32) : w.toNat < 256 ^ 4 := w.isLt
  have byte (w : BitVec 8) : w.toNat < 256 ^ 1 := w.isLt
  have port : p.val < 256 ^ 1 := Nat.lt_trans p.isLt (by decide)
  unfold State.annBody
  dsimp only
  rw [slice, List.drop_zero, List.take_of_length_le (by simp)]
  simp (disch := simp) only [List.append_assoc, leAt_after, leBytes_length, slice_length, Nat.reduceSub]
  exact ⟨leAt_field _ (word _), leAt_field _ (word _), leAt_field _ (word _), leAt_field _ port, leAt_field _ (byte _), leAt_field _ (byte _)⟩

/-- A port counts the announcement that it sends. -/
def Port.counted (x : Port) (now : Nat) : Port := { x with annCnt := x.annCnt + 1, annSentAt := now }

/-- The port as an announcement leaves it. -/
def Port.announced (x : Port) (now : Nat) (b : Bytes) : Port :=
  { x with annCnt := x.annCnt + 1, annSentAt := now, link := { x.link with outq := x.link.outq ++ [mgmtFlit 6 0 b] } }

theorem State.announce_eq (s : State) (p : PortIx) :
    s.announce p
      = s.modPort p (fun x => x.announced s.now ((s.modPort p (·.counted s.now)).annBody p s.hub.power.state)) :=
  s.modPort_modPort p (·.counted s.now) _

/-- What an announcement that is sent says. -/
theorem State.announce_says (s : State) (p : PortIx) :
    let b := (s.modPort p (·.counted s.now)).annBody p s.hub.power.state
    leAt b 0 4 = (s.ports[p].annCnt + 1).toNat ∧ leAt b 20 4 = s.hub.dict.base.toNat ∧ leAt b 24 4 = s.hub.dict.size.toNat
      ∧ leAt b 28 1 = p.val ∧ leAt b 29 1 = s.hub.power.state.toNat ∧ leAt b 30 1 = s.hub.time.hops.toNat := by
  have counted : (s.modPort p (·.counted s.now)).ports[p].annCnt = s.ports[p].annCnt + 1 :=
    congrArg Port.annCnt (s.modPort_same p (·.counted s.now))
  have fields := (s.modPort p (·.counted s.now)).annBody_fields p
  rw [counted] at fields
  exact fields

/-! ### Announcements that are received (R345, R346) -/

theorem Die.eventOnce_cores (d : Die) (sev : Nat) (unitk : BitVec 8) (unit : BitVec 16) (rule : Nat) (bit : BitVec 8) (det : Bytes) :
    (d.eventOnce sev unitk unit rule bit det).cores = d.cores := by
  have only := d.eventOnce_only sev unitk unit rule bit det
  have cores := congrArg Die.cores only
  exact cores

/-- A fault of a port leaves the cores of the dies. -/
theorem State.portFault_cores (s : State) (p : PortIx) (b : FBit) (det : Option Bytes) (m : DieIx) :
    (s.portFault p b det).dies[m].cores = s.dies[m].cores := by
  unfold State.portFault
  exact State.modDie_field (s.modPort p _) (portDie p) Die.cores (fun d => d.eventOnce_cores ..) m

/-- What an announcement is judged by beside its own words. -/
theorem State.nbAfter_congr {t : State} (p : PortIx) (a : Bytes) (hub : t.hub = s.hub) (peer : t.ports[p].peerId = s.ports[p].peerId) :
    t.nbAfter p a = s.nbAfter p a := by
  have verified : t.verified p a = s.verified p a := by simp only [State.verified, hub, peer]
  have used : t.portUsed p = s.portUsed p := by
    simp only [State.portUsed, State.hostEnd_congr (congrArg (·.dict.hostPort) hub), hub]
  simp only [State.nbAfter, verified, used, hub]

/-- What an announcement leaves of the dies, the other ports and the counts, and what it writes to its port. -/
theorem State.announcementIn_facts (h : s.ports[p].talks = true) (body : Bytes) :
    let a := slice body 0 224
    let new := s.nbAfter p a
    let t := s.announcementIn p body
    (∃ old fin n, t.ports[p] = { s.ports[p] with
        lastAnn := a, annAt := some s.now, finalAt := fin, oldId := old, nb := new
        fault := if new = .seen then setBit s.ports[p].fault 3 else s.ports[p].fault, setNow := n })
      ∧ (∀ q, q ≠ p → t.ports[q] = s.ports[q]) ∧ (new ≠ .seen → t.dies = s.dies)
      ∧ (∀ m : DieIx, t.dies[m].cores = s.dies[m].cores)
      ∧ t.hub.dict.topoGen = (if new = s.ports[p].nb then s.hub.dict.topoGen else s.hub.dict.topoGen + 1) := by
  intro a new t
  have e : t = s.announcementIn p body := rfl
  clear_value t
  unfold State.announcementIn at e
  extract_lets x s₁ nb s₂ s₃ s₄ s₅ at e
  rw [if_neg (show ¬(!x.talks) = true by rw [show x.talks = true from h]; exact Bool.false_ne_true)] at e
  have e₁ : s₁.ports[p] = { s.ports[p] with
      lastAnn := a, annAt := some s.now, finalAt := if leAt a 29 1 = 0 then some s.now else s.ports[p].finalAt } := s.modPort_same p _
  have judged : nb = new := State.nbAfter_congr p a rfl (congrArg (·.peerId) e₁)
  have others₁ : ∀ q, q ≠ p → s₁.ports[q] = s.ports[q] := fun q hq => s.modPort_other p q _ hq
  have hub₁ : s₁.hub = s.hub := rfl
  have dies₁ : s₁.dies = s.dies := rfl
  clear_value s₁ nb
  subst judged
  have f₂ : (∃ n, s₂.ports[p] = { s₁.ports[p] with
        fault := if new = .seen then setBit s₁.ports[p].fault 3 else s₁.ports[p].fault, setNow := n })
      ∧ s₂.hub = s₁.hub ∧ (∀ q, q ≠ p → s₂.ports[q] = s₁.ports[q]) ∧ (new ≠ .seen → s₂.dies = s₁.dies)
      ∧ ∀ m : DieIx, s₂.dies[m].cores = s₁.dies[m].cores := by
    dsimp only [s₂]
    split
    next seen =>
      exact ⟨⟨_, s₁.portFault_port p nbMis _⟩, rfl, fun q hq => s₁.portFault_ports_other p q nbMis _ hq, fun other => absurd seen other,
        s₁.portFault_cores p nbMis _⟩
    next => exact ⟨⟨_, rfl⟩, rfl, fun _ _ => rfl, fun _ => rfl, fun _ => rfl⟩
  obtain ⟨⟨n, e₂⟩, hub₂, others₂, dies₂, cores₂⟩ := f₂
  have f₃ : s₃.ports = s₂.ports ∧ s₃.dies = s₂.dies ∧ s₃.hub.dict = s₂.hub.dict := by
    dsimp only [s₃]
    split
    · exact ⟨rfl, rfl, rfl⟩
    · exact ⟨rfl, rfl, rfl⟩
  obtain ⟨ports₃, dies₃, dict₃⟩ := f₃
  have e₃ : s₃.ports[p] = s₂.ports[p] := congrArg (fun v : Vector Port 24 => v[p]) ports₃
  have e₄ : ∃ old, s₄.ports[p] = { s₃.ports[p] with oldId := old } := by
    dsimp only [s₄]
    split
    · exact ⟨annId a, s₃.modPort_same p _⟩
    · exact ⟨_, rfl⟩
  have others₄ : ∀ q, q ≠ p → s₄.ports[q] = s₃.ports[q] := fun q hq => by
    dsimp only [s₄]
    split
    · exact s₃.modPort_other p q _ hq
    · rfl
  have kept₄ : s₄.dies = s₃.dies ∧ s₄.hub.dict = s₃.hub.dict := by
    dsimp only [s₄]
    split
    · exact ⟨rfl, rfl⟩
    · exact ⟨rfl, rfl⟩
  obtain ⟨old, e₄⟩ := e₄
  obtain ⟨dies₄, dict₄⟩ := kept₄
  have e₅ : s₅.ports[p] = { s₄.ports[p] with nb := new } := s₄.modPort_same p _
  have others₅ : ∀ q, q ≠ p → s₅.ports[q] = s₄.ports[q] := fun q hq => s₄.modPort_other p q _ hq
  have dies₅ : s₅.dies = s₄.dies := rfl
  have dict₅ : s₅.hub.dict = s₄.hub.dict := rfl
  have dict : s₅.hub.dict = s.hub.dict :=
    dict₅.trans (dict₄.trans (dict₃.trans ((congrArg Hub.dict hub₂).trans (congrArg Hub.dict hub₁))))
  clear_value s₂ s₃ s₄ s₅
  obtain ⟨ports₆, dies₆, dict₆, -, -⟩ := (if new = x.nb then s₅ else s₅.raiseTopo).chooseUpstream_kept
  have ports : t.ports = s₅.ports := by
    rw [e, ports₆]
    split <;> rfl
  have dies : t.dies = s₂.dies := by
    rw [e, dies₆, ← dies₃, ← dies₄, ← dies₅]
    split <;> rfl
  refine ⟨⟨old, if leAt a 29 1 = 0 then some s.now else s.ports[p].finalAt, n, ?_⟩, fun q hq => ?_, fun other => ?_, fun m => ?_, ?_⟩
  · rw [ports, e₅, e₄, e₃, e₂, e₁]
  · rw [ports, others₅ q hq, others₄ q hq, ports₃, others₂ q hq, others₁ q hq]
  · rw [dies, dies₂ other, dies₁]
  · rw [dies, cores₂ m, dies₁]
  · rw [e, dict₆, show s.ports[p].nb = x.nb from rfl, ← dict]
    split <;> rfl

/-- The opening of a key agreement is kept with the port, and changes nothing else of it. -/
theorem State.sendHello_facts (s : State) (p : PortIx) :
    (∃ k h c, (s.sendHello p).ports[p] = { s.ports[p] with kemSeed := k, hello := h, capsule := c })
      ∧ (s.sendHello p).hub = s.hub ∧ (s.sendHello p).dies = s.dies ∧ ∀ q, q ≠ p → (s.sendHello p).ports[q] = s.ports[q] := by
  unfold State.sendHello
  dsimp only
  split
  · exact ⟨⟨_, _, _, rfl⟩, rfl, rfl, fun _ _ => rfl⟩
  · exact ⟨⟨_, _, _, s.drew.modPort_same p _⟩, rfl, rfl, fun q hq => s.drew.modPort_other p q _ hq⟩

/-- What a port that trains anew has lost, and how its training begins. -/
theorem State.retrain_facts (h : s.hub.sec.puffed = false) (named : s.ports[p].nb ≠ .none_) (limit : Nat) :
    let t := s.retrain p limit
    t.ports[p].nb = .none_ ∧ t.ports[p].annAt = none
      ∧ t.ports[p].link = { Link.init with st := .training, retryAt := s.now + limit, trainAt := s.now }
      ∧ t.hub.dict.topoGen = s.hub.dict.topoGen + 1 ∧ ∀ m : DieIx, DieKept s.dies[m] t.dies[m] := by
  intro t
  have e : t = s.retrain p limit := rfl
  clear_value t
  unfold State.retrain at e
  rw [if_neg (by rw [h]; exact Bool.false_ne_true)] at e
  extract_lets had s₁ s₂ at e
  rw [if_neg named] at e
  have steady : s₁.hub.steady = s.hub.steady := steady_dropLink s (.port p) .training
  have now : s₁.now = s.now := State.now_of_steady steady
  have e₁ : s₁.ports[p].link = droppedLink s.now .training := s.dropLink_link (.port p) .training
  have nb₂ : s₂.ports[p].nb = .none_ := congrArg Port.nb (s₁.modPort_same p _)
  have ann₂ : s₂.ports[p].annAt = none := congrArg Port.annAt (s₁.modPort_same p _)
  have link₂ : s₂.ports[p].link = { s₁.ports[p].link with retryAt := s₁.now + limit, trainAt := s₁.now } :=
    congrArg Port.link (s₁.modPort_same p _)
  have topo₂ : s₂.hub.dict.topoGen = s.hub.dict.topoGen := congrArg (·.dict.topoGen) steady
  have dies₂ : ∀ m : DieIx, DieKept s.dies[m] s₂.dies[m] :=
    ((linkWork_dropLink s (.port p) .training).trans (linkWork_modPort s₁ p _)).dies
  clear_value s₂
  obtain ⟨⟨k, hello, c, e₃⟩, hub₃, dies₃, -⟩ := s₂.raiseTopo.sendHello_facts p
  refine ⟨?_, ?_, ?_, ?_, fun m => ?_⟩
  · rw [e, e₃]
    exact nb₂
  · rw [e, e₃]
    exact ann₂
  · rw [e, e₃]
    refine link₂.trans ?_
    rw [e₁, now]
    rfl
  · rw [e, hub₃]
    exact congrArg (· + 1) topo₂
  · rw [e, dies₃]
    exact dies₂ m

/-! ### Reports (R343, R349) -/

/-- The newest report stands last in the log of 256. -/
theorem Hub.addReport_log (h : Hub) (r : Bytes) :
    (h.addReport r).dict.groupLog.getLast? = some r ∧ (h.addReport r).dict.groupLog.length ≤ 256 := by
  have length : (h.dict.groupLog ++ [r]).length = h.dict.groupLog.length + 1 := List.length_append
  simp only [Hub.addReport]
  constructor
  · rw [List.getLast?_drop, if_neg (by omega)]
    exact List.getLast?_concat
  · rw [List.length_drop]
    omega

/-- A neighbour that is not heard for 300 ms is lost; the rest is what its port makes of that. -/
theorem State.neighbourLost_facts {at_ : Nat} (talks : s.ports[p].talks = true) (named : s.ports[p].nb ≠ .none_)
    (heard : s.ports[p].annAt = some at_) (late : at_ + 75000000 ≤ s.now) :
    let r := s.retrain p trainCounts
    let t := s.neighbourLost p
    (∃ n, t.ports[p] = { r.ports[p] with fault := setBit r.ports[p].fault 5, setNow := n })
      ∧ t.hub.dict.topoGen = r.hub.dict.topoGen ∧ ∀ m : DieIx, DieKept r.dies[m] t.dies[m] := by
  intro r t
  have e : t = s.neighbourLost p := rfl
  clear_value t
  unfold State.neighbourLost at e
  dsimp only at e
  rw [heard] at e
  dsimp only at e
  rw [if_pos (by simpa only [Bool.and_eq_true, decide_eq_true_eq] using ⟨⟨talks, named⟩, late⟩)] at e
  generalize portDet p s.ports[p].link.st.code (s.retrain p trainCounts).ports[p].link.st.code 7 0 = det at e
  let noted := (r.portFault p nbLost det).modHub (·.event 4 0x0C (BitVec.ofNat 16 p.val) 343 0xFF det)
  have e' : t = (noted.report p 7).chooseUpstream := e
  obtain ⟨ports, dies, dict, -, -⟩ := (noted.report p 7).chooseUpstream_kept
  refine ⟨⟨setBit r.ports[p].setNow 5, ?_⟩, ?_, fun m => ?_⟩
  · rw [e', ports, State.report_ports]
    exact r.portFault_port p nbLost (some det)
  · rw [e', dict]
    exact congrArg (·.dict.topoGen) (steady_report noted p 7)
  · rw [e', dies]
    exact ((linkWork_portFault r p nbLost (some det)).dies m).trans ((linkWork_report (own := fun _ => False) noted p 7).dies m)

end

/-! ### The statement -/

/-- Settles O41: announcements by `announce_eq` and `announcementIn_facts`, a lost neighbour by `retrain_facts` and `portDown_port`, and
reports by `addReport_log`. -/
theorem neighboursAreHeard : Obligations.NeighboursAreHeard := by
  unfold Obligations.NeighboursAreHeard
  intro s p body base gen port st nb cause x a new
  refine ⟨fun talks run due => ?_, fun talks => ?_, fun idle => ?_, fun at_ talks named heard late puffed => ?_,
    fun at_ talks named heard late sound => ?_, fun up bridge => ?_, fun alone => ?_⟩
  · have sends : s.announcementSend p = s.announce p := by
      refine if_pos ?_
      simp only [Bool.and_eq_true, Bool.or_eq_true, decide_eq_true_eq]
      exact ⟨⟨talks, run⟩, due⟩
    refine ⟨_, (s.modPort p (·.counted s.now)).annBody p s.hub.power.state, congrArg Host.Outcome.next (sends.trans (s.announce_eq p)),
      onlyPort_modPort s p _, s.modPort_same p _, s.announce_says p⟩
  · obtain ⟨⟨old, fin, n, e⟩, others, dies, cores, topo⟩ := State.announcementIn_facts talks body
    refine ⟨_, rfl, dies, cores, congrArg (·.nb) e, congrArg (·.lastAnn) e, congrArg (·.annAt) e, congrArg (·.link) e, others,
      fun seen => ?_, fun other => ?_, topo⟩
    · have fault := congrArg (·.fault) e
      exact (fault.trans (if_pos seen)) ▸ bit_setBit_same _ (by decide)
    · have fault := congrArg (·.fault) e
      exact fault.trans (if_neg other)
  · refine congrArg Host.Outcome.next (if_pos ?_)
    rw [show s.ports[p].talks = false from idle]
    rfl
  · obtain ⟨⟨n, e⟩, -, -⟩ := State.neighbourLost_facts talks named heard late
    have trained : (s.link (.port p)).trained = true := by
      have st : x.link.st = .up ∨ x.link.st = .lowRate := by
        simpa only [Port.talks, Bool.or_eq_true, decide_eq_true_eq] using talks
      obtain st | st := st <;> simp only [State.link, Link.trained, show s.ports[p].link.st = _ from st] <;> rfl
    have anew : s.retrain p trainCounts = s.linkDown (.port p) .down 6 := if_pos puffed
    obtain ⟨link, said⟩ := State.linkDown_facts trained 6
    rw [anew] at e
    exact ⟨_, rfl, (congrArg (·.nb) e).trans (said p rfl).1, (congrArg (·.link.st) e).trans (congrArg Link.st link)⟩
  · obtain ⟨⟨n, e⟩, topo, dies⟩ := State.neighbourLost_facts talks named heard late
    obtain ⟨nb', ann, link, topo', dies'⟩ := State.retrain_facts sound named trainCounts
    refine ⟨_, rfl, (congrArg (·.nb) e).trans nb', (congrArg (·.annAt) e).trans ann, (congrArg (·.link) e).trans link, ?_,
      topo.trans topo', fun m c => ?_⟩
    · have fault := congrArg (·.fault) e
      exact fault ▸ bit_setBit_same _ (by decide)
    · exact ((dies' m).trans (dies m)).2.2.2 c
  · have reported : s.reportArrival base port st nb cause gen
        = s.modHub (·.addReport (reportBytes base port.toNat st.toNat nb.toNat cause.toNat gen)) := by
      refine if_pos ?_
      rw [State.hostEnd, dif_pos bridge]
      rfl
    obtain ⟨last, length⟩ := s.hub.addReport_log (reportBytes base port.toNat st.toNat nb.toNat cause.toNat gen)
    obtain ⟨log, kept⟩ := s.hub.addReport_eq (reportBytes base port.toNat st.toNat nb.toNat cause.toNat gen)
    rw [kept] at last length
    refine ⟨_, act_runs _ up, ?_⟩
    rw [reported, State.modHub, kept]
    exact ⟨rfl, rfl, last, length⟩
  · have still : s.reportArrival base port st nb cause gen = s := by
      refine if_neg ?_
      rw [State.hostEnd, dif_neg (Nat.not_lt.mpr alone)]
      exact Bool.false_ne_true
    show act s (s.reportArrival base port st nb cause gen) = .next s
    rw [still, act, ite_self]

end Sys2Proof.Machine

/-! # Link ends train (O40) -/

namespace Sys2Proof.Machine

section
variable {s : State} {e : LinkEnd} {p : PortIx} {h : PeerHello}

theorem State.hostEnd_iff (s : State) (p : PortIx) : s.hostEnd = some p ↔ s.hub.dict.hostPort.toNat = p.val := by
  unfold State.hostEnd
  split
  next => exact Option.some_inj.trans Fin.ext_iff
  next far =>
    refine ⟨fun e => (nomatch e), fun e => absurd ?_ far⟩
    rw [e]
    exact p.isLt

/-! ### Attempts (R317) -/

/-- The link of an end whose attempt begins. -/
def Link.attempt (l : Link) (now : Nat) : Link := { l with st := .training, retryAt := now + trainCounts, trainAt := now }

/-- A port counts its attempts. -/
def Port.attempt (x : Port) (now : Nat) : Port := { x with link := x.link.attempt now, trnCnt := satAdd x.trnCnt 1 }

/-- An attempt of a port writes that port alone, and sends what its far end is to check. -/
theorem State.attempt_facts (s : State) (p : PortIx) :
    let t := (s.modPort p (·.attempt s.now)).sendHello p
    t.hub = s.hub ∧ OnlyPort p { s with draws := t.draws } t ∧ t.ports[p].link = s.ports[p].link.attempt s.now
      ∧ t.ports[p].trnCnt = satAdd s.ports[p].trnCnt 1
      ∧ (s.hub.dict.hostPort.toNat ≠ p.val →
          let ek := slice (Config.kemPublic t.ports[p].kemSeed) 0 1184
          t.ports[p].kemSeed = slice (Config.freshBytes s.hubKey 64) 0 64
          ∧ t.ports[p].hello = slice s.hub.sec.idKey 0 1312 ++ slice s.hub.sec.cert 0 3756 ++ ek ++ s.hub.sec.sign "YZB8 link" ek) := by
  intro t
  have e : t = (s.modPort p (·.attempt s.now)).sendHello p := rfl
  clear_value t
  have begun : (s.modPort p (·.attempt s.now)).ports[p] = s.ports[p].attempt s.now := s.modPort_same p _
  have others : ∀ q, q ≠ p → (s.modPort p (·.attempt s.now)).ports[q] = s.ports[q] := fun q hq => s.modPort_other p q _ hq
  unfold State.sendHello at e
  extract_lets seed ek hello at e
  by_cases host : s.hostEnd = some p
  · rw [if_pos (show (s.modPort p (·.attempt s.now)).hostEnd = some p from host)] at e
    subst e
    exact ⟨rfl, ⟨rfl, others⟩, congrArg Port.link begun, congrArg Port.trnCnt begun, fun far => absurd ((s.hostEnd_iff p).mp host) far⟩
  · rw [if_neg (show ¬(s.modPort p (·.attempt s.now)).hostEnd = some p from host)] at e
    have port : t.ports[p] = { s.ports[p].attempt s.now with kemSeed := seed, hello := hello, capsule := [] } := by
      rw [e, ← begun]
      exact State.modPort_same _ p _
    refine ⟨e ▸ rfl, ⟨e ▸ rfl, fun q hq => ?_⟩, congrArg Port.link port, congrArg Port.trnCnt port, fun _ => ⟨congrArg Port.kemSeed port, ?_⟩⟩
    · rw [e]
      exact (State.modPort_other _ p q _ hq).trans (others q hq)
    · rw [congrArg Port.kemSeed port]
      exact congrArg Port.hello port

/-! ### Attempts that fail -/

/-- The link of an end whose attempt has failed. -/
def Link.failedAt (l : Link) (now : Nat) : Link :=
  { l with st := .down, retryAt := max now (l.trainAt + retryCounts), failed := l.failed + 1 }

/-- A choice of the upstream neighbour is the hub die's alone. -/
theorem State.chooseUpstream_onlyHub (s : State) : { s.chooseUpstream with hub := s.hub } = s := by
  unfold State.chooseUpstream
  split
  · rfl
  · split
    · rfl
    · dsimp only
      split
      · rfl
      · rfl

theorem State.upstreamLost_onlyHub (s : State) : { s.upstreamLost with hub := s.hub } = s := by
  obtain e | e := s.upstreamLost_cases
  · rw [e]
    exact s.chooseUpstream_onlyHub
  · rw [e]

/-- An attempt that fails writes its end; whatever the choice of the upstream neighbour makes of that is the hub die's. -/
theorem State.trainingFails_facts (s : State) (e : LinkEnd) :
    { s.trainingFails e with hub := s.hub } = s.modLink e (fun _ => (s.link e).failedAt s.now)
      ∧ (s.trainingFails e).hub.dict = s.hub.dict := by
  have begun : s.modLink e (·.failedAt s.now) = s.modLink e (fun _ => (s.link e).failedAt s.now) := by cases e <;> rfl
  have hub := s.modLink_hub e (·.failedAt s.now)
  have only := (s.modLink e (·.failedAt s.now)).upstreamLost_onlyHub
  obtain ⟨-, -, dict, -, -⟩ := (s.modLink e (·.failedAt s.now)).upstreamLost_kept
  rw [hub] at only dict
  exact ⟨only.trans begun, dict⟩

/-- Of the ports, an attempt that fails writes the link of its own. -/
theorem State.trainingFails_port (s : State) (p : PortIx) :
    (s.trainingFails (.port p)).dies = s.dies ∧ (s.trainingFails (.port p)).ports[p] = { s.ports[p] with link := s.ports[p].link.failedAt s.now }
      ∧ ∀ q, q ≠ p → (s.trainingFails (.port p)).ports[q] = s.ports[q] := by
  obtain ⟨only, -⟩ := s.trainingFails_facts (.port p)
  have ports : (s.trainingFails (.port p)).ports = (s.modLink (.port p) fun _ => (s.link (.port p)).failedAt s.now).ports :=
    congrArg (·.ports) only
  refine ⟨congrArg (·.dies) only, ?_, fun q hq => ?_⟩
  · rw [ports]
    exact s.modPort_same p _
  · rw [ports]
    exact s.modPort_other p q _ hq

/-! ### Attempts that succeed (R328, R415) -/

/-- A port that comes up, with its link. -/
def Port.up (x : Port) (l : Link) : Port :=
  { x with link := l, nb := .none_, annCnt := 0, annAt := none, annSentAt := 0, ex := none, exAt := 0, tagFails := [], rising := none }

/-- A host-facing port agrees no keys. -/
theorem State.trainingComplete_host (st : s.ports[p].link.st = .training) (locked : h.lanesLocked = true) (sound : s.hub.sec.puffed = false)
    (host : s.hostEnd = some p) : s.trainingComplete (.port p) h = s.modPort p (·.up (freshLink (.port p) .host)) := by
  have state : s.trainedState p = .host := if_pos host
  simp only [State.trainingComplete, State.link, st, ne_eq, not_true_eq_false, locked, Bool.not_true, Bool.false_eq_true, sound, state,
    if_true, if_false]
  rfl

theorem State.port_up (l : Link) (f : Port → Port) : ((s.modPort p (·.up l)).modPort p f).ports[p] = f (s.ports[p].up l) :=
  (State.modPort_same _ p f).trans (congrArg f (s.modPort_same p (·.up l)))

theorem State.others_up {q : PortIx} (hq : q ≠ p) (l : Link) (f : Port → Port) :
    ((s.modPort p (·.up l)).modPort p f).ports[q] = s.ports[q] :=
  (State.modPort_other _ p q f hq).trans (s.modPort_other p q _ hq)

/-- A port whose far end passes its checks comes up under new keys; in Low-rate it asks the far end to move with it. -/
theorem State.trainingComplete_peer (st : s.ports[p].link.st = .training) (locked : h.lanesLocked = true) (sound : s.hub.sec.puffed = false)
    (host : s.hostEnd ≠ some p) (ok : s.peerOk p h = true) :
    let st := if s.ports[p].cmd = 2 || s.sleeps then LinkState.lowRate else .up
    let t := s.trainingComplete (.port p) h
    t.dies = s.dies ∧ (∀ q, q ≠ p → t.ports[q] = s.ports[q])
      ∧ ∃ tx rx c out, t.ports[p] = { s.ports[p].up { freshLink (.port p) st with enc := true, txKey := tx, rxKey := rx, outq := out } with
          peerId := Config.sha3 h.identKey, kemSeed := [], capsule := c } := by
  intro new t
  have state : s.trainedState p = new := if_neg host
  have notHost : new ≠ .host := by
    dsimp only [new]
    split <;> exact fun e => nomatch e
  have e : t = s.trainingComplete (.port p) h := rfl
  clear_value t new
  simp only [State.trainingComplete, State.link, st, ne_eq, not_true_eq_false, locked, Bool.not_true, Bool.false_eq_true, sound, state,
    notHost, ok, if_true, if_false] at e
  split at e
  · subst e
    refine ⟨rfl, fun q hq => (State.modPort_other _ p q _ hq).trans (State.others_up hq _ _), (s.linkKeys p h).1, (s.linkKeys p h).2,
      (s.encap h).2, [moveFlit true], ?_⟩
    refine (State.modPort_same _ p _).trans ?_
    exact congrArg (fun x : Port => { x with link := { x.link with outq := x.link.outq ++ [moveFlit true] } }) (State.port_up _ _)
  · subst e
    exact ⟨rfl, fun q hq => State.others_up hq _ _, (s.linkKeys p h).1, (s.linkKeys p h).2, (s.encap h).2, [], State.port_up _ _⟩

/-- A port whose far end fails a check goes Down, and says so. -/
theorem State.trainingComplete_mismatch (st : s.ports[p].link.st = .training) (locked : h.lanesLocked = true)
    (sound : s.hub.sec.puffed = false) (host : s.hostEnd ≠ some p) (ok : s.peerOk p h = false) :
    s.trainingComplete (.port p) h = (s.mismatch p .down .none_).trainingFails (.port p) := by
  have notHost : s.trainedState p ≠ .host := by
    rw [State.trainedState, if_neg host]
    split <;> exact fun e => nomatch e
  simp only [State.trainingComplete, State.link, st, ne_eq, not_true_eq_false, locked, Bool.not_true, Bool.false_eq_true, sound, notHost, ok,
    if_false]

/-! ### A new key (R329) -/

/-- Under a new key the flits count from 0, and the parity has changed. -/
theorem State.keyRenewal_peer (due : (s.ports[p].link.enc && s.ports[p].link.trained
      && (decide (2 ^ 31 ≤ s.ports[p].link.txCtr) || decide (2 ^ 31 ≤ s.ports[p].link.rxCtr))) = true) (ok : s.peerOk p h = true) :
    let t := s.keyRenewal p h
    OnlyPort p { s with draws := t.draws } t ∧ t.ports[p].keyCnt = s.ports[p].keyCnt + 1
      ∧ ∃ tx rx, t.ports[p].link
          = { s.ports[p].link with txKey := tx, txCtr := 0, kep := !s.ports[p].link.kep, nextRx := rx, prevRx := [] } := by
  intro t
  have e : t = s.keyRenewal p h := rfl
  clear_value t
  unfold State.keyRenewal at e
  extract_lets l at e
  rw [if_pos due, if_pos ok] at e
  dsimp only at e
  obtain ⟨⟨k, hello, c, port⟩, hub, dies, others⟩ := s.sendHello_facts p
  have whole : { (s.sendHello p) with ports := s.ports, draws := s.draws } = s := by
    unfold State.sendHello
    dsimp only
    split <;> rfl
  subst e
  refine ⟨⟨?_, fun q hq => (State.modPort_other _ p q _ hq).trans (others q hq)⟩, ?_, ?_⟩
  · exact congrArg (fun u : State => { u with draws := (s.sendHello p).draws + 1 }) whole
  · refine (congrArg Port.keyCnt (State.modPort_same _ p _)).trans ?_
    exact congrArg (·.keyCnt + 1) port
  · let keys := (s.sendHello p).linkKeys p h
    refine ⟨keys.1, keys.2, (congrArg Port.link (State.modPort_same _ p _)).trans ?_⟩
    exact congrArg (fun x : Port => { x.link with txKey := keys.1, txCtr := 0, kep := !x.link.kep, nextRx := keys.2, prevRx := [] }) port

end

/-! ### The statement -/

/-- Settles O40: an attempt by `attempt_facts`, its failure by `trainingFails_facts`, its success by `trainingComplete_host` and
`trainingComplete_peer`, and a new key by `keyRenewal_peer`. -/
theorem linkEndsTrain : Obligations.LinkEndsTrain := by
  unfold Obligations.LinkEndsTrain
  intro s e p h l x failed
  refine ⟨fun down due step free used sound => ?_, fun st lost => ?_, ?_, fun st locked puffed => ?_, fun st locked sound => ?_,
    fun enc trained worn => ?_⟩
  · have condition (b : Bool) (hb : b = true → s.hub.sec.puffed = false) : ((s.link e).st = .down && decide ((s.link e).retryAt ≤ s.now)
        && s.trains && !(b && s.hub.sec.puffed) && !s.endHeld e && s.endUsed e) = true := by
      have trains : s.trains = true := decide_eq_true step
      have sane : (b && s.hub.sec.puffed) = false := by
        cases b
        · rfl
        · exact hb rfl
      simp only [show (s.link e).st = .down from down, show (s.link e).retryAt ≤ s.now from due, trains, sane, free, used, decide_true, Bool.not_false, Bool.and_self]
    cases e with
    | port q =>
      have attempt : s.trainingRetry (.port q) = (s.modPort q (·.attempt s.now)).sendHello q := by
        refine (if_pos (condition true fun _ => sound q rfl)).trans ?_
        exact congrArg (·.sendHello q) (s.modPort_modPort q _ _)
      obtain ⟨hub, only, link, count, said⟩ := s.attempt_facts q
      refine ⟨_, congrArg Host.Outcome.next attempt, hub, link, ?_, fun _ _ e => nomatch e⟩
      rintro _ ⟨⟩
      exact ⟨only, count, said⟩
    | pkg n a =>
      have attempt : s.trainingRetry (.pkg n a) = s.modLink (.pkg n a) (·.attempt s.now) := if_pos (condition false fun e => nomatch e)
      refine ⟨_, congrArg Host.Outcome.next attempt, rfl, s.link_modLink_same _ _, fun _ e => (nomatch e), ?_⟩
      rintro _ _ ⟨⟩
      refine ⟨⟨rfl, fun m hm => s.modDie_other n m _ hm⟩, ?_⟩
      rw [show (s.modLink (.pkg n a) (·.attempt s.now)).dies[n] = _ from s.modDie_die n _]
  · have fails : s.trainingComplete e h = s.trainingFails e := by
      simp only [State.trainingComplete, show (s.link e).st = _ from st, lost, ne_eq, not_true_eq_false, Bool.not_false, if_true, if_false]
    obtain ⟨only, dict⟩ := s.trainingFails_facts e
    exact ⟨_, congrArg Host.Outcome.next fails, (s.link e).failedAt s.now, rfl, only, dict⟩
  · rintro n a rfl st locked
    refine ⟨_, congrArg Host.Outcome.next ?_, rfl⟩
    simp only [State.trainingComplete, show (s.link (.pkg n a)).st = _ from st, locked, ne_eq, not_true_eq_false, Bool.not_true, Bool.false_eq_true,
      if_false]
    rfl
  · have fails : s.trainingComplete (.port p) h = s.trainingFails (.port p) := by
      simp only [State.trainingComplete, State.link, show s.ports[p].link.st = _ from st, locked, puffed, ne_eq, not_true_eq_false, Bool.not_true,
        Bool.false_eq_true, if_true, if_false]
    obtain ⟨dies, port, -⟩ := s.trainingFails_port p
    exact ⟨_, congrArg Host.Outcome.next fails, dies, congrArg (·.link.st) port⟩
  · by_cases host : s.hostEnd = some p
    · have own := (s.hostEnd_iff p).mp host
      have port := s.modPort_same p (·.up (freshLink (.port p) .host))
      exact ⟨_, congrArg Host.Outcome.next (State.trainingComplete_host st locked sound host), fun _ => rfl, fun q hq => s.modPort_other p q _ hq,
        fun _ => ⟨congrArg (·.link.st) port, congrArg (·.link.enc) port, congrArg (·.link.credits) port⟩, fun far => absurd own far,
        fun far => absurd own far⟩
    · have far : s.hub.dict.hostPort.toNat ≠ p.val := fun own => host ((s.hostEnd_iff p).mpr own)
      cases ok : s.peerOk p h with
      | true =>
        obtain ⟨dies, others, tx, rx, c, out, port⟩ := State.trainingComplete_peer st locked sound host ok
        refine ⟨_, rfl, fun m => by rw [dies], others, fun own => absurd own far, fun _ _ => ⟨dies, ?_⟩, fun _ e => nomatch e⟩
        refine ⟨congrArg (·.link.st) port, congrArg (·.link.enc) port, congrArg (·.link.txCtr) port, congrArg (·.link.expect) port,
          congrArg (·.link.nextSeq) port, (congrArg (·.link.credits) port).trans ?_, congrArg (·.nb) port, congrArg (·.peerId) port⟩
        dsimp only [Port.up, freshLink]
        split <;> rfl
      | false =>
        have fails := State.trainingComplete_mismatch st locked sound host ok
        obtain ⟨dies, port, others⟩ := (s.mismatch p .down .none_).trainingFails_port p
        have marked : (s.mismatch p .down .none_).ports[p] = _ := s.portFault_port p nbMis _
        refine ⟨_, congrArg Host.Outcome.next fails, fun m => ?_, fun q hq => ?_, fun own => absurd own far, fun _ e => (nomatch e), fun _ _ => ?_⟩
        · rw [dies]
          exact s.portFault_cores p nbMis _ m
        · exact (others q hq).trans (s.portFault_ports_other p q nbMis _ hq)
        · rw [port, marked]
          exact ⟨rfl, bit_setBit_same _ (by decide), rfl⟩
  · have due : (s.ports[p].link.enc && s.ports[p].link.trained
        && (decide (2 ^ 31 ≤ s.ports[p].link.txCtr) || decide (2 ^ 31 ≤ s.ports[p].link.rxCtr))) = true := by
      simp only [Bool.and_eq_true, Bool.or_eq_true, decide_eq_true_eq]
      exact ⟨⟨enc, trained⟩, worn⟩
    cases ok : s.peerOk p h with
    | true =>
      obtain ⟨only, count, tx, rx, link⟩ := State.keyRenewal_peer due ok
      exact ⟨_, rfl, fun _ => ⟨only, count, congrArg (·.txCtr) link, congrArg (·.kep) link, congrArg (·.rxKey) link, congrArg (·.st) link⟩,
        fun e => nomatch e⟩
    | false =>
      have down : s.keyRenewal p h = (s.mismatch p .down .none_).linkDown (.port p) .down 1 := by
        refine (if_pos due).trans (if_neg ?_)
        rw [ok]
        exact Bool.false_ne_true
      obtain ⟨gone, -, -, marked, -⟩ := State.faultThenDown (p := p) trained nbMis (by decide) _ 1
      exact ⟨_, congrArg Host.Outcome.next down, fun e => (nomatch e), fun _ => ⟨congrArg Link.st gone, marked⟩⟩

end Sys2Proof.Machine

/-! # Flits are checked (O38) -/

namespace Sys2Proof.Machine

section
variable {s : State} {e : LinkEnd} {p : PortIx} {f : Flit}

/-! ### Asking for a replay (R324) -/

/-- What an end that asks for a replay writes: the request, at most once in a microsecond. -/
theorem Link.askRetry_asks (l : Link) (now : Nat) :
    (l.await = false → (l.askRetry now).await = true ∧ (l.askRetry now).reqAt = now ∧ (l.askRetry now).ctlq = l.ctlq ++ [retryFlit l.expect])
      ∧ (l.await = true → now < l.reqAt + 250 → (l.askRetry now).ctlq = l.ctlq ∧ (l.askRetry now).await = true) := by
  unfold Link.askRetry
  refine ⟨fun idle => ?_, fun asked early => ?_⟩
  · rw [if_pos (by rw [idle]; rfl)]
    exact ⟨rfl, rfl, rfl⟩
  · have quiet : ¬ (!l.await || decide (l.reqAt + usCounts 1 ≤ now)) = true := by
      rw [asked, show decide (l.reqAt + usCounts 1 ≤ now) = false from decide_eq_false (Nat.not_le.mpr early)]
      exact Bool.false_ne_true
    rw [if_neg quiet]
    exact ⟨rfl, asked⟩

/-- The request is all that an end writes that asks for a replay. -/
theorem Link.askRetry_eq (l : Link) (now : Nat) : ∃ a r q, l.askRetry now = { l with await := a, reqAt := r, ctlq := q } := by
  unfold Link.askRetry
  split
  · exact ⟨_, _, _, rfl⟩
  · exact ⟨_, _, _, rfl⟩

theorem State.askReplay_port (s : State) (p : PortIx) :
    ∃ ex : Option Exchange → Option Exchange, s.askReplay (.port p) = s.modPort p (fun x => { x with link := x.link.askRetry s.now, ex := ex x.ex }) :=
  ⟨Option.map fun y => { y with bad := true }, s.modPort_modPort p _ _⟩

/-- It reaches no more than the end itself. -/
theorem State.askReplay_facts (s : State) (e : LinkEnd) :
    (s.askReplay e).hub = s.hub ∧ (s.askReplay e).link e = (s.link e).askRetry s.now
      ∧ (∀ m : DieIx, ∃ k, (s.askReplay e).dies[m] = { s.dies[m] with pkg := k })
      ∧ ∀ p, e = .port p → ∃ ex, (s.askReplay e).ports[p] = { s.ports[p] with link := s.ports[p].link.askRetry s.now, ex := ex } := by
  cases e with
  | port p =>
    obtain ⟨ex, whole⟩ := s.askReplay_port p
    have port := s.modPort_same p fun x => { x with link := x.link.askRetry s.now, ex := ex x.ex }
    rw [whole]
    refine ⟨rfl, congrArg (·.link) port, fun _ => ⟨_, rfl⟩, ?_⟩
    rintro _ ⟨⟩
    exact ⟨_, port⟩
  | pkg n a =>
    exact ⟨rfl, s.link_modLink_same (.pkg n a) (·.askRetry s.now), s.modLink_die (.pkg n a) (·.askRetry s.now), fun _ e => nomatch e⟩

/-! ### A failed check word (R319) -/

/-- Codewords are counted at a port, and a flit whose check word fails. -/
theorem State.badCrc_facts (s : State) (e : LinkEnd) (corr unc : Nat) :
    let t := (s.countFec e corr unc).badCrc e
    t.hub = s.hub ∧ t.link e = (s.link e).askRetry s.now ∧ (∀ m : DieIx, ∃ k, t.dies[m] = { s.dies[m] with pkg := k })
      ∧ ∀ p, e = .port p → t.ports[p].crcErr = satAdd s.ports[p].crcErr 1 ∧ t.ports[p].fecCorr = satAdd s.ports[p].fecCorr corr
        ∧ t.ports[p].fecUnc = satAdd s.ports[p].fecUnc unc := by
  cases e with
  | port p =>
    let u := s.modPort p fun x =>
      { x with fecCorr := satAdd x.fecCorr corr, fecUnc := satAdd x.fecUnc unc, crcErr := satAdd x.crcErr 1 }
    have counted : (s.countFec (.port p) corr unc).badCrc (.port p) = u.askReplay (.port p) :=
      congrArg (·.askReplay (.port p)) (s.modPort_modPort p _ _)
    have port : u.ports[p] = _ := s.modPort_same p _
    obtain ⟨hub, link, dies, ports⟩ := u.askReplay_facts (.port p)
    obtain ⟨ex, asked⟩ := ports p rfl
    intro t
    rw [show t = _ from counted]
    have link₀ : u.link (.port p) = s.ports[p].link := congrArg (·.link) port
    refine ⟨hub, link.trans (congrArg (·.askRetry s.now) link₀), dies, ?_⟩
    rintro _ ⟨⟩
    rw [asked, port]
    exact ⟨rfl, rfl, rfl⟩
  | pkg n a =>
    obtain ⟨hub, link, dies, -⟩ := s.askReplay_facts (.pkg n a)
    exact ⟨hub, link, dies, fun _ e => nomatch e⟩

/-! ### A flit of the sequence, and one out of it (R324, R326) -/

/-- An acknowledgement of no flit that waits frees none. -/
theorem Link.acked_none {l : Link} {fack : BitVec 12} (h : ∀ y ∈ l.replay, y.fseq ≠ fack) : l.acked fack = l := by
  have none : l.replay.findIdx? (fun f => f.fseq = fack) = none :=
    List.findIdx?_eq_none_iff.mpr fun y hy => decide_eq_false (h y hy)
  unfold Link.acked
  rw [none]

/-- An acknowledgement frees the first flit of its number, and those before it. -/
theorem Link.acked_first {l : Link} {fack : BitVec 12} {xs ys : List Flit} {y : Flit} (h : l.replay = xs ++ y :: ys)
    (same : y.fseq = fack) (first : ∀ z ∈ xs, z.fseq ≠ fack) : (l.acked fack).replay = ys ∧ (l.acked fack).stuck = 0 := by
  have found : l.replay.findIdx? (fun f => f.fseq = fack) = some xs.length := by
    rw [h, List.findIdx?_append, List.findIdx?_eq_none_iff.mpr fun z hz => decide_eq_false (first z hz), List.findIdx?_cons,
      decide_eq_true same, if_pos rfl]
    exact congrArg some (Nat.zero_add _)
  unfold Link.acked
  rw [found]
  refine ⟨?_, rfl⟩
  dsimp only
  rw [h, List.drop_append, List.drop_eq_nil_of_le (Nat.le_succ _), Nat.add_sub_cancel_left]
  rfl

/-- Of a link, an acknowledgement writes the replay buffer and what counts its replays. -/
theorem Link.acked_kept (l : Link) (fack : BitVec 12) :
    (l.acked fack).expect = l.expect ∧ (l.acked fack).credits = l.credits := by
  unfold Link.acked
  split <;> exact ⟨rfl, rfl⟩

/-- An end that is not encrypted follows no key: but for a count, its link stays. -/
theorem Link.followKey_plain {l : Link} (plain : l.enc = false) (f : Flit) : ∃ n, l.followKey f = { l with rxCtr := n } := by
  have same : (if l.enc && f.kep ≠ l.rxKep && !l.nextRx.isEmpty then
      { l with prevRx := l.rxKey, rxKey := l.nextRx, rxCtr := 0, inCtr := 0, nextRx := [], rxKep := f.kep } else l) = l :=
    if_neg (by rw [plain]; exact Bool.false_ne_true)
  unfold Link.followKey
  rw [same]
  dsimp only
  split
  · exact ⟨_, rfl⟩
  · exact ⟨_, rfl⟩

/-- What a sequenced flit that is taken moves on. -/
theorem Link.took_facts {l : Link} (sequenced : flitSequenced f = true) :
    (l.took f).expect = l.expect + 1 ∧ (l.took f).await = false ∧ (l.took f).replay = (l.acked f.fack).replay
      ∧ (l.took f).stuck = (l.acked f.fack).stuck
      ∧ ∀ i : Fin 5, (l.took f).credits[i] = l.credits[i] + (if i = laneIx f.cvl f.ccl then f.cred.toNat else 0) := by
  obtain ⟨expect, credits⟩ := l.acked_kept f.fack
  unfold Link.took
  rw [if_pos sequenced]
  refine ⟨congrArg (· + 1) expect, rfl, rfl, rfl, fun i => ?_⟩
  refine (vupd_get _ _ i _).trans ?_
  rw [credits]
  split
  next same => rw [same]
  next => rfl

end

section
variable {s : State} {n : DieIx} {a : Fin 3} {f : Flit}

theorem State.modLink_modLink (s : State) (e : LinkEnd) (f g : Link → Link) :
    (s.modLink e f).modLink e g = s.modLink e (fun l => g (f l)) := by
  cases e with
  | port p => exact s.modPort_modPort p _ _
  | pkg n a =>
    refine (s.modDie_modDie n _ _).trans (s.modDie_congr n _ _ ?_)
    exact congrArg (fun k => { s.dies[n] with pkg := k }) (vupd_vupd _ a f g)

/-- A change of a package link end is that end's alone. -/
theorem State.modLink_pkg (s : State) (n : DieIx) (a : Fin 3) (f : Link → Link) :
    OnlyDie n s (s.modLink (.pkg n a) f) ∧ (s.modLink (.pkg n a) f).dies[n].router = s.dies[n].router
      ∧ (s.modLink (.pkg n a) f).dies[n].cores = s.dies[n].cores := by
  have die := s.modDie_die n fun d => { d with pkg := vupd d.pkg a f }
  exact ⟨⟨rfl, fun m hm => s.modDie_other n m _ hm⟩, congrArg (·.router) die, congrArg (·.cores) die⟩

/-- A flit that enters the router stands last in the queue of its input. -/
theorem State.entered (s : State) (n : DieIx) (a : Fin 3) (g : Link → Link) (f : Flit) :
    let t := (s.modLink (.pkg n a) g).toRouterIn (.pkg n a) f
    OnlyDie n s t ∧ t.dies[n].cores = s.dies[n].cores ∧ t.dies[n].router = { s.dies[n].router with inq := t.dies[n].router.inq }
      ∧ ∀ i : Fin 7, t.dies[n].router.inq[i] = s.dies[n].router.inq[i] ++ (if i = inputOf (.pkg n a) then [f] else []) := by
  intro t
  obtain ⟨⟨-, others⟩, router, cores⟩ := s.modLink_pkg n a g
  have die : t.dies[n] = _ := State.modDie_die _ n _
  refine ⟨⟨rfl, fun m hm => (State.modDie_other _ n m _ hm).trans (others m hm)⟩, (congrArg (·.cores) die).trans cores, ?_, fun i => ?_⟩
  · rw [die]
    dsimp only
    rw [router]
  · rw [die]
    refine (vupd_get _ _ i _).trans ?_
    rw [router]
    split
    next same => rw [same]
    next => exact (List.append_nil _).symm

theorem State.link_entered (s : State) (n : DieIx) (a : Fin 3) (g : Link → Link) (f : Flit) :
    ((s.modLink (.pkg n a) g).toRouterIn (.pkg n a) f).link (.pkg n a) = g (s.link (.pkg n a)) := by
  have entered : ((s.modLink (.pkg n a) g).toRouterIn (.pkg n a) f).link (.pkg n a) = (s.modLink (.pkg n a) g).link (.pkg n a) :=
    State.link_modDie _ n (f := fun d => { d with router := { d.router with
      inq := vupd d.router.inq (inputOf (.pkg n a)) (· ++ [f]) } }) (fun _ => rfl) _
  exact entered.trans (s.link_modLink_same _ g)

/-- On a package link a flit whose check word holds is taken, or asks for a replay. -/
theorem State.flitReceive_pkg (trained : (s.link (.pkg n a)).trained = true) (plain : (s.link (.pkg n a)).enc = false) (good : flitCrc f = f.fcrc)
    (corr unc : Nat) : s.flitReceive (.pkg n a) f corr unc = (s.modLink (.pkg n a) (·.followKey f)).goodFlit (.pkg n a) f := by
  have opened : (s.link (.pkg n a)).openFlit f = some f.body := by
    rw [Link.openFlit, plain]
    rfl
  unfold State.flitReceive
  rw [trained]
  refine (if_neg (not_not.mpr good)).trans ?_
  rw [show (s.countFec (.pkg n a) corr unc).link (.pkg n a) = s.link (.pkg n a) from rfl, opened]
  rfl

/-- The next flit of the sequence goes to the router. -/
theorem State.goodFlit_next (sequenced : flitSequenced f = true) (next : f.fseq = (s.link (.pkg n a)).expect) :
    s.goodFlit (.pkg n a) f = (s.modLink (.pkg n a) (·.took f)).toRouterIn (.pkg n a) f := by
  have takes : (s.link (.pkg n a)).takes f = true := by
    rw [Link.takes, decide_eq_true next, Bool.or_true]
  have retry : ¬ f.fk = 4 := fun e => by
    rw [flitSequenced, e] at sequenced
    exact absurd sequenced (by decide)
  have host : ¬ (s.modLink (.pkg n a) (·.took f)).hostEnd.any (fun p => LinkEnd.pkg n a = .port p) = true := by
    rw [Option.any_eq_true]
    rintro ⟨p, -, e⟩
    exact nomatch of_decide_eq_true e
  unfold State.goodFlit
  rw [if_pos takes]
  dsimp only
  rw [if_neg host, if_neg retry, if_pos sequenced]
  rfl

/-- One out of sequence asks for a replay. -/
theorem State.goodFlit_other {e : LinkEnd} (sequenced : flitSequenced f = true) (other : f.fseq ≠ (s.link e).expect) :
    s.goodFlit e f = s.askReplay e := by
  refine if_neg ?_
  rw [Link.takes, sequenced, decide_eq_false other]
  exact Bool.false_ne_true

end

/-! ### A failed tag (R329) -/

section
variable {s : State} {p : PortIx}

/-- The port as a failed tag leaves it, the fails of the last second among its own. -/
def Port.tagFailed (x : Port) (now : Nat) : Port :=
  { x with tagErr := satAdd x.tagErr 1, tagFails := now :: x.tagFails.filter (fun t => decide (now < t + secCounts 1)) }

theorem State.badTag_eq (s : State) (p : PortIx) :
    s.badTag (.port p) = if 4 ≤ (s.ports[p].tagFailed s.now).tagFails.length
      then ((s.modPort p (·.tagFailed s.now)).portFault p tamper).linkDown (.port p) .disabled 5
      else (s.modPort p (·.tagFailed s.now)).askReplay (.port p) := rfl

/-- A tag that fails for the fourth time in a second disables the port. -/
theorem State.tamper_facts (trained : s.ports[p].link.trained = true) :
    let t := (s.portFault p tamper).linkDown (.port p) .disabled 5
    t.ports[p].tagErr = s.ports[p].tagErr ∧ t.ports[p].link.st = .disabled ∧ bit t.ports[p].fault 2 = true ∧ t.ports[p].nb = .none_ := by
  intro t
  have link : (s.portFault p tamper).link (.port p) = s.ports[p].link := s.portFault_link ..
  have down : t = (s.portFault p tamper).portDown p .disabled 5 := if_pos (link ▸ trained)
  obtain ⟨old, n, port⟩ := (s.portFault p tamper).portDown_port p .disabled 5
  rw [s.portFault_port p tamper none] at port
  rw [down, port]
  exact ⟨rfl, rfl, bit_setBit_same _ (by decide), rfl⟩

end

/-! ### The statement -/

/-- Settles O38: a failed check word by `badCrc_facts`, the sequence by `goodFlit_next` and `goodFlit_other`, and a failed tag by
`badTag_eq` and `tamper_facts`. -/
theorem flitsAreChecked : Obligations.FlitsAreChecked := by
  unfold Obligations.FlitsAreChecked
  intro s e f corr unc l asks
  refine ⟨fun idle => ?_, fun trained bad => ?_, ?_, ?_⟩
  · refine congrArg Host.Outcome.next (if_pos ?_)
    rw [show (s.link e).trained = false from idle]
    rfl
  · have failed : s.flitReceive e f corr unc = (s.countFec e corr unc).badCrc e := by
      unfold State.flitReceive
      rw [show (s.link e).trained = true from trained]
      exact if_pos bad
    obtain ⟨hub, link, dies, counts⟩ := s.badCrc_facts e corr unc
    obtain ⟨w, r, q, kept⟩ := (s.link e).askRetry_eq s.now
    refine ⟨_, congrArg Host.Outcome.next failed, hub, link ▸ (s.link e).askRetry_asks s.now, ?_, ?_, fun m => ?_, counts⟩
    · rw [link]
      exact congrArg (·.expect) kept
    · rw [link]
      exact congrArg (·.replay) kept
    · obtain ⟨k, die⟩ := dies m
      rw [die]
      exact ⟨rfl, rfl⟩
  · rintro n a rfl trained plain good data control
    have sequenced : flitSequenced f = true := by
      simp only [flitSequenced, data, control, ne_eq, not_false_eq_true, decide_true, Bool.and_self]
    have received := State.flitReceive_pkg trained plain good corr unc
    obtain ⟨c, followed⟩ := Link.followKey_plain plain f
    have link₁ : (s.modLink (.pkg n a) (·.followKey f)).link (.pkg n a) = { s.link (.pkg n a) with rxCtr := c } :=
      (s.link_modLink_same _ _).trans followed
    by_cases next : f.fseq = (s.link (.pkg n a)).expect
    · have taken := State.goodFlit_next (s := s.modLink (.pkg n a) (·.followKey f)) sequenced (by rw [link₁]; exact next)
      rw [s.modLink_modLink] at taken
      obtain ⟨expect, await, replay, stuck, credits⟩ := Link.took_facts (l := (s.link (.pkg n a)).followKey f) sequenced
      have link : (s.flitReceive (.pkg n a) f corr unc).link (.pkg n a) = ((s.link (.pkg n a)).followKey f).took f := by
        rw [received, taken]
        exact s.link_entered n a (fun l => (l.followKey f).took f) f
      obtain ⟨only, cores, router, inq⟩ := s.entered n a (fun l => (l.followKey f).took f) f
      rw [← taken, ← received] at only cores router inq
      refine ⟨_, rfl, only, cores, fun _ => ?_, fun other => absurd next other⟩
      rw [link, expect, await, replay, stuck, followed]
      refine ⟨rfl, rfl, fun i => ?_, fun none => ?_, fun xs y ys split same first => ?_, router, inq⟩
      · rw [← followed, credits i, followed]
      · rw [Link.acked_none (l := { s.link (.pkg n a) with rxCtr := c }) none]
        exact ⟨rfl, rfl⟩
      · exact Link.acked_first (l := { s.link (.pkg n a) with rxCtr := c }) split same first
    · have asked := State.goodFlit_other (s := s.modLink (.pkg n a) (·.followKey f)) sequenced (by rw [link₁]; exact next)
      have whole : s.flitReceive (.pkg n a) f corr unc = s.modLink (.pkg n a) (fun l => (l.followKey f).askRetry s.now) :=
        received.trans (asked.trans (s.modLink_modLink (.pkg n a) (·.followKey f) (·.askRetry s.now)))
      obtain ⟨only, router, cores⟩ := s.modLink_pkg n a fun l => (l.followKey f).askRetry s.now
      have link := s.link_modLink_same (.pkg n a) fun l => (l.followKey f).askRetry s.now
      rw [← whole] at only router cores link
      rw [followed] at link
      obtain ⟨w, r, q, kept⟩ := ({ s.link (.pkg n a) with rxCtr := c } : Link).askRetry_eq s.now
      refine ⟨_, rfl, only, cores, fun same => absurd same next, fun _ => ⟨?_, ?_, ?_, router, ?_⟩⟩
      · rw [link]
        exact congrArg (·.expect) kept
      · rw [link]
        exact congrArg (·.credits) kept
      · rw [link]
        exact congrArg (·.replay) kept
      · rw [link]
        exact ({ s.link (.pkg n a) with rxCtr := c } : Link).askRetry_asks s.now
  · rintro p rfl trained good unread
    let u := s.countFec (.port p) corr unc
    have port : u.ports[p] = _ := s.modPort_same p _
    have received : s.flitReceive (.port p) f corr unc = u.badTag (.port p) := by
      unfold State.flitReceive
      rw [show (s.link (.port p)).trained = true from trained]
      refine (if_neg (not_not.mpr good)).trans ?_
      rw [show (s.countFec (.port p) corr unc).link (.port p) = s.link (.port p) from congrArg (·.link) port,
        show (s.link (.port p)).openFlit f = none from unread]
    rw [State.badTag_eq] at received
    have fails : (u.ports[p].tagFailed u.now).tagFails.length
        = (s.ports[p].tagFails.filter (fun x => decide (s.now < x + 250000000))).length + 1 := by
      rw [port]
      rfl
    have failed : (u.modPort p (·.tagFailed u.now)).ports[p] = _ := u.modPort_same p _
    rw [show u.ports[p.val] = _ from port] at failed
    by_cases few : (s.ports[p].tagFails.filter (fun x => decide (s.now < x + 250000000))).length < 3
    · rw [if_neg (by omega)] at received
      obtain ⟨-, link, -, ports⟩ := (u.modPort p (·.tagFailed u.now)).askReplay_facts (.port p)
      obtain ⟨ex, asked⟩ := ports p rfl
      obtain ⟨g, whole⟩ := (u.modPort p (·.tagFailed u.now)).askReplay_port p
      have link' : (s.flitReceive (.port p) f corr unc).link (.port p) = (s.link (.port p)).askRetry s.now := by
        have same : (u.modPort p (·.tagFailed u.now)).link (.port p) = s.link (.port p) := congrArg (·.link) failed
        rw [received, link, same]
        rfl
      refine ⟨_, rfl, ?_, fun _ => ?_, fun many => absurd few (Nat.not_lt.mpr many)⟩
      · rw [received, asked]
        exact congrArg (·.tagErr) failed
      · rw [link']
        refine ⟨?_, (s.link (.port p)).askRetry_asks s.now, ?_⟩
        · obtain ⟨w, r, q, kept⟩ := (s.link (.port p)).askRetry_eq s.now
          exact congrArg (·.st) kept
        · rw [received, whole]
          rfl
    · rw [if_pos (by omega)] at received
      have kept := congrArg (·.link.trained) failed
      have trained' : (u.modPort p (·.tagFailed u.now)).ports[p].link.trained = true := kept.trans trained
      obtain ⟨errors, st, marked, nb⟩ := State.tamper_facts trained'
      have counted := congrArg (·.tagErr) failed
      refine ⟨_, congrArg Host.Outcome.next received, errors.trans counted, fun more => absurd more few,
        fun _ => ⟨st, marked, nb⟩⟩

end Sys2Proof.Machine

/-! # Clocks and voltage (O35) -/

namespace Sys2Proof.Machine

/-! ### Faults of a die's clock -/

/-- A record of a die changes its queue and what it has recorded in this frame alone. -/
theorem Die.eventOnce_eq (d : Die) (sev : Nat) (unitk : BitVec 8) (unit : BitVec 16) (rule : Nat) (bit : BitVec 8) (det : Bytes) :
    ∃ q e o, d.eventOnce sev unitk unit rule bit det = { d with evq := q, evLost := e, once := o } := by
  have only := d.eventOnce_only sev unitk unit rule bit det
  generalize d.eventOnce sev unitk unit rule bit det = x at only
  have whole := congrArg (fun y : Die => { y with evq := x.evq, evLost := x.evLost, once := x.once }) only
  exact ⟨x.evq, x.evLost, x.once, whole⟩

theorem Die.faultRecord_eq (d : Die) (u : DieUnit) (b : FBit) : ∃ q e o, d.faultRecord u b = { d with evq := q, evLost := e, once := o } := by
  unfold Die.faultRecord
  split
  · exact ⟨_, _, _, rfl⟩
  · exact d.eventOnce_eq ..

/-- A fault of a die's clock sets a bit of its fault word, and else changes only what notes and records it. -/
theorem Die.fault_clock (d : Die) (b : FBit) :
    ∃ q e o n, d.fault .clock b
      = { d with frm := { d.frm with fault := setBit d.frm.fault b.bit }, evq := q, evLost := e, once := o, setNow := n } := by
  have only := d.fault_only .clock b 0
  generalize d.fault .clock b = x at only
  have whole := congrArg (fun y : Die => { y with evq := x.evq, evLost := x.evLost, once := x.once, setNow := x.setNow }) only
  exact ⟨x.evq, x.evLost, x.once, x.setNow, whole⟩

/-- A fault of the clock that is raised where a condition holds. -/
theorem Die.faultIf_clock (d : Die) (b : FBit) (c : Prop) [Decidable c] :
    ∃ q e o n, (if c then d.fault .clock b else d)
      = { d with frm := { d.frm with fault := if c then setBit d.frm.fault b.bit else d.frm.fault }
                 evq := q, evLost := e, once := o, setNow := n } := by
  by_cases h : c
  · rw [if_pos h, if_pos h]
    exact d.fault_clock b
  · rw [if_neg h, if_neg h]
    exact ⟨_, _, _, _, rfl⟩

/-! ### Throttling (R311) -/

/-- A die at a throttle window, before the duty's bit. -/
def Die.throttled (d : Die) : Die :=
  let e : Die := { d with clock := { d.clock with winDone := some d.window, thrDuty := d.clock.thrNext } }
  if d.frm.frun && d.clock.thrNext ≠ 0 then e.timedHold 10 d.clock.thrNext.toNat else e

theorem Die.throttled_eq (d : Die) : d.throttled = { d with
    clock := { d.clock with winDone := some d.window, thrDuty := d.clock.thrNext }
    hold := { d.hold with timed := d.hold.timed ++ (if d.frm.frun = false ∨ d.clock.thrNext = 0 then []
      else [⟨10, d.clock.clk + 4, d.clock.clk + 3 + d.clock.thrNext.toNat⟩]) } } := by
  unfold Die.throttled
  dsimp only
  by_cases h : d.frm.frun = false ∨ d.clock.thrNext = 0
  · have none : ¬ (d.frm.frun && decide (d.clock.thrNext ≠ 0)) = true := by
      rw [Bool.and_eq_true, decide_eq_true_eq]
      rintro ⟨run, duty⟩
      obtain still | zero := h
      · exact Bool.false_ne_true (still.symm.trans run)
      · exact duty zero
    rw [if_neg none, if_pos h, List.append_nil]
  · obtain ⟨run, duty⟩ := not_or.mp h
    have held : (d.frm.frun && decide (d.clock.thrNext ≠ 0)) = true := by
      rw [Bool.and_eq_true, decide_eq_true_eq]
      exact ⟨eq_true_of_ne_false run, duty⟩
    rw [if_pos held, if_neg h]
    rfl

theorem Die.throttleWindow_throttled {d : Die} (h : d.clock.winDone ≠ some d.window) :
    d.throttleWindow = if d.clock.thrMax.toNat < d.clock.thrNext.toNat then d.throttled.fault .clock thrOver else d.throttled := by
  unfold Die.throttleWindow
  rw [if_neg h]
  dsimp only
  rw [show (if d.frm.frun && d.clock.thrNext ≠ 0 then _ else _) = d.throttled from rfl, d.throttled_eq]

theorem Die.throttleWindow_eq {d : Die} (h : d.clock.winDone ≠ some d.window) :
    ∃ q e o n, d.throttleWindow = { d.throttled with
      frm := { d.frm with fault := if d.clock.thrMax.toNat < d.clock.thrNext.toNat then setBit d.frm.fault 3 else d.frm.fault }
      evq := q, evLost := e, once := o, setNow := n } := by
  obtain ⟨q, e, o, n, faulted⟩ := d.throttled.faultIf_clock thrOver (d.clock.thrMax.toNat < d.clock.thrNext.toNat)
  have frm : d.throttled.frm = d.frm := by rw [d.throttled_eq]
  rw [frm] at faulted
  exact ⟨q, e, o, n, (throttleWindow_throttled h).trans faulted⟩

/-! ### Stretching (R294, R295) -/

/-- A greatest value is at least each of those it is taken of. -/
theorem le_foldl_max {α : Type} (g : α → Nat) {l : List α} {q : α} (h : q ∈ l) (m : Nat) : g q ≤ l.foldl (fun m x => max m (g x)) m := by
  have grows : ∀ (l : List α) (m : Nat), m ≤ l.foldl (fun m x => max m (g x)) m := fun l => by
    induction l with
    | nil => exact fun _ => Nat.le_refl _
    | cons x l ih => exact fun m => (Nat.le_max_left m (g x)).trans (ih _)
  induction l generalizing m with
  | nil => exact absurd h List.not_mem_nil
  | cons x l ih =>
    obtain rfl | later := List.mem_cons.mp h
    · exact (Nat.le_max_right m (g q)).trans (grows l _)
    · exact ih later _

/-- The region of a demand is stretched by it at once. -/
theorem Die.droop_stretch (d : Die) (region : Fin 8) (demand : Fin 9) : demand.val ≤ (d.droop region demand).clock.stretch region := by
  have reached := le_foldl_max
    (fun q : Fin 8 => match (d.droop region demand).clock.demand[regionDist region q]? with | some v => v[q].val | none => 0)
    (List.mem_finRange region) 0
  refine Nat.le_trans ?_ reached
  have near : regionDist region region = 0 := by simp [regionDist, absDiff]
  rw [near]
  have now : (vupd (d.clock.demand.headD (.replicate 8 0)) region (fun _ => demand))[region] = demand := vupd_get_self _ _ _
  exact Nat.le_of_eq (congrArg Fin.val now.symm)

/-! ### The frequency monitor (R298, R299, R417) -/

/-- What the end of a window of the frequency monitor does to its die, before the bit of the highest voltage. -/
def Die.counting (d : Die) : Die :=
  let cnt := d.clock.fwCount
  let last := BitVec.ofNat 10 (min cnt 1023)
  let e : Die := { d with clock := { d.clock with fwCount := 0, fwStart := d.clock.tc.toNat / 250 * 250 } }
  if e.plan.isNone then (if cnt < 846 then e.faultRecord .clock fbBreach else e)
  else
    let e : Die := { e with clock := { e.clock with
      fwLast := last, fwMin := if last.toNat < e.clock.fwMin.toNat then last else e.clock.fwMin } }
    if cnt < 846 then e.fault .clock fbBreach else e

/-- What the end of a window does to its die. -/
def Die.counted (d : Die) : Die :=
  if d.clock.fwCount < 870 && 800 ≤ d.counting.pow.vcoreMv then d.counting.fault .clock vTop else d.counting

/-- The window's count as the status entries show it. -/
theorem windowCount_toNat (n : Nat) : (BitVec.ofNat 10 (min n 1023)).toNat = min n 1023 := by
  rw [BitVec.toNat_ofNat, Nat.mod_eq_of_lt (by omega)]

/-- Without a plan a breach is recorded alone. -/
theorem Die.counting_idle {d : Die} (idle : d.plan = none) : ∃ q e o, d.counting = { d with
    clock := { d.clock with fwCount := 0, fwStart := d.clock.tc.toNat / 250 * 250 }, evq := q, evLost := e, once := o } := by
  have none : d.plan.isNone = true := by rw [idle]; rfl
  unfold Die.counting
  dsimp only
  rw [if_pos none]
  split
  · exact Die.faultRecord_eq ..
  · exact ⟨_, _, _, rfl⟩

/-- The clock of a die with a plan after a window. -/
def Clock.counted (k : Clock) : Clock :=
  let last := BitVec.ofNat 10 (min k.fwCount 1023)
  { k with fwCount := 0, fwStart := k.tc.toNat / 250 * 250, fwLast := last
           fwMin := if last.toNat < k.fwMin.toNat then last else k.fwMin }

/-- With a plan the status entries follow, and a breach sets its bit. -/
theorem Die.counting_plan {d : Die} (plan : d.plan ≠ none) : ∃ q e o n, d.counting = { d with
    clock := d.clock.counted
    frm := { d.frm with fault := if d.clock.fwCount < 846 then setBit d.frm.fault 0 else d.frm.fault }
    evq := q, evLost := e, once := o, setNow := n } := by
  have some : ¬ d.plan.isNone = true := fun h => plan (Option.isNone_iff_eq_none.mp h)
  unfold Die.counting
  dsimp only
  rw [if_neg some]
  exact Die.faultIf_clock { d with clock := d.clock.counted } fbBreach (d.clock.fwCount < 846)

/-- At the highest voltage a window below 870 cycles sets its bit. -/
theorem Die.counted_eq (d : Die) : ∃ q e o n, d.counted = { d.counting with
    frm := { d.counting.frm with fault := if d.clock.fwCount < 870 && 800 ≤ d.counting.pow.vcoreMv then setBit d.counting.frm.fault 4
      else d.counting.frm.fault }
    evq := q, evLost := e, once := o, setNow := n } :=
  d.counting.faultIf_clock vTop ((d.clock.fwCount < 870 && 800 ≤ d.counting.pow.vcoreMv) = true)

/-- What a window leaves of its die, and what it writes of its clock and its fault word. -/
theorem Die.counted_facts (d : Die) :
    d.counted.cores = d.cores ∧ d.counted.pow = d.pow ∧ d.counted.clock.fwCount = 0
      ∧ (d.plan ≠ none → d.counted.clock.fwLast.toNat = min d.clock.fwCount 1023
          ∧ d.counted.clock.fwMin.toNat = min d.clock.fwMin.toNat (min d.clock.fwCount 1023))
      ∧ (d.plan = none → d.counted.clock.fwLast = d.clock.fwLast ∧ d.counted.clock.fwMin = d.clock.fwMin)
      ∧ (d.plan ≠ none → d.clock.fwCount < 846 → bit d.counted.frm.fault 0 = true)
      ∧ (d.plan = none ∨ 846 ≤ d.clock.fwCount → bit d.counted.frm.fault 0 = bit d.frm.fault 0)
      ∧ (d.clock.fwCount < 870 → 800 ≤ d.pow.vcoreMv → bit d.counted.frm.fault 4 = true) := by
  obtain ⟨q, e, o, n, whole⟩ := d.counted_eq
  have top (w : U64) : bit (if d.clock.fwCount < 870 && 800 ≤ d.counting.pow.vcoreMv then setBit w 4 else w) 0 = bit w 0 := by
    split
    · exact bit_setBit_ne w (by decide)
    · rfl
  have topSet (w : U64) (pow : d.counting.pow = d.pow) (low : d.clock.fwCount < 870) (high : 800 ≤ d.pow.vcoreMv) :
      bit (if d.clock.fwCount < 870 && 800 ≤ d.counting.pow.vcoreMv then setBit w 4 else w) 4 = true := by
    rw [if_pos (by rw [pow, decide_eq_true low, decide_eq_true high]; rfl)]
    exact bit_setBit_same w (by decide)
  have count := congrArg (·.clock) whole
  have word := congrArg (·.frm.fault) whole
  have cores := congrArg (·.cores) whole
  have pow := congrArg (·.pow) whole
  dsimp only at count word cores pow
  rw [count, word, cores, pow, top]
  by_cases idle : d.plan = none
  · obtain ⟨q', e', o', counting⟩ := Die.counting_idle idle
    have same : d.counting.pow = d.pow := by rw [counting]
    refine ⟨by rw [counting], same, by rw [counting], fun plan => absurd idle plan, fun _ => by rw [counting]; exact ⟨rfl, rfl⟩,
      fun plan => absurd idle plan, fun _ => by rw [counting], topSet _ same⟩
  · obtain ⟨q', e', o', n', counting⟩ := Die.counting_plan idle
    have same : d.counting.pow = d.pow := by rw [counting]
    refine ⟨by rw [counting], same, by rw [counting]; rfl, fun _ => ?_, fun none => absurd none idle, fun _ breach => ?_, fun fine => ?_,
      topSet _ same⟩
    · rw [counting]
      refine ⟨windowCount_toNat _, ?_⟩
      dsimp only [Clock.counted]
      rw [apply_ite BitVec.toNat, windowCount_toNat]
      split <;> omega
    · rw [counting]
      dsimp only
      rw [if_pos breach]
      exact bit_setBit_same _ (by decide)
    · rw [counting]
      dsimp only
      rw [if_neg (Nat.not_lt.mpr (fine.resolve_left idle))]

/-- The hub die's part of a window. -/
def Power.counted (p : Power) (n : DieIx) (cnt mv : Nat) : Power :=
  { p with fast := vupd p.fast n (fun x => if 920 ≤ cnt then x + 1 else 0)
           raiseDue := vupd p.raiseDue n (fun x => x || (decide (cnt < 870) && decide (mv < 800))) }

theorem State.frequencyWindow_eq {s : State} {n : DieIx} (due : s.dies[n].fwDue = true) :
    s.frequencyWindow n = (s.modDie n fun _ => s.dies[n].counted).modHub fun h => { h with
      power := h.power.counted n s.dies[n].clock.fwCount s.dies[n].pow.vcoreMv } := by
  unfold State.frequencyWindow
  rw [if_pos due]
  rfl

/-- A die that cannot hold its frequency is the recorder's. -/
theorem State.slowCheck_eq (s : State) (n : DieIx) : ∃ r, s.slowCheck n = s.modHub fun h => { h with rec_ := r } := by
  unfold State.slowCheck
  dsimp only
  split
  · exact ⟨_, rfl⟩
  · split
    · exact ⟨_, rfl⟩
    · exact ⟨s.hub.rec_, rfl⟩

/-! ### The voltage loop (R299) -/

/-- A move of a die's VCORE is that die's and the rails'. -/
theorem State.setVcore_facts (s : State) (n : DieIx) (mv : Nat) :
    (s.setVcore n mv).ports = s.ports ∧ (∀ m : DieIx, m ≠ n → (s.setVcore n mv).dies[m] = s.dies[m])
      ∧ (s.setVcore n mv).dies[n] = { s.dies[n] with pow := { s.dies[n].pow with vcoreMv := mv } }
      ∧ ∃ rails, (s.setVcore n mv).hub = { s.hub with power := { s.hub.power with rails := rails } } :=
  ⟨rfl, fun m hm => s.modDie_other n m _ hm, s.modDie_die n _, _, rfl⟩

theorem vcoreFloor_least (n : DieIx) : 600 ≤ vcoreFloor n := by
  have h : 600 ≤ max 600 (min 800 (Config.calibratedMv n)) := Nat.le_max_left ..
  unfold vcoreFloor
  omega

/-! ### A management lane that fails (R20) -/

/-- A die that forwards only keeps the state of its power but for what ends with its frame, and a clear that begins. -/
theorem Die.passThrough_facts (now : Nat) (d : Die) :
    (d.passThrough now).plan = none ∧ (d.passThrough now).router.pthru = true ∧ (d.passThrough now).pow.lane = d.pow.lane
      ∧ (d.passThrough now).pow.noMore = d.pow.noMore := by
  unfold Die.passThrough
  refine ⟨d.endPlan_plan now, rfl, ?_, ?_⟩
  all_goals
    unfold Die.endPlan
    split <;> rfl

/-- A die whose lane has failed. -/
def Die.laneFailed (d : Die) (works : Bool) : Die := { d with pow := { d.pow with lane := false, noMore := true, passAtEnd := works } }

theorem State.laneFail_eq {s : State} {n : DieIx} (lane : s.dies[n].pow.lane = true) (works : Bool) :
    s.laneFail n works = (s.modDie n fun d => if works && !d.frm.frun then (d.laneFailed works).passThrough s.now else d.laneFailed works).modHub
      fun h => h.event 4 0x0E (unitIx n.val 0 0) 20 0xFF [] := if_pos lane

/-! ### The statement -/

/-- Settles O35: `throttleWindow_eq`, `droop_stretch`, `counted_facts`, `setVcore_facts` and `laneFail_eq`, one for each of the commands. -/
theorem clocksAndVoltage : Obligations.ClocksAndVoltage := by
  unfold Obligations.ClocksAndVoltage
  intro s n region demand works d p
  refine ⟨fun run fresh => ?_, fun run => ?_, fun due => ?_, fun none => ?_, fun due on below apart => ?_, fun fast above => ?_, fun lane => ?_⟩
  · obtain ⟨q, e, o, m, whole⟩ := Die.throttleWindow_eq fresh
    have die : (s.modDie n Die.throttleWindow).dies[n] = _ := (s.modDie_die n _).trans whole
    rw [Die.throttled_eq] at die
    have hold := congrArg (·.hold) die
    refine ⟨_, onDie_runs _ run, onlyDie_modDie s n _, congrArg (·.cores) die, congrArg (·.clock) die, fun still fits => ?_, fun still => ?_,
      fun running => ?_, fun above => ?_⟩
    · have plain := (Die.throttleWindow_throttled fresh).trans (if_neg (Nat.not_lt.mpr fits))
      rw [Die.throttled_eq, if_pos (.inl still), List.append_nil] at plain
      rw [s.modDie_die n, plain]
    · refine hold.trans ?_
      dsimp only
      rw [if_pos (.inl still), List.append_nil]
    · refine (congrArg (·.timed) hold).trans ?_
      dsimp only
      refine congrArg (s.dies[n].hold.timed ++ ·) (if_congr ⟨fun h => h.resolve_left ?_, .inr⟩ rfl rfl)
      exact fun still => Bool.false_ne_true (still.symm.trans running)
    · have word := congrArg (·.frm.fault) die
      exact (word.trans (if_pos above)) ▸ bit_setBit_same _ (by decide)
  · have die := s.modDie_die n fun d => d.droop region demand
    refine ⟨_, onDie_runs _ run, onlyDie_modDie s n _, ?_, ?_, ?_, fun r => ?_⟩
    · rw [die]
      rfl
    · rw [die]
      rfl
    · rw [die]
      exact Die.droop_stretch ..
    · rw [die]
      exact vupd_get (s.dies[n].clock.demand.headD (.replicate 8 0)) region r fun _ => demand
  · obtain ⟨r, slow⟩ := (s.frequencyWindow n).slowCheck_eq n
    rw [State.frequencyWindow_eq due] at slow
    have whole : exec (.frequencyWindow n) s = .next ((s.frequencyWindow n).slowCheck n) := rfl
    rw [State.frequencyWindow_eq due] at whole
    have die : (s.modDie n fun _ => s.dies[n].counted).dies[n] = s.dies[n].counted := s.modDie_die n _
    obtain ⟨cores, pow, count, plan, idle, breach, kept, top⟩ := s.dies[n].counted_facts
    refine ⟨_, whole, ?_⟩
    rw [slow]
    refine ⟨rfl, fun m hm => s.modDie_other n m _ hm, ?_⟩
    rw [show (((s.modDie n fun _ => s.dies[n].counted).modHub _).modHub _).dies[n] = _ from die]
    exact ⟨cores, pow, count, plan, idle, breach, kept, top, vupd_get_self _ _ _, vupd_get_self _ _ _⟩
  · refine congrArg Host.Outcome.next (if_neg ?_)
    simp only [State.raiseDue, Bool.and_eq_true]
    rintro ⟨⟨⟨due, on⟩, -⟩, -⟩
    obtain none | off := none
    · exact Bool.false_ne_true (none.symm.trans due)
    · exact Bool.false_ne_true (off.symm.trans on)
  · have raise : s.raiseDue n = true := by
      simp only [State.raiseDue, Bool.and_eq_true, Bool.or_eq_true, decide_eq_true_eq]
      exact ⟨⟨⟨due, on⟩, below⟩, apart⟩
    have moves : s.vcoreRaise n = _ := if_pos raise
    obtain ⟨ports, others, die, rails, hub⟩ := s.setVcore_facts n (min 800 (s.dies[n].pow.vcoreMv + 5))
    refine ⟨_, congrArg Host.Outcome.next moves, ports, others, ?_, ?_, vupd_get_self _ _ _, ?_⟩
    · have kept := congrArg (fun d : Die => { d with pow := s.dies[n].pow }) die
      exact kept
    · exact congrArg (·.pow) die
    · have kept := congrArg (fun h : Hub => { h with power := s.hub.power }) hub
      exact kept
  · have lower : (1000 ≤ s.hub.power.fast[n] && decide (vcoreFloor n + 5 ≤ s.dies[n].pow.vcoreMv)) = true := by
      simp only [Bool.and_eq_true, decide_eq_true_eq]
      exact ⟨fast, above⟩
    have moves : s.vcoreLower n = _ := if_pos lower
    obtain ⟨ports, others, die, rails, hub⟩ := s.setVcore_facts n (s.dies[n].pow.vcoreMv - 5)
    have pow := congrArg (·.pow) die
    refine ⟨_, congrArg Host.Outcome.next moves, ports, others, ?_, pow, ?_, ?_⟩
    · have kept := congrArg (fun d : Die => { d with pow := s.dies[n].pow }) die
      exact kept
    · have mv := congrArg (·.vcoreMv) pow
      refine Nat.le_trans ?_ (Nat.le_of_eq mv.symm)
      have least := vcoreFloor_least n
      have above : vcoreFloor n + 5 ≤ s.dies[n].pow.vcoreMv := above
      dsimp only
      omega
    · have kept := congrArg (fun h : Hub => { h with power := s.hub.power }) hub
      exact kept
  · have whole := State.laneFail_eq lane works
    have die := s.modDie_die n fun d => if works && !d.frm.frun then (d.laneFailed works).passThrough s.now else d.laneFailed works
    obtain ⟨plan, pthru, kept, more⟩ := (s.dies[n].laneFailed works).passThrough_facts s.now
    refine ⟨_, congrArg Host.Outcome.next whole, rfl, fun m hm => s.modDie_other n m _ hm, ?_⟩
    rw [show ((s.modDie n _).modHub _).dies[n] = _ from die]
    have closed (x : Die) (more : x.pow.noMore = true) : x.opens = false := by
      simp only [Die.opens, more, Bool.not_true, Bool.and_false, Bool.false_and]
    cases works with
    | false => exact ⟨rfl, rfl, closed _ rfl, fun e => (nomatch e), fun e => (nomatch e), fun _ => rfl, rfl⟩
    | true =>
      cases running : s.dies[n].frm.frun with
      | false => exact ⟨kept, more, closed _ more, fun _ _ => ⟨pthru, plan⟩, fun _ e => (nomatch e), fun e => (nomatch e), rfl⟩
      | true => exact ⟨rfl, rfl, closed _ rfl, fun _ e => (nomatch e), fun _ _ => ⟨rfl, rfl⟩, fun e => (nomatch e), rfl⟩

end Sys2Proof.Machine

/-! # Time exchanges (O36) -/

namespace Sys2Proof.Machine

/-! ### A die's exchange (R301, R302) -/

/-- A step moves the times of the DRAM channels with the counter, and nothing else of the cores. -/
theorem Die.shiftTimes_cores (d : Die) (old new : Nat) (c : CoreIx) :
    ((d.shiftTimes old new).cores[c]).scratch = (d.cores[c]).scratch ∧ ((d.shiftTimes old new).cores[c]).vault.mem = (d.cores[c]).vault.mem := by
  unfold Die.shiftTimes
  split
  · exact ⟨rfl, rfl⟩
  · simp

/-- A die whose counter steps, before its record. -/
def Die.stepped (d : Die) (t : HubTime) : Die :=
  Die.freshWindow { d.shiftTimes d.clock.tc.toNat t.tc.toNat with
    clock := { d.clock with tc := t.tc, tcFrac := t.frac }
    frm := { d.frm with nextTick := firstTick t.tc.toNat t.inForce.toNat, preDone := none }
    router := { d.router with nextSwap := firstTick t.tc.toNat t.inForce.toNat } }

theorem Die.event_kept (d : Die) (sev : Nat) (k : BitVec 8) (u : BitVec 16) (rule : Nat) (b : BitVec 8) (det : Bytes) :
    (d.event sev k u rule b det).cores = d.cores ∧ (d.event sev k u rule b det).clock = d.clock := by
  have only := d.enqueue_only { sev := sev, unitk := k, unit := u, rule := rule, bit := b, frame := d.evFrame, onDie := true,
                                time := d.clock.tc, cyc := d.evCycle, det := det }
  exact ⟨congrArg (·.cores) only, congrArg (·.clock) only⟩

/-- A counter that steps takes the hub die's value and rate. -/
theorem Die.stepTo_facts (d : Die) (t : HubTime) :
    (d.stepTo t).clock.tc = t.tc ∧ (d.stepTo t).clock.rho = t.rho ∧ (d.stepTo t).clock.aligned = true
      ∧ ∀ c : CoreIx, ((d.stepTo t).cores[c]).scratch = (d.cores[c]).scratch ∧ ((d.stepTo t).cores[c]).vault.mem = (d.cores[c]).vault.mem := by
  obtain ⟨cores, clock⟩ := (d.stepped t).event_kept 2 0x0A (unitIx d.ix.val 0 0) 301 0xFF (stepDet d.clock.tc t.tc)
  refine ⟨congrArg (·.tc) clock, rfl, rfl, fun c => ?_⟩
  have same : (d.stepTo t).cores = (d.shiftTimes d.clock.tc.toNat t.tc.toNat).cores := cores
  rw [same]
  exact d.shiftTimes_cores _ _ c

/-! ### The bodies of time flits (R347) -/

theorem slice_all (b : Bytes) {n : Nat} (h : b.length ≤ n) : slice b 0 n = b ++ List.replicate (n - b.length) 0 := by
  rw [slice, List.drop_zero, List.take_of_length_le h]

/-- A time flit names its kind and its exchange. -/
theorem timeFlit_fields (tk : Nat) (small : tk < 256) (trt : Bool) (tex : BitVec 16) (tts : BitVec 72) (hops : BitVec 8) :
    let f := mgmtFlit 5 0 (timeBody tk trt tex tts hops)
    leAt f.body 0 1 = tk ∧ BitVec.ofNat 16 (leAt f.body 2 2) = tex := by
  have body : (mgmtFlit 5 0 (timeBody tk trt tex tts hops)).body = timeBody tk trt tex tts hops ++ List.replicate 210 0 := by
    refine (slice_all _ (by simp [timeBody])).trans ?_
    simp [timeBody]
  dsimp only
  rw [body]
  unfold timeBody
  simp (disch := simp) only [List.append_assoc, leAt_after, leBytes_length, Nat.reduceSub]
  refine ⟨leAt_field _ (by simpa using small), ?_⟩
  rw [leAt_field _ (show tex.toNat < 256 ^ 2 from tex.isLt), BitVec.ofNat_toNat, BitVec.setWidth_eq]

/-- The flag of a replay stands in the second byte. -/
theorem timeFlit_replayed (tk : Nat) (tex : BitVec 16) (tts : BitVec 72) (hops : BitVec 8) :
    let f := mgmtFlit 5 0 (timeBody tk false tex tts hops)
    ({ f with body := f.body.take 1 ++ [1] ++ f.body.drop 2 } : Flit) = mgmtFlit 5 0 (timeBody tk true tex tts hops) := by
  have body (trt : Bool) : (mgmtFlit 5 0 (timeBody tk trt tex tts hops)).body
      = BitVec.ofNat 8 tk :: BitVec.ofNat 8 (b2n trt)
        :: (leBytes 2 tex.toNat ++ leBytes 9 tts.toNat ++ leBytes 1 hops.toNat ++ List.replicate 210 0) := by
    refine (slice_all _ (by simp [timeBody])).trans ?_
    simp [timeBody, leBytes]
  have rest (trt : Bool) (b : Bytes) : ({ mgmtFlit 5 0 (timeBody tk trt tex tts hops) with body := b } : Flit)
      = { mgmtFlit 5 0 (timeBody tk true tex tts hops) with body := b } := by
    have length : (timeBody tk trt tex tts hops).length = (timeBody tk true tex tts hops).length := by simp [timeBody]
    simp only [mgmtFlit, mkFlit, length]
  intro f
  rw [show f.body = _ from body false]
  refine (rest false _).trans ?_
  have same := body true
  exact congrArg (fun b => ({ mgmtFlit 5 0 (timeBody tk true tex tts hops) with body := b } : Flit)) same.symm

section
variable {p : PortIx} {e : Exchange}

/-- A sync flit that leaves gives t1, which its follow-up carries. -/
theorem State.timeLeaves_sync (s : State) (hops : BitVec 8) (h : s.ports[p].ex = some e) :
    let f := mgmtFlit 5 0 (timeBody 1 false e.tex 0 hops)
    s.timeLeaves p f = ((s.modPort p fun x => { x with ex := some { e with t1 := some (s.stamp s.frac8) } }).sendTime p
      (timeBody 2 false e.tex (s.stamp s.frac8) s.hub.time.hops), f) := by
  obtain ⟨kind, exchange⟩ := timeFlit_fields 1 (by decide) false e.tex 0 hops
  intro f
  unfold State.timeLeaves
  rw [h, show leAt f.body 0 1 = _ from kind, show BitVec.ofNat 16 (leAt f.body 2 2) = e.tex from exchange]
  exact if_neg (not_not.mpr rfl)

/-- A delay request that leaves gives t3. -/
theorem State.timeLeaves_request (s : State) (hops : BitVec 8) (h : s.ports[p].ex = some e) :
    let f := mgmtFlit 5 0 (timeBody 3 false e.tex 0 hops)
    s.timeLeaves p f = (s.modPort p (fun x => { x with ex := some { e with t3 := some (s.stamp s.frac8) } }), f) := by
  obtain ⟨kind, exchange⟩ := timeFlit_fields 3 (by decide) false e.tex 0 hops
  intro f
  unfold State.timeLeaves
  rw [h, show leAt f.body 0 1 = _ from kind, show BitVec.ofNat 16 (leAt f.body 2 2) = e.tex from exchange]
  exact if_neg (not_not.mpr rfl)

/-- A follow-up says whether a flit of the exchange was replayed. -/
theorem State.timeLeaves_followUp (s : State) (t1 : BitVec 72) (hops : BitVec 8) (h : s.ports[p].ex = some e) :
    s.timeLeaves p (mgmtFlit 5 0 (timeBody 2 false e.tex t1 hops)) = (s, mgmtFlit 5 0 (timeBody 2 e.bad e.tex t1 hops)) := by
  obtain ⟨kind, exchange⟩ := timeFlit_fields 2 (by decide) false e.tex t1 hops
  unfold State.timeLeaves
  rw [h, kind, exchange]
  refine (if_neg (not_not.mpr rfl)).trans (congrArg (s, ·) ?_)
  cases e.bad
  · rfl
  · exact timeFlit_replayed 2 e.tex t1 hops

end

/-! ### The alignment state and an offset that applies (R303, R304) -/

theorem Hub.setAlign_align (h : Hub) (st : BitVec 8) : (h.setAlign st).time = { h.time with align := st } := by
  unfold Hub.setAlign
  split
  next same => rw [← same]
  next => rfl

theorem clampRho_natAbs (x : Int) : (clampRho x).natAbs ≤ 250000 := by
  unfold clampRho rhoLimit
  omega

/-- The dies follow a change of the rate in their rate alone. -/
theorem State.followRho_die (s : State) (rho : Int) (m : DieIx) :
    (s.followRho rho).dies[m] = { s.dies[m] with clock := { s.dies[m].clock with rho := (s.followRho rho).dies[m].clock.rho } } := by
  have die : (s.followRho rho).dies[m] = if s.dies[m].pow.vcoreOn && s.dies[m].pow.lane && s.dies[m].clock.aligned then
        { s.dies[m] with clock := { s.dies[m].clock with rho := clampRho (rho + (s.dies[m].clock.rho - s.hub.time.rho)) } }
      else s.dies[m] := Vector.getElem_map ..
  rw [die]
  split <;> rfl

/-- The hub die's time with an offset applied, before the alignment state. -/
def HubTime.applied (t : HubTime) (step : Bool) (o : Int) (hops : BitVec 8) : HubTime :=
  let new : U64 := if step then BitVec.ofInt 64 ((t.tc.toNat : Int) - o / 256) else t.tc
  { t with
    offset := offsetEntry o, tc := new, rho := if step then t.rho else rhoFor o
    good := if o.natAbs ≤ nearOffset then t.good + 1 else 0, lastEx := t.wall
    nextTick := if step then firstTick new.toNat t.inForce.toNat else t.nextTick
    hops := if hops = 0xFF then 0xFF else hops + 1 }

/-- An offset above 1 µs leaves the module Acquiring; the fourth good one in a row finds it Aligned. -/
theorem State.applyOffset_time (s : State) (o : Int) (hops : BitVec 8) :
    let x := s.hub.time.applied (decide (farOffset < o.natAbs) && s.mayStep) o hops
    (s.applyOffset o hops).hub.time
      = { x with align := if farOffset < o.natAbs then 1 else if 4 ≤ x.good then 2 else x.align } := by
  intro x
  let step := decide (farOffset < o.natAbs) && s.mayStep
  let h : Hub := { s.hub with time := x }
  let g : Hub := if step then h.event 2 0x0E 0 301 0xFF (stepDet s.hub.time.tc x.tc) else h
  have whole : (s.applyOffset o hops).hub = if farOffset < o.natAbs then g.setAlign 1 else if 4 ≤ x.good then g.setAlign 2 else g := rfl
  have time : g.time = x := by
    dsimp only [g]
    split <;> rfl
  rw [whole]
  by_cases far : farOffset < o.natAbs
  · rw [if_pos far, if_pos far, Hub.setAlign_align, time]
  · rw [if_neg far, if_neg far]
    by_cases good : 4 ≤ x.good
    · rw [if_pos good, if_pos good, Hub.setAlign_align, time]
    · rw [if_neg good, if_neg good, time]

/-- The rest of a module that an offset applies to: the dies follow the rate. -/
theorem State.applyOffset_ports (s : State) (o : Int) (hops : BitVec 8) :
    (s.applyOffset o hops).ports = s.ports ∧ ∃ rho, (s.applyOffset o hops).dies = (s.followRho rho).dies := ⟨rfl, _, rfl⟩

/-! ### The statement -/

/-- Settles O36: a die's exchange by `stepTo_facts`, time flits by `timeFlit_fields` and `timeFlit_replayed`, and an offset by
`applyOffset_time`. -/
theorem timeExchanges : Obligations.TimeExchanges := by
  unfold Obligations.TimeExchanges
  intro s n p e t1 t2 t3 t4 trt frac hops x h o
  refine ⟨fun on lane => ?_, fun talks due other => ?_, fun ex => ?_, fun talks => ?_, fun talks ex at2 => ?_, fun talks ex => ?_, fun ex => ?_,
    fun aligned late => ?_⟩
  · have awake : ¬ (!s.dies[n].pow.vcoreOn || !s.dies[n].pow.lane) = true := by
      rw [show s.dies[n].pow.vcoreOn = true from on, show s.dies[n].pow.lane = true from lane]
      exact Bool.false_ne_true
    have align : s.dieAlign n = _ := if_neg awake
    by_cases far : (s.mayStep && decide (farOffset < (s.dieOffset n).natAbs)) = true
    · rw [if_pos far] at align
      simp only [Bool.and_eq_true, decide_eq_true_eq] at far
      obtain ⟨tc, rho, met, kept⟩ := s.dies[n].stepTo_facts s.hub.time
      rw [← s.modDie_die n fun d => d.stepTo s.hub.time] at tc rho met kept
      refine ⟨_, congrArg Host.Outcome.next align, onlyDie_modDie s n _, iff_of_true met (.inr (.inr far)), fun _ _ => ⟨tc, rho⟩,
        fun still => ?_, kept⟩
      obtain still | near := still
      · exact absurd (still.symm.trans far.1) Bool.false_ne_true
      · exact absurd far.2 (Nat.not_lt.mpr near)
    · have die := s.modDie_die n fun d => { d with clock := { d.clock with
        rho := clampRho (s.hub.time.rho + s.dieOffset n * 125 / 8)
        aligned := d.clock.aligned || decide ((s.dieOffset n).natAbs ≤ boundOffset) } }
      have align : s.dieAlign n = s.modDie n fun d => { d with clock := { d.clock with
        rho := clampRho (s.hub.time.rho + s.dieOffset n * 125 / 8)
        aligned := d.clock.aligned || decide ((s.dieOffset n).natAbs ≤ boundOffset) } } := align.trans (if_neg far)
      simp only [Bool.and_eq_true, decide_eq_true_eq] at far
      have found := congrArg (·.clock.aligned) die
      refine ⟨_, congrArg Host.Outcome.next align, onlyDie_modDie s n _, ?_, fun step beyond => absurd ⟨step, beyond⟩ far, fun _ => ?_, fun c => ?_⟩
      · refine (iff_of_eq (congrArg (· = true) found)).trans ?_
        simp only [Bool.or_eq_true, decide_eq_true_eq]
        exact or_congr Iff.rfl ⟨.inl, fun some => some.resolve_right far⟩
      · exact ⟨congrArg (·.clock.tc) die, congrArg (·.cores) die, congrArg (·.clock.rho) die⟩
      · rw [die]
        exact ⟨rfl, rfl⟩
  · have start : s.exchangeStart p = _ := if_pos (by
      simp only [Bool.and_eq_true, Bool.or_eq_true, decide_eq_true_eq]
      exact ⟨⟨talks, due⟩, other⟩)
    let u := s.modHub (fun h => { h with time := { h.time with exNum := h.time.exNum + 1 } })
    have sent := u.modPort_modPort p
      (fun x => { x with exAt := s.now, ex := some { tex := h.exNum, t1 := none, t2 := none, t3 := none, bad := false } })
      (fun x => { x with link := { x.link with outq := x.link.outq ++ [mgmtFlit 5 0 (timeBody 1 false h.exNum 0 h.hops)] } })
    have whole : s.exchangeStart p = _ := start.trans sent
    exact ⟨_, congrArg Host.Outcome.next whole, rfl, fun q hq => u.modPort_other p q _ hq, rfl, u.modPort_same p _⟩
  · exact ⟨(s.timeLeaves_sync hops ex).trans (congrArg (·, mgmtFlit 5 0 (timeBody 1 false e.tex 0 hops)) (s.modPort_modPort p _ _)),
      s.timeLeaves_request hops ex, s.timeLeaves_followUp t1 hops ex⟩
  · have sync : s.timeSync p e.tex frac = _ := if_pos talks
    exact ⟨_, congrArg Host.Outcome.next sync, onlyPort_modPort s p _, s.modPort_same p _⟩
  · have sent := s.modPort_modPort p
      (fun x => { x with ex := some { e with t1 := some t1, bad := e.bad || trt || x.link.await } })
      (fun x => { x with link := { x.link with outq := x.link.outq ++ [mgmtFlit 5 0 (timeBody 3 false e.tex 0 h.hops)] } })
    refine ⟨_, congrArg Host.Outcome.next (Eq.trans ?_ sent), onlyPort_modPort s p _, s.modPort_same p _⟩
    unfold State.timeFollowUp
    rw [show s.ports[p].ex = some e from ex]
    refine if_pos ?_
    simp only [at2, Option.isSome_some, decide_true, Bool.and_self, Bool.true_and]
    exact talks
  · refine ⟨s.sendTime p (timeBody 4 e.bad e.tex (s.stamp frac) h.hops), congrArg Host.Outcome.next ?_, onlyPort_modPort s p _,
      s.modPort_same p _⟩
    unfold State.timeDelayRequest
    rw [show s.ports[p].ex = some e from ex]
    refine if_pos ?_
    simp only [decide_true, Bool.true_and]
    exact talks
  · let u := s.modPort p (fun x => { x with ex := none })
    have response : s.timeResponse p e.tex t4 trt hops = if e.bad || trt || s.ports[p].link.await || s.hub.time.upstream.toNat ≠ p.val then u
        else u.applyOffset (exchangeOffset t1 t2 t3 t4) hops := by
      unfold State.timeResponse
      rw [show s.ports[p].ex = _ from ex]
      exact if_pos rfl
    have port : u.ports[p] = _ := s.modPort_same p _
    have others : ∀ q, q ≠ p → u.ports[q] = s.ports[q] := fun q hq => s.modPort_other p q _ hq
    by_cases spoilt : (e.bad || trt || s.ports[p].link.await || s.hub.time.upstream.toNat ≠ p.val) = true
    · rw [if_pos spoilt] at response
      refine ⟨_, congrArg Host.Outcome.next response, port, fun _ => rfl, others, fun _ => ⟨rfl, rfl⟩, fun sound fresh quiet up => ?_⟩
      simp only [sound, fresh, show s.ports[p].link.await = false from quiet, show s.hub.time.upstream.toNat = p.val from up, ne_eq,
        not_true_eq_false, decide_false, Bool.or_self, Bool.false_eq_true] at spoilt
    · rw [if_neg spoilt] at response
      have time := u.applyOffset_time (exchangeOffset t1 t2 t3 t4) hops
      obtain ⟨ports, rho, dies⟩ := u.applyOffset_ports (exchangeOffset t1 t2 t3 t4) hops
      refine ⟨_, congrArg Host.Outcome.next response, ?_, fun m => ?_, fun q hq => ?_, fun bad => absurd ?_ spoilt, fun _ _ _ _ => ?_⟩
      · rw [ports]
        exact port
      · rw [dies]
        exact u.followRho_die rho m
      · rw [ports]
        exact others q hq
      · simp only [Bool.or_eq_true, decide_eq_true_eq]
        tauto
      · have steps : u.mayStep = s.mayStep := rfl
        rw [time, steps]
        refine ⟨rfl, rfl, fun far => if_pos far, fun still => ?_, fun far may => ?_, fun near => ⟨if_pos near, fun three => ?_⟩, fun far => ?_⟩
        · have stays : (decide (farOffset < (exchangeOffset t1 t2 t3 t4).natAbs) && s.mayStep) = false := by
            obtain near | plans := still
            · rw [decide_eq_false (show ¬ farOffset < (exchangeOffset t1 t2 t3 t4).natAbs from Nat.not_lt.mpr near), Bool.false_and]
            · rw [plans, Bool.and_false]
          rw [stays]
          exact ⟨rfl, clampRho_natAbs _⟩
        · have moves : (decide (farOffset < (exchangeOffset t1 t2 t3 t4).natAbs) && s.mayStep) = true := by
            rw [decide_eq_true (show farOffset < (exchangeOffset t1 t2 t3 t4).natAbs from far), may]
            rfl
          rw [moves]
          rfl
        · refine (if_neg ?_).trans (if_pos ?_)
          · exact Nat.not_lt.mpr (Nat.le_trans near (by decide))
          · exact Nat.le_trans (Nat.succ_le_succ three) (Nat.le_of_eq (if_pos near).symm)
        · exact if_neg (Nat.not_le.mpr far)
  · have held : s.holdover = s.modHub (fun h => h.setAlign 3) := if_pos (by
      simp only [Bool.and_eq_true, Bool.or_eq_true, decide_eq_true_eq]
      exact ⟨aligned, late⟩)
    refine ⟨_, congrArg Host.Outcome.next held, ?_, s.hub.setAlign_align 3⟩
    rfl

end Sys2Proof.Machine

/-! # Bring up proceeds (O48) -/

namespace Sys2Proof.Machine

/-! ### A die whose DRAM trains (R248, R442) -/

/-- From s to t one die has changed, but not the state of its power, and the ports and the time have not. -/
structure DieSetUp (n : DieIx) (s t : State) : Prop where
  ports : t.ports = s.ports
  now : t.now = s.now
  others : ∀ m : DieIx, m ≠ n → t.dies[m] = s.dies[m]
  pow : t.dies[n].pow = s.dies[n].pow

section
variable {n : DieIx} {s t u : State}

theorem DieSetUp.refl (n : DieIx) (s : State) : DieSetUp n s s := ⟨rfl, rfl, fun _ _ => rfl, rfl⟩

theorem DieSetUp.trans (h : DieSetUp n s t) (g : DieSetUp n t u) : DieSetUp n s u :=
  ⟨g.ports.trans h.ports, g.now.trans h.now, fun m hm => (g.others m hm).trans (h.others m hm), g.pow.trans h.pow⟩

theorem dieSetUp_modDie (s : State) (n : DieIx) {f : Die → Die} (h : (f s.dies[n]).pow = s.dies[n].pow) : DieSetUp n s (s.modDie n f) :=
  ⟨rfl, rfl, fun m hm => s.modDie_other n m f hm, (congrArg Die.pow (s.modDie_die n f)).trans h⟩

theorem dieSetUp_loadRepair (s : State) (n : DieIx) : DieSetUp n s (s.loadRepair n) := by
  have entry (s : State) (e : BitVec 32) : DieSetUp n s
      (let taken := s.dies[n].repair.any (fun x => entryChan x = entryChan e && entryBank x = entryBank e && entrySpare x = entrySpare e)
       if !bit e 31 then s
       else if taken then
         s.modHub (fun h => h.event 3 0x08 (unitIx n.val (entryChan e / 16) (entryChan e % 16)) 248 0xFF [])
       else s.modDie n (fun d => { d with repair := d.repair ++ [e] })) := by
    dsimp only
    split
    · exact .refl n s
    · split
      · exact ⟨rfl, rfl, fun _ _ => rfl, rfl⟩
      · exact dieSetUp_modDie s n rfl
  have entries (l : List (BitVec 32)) (s : State) : DieSetUp n s (l.foldl (fun s e =>
      let taken := s.dies[n].repair.any (fun x => entryChan x = entryChan e && entryBank x = entryBank e && entrySpare x = entrySpare e)
      if !bit e 31 then s
      else if taken then
        s.modHub (fun h => h.event 3 0x08 (unitIx n.val (entryChan e / 16) (entryChan e % 16)) 248 0xFF [])
      else s.modDie n (fun d => { d with repair := d.repair ++ [e] })) s) := by
    induction l generalizing s with
    | nil => exact .refl n s
    | cons e l ih => exact (entry s e).trans (ih _)
  exact (dieSetUp_modDie s n rfl).trans (entries (s.hub.repair[n]) _)

theorem dieSetUp_dieAlign (s : State) (n : DieIx) : DieSetUp n s (s.dieAlign n) := by
  unfold State.dieAlign
  dsimp only
  split
  · exact .refl n s
  · split
    · exact dieSetUp_modDie s n (s.dies[n].stepTo_kept s.hub.time).1
    · exact dieSetUp_modDie s n rfl

/-- Every channel of the die is in a round. -/
theorem Die.roundAll_round (d : Die) (c : CoreIx) (j : Fin 16) :
    (((d.roundAll).cores[c]).vault.chans[j]).round = some ⟨.outside, d.clock.tc.toNat, d.clock.tcFrac⟩ := by
  simp [Die.roundAll]

/-- A die that forwards only keeps the result of its bring-up. -/
theorem Die.passThrough_result (now : Nat) (d : Die) : (d.passThrough now).pow.result = d.pow.result := by
  unfold Die.passThrough Die.endPlan
  dsimp only
  split <;> rfl

end

/-! ### The steps of bring-up (R442) -/

theorem OnlyHub.rest {s t : State} (h : OnlyHub s t) : t.dies = s.dies ∧ t.ports = s.ports := ⟨congrArg (·.dies) h, congrArg (·.ports) h⟩

theorem OnlyHub.before {s t : State} {f : Hub → Hub} (h : OnlyHub (s.modHub f) t) : OnlyHub s t := by
  have kept := congrArg (fun u : State => { u with hub := s.hub }) h
  exact kept

/-- The beginning of a step before a request for Off is taken. -/
def Hub.stepped (h : Hub) (k : BitVec 8) : Hub :=
  Hub.event { h with bring := { h.bring with step := k, stepAt := h.time.wall, late8 := h.bring.late8 && k ≠ 8 } } 2 0x0E 0 442 0xFF []

theorem Hub.stepped_facts (h : Hub) (k : BitVec 8) :
    (h.stepped k).bring.step = k ∧ (h.stepped k).bring.attested = h.bring.attested ∧ (h.stepped k).power = h.power := ⟨rfl, rfl, rfl⟩

section
variable {s : State}

theorem State.setStep_plain (k : BitVec 8) (h : s.hub.power.wantOff = false) : s.setStep k = s.modHub (·.stepped k) :=
  if_neg (show ¬ s.hub.power.wantOff = true by rw [h]; exact Bool.false_ne_true)

theorem State.setStep_off (k : BitVec 8) (h : s.hub.power.wantOff = true) : s.setStep k = (s.modHub (·.stepped k)).takeOff :=
  if_pos (show s.hub.power.wantOff = true from h)

/-- A step's beginning is the hub die's; whatever waits, it is that step, and what is measured stays. -/
theorem State.setStep_facts (s : State) (k : BitVec 8) :
    OnlyHub s (s.setStep k) ∧ (s.setStep k).hub.bring.step = k ∧ (s.setStep k).hub.sec = s.hub.sec := by
  cases off : s.hub.power.wantOff with
  | false =>
    rw [State.setStep_plain k off]
    exact ⟨rfl, rfl, rfl⟩
  | true =>
    rw [State.setStep_off k off]
    exact ⟨rfl, rfl, rfl⟩

end

/-! ### Link ends wake (R442) -/

section
variable {s : State} {e x : LinkEnd}

theorem State.modLink_self (s : State) (e : LinkEnd) : s.modLink e id = s := by
  cases e with
  | port p => exact congrArg (fun v => { s with ports := v }) (vupd_eq_self s.ports p (fun y => { y with link := id y.link }) rfl)
  | pkg n a =>
    refine s.modDie_self n _ ?_
    exact congrArg (fun v => { s.dies[n] with pkg := v }) (vupd_eq_self s.dies[n].pkg a id rfl)

theorem State.link_modLink_other (s : State) {e x : LinkEnd} (h : x ≠ e) (f : Link → Link) : (s.modLink e f).link x = s.link x := by
  cases e with
  | port p =>
    cases x with
    | port q => exact congrArg Port.link (s.modPort_other p q _ fun same => h (congrArg LinkEnd.port same))
    | pkg m b => rfl
  | pkg n a =>
    cases x with
    | port q => rfl
    | pkg m b =>
      by_cases same : m = n
      · subst same
        refine (congrArg (fun d : Die => d.pkg[b]) (s.modDie_die m _)).trans ?_
        exact (vupd_get _ a b f).trans (if_neg fun same => h (congrArg (LinkEnd.pkg m) same))
      · exact congrArg (fun d : Die => d.pkg[b]) (s.modDie_other n m _ same)

/-- A port that was commanded Disabled. -/
def State.heldOff (s : State) : LinkEnd → Bool
  | .port p => s.ports[p].cmd = 1
  | .pkg _ _ => false

/-- The state of a link end that wakes. -/
def State.wakes (s : State) (e : LinkEnd) : LinkState :=
  if (s.link e).st = .unused ∧ s.endUsed e = true then (if s.heldOff e = true then .disabled else .down) else (s.link e).st

/-- An end that wakes changes its link alone. -/
theorem State.wakeEnd_modLink (s : State) (e : LinkEnd) : ∃ f : Link → Link, s.wakeEnd e = s.modLink e f ∧ (f (s.link e)).st = s.wakes e := by
  by_cases unused : (s.link e).st = .unused
  · by_cases used : s.endUsed e = true
    · refine ⟨fun l => { l with st := if s.heldOff e then .disabled else .down, retryAt := s.now, failed := 0 }, ?_, ?_⟩
      · unfold State.wakeEnd
        rw [unused]
        dsimp only
        rw [if_neg (by rw [used]; exact Bool.false_ne_true)]
        cases e <;> rfl
      · exact (if_pos ⟨unused, used⟩).symm
    · refine ⟨id, ?_, (if_neg fun h => used h.2).symm⟩
      unfold State.wakeEnd
      rw [unused, s.modLink_self]
      exact if_pos (by rw [eq_false_of_ne_true used]; rfl)
  · have kept : s.wakes e = (s.link e).st := if_neg fun h => unused h.1
    by_cases down : (s.link e).st = .down
    · refine ⟨fun l => { l with retryAt := s.now, failed := 0 }, ?_, kept.symm⟩
      unfold State.wakeEnd
      rw [down]
    · refine ⟨id, ?_, kept.symm⟩
      rw [s.modLink_self]
      unfold State.wakeEnd
      dsimp only
      split
      next now => exact absurd now unused
      next now => exact absurd now down
      next => rfl

/-- What the waking of an end depends on stays when a link changes. -/
theorem State.wakes_modLink (s : State) {e x : LinkEnd} (f : Link → Link) (h : ((s.modLink e f).link x).st = (s.link x).st) :
    (s.modLink e f).wakes x = s.wakes x := by
  have used : (s.modLink e f).endUsed x = s.endUsed x := by
    have hub := s.modLink_hub e f
    cases x with
    | port q =>
      have host : (s.modLink e f).hostEnd = s.hostEnd := State.hostEnd_congr (congrArg (·.dict.hostPort) hub)
      simp only [State.endUsed, State.portUsed, host, hub]
    | pkg m b => rfl
  have off : (s.modLink e f).heldOff x = s.heldOff x := by
    cases x with
    | port q =>
      have cmd : (s.modLink e f).ports[q].cmd = s.ports[q].cmd := by
        cases e with
        | port p =>
          refine (congrArg Port.cmd (vupd_get s.ports p q _)).trans ?_
          split
          next same => rw [same]
          next => rfl
        | pkg n a => rfl
      simp only [State.heldOff, cmd]
    | pkg m b => rfl
  unfold State.wakes
  rw [used, off, h]

/-- An end that has been woken wakes no further. -/
theorem State.wakes_again (s : State) (e : LinkEnd) : (s.wakeEnd e).wakes e = s.wakes e ∧ ((s.wakeEnd e).link e).st = s.wakes e := by
  obtain ⟨f, whole, st⟩ := s.wakeEnd_modLink e
  have woken : ((s.wakeEnd e).link e).st = s.wakes e := by
    rw [whole, s.link_modLink_same]
    exact st
  refine ⟨?_, woken⟩
  by_cases same : s.wakes e = (s.link e).st
  · rw [whole] at woken ⊢
    exact s.wakes_modLink f (woken.trans same)
  · have other : s.wakes e ≠ .unused := by
      unfold State.wakes at same ⊢
      split
      · split <;> exact fun h => nomatch h
      next h => exact absurd (if_neg h) same
    rw [State.wakes, if_neg fun h => other (woken.symm.trans h.1)]
    exact woken

/-- Among the ends that wake, each takes its own state. -/
theorem State.foldl_wakeEnd_st (l : List LinkEnd) (s : State) (x : LinkEnd) :
    ((l.foldl State.wakeEnd s).link x).st = if x ∈ l then s.wakes x else (s.link x).st := by
  induction l generalizing s with
  | nil => rfl
  | cons e l ih =>
    rw [List.foldl_cons, ih]
    by_cases same : x = e
    · subst same
      obtain ⟨again, st⟩ := s.wakes_again x
      rw [again, st, ite_self, if_pos List.mem_cons_self]
    · obtain ⟨f, whole, -⟩ := s.wakeEnd_modLink e
      have kept : (s.wakeEnd e).link x = s.link x := whole ▸ s.link_modLink_other same f
      have wakes : (s.wakeEnd e).wakes x = s.wakes x := by
        rw [whole] at kept ⊢
        exact s.wakes_modLink f (congrArg Link.st kept)
      rw [kept, wakes]
      simp only [List.mem_cons, same, false_or]

/-- Of the dies they leave the cores and the routers. -/
theorem State.foldl_wakeEnd_dies (l : List LinkEnd) (s : State) (m : DieIx) :
    (l.foldl State.wakeEnd s).dies[m].cores = s.dies[m].cores ∧ (l.foldl State.wakeEnd s).dies[m].router = s.dies[m].router := by
  induction l generalizing s with
  | nil => exact ⟨rfl, rfl⟩
  | cons e l ih =>
    obtain ⟨f, whole, -⟩ := s.wakeEnd_modLink e
    obtain ⟨k, die⟩ := s.modLink_die e f m
    obtain ⟨cores, router⟩ := ih (s.wakeEnd e)
    rw [List.foldl_cons, cores, router, whole, die]
    exact ⟨rfl, rfl⟩

theorem mem_allEnds (e : LinkEnd) : e ∈ allEnds := by
  cases e with
  | port p => exact List.mem_append_left _ (List.mem_map_of_mem (List.mem_finRange p))
  | pkg n a =>
    exact List.mem_append_right _ (List.mem_flatMap.mpr ⟨n, List.mem_finRange n, List.mem_map_of_mem (List.mem_finRange a)⟩)

end

/-! ### The end of step 8 (R443, R448) -/

/-- A request for Off that is taken clears the attestation, and asks for the transition. -/
theorem State.takeOff_facts (s : State) :
    s.takeOff.ports = s.ports ∧ s.takeOff.dies = s.dies ∧ s.takeOff.hub.bring.step = s.hub.bring.step ∧ s.takeOff.hub.bring.attested = false
      ∧ s.takeOff.hub.power.state = s.hub.power.state ∧ s.takeOff.goingOff = true := by
  unfold State.takeOff
  generalize s.offSteps = steps
  exact ⟨rfl, rfl, rfl, rfl, rfl, rfl⟩

section
variable {s : State}

/-- A step 8 that lasts is noted, and nothing else of what the end of the step looks at. -/
def State.noted (s : State) : State :=
  if decide (s.hub.bring.stepAt + secCounts 10 ≤ s.now) && !(s.hub.time.align = 2 || s.isRoot) && !s.hub.bring.late8 then
    s.modHub (fun h => Hub.event { h with bring := { h.bring with late8 := true } } 3 0x0E 0 443 0xFF [])
  else s

theorem State.noted_eq (s : State) : ∃ late q, s.noted = s.modHub (fun h => { h with bring := { h.bring with late8 := late }, rec_ := q })
    ∧ (s.hub.bring.late8 = true → late = true) := by
  unfold State.noted
  split
  · exact ⟨true, _, rfl, fun _ => rfl⟩
  · exact ⟨_, _, rfl, id⟩

/-- The module joins, in the state requested. -/
def Hub.joined (h : Hub) : Hub :=
  { h with
    bring := { h.bring with attested := true, ready := if h.bring.ready = 0 then BitVec.ofNat 32 ((h.time.wall - h.bring.started) / msCounts 1) else h.bring.ready }
    power := { h.power with state := if h.power.request = 3 then 3 else 4 } }

theorem Hub.joined_attested (h : Hub) : h.joined.bring.attested = true := rfl

theorem State.gateIf_rest (s : State) (c : Prop) [Decidable c] :
    (if c then s.gateDies true else s).hub = s.hub ∧ (if c then s.gateDies true else s).ports = s.ports
      ∧ ∀ m : DieIx, (if c then s.gateDies true else s).dies[m] = if c then s.dies[m].told true else s.dies[m] := by
  by_cases h : c
  · rw [if_pos h]
    exact ⟨rfl, rfl, fun m => (s.gateDies_die true m).trans (if_pos h).symm⟩
  · rw [if_neg h]
    exact ⟨rfl, rfl, fun m => (if_neg h).symm⟩

/-- Where the conditions hold and the gate is open, step 8 ends. -/
theorem State.attestation_ends (bringing : s.bringing = true) (step : s.hub.bring.step = 8) (holds : s.attestHolds = true)
    (gate : s.hub.bring.gate = 0 ∨ s.hub.bring.released = true ∨ s.hub.bring.offSeen = true) :
    s.attestation = if (s.noted.setStep 9).goingOff then s.noted.setStep 9
      else
        let t := (s.noted.setStep 9).modHub Hub.joined
        (if t.hub.power.state = 3 then t.gateDies true else t).setStep 10 := by
  obtain ⟨late, q, noted, kept⟩ := s.noted_eq
  have still : s.noted.attestHolds = true := by
    rw [noted]
    simp only [State.attestHolds, Bool.and_eq_true, Bool.or_eq_true, decide_eq_true_eq] at holds ⊢
    exact ⟨holds.1, holds.2.imp_right kept⟩
  have opened : (s.noted.attestHolds && (s.hub.bring.gate = 0 || s.hub.bring.released || s.hub.bring.offSeen)) = true := by
    simp only [still, Bool.true_and, Bool.or_eq_true, decide_eq_true_eq]
    exact or_assoc.mpr gate
  unfold State.attestation
  dsimp only
  rw [if_pos (by rw [bringing, step]; rfl)]
  exact if_pos opened

end

/-! ### The statement -/

/-- Settles O48: a die by `dieSetUp_dieAlign` and `roundAll_round`, the link ends by `foldl_wakeEnd_st`, and the end of step 8 by
`attestation_ends`. -/
theorem bringUpProceeds : Obligations.BringUpProceeds := by
  unfold Obligations.BringUpProceeds
  intro s n h
  refine ⟨fun due => ⟨?_, ?_⟩, fun none => congrArg Host.Outcome.next (if_neg ?_), fun bringing step results => ?_, fun bringing step settled => ?_,
    fun bringing step known => ?_, fun bringing step holds gate => ⟨fun off => ?_, fun off => ?_⟩⟩
  · let trained := s.modDie n (fun d => { d with pow := { d.pow with trained := true } })
    let u := (trained.loadRepair n).dieAlign n
    have whole : s.dramTraining n true = u.modDie n (fun d => d.roundAll.startClear u.now) := (if_pos due).trans (if_pos rfl)
    have setUp := (dieSetUp_loadRepair trained n).trans (dieSetUp_dieAlign _ n)
    have others : ∀ m, m ≠ n → trained.dies[m] = s.dies[m] := fun m hm => s.modDie_other n m _ hm
    have pow : u.dies[n].pow.trained = true := by
      rw [setUp.pow, show trained.dies[n] = _ from s.modDie_die n _]
    have die := u.modDie_die n fun d => d.roundAll.startClear u.now
    refine ⟨_, congrArg Host.Outcome.next whole, setUp.ports, fun m hm => ?_, ?_, ?_, ?_, fun c j => ?_⟩
    · exact (u.modDie_other n m _ hm).trans ((setUp.others m hm).trans (others m hm))
    · rw [die]
      exact pow
    · rw [die]
      rfl
    · rw [die]
      exact setUp.now
    · rw [die]
      have round := u.dies[n].roundAll_round c j
      exact fun none => nomatch round.symm.trans none
  · let failed (d : Die) : Die := { d with pow := { d.pow with result := .dramFailed } }
    have whole : s.dramTraining n false = (s.modDie n fun d => (failed d).passThrough s.now).modHub
        (fun h => h.event 4 0x0E (unitIx n.val 0 0) 444 0xFF []) := (if_pos due).trans (if_neg Bool.false_ne_true)
    have die := s.modDie_die n fun d => (failed d).passThrough s.now
    obtain ⟨plan, pthru, -, -⟩ := (failed s.dies[n]).passThrough_facts s.now
    refine ⟨_, congrArg Host.Outcome.next whole, rfl, fun m hm => s.modDie_other n m _ hm, ?_⟩
    rw [show ((s.modDie n _).modHub _).dies[n] = _ from die]
    exact ⟨(failed s.dies[n]).passThrough_result s.now, pthru, plan⟩
  · rw [none]
    exact Bool.false_ne_true
  · have all : s.dies.toList.all (fun d => d.pow.result ≠ .notUp) = true :=
      List.all_eq_true.mpr fun d hd => decide_eq_true (results d hd)
    have whole : s.linkStep = (allEnds.foldl State.wakeEnd s).setStep 6 := by
      unfold State.linkStep
      rw [if_neg (by rw [bringing]; exact Bool.false_ne_true)]
      exact (if_pos step).trans (if_pos all)
    have st (x : LinkEnd) := (State.foldl_wakeEnd_st allEnds s x).trans (if_pos (mem_allEnds x))
    have kept := State.foldl_wakeEnd_dies allEnds s
    generalize allEnds.foldl State.wakeEnd s = u at whole st kept
    obtain ⟨only, at6, -⟩ := u.setStep_facts 6
    obtain ⟨dies, ports⟩ := only.rest
    refine ⟨_, congrArg Host.Outcome.next whole, at6, fun m => ?_, fun m a unused => ?_, fun p unused => ?_⟩
    · rw [dies]
      exact kept m
    · rw [dies]
      refine (st (.pkg m a)).trans ?_
      exact (if_pos ⟨unused, rfl⟩).trans (if_neg Bool.false_ne_true)
    · rw [ports]
      refine (st (.port p)).trans ?_
      by_cases used : s.portUsed p = true
      · refine (if_pos ⟨unused, used⟩).trans ?_
        rw [if_pos used]
        exact if_congr decide_eq_true_iff rfl rfl
      · rw [if_neg used]
        exact (if_neg fun h => used h.2).trans unused
  · have whole : s.linkStep = s.setStep 7 := by
      unfold State.linkStep
      rw [if_neg (by rw [bringing]; exact Bool.false_ne_true), if_neg (by rw [step]; decide)]
      exact (if_pos step).trans (if_pos settled)
    obtain ⟨only, at7, -⟩ := s.setStep_facts 7
    exact ⟨_, congrArg Host.Outcome.next whole, only, at7⟩
  · have ready : (s.ports.toList.all (fun x => x.link.st ≠ .up || x.nb = .verified || x.nb = .admitted)
        || decide (s.hub.bring.stepAt + secCounts 1 ≤ s.now)) = true := by
      simp only [Bool.or_eq_true, decide_eq_true_eq, List.all_eq_true, or_assoc]
      exact known
    have whole : s.discovery = (s.modHub Hub.takeCfg).setStep 8 := by
      unfold State.discovery
      refine if_pos ?_
      rw [bringing, decide_eq_true step, Bool.and_self, Bool.true_and]
      exact ready
    obtain ⟨only, at8, sec⟩ := (s.modHub Hub.takeCfg).setStep_facts 8
    exact ⟨_, congrArg Host.Outcome.next whole, only.before, at8, congrArg (·.mCfg) sec⟩
  · have ends := State.attestation_ends bringing step holds gate
    obtain ⟨late, q, noted, -⟩ := s.noted_eq
    have takes : s.noted.setStep 9 = (s.noted.modHub (·.stepped 9)).takeOff := State.setStep_off 9 (by rw [noted]; exact off)
    rw [takes, noted] at ends
    obtain ⟨ports, dies, at9, attested, state, going⟩ := State.takeOff_facts
      ((s.modHub fun h => { h with bring := { h.bring with late8 := late }, rec_ := q }).modHub (·.stepped 9))
    exact ⟨_, congrArg Host.Outcome.next (ends.trans (if_pos going)), ports, dies, at9, attested, state, going⟩
  · have ends := State.attestation_ends bringing step holds gate
    obtain ⟨late, q, noted, -⟩ := s.noted_eq
    have quiet : s.hub.power.trans = none := by
      simp only [State.bringing, Bool.and_eq_true, Option.isNone_iff_eq_none] at bringing
      exact bringing.2
    have plain : s.noted.setStep 9 = s.noted.modHub (·.stepped 9) := State.setStep_plain 9 (by rw [noted]; exact off)
    have stays : ¬ (s.noted.modHub (·.stepped 9)).goingOff = true := by
      have none : (s.noted.modHub (·.stepped 9)).hub.power.trans = none := by
        rw [noted]
        exact quiet
      rw [State.goingOff, none]
      exact Bool.false_ne_true
    rw [plain, if_neg stays] at ends
    let v := (s.noted.modHub (·.stepped 9)).modHub Hub.joined
    have dies : v.dies = s.dies := by
      dsimp only [v]
      rw [noted]
      rfl
    have ports : v.ports = s.ports := by
      dsimp only [v]
      rw [noted]
      rfl
    have state : v.hub.power.state = if s.hub.power.request = 3 then 3 else 4 := by
      dsimp only [v]
      rw [noted]
      rfl
    have wait : v.hub.power.wantOff = false := by
      dsimp only [v]
      rw [noted]
      exact off
    have joined : v.hub.bring.attested = true := Hub.joined_attested _
    obtain ⟨hub, kept, told⟩ := v.gateIf_rest (v.hub.power.state = 3)
    generalize gated : (if v.hub.power.state = 3 then v.gateDies true else v) = w at hub kept told
    have whole : s.attestation = w.modHub (·.stepped 10) := by
      refine ends.trans ?_
      refine (congrArg (·.setStep 10) gated).trans ?_
      exact State.setStep_plain 10 (by rw [hub]; exact wait)
    clear_value v
    obtain ⟨at10, attested, power⟩ := w.hub.stepped_facts 10
    refine ⟨w.modHub (·.stepped 10), congrArg Host.Outcome.next whole, ?_, ?_, ?_, ?_, fun m => ?_,
      fun idle m on reached free => ?_⟩
    · rw [State.modHub_ports, kept]
      exact ports
    · rw [State.modHub_hub]
      exact at10
    · rw [State.modHub_hub, attested, hub]
      exact joined
    · rw [State.modHub_hub, power, hub]
      exact state
    · rw [State.modHub_dies, told m, dies]
      by_cases idle : v.hub.power.state = 3
      · rw [if_pos idle, Die.told_cores]
      · rw [if_neg idle]
    · rw [State.modHub_dies, told m, if_pos (state.trans (if_pos idle)), dies]
      exact Die.told_gated on reached fun _ => free

end Sys2Proof.Machine

/-! # What goes down leaves sensors, flags and records

Link ends that go Down, rails that are disabled and dies that are fenced leave what the sensors have shown, the bits of Marigold's fault
word and the records that wait; and no die comes up, or begins a plan, through them. -/

namespace Sys2Proof.Machine

/-- From one to the other a die keeps its sensors' values and does not come up. -/
structure DieStandsDown (d e : Die) : Prop where
  temps : e.temps = d.temps
  logic : e.logic = d.logic
  fenced : d.pow.fenced = true → e.pow.fenced = true
  on : d.pow.vcoreOn = false → e.pow.vcoreOn = false
  plan : d.plan = none → e.plan = none

/-- From one to the other the hub die keeps what its sensors and its fault word show, and the records that wait. -/
structure HubStandsDown (h g : Hub) : Prop where
  sens : g.sens = h.sens
  hot : g.power.hubHot = h.power.hubHot
  wall : g.time.wall = h.time.wall
  queue : h.rec_.queue.length ≤ g.rec_.queue.length
  fault : ∀ b, bit h.fault b = true → bit g.fault b = true

/-- From s to t link ends, rails or dies have gone down. -/
structure StandsDown (s t : State) : Prop where
  hub : HubStandsDown s.hub t.hub
  dies : ∀ m : DieIx, DieStandsDown s.dies[m] t.dies[m]

section
variable {s t u : State} {d e f : Die} {g h k : Hub}

theorem DieStandsDown.refl (d : Die) : DieStandsDown d d := ⟨rfl, rfl, id, id, id⟩

theorem DieStandsDown.trans (a : DieStandsDown d e) (b : DieStandsDown e f) : DieStandsDown d f :=
  ⟨b.temps.trans a.temps, b.logic.trans a.logic, b.fenced ∘ a.fenced, b.on ∘ a.on, b.plan ∘ a.plan⟩

theorem HubStandsDown.refl (h : Hub) : HubStandsDown h h := ⟨rfl, rfl, rfl, Nat.le_refl _, fun _ => id⟩

theorem HubStandsDown.trans (a : HubStandsDown h g) (b : HubStandsDown g k) : HubStandsDown h k :=
  ⟨b.sens.trans a.sens, b.hot.trans a.hot, b.wall.trans a.wall, a.queue.trans b.queue, fun x => b.fault x ∘ a.fault x⟩

theorem StandsDown.refl (s : State) : StandsDown s s := ⟨.refl _, fun _ => .refl _⟩

theorem StandsDown.trans (a : StandsDown s t) (b : StandsDown t u) : StandsDown s u :=
  ⟨a.hub.trans b.hub, fun m => (a.dies m).trans (b.dies m)⟩

theorem StandsDown.foldl {α : Type} {f : State → α → State} (h : ∀ s a, StandsDown s (f s a)) (l : List α) (s : State) :
    StandsDown s (l.foldl f s) := by
  induction l generalizing s with
  | nil => exact .refl s
  | cons a l ih => exact (h s a).trans (ih _)

theorem standsDown_modHub (s : State) {f : Hub → Hub} (h : HubStandsDown s.hub (f s.hub)) : StandsDown s (s.modHub f) := ⟨h, fun _ => .refl _⟩

theorem standsDown_modDie (s : State) (n : DieIx) {f : Die → Die} (h : DieStandsDown s.dies[n] (f s.dies[n])) :
    StandsDown s (s.modDie n f) := by
  refine ⟨.refl _, fun m => ?_⟩
  by_cases same : m = n
  · subst same
    rw [s.modDie_die m f]
    exact h
  · rw [s.modDie_other n m f same]
    exact .refl _

theorem standsDown_mapDies (s : State) {f : Die → Die} (h : ∀ d, DieStandsDown d (f d)) : StandsDown s { s with dies := s.dies.map f } := by
  refine ⟨.refl _, fun m => ?_⟩
  rw [show (s.dies.map f)[m] = f s.dies[m] from Vector.getElem_map ..]
  exact h _

theorem standsDown_ports (s : State) (ports : Vector Port 24) : StandsDown s { s with ports := ports } := ⟨.refl _, fun _ => .refl _⟩

theorem standsDown_modPort (s : State) (p : PortIx) (f : Port → Port) : StandsDown s (s.modPort p f) := standsDown_ports s _

theorem standsDown_modLink (s : State) (e : LinkEnd) (f : Link → Link) : StandsDown s (s.modLink e f) := by
  cases e with
  | port p => exact standsDown_modPort s p _
  | pkg n a => exact standsDown_modDie s n ⟨rfl, rfl, id, id, id⟩

/-! ### Dies -/

/-- A change of a die that leaves its sensors, the state of its power and its plan. -/
theorem DieStandsDown.of_eq (temps : e.temps = d.temps) (logic : e.logic = d.logic) (pow : e.pow = d.pow) (plan : e.plan = d.plan) :
    DieStandsDown d e := ⟨temps, logic, fun h => pow ▸ h, fun h => pow ▸ h, fun h => plan ▸ h⟩

theorem dieStandsDown_eventOnce (d : Die) (sev : Nat) (unitk : BitVec 8) (unit : BitVec 16) (rule : Nat) (bit : BitVec 8) (det : Bytes) :
    DieStandsDown d (d.eventOnce sev unitk unit rule bit det) := by
  obtain ⟨q, e, o, whole⟩ := d.eventOnce_eq sev unitk unit rule bit det
  rw [whole]
  exact .of_eq rfl rfl rfl rfl

theorem dieStandsDown_faultRouter (d : Die) (b : FBit) : DieStandsDown d (d.fault .router b) := by
  obtain ⟨q, e, o, n, whole⟩ := d.fault_router b
  rw [whole]
  exact .of_eq rfl rfl rfl rfl

theorem dieStandsDown_lossAway (d : Die) (r : Routed) : DieStandsDown d (d.lossAway r) := by
  unfold Die.lossAway
  split
  · exact .of_eq rfl rfl rfl rfl
  · exact .refl d

theorem dieStandsDown_cutLane (d : Die) (i : Fin 7) (host : Bool) : DieStandsDown d (d.cutLane i host) := by
  have cut (r : Router) : DieStandsDown d { d with router := r } := .of_eq rfl rfl rfl rfl
  unfold Die.cutLane
  dsimp only
  split
  · split
    · exact (cut _).trans (dieStandsDown_lossAway _ _)
    · split
      · exact (cut _).trans (dieStandsDown_lossAway _ _)
      · exact cut _
  · split
    · split
      · exact (cut _).trans (dieStandsDown_lossAway _ _)
      · exact cut _
    · exact .refl d

theorem dieStandsDown_answerOwn (d : Die) (c by_ : CoreIx) (a : Answer) (due : Nat) : DieStandsDown d (d.answerOwn c by_ a due) := by
  unfold Die.answerOwn
  split
  · exact .of_eq rfl rfl rfl rfl
  · exact .refl d

theorem dieStandsDown_endPlan (now : Nat) (d : Die) : DieStandsDown d (d.endPlan now) := by
  unfold Die.endPlan
  split
  · exact ⟨rfl, rfl, id, id, id⟩
  · exact ⟨rfl, rfl, id, id, fun _ => rfl⟩

theorem dieStandsDown_powerOff (keep : Bool) (d : Die) : DieStandsDown d (d.powerOff keep) := by
  have sensors : (d.setGate false).temps = d.temps ∧ (d.setGate false).logic = d.logic := by
    unfold Die.setGate
    split
    · exact ⟨rfl, rfl⟩
    · have only := Die.enqueue_only (Die.freshWindow { d with clock := { d.clock with gated := false }, frm := { d.frm with fallen := [] } })
        { sev := 2, unitk := 0x0A, unit := unitIx d.ix.val 0 0, rule := 361, bit := 0xFF, frame := some d.frm.fnum, onDie := true,
          time := d.clock.tc, cyc := d.evCycle, det := [] }
      have temps := congrArg (·.temps) only
      have logic := congrArg (·.logic) only
      exact ⟨temps, logic⟩
  obtain ⟨fenced, -, plan⟩ := Die.powerOff_fenced keep d
  exact ⟨sensors.1, sensors.2, fun h => fenced.trans h, fun _ => rfl, fun _ => plan⟩

theorem dieStandsDown_dropDram (d : Die) : DieStandsDown d d.dropDram := ⟨rfl, rfl, id, id, id⟩

/-! ### The hub die -/

theorem hubStandsDown_event (h : Hub) (sev : Nat) (unitk : BitVec 8) (unit : BitVec 16) (rule : Nat) (bit : BitVec 8) (det : Bytes) :
    HubStandsDown h (h.event sev unitk unit rule bit det) := by
  refine ⟨rfl, rfl, rfl, ?_, fun _ => id⟩
  simp only [Hub.event, List.length_append]
  exact Nat.le_add_right ..

theorem hubStandsDown_eventOnce (h : Hub) (sev : Nat) (unitk : BitVec 8) (unit : BitVec 16) (rule : Nat) (bit : BitVec 8) (det : Bytes) :
    HubStandsDown h (h.eventOnce sev unitk unit rule bit det) := by
  unfold Hub.eventOnce
  dsimp only
  split
  · exact .refl h
  · exact HubStandsDown.trans (g := { h with rec_ := { h.rec_ with once := (unitk, unit, rule, bit) :: h.rec_.once } })
      ⟨rfl, rfl, rfl, Nat.le_refl _, fun _ => id⟩ (hubStandsDown_event ..)

theorem hubStandsDown_setMrg (h : Hub) (b : FBit) : HubStandsDown h (h.setMrg b) :=
  ⟨rfl, rfl, rfl, Nat.le_refl _, fun _ set => bit_setBit_of_bit _ set⟩

theorem hubStandsDown_mrgFault (h : Hub) (b : FBit) (unit : BitVec 16) (det : Option Bytes) : HubStandsDown h (h.mrgFault b unit det) :=
  (hubStandsDown_setMrg h b).trans (hubStandsDown_eventOnce ..)

/-- A change of the hub die's data alone. -/
theorem hubStandsDown_dict (h : Hub) (x : Dict) : HubStandsDown h { h with dict := x } := ⟨rfl, rfl, rfl, Nat.le_refl _, fun _ => id⟩

/-! ### Link ends -/

theorem standsDown_notifyHost (s : State) (code : Nat) (o : HostOut) : StandsDown s (s.notifyHost code o) := by
  unfold State.notifyHost
  split
  · exact standsDown_modLink ..
  · exact .refl s

theorem standsDown_answerHost (s : State) (code : Nat) (m : MsgId) (by_ : Option (BitVec 23)) : StandsDown s (s.answerHost code m by_) := by
  unfold State.answerHost
  split
  · exact (standsDown_modHub s (hubStandsDown_dict s.hub _)).trans (standsDown_notifyHost ..)
  · exact .refl s

theorem standsDown_answerHere (s : State) (n : DieIx) (c by_ : CoreIx) (code : Nat) (m : MsgId) (host : Bool) :
    StandsDown s (s.answerHere n c by_ code m host) := by
  unfold State.answerHere
  split
  · exact standsDown_answerHost ..
  · exact standsDown_modDie s n (dieStandsDown_answerOwn ..)

theorem standsDown_answerFlit (s : State) (n : DieIx) (f : Flit) (code : Nat) (bridge : Bool) : StandsDown s (s.answerFlit n f code bridge) := by
  unfold State.answerFlit
  split
  · exact .refl s
  · split
    · exact standsDown_answerHere ..
    · exact standsDown_modDie s n (.of_eq rfl rfl rfl rfl)

theorem standsDown_hostDone (s : State) (x : ToHost) (code : Nat) : StandsDown s (s.hostDone x code) := by
  have removed : StandsDown s (s.modHub (fun h => { h with dict := { h.dict with toHost := h.dict.toHost.erase x } })) :=
    standsDown_modHub s (hubStandsDown_dict s.hub _)
  unfold State.hostDone
  dsimp only
  split
  · exact removed.trans (standsDown_answerFlit ..)
  · exact removed

theorem standsDown_flushOut (s : State) (e : LinkEnd) : StandsDown s (s.flushOut e) := by
  have answered : StandsDown s (if (s.link e).st = .host then (s.hub.dict.toHost.filter (·.sent)).foldl (fun s x => s.hostDone x 7) s
      else ((s.link e).outq.filter (fun f => f.fk = 1)).foldl (fun s f => s.answerFlit (endDie e) f 7) s) := by
    split
    · exact .foldl (fun s x => standsDown_hostDone s x 7) _ s
    · exact .foldl (fun s f => standsDown_answerFlit s (endDie e) f 7 false) _ s
  unfold State.flushOut
  dsimp only
  refine StandsDown.trans ?_ (standsDown_modDie _ _ (.of_eq rfl rfl rfl rfl))
  split
  · exact answered.trans (standsDown_modDie _ _ (dieStandsDown_faultRouter _ _))
  · exact answered

theorem standsDown_dropLink (s : State) (e : LinkEnd) (new : LinkState) : StandsDown s (s.dropLink e new) := by
  unfold State.dropLink
  dsimp only
  refine ((standsDown_flushOut s e).trans ?_).trans (standsDown_modLink _ e _)
  exact standsDown_modDie _ _ ((dieStandsDown_cutLane _ _ _).trans (dieStandsDown_cutLane _ _ _))

theorem hubStandsDown_setAlign (h : Hub) (st : BitVec 8) : HubStandsDown h (h.setAlign st) := by
  unfold Hub.setAlign
  split
  · exact .refl h
  · exact HubStandsDown.trans (g := { h with time := { h.time with align := st } }) ⟨rfl, rfl, rfl, Nat.le_refl _, fun _ => id⟩
      (hubStandsDown_event ..)

theorem HubStandsDown.setAlign (a : HubStandsDown h g) (st : BitVec 8) : HubStandsDown h (g.setAlign st) := a.trans (hubStandsDown_setAlign g st)

theorem standsDown_chooseUpstream (s : State) : StandsDown s s.chooseUpstream := by
  have time {x : HubTime} (wall : x.wall = s.hub.time.wall) : HubStandsDown s.hub { s.hub with time := x } := ⟨rfl, rfl, wall, Nat.le_refl _, fun _ => id⟩
  unfold State.chooseUpstream
  split
  · exact standsDown_modHub s (.setAlign (time (by exact rfl)) _)
  · split
    · exact standsDown_modHub s (time rfl)
    · dsimp only
      split
      · exact standsDown_modHub s (time rfl)
      · exact standsDown_modHub s (.setAlign (time (by exact rfl)) _)

theorem standsDown_upstreamLost (s : State) : StandsDown s s.upstreamLost := by
  obtain e | e := s.upstreamLost_cases
  · rw [e]
    exact standsDown_chooseUpstream s
  · rw [e]
    exact .refl s

theorem standsDown_addReport (s : State) (r : Bytes) : StandsDown s (s.modHub (·.addReport r)) := by
  obtain ⟨l, e⟩ := s.hub.addReport_eq r
  refine standsDown_modHub s ?_
  rw [e]
  exact hubStandsDown_dict s.hub _

theorem standsDown_report (s : State) (p : PortIx) (cause : Nat) : StandsDown s (s.report p cause) := by
  unfold State.report
  dsimp only
  split
  · exact .refl s
  · split
    · exact standsDown_addReport s _
    · refine standsDown_modDie s _ ?_
      split
      · exact .of_eq rfl rfl rfl rfl
      · exact .refl _

theorem standsDown_portFault (s : State) (p : PortIx) (b : FBit) (det : Option Bytes) : StandsDown s (s.portFault p b det) := by
  unfold State.portFault
  dsimp only
  exact (standsDown_modPort s p _).trans (standsDown_modDie _ _ (dieStandsDown_eventOnce ..))

theorem standsDown_portDown (s : State) (p : PortIx) (new : LinkState) (cause : Nat) : StandsDown s (s.portDown p new cause) := by
  unfold State.portDown
  extract_lets x cause s₁ s₂ s₃ det s₄
  have h₄ : StandsDown s₃ s₄ := by
    dsimp only [s₄]
    split
    · exact standsDown_portFault ..
    · exact standsDown_modHub s₃ (hubStandsDown_event ..)
  have h₅ : StandsDown s₄ s₄.raiseTopo := standsDown_modHub s₄ (hubStandsDown_dict s₄.hub _)
  exact (standsDown_dropLink s (.port p) new).trans ((standsDown_modPort s₁ p _).trans
    ((standsDown_upstreamLost s₂).trans (h₄.trans (h₅.trans (standsDown_report ..)))))

theorem standsDown_linkDown (s : State) (e : LinkEnd) (new : LinkState) (cause : Nat) : StandsDown s (s.linkDown e new cause) := by
  unfold State.linkDown
  split
  · cases e with
    | port p => exact standsDown_portDown ..
    | pkg n a => exact standsDown_dropLink ..
  · exact .refl s

theorem standsDown_endDown (s : State) (e : LinkEnd) (cause : Nat) : StandsDown s (s.endDown e cause) := by
  unfold State.endDown
  split
  · exact standsDown_linkDown ..
  · split
    · exact standsDown_modLink ..
    · exact .refl s

/-! ### Rails -/

/-- A change of the power management that leaves the hub's heat condition. -/
theorem hubStandsDown_power (h : Hub) (x : Power) (hot : x.hubHot = h.power.hubHot) : HubStandsDown h { h with power := x } :=
  ⟨rfl, hot, rfl, Nat.le_refl _, fun _ => id⟩

theorem standsDown_modRail (s : State) (k : RailIx) (f : Rail → Rail) : StandsDown s (s.modRail k f) :=
  standsDown_modHub s (hubStandsDown_power s.hub _ rfl)

theorem standsDown_goal (s : State) (x : RailGoal) : StandsDown s (s.modHub (fun h => { h with power := { h.power with goal := x } })) :=
  standsDown_modHub s (hubStandsDown_power s.hub _ rfl)

theorem standsDown_disableRail (s : State) (k : RailIx) : StandsDown s (s.disableRail k) := by
  unfold State.disableRail
  extract_lets s₁
  have h₁ : StandsDown s s₁ := standsDown_modRail s k _
  clear_value s₁
  refine h₁.trans ?_
  split
  next n _ =>
    have ends : StandsDown s₁ ((diePkgs n).foldl (fun s e => s.endDown e 6) s₁) := .foldl (fun s e => standsDown_endDown s e 6) _ _
    generalize (diePkgs n).foldl (fun s e => s.endDown e 6) s₁ = u at ends
    have loop : StandsDown u (u.dropLoop n) := standsDown_modHub u (hubStandsDown_power u.hub _ rfl)
    exact ends.trans (loop.trans (standsDown_modDie _ n (f := fun d => d.powerOff d.pow.selfRef) (dieStandsDown_powerOff _ _)))
  next =>
    split
    · exact standsDown_mapDies _ dieStandsDown_dropDram
    · exact .foldl (fun s p => standsDown_endDown s (.port p) 6) allPorts _

theorem standsDown_railNext (s : State) : StandsDown s s.railNext := by
  refine (standsDown_goal s s.trimGoal).trans ?_
  have disabled (u : State) (k : RailIx) : StandsDown u (if (u.rail k).enabled then u.disableRail k else u) := by
    split
    · exact standsDown_disableRail u k
    · exact .refl u
  show StandsDown s.trimmed (match s.trimmed.hub.power.goal with
    | .up l => if s.trimmed.hub.board.pwrgd then (match s.trimmed.nextUp l with | some k => s.trimmed.enableRail k | none => s.trimmed) else s.trimmed
    | .down (k :: _) _ _ => if (s.trimmed.rail k).enabled then s.trimmed.disableRail k else s.trimmed
    | .board _ _ =>
      if s.trimmed.vcoreAlive then s.trimmed
      else match s.trimmed.railsUp with
        | k :: _ => if (s.trimmed.rail k).enabled then s.trimmed.disableRail k else s.trimmed
        | [] => s.trimmed
    | _ => s.trimmed)
  generalize s.trimmed = u
  cases u.hub.power.goal with
  | hold => exact .refl u
  | up l =>
    dsimp only
    split
    · cases u.nextUp l with
      | none => exact .refl u
      | some k => exact standsDown_modRail u k _
    · exact .refl u
  | down l e a =>
    cases l with
    | nil => exact .refl u
    | cons k l => exact disabled u k
  | board t a =>
    dsimp only
    split
    · exact .refl u
    · split
      · exact disabled u _
      · exact .refl u

theorem standsDown_raiseRails (s : State) (l : List RailIx) : StandsDown s (s.raiseRails l) := by
  unfold State.raiseRails
  exact (standsDown_goal s _).trans (standsDown_railNext _)

theorem standsDown_takeOff (s : State) : StandsDown s s.takeOff := by
  unfold State.takeOff
  generalize s.offSteps = steps
  exact standsDown_modHub s ⟨rfl, rfl, rfl, Nat.le_refl _, fun _ => id⟩

theorem standsDown_goOff (s : State) : StandsDown s s.goOff := by
  unfold State.goOff
  split
  · exact .refl s
  · exact standsDown_takeOff s

theorem hubStandsDown_bring (h : Hub) (x : BringUp) : HubStandsDown h { h with bring := x } := ⟨rfl, rfl, rfl, Nat.le_refl _, fun _ => id⟩

theorem standsDown_setStep (s : State) (k : BitVec 8) : StandsDown s (s.setStep k) := by
  have step : StandsDown s (s.modHub (·.stepped k)) := standsDown_modHub s ((hubStandsDown_bring s.hub _).trans (hubStandsDown_event ..))
  cases off : s.hub.power.wantOff with
  | false =>
    rw [State.setStep_plain k off]
    exact step
  | true =>
    rw [State.setStep_off k off]
    exact step.trans (standsDown_takeOff _)

theorem standsDown_startRails (s : State) : StandsDown s s.startRails := by
  unfold State.startRails
  split
  · exact standsDown_goal s _
  · exact standsDown_goal s _
  · refine (standsDown_setStep s 4).trans ?_
    dsimp only
    split
    · exact .refl _
    · exact (standsDown_modHub _ ⟨rfl, rfl, rfl, Nat.le_refl _, fun _ => id⟩).trans (standsDown_raiseRails _ _)

theorem standsDown_railsEnd (s : State) : StandsDown s s.railsEnd := by
  have again (u : State) (b : Bool) : StandsDown u (if b then u.startRails else u) := by
    split
    · exact standsDown_startRails u
    · exact .refl u
  unfold State.railsEnd
  dsimp only
  split
  · refine (standsDown_goal s .hold).trans ?_
    split
    · exact standsDown_setStep _ 5
    · exact .refl _
  · refine (standsDown_goal s .hold).trans (StandsDown.trans ?_ (again _ _))
    split
    · exact standsDown_modHub _ ⟨rfl, rfl, rfl, Nat.le_refl _, fun _ => id⟩
    · exact .refl _
  · split
    · exact (standsDown_goal s .hold).trans (again _ _)
    · exact .refl s
  · exact .refl s

theorem standsDown_railDone (s : State) : StandsDown s s.railDone := (standsDown_railNext s).trans (standsDown_railsEnd _)

end

/-! ### A die that is fenced (R368) -/

section
variable {s : State} {n : DieIx}

/-- A VCORE rail that is disabled takes its die's VCORE away. -/
theorem State.disableRail_off (s : State) (n : DieIx) : (s.disableRail (vcoreRail n)).dies[n].pow.vcoreOn = false := by
  unfold State.disableRail
  extract_lets s₁
  rw [railDie_vcoreRail]
  exact congrArg (·.pow.vcoreOn) (State.modDie_die _ n _)

/-- The fence of a die, up to the sequence of rails that goes on. -/
def State.fenceWork (s : State) (n : DieIx) (r : DieResult) : State :=
  let s := s.modDie n (Die.endPlan s.now)
  let s := (dieEnds n).foldl (fun s e => s.endDown e 6) s
  let s := s.disableRail (vcoreRail n)
  let s := s.modDie n (Die.fencedAs r)
  s.modHub (fun h => Hub.mrgFault
    { h with power := { h.power with goal := h.power.goal.without (vcoreRail n) } } dieFenced (unitIx n.val 0 0))

theorem State.fence_eq (h : s.dies[n].pow.fenced = false) (r : DieResult) : s.fence n r = (s.fenceWork n r).railDone :=
  if_neg (by rw [h]; exact Bool.false_ne_true)

theorem standsDown_fenceWork (s : State) (n : DieIx) (r : DieResult) : StandsDown s (s.fenceWork n r) := by
  unfold State.fenceWork
  extract_lets s₁ s₂ s₃ s₄
  have h₁ : StandsDown s s₁ := standsDown_modDie s n (dieStandsDown_endPlan _ _)
  have h₂ : StandsDown s₁ s₂ := .foldl (fun s e => standsDown_endDown s e 6) _ _
  have h₃ : StandsDown s₂ s₃ := standsDown_disableRail _ _
  have h₄ : StandsDown s₃ s₄ := standsDown_modDie s₃ n ⟨rfl, rfl, fun _ => rfl, id, id⟩
  have goal := hubStandsDown_power s₄.hub { s₄.hub.power with goal := s₄.hub.power.goal.without (vcoreRail n) } rfl
  exact h₁.trans (h₂.trans (h₃.trans (h₄.trans (standsDown_modHub s₄ (goal.trans (hubStandsDown_mrgFault ..))))))

/-- The die that is fenced has no plan and no VCORE, and Marigold says that it is fenced. -/
theorem State.fenceWork_facts (s : State) (n : DieIx) (r : DieResult) :
    (s.fenceWork n r).dies[n].pow.fenced = true ∧ (s.fenceWork n r).dies[n].pow.vcoreOn = false ∧ (s.fenceWork n r).dies[n].plan = none
      ∧ bit (s.fenceWork n r).hub.fault 3 = true := by
  unfold State.fenceWork
  extract_lets s₁ s₂ s₃ s₄
  have die : s₄.dies[n] = s₃.dies[n].fencedAs r := s₃.modDie_die n _
  have off : s₃.dies[n].pow.vcoreOn = false := s₂.disableRail_off n
  have plan : s₃.dies[n].plan = none := (s₂.disableRail_core n).2
  have only := Hub.mrgFault_only { s₄.hub with power := { s₄.hub.power with goal := s₄.hub.power.goal.without (vcoreRail n) } }
    dieFenced (unitIx n.val 0 0) none
  have word := congrArg (·.fault) only
  clear_value s₃ s₄
  rw [State.modHub_dies, State.modHub_hub, die]
  refine ⟨rfl, off, plan, ?_⟩
  exact word ▸ bit_setBit_same _ (by decide)

/-- And that stays so when the sequence of rails goes on. -/
theorem State.fence_facts (h : s.dies[n].pow.fenced = false) (r : DieResult) :
    (s.fence n r).dies[n].pow.fenced = true ∧ (s.fence n r).dies[n].pow.vcoreOn = false ∧ (s.fence n r).dies[n].plan = none
      ∧ bit (s.fence n r).hub.fault 3 = true := by
  obtain ⟨fenced, off, plan, said⟩ := s.fenceWork_facts n r
  have done := standsDown_railDone (s.fenceWork n r)
  rw [State.fence_eq h]
  exact ⟨(done.dies n).fenced fenced, (done.dies n).on off, (done.dies n).plan plan, done.hub.fault 3 said⟩

theorem standsDown_fence (s : State) (n : DieIx) (r : DieResult) : StandsDown s (s.fence n r) := by
  cases h : s.dies[n].pow.fenced with
  | true =>
    rw [State.fence, if_pos h]
    exact .refl s
  | false =>
    rw [State.fence_eq h]
    exact (standsDown_fenceWork s n r).trans (standsDown_railDone _)

end

end Sys2Proof.Machine

/-! # Sensors and regulators (O44) -/

namespace Sys2Proof.Machine

section
variable {s : State} {k : RailIx} {n : DieIx}

/-! ### The coolant node's answer (R363) -/

/-- The first 24 bytes of the answer's PDU. -/
def coolantHead : Bytes := [0x01, 0x81, 0, 0, 0, 0, 0, 0, 0, 0x2F, 1, 0, 0, 0, 0, 0, 4, 0, 0, 8, 4, 0, 0, 0]

theorem coolantAnswer_bytes (v : U32) : (coolantAnswer v).bytes = coolantHead ++ leBytes 4 v.toNat := by
  have head : (coolantAnswer v).bytes = (coolantAnswer 0).bytes.take 24 ++ leBytes 4 v.toNat := rfl
  rw [head]
  exact congrArg (· ++ leBytes 4 v.toNat) (by decide)

/-- A field of a run's head. -/
theorem leAt_head (a b : Bytes) {off n : Nat} (h : off + n ≤ a.length) : leAt (a ++ b) off n = leAt a off n := by
  rw [leAt, leAt, slice, slice, List.drop_append_of_le_length (by omega), List.take_append_of_le_length (by rw [List.length_drop]; omega)]

theorem coolantAnswer_read (v : U32) : (pduOf (coolantAnswer v).bytes).bind Pdu.coolant = some v := by
  have read : pduOf (coolantAnswer v).bytes = some (coolantAnswer v) := by
    rw [coolantAnswer_bytes]
    have long : ¬ ((coolantHead ++ leBytes 4 v.toNat).length < 24 || (coolantHead ++ leBytes 4 v.toNat).headD 0 ≠ 0x01) = true := by
      rw [List.length_append, leBytes_length]
      exact Bool.false_ne_true
    have at_ (off n : Nat) (h : off + n ≤ 24) : leAt (coolantHead ++ leBytes 4 v.toNat) off n = leAt coolantHead off n := leAt_head _ _ h
    unfold pduOf
    rw [if_neg long]
    dsimp only
    rw [at_ 16 2 (by decide), at_ 2 2 (by decide), at_ 4 4 (by decide), at_ 8 2 (by decide), at_ 12 4 (by decide), at_ 20 4 (by decide),
      show bit ((coolantHead ++ leBytes 4 v.toNat).getD 11 0) 0 = false from (by decide : bit (0 : Byte) 0 = false)]
    rfl
  have value : (coolantAnswer v).coolant = some (BitVec.ofNat 32 (leNat (leBytes 4 v.toNat))) := by
    unfold Pdu.coolant
    rw [if_pos (by simp [coolantAnswer, coolantRequest])]
    rfl
  rw [read, Option.bind_some, value, leNat_leBytes 4 v.toNat v.isLt, BitVec.ofNat_toNat, BitVec.setWidth_eq]

/-- The node's answer is known by its addresses. -/
theorem Dict.coolantIn_says (d : Dict) (v : U32) : d.coolantIn (d.coolantSays v) = some v := by
  have own : portMac.length = 6 := slice_length ..
  have node : d.coolantMac.length = 6 := slice_length ..
  have kind : etherType.length = 2 := rfl
  have field (a b c : Bytes) {off n : Nat} (ha : a.length = off) (hb : b.length = n) : slice (a ++ (b ++ c)) off n = b := by
    rw [slice, ← ha, List.drop_left, ← hb, List.take_left, Nat.sub_self]
    exact List.append_nil _
  have dest : slice (d.coolantSays v) 0 6 = portMac := by
    rw [Dict.coolantSays, List.append_assoc, List.append_assoc]
    exact field [] portMac _ rfl own
  have src : slice (d.coolantSays v) 6 6 = d.coolantMac := by
    rw [Dict.coolantSays, List.append_assoc, List.append_assoc]
    exact field portMac d.coolantMac _ own node
  have type : slice (d.coolantSays v) 12 2 = etherType := by
    rw [Dict.coolantSays, List.append_assoc (portMac ++ d.coolantMac)]
    exact field (portMac ++ d.coolantMac) etherType _ (by rw [List.length_append, own, node]) kind
  have rest : (d.coolantSays v).drop 14 = (coolantAnswer v).bytes := by
    rw [Dict.coolantSays]
    exact List.drop_left' (by rw [List.length_append, List.length_append, own, node, kind])
  rw [Dict.coolantIn, dest, src, type, rest, coolantAnswer_read]
  simp only [decide_true, Bool.and_self, if_true]

/-- What the answer writes: the value, and the bit with its hysteresis. -/
theorem State.inletValue_facts (v : U32) (number : (fp32 v).isNan = false) :
    OnlyHub s (s.inletValue v) ∧ (s.inletValue v).hub.dict = s.hub.dict
      ∧ (s.inletValue v).hub.sens = { s.hub.sens with inlet := v, inletAt := s.now, inletStale := false }
      ∧ ((Num.ofInt 40).lt (fp32 v) = true → bit (s.inletValue v).hub.fault 5 = true)
      ∧ ((Num.ofInt 38).lt (fp32 v) = false → (Num.ofInt 40).lt (fp32 v) = false → bit (s.inletValue v).hub.fault 5 = false) := by
  let h : Hub := { s.hub with sens := { s.hub.sens with inlet := v, inletAt := s.now, inletStale := false } }
  have whole : s.inletValue v = s.modHub fun _ =>
      if (Num.ofInt 40).lt (fp32 v) then (if bit h.fault inletHot.bit then h else h.mrgFault inletHot)
      else if (Num.ofInt 38).lt (fp32 v) then h else { h with fault := clrBit h.fault inletHot.bit } :=
    if_neg (by rw [number]; exact Bool.false_ne_true)
  rw [whole]
  have only := h.mrgFault_only inletHot 0 none
  have kept : ∀ g : Hub, { g with rec_ := h.rec_ } = h.setMrg inletHot → g.dict = s.hub.dict ∧ g.sens = h.sens ∧ bit g.fault 5 = true :=
    fun g same => ⟨congrArg (·.dict) same, congrArg (·.sens) same, congrArg (·.fault) same ▸ bit_setBit_same _ (by decide)⟩
  cases hot : (Num.ofInt 40).lt (fp32 v) with
  | true =>
    rw [if_pos rfl]
    refine ⟨rfl, ?_⟩
    by_cases set : bit h.fault inletHot.bit = true
    · rw [if_pos set]
      exact ⟨rfl, rfl, fun _ => set, fun _ e => nomatch e⟩
    · rw [if_neg set]
      obtain ⟨dict, sens, marked⟩ := kept _ only
      exact ⟨dict, sens, fun _ => marked, fun _ e => nomatch e⟩
  | false =>
    rw [if_neg Bool.false_ne_true]
    refine ⟨rfl, ?_⟩
    cases warm : (Num.ofInt 38).lt (fp32 v) with
    | true =>
      rw [if_pos rfl]
      exact ⟨rfl, rfl, fun e => (nomatch e), fun e => nomatch e⟩
    | false =>
      rw [if_neg Bool.false_ne_true]
      refine ⟨rfl, rfl, fun e => (nomatch e), fun _ _ => ?_⟩
      exact bit_clrBit_same _ (by decide)

/-! ### Regulators (R357, R359) -/

/-- The flag of a regulator fault. -/
theorem State.railFlag_facts (s : State) (k : RailIx) (status : BitVec 16) :
    { (s.railFlag k status).hub with rec_ := s.hub.rec_ } = s.hub.setMrg railFlt ∧ StandsDown s (s.railFlag k status)
      ∧ OnlyHub s (s.railFlag k status) := by
  let h := s.hub.setMrg railFlt
  have only := h.eventOnce_only 4 0x12 (railUnit k) 359 (BitVec.ofNat 8 railFlt.bit) (s.railDet k status)
  have hub : HubStandsDown s.hub (s.railFlag k status).hub := (hubStandsDown_setMrg s.hub railFlt).trans (hubStandsDown_eventOnce h ..)
  exact ⟨only, ⟨hub, fun _ => .refl _⟩, rfl⟩

/-- Outside step 4 a fault of a VCORE rail fences the die. -/
theorem State.railFault_core (fenced : s.dies[n].pow.fenced = false) (step : s.hub.bring.step ≠ 4) (status : BitVec 16) :
    let t := s.railFault (vcoreRail n) status
    t.dies[n].pow.fenced = true ∧ t.dies[n].pow.vcoreOn = false ∧ t.dies[n].plan = none ∧ bit t.hub.fault 0 = true
      ∧ bit t.hub.fault 3 = true := by
  let u := (s.railFlag (vcoreRail n) status).modRail (vcoreRail n) (fun r => { r with failed := true })
  obtain ⟨flag, -, -⟩ := s.railFlag_facts (vcoreRail n) status
  have word := congrArg (·.fault) flag
  have bring := congrArg (·.bring) flag
  have marked : bit u.hub.fault 0 = true := by
    refine (congrArg (fun w : U64 => bit w 0) word).trans ?_
    exact bit_setBit_same _ (by decide)
  have whole : s.railFault (vcoreRail n) status = u.fence n .vcoreFailed := by
    unfold State.railFault
    dsimp only
    rw [if_neg, railDie_vcoreRail]
    simp only [Bool.and_eq_true, decide_eq_true_eq, not_and]
    exact fun e => absurd ((congrArg (·.step) bring).symm.trans e) step
  intro t
  rw [show t = _ from whole]
  obtain ⟨now, off, plan, said⟩ := State.fence_facts (s := u) (n := n) fenced .vcoreFailed
  exact ⟨now, off, plan, (standsDown_fence u n .vcoreFailed).hub.fault 0 marked, said⟩

/-- A fault of another rail outside step 4 is flagged, and recorded where it is new, and the module goes to Off. -/
theorem State.railFault_other (other : 8 ≤ k.val) (step : s.hub.bring.step ≠ 4) (going : s.goingOff = false) (status : BitVec 16) :
    ∃ q, s.railFault k status = (((s.railFlag k status).modRail k (fun r => { r with failed := true })).modHub fun h => { h with
        rec_ := { h.rec_ with queue := h.rec_.queue ++ q } }).takeOff
      ∧ ((s.rail k).failed = false → q ≠ []) := by
  let u := (s.railFlag k status).modRail k (fun r => { r with failed := true })
  obtain ⟨flag, -, -⟩ := s.railFlag_facts k status
  have bring := congrArg (·.bring) flag
  have power := congrArg (·.power) flag
  have outside : ¬ (u.hub.bring.step = 4 && u.hub.power.trans.isNone) = true := by
    simp only [Bool.and_eq_true, decide_eq_true_eq, not_and]
    exact fun e => absurd ((congrArg (·.step) bring).symm.trans e) step
  have die : railDie k = none := if_neg (Nat.not_lt.mpr other)
  have whole : s.railFault k status
      = (if (s.rail k).failed then u else u.modHub (fun h => h.event 6 0x12 (railUnit k) 359 0xFF (s.railDet k status))).goOff := by
    unfold State.railFault
    dsimp only
    rw [if_neg outside, die]
  have still (x : State) (same : x.hub.power.trans = s.hub.power.trans) : x.goOff = x.takeOff := by
    have stays : x.goingOff = s.goingOff := by simp only [State.goingOff, same]
    refine if_neg ?_
    rw [stays, going]
    exact Bool.false_ne_true
  have trans : u.hub.power.trans = s.hub.power.trans := congrArg (·.trans) power
  rw [whole]
  cases known : (s.rail k).failed with
  | true => exact ⟨[], (congrArg State.goOff (if_pos rfl)).trans ((still u trans).trans (by simp; rfl)), fun e => nomatch e⟩
  | false => exact ⟨[_], (congrArg State.goOff (if_neg Bool.false_ne_true)).trans (still _ trans), fun _ e => nomatch e⟩

/-! ### Sensors (R362) -/

theorem vupd_listed {α : Type} {n i : Nat} (v : Vector α n) {k : Fin n} (f : α → α) (h : k.val = i) :
    (vupd v k f).toList[i]? = some (f v[k]) := by
  subst h
  rw [Vector.getElem?_toList, Vector.getElem?_eq_getElem k.isLt]
  exact congrArg some (vupd_get_self v k f)

theorem State.keepSensor_facts (s : State) (x : SensorId) (w : Int) :
    (s.keepSensor x w).hub.fault = s.hub.fault ∧ (∀ m : DieIx, (s.keepSensor x w).dies[m].cores = s.dies[m].cores)
      ∧ (∀ m i, x = .logic m i → (s.keepSensor x w).dies[m].logic[i] = w)
      ∧ (∀ (m : DieIx) (l i : Fin 4), x = .dram m l i → (s.keepSensor x w).dies[m].temps.toList[4 * l.val + i.val]? = some w)
      ∧ (∀ i, x = .hub i → (s.keepSensor x w).hub.sens.hub[i] = w) ∧ (∀ i, x = .standby i → (s.keepSensor x w).hub.sens.standby[i] = w) := by
  cases x with
  | logic n k =>
    refine ⟨rfl, s.modDie_field n (·.cores) fun _ => rfl, ?_, fun _ _ _ e => (nomatch e), fun _ e => (nomatch e), fun _ e => nomatch e⟩
    rintro _ _ ⟨⟩
    rw [show (s.keepSensor (.logic n k) w).dies[n] = _ from s.modDie_die n _]
    exact vupd_get_self _ k _
  | dram n l k =>
    refine ⟨rfl, s.modDie_field n (·.cores) fun _ => rfl, fun _ _ e => (nomatch e), ?_, fun _ e => (nomatch e), fun _ e => nomatch e⟩
    rintro _ _ _ ⟨⟩
    rw [show (s.keepSensor (.dram n l k) w).dies[n] = _ from s.modDie_die n _]
    have place : (Fin.ofNat 16 (4 * l.val + k.val)).val = 4 * l.val + k.val := Nat.mod_eq_of_lt (by omega)
    exact vupd_listed s.dies[n].temps (fun _ => w) place
  | hub k =>
    refine ⟨rfl, fun _ => rfl, fun _ _ e => (nomatch e), fun _ _ _ e => (nomatch e), ?_, fun _ e => nomatch e⟩
    rintro _ ⟨⟩
    exact vupd_get_self _ _ _
  | standby k =>
    refine ⟨rfl, fun _ => rfl, fun _ _ e => (nomatch e), fun _ _ _ e => (nomatch e), fun _ e => (nomatch e), ?_⟩
    rintro _ ⟨⟩
    exact vupd_get_self _ _ _

/-- A reading outside its range is flagged; the values of the other sensors stay. -/
theorem State.sensorRead_facts {x : SensorId} {lo hi : Int} (range : sensorRange x = (lo, hi)) (v : Int) :
    let kept := s.keepSensor x (max lo (min hi v))
    let t := s.sensorRead x v
    t.dies = kept.dies ∧ t.hub.sens.hub = kept.hub.sens.hub ∧ t.hub.sens.standby = kept.hub.sens.standby
      ∧ (lo ≤ v → v ≤ hi → t.hub.fault = kept.hub.fault) ∧ (v < lo ∨ hi < v → bit t.hub.fault 4 = true) := by
  intro kept t
  have e : t = s.sensorRead x v := rfl
  clear_value t
  unfold State.sensorRead at e
  rw [range] at e
  dsimp only at e
  by_cases out : (decide (v < lo) || decide (hi < v)) = true
  · rw [if_pos out] at e
    rw [Bool.or_eq_true, decide_eq_true_eq, decide_eq_true_eq] at out
    have marked : bit (kept.hub.setMrg sensBad).fault 4 = true := bit_setBit_same _ (by decide)
    rw [e]
    refine ⟨rfl, ?_⟩
    rw [State.modHub_hub]
    split
    · exact ⟨rfl, rfl, fun low high => by omega, fun _ => marked⟩
    · exact ⟨rfl, rfl, fun low high => by omega, fun _ => marked⟩
  · rw [if_neg out] at e
    rw [Bool.or_eq_true, decide_eq_true_eq, decide_eq_true_eq] at out
    rw [e]
    exact ⟨rfl, rfl, rfl, fun _ _ => rfl, fun away => absurd away out⟩

theorem OnlyHub.then {t u : State} (h : OnlyHub s t) (g : OnlyHub t u) : OnlyHub s u := by
  have kept := congrArg (fun v : State => { v with hub := s.hub }) g
  exact kept.trans h

/-- The way to Off begins with the commit of the records; rails, records and the fault word stay. -/
theorem State.takeOff_says (s : State) :
    OnlyHub s s.takeOff ∧ s.takeOff.hub.power.request = 0 ∧ s.takeOff.hub.rec_ = s.hub.rec_ ∧ s.takeOff.hub.bring.attested = false
      ∧ s.takeOff.hub.fault = s.hub.fault ∧ s.takeOff.hub.power.rails = s.hub.power.rails
      ∧ ∃ y, s.takeOff.hub.power.trans = some y ∧ y.target = 0 ∧ y.begun = false ∧ y.steps.head? = some .commit := by
  have first : s.offSteps.head? = some .commit := rfl
  unfold State.takeOff
  generalize s.offSteps = steps at *
  exact ⟨rfl, rfl, rfl, rfl, rfl, rfl, _, rfl, rfl, rfl, first⟩

/-! ### Answers of regulators -/

/-- The rail whose answer, or whose missing answer, has come has it alone. -/
theorem State.modRail_rail (s : State) (k : RailIx) (f : Rail → Rail) :
    (s.modRail k f).hub.power.rails[k] = f s.hub.power.rails[k]
      ∧ ∀ j : RailIx, j ≠ k → (s.modRail k f).hub.power.rails[j] = s.hub.power.rails[j] :=
  ⟨vupd_get_self _ k f, fun _ other => vupd_get_other _ f other⟩

/-- The third answer in a row that does not come is a fault of the rail. -/
theorem State.railAnswer_third (s : State) (avs : Bool) (faulty : RailReading → Bool)
    (on : s.hub.power.rails[k].enabled = true)
    (third : 2 ≤ if avs then s.hub.power.rails[k].missedA else s.hub.power.rails[k].missed) :
    ∃ (f : Rail → Rail) (status : BitVec 16), s.railAnswer k avs none faulty = (s.modRail k f).railFault k status := by
  cases avs with
  | true =>
    obtain ⟨rail, -⟩ := s.modRail_rail k (fun y => { y with missedA := y.missedA + 1 })
    have count := congrArg (·.missedA) rail
    have still := congrArg (·.enabled) rail
    refine ⟨_, _, if_pos ?_⟩
    rw [Bool.and_eq_true, decide_eq_true_eq]
    exact ⟨(Nat.succ_le_succ third).trans_eq count.symm, still.trans on⟩
  | false =>
    obtain ⟨rail, -⟩ := s.modRail_rail k (fun y => { y with missed := y.missed + 1 })
    have count := congrArg (·.missed) rail
    have still := congrArg (·.enabled) rail
    refine ⟨_, _, if_pos ?_⟩
    rw [Bool.and_eq_true, decide_eq_true_eq]
    exact ⟨(Nat.succ_le_succ third).trans_eq count.symm, still.trans on⟩

/-- An answer without a fault is kept. -/
theorem State.railAnswer_fine (s : State) (avs : Bool) (r : RailReading) {faulty : RailReading → Bool} (fine : faulty r = false) :
    s.railAnswer k avs (some r) faulty = s.modRail k (fun y => if avs then { y.reads r with missedA := 0 } else { y.reads r with missed := 0 }) := by
  refine if_neg ?_
  rw [fine]
  exact Bool.false_ne_true

/-- One with a fault, of a rail that is enabled, is a fault of the rail. -/
theorem State.railAnswer_faulty (s : State) (r : RailReading) {faulty : RailReading → Bool} (bad : faulty r = true)
    (on : s.hub.power.rails[k].enabled = true) :
    s.railAnswer k false (some r) faulty = (s.modRail k (fun y => { y.reads r with missed := 0 })).railFault k r.status := by
  have rail := (s.modRail_rail k (fun y => { y.reads r with missed := 0 })).1
  refine if_pos ?_
  rw [bad, Bool.true_and]
  exact (congrArg (·.enabled) rail).trans on

end

/-! ### The statement -/

/-- Settles O44: regulators by `railAnswer_fine`, `railFault_core` and `railFault_other`, sensors by `keepSensor_facts` and
`sensorRead_facts`, and the coolant node by `coolantIn_says` and `inletValue_facts`. -/
theorem sensorsAndRegulators : Obligations.SensorsAndRegulators := by
  unfold Obligations.SensorsAndRegulators
  intro s n k r x v c p kept up
  refine ⟨fun fine => ?_, fun i missed which on third fenced step => ?_, fun fine => ?_, fun other on faulty step going => ?_, ?_,
    fun trip dark => ?_, fun cool => ?_, fun run idle number => ?_, fun run idle => ?_, fun still o => ?_, fun fresh late => ?_⟩
  · let s₁ := s.modHub (fun h => { h with power := { h.power with avs := vupd h.power.avs n (fun l => (r.mv * r.ma :: l).take 10) } })
    obtain ⟨here, others⟩ := s₁.modRail_rail (vcoreRail n) (fun y => { y.reads r with missedA := 0 })
    have whole : s.avsbusRead n (some r) = s₁.modRail (vcoreRail n) (fun y => { y.reads r with missedA := 0 }) :=
      s₁.railAnswer_fine (faulty := fun x => x.status ≠ 0) true r (decide_eq_false fun bad => bad fine)
    have powers := vupd_get_self p.avs n (fun l => (r.mv * r.ma :: l).take 10)
    exact ⟨_, (act_runs _ up).trans (congrArg Host.Outcome.next whole), ⟨rfl, rfl, here, others⟩, powers⟩
  · have fault : ∃ (f : Rail → Rail) (status : BitVec 16), exec i s = .next ((s.modRail (vcoreRail n) f).railFault (vcoreRail n) status) := by
      rw [List.mem_cons, List.mem_singleton, Prod.mk.injEq, Prod.mk.injEq] at which
      obtain ⟨rfl, rfl⟩ | ⟨rfl, rfl⟩ := which
      · obtain ⟨f, status, e⟩ := s.railAnswer_third true (fun x => x.status ≠ 0) on third
        exact ⟨f, status, (act_runs _ up).trans (congrArg Host.Outcome.next e)⟩
      · obtain ⟨f, status, e⟩ := s.railAnswer_third false (fun x => x.status &&& statusFaults ≠ 0) on third
        exact ⟨f, status, (act_runs _ up).trans (congrArg Host.Outcome.next e)⟩
    obtain ⟨f, status, e⟩ := fault
    exact ⟨_, e, State.railFault_core (s := s.modRail (vcoreRail n) f) fenced step status⟩
  · obtain ⟨here, others⟩ := s.modRail_rail k (fun y => { y.reads r with missed := 0 })
    have whole : s.pmbusPoll k (some r) = s.modRail k (fun y => { y.reads r with missed := 0 }) :=
      s.railAnswer_fine (faulty := fun x => x.status &&& statusFaults ≠ 0) false r (decide_eq_false fun bad => bad fine)
    exact ⟨_, (act_runs _ up).trans (congrArg Host.Outcome.next whole), ⟨rfl, rfl, here, others⟩, rfl⟩
  · let s₁ := s.modRail k (fun y => { y.reads r with missed := 0 })
    have rail := (s.modRail_rail k (fun y => { y.reads r with missed := 0 })).1
    have whole : s.pmbusPoll k (some r) = s₁.railFault k r.status :=
      s.railAnswer_faulty (faulty := fun x => x.status &&& statusFaults ≠ 0) r (decide_eq_true faulty) on
    obtain ⟨q, gone, new⟩ := State.railFault_other (s := s₁) other step going r.status
    obtain ⟨flag, down, only⟩ := s₁.railFlag_facts k r.status
    have word := congrArg (·.fault) flag
    have power := congrArg (·.power) flag
    have marked : bit (s₁.railFlag k r.status).hub.fault 0 = true := by
      refine (congrArg (fun w : U64 => bit w 0) word).trans ?_
      exact bit_setBit_same _ (by decide)
    have failed := ((s₁.railFlag k r.status).modRail_rail k (fun y => { y with failed := true })).1
    have failed := congrArg (·.failed) failed
    have fresh := new ∘ (congrArg (·.failed) rail).trans
    have records := down.hub.queue
    generalize s₁.railFlag k r.status = u at *
    refine ⟨_, (act_runs _ up).trans (congrArg Host.Outcome.next (whole.trans gone)), ?_⟩
    obtain ⟨kept, request, rec_, attested, fault, rails, wayOff⟩ := State.takeOff_says ((u.modRail k (fun y => { y with failed := true })).modHub
      fun h => { h with rec_ := { h.rec_ with queue := h.rec_.queue ++ q } })
    refine ⟨only.before.then kept.before.before, (congrArg (fun w : U64 => bit w 0) fault).trans marked, request, fun unknown => ?_, attested, ?_, wayOff⟩
    · have more : q ≠ [] := fresh unknown
      have listed : u.hub.rec_.queue.length < (u.hub.rec_.queue ++ q).length := by
        rw [List.length_append]
        exact Nat.lt_add_of_pos_right (List.length_pos_of_ne_nil more)
      rw [rec_]
      exact Nat.lt_of_le_of_lt records listed
    · rw [rails]
      exact failed
  · intro lo hi w
    obtain ⟨fault, cores, logic, dram, hub, standby⟩ := s.keepSensor_facts x w
    obtain ⟨dies, hubs, standbys, inside, outside⟩ := State.sensorRead_facts (s := s) (x := x) (lo := lo) (hi := hi) rfl v
    refine ⟨_, act_runs _ up, fun m => ?_, fun m i is => ?_, fun m l i is => ?_, fun i is => ?_, fun i is => ?_, fun low high => ?_, outside⟩
    · rw [dies]
      exact cores m
    · rw [dies]
      refine ⟨logic m i is, ?_⟩
      dsimp only [lo, hi]
      rw [is]
      exact ⟨rfl, rfl⟩
    · rw [dies]
      exact dram m l i is
    · rw [hubs]
      exact hub i is
    · rw [standbys]
      exact standby i is
    · exact (inside low high).trans fault
  · let h := Hub.setMrg { s.hub with sens := { s.hub.sens with thermtripLow := true } } ttrip
    have marked : bit h.fault 7 = true := bit_setBit_same _ (by decide)
    have whole : s.thermtrip = s.modHub fun _ =>
        if h.fw.running then h.event 6 0x0E 0 364 (BitVec.ofNat 8 ttrip.bit) (faultDet h.fault 0) else h :=
      if_pos (by rw [trip, dark]; rfl)
    refine ⟨_, (act_runs _ up).trans (congrArg Host.Outcome.next whole), rfl, ?_⟩
    rw [State.modHub_hub]
    split
    · exact ⟨rfl, marked⟩
    · exact ⟨rfl, marked⟩
  · have stays : s.thermtrip = s := if_neg (by rw [cool]; exact Bool.false_ne_true)
    exact (act_runs _ up).trans (congrArg Host.Outcome.next stays)
  · let s₁ := s.modDict (fun d => { d with fieldOut := [d.coolantAsks], fieldIn := [] })
    let s₀ := s.modDict (fun d => { d with fieldOut := [d.coolantAsks], fieldIn := d.fieldIn ++ [d.coolantSays c] })
    have asked : s.inletRead (some c) = iter State.takeFrame s₀.hub.dict.fieldIn.length s₀ := if_pos run
    have waits : s₀.hub.dict.fieldIn = [s.hub.dict.coolantSays c] := congrArg (· ++ [s.hub.dict.coolantSays c]) idle
    have taken : s₀.takeFrame = s₁.fieldFrame (s.hub.dict.coolantSays c) := by
      rw [State.takeFrame, waits]
      rfl
    have heard : s₁.fieldFrame (s.hub.dict.coolantSays c) = s₁.inletValue c := by
      rw [State.fieldFrame, show s₁.hub.dict.coolantIn (s.hub.dict.coolantSays c) = some c from s₁.hub.dict.coolantIn_says c]
    have whole : s.inletRead (some c) = s₁.inletValue c := by
      rw [asked, waits]
      exact taken.trans heard
    obtain ⟨only, dict, sens, hot, cold⟩ := State.inletValue_facts (s := s₁) c number
    have kept : s₁.hub.dict = { s.hub.dict with fieldOut := [s.hub.dict.coolantAsks] } := by
      have e : s₁.hub.dict = { s.hub.dict with fieldOut := [s.hub.dict.coolantAsks], fieldIn := [] } := rfl
      rw [e, ← idle]
    exact ⟨_, (act_runs _ up).trans (congrArg Host.Outcome.next whole), only.before, dict.trans kept, sens, hot, cold⟩
  · have whole : s.inletRead none = s.modDict (fun d => { d with fieldOut := [d.coolantAsks] }) := by
      let s₀ := s.modDict (fun d => { d with fieldOut := [d.coolantAsks], fieldIn := d.fieldIn ++ [] })
      have asked : s.inletRead none = iter State.takeFrame s₀.hub.dict.fieldIn.length s₀ := if_pos run
      have waits : s₀.hub.dict.fieldIn = [] := congrArg (· ++ []) idle
      rw [asked, waits]
      show s.modDict (fun d => { d with fieldOut := [d.coolantAsks], fieldIn := d.fieldIn ++ [] }) = _
      simp only [List.append_nil]
    exact (act_runs _ up).trans (congrArg Host.Outcome.next whole)
  · have stays : s.inletRead o = s := if_neg (by rw [still]; exact Bool.false_ne_true)
    exact (act_runs _ up).trans (congrArg Host.Outcome.next stays)
  · have whole : s.inletStale = s.modHub (fun h => Hub.mrgFault { h with sens := { h.sens with inletStale := true } } inletStaleBit) :=
      if_pos (by rw [fresh, Bool.not_false, Bool.true_and, decide_eq_true_eq]; exact late)
    have only := Hub.mrgFault_only { s.hub with sens := { s.hub.sens with inletStale := true } } inletStaleBit 0 none
    have sens := congrArg (·.sens) only
    have word := congrArg (·.fault) only
    refine ⟨_, (act_runs _ up).trans (congrArg Host.Outcome.next whole), rfl, sens, ?_⟩
    refine (congrArg (fun w : U64 => bit w 6) word).trans ?_
    exact bit_setBit_same _ (by decide)

end Sys2Proof.Machine

/-! # Power and heat are capped (O45) -/

namespace Sys2Proof.Machine

/-! ### Conditions and their records (R366, R426) -/

/-- From h to g only records and bits of the fault word have come. -/
structure Hub.Recorded (h g : Hub) : Prop where
  rest : { g with rec_ := h.rec_, fault := h.fault, setNow := h.setNow } = h
  queue : h.rec_.queue.length ≤ g.rec_.queue.length
  fault : ∀ b, bit h.fault b = true → bit g.fault b = true

section
variable {h g k : Hub}

theorem Hub.Recorded.refl (h : Hub) : h.Recorded h := ⟨rfl, Nat.le_refl _, fun _ => id⟩

theorem Hub.Recorded.trans (a : h.Recorded g) (b : g.Recorded k) : h.Recorded k := by
  refine ⟨?_, a.queue.trans b.queue, fun x => b.fault x ∘ a.fault x⟩
  have kept := congrArg (fun x : Hub => { x with rec_ := h.rec_, fault := h.fault, setNow := h.setNow }) b.rest
  exact kept.trans a.rest

theorem Hub.Recorded.power (a : h.Recorded g) : g.power = h.power := congrArg (·.power) a.rest
theorem Hub.Recorded.sens (a : h.Recorded g) : g.sens = h.sens := congrArg (·.sens) a.rest
theorem Hub.Recorded.dict (a : h.Recorded g) : g.dict = h.dict := congrArg (·.dict) a.rest
theorem Hub.Recorded.time (a : h.Recorded g) : g.time = h.time := congrArg (·.time) a.rest

theorem Hub.Recorded.ite {c : Prop} [Decidable c] (a : h.Recorded g) (b : h.Recorded k) : h.Recorded (if c then g else k) := by
  split
  · exact a
  · exact b

theorem Hub.recorded_event (h : Hub) (sev : Nat) (unitk : BitVec 8) (unit : BitVec 16) (rule : Nat) (b : BitVec 8) (det : Bytes) :
    h.Recorded (h.event sev unitk unit rule b det) :=
  ⟨rfl, (hubStandsDown_event h sev unitk unit rule b det).queue, fun _ => id⟩

theorem Hub.recorded_eventOnce (h : Hub) (sev : Nat) (unitk : BitVec 8) (unit : BitVec 16) (rule : Nat) (b : BitVec 8) (det : Bytes) :
    h.Recorded (h.eventOnce sev unitk unit rule b det) := by
  have only := h.eventOnce_only sev unitk unit rule b det
  have down := hubStandsDown_eventOnce h sev unitk unit rule b det
  refine ⟨?_, down.queue, down.fault⟩
  have kept := congrArg (fun x : Hub => { x with fault := h.fault, setNow := h.setNow }) only
  exact kept

theorem Hub.recorded_setMrg (h : Hub) (b : FBit) : h.Recorded (h.setMrg b) :=
  ⟨rfl, Nat.le_refl _, fun _ set => bit_setBit_of_bit _ set⟩

theorem Hub.recorded_mrgFault (h : Hub) (b : FBit) (unit : BitVec 16) (det : Option Bytes) : h.Recorded (h.mrgFault b unit det) :=
  (h.recorded_setMrg b).trans (Hub.recorded_eventOnce ..)

theorem Hub.recorded_protAt (h : Hub) (rule : Nat) (unit : BitVec 16) : h.Recorded (h.protAt rule unit) :=
  (h.recorded_setMrg protThr).trans (Hub.recorded_eventOnce ..)

theorem Hub.recorded_protBegins (h : Hub) (rule : Nat) (mask : BitVec 8) : h.Recorded (h.protBegins rule mask) := by
  unfold Hub.protBegins
  induction onesOf mask generalizing h with
  | nil => exact .refl h
  | cons i l ih => exact (h.recorded_protAt rule (unitIx i 0 0)).trans (ih _)

end

/-! ### The power cap (R365, R366) -/

section
variable {s : State}

theorem State.sendDuties_die (s : State) (m : DieIx) :
    s.sendDuties.dies[m] = if s.dies[m].reached then { s.dies[m] with clock := { s.dies[m].clock with
        thrNext := BitVec.ofNat 10 (if s.dies[m].plan.isSome then s.hub.power.dutyOf s.dies[m].clock.thrMax.toNat s.dies[m].ix else 0) } }
      else s.dies[m] := Vector.getElem_map ..

/-- The duty that the cap computation arrives at. -/
def Power.capped (p : Power) : Nat :=
  if p.capForce.toNat * 1000000 < p.compute then min 500 (p.duty + 10)
  else if p.compute * 100 < p.capForce.toNat * 1000000 * 97 then p.duty - 10 else p.duty

/-- What the cap computation leaves in the hub die, up to records and fault bits. -/
theorem State.capCompute_facts (s : State) :
    (∃ u : State, u.dies = s.dies ∧ u.ports = s.ports ∧ s.capCompute = u.sendDuties) ∧ s.capCompute.hub.dict = s.hub.dict
      ∧ s.capCompute.hub.power.rails = s.hub.power.rails ∧ s.capCompute.hub.power.powerUw = s.hub.power.compute
      ∧ s.capCompute.hub.power.duty = s.hub.power.capped
      ∧ (9 ≤ s.hub.power.shortRun → s.hub.power.capForce.toNat * 1000000 < s.hub.power.compute → s.allAtTheta = true →
          bit s.capCompute.hub.fault 1 = true)
      ∧ (99 ≤ s.hub.power.overRun → s.hub.power.capForce.toNat * 1000000 * 105 < s.hub.power.compute * 100 → s.allAtTheta = true →
          s.hub.power.prot = false → s.capCompute.hub.power.prot = true ∧ bit s.capCompute.hub.fault 2 = true) := by
  generalize def_ : s.capCompute = t
  unfold State.capCompute at def_
  extract_lets p uw cap at_ u short spent calm prot warned s₁ at def_
  let h₁ : Hub := { s.hub with power := { s.hub.power with
    powerUw := uw, duty := u, shortRun := short, overRun := spent, calmRun := calm, prot := prot, protVcore := warned } }
  let h₂ := if 10 ≤ short then h₁.mrgFault capShort else h₁
  let h₃ := if prot && !p.prot then h₂.protAt 366 0 else h₂
  let h₄ := h₃.protBegins 366 (warned &&& ~~~p.protVcore)
  have r₂ : h₁.Recorded h₂ := .ite (h₁.recorded_mrgFault ..) (.refl _)
  have r₃ : h₂.Recorded h₃ := .ite (h₂.recorded_protAt ..) (.refl _)
  have r₄ : h₃.Recorded h₄ := h₃.recorded_protBegins ..
  have all := r₂.trans (r₃.trans r₄)
  have hub : t.hub = h₄ := by rw [← def_]; rfl
  refine ⟨⟨s₁, rfl, rfl, def_.symm⟩, ?_⟩
  rw [hub, all.power, all.dict]
  refine ⟨rfl, rfl, rfl, rfl, fun run above full => ?_, fun run above full calm => ?_⟩
  · have long : 10 ≤ short := by
      dsimp only [short]
      rw [if_pos (by rw [show at_ = true from full, Bool.and_true, decide_eq_true_eq]; exact above)]
      exact Nat.succ_le_succ run
    refine (r₃.trans r₄).fault 1 ?_
    rw [show h₂ = _ from if_pos long]
    exact (Hub.recorded_eventOnce ..).fault 1 (bit_setBit_same _ (by decide))
  · have on : prot = true := by
      dsimp only [prot]
      rw [if_neg (by rw [show p.prot = false from calm]; exact Bool.false_ne_true), decide_eq_true_eq]
      dsimp only [spent]
      rw [if_pos (by rw [show at_ = true from full, Bool.and_true, decide_eq_true_eq]; exact above)]
      exact Nat.succ_le_succ run
    refine ⟨on, r₄.fault 2 ?_⟩
    rw [show h₃ = _ from if_pos (by rw [on, calm]; rfl)]
    exact (Hub.recorded_eventOnce ..).fault 2 (bit_setBit_same _ (by decide))

end

/-! ### Thermal protection of one die (R367) -/

/-- The logic, and the DRAM, of a die is under a condition. -/
def Power.hotL (p : Power) (d : Die) (n : DieIx) : Bool :=
  d.pow.vcoreOn && if bit p.hotLogic n.val then decide (776 < d.logicMax) else decide (800 ≤ d.logicMax)
def Power.hotD (p : Power) (d : Die) (n : DieIx) : Bool :=
  d.pow.vcoreOn && if bit p.hotDram n.val then decide (744 < d.dramMax) else decide (760 < d.dramMax)

/-- The protective duty it then has. -/
def Power.nextProt (p : Power) (d : Die) (n : DieIx) : Nat :=
  if p.hotL d n || p.hotD d n then min 500 (p.protDuty[n] + 20) else p.protDuty[n] - 10

/-- How long its conditions have held. -/
def Power.hotAge (p : Power) (d : Die) (n : DieIx) (now : Nat) : Option Nat :=
  sinceWhen now (d.pow.vcoreOn && decide (840 ≤ d.logicMax)) p.hotSince[n]
def Power.dramAge (p : Power) (d : Die) (n : DieIx) (now : Nat) : Option Nat :=
  sinceWhen now (decide (784 < d.dramMax)) p.dramSince[n]
def Power.fullAge (p : Power) (d : Die) (n : DieIx) (now : Nat) : Option Nat :=
  sinceWhen now (decide (500 ≤ p.nextProt d n) && (p.hotL d n || p.hotD d n)) p.maxSince[n]

/-- One of them has held for so long that the die is fenced. -/
def Power.spent (p : Power) (d : Die) (n : DieIx) (now : Nat) : Bool :=
  elapsed now (msCounts 10) (p.hotAge d n now) || elapsed now (msCounts 10) (p.dramAge d n now)
    || elapsed now (secCounts 1) (p.fullAge d n now)

/-- The power management after the conditions of a die have been judged. -/
def Power.judged (p : Power) (d : Die) (n : DieIx) (now : Nat) : Power :=
  let put (m : BitVec 8) (b : Bool) : BitVec 8 := if b then setBit m n.val else clrBit m n.val
  { p with
    protDuty := vupd p.protDuty n (fun _ => p.nextProt d n), hotSince := vupd p.hotSince n (fun _ => p.hotAge d n now),
    dramSince := vupd p.dramSince n (fun _ => p.dramAge d n now), maxSince := vupd p.maxSince n (fun _ => p.fullAge d n now),
    hotLogic := put p.hotLogic (p.hotL d n), hotDram := put p.hotDram (p.hotD d n) }

/-- The hub die then. -/
def Hub.judged (h : Hub) (d : Die) (n : DieIx) : Hub :=
  let p := h.power
  let g := { h with power := p.judged d n h.time.wall }
  let g := if p.hotL d n && !bit p.hotLogic n.val then g.protBegins 367 (setBit 0 n.val) else g
  if p.hotD d n && !bit p.hotDram n.val then g.protBegins 367 (setBit 0 n.val) else g

/-- A die that is not judged: it is fenced, or has no logic and no DRAM that is up. -/
def Power.idle (p : Power) (d : Die) : Bool := d.pow.fenced || !(d.pow.vcoreOn || p.rails[vdram].enabled)

theorem State.thermalDie_eq (s : State) (n : DieIx) :
    s.thermalDie n = if s.hub.power.idle s.dies[n] then s
      else if s.hub.power.spent s.dies[n] n s.now then
        ((s.modHub (·.judged s.dies[n] n)).modHub (fun h => h.event 5 0x0E (unitIx n.val 0 0) 367 0xFF [])).fence n .fencedCmd
      else s.modHub (·.judged s.dies[n] n) := rfl

section
variable {s t u : State} {n m : DieIx}

theorem Hub.judged_recorded (h : Hub) (d : Die) (n : DieIx) :
    Hub.Recorded { h with power := h.power.judged d n h.time.wall } (h.judged d n) := by
  refine Hub.Recorded.trans (g := if h.power.hotL d n && !bit h.power.hotLogic n.val
    then Hub.protBegins { h with power := h.power.judged d n h.time.wall } 367 (setBit 0 n.val)
    else { h with power := h.power.judged d n h.time.wall }) ?_ ?_
  · exact .ite (Hub.recorded_protBegins ..) (.refl _)
  · exact .ite (Hub.recorded_protBegins ..) (.refl _)

theorem Hub.judged_power (h : Hub) (d : Die) (n : DieIx) : (h.judged d n).power = h.power.judged d n h.time.wall :=
  (h.judged_recorded d n).power

theorem hubStandsDown_judged (h : Hub) (d : Die) (n : DieIx) : HubStandsDown h (h.judged d n) := by
  have r := h.judged_recorded d n
  exact ⟨r.sens, congrArg (·.hubHot) r.power, congrArg (·.wall) r.time, r.queue, r.fault⟩

theorem standsDown_thermalDie (s : State) (n : DieIx) : StandsDown s (s.thermalDie n) := by
  have judged : StandsDown s (s.modHub (·.judged s.dies[n] n)) := standsDown_modHub s (hubStandsDown_judged ..)
  rw [s.thermalDie_eq n]
  split
  · exact .refl s
  · split
    · exact (judged.trans (standsDown_modHub _ (hubStandsDown_event ..))).trans (standsDown_fence _ n _)
    · exact judged

/-! ### Dies that are not fenced -/

/-- The protective duty of a die after thermal protection. -/
def State.protNext (s : State) (n : DieIx) : Nat :=
  if s.hub.power.idle s.dies[n] then s.hub.power.protDuty[n] else s.hub.power.nextProt s.dies[n] n

/-- No condition of the die can have held too long. -/
def Die.mild (d : Die) (duty : Nat) : Prop := d.dramMax ≤ 784 ∧ (d.pow.vcoreOn = false ∨ (d.logicMax < 840 ∧ duty < 480))

/-- From s to t the dies that a list names have been judged, and none was fenced. -/
structure Judged (l : List DieIx) (s t : State) : Prop where
  dies : t.dies = s.dies
  ports : t.ports = s.ports
  sens : t.hub.sens = s.hub.sens
  power : { t.hub.power with protDuty := s.hub.power.protDuty, hotSince := s.hub.power.hotSince, dramSince := s.hub.power.dramSince,
                             maxSince := s.hub.power.maxSince, hotLogic := s.hub.power.hotLogic, hotDram := s.hub.power.hotDram } = s.hub.power
  others : ∀ m ∉ l, t.hub.power.protDuty[m] = s.hub.power.protDuty[m] ∧ bit t.hub.power.hotLogic m.val = bit s.hub.power.hotLogic m.val
    ∧ bit t.hub.power.hotDram m.val = bit s.hub.power.hotDram m.val
  these : ∀ m ∈ l, t.hub.power.protDuty[m] = s.protNext m

theorem elapsed_of_not (now span : Nat) (old : Option Nat) : elapsed now span (sinceWhen now false old) = false := rfl

theorem Power.nextProt_le (p : Power) (d : Die) (n : DieIx) (h : p.protDuty[n] < 480) : p.nextProt d n < 500 := by
  unfold Power.nextProt
  split <;> omega

theorem Power.spent_of_mild {p : Power} {d : Die} (now : Nat) (h : d.mild p.protDuty[n]) : p.spent d n now = false := by
  obtain ⟨cold, off | ⟨mild, low⟩⟩ := h
  · have l : p.hotL d n = false := by rw [Power.hotL, off, Bool.false_and]
    have r : p.hotD d n = false := by rw [Power.hotD, off, Bool.false_and]
    rw [Power.spent, Power.hotAge, Power.dramAge, Power.fullAge, off, l, r, decide_eq_false (Int.not_lt.mpr cold), Bool.or_false, Bool.and_false]
    rfl
  · have below := p.nextProt_le d n low
    rw [Power.spent, Power.hotAge, Power.dramAge, Power.fullAge, decide_eq_false (Int.not_lt.mpr cold), decide_eq_false (Int.not_le.mpr mild),
      decide_eq_false (Nat.not_le.mpr below), Bool.and_false, Bool.false_and]
    rfl

theorem judged_one (s : State) (n : DieIx) (h : s.dies[n].mild s.hub.power.protDuty[n]) : Judged [n] s (s.thermalDie n) := by
  rw [s.thermalDie_eq n]
  by_cases idle : s.hub.power.idle s.dies[n] = true
  · rw [if_pos idle]
    refine ⟨rfl, rfl, rfl, rfl, fun _ _ => ⟨rfl, rfl, rfl⟩, fun m hm => ?_⟩
    rw [List.mem_singleton.mp hm, State.protNext, if_pos idle]
  · rw [if_neg idle, if_neg (by rw [Power.spent_of_mild _ h]; exact Bool.false_ne_true)]
    have power := s.hub.judged_power s.dies[n] n
    have sens := (s.hub.judged_recorded s.dies[n] n).sens
    refine ⟨rfl, rfl, sens, ?_, fun m hm => ?_, fun m hm => ?_⟩
    · rw [State.modHub_hub, power]
      rfl
    · have other : m ≠ n := fun e => hm (List.mem_singleton.mpr e)
      have apart : m.val ≠ n.val := fun e => other (Fin.ext e)
      have put (x : BitVec 8) (b : Bool) : bit (if b then setBit x n.val else clrBit x n.val) m.val = bit x m.val := by
        split
        · exact bit_setBit_ne x apart
        · exact bit_clrBit_ne x m.isLt apart
      rw [State.modHub_hub, power]
      exact ⟨vupd_get_other _ _ other, put _ _, put _ _⟩
    · rw [List.mem_singleton.mp hm, State.modHub_hub, power, State.protNext, if_neg idle]
      exact vupd_get_self _ _ _

theorem Judged.protNext {l : List DieIx} (j : Judged l s t) (h : m ∉ l) : t.protNext m = s.protNext m := by
  obtain ⟨duty, logic, dram⟩ := j.others m h
  have rails : t.hub.power.rails = s.hub.power.rails := congrArg (·.rails) j.power
  simp only [State.protNext, Power.idle, Power.nextProt, Power.hotL, Power.hotD, j.dies, rails, logic, dram]
  rw [duty]
  rfl

theorem judged_all {l : List DieIx} (once : l.Nodup) (s : State) (h : ∀ m ∈ l, s.dies[m].mild s.hub.power.protDuty[m]) :
    Judged l s (l.foldl (fun s n => s.thermalDie n) s) := by
  induction l generalizing s with
  | nil => exact ⟨rfl, rfl, rfl, rfl, fun _ _ => ⟨rfl, rfl, rfl⟩, fun _ e => nomatch e⟩
  | cons n l ih =>
    obtain ⟨fresh, once⟩ := List.nodup_cons.mp once
    have one := judged_one s n (h n List.mem_cons_self)
    have apart (m : DieIx) (hm : m ∈ l) : m ∉ [n] := fun e => fresh (List.mem_singleton.mp e ▸ hm)
    have rest := ih once (s.thermalDie n) fun m hm => by
      rw [one.dies, (one.others m (apart m hm)).1]
      exact h m (List.mem_cons_of_mem n hm)
    rw [List.foldl_cons]
    generalize l.foldl (fun s n => s.thermalDie n) (s.thermalDie n) = t at rest
    refine ⟨rest.dies.trans one.dies, rest.ports.trans one.ports, rest.sens.trans one.sens, ?_, fun m hm => ?_, fun m hm => ?_⟩
    · have kept := congrArg (fun p : Power => { p with
        protDuty := s.hub.power.protDuty, hotSince := s.hub.power.hotSince, dramSince := s.hub.power.dramSince
        maxSince := s.hub.power.maxSince, hotLogic := s.hub.power.hotLogic, hotDram := s.hub.power.hotDram }) rest.power
      exact kept.trans one.power
    · obtain ⟨duty, logic, dram⟩ := rest.others m fun e => hm (List.mem_cons_of_mem n e)
      obtain ⟨duty', logic', dram'⟩ := one.others m fun e => hm (List.mem_singleton.mp e ▸ List.mem_cons_self)
      exact ⟨duty.trans duty', logic.trans logic', dram.trans dram'⟩
    · obtain rfl | later := List.mem_cons.mp hm
      · exact (rest.others m fresh).1.trans (one.these m List.mem_cons_self)
      · exact (rest.these m later).trans (one.protNext (apart m later))

/-! ### The whole of thermal protection -/

/-- Every die has been judged, and its duty sent. -/
def State.judgeAll (s : State) : State := ((List.finRange 8).foldl (fun s n => s.thermalDie n) s).sendDuties

theorem standsDown_sendDuties (s : State) : StandsDown s s.sendDuties :=
  standsDown_mapDies s fun d => by
    dsimp only
    split
    · exact .of_eq rfl rfl rfl rfl
    · exact .refl d

theorem standsDown_judgeAll (s : State) : StandsDown s s.judgeAll :=
  (StandsDown.foldl standsDown_thermalDie _ s).trans (standsDown_sendDuties _)

/-- A sensor of the hub die is at 110 °C. -/
def Hub.boils (h : Hub) : Bool := h.sens.hub.toList.any (fun t => decide (880 ≤ t))

/-- What thermal protection does for the hub die. -/
def State.coolHub (s : State) : State :=
  let off := s.goingOff || (s.hub.power.trans.isNone && s.hub.power.state = 0 && !s.anyRail)
  let t := s.modHub (fun h => { h with power := { h.power with hubHot := s.hub.boils } })
  let t := if s.hub.boils && (!off || !s.hub.power.hubHot) then t.modHub (fun h => h.event 6 0x0E 0 367 0xFF []) else t
  if s.hub.boils && !off then t.goOff else t

theorem State.thermalProtect_eq (s : State) : s.thermalProtect = s.judgeAll.coolHub := by
  unfold State.thermalProtect State.judgeAll
  generalize (List.finRange 8).foldl (fun s n => s.thermalDie n) s = u
  rfl

theorem State.goOff_facts (s : State) :
    s.goOff.dies = s.dies ∧ s.goOff.ports = s.ports ∧ s.goOff.hub.power.protDuty = s.hub.power.protDuty
      ∧ (∀ theta m, s.goOff.hub.power.dutyOf theta m = s.hub.power.dutyOf theta m) := by
  unfold State.goOff State.takeOff
  split
  · exact ⟨rfl, rfl, rfl, fun _ _ => rfl⟩
  · generalize s.offSteps = steps
    exact ⟨rfl, rfl, rfl, fun _ _ => rfl⟩

theorem State.coolHub_facts (s : State) :
    s.coolHub.dies = s.dies ∧ s.coolHub.ports = s.ports ∧ s.coolHub.hub.power.protDuty = s.hub.power.protDuty
      ∧ (∀ theta m, s.coolHub.hub.power.dutyOf theta m = s.hub.power.dutyOf theta m) ∧ s.coolHub.hub.power.hubHot = s.hub.boils
      ∧ (s.hub.boils = true → s.hub.power.hubHot = false → s.hub.rec_.queue.length < s.coolHub.hub.rec_.queue.length)
      ∧ (s.hub.boils = true → s.hub.power.trans = none → s.hub.power.state ≠ 0 →
          s.coolHub.hub.power.request = 0 ∧ ∃ y, s.coolHub.hub.power.trans = some y ∧ y.target = 0) := by
  generalize def_ : s.coolHub = t
  unfold State.coolHub at def_
  extract_lets off t₁ t₂ at def_
  have same : t₂.dies = s.dies ∧ t₂.ports = s.ports ∧ t₂.hub.power = { s.hub.power with hubHot := s.hub.boils } := by
    dsimp only [t₂]
    split
    · exact ⟨rfl, rfl, rfl⟩
    · exact ⟨rfl, rfl, rfl⟩
  obtain ⟨dies, ports, power⟩ := same
  have queue (hot : s.hub.boils = true) (fresh : s.hub.power.hubHot = false) : s.hub.rec_.queue.length < t₂.hub.rec_.queue.length := by
    dsimp only [t₂]
    rw [if_pos (by rw [hot, fresh, Bool.not_false, Bool.or_true]; rfl)]
    show s.hub.rec_.queue.length < (s.hub.rec_.queue ++ [_]).length
    rw [List.length_append]
    exact Nat.lt_succ_self _
  clear_value t₂
  by_cases goes : (s.hub.boils && !off) = true
  · obtain ⟨dies', ports', prot', duty'⟩ := t₂.goOff_facts
    have down := (standsDown_goOff t₂).hub
    rw [if_pos goes] at def_
    rw [← def_]
    refine ⟨dies'.trans dies, ports'.trans ports, prot'.trans (congrArg (·.protDuty) power), fun theta m => (duty' theta m).trans ?_,
      down.hot.trans (congrArg (·.hubHot) power), fun hot fresh => (queue hot fresh).trans_le down.queue, fun hot idle _ => ?_⟩
    · rw [power]
      rfl
    · have still : t₂.goingOff = false := by
        rw [State.goingOff, power, show ({ s.hub.power with hubHot := s.hub.boils } : Power).trans = none from idle]
      have leaves : t₂.goOff = t₂.takeOff := if_neg (by rw [still]; exact Bool.false_ne_true)
      obtain ⟨-, request, -, -, -, -, y, trans, target, -⟩ := t₂.takeOff_says
      rw [leaves]
      exact ⟨request, y, trans, target⟩
  · rw [if_neg goes] at def_
    rw [← def_]
    refine ⟨dies, ports, congrArg (·.protDuty) power, fun theta m => ?_, congrArg (·.hubHot) power, queue, fun hot idle up => absurd ?_ goes⟩
    · rw [power]
      rfl
    · have on : off = false := by
        dsimp only [off]
        rw [State.goingOff, idle, decide_eq_false up]
        rfl
      rw [hot, on]
      rfl

end

/-- Where every die is mild, each has its protective duty, and is sent what it then has. -/
theorem State.judgeAll_facts (s : State) (h : ∀ m : DieIx, s.dies[m].mild s.hub.power.protDuty[m]) :
    (∀ m : DieIx, s.judgeAll.dies[m] = if s.dies[m].reached then { s.dies[m] with clock := { s.dies[m].clock with
        thrNext := BitVec.ofNat 10 (if s.dies[m].plan.isSome then s.judgeAll.hub.power.dutyOf s.dies[m].clock.thrMax.toNat s.dies[m].ix else 0) } }
      else s.dies[m])
    ∧ s.judgeAll.ports = s.ports ∧ (∀ m : DieIx, s.judgeAll.hub.power.protDuty[m] = s.protNext m)
    ∧ s.judgeAll.hub.power.trans = s.hub.power.trans ∧ s.judgeAll.hub.power.state = s.hub.power.state := by
  have j := judged_all (List.nodup_finRange 8) s fun m _ => h m
  have these (m : DieIx) := j.these m (List.mem_finRange m)
  unfold State.judgeAll
  generalize (List.finRange 8).foldl (fun s n => s.thermalDie n) s = u at j these
  refine ⟨fun m => ?_, j.ports, these, congrArg (·.trans) j.power, congrArg (·.state) j.power⟩
  rw [u.sendDuties_die m, j.dies]
  rfl

/-! ### A die that waits for its turn -/

/-- From s to t other dies were judged, while no rails come or go: die m, and what is known of it, stay. -/
structure Aside (m : DieIx) (s t : State) : Prop where
  down : StandsDown s t
  pow : t.dies[m].pow = s.dies[m].pow
  vdram : t.hub.power.rails[vdram] = s.hub.power.rails[vdram]
  since : t.hub.power.dramSince[m] = s.hub.power.dramSince[m]
  goal : s.hub.power.goal = .hold → t.hub.power.goal = .hold

section
variable {s t u : State} {n m : DieIx}

theorem Aside.refl (m : DieIx) (s : State) : Aside m s s := ⟨.refl s, rfl, rfl, rfl, id⟩

theorem Aside.trans (a : Aside m s t) (b : Aside m t u) : Aside m s u :=
  ⟨a.down.trans b.down, b.pow.trans a.pow, b.vdram.trans a.vdram, b.since.trans a.since, b.goal ∘ a.goal⟩

theorem aside_modDie (s : State) {f : Die → Die} (h : DieStandsDown s.dies[n] (f s.dies[n])) (other : m ≠ n) : Aside m s (s.modDie n f) :=
  ⟨standsDown_modDie s n h, congrArg (·.pow) (s.modDie_other n m f other), rfl, rfl, id⟩

theorem aside_endsDown (s : State) (l : List LinkEnd) : Aside m s (l.foldl (fun s e => s.endDown e 6) s) := by
  have works := linkWork_endsDown s l
  obtain ⟨-, pow, -⟩ := works.dies m
  exact ⟨.foldl (fun s e => standsDown_endDown s e 6) l s, pow, by rw [works.power], by rw [works.power], by rw [works.power]; exact id⟩

theorem aside_disableRail (s : State) (other : m ≠ n) : Aside m s (s.disableRail (vcoreRail n)) := by
  have apart : vdram ≠ vcoreRail n := fun e => by
    have die := (congrArg railDie e).trans (railDie_vcoreRail n)
    exact nomatch (show railDie vdram = none by decide).symm.trans die
  have down := standsDown_disableRail s (vcoreRail n)
  revert down
  unfold State.disableRail
  extract_lets s₁
  rw [railDie_vcoreRail]
  dsimp only
  intro down
  have first : s₁.hub.power.rails[vdram] = s.hub.power.rails[vdram] := (s.modRail_rail (vcoreRail n) _).2 vdram apart
  have ends := aside_endsDown (m := m) s₁ (diePkgs n)
  have pow : s₁.dies[m].pow = s.dies[m].pow := rfl
  have since : s₁.hub.power.dramSince[m] = s.hub.power.dramSince[m] := rfl
  have goal : s₁.hub.power.goal = s.hub.power.goal := rfl
  clear_value s₁
  generalize (diePkgs n).foldl (fun s e => s.endDown e 6) s₁ = w at *
  have last : ((w.dropLoop n).modDie n (fun d => d.powerOff d.pow.selfRef)).dies[m] = w.dies[m] := (w.dropLoop n).modDie_other n m _ other
  exact ⟨down, (congrArg (·.pow) last).trans (ends.pow.trans pow), ends.vdram.trans first, ends.since.trans since,
    fun hold => ends.goal (goal.trans hold)⟩

theorem State.railDone_hold (h : s.hub.power.goal = .hold) : s.railDone = s := by
  have goal : s.trimGoal = s.hub.power.goal := by rw [State.trimGoal, h]
  have trimmed : s.modHub (fun x => { x with power := { x.power with goal := s.trimGoal } }) = s := by rw [goal]; rfl
  have next : s.railNext = s := by
    rw [State.railNext, trimmed]
    rw [h]
  rw [State.railDone, next, State.railsEnd, h]

theorem aside_fence (hold : s.hub.power.goal = .hold) (other : m ≠ n) : Aside m s (s.fence n .fencedCmd) := by
  cases known : s.dies[n].pow.fenced with
  | true =>
    rw [State.fence, if_pos known]
    exact .refl m s
  | false =>
    have work : Aside m s (s.fenceWork n .fencedCmd) := by
      unfold State.fenceWork
      extract_lets s₁ s₂ s₃ s₄
      have h₁ : Aside m s s₁ := aside_modDie s (dieStandsDown_endPlan _ _) other
      have h₂ : Aside m s₁ s₂ := aside_endsDown _ _
      have h₃ : Aside m s₂ s₃ := aside_disableRail _ other
      have h₄ : Aside m s₃ s₄ := aside_modDie s₃ ⟨rfl, rfl, fun _ => rfl, id, id⟩ other
      clear_value s₄
      have recorded := Hub.recorded_mrgFault { s₄.hub with power := { s₄.hub.power with goal := s₄.hub.power.goal.without (vcoreRail n) } }
        dieFenced (unitIx n.val 0 0) none
      have power := recorded.power
      have goal := hubStandsDown_power s₄.hub { s₄.hub.power with goal := s₄.hub.power.goal.without (vcoreRail n) } rfl
      have down : StandsDown s₄ (s₄.modHub fun h => Hub.mrgFault { h with power := { h.power with goal := h.power.goal.without (vcoreRail n) } }
          dieFenced (unitIx n.val 0 0)) :=
        standsDown_modHub s₄ (goal.trans (hubStandsDown_mrgFault ..))
      refine h₁.trans (h₂.trans (h₃.trans (h₄.trans ⟨down, rfl, congrArg (·.rails[vdram]) power, congrArg (·.dramSince[m]) power, fun h => ?_⟩)))
      refine (congrArg (·.goal) power).trans ?_
      rw [h]
      rfl
    rw [State.fence_eq known, State.railDone_hold (work.goal hold)]
    exact work

theorem aside_thermalDie (hold : s.hub.power.goal = .hold) (other : m ≠ n) : Aside m s (s.thermalDie n) := by
  have power := s.hub.judged_power s.dies[n] n
  have judged : Aside m s (s.modHub (·.judged s.dies[n] n)) := by
    refine ⟨standsDown_modHub s (hubStandsDown_judged ..), rfl, congrArg (·.rails[vdram]) power, ?_, fun h => (congrArg (·.goal) power).trans h⟩
    refine (congrArg (·.dramSince[m]) power).trans ?_
    exact vupd_get_other _ _ other
  rw [s.thermalDie_eq n]
  split
  · exact .refl m s
  · split
    · refine judged.trans (Aside.trans (t := (s.modHub (·.judged s.dies[n] n)).modHub (fun h => h.event 5 0x0E (unitIx n.val 0 0) 367 0xFF []))
        ⟨standsDown_modHub _ (hubStandsDown_event ..), rfl, rfl, rfl, id⟩ (aside_fence ?_ other))
      exact judged.goal hold
    · exact judged

/-- A die whose DRAM has been above 98 °C for 10 ms is fenced when its turn comes. -/
theorem State.thermalDie_fences {since : Nat} (on : s.dies[m].pow.vcoreOn = true ∨ s.hub.power.rails[vdram].enabled = true)
    (hot : 784 < s.dies[m].dramMax) (old : s.hub.power.dramSince[m] = some since) (late : since + 2500000 ≤ s.now) :
    (s.thermalDie m).dies[m].pow.fenced = true := by
  cases known : s.dies[m].pow.fenced with
  | true => exact ((standsDown_thermalDie s m).dies m).fenced known
  | false =>
    have judged : s.hub.power.idle s.dies[m] = false := by
      obtain on | on := on
      · rw [Power.idle, known, on]
        rfl
      · rw [Power.idle, known, on, Bool.or_true]
        rfl
    have spent : s.hub.power.spent s.dies[m] m s.now = true := by
      have age : s.hub.power.dramAge s.dies[m] m s.now = some since := by
        rw [Power.dramAge, sinceWhen, if_pos (decide_eq_true hot), old]
        rfl
      rw [Power.spent, age, show elapsed s.now (msCounts 10) (some since) = true from decide_eq_true late, Bool.or_true, Bool.true_or]
    rw [s.thermalDie_eq m, judged, if_neg Bool.false_ne_true, if_pos spent]
    refine (State.fence_facts ?_ .fencedCmd).1
    exact known

theorem State.judges_fences {since : Nat} (l : List DieIx) (listed : m ∈ l) (s : State) (hold : s.hub.power.goal = .hold)
    (on : s.dies[m].pow.vcoreOn = true ∨ s.hub.power.rails[vdram].enabled = true) (hot : 784 < s.dies[m].dramMax)
    (old : s.hub.power.dramSince[m] = some since) (late : since + 2500000 ≤ s.now) :
    (l.foldl (fun s n => s.thermalDie n) s).dies[m].pow.fenced = true := by
  induction l generalizing s with
  | nil => nomatch listed
  | cons n l ih =>
    rw [List.foldl_cons]
    by_cases turn : m = n
    · subst turn
      have rest := StandsDown.foldl standsDown_thermalDie l (s.thermalDie m)
      exact (rest.dies m).fenced (s.thermalDie_fences on hot old late)
    · have aside := aside_thermalDie hold turn
      have later : m ∈ l := (List.mem_cons.mp listed).resolve_left turn
      have wall : (s.thermalDie n).now = s.now := aside.down.hub.wall
      refine ih later (s.thermalDie n) (aside.goal hold) ?_ ?_ (aside.since.trans old) (wall ▸ late)
      · rw [aside.pow, aside.vdram]
        exact on
      · rw [Die.dramMax, (aside.down.dies m).temps]
        exact hot

/-- The protective duty by the state of the die. -/
theorem State.protNext_cases (s : State) (m : DieIx) (low : s.hub.power.protDuty[m] < 480) :
    let d := s.dies[m]
    let hot : Prop := (if bit s.hub.power.hotLogic m.val then 776 < d.logicMax else 800 ≤ d.logicMax)
      ∨ (if bit s.hub.power.hotDram m.val then 744 < d.dramMax else 760 < d.dramMax)
    (d.pow.fenced = true ∨ (d.pow.vcoreOn = false ∧ s.hub.power.rails[vdram].enabled = false) → s.protNext m = s.hub.power.protDuty[m])
      ∧ (d.pow.fenced = false → d.pow.vcoreOn = false → s.hub.power.rails[vdram].enabled = true → s.protNext m = s.hub.power.protDuty[m] - 10)
      ∧ (d.pow.fenced = false → d.pow.vcoreOn = true → hot → s.protNext m = s.hub.power.protDuty[m] + 20)
      ∧ (d.pow.fenced = false → d.pow.vcoreOn = true → ¬ hot → s.protNext m = s.hub.power.protDuty[m] - 10) := by
  intro d hot
  have under (on : d.pow.vcoreOn = true) : (s.hub.power.hotL d m || s.hub.power.hotD d m) = true ↔ hot := by
    rw [Power.hotL, Power.hotD, on, Bool.true_and, Bool.true_and, Bool.or_eq_true]
    dsimp only [hot]
    refine or_congr ?_ ?_
    · split
      · exact decide_eq_true_iff
      · exact decide_eq_true_iff
    · split
      · exact decide_eq_true_iff
      · exact decide_eq_true_iff
  have judged (well : d.pow.fenced = false) (up : (d.pow.vcoreOn || s.hub.power.rails[vdram].enabled) = true) :
      s.protNext m = s.hub.power.nextProt d m := if_neg (by rw [Power.idle, well, up]; exact Bool.false_ne_true)
  refine ⟨fun idle => if_pos ?_, fun well dark lit => ?_, fun well on warm => ?_, fun well on cool => ?_⟩
  · obtain fenced | ⟨dark, unlit⟩ := idle
    · rw [Power.idle, fenced, Bool.true_or]
    · rw [Power.idle, dark, unlit, Bool.or_false, Bool.not_false, Bool.or_true]
  · rw [judged well (by rw [lit, Bool.or_true]), Power.nextProt, if_neg]
    rw [Power.hotL, Power.hotD, dark, Bool.false_and]
    exact Bool.false_ne_true
  · rw [judged well (by rw [on, Bool.true_or]), Power.nextProt, if_pos ((under on).mpr warm)]
    omega
  · rw [judged well (by rw [on, Bool.true_or]), Power.nextProt, if_neg (cool ∘ (under on).mp)]

end

/-! ### The statement -/

/-- Settles O45: the cap by `capCompute_facts`; thermal protection by `judged_all` for dies that stay below their limits, by
`coolHub_facts` for the hub die, and by `judges_fences` for a die whose DRAM is too hot. -/
theorem powerAndHeatAreCapped : Obligations.PowerAndHeatAreCapped := by
  unfold Obligations.PowerAndHeatAreCapped
  intro s p cap duties up
  have boils (h : ∃ y ∈ s.hub.sens.hub.toList, 880 ≤ y) : s.judgeAll.hub.boils = true := by
    obtain ⟨y, listed, hot⟩ := h
    rw [Hub.boils, (standsDown_judgeAll s).hub.sens, List.any_eq_true]
    exact ⟨y, listed, decide_eq_true hot⟩
  refine ⟨?_, fun mild low cool => ?_, fun boil idle on off => ?_, fun boil fresh => ?_, fun m since well hold on hot old late => ?_⟩
  · obtain ⟨⟨u, dies, ports, sent⟩, dict, rails, uw, duty, short, prot⟩ := s.capCompute_facts
    refine ⟨_, act_runs _ up, ?_, fun m => ?_, uw, duty, short, prot, rails, dict⟩
    · rw [sent]
      exact ports
    · rw [sent, u.sendDuties_die m, dies]
      rfl
  · have mild (m : DieIx) : s.dies[m].mild p.protDuty[m] := by
      obtain ⟨logic, dram⟩ := mild s.dies[m] (Vector.mem_toList_iff.mpr (Vector.getElem_mem m.isLt))
      exact ⟨dram, .inr ⟨logic, low m⟩⟩
    obtain ⟨told, ports, prot, -⟩ := s.judgeAll_facts mild
    obtain ⟨dies, ports', prot', duty, -⟩ := s.judgeAll.coolHub_facts
    refine ⟨_, (act_runs _ up).trans (congrArg Host.Outcome.next s.thermalProtect_eq), ports'.trans ports, fun m => ?_, fun m => ?_⟩
    · rw [dies, duty]
      exact told m
    · rw [prot', prot m]
      exact s.protNext_cases m (low m)
  · have mild (m : DieIx) : s.dies[m].mild p.protDuty[m] := by
      obtain ⟨dark, dram⟩ := off s.dies[m] (Vector.mem_toList_iff.mpr (Vector.getElem_mem m.isLt))
      exact ⟨dram, .inl dark⟩
    obtain ⟨told, -, -, same, state⟩ := s.judgeAll_facts mild
    obtain ⟨dies, -, -, -, -, -, leaves⟩ := s.judgeAll.coolHub_facts
    obtain ⟨request, trans⟩ := leaves (boils boil) (same.trans idle) (state.trans_ne on)
    refine ⟨_, (act_runs _ up).trans (congrArg Host.Outcome.next s.thermalProtect_eq), request, trans, fun m => ?_⟩
    rw [dies, told m]
    split
    · rfl
    · rfl
  · obtain ⟨-, -, -, -, hot, queue, -⟩ := s.judgeAll.coolHub_facts
    have down := (standsDown_judgeAll s).hub
    exact ⟨_, (act_runs _ up).trans (congrArg Host.Outcome.next s.thermalProtect_eq), hot.trans (boils boil),
      down.queue.trans_lt (queue (boils boil) (down.hot.trans fresh))⟩
  · obtain ⟨dies, -⟩ := s.judgeAll.coolHub_facts
    have fenced : s.judgeAll.dies[m].pow.fenced = true := by
      have judged := s.judges_fences (List.finRange 8) (List.mem_finRange m) hold on hot old late
      unfold State.judgeAll
      generalize (List.finRange 8).foldl (fun s n => s.thermalDie n) s = u at judged
      exact ((standsDown_sendDuties u).dies m).fenced judged
    refine ⟨_, (act_runs _ up).trans (congrArg Host.Outcome.next s.thermalProtect_eq), ?_⟩
    rw [dies]
    exact fenced

end Sys2Proof.Machine

/-! # The bridge carries host packets (O43) -/

namespace Sys2Proof.Machine

section
variable {s : State} {p : PortIx} {α : Type}

/-! ### Packets that the bridge still has -/

/-- The packets to the host that the bridge has. -/
def State.toHost (s : State) : List ToHost := s.hub.dict.toHost

theorem State.toHost_congr {t : State} (h : t.hub = s.hub) : t.toHost = s.toHost := congrArg (·.dict.toHost) h

theorem toHost_foldl {f : State → α → State} (h : ∀ s a, (f s a).toHost = s.toHost) (l : List α) (s : State) :
    (l.foldl f s).toHost = s.toHost := by
  induction l generalizing s with
  | nil => rfl
  | cons a l ih => exact (ih (f s a)).trans (h s a)

theorem toHost_answerHost (s : State) (code : Nat) (m : MsgId) (by_ : Option (BitVec 23)) : (s.answerHost code m by_).toHost = s.toHost := by
  unfold State.answerHost
  split
  · exact (State.toHost_congr (steady_notifyHost _ _ _)).trans (by exact rfl)
  · rfl

theorem toHost_answerFlit (s : State) (n : DieIx) (f : Flit) (code : Nat) (bridge : Bool) : (s.answerFlit n f code bridge).toHost = s.toHost := by
  unfold State.answerFlit
  split
  · rfl
  · split
    · unfold State.answerHere
      split
      · exact toHost_answerHost ..
      · rfl
    · rfl

/-- A packet that is done is gone. -/
theorem toHost_hostDone (s : State) (x : ToHost) (code : Nat) : (s.hostDone x code).toHost = s.toHost.erase x := by
  unfold State.hostDone
  dsimp only
  split
  · exact toHost_answerFlit ..
  · rfl

/-- With the host-facing port the packets go that were on their way to the adapter. -/
theorem toHost_flushOut (s : State) (p : PortIx) (host : s.ports[p].link.st = .host) :
    (s.flushOut (.port p)).toHost = ((s.toHost.filter (·.sent)).foldl (fun s x => s.hostDone x 7) s).toHost := by
  unfold State.flushOut
  extract_lets n q s₁ s₂
  have h₁ : s₁ = (s.toHost.filter (·.sent)).foldl (fun s x => s.hostDone x 7) s := if_pos host
  have h₂ : s₂.hub = s₁.hub := by
    dsimp only [s₂]
    split <;> rfl
  exact (State.toHost_congr h₂).trans (congrArg State.toHost h₁)

theorem toHost_report (s : State) (p : PortIx) (cause : Nat) : (s.report p cause).toHost = s.toHost := by
  unfold State.report
  dsimp only
  split
  · rfl
  · split
    · obtain ⟨l, e⟩ := s.hub.addReport_eq (reportBytes s.hub.dict.base p.val s.ports[p].link.st.code s.ports[p].nb.code cause s.hub.dict.topoGen)
      exact congrArg (·.dict.toHost) e
    · exact State.toHost_congr (s.modDie_hub _ _)

theorem toHost_portDown (s : State) (p : PortIx) (new : LinkState) (cause : Nat) : (s.portDown p new cause).toHost = (s.flushOut (.port p)).toHost := by
  unfold State.portDown
  extract_lets x cause s₁ s₂ s₃ det s₄
  have h₁ : s₁.toHost = (s.flushOut (.port p)).toHost := State.toHost_congr (State.modLink_hub _ _ _)
  have h₂ : s₂.toHost = s₁.toHost := rfl
  have h₃ : s₃.toHost = s₂.toHost := congrArg Dict.toHost s₂.upstreamLost_kept.2.2.1
  have h₄ : s₄.toHost = s₃.toHost := congrArg Dict.toHost (s₃.portRecord_facts p new det).2.1
  have h₅ : s₄.raiseTopo.toHost = s₄.toHost := rfl
  exact (toHost_report ..).trans (h₅.trans (h₄.trans (h₃.trans (h₂.trans h₁))))

/-! ### Flits that go out -/

theorem State.modLinks (s : State) (e : LinkEnd) (f : α → Link → Link) (l : List α) :
    l.foldl (fun s x => s.modLink e (f x)) s = s.modLink e (fun y => l.foldl (fun y x => f x y) y) := by
  induction l generalizing s with
  | nil => exact (s.modLink_self e).symm
  | cons x l ih => exact (ih (s.modLink e (f x))).trans (s.modLink_modLink e _ _)

/-- Flits that are put into a queue stand there in their order. -/
theorem Link.enqueued (x : Link) (l : List Flit) : l.foldl (fun y f => { y with outq := y.outq ++ [f] }) x = { x with outq := x.outq ++ l } := by
  induction l generalizing x with
  | nil => rw [List.foldl_nil, List.append_nil]
  | cons f l ih => rw [List.foldl_cons, ih, List.append_assoc, List.singleton_append]

/-- Credits that are owed leave a queue. -/
theorem Link.owes_outq (x : Link) (l : List Flit) :
    (l.foldl (fun y f => { y with owed := vupd y.owed (laneIx f.vl f.dl) (· + 1) }) x).outq = x.outq := by
  induction l generalizing x with
  | nil => rfl
  | cons f l ih => exact ih _

/-! ### Packets from the host (R288) -/

theorem hostFlits_all (s : State) (p : PortIx) (pk : HostPacket) (job : BitVec 8) :
    hostFlits s p pk job ≠ [] ∧ ∀ f ∈ hostFlits s p pk job, f.vl = 3 ∧ f.dst = pk.dst ∧ f.job = job := by
  unfold hostFlits packetFlits
  dsimp only
  constructor
  · rw [ne_eq, List.mapIdx_eq_nil_iff]
    have first : (hostOriginBytes (s.dies[portDie p].physDesignator 0) pk).isEmpty = false := rfl
    rw [chunks, first]
    exact List.cons_ne_nil _ _
  · intro f listed
    obtain ⟨i, _, rfl⟩ := List.mem_mapIdx.mp listed
    exact ⟨rfl, rfl, rfl⟩

/-! ### Packets to the host (R289) -/

/-- With the room of a credit the packet that waits goes out. -/
theorem State.hostFlush_sends {x : ToHost} (port : s.hostEnd = some p) (waits : s.hub.dict.toHost = [x]) (fresh : x.sent = false)
    (room : (s.ports[p].link.outq.filter (fun f => f.vl = 3)).length < s.ports[p].link.credits[(4 : Fin 5)]) :
    s.hostFlush.toHost = [{ x with sent := true }] ∧ s.hostFlush.dies = s.dies
      ∧ s.hostFlush.ports[p].link.outq = s.ports[p].link.outq ++ x.flits := by
  have found : s.hub.dict.toHost.find? (fun x => !x.sent) = some x := by
    rw [waits]
    exact List.find?_cons_of_pos (by rw [fresh]; rfl)
  have whole : s.hostFlush = (x.flits.foldl (fun s f => s.enqueueFlit (.port p) f) s).modHub (fun h => { h with dict := { h.dict with
      toHost := updWhere (fun y => y == x) (fun y => { y with sent := true }) h.dict.toHost } }) := by
    rw [State.hostFlush, port, found]
    exact if_pos room
  have queued : x.flits.foldl (fun s f => s.enqueueFlit (.port p) f) s = s.modLink (.port p) fun y => { y with outq := y.outq ++ x.flits } := by
    refine (s.modLinks (.port p) (fun (f : Flit) y => { y with outq := y.outq ++ [f] }) x.flits).trans ?_
    exact congrArg (s.modLink (.port p)) (funext fun y => y.enqueued x.flits)
  have marked : updWhere (fun y => y == x) (fun y : ToHost => { y with sent := true }) [x] = [{ x with sent := true }] := by
    simp [updWhere]
  rw [whole, queued]
  refine ⟨(congrArg (updWhere _ _) waits).trans marked, rfl, ?_⟩
  exact congrArg (·.link.outq) (s.modPort_same p _)

/-- Without it, it waits. -/
theorem State.hostFlush_waits (port : s.hostEnd = some p)
    (full : s.ports[p].link.credits[(4 : Fin 5)] ≤ (s.ports[p].link.outq.filter (fun f => f.vl = 3)).length) : s.hostFlush = s := by
  unfold State.hostFlush
  rw [port]
  cases s.hub.dict.toHost.find? (fun x => !x.sent) with
  | none => rfl
  | some x => exact if_neg (Nat.not_lt.mpr full)

/-- Where none waits, none goes out. -/
theorem State.hostFlush_none (none : s.hub.dict.toHost = []) : s.hostFlush = s := by
  unfold State.hostFlush
  rw [none]
  cases s.hostEnd with
  | none => rfl
  | some p => rfl

theorem hostDone_scratch (s : State) (x : ToHost) (code : Nat) (m : DieIx) (c : CoreIx) :
    ((s.hostDone x code).dies[m].cores[c]).scratch = (s.dies[m].cores[c]).scratch := by
  obtain ⟨-, -, -, kept⟩ := (linkWork_hostDone (own := fun _ => True) s x code).dies m
  exact (kept c).2

end

/-- Settles O43: packets in by `hostFlits_all`, packets out by `hostFlush_sends` and `hostFlush_waits`, and those that are done by
`toHost_hostDone`. -/
theorem theBridgeCarriesHostPackets : Obligations.TheBridgeCarriesHostPackets := by
  unfold Obligations.TheBridgeCarriesHostPackets
  intro s p pk job x room quiet number host
  have port : s.hostEnd = some p := (s.hostEnd_iff p).mpr number
  have opens : ¬ s.ports[p].link.st ≠ .host := fun h => h host
  refine ⟨fun known => ?_, fun unknown => ?_, fun waits fresh credit => ?_, fun waits fresh late full => ?_, fun waits sent => ⟨?_, ?_⟩⟩
  · obtain ⟨some_, all⟩ := hostFlits_all s p pk job
    have whole : s.hostPacket pk = (s.modHub (fun h => { h with dict := { h.dict with
        hostOuts := h.dict.hostOuts ++ [⟨pk.session, pk.dst, pk.q, pk.seq, pk.tag⟩] } })).modDie (portDie p) (fun d =>
          { d with router := { d.router with inq := vupd d.router.inq (inputOf (.port p)) (· ++ hostFlits s p pk job) } }) := by
      rw [State.hostPacket, port]
      dsimp only
      rw [if_neg opens, known]
    refine ⟨_, _, congrArg Host.Outcome.next whole, rfl, ?_, rfl, ?_, ?_, some_, all⟩
    · exact onlyDie_modDie _ _ _
    · rw [State.modDie_die]
      rfl
    · rw [State.modDie_die]
      exact vupd_get_self _ _ _
  · have closed : s.hub.dict.hostSes.find? (fun y => y.1 = pk.session) = none := by
      rw [List.find?_eq_none]
      intro y listed
      exact fun same => unknown y listed (of_decide_eq_true same)
    let notice := mkFlit 3 3 1 true 0 0 (hostNotice 7 ⟨pk.session, pk.dst, pk.q, pk.seq, pk.tag⟩) 0
    have whole : s.hostPacket pk = (hostFlits s p pk 0).foldl (fun s f => s.oweCredit (.port p) f) (s.enqueueFlit (.port p) notice) := by
      rw [State.hostPacket, port]
      dsimp only
      rw [if_neg opens, closed, State.notifyHost, port]
    have owed := (s.enqueueFlit (.port p) notice).modLinks (.port p)
      (fun (f : Flit) y => { y with owed := vupd y.owed (laneIx f.vl f.dl) (· + 1) }) (hostFlits s p pk 0)
    refine ⟨_, congrArg Host.Outcome.next (whole.trans owed), (onlyPort_modPort s p _).trans (onlyPort_modPort _ p _), ?_⟩
    have last := (s.enqueueFlit (.port p) notice).modPort_same p fun y => { y with
      link := (hostFlits s p pk 0).foldl (fun y f => { y with owed := vupd y.owed (laneIx f.vl f.dl) (· + 1) }) y.link }
    have first := s.modPort_same p fun y => { y with link := { y.link with outq := y.link.outq ++ [notice] } }
    refine (congrArg (·.link.outq) last).trans ((Link.owes_outq _ _).trans ?_)
    exact congrArg (·.link.outq) first
  · obtain ⟨list, dies, outq⟩ := State.hostFlush_sends port waits fresh credit
    have done : s.hostCreditTimeout = s.hostFlush := by
      have none : s.hostFlush.hub.dict.toHost.find? (fun x => !x.sent && decide (x.since + usCounts 50 ≤ s.hostFlush.now)) = none := by
        rw [show s.hostFlush.hub.dict.toHost = _ from list]
        rfl
      rw [State.hostCreditTimeout, none]
    exact ⟨_, congrArg Host.Outcome.next done, list, dies, outq⟩
  · have stays := State.hostFlush_waits port full
    have old : s.hub.dict.toHost.find? (fun x => !x.sent && decide (x.since + usCounts 50 ≤ s.now)) = some x := by
      rw [waits]
      exact List.find?_cons_of_pos (by rw [fresh, Bool.not_false, Bool.true_and]; exact decide_eq_true late)
    have done : s.hostCreditTimeout = s.hostDone x 1 := by
      rw [State.hostCreditTimeout, stays, old]
    refine ⟨_, congrArg Host.Outcome.next done, (toHost_hostDone s x 1).trans ?_, hostDone_scratch s x 1⟩
    rw [State.toHost, waits, List.erase_cons_head]
  · have gone : (s.hostDone x (if room then 0 else 1)).toHost = [] := by
      rw [toHost_hostDone, State.toHost, waits, List.erase_cons_head]
    have taken : s.adapterAck room = s.hostDone x (if room then 0 else 1) := by
      rw [State.adapterAck, waits, List.find?_cons_of_pos sent]
      exact State.hostFlush_none gone
    exact ⟨_, congrArg Host.Outcome.next taken, gone, hostDone_scratch s x _⟩
  · have trained : (s.link (.port p)).trained = true := by
      rw [Link.trained, show (s.link (.port p)).st = .host from host]
      rfl
    obtain ⟨down, -⟩ := State.linkDown_facts trained (if quiet then 2 else 1)
    have went : s.linkDown (.port p) .down (if quiet then 2 else 1) = s.portDown p .down (if quiet then 2 else 1) := if_pos trained
    refine ⟨_, rfl, ?_, congrArg Link.st down⟩
    show (s.linkDown (.port p) .down (if quiet then 2 else 1)).toHost = []
    have has : s.toHost = [x] := waits
    rw [went, toHost_portDown, toHost_flushOut s p host, has, List.filter_cons_of_pos sent, List.filter_nil, List.foldl_cons, List.foldl_nil,
      toHost_hostDone, has, List.erase_cons_head]

end Sys2Proof.Machine

/-! # Messages reach rings (O31) -/

namespace Sys2Proof.Machine

/-! ### A message that is accepted (R281, R282) -/

section
variable {k : Core} {q : Fin 16} {m : MsgIn} {r : Ring}

/-- The reservation that the decision makes for a message, with its first flit in. -/
def MsgIn.resv (m : MsgIn) (r : Ring) (tail : Nat) : Resv :=
  { hdr := m.hdr, start := (r.wres.toNat + tail) % 2 ^ 32, size := m.hdr.size, wrapAt := if 0 < tail then some r.wres.toNat else none,
    got := 0, void := false, full := none, from_ := m.from_, job := m.job }

def Resv.begun (x : Resv) (clk : Nat) (body : List (Bytes × Bool)) : Resv :=
  let y := { x with got := x.got + 1, hdr := { x.hdr with pz := x.hdr.pz || body.any (·.2) } }
  if y.hdr.flits ≤ y.got then { y with full := some clk } else y

theorem Resv.begun_facts (x : Resv) (clk : Nat) (body : List (Bytes × Bool)) :
    (x.begun clk body).start = x.start ∧ (x.begun clk body).size = x.size ∧ (x.begun clk body).got = x.got + 1
      ∧ (x.begun clk body).void = x.void ∧ (x.begun clk body).wrapAt = x.wrapAt := by
  unfold Resv.begun
  dsimp only
  split
  · exact ⟨rfl, rfl, rfl, rfl, rfl⟩
  · exact ⟨rfl, rfl, rfl, rfl, rfl⟩

/-- From k to j only the scratchpad and its marks change, in canonical form. -/
def OnlyScratch (k j : Core) : Prop := ∃ (mem : Mem) (pz : NatSet), (k.scratch.wf = true → mem.wf = true) ∧ j = { k with scratch := mem, pz := pz }

theorem OnlyScratch.trans {i j k : Core} (h : OnlyScratch i j) (g : OnlyScratch j k) : OnlyScratch i k := by
  obtain ⟨mem, pz, wf, rfl⟩ := h
  obtain ⟨mem', pz', wf', rfl⟩ := g
  exact ⟨mem', pz', wf' ∘ wf, rfl⟩

theorem onlyScratch_write (k : Core) (a : Nat) (bs : Bytes) (mk : Bool) : OnlyScratch k (k.writeScratch a bs mk) :=
  ⟨_, _, k.writeScratch_wf a bs mk, rfl⟩

theorem onlyScratch_granules (r : Ring) (body : List (Bytes × Bool)) (p : Nat) (k : Core) : OnlyScratch k (k.writeGranules r p body) := by
  induction body generalizing p k with
  | nil => exact ⟨_, _, id, rfl⟩
  | cons b body ih => exact (onlyScratch_write k _ _ _).trans (ih (p + 16) _)

/-- The reservations of a ring after one flit of that which begins at x. -/
def taken (x y : Resv) (l : List Resv) : List Resv := updWhere (fun z => z.start = x.start) (fun _ => y) l

theorem Core.takeFlit_eq (k : Core) (q : Fin 16) (x : Resv) (i clk : Nat) (body : List (Bytes × Bool)) :
    ∃ (mem : Mem) (pz : NatSet), (k.scratch.wf = true → mem.wf = true) ∧ k.takeFlit q x i clk body
      = { k with scratch := mem, pz := pz, rings := { k.rings with
            q := vupd k.rings.q q fun r => { r with resv := taken x (x.begun clk body) r.resv } } } := by
  have y : ∀ j : Core, j.modRing q (fun r => { r with resv := updWhere (fun z => z.start = x.start) (fun _ => x.begun clk body) r.resv })
      = { j with rings := { j.rings with q := vupd j.rings.q q fun r => { r with resv := taken x (x.begun clk body) r.resv } } } := fun _ => rfl
  have wrote : OnlyScratch k ((k.writeFlit q x i body).writeHeader q (x.begun clk body) 1) :=
    (onlyScratch_granules _ body _ k).trans (onlyScratch_write _ _ _ _)
  obtain ⟨mem, pz, wf, e⟩ := wrote
  refine ⟨mem, pz, wf, ?_⟩
  have whole : k.takeFlit q x i clk body = ((k.writeFlit q x i body).writeHeader q (x.begun clk body) 1).modRing q
      (fun r => { r with resv := taken x (x.begun clk body) r.resv }) := by
    unfold Core.takeFlit Resv.begun
    simp only [decide_eq_true_eq]
    rfl
  rw [whole, e]
  rfl

/-- A ring with a message accepted. -/
def Ring.withMsg (r : Ring) (m : MsgIn) (tail clk : Nat) : Ring :=
  { r with wres := BitVec.ofNat 32 ((r.wres.toNat + tail) % 2 ^ 32 + m.hdr.size)
           resv := taken (m.resv r tail) ((m.resv r tail).begun clk m.body) (r.resv ++ [m.resv r tail]) }

theorem Ring.withMsg_facts (r : Ring) (m : MsgIn) (tail clk : Nat) :
    (r.withMsg m tail clk).wres.toNat = (r.wres.toNat + tail + m.hdr.size) % 2 ^ 32
      ∧ (r.withMsg m tail clk).resv.length = r.resv.length + 1
      ∧ (r.withMsg m tail clk).resv.getLast? = some ((m.resv r tail).begun clk m.body)
      ∧ ∀ x ∈ (r.withMsg m tail clk).resv, x ∈ r.resv ∨ x = (m.resv r tail).begun clk m.body := by
  refine ⟨?_, ?_, ?_, fun x hx => ?_⟩
  · show (BitVec.ofNat 32 ((r.wres.toNat + tail) % 2 ^ 32 + m.hdr.size)).toNat = _
    rw [BitVec.toNat_ofNat, Nat.mod_add_mod]
  · show (List.map _ (r.resv ++ [m.resv r tail])).length = _
    rw [List.length_map, List.length_append, List.length_singleton]
  · show (List.map _ (r.resv ++ [m.resv r tail])).getLast? = _
    rw [List.map_append, List.map_singleton, List.getLast?_concat, if_pos (by exact decide_eq_true rfl)]
  · obtain ⟨y, listed, e⟩ := List.mem_map.mp hx
    by_cases same : y.start = (m.resv r tail).start
    · rw [if_pos (decide_eq_true same)] at e
      exact .inr e.symm
    · rw [if_neg fun h => same (of_decide_eq_true h)] at e
      subst e
      obtain old | new := List.mem_append.mp listed
      · exact .inl old
      · exact absurd (congrArg Resv.start (List.mem_singleton.mp new)) same

theorem vupd_congr {α : Type} {n : Nat} (v : Vector α n) (i : Fin n) {f g : α → α} (h : f v[i] = g v[i]) : vupd v i f = vupd v i g := by
  simp only [vupd, h]

/-- A core that accepts a message. -/
def Core.accepts (k : Core) (q : Fin 16) (m : MsgIn) (tail clk : Nat) : Core :=
  (k.modRing q (fun r => { r with wres := BitVec.ofNat 32 ((m.resv k.rings.q[q] tail).start + (m.resv k.rings.q[q] tail).size)
                                  resv := r.resv ++ [m.resv k.rings.q[q] tail] })).takeFlit q (m.resv k.rings.q[q] tail) 0 clk m.body

theorem Core.accepts_eq (k : Core) (q : Fin 16) (m : MsgIn) (tail clk : Nat) :
    ∃ (mem : Mem) (pz : NatSet), (k.scratch.wf = true → mem.wf = true) ∧ k.accepts q m tail clk
      = { k with scratch := mem, pz := pz, rings := { k.rings with q := vupd k.rings.q q (·.withMsg m tail clk) } } := by
  obtain ⟨mem, pz, wf, e⟩ := Core.takeFlit_eq (k.modRing q (fun r => { r with
    wres := BitVec.ofNat 32 ((m.resv k.rings.q[q] tail).start + (m.resv k.rings.q[q] tail).size)
    resv := r.resv ++ [m.resv k.rings.q[q] tail] })) q (m.resv k.rings.q[q] tail) 0 clk m.body
  refine ⟨mem, pz, wf, e.trans ?_⟩
  have rings : vupd (vupd k.rings.q q (fun r => { r with
        wres := BitVec.ofNat 32 ((m.resv k.rings.q[q] tail).start + (m.resv k.rings.q[q] tail).size)
        resv := r.resv ++ [m.resv k.rings.q[q] tail] })) q (fun r => { r with
          resv := taken (m.resv k.rings.q[q] tail) ((m.resv k.rings.q[q] tail).begun clk m.body) r.resv })
      = vupd k.rings.q q (·.withMsg m tail clk) := (vupd_vupd ..).trans (vupd_congr _ q rfl)
  exact congrArg (fun v => { k with scratch := mem, pz := pz, rings := { k.rings with q := v } }) rings

/-! ### Wrap markers (R279, R281) -/

theorem Rings.mem_markers (r : Rings) (q : Fin 16) (p : Nat) : (q, p) ∈ r.markers ↔ ∃ x ∈ r.q[q].resv, x.wrapAt = some p := by
  simp only [Rings.markers, List.mem_flatMap, List.mem_finRange, true_and, List.mem_map, List.mem_filterMap, Prod.mk.injEq]
  constructor
  · rintro ⟨_, p, ⟨x, listed, at_⟩, rfl, rfl⟩
    exact ⟨x, listed, at_⟩
  · rintro ⟨x, listed, at_⟩
    exact ⟨q, p, ⟨x, listed, at_⟩, rfl, rfl⟩

/-- A core of which a wrap marker has been written. -/
def Core.marked (k : Core) (q : Fin 16) (p : Nat) : Core :=
  (k.writeScratch (ringAddr k.rings.q[q] p) wrapMarker false).modRing q (fun r => { r with
    resv := updWhere (fun x => x.wrapAt = some p) (fun x => { x with wrapAt := none }) r.resv })

theorem Core.marked_facts (k : Core) (q : Fin 16) (p : Nat) :
    (k.marked q p).rings.arrive = k.rings.arrive ∧ (k.marked q p).sync = k.sync
      ∧ (k.marked q p).scratch = k.scratch.setN (ringAddr k.rings.q[q] p) wrapMarker
      ∧ (k.marked q p).rings.q[q] = { k.rings.q[q] with
          resv := updWhere (fun x => x.wrapAt = some p) (fun x => { x with wrapAt := none }) k.rings.q[q].resv } := by
  unfold Core.marked Core.modRing Core.writeScratch
  exact ⟨rfl, rfl, rfl, vupd_get_self _ _ _⟩

theorem Core.writeMarker_eq (k : Core) (busy : List Nat) (q : Fin 16) (p : Nat) :
    Core.writeMarker (k, busy) (q, p) = if busy.contains (ringAddr k.rings.q[q] p / 64 % 64) then (k, busy)
      else (k.marked q p, (ringAddr k.rings.q[q] p / 64 % 64) :: busy) := rfl

/-- A marker whose bank is in use is not written. -/
theorem Core.writeMarkers_busy {l : List (Fin 16 × Nat)} {busy : List Nat} {p : Nat} (all : ∀ z ∈ l, z = (q, p))
    (used : busy.contains (ringAddr k.rings.q[q] p / 64 % 64) = true) : l.foldl Core.writeMarker (k, busy) = (k, busy) := by
  induction l with
  | nil => rfl
  | cons z l ih =>
    rw [List.foldl_cons, all z List.mem_cons_self, Core.writeMarker_eq, if_pos used]
    exact ih fun z hz => all z (List.mem_cons_of_mem _ hz)

/-- Where all markers of a core are one, it is written, or its bank is in use. -/
theorem Core.writeMarkers_one {p : Nat} (all : ∀ z ∈ k.rings.markers, z = (q, p)) (some_ : k.rings.markers ≠ []) (busy : List Nat) :
    k.writeMarkers busy = k ∨ k.writeMarkers busy = k.marked q p := by
  unfold Core.writeMarkers
  by_cases used : busy.contains (ringAddr k.rings.q[q] p / 64 % 64) = true
  · exact .inl (congrArg Prod.fst (Core.writeMarkers_busy all used))
  · obtain ⟨z, l, e⟩ := List.exists_cons_of_ne_nil some_
    rw [e] at all ⊢
    rw [List.foldl_cons, all z List.mem_cons_self, Core.writeMarker_eq, if_neg used]
    have same : ringAddr (k.marked q p).rings.q[q] p = ringAddr k.rings.q[q] p := by
      have ring := vupd_get_self k.rings.q q fun r => { r with
        resv := updWhere (fun x => x.wrapAt = some p) (fun x => { x with wrapAt := none }) r.resv }
      have place := congrArg (fun r => ringAddr r p) ring
      exact place
    refine .inr (congrArg Prod.fst (Core.writeMarkers_busy (fun z hz => all z (List.mem_cons_of_mem _ hz)) ?_))
    rw [same]
    exact List.elem_cons_self

/-- What the ring's core has when it has accepted a message: the reservation is the last one, and the marker of a tail that was
skipped awaits its bank or stands. -/
structure Accepted (k j : Core) (q : Fin 16) (m : MsgIn) (tail : Nat) : Prop where
  arrive : j.rings.arrive = []
  sync : j.sync = k.sync
  wres : j.rings.q[q].wres.toNat = (k.rings.q[q].wres.toNat + tail + m.hdr.size) % 2 ^ 32
  wp : j.rings.q[q].wp = k.rings.q[q].wp
  nref : j.rings.q[q].nref = k.rings.q[q].nref
  length : j.rings.q[q].resv.length = k.rings.q[q].resv.length + 1
  last : ∃ x, j.rings.q[q].resv.getLast? = some x ∧ x.start = (k.rings.q[q].wres.toNat + tail) % 2 ^ 32 ∧ x.size = m.hdr.size ∧ x.got = 1
    ∧ x.void = false ∧ (x.wrapAt = none ∨ (0 < tail ∧ x.wrapAt = some k.rings.q[q].wres.toNat))
    ∧ (0 < tail → x.wrapAt = none → j.readScratch (ringAddr k.rings.q[q] k.rings.q[q].wres.toNat) 16 = leBytes 16 2)

/-- And still so when the marker has been written. -/
theorem Accepted.mark {j : Core} {tail : Nat} (h : Accepted k j q m tail) (canon : j.scratch.wf = true)
    (place : ringAddr j.rings.q[q] k.rings.q[q].wres.toNat = ringAddr k.rings.q[q] k.rings.q[q].wres.toNat) :
    Accepted k (j.marked q k.rings.q[q].wres.toNat) q m tail := by
  obtain ⟨arrive, sync, wres, wp, nref, length, x, last, start, size, got, void, wrap, -⟩ := h
  obtain ⟨p, at_⟩ : ∃ p, k.rings.q[q].wres.toNat = p := ⟨_, rfl⟩
  rw [at_] at place start wrap ⊢
  obtain ⟨arrive', sync', scratch, marked⟩ := j.marked_facts q p
  generalize j.marked q p = i at *
  have stands : i.readScratch (ringAddr k.rings.q[q] p) 16 = leBytes 16 2 := by
    have read := Cells.getN_setN j.scratch (ringAddr j.rings.q[q] p) wrapMarker canon
    rw [place, show wrapMarker.length = 16 from rfl] at read
    rw [Core.readScratch, scratch, place]
    exact read
  have latest : i.rings.q[q].resv.getLast? = some { x with wrapAt := none } := by
    rw [marked]
    refine (List.getLast?_map ..).trans ?_
    rw [last, Option.map_some]
    have cleared : (if decide (x.wrapAt = some p) = true then { x with wrapAt := none } else x) = { x with wrapAt := none } := by
      obtain away | ⟨-, here⟩ := wrap
      · have same := congrArg (fun w => { x with wrapAt := w }) away
        rw [away, if_neg (by simp)]
        exact same
      · rw [if_pos (decide_eq_true here)]
    exact congrArg some cleared
  refine ⟨arrive'.trans arrive, sync'.trans sync, ?_, ?_, ?_, ?_, _, latest, at_ ▸ start, size, got, void, .inl rfl, fun _ _ => at_ ▸ stands⟩
  · rw [marked]
    exact wres
  · rw [marked]
    exact wp
  · rw [marked]
    exact nref
  · rw [marked]
    exact (List.length_map ..).trans length

/-- With no marker to write, the markers after the decision are those of the tail that it skips. -/
theorem Core.accepts_accepted (k : Core) (q : Fin 16) (m : MsgIn) (tail clk : Nat) (busy : List Nat) (none : k.rings.markers = [])
    (idle : k.rings.arrive = []) (wf : k.scratch.wf = true) :
    let j := k.accepts q m tail clk
    Accepted k (if j.rings.markers.isEmpty then j else j.writeMarkers busy) q m tail := by
  intro j
  obtain ⟨mem, pz, memWf, e⟩ := k.accepts_eq q m tail clk
  have ring : j.rings.q[q] = (k.rings.q[q]).withMsg m tail clk := (congrArg (·.rings.q[q]) e).trans (vupd_get_self k.rings.q q _)
  have other (x : Fin 16) (h : x ≠ q) : j.rings.q[x] = k.rings.q[x] := (congrArg (·.rings.q[x]) e).trans (vupd_get_other k.rings.q _ h)
  have arrive : j.rings.arrive = [] := (congrArg (·.rings.arrive) e).trans idle
  have sync : j.sync = k.sync := congrArg (·.sync) e
  have canon : j.scratch.wf = true := (congrArg (·.scratch.wf) e).trans (memWf wf)
  clear_value j
  generalize r_ : k.rings.q[q] = r at *
  obtain ⟨wres, length, last, members⟩ := r.withMsg_facts m tail clk
  obtain ⟨start, size, got, void, wrap⟩ := (m.resv r tail).begun_facts clk m.body
  have old (x : Fin 16) (y : Resv) (listed : y ∈ k.rings.q[x].resv) : y.wrapAt = .none := by
    by_contra h
    obtain ⟨p, hp⟩ := Option.ne_none_iff_exists'.mp h
    have listed := (k.rings.mem_markers x p).mpr ⟨y, listed, hp⟩
    rw [none] at listed
    nomatch listed
  have all (z : Fin 16 × Nat) (hz : z ∈ j.rings.markers) : 0 < tail ∧ z = (q, r.wres.toNat) := by
    obtain ⟨x, p⟩ := z
    obtain ⟨y, listed, hp⟩ := (j.rings.mem_markers x p).mp hz
    have here : x = q := by
      by_contra h
      rw [other x h] at listed
      nomatch (old x y listed).symm.trans hp
    subst here
    rw [ring] at listed
    obtain before | rfl := members y listed
    · nomatch (old x y (r_.symm ▸ before)).symm.trans hp
    · rw [wrap, MsgIn.resv] at hp
      dsimp only at hp
      by_cases skip : 0 < tail
      · rw [if_pos skip] at hp
        exact ⟨skip, Prod.ext rfl (Option.some.inj hp).symm⟩
      · rw [if_neg skip] at hp
        nomatch hp
  have awaits : Accepted k j q m tail := by
    refine ⟨arrive, sync, ?_, ?_, ?_, ?_, _, (congrArg (·.resv.getLast?) ring).trans last, ?_⟩
    · rw [ring, r_, wres]
    · rw [ring, r_]
      rfl
    · rw [ring, r_]
      rfl
    · rw [ring, r_, length]
    · rw [start, size, got, void, wrap, r_, MsgIn.resv]
      refine ⟨rfl, rfl, rfl, rfl, ?_⟩
      by_cases skip : 0 < tail
      · rw [if_pos skip]
        exact ⟨.inr ⟨skip, rfl⟩, fun _ e => nomatch e⟩
      · rw [if_neg skip]
        exact ⟨.inl rfl, fun h => absurd h skip⟩
  by_cases empty : j.rings.markers.isEmpty = true
  · rw [if_pos empty]
    exact awaits
  · rw [if_neg empty]
    obtain stays | written := Core.writeMarkers_one (fun z hz => (all z hz).2) (fun h => empty (List.isEmpty_iff.mpr h)) busy
    · rw [stays]
      exact awaits
    · rw [written, ← r_]
      refine awaits.mark canon ?_
      rw [ring, r_]
      rfl

end

/-! ### The decision (R280, R281, R283) -/

section
variable {d : Die} {c : CoreIx} {m : MsgIn} {n : Nat}

/-- The lone arrival of a core, the head of a message that has had no answer, is decided. -/
theorem Die.takeArrival_lone (lone : d.cores[c].rings.arrive = [.mesh m 0 n]) (fresh : d.cores[c].rings.isAnswered m.hdr.src m.hdr.seq = false) :
    d.takeArrival c = (d.modCore c (fun k => { k with rings := { k.rings with arrive := [] } })).decideMsg c m := by
  have sorted : sortArrivals [Arrival.mesh m 0 n] = [.mesh m 0 n] := rfl
  have answered : (d.modCore c (fun k => { k with rings := { k.rings with arrive := [] } })).cores[c].rings.isAnswered m.hdr.src m.hdr.seq = false := by
    rw [Die.modCore_core]
    exact fresh
  rw [Die.takeArrival, lone, sorted]
  dsimp only
  rw [Die.meshFlitIn, if_pos rfl, if_neg]
  rw [answered]
  exact Bool.false_ne_true

/-- What R281 decides, case by case. -/
theorem Ring.choose_cases (r : Ring) (ho : Bool) (b : Nat) :
    let tail := ringSize r - r.wres.toNat % ringSize r
    let free := ringSize r - (r.wres - r.rp).toNat
    (r.en = false → r.choose ho b = .refuse 2)
      ∧ (r.en = true → ho = true → r.host = false → r.choose ho b = .refuse 4)
      ∧ (r.en = true → (ho = true → r.host = true) →
          (ringSize r < b → r.choose ho b = .refuse 3)
          ∧ (b ≤ ringSize r →
            (b ≤ tail → b ≤ free → r.choose ho b = .accept 0)
            ∧ (tail < b → tail + b ≤ free → r.choose ho b = .accept tail)
            ∧ (free < b ∨ (tail < b ∧ free < tail + b) → r.choose ho b = .refuse 1))) := by
  intro tail free
  unfold Ring.choose
  dsimp only
  refine ⟨fun off => ?_, fun on host closed => ?_, fun on open_ => ?_⟩
  · rw [off]
    rfl
  · rw [on, if_neg (by decide), host, closed]
    rfl
  · have opens : ¬ (ho && !r.host) = true := by
      cases ho with
      | false => exact Bool.false_ne_true
      | true => rw [open_ rfl]; exact Bool.false_ne_true
    rw [on, if_neg (by decide), if_neg opens]
    refine ⟨fun big => if_pos big, fun fits => ?_⟩
    rw [if_neg (Nat.not_lt.mpr fits)]
    simp only [Bool.and_eq_true, decide_eq_true_eq]
    refine ⟨fun h g => if_pos ⟨h, g⟩, fun h g => ?_, fun full => ?_⟩
    · rw [if_neg (by omega), if_pos ⟨h, g⟩]
    · rw [if_neg (by omega), if_neg (by omega)]

theorem Ring.choose_code (r : Ring) {ho : Bool} {b code : Nat} (h : r.choose ho b = .refuse code) : code < 16 := by
  unfold Ring.choose at h
  dsimp only at h
  split at h
  · cases h; decide
  split at h
  · cases h; decide
  split at h
  · cases h; decide
  split at h
  · cases h
  split at h
  · cases h
  · cases h; decide

/-- A core that refuses a message of this die. -/
def Core.refuses (k : Core) (q : Fin 16) (m : MsgIn) (code : Nat) : Core :=
  { k with rings := { k.rings with
      arrive := [], q := vupd k.rings.q q (fun r => { r with nref := satAdd r.nref 1 })
      refusedMsgs := (m.hdr.src, m.hdr.seq) :: k.rings.refusedMsgs, fault := setBit k.rings.fault (nakBit code).bit } }

theorem Core.refuses_markers {k : Core} {q : Fin 16} {code : Nat} (none : k.rings.markers = []) : (k.refuses q m code).rings.markers = [] := by
  rw [List.eq_nil_iff_forall_not_mem] at none ⊢
  rintro ⟨x, p⟩ listed
  have resv : (k.refuses q m code).rings.q[x].resv = k.rings.q[x].resv := by
    by_cases same : x = q
    · subst same
      have ring : (k.refuses x m code).rings.q[x] = { k.rings.q[x] with nref := satAdd k.rings.q[x].nref 1 } := vupd_get_self ..
      have resv := congrArg Ring.resv ring
      exact resv
    · exact congrArg Ring.resv (vupd_get_other k.rings.q _ same)
  obtain ⟨y, mem, at_⟩ := (Rings.mem_markers _ x p).mp listed
  rw [resv] at mem
  exact none (x, p) ((k.rings.mem_markers x p).mpr ⟨y, mem, at_⟩)

theorem Die.decides_refusal {code : Nat} (lone : d.cores[c].rings.arrive = [.mesh m 0 n]) (own : m.from_ = none)
    (fresh : d.cores[c].rings.isAnswered m.hdr.src m.hdr.seq = false) (none : d.cores[c].rings.markers = [])
    (refused : (d.cores[c].rings.q[fin16 m.hdr.q]).choose m.hdr.ho m.hdr.size = .refuse code) :
    ∃ q e o n, Die.messageDecision c d
      = Die.answer { d.modCore c (·.refuses (fin16 m.hdr.q) m code) with evq := q, evLost := e, once := o, setNow := n }
          c .none m.hdr.ho m.hdr.src m.job { code := BitVec.ofNat 4 code, ring := m.hdr.q, tag := m.hdr.tag, seq := m.hdr.seq } := by
  let d₁ := d.modCore c (fun k => { k with rings := { k.rings with arrive := [] } })
  let refusal (k : Core) : Core := { k.modRing (fin16 m.hdr.q) (fun r => { r with nref := satAdd r.nref 1 }) with
    rings := { (k.modRing (fin16 m.hdr.q) (fun r => { r with nref := satAdd r.nref 1 })).rings with
      refusedMsgs := (m.hdr.src, m.hdr.seq) :: k.rings.refusedMsgs } }
  have core : d₁.cores[c] = { d.cores[c] with rings := { d.cores[c].rings with arrive := [] } } := d.modCore_core c _
  obtain ⟨q, e, o, l, flagged⟩ := (d₁.modCore c refusal).fault_rings c (nakBit code) (fin16 m.hdr.q).val
  have decided : d.takeArrival c
      = Die.answer { d.modCore c (·.refuses (fin16 m.hdr.q) m code) with evq := q, evLost := e, once := o, setNow := l }
          c .none m.hdr.ho m.hdr.src m.job { code := BitVec.ofNat 4 code, ring := m.hdr.q, tag := m.hdr.tag, seq := m.hdr.seq } := by
    rw [Die.takeArrival_lone lone fresh, Die.decideMsg]
    dsimp only
    rw [show d₁.cores[c].rings.q[fin16 m.hdr.q] = d.cores[c].rings.q[fin16 m.hdr.q] by rw [core], refused]
    dsimp only
    rw [own]
    refine (congrArg (fun d : Die => d.answer c .none m.hdr.ho m.hdr.src m.job
      { code := BitVec.ofNat 4 code, ring := m.hdr.q, tag := m.hdr.tag, seq := m.hdr.seq }) flagged).trans ?_
    rw [Die.modCore_modCore, Die.modCore_modCore]
    rfl
  refine ⟨q, e, o, l, ?_⟩
  rw [Die.messageDecision, decided]
  refine if_pos ?_
  have rings := (Die.answer_core { d.modCore c (·.refuses (fin16 m.hdr.q) m code) with evq := q, evLost := e, once := o, setNow := l }
    c .none m.hdr.ho m.hdr.src m.job { code := BitVec.ofNat 4 code, ring := m.hdr.q, tag := m.hdr.tag, seq := m.hdr.seq } c).1
  have own_ : (d.modCore c (·.refuses (fin16 m.hdr.q) m code)).cores[c] = d.cores[c].refuses (fin16 m.hdr.q) m code := d.modCore_core c _
  rw [rings, List.isEmpty_iff]
  exact (congrArg (·.rings.markers) own_).trans (Core.refuses_markers none)

theorem Die.decides_acceptance {tail : Nat} (lone : d.cores[c].rings.arrive = [.mesh m 0 n])
    (fresh : d.cores[c].rings.isAnswered m.hdr.src m.hdr.seq = false)
    (accepted : (d.cores[c].rings.q[fin16 m.hdr.q]).choose m.hdr.ho m.hdr.size = .accept tail) :
    ∃ busy, Die.messageDecision c d = d.modCore c (fun k =>
      let j := ({ k with rings := { k.rings with arrive := [] } } : Core).accepts (fin16 m.hdr.q) m tail d.clock.clk
      if j.rings.markers.isEmpty then j else j.writeMarkers busy) := by
  let d₁ := d.modCore c (fun k => { k with rings := { k.rings with arrive := [] } })
  let k := d.cores[c]
  let j := ({ k with rings := { k.rings with arrive := [] } } : Core).accepts (fin16 m.hdr.q) m tail d.clock.clk
  have core : d₁.cores[c] = { k with rings := { k.rings with arrive := [] } } := d.modCore_core c _
  have decided : d.takeArrival c = d.modCore c (fun _ => j) := by
    rw [Die.takeArrival_lone lone fresh, Die.decideMsg]
    dsimp only
    rw [show d₁.cores[c].rings.q[fin16 m.hdr.q] = k.rings.q[fin16 m.hdr.q] by rw [core], accepted]
    dsimp only
    rw [Die.modCore_modCore]
    exact d.modCore_congr c _ _ rfl
  have held : (d.modCore c (fun _ => j)).cores[c] = j := d.modCore_core c _
  refine ⟨d.cores[c].rings.frontBanks ++ d.busyBanks c, ?_⟩
  rw [Die.messageDecision, decided]
  dsimp only
  rw [held]
  refine Eq.trans ?_ (d.modCore_congr c (fun _ => if j.rings.markers.isEmpty then j
    else j.writeMarkers (d.cores[c].rings.frontBanks ++ d.busyBanks c)) _ rfl)
  by_cases empty : j.rings.markers.isEmpty = true
  · rw [if_pos empty, if_pos empty]
  · rw [if_neg empty, if_neg empty, Die.modCore_modCore]

/-! ### Visibility (R282, R283) -/

/-- A core of which the first record of a ring has become visible. -/
def Core.shown (k : Core) (q : Fin 16) (x : Resv) (rest : List Resv) : Core :=
  k.modRing q (fun r => { r with resv := rest, wp := BitVec.ofNat 32 (x.start + x.size), nacc := r.nacc + 1 })

/-- A reservation that is not complete stays, and what is behind it. -/
theorem Die.showNext_still {q : Fin 16} (h : ∀ x ∈ d.cores[c].rings.q[q].resv, x.full = none) : d.showNext c q = d := by
  unfold Die.showNext
  cases e : d.cores[c].rings.q[q].resv with
  | nil => rfl
  | cons x rest =>
    rw [e] at h
    dsimp only
    rw [h x List.mem_cons_self, if_neg (by exact Bool.false_ne_true)]

theorem iter_still {α : Type} {f : α → α} {x : α} (h : f x = x) (n : Nat) : iter f n x = x := by
  induction n with
  | zero => rfl
  | succ n ih => rw [iter, h, ih]

/-- A first record that is complete becomes visible, and no other. -/
theorem Die.showRing_first {q : Fin 16} {x : Resv} {rest : List Resv} (first : d.cores[c].rings.q[q].resv = x :: rest) (full : x.full ≠ none)
    (wrap : x.wrapAt = none) (void : x.void = false) (others : ∀ y ∈ rest, y.full = none) :
    d.showRing c q = (d.modCore c (·.shown q x rest)).answer c x.from_ x.hdr.ho x.hdr.src x.job
      { code := BitVec.ofNat 4 0, ring := x.hdr.q, tag := x.hdr.tag, seq := x.hdr.seq } := by
  let e := (d.modCore c (·.shown q x rest)).answer c x.from_ x.hdr.ho x.hdr.src x.job
    { code := BitVec.ofNat 4 0, ring := x.hdr.q, tag := x.hdr.tag, seq := x.hdr.seq }
  have complete : (x.full.isSome && x.wrapAt.isNone) = true := by
    rw [wrap, Option.isSome_iff_ne_none.mpr full]
    rfl
  have next : d.showNext c q = e := by
    rw [Die.showNext, first]
    dsimp only
    rw [if_pos complete, void, if_neg Bool.false_ne_true]
    rfl
  have left : e.cores[c].rings.q[q].resv = rest := by
    have rings := ((d.modCore c (·.shown q x rest)).answer_core c x.from_ x.hdr.ho x.hdr.src x.job
      { code := BitVec.ofNat 4 0, ring := x.hdr.q, tag := x.hdr.tag, seq := x.hdr.seq } c).1
    rw [Die.modCore_core] at rings
    have ring : (d.cores[c].shown q x rest).rings.q[q] = _ := vupd_get_self ..
    exact (congrArg (fun r : Rings => r.q[q].resv) rings).trans (congrArg Ring.resv ring)
  have still : e.showNext c q = e := Die.showNext_still (by rw [left]; exact others)
  rw [Die.showRing, first]
  show iter (fun d => d.showNext c q) rest.length (d.showNext c q) = e
  rw [next]
  exact iter_still still _

end

/-! ### The statement -/

section
variable {s : State} {a : CoreRef} {m : MsgIn} {n : Nat}

/-- A refusal as the statement says it. -/
theorem messageDecision_refused {code : Nat} (runs : s.runs a.die = true) (lone : (s.core a).rings.arrive = [.mesh m 0 n]) (own : m.from_ = none)
    (fresh : (s.core a).rings.isAnswered m.hdr.src m.hdr.seq = false) (none : (s.core a).rings.markers = []) (small : code < 16)
    (refused : ((s.core a).rings.q[fin16 m.hdr.q]).choose m.hdr.ho m.hdr.size = .refuse code) :
    ∃ t, exec (.messageDecision a) s = .next t ∧ OnlyDie a.die s t ∧ (t.core a).rings.arrive = []
      ∧ (t.core a).rings.q[fin16 m.hdr.q] = { (s.core a).rings.q[fin16 m.hdr.q] with nref := satAdd (s.core a).rings.q[fin16 m.hdr.q].nref 1 }
      ∧ bit (t.core a).rings.fault (nakBit code).bit = true ∧ SameScratch a s t
      ∧ AnswersSend a m.hdr.q m.hdr.tag m.hdr.src m.hdr.seq code s t := by
  obtain ⟨q, l, o, k, decided⟩ := Die.decides_refusal (d := s.dies[a.die]) (c := a.core) lone own fresh none refused
  let e : Die := { s.dies[a.die].modCore a.core (·.refuses (fin16 m.hdr.q) m code) with evq := q, evLost := l, once := o, setNow := k }
  have exec_eq : exec (.messageDecision a) s = .next (s.modDie a.die (fun _ => e.answer a.core .none m.hdr.ho m.hdr.src m.job
      { code := BitVec.ofNat 4 code, ring := m.hdr.q, tag := m.hdr.tag, seq := m.hdr.seq })) :=
    (onDie_runs _ runs).trans (congrArg Host.Outcome.next (s.modDie_congr a.die _ _ decided))
  have core : e.cores[a.core] = (s.core a).refuses (fin16 m.hdr.q) m code := s.dies[a.die].modCore_same a.core _
  obtain ⟨rings, scratch⟩ := e.answer_core a.core .none m.hdr.ho m.hdr.src m.job
    { code := BitVec.ofNat 4 code, ring := m.hdr.q, tag := m.hdr.tag, seq := m.hdr.seq } a.core
  rw [core] at rings scratch
  refine ⟨_, exec_eq, onlyDie_modDie s a.die _, ?_⟩
  rw [SameScratch, State.modDie_core, rings, scratch]
  refine ⟨rfl, vupd_get_self .., bit_setBit_same _ ?_, fun _ => rfl, ?_⟩
  · unfold nakBit
    split <;> decide
  · exact answersSend_answer (e := e) rfl rfl rfl (s.dies[a.die].modCore_field a.core (·.rings.outs) (fun _ => rfl))
      (s.dies[a.die].modCore_field a.core (·.sync.incs) (fun _ => rfl)) small m.hdr.ho m.hdr.q m.hdr.tag m.hdr.src m.hdr.seq m.job

/-- An acceptance. -/
theorem messageDecision_accepted {tail : Nat} (runs : s.runs a.die = true) (lone : (s.core a).rings.arrive = [.mesh m 0 n])
    (fresh : (s.core a).rings.isAnswered m.hdr.src m.hdr.seq = false) (none : (s.core a).rings.markers = [])
    (wf : (s.core a).scratch.wf = true)
    (accepted : ((s.core a).rings.q[fin16 m.hdr.q]).choose m.hdr.ho m.hdr.size = .accept tail) :
    ∃ t, exec (.messageDecision a) s = .next t ∧ OnlyDie a.die s t ∧ Accepted (s.core a) (t.core a) (fin16 m.hdr.q) m tail
      ∧ ∀ c : CoreIx, (t.dies[a.die].cores[c]).sync = (s.dies[a.die].cores[c]).sync := by
  obtain ⟨busy, decided⟩ := Die.decides_acceptance (d := s.dies[a.die]) (c := a.core) lone fresh accepted
  let k : Core := { s.core a with rings := { (s.core a).rings with arrive := [] } }
  have ends : Accepted k _ (fin16 m.hdr.q) m tail :=
    k.accepts_accepted (fin16 m.hdr.q) m tail s.dies[a.die].clock.clk busy none rfl wf
  refine ⟨_, onDie_core runs decided, onlyDie_modDie s a.die _, ?_, fun c => ?_⟩
  · obtain ⟨arrive, sync, wres, wp, nref, length, last⟩ := ends
    rw [State.modCore_same]
    exact ⟨arrive, sync, wres, wp, nref, length, last⟩
  · rw [State.modCore, State.modDie_die]
    by_cases same : c = a.core
    · subst same
      rw [Die.modCore_core]
      exact ends.sync
    · rw [Die.modCore_other _ _ _ _ same]

end

/-- Settles O31: `choose_cases` says which row of R281 holds, `messageDecision_accepted` and `messageDecision_refused` what follows, and
`showRing_first` what becomes visible. -/
theorem messagesReachRings : Obligations.MessagesReachRings := by
  unfold Obligations.MessagesReachRings
  intro s a m n q runs number k r b tail free accepts refuses
  subst number
  refine ⟨fun lone own fresh none wf => ?_, fun x rest first full wrap void others => ?_⟩
  · obtain ⟨off, closed, open_⟩ := r.choose_cases m.hdr.ho b
    have accepted {skip : Nat} (choice : r.choose m.hdr.ho b = .accept skip) :
        ∃ t, exec (.messageDecision a) s = .next t ∧ OnlyDie a.die s t ∧ (t.core a).rings.arrive = [] ∧ accepts skip t := by
      obtain ⟨t, e, only, acc, sync⟩ := messageDecision_accepted runs lone fresh none wf choice
      obtain ⟨arrive, -, wres, wp, nref, length, last⟩ := acc
      exact ⟨t, e, only, arrive, wres, wp, length, nref, sync, last⟩
    have refused {code : Nat} (small : code < 16) (choice : r.choose m.hdr.ho b = .refuse code) :
        ∃ t, exec (.messageDecision a) s = .next t ∧ OnlyDie a.die s t ∧ (t.core a).rings.arrive = [] ∧ refuses code (nakBit code).bit t := by
      obtain ⟨t, e, only, arrive, ring, bit, scratch, answer⟩ := messageDecision_refused runs lone own fresh none small choice
      have nref := congrArg Ring.nref ring
      have wres := congrArg Ring.wres ring
      have resv := congrArg Ring.resv ring
      exact ⟨t, e, only, arrive, nref, bit, wres, resv, scratch, answer⟩
    have rows (t : State) (took : ∀ skip, r.choose m.hdr.ho b = .accept skip → accepts skip t)
        (said : ∀ code, r.choose m.hdr.ho b = .refuse code → refuses code (nakBit code).bit t) :
        (r.en = true → (m.hdr.ho = true → r.host = true) → b ≤ ringSize r → b ≤ tail → b ≤ free → accepts 0 t)
        ∧ (r.en = true → (m.hdr.ho = true → r.host = true) → b ≤ ringSize r → tail < b → tail + b ≤ free → accepts tail t)
        ∧ (r.en = false → refuses 2 1 t)
        ∧ (r.en = true → m.hdr.ho = true → r.host = false → refuses 4 3 t)
        ∧ (r.en = true → (m.hdr.ho = true → r.host = true) → ringSize r < b → refuses 3 2 t)
        ∧ (r.en = true → (m.hdr.ho = true → r.host = true) → b ≤ ringSize r →
            (free < b ∨ (tail < b ∧ free < tail + b)) → refuses 1 0 t) :=
      ⟨fun on host fits h g => took 0 (((open_ on host).2 fits).1 h g), fun on host fits h g => took tail (((open_ on host).2 fits).2.1 h g),
        fun disabled => said 2 (off disabled), fun on host shut => said 4 (closed on host shut),
        fun on host big => said 3 ((open_ on host).1 big), fun on host fits full => said 1 (((open_ on host).2 fits).2.2 full)⟩
    cases choice : r.choose m.hdr.ho b with
    | accept skip =>
      obtain ⟨t, e, only, arrive, done⟩ := accepted choice
      refine ⟨t, e, only, arrive, rows t (fun other same => ?_) fun code same => nomatch choice.symm.trans same⟩
      cases choice.symm.trans same
      exact done
    | refuse code =>
      obtain ⟨t, e, only, arrive, done⟩ := refused (r.choose_code choice) choice
      refine ⟨t, e, only, arrive, rows t (fun skip same => nomatch choice.symm.trans same) fun other same => ?_⟩
      cases choice.symm.trans same
      exact done
  · have shown := Die.showRing_first (d := s.dies[a.die]) (c := a.core) first full wrap void others
    let e := s.dies[a.die].modCore a.core (·.shown m.hdr.q.toFin x rest)
    have exec_eq : exec (.messageVisible a m.hdr.q.toFin) s = .next (s.modDie a.die (fun _ => e.answer a.core x.from_ x.hdr.ho x.hdr.src x.job
        { code := BitVec.ofNat 4 0, ring := x.hdr.q, tag := x.hdr.tag, seq := x.hdr.seq })) :=
      (onDie_runs _ runs).trans (congrArg Host.Outcome.next (s.modDie_congr a.die _ _ shown))
    have core : e.cores[a.core] = k.shown m.hdr.q.toFin x rest := s.dies[a.die].modCore_same a.core _
    have ring : (k.shown m.hdr.q.toFin x rest).rings.q[m.hdr.q.toFin]
        = { r with resv := rest, wp := BitVec.ofNat 32 (x.start + x.size), nacc := r.nacc + 1 } := vupd_get_self ..
    obtain ⟨rings, scratch⟩ := e.answer_core a.core x.from_ x.hdr.ho x.hdr.src x.job
      { code := BitVec.ofNat 4 0, ring := x.hdr.q, tag := x.hdr.tag, seq := x.hdr.seq } a.core
    rw [core] at rings scratch
    refine ⟨_, exec_eq, onlyDie_modDie s a.die _, fun own => ?_, ?_⟩
    · rw [own]
      exact answersSend_answer (e := e) rfl rfl rfl (s.dies[a.die].modCore_field a.core (·.rings.outs) (fun _ => rfl))
        (s.dies[a.die].modCore_field a.core (·.sync.incs) (fun _ => rfl)) (by decide) x.hdr.ho x.hdr.q x.hdr.tag x.hdr.src x.hdr.seq x.job
    · rw [SameScratch, State.modDie_core, rings, scratch, ring]
      exact ⟨BitVec.toNat_ofNat .., rfl, rfl, fun _ => rfl⟩

end Sys2Proof.Machine

/-! # Sessions that close and jobs that end

What the erasure of job keys and the close of a session leave (R384, R385, R391, R411). -/

namespace Sys2Proof.Machine

/-- From s to t keys of jobs have been erased, from the dies too, with host sessions and bindings that rest on them. -/
structure KeysSettled (s t : State) : Prop where
  ports : t.ports = s.ports
  rest : { t with ports := s.ports, dies := s.dies, hub := s.hub } = s
  hub : { t.hub with sec := { t.hub.sec with keys := s.hub.sec.keys }
                     dict := { t.hub.dict with hostSes := s.hub.dict.hostSes, bindings := s.hub.dict.bindings } } = s.hub
  dies : ∀ m : DieIx, { t.dies[m] with keyReg := s.dies[m].keyReg } = s.dies[m]

section
variable {s t u : State}

theorem KeysSettled.refl (s : State) : KeysSettled s s := ⟨rfl, rfl, rfl, fun _ => rfl⟩

theorem KeysSettled.trans (h : KeysSettled s t) (g : KeysSettled t u) : KeysSettled s u := by
  refine ⟨g.ports.trans h.ports, ?_, ?_, fun m => ?_⟩
  · have kept := congrArg (fun v : State => { v with ports := s.ports, dies := s.dies, hub := s.hub }) g.rest
    exact kept.trans h.rest
  · have kept := congrArg (fun x : Hub => { x with
      sec := { x.sec with keys := s.hub.sec.keys }
      dict := { x.dict with hostSes := s.hub.dict.hostSes, bindings := s.hub.dict.bindings } }) g.hub
    exact kept.trans h.hub
  · have kept := congrArg (fun d : Die => { d with keyReg := s.dies[m].keyReg }) (g.dies m)
    exact kept.trans (h.dies m)

theorem KeysSettled.sessions (h : KeysSettled s t) : t.hub.dict.sessions = s.hub.dict.sessions := congrArg (·.dict.sessions) h.hub
theorem KeysSettled.load (h : KeysSettled s t) : t.hub.dict.load = s.hub.dict.load := congrArg (·.dict.load) h.hub
theorem KeysSettled.plan (h : KeysSettled s t) (m : DieIx) : t.dies[m].plan = s.dies[m].plan := congrArg (·.plan) (h.dies m)

theorem keysSettled_eraseKey (s : State) (job : BitVec 8) : KeysSettled s (s.eraseKey job) := by
  refine ⟨rfl, rfl, rfl, fun m => ?_⟩
  have erased (key : Bytes) : { (s.dies.map (fun (d : Die) => if d.plan.isNone && d.keyReg = key then { d with keyReg := [] } else d))[m] with
      keyReg := s.dies[m].keyReg } = s.dies[m] := by
    rw [show (s.dies.map (fun (d : Die) => if d.plan.isNone && d.keyReg = key then { d with keyReg := [] } else d))[m] = _ from
      Vector.getElem_map ..]
    split
    · rfl
    · rfl
  exact erased _

theorem keysSettled_settleJobs (s : State) : KeysSettled s s.settleJobs := by
  have erased (l : List JobKey) (s : State) : KeysSettled s (l.foldl (fun s k => s.eraseKey k.job) s) := by
    induction l generalizing s with
    | nil => exact .refl s
    | cons k l ih => exact (keysSettled_eraseKey s k.job).trans (ih _)
  unfold State.settleJobs
  dsimp only
  generalize List.filter _ s.hub.sec.keys = l
  have first := erased l s
  generalize l.foldl (fun s k => s.eraseKey k.job) s = u at first
  exact first.trans ⟨rfl, rfl, rfl, fun _ => rfl⟩

/-- A close takes the session away, and with it the load that it has begun. -/
theorem State.closeSession_facts (s : State) (n : BitVec 16) :
    (s.closeSession n).ports = s.ports ∧ (s.closeSession n).hub.dict.sessions = s.hub.dict.sessions.filter (fun y => y.num ≠ n)
      ∧ (s.hub.dict.load.st = .receiving → s.hub.dict.load.owner = n → (s.closeSession n).hub.dict.load.st = .idle)
      ∧ (s.hub.dict.load.owner ≠ n → (s.closeSession n).hub.dict.load = s.hub.dict.load ∧ (s.closeSession n).dies = s.dies) := by
  unfold State.closeSession
  by_cases mine : (s.hub.dict.load.st = .receiving && s.hub.dict.load.owner = n) = true
  · have settled := keysSettled_settleJobs s.dropLoad
    rw [if_pos mine]
    rw [Bool.and_eq_true, decide_eq_true_eq, decide_eq_true_eq] at mine
    have idle : s.dropLoad.hub.dict.load.st = .idle := by
      show (if s.hub.dict.load.st = .receiving || s.hub.dict.load.st = .checking then _ else _ : LoadOp).st = .idle
      rw [mine.1]
      rfl
    refine ⟨settled.ports, congrArg (List.filter _) settled.sessions, fun _ _ => ?_, fun other => absurd mine.2 other⟩
    exact (congrArg (·.st) settled.load).trans idle
  · rw [if_neg mine]
    refine ⟨rfl, rfl, fun receiving owner => absurd ?_ mine, fun _ => ⟨rfl, rfl⟩⟩
    rw [Bool.and_eq_true, decide_eq_true_eq, decide_eq_true_eq]
    exact ⟨receiving, owner⟩

theorem State.session_of_filter {n : BitVec 16} (h : t.hub.dict.sessions = s.hub.dict.sessions.filter (fun y => y.num ≠ n)) :
    t.session n = none := by
  rw [State.session, h, List.find?_eq_none]
  intro y listed same
  exact of_decide_eq_true (List.mem_filter.mp listed).2 (of_decide_eq_true same)

end

end Sys2Proof.Machine

/-! # Requests are gated (O50) -/

namespace Sys2Proof.Machine

/-- What every request of a session has in common: it is the request r, heard where running firmware hears it on its route; the refusal
of one that breaks off a segmented write names an entry; and only a write PDU continues one. -/
def Gated (i : Instr) (r : Req) (s : State) : Prop :=
  ∃ (heard : Bool) (pt : BitVec 8) (name : Response → Response) (cont : Session → Bool) (act : State → Session → State × Response),
    exec i s = .next (s.request r heard pt name cont act)
      ∧ (heard = s.hearsOpen r.route ∨ ∃ idx sub, heard = s.hears r.route idx sub)
      ∧ (∃ idx sub off, name (bare pt 0x0A) = (bare pt 0x0A).at_ idx sub off)
      ∧ ((∀ idx sub off tot more v, i ≠ .dictWrite r idx sub off tot more v) → ∀ x, cont x = false)

section
variable {s : State} {i : Instr} {r q : Req} {x : Session}

/-- A row that stands for the write of one entry. -/
theorem gated_put {idx sub : Nat} {v : Bytes} {p : ClearPlan} {c : ClearStandby} (e : exec i s = s.put q idx sub v p c)
    (same : some q = some r) : Gated i r s := by
  cases same
  exact ⟨_, _, _, _, _, e, .inr ⟨_, _, rfl⟩, ⟨_, _, _, rfl⟩, fun _ _ => rfl⟩

/-- A read. -/
theorem gated_read {idx sub off len : Nat} (e : exec i s = .next (s.readReq q idx sub off len)) (same : some q = some r) : Gated i r s := by
  cases same
  exact ⟨_, _, _, _, _, e, .inr ⟨_, _, rfl⟩, ⟨_, _, _, rfl⟩, fun _ _ => rfl⟩

theorem gated_dictWrite (idx : BitVec 16) (sub : BitVec 8) (off tot : BitVec 32) (more : Bool) (v : Bytes) :
    Gated (.dictWrite r idx sub off tot more v) r s :=
  ⟨_, _, _, _, _, rfl, .inr ⟨_, _, rfl⟩, ⟨_, _, _, rfl⟩, fun other => absurd rfl (other idx sub off tot more v)⟩

theorem gated_close : Gated (.sessionClose r) r s :=
  ⟨_, _, _, _, _, rfl, .inl rfl, ⟨0, 0, 0, by decide⟩, fun _ _ => rfl⟩

/-- Every request of a session is one of these. -/
theorem gated (h : requestOf i = some r) : Gated i r s := by
  cases i <;> simp only [requestOf, reduceCtorEq] at h
  case sessionClose q => cases h; exact gated_close
  case dictWrite q idx sub off tot more v => cases h; exact gated_dictWrite ..
  case dictRead => exact gated_read rfl h
  case jobKeyOffer => exact gated_read rfl h
  all_goals exact gated_put rfl h

/-! ### The gate (R392, R396) -/

section
variable (pt : BitVec 8) (name : Response → Response) (cont : Session → Bool) (act : State → Session → State × Response)

theorem State.request_unheard : s.request r false pt name cont act = s := rfl

theorem State.request_noSession (h : s.session r.ses = none) (heard : Bool) : s.request r heard pt name cont act = s := by
  unfold State.request
  rw [h]
  split
  · rfl
  · rfl

theorem State.request_discards (hx : s.session r.ses = some x) (h : r.tagOk = false ∨ (r.rseq ≠ x.rseq ∧ r.rseq ≠ x.rseq + 1)) :
    s.request r true pt name cont act = s.discardReq x := by
  have notAgain : ¬ (r.tagOk && r.rseq = x.rseq && x.resp.isSome) = true := by
    obtain h | ⟨h, -⟩ := h <;> simp [h]
  have bad : (!r.tagOk || r.rseq ≠ x.rseq + 1) = true := by
    rw [Bool.or_eq_true, decide_eq_true_eq]
    obtain h | ⟨-, h⟩ := h
    · exact .inl (by rw [h]; rfl)
    · exact .inr h
  unfold State.request
  rw [if_neg (by decide), hx]
  dsimp only
  rw [if_neg notAgain, if_pos bad]

theorem State.request_repeats (hx : s.session r.ses = some x) (tag : r.tagOk = true) (again : r.rseq = x.rseq) (resp : x.resp ≠ none) :
    s.request r true pt name cont act = s.modSession r.ses (fun y => { y with lastAt := s.now }) := by
  have known : (r.tagOk && r.rseq = x.rseq && x.resp.isSome) = true := by
    simp [tag, again, Option.isSome_iff_ne_none, resp]
  unfold State.request
  rw [if_neg (by decide), hx]
  dsimp only
  rw [if_pos known]

end

/-- A discarded request is counted, or is the sixteenth and closes the session. -/
theorem State.discardReq_facts (hx : s.session r.ses = some x) :
    (x.bad < 15 → OnlySessions s (s.discardReq x) ∧ (s.discardReq x).hub.dict.sessions = s.hub.dict.sessions.map (fun (y : Session) =>
        if y.num = r.ses then { y with bad := y.bad + 1 } else y))
    ∧ (15 ≤ x.bad → (s.discardReq x).session r.ses = none ∧ (s.discardReq x).ports = s.ports
        ∧ (s.discardReq x).hub.dict.sessions = s.hub.dict.sessions.filter (fun y => y.num ≠ r.ses)) := by
  have num : x.num = r.ses := State.session_num hx
  unfold State.discardReq
  rw [num]
  refine ⟨fun few => ?_, fun many => ?_⟩
  · rw [if_neg (Nat.not_le.mpr few)]
    refine ⟨rfl, ?_⟩
    simp [State.modSession, State.modDict, updWhere]
  · rw [if_pos many]
    obtain ⟨ports, sessions, -⟩ := s.closeSession_facts r.ses
    exact ⟨State.session_of_filter sessions, ports, sessions⟩

end

/-- Settles O50: by `gated` every request of a session passes one gate, whose branches the lemmas on `State.request` say. -/
theorem requestsAreGated : Obligations.RequestsAreGated := by
  unfold Obligations.RequestsAreGated
  intro i r s isRequest
  obtain ⟨heard, pt, name, cont, act, runs, hears, names, others⟩ := gated (s := s) isRequest
  have silent (route : (s.reachedBy r.route && !s.hub.board.rstLow) = false) : heard = false := by
    obtain h | ⟨idx, sub, h⟩ := hears
    · rw [h, State.hearsOpen, route, Bool.false_and]
    · rw [h, State.hears, route, Bool.false_and]
  refine ⟨fun away => ?_, fun still closed => ?_, fun none => ?_, fun x run up reached hx => ?_⟩
  · have route : (s.reachedBy r.route && !s.hub.board.rstLow) = false := by
      obtain low | away := away
      · rw [low, Bool.not_true, Bool.and_false]
      · rw [away, Bool.false_and]
    rw [runs, silent route]
    rfl
  · have mute : heard = false := by
      obtain h | ⟨idx, sub, h⟩ := hears
      · rw [h, State.hearsOpen, still, closed, Bool.false_and, Bool.false_or, Bool.and_false]
      · rw [h, State.hears, still, closed, Bool.false_and, Bool.false_and, Bool.false_or, Bool.and_false]
    rw [runs, mute]
    rfl
  · rw [runs, State.request_noSession _ _ _ _ none]
  · have on : heard = true := by
      obtain h | ⟨idx, sub, h⟩ := hears
      · rw [h, State.hearsOpen, reached, up, run]
        rfl
      · rw [h, State.hears, reached, up, run]
        rfl
    rw [runs, on]
    refine ⟨fun bad => ?_, fun tag again resp => ?_, fun tag next seg notWrite => ?_⟩
    · rw [State.request_discards _ _ _ _ hx bad]
      obtain ⟨few, many⟩ := State.discardReq_facts hx
      exact ⟨fun h => ⟨_, rfl, few h⟩, fun h => ⟨_, rfl, many h⟩⟩
    · rw [State.request_repeats _ _ _ _ hx tag again resp]
      refine ⟨_, rfl, rfl, ?_⟩
      simp [State.modSession, State.modDict, updWhere]
    · rw [State.request_breaks pt name act hx tag next (Option.isSome_iff_ne_none.mpr seg) (others notWrite x)]
      obtain ⟨idx, sub, off, named⟩ := names
      rw [named]
      exact ⟨_, _, pt, idx, sub, off, 0, rfl, rfl, State.session_reply (State.session_dropSegments hx) _, rfl, rfl, rfl⟩

end Sys2Proof.Machine

/-! # Sessions open and close (O54) -/

namespace Sys2Proof.Machine

section
variable {s t : State} {role : Role} {route : Route} {key : Bytes} {cert : Option Bytes}

/-! ### Challenges (R391, R407) -/

/-- The challenge that an open request is answered with. -/
def State.newChallenge (s : State) (route : Route) (role : Role) (key : Bytes) (cert : Option Bytes) : Challenge :=
  let fresh := slice (Config.freshBytes s.hubKey 96) 0 96
  let nonce := slice fresh 0 32
  let seed := slice fresh 32 64
  let ek := slice (Config.kemPublic seed) 0 1184
  let code : BitVec 8 := match role with | .operator => 1 | .tenant => 2 | .vendor => 3
  { id := s.hub.dict.chalCount, role := role, key := key, nonce := nonce, seed := seed, cert := cert, route := route
    sent := nonce ++ ek ++ s.hub.sec.sign "YZB8 session" (nonce ++ ek ++ [code] ++ Config.sha3 key) }

theorem State.newChallenge_facts (s : State) (route : Route) (role : Role) (key : Bytes) (cert : Option Bytes) :
    let y := s.newChallenge route role key cert
    y.nonce.length = 32 ∧ y.sent.length = 3636 ∧ y.sent.take 32 = y.nonce := by
  intro y
  have nonce : y.nonce.length = 32 := slice_length ..
  refine ⟨nonce, ?_, ?_⟩
  · show (_ ++ slice _ 0 1184 ++ slice _ 0 2420).length = 3636
    rw [List.length_append, List.length_append, slice_length, slice_length, slice_length]
  · show (y.nonce ++ _ ++ _).take 32 = y.nonce
    rw [List.append_assoc, List.take_append_of_le_length (Nat.le_of_eq nonce.symm), List.take_of_length_le (Nat.le_of_eq nonce)]

/-- The answer that no session is left. -/
def State.noSession (s : State) : State := s.modDict (fun d => { d with lastOpen := some (bare 0x84 0x0C) })

/-- The challenge is kept, and sent. -/
def State.challenged (s : State) (y : Challenge) : State :=
  s.drew.modDict (fun d => { d with
    challenges := d.challenges ++ [y], chalCount := d.chalCount + 1
    lastOpen := some { pt := 0x84, st := 0, ty := 0, tot := y.sent.length, value := y.sent } })

/-- An open request that is heard, with the record of an enrolment processed first. -/
theorem State.openReq_heard (heard : s.hearsOpen route = true) (enrol : Option Bytes) :
    s.openReq route role key enrol cert =
      if s.hub.sec.puffed then s.noSession
      else
        let u := match enrol with | some e => s.enrol e | none => s
        if 16 ≤ u.hub.dict.sessions.length then u.noSession else u.challenged (u.newChallenge route role key cert) := by
  unfold State.openReq
  rw [heard]
  rfl

/-- What an open request does after an enrolment leaves all but challenges and the answer. -/
theorem State.answered_enrolment (u : State) :
    let t := if 16 ≤ u.hub.dict.sessions.length then u.noSession else u.challenged (u.newChallenge route role key cert)
    t.ports = u.ports ∧ t.hub.sec = u.hub.sec ∧ t.hub.dict.sessions = u.hub.dict.sessions := by
  intro t
  dsimp only [t]
  split
  · exact ⟨rfl, rfl, rfl⟩
  · exact ⟨rfl, rfl, rfl⟩

/-! ### Enrolments (R401, R409) -/

/-- Sessions that close leave ports and the records of the security engine. -/
theorem State.closeSession_sec (s : State) (n : BitVec 16) :
    { (s.closeSession n).hub.sec with keys := s.hub.sec.keys } = s.hub.sec := by
  unfold State.closeSession
  split
  · exact congrArg (·.sec) (keysSettled_settleJobs s.dropLoad).hub
  · rfl

theorem State.closeSessions_facts (l : List Session) (s : State) :
    let t := l.foldl (fun s x => s.closeSession x.num) s
    t.ports = s.ports ∧ { t.hub.sec with keys := s.hub.sec.keys } = s.hub.sec
      ∧ ∀ y ∈ t.hub.dict.sessions, y ∈ s.hub.dict.sessions ∧ ∀ x ∈ l, y.num ≠ x.num := by
  induction l generalizing s with
  | nil => exact ⟨rfl, rfl, fun y listed => ⟨listed, fun _ e => nomatch e⟩⟩
  | cons x l ih =>
    obtain ⟨ports, sessions, -⟩ := s.closeSession_facts x.num
    obtain ⟨ports', sec, left⟩ := ih (s.closeSession x.num)
    refine ⟨ports'.trans ports, ?_, fun y listed => ?_⟩
    · have kept := congrArg (fun z : Sec => { z with keys := s.hub.sec.keys }) sec
      exact kept.trans (s.closeSession_sec x.num)
    · obtain ⟨before, others⟩ := left y listed
      rw [sessions, List.mem_filter] at before
      refine ⟨before.1, fun z hz => ?_⟩
      obtain rfl | later := List.mem_cons.mp hz
      · exact of_decide_eq_true before.2
      · exact others z later

/-- The records of the security engine after an enrolment that passes its checks. -/
def Sec.enrolled (x : Sec) (e : Bytes) : Sec :=
  Sec.sealSlots { x with
    enrCtr := leAt e 36 8
    tenants := vupd x.seen.tenants (Fin.ofNat 16 (leAt e 1 1)) (fun _ => if leAt e 0 1 = 1 then some (slice e 4 32) else none) }

theorem Sec.enrolled_facts (x : Sec) (e : Bytes) (slot : leAt e 1 1 < 16) :
    (x.enrolled e).enrCtr = leAt e 36 8
      ∧ (∀ q : Fin 16, (x.enrolled e).tenants[q] = if q.val = leAt e 1 1 then
          (if leAt e 0 1 = 1 then some (slice e 4 32) else none) else x.seen.tenants[q])
      ∧ (x.enrolled e).recordOk 0 = true ∧ (x.enrolled e).recordOk 1 = true := by
  refine ⟨rfl, fun q => ?_, decide_eq_true rfl, decide_eq_true rfl⟩
  have place : q = Fin.ofNat 16 (leAt e 1 1) ↔ q.val = leAt e 1 1 := by
    rw [Fin.ext_iff, show (Fin.ofNat 16 (leAt e 1 1)).val = leAt e 1 1 from Nat.mod_eq_of_lt slot]
  show (vupd x.seen.tenants _ _)[q] = _
  rw [vupd_get]
  exact if_congr place rfl rfl

theorem State.enrolOk_slot {e : Bytes} (ok : s.enrolOk e = true) : leAt e 1 1 < 16 := by
  unfold State.enrolOk at ok
  dsimp only at ok
  simp only [Bool.and_eq_true, decide_eq_true_eq] at ok
  obtain ⟨⟨⟨⟨⟨⟨⟨⟨⟨-, -⟩, slot⟩, -⟩, -⟩, -⟩, -⟩, -⟩, -⟩, -⟩ := ok
  exact slot

theorem State.enrol_facts (s : State) (e : Bytes) :
    (s.enrol e).ports = s.ports
      ∧ (s.enrolOk e = true → { (s.enrol e).hub.sec with keys := s.hub.sec.keys } = s.hub.sec.enrolled e
          ∧ (leAt e 0 1 = 2 → ∀ y ∈ (s.enrol e).hub.dict.sessions, y.role = .tenant →
              s.hub.sec.seen.tenants[Fin.ofNat 16 (leAt e 1 1)] ≠ some y.digest))
      ∧ (s.enrolOk e = false → bit (s.enrol e).hub.sec.fault 1 = true ∧ (s.enrol e).hub.sec.tenants = s.hub.sec.tenants
          ∧ (s.enrol e).hub.dict.sessions = s.hub.dict.sessions) := by
  cases ok : s.enrolOk e with
  | true =>
    let u := s.modSec (·.enrolled e)
    let old := s.hub.sec.seen.tenants[(Fin.ofNat 16 (leAt e 1 1) : Fin 16)]
    let l := s.hub.dict.sessions.filter (fun x => x.role = .tenant && some x.digest = old)
    have whole : s.enrol e = if (if leAt e 0 1 = 1 then some (slice e 4 32) else none : Option Bytes).isSome then u
        else l.foldl (fun s x => s.closeSession x.num) u := if_pos ok
    obtain ⟨ports, sec, left⟩ := State.closeSessions_facts l u
    rw [whole]
    by_cases enrols : leAt e 0 1 = 1
    · rw [if_pos enrols, Option.isSome_some, if_pos rfl]
      exact ⟨rfl, fun _ => ⟨rfl, fun revokes => by omega⟩, fun e => nomatch e⟩
    · rw [if_neg enrols, Option.isSome_none, if_neg Bool.false_ne_true]
      refine ⟨ports, fun _ => ⟨sec, fun _ y listed tenant same => ?_⟩, fun e => nomatch e⟩
      obtain ⟨before, others⟩ := left y listed
      have closed : y ∈ l := List.mem_filter.mpr ⟨before, by rw [tenant]; exact decide_eq_true same.symm⟩
      exact others y closed rfl
  | false =>
    have whole : s.enrol e = s.modHub (fun h => h.secFault enrBad) := if_neg (by rw [ok]; exact Bool.false_ne_true)
    have only := s.hub.secFault_only enrBad none
    have sec := congrArg (·.sec) only
    have sessions := congrArg (·.dict.sessions) only
    rw [whole]
    refine ⟨rfl, fun e => (nomatch e), fun _ => ⟨?_, congrArg (·.tenants) sec, sessions⟩⟩
    refine (congrArg (fun x : Sec => bit x.fault 1) sec).trans ?_
    exact bit_setBit_same _ (by decide)

/-! ### Proofs (R391, R408) -/

/-- With fewer than sixteen sessions there is a number for another one. -/
theorem freeNumber_some {l : List (BitVec 16)} (few : l.length < 16) : ∃ n, freeNumber l = some n ∧ n ∉ l ∧ n ≠ 0 ∧ n ≠ 0xFFFF := by
  let candidates := (List.range (l.length + 1)).map (fun i => BitVec.ofNat 16 (i + 1))
  have value (i : Nat) (h : i < l.length + 1) : (BitVec.ofNat 16 (i + 1)).toNat = i + 1 := by
    rw [BitVec.toNat_ofNat]
    exact Nat.mod_eq_of_lt (by omega)
  have once : candidates.Nodup := by
    refine List.Nodup.map_on (fun i hi j hj same => ?_) List.nodup_range
    have vals := congrArg BitVec.toNat same
    rw [value i (List.mem_range.mp hi), value j (List.mem_range.mp hj)] at vals
    omega
  have free : ∃ n ∈ candidates, n ∉ l := by
    by_contra h
    push Not at h
    have long := (List.subperm_of_subset once h).length_le
    rw [List.length_map, List.length_range] at long
    omega
  have proper (n : BitVec 16) (listed : n ∈ candidates) : n ≠ 0 ∧ n ≠ 0xFFFF := by
    obtain ⟨i, hi, rfl⟩ := List.mem_map.mp listed
    have v := value i (List.mem_range.mp hi)
    have small := List.mem_range.mp hi
    constructor
    · intro e
      have z := congrArg BitVec.toNat e
      rw [v] at z
      exact absurd z (Nat.succ_ne_zero i)
    · intro e
      have z := congrArg BitVec.toNat e
      rw [v] at z
      have top : (0xFFFF : BitVec 16).toNat = 65535 := rfl
      omega
  obtain ⟨n, listed, fresh⟩ := free
  have found : (freeNumber l).isSome = true := by
    rw [freeNumber, List.find?_isSome]
    refine ⟨n, listed, ?_⟩
    rw [Bool.and_eq_true, Bool.not_eq_true', decide_eq_true_eq]
    exact ⟨by simpa using fresh, (proper n listed).2⟩
  obtain ⟨k, hk⟩ := Option.isSome_iff_exists.mp found
  have taken := List.find?_some hk
  have there := List.mem_of_find?_eq_some hk
  obtain ⟨nonzero, notAll⟩ := proper k there
  refine ⟨k, hk, ?_, nonzero, notAll⟩
  simp at taken
  exact taken.1

/-- The first operator's key is kept. -/
theorem State.firstOperator_facts (s : State) (role : Role) (key : Bytes) :
    OnlyHub s (s.firstOperator role key) ∧ (s.firstOperator role key).hub.dict = s.hub.dict ∧ (s.firstOperator role key).now = s.now
      ∧ (role = .operator → (∀ k ∈ s.hub.sec.opKeys.toList, k = []) → (s.firstOperator role key).hub.sec.opKeys[0] = key) := by
  unfold State.firstOperator
  by_cases first : (role = .operator && s.hub.sec.opKeys.toList.all (·.isEmpty)) = true
  · rw [if_pos first]
    exact ⟨rfl, rfl, rfl, fun _ _ => vupd_get_self s.hub.sec.opKeys 0 _⟩
  · rw [if_neg first]
    refine ⟨rfl, rfl, rfl, fun operator none => absurd ?_ first⟩
    rw [Bool.and_eq_true, decide_eq_true_eq, List.all_eq_true]
    exact ⟨operator, fun k hk => List.isEmpty_iff.mpr (none k hk)⟩

/-- What a proof is judged by (R391, R407, R408). -/
def State.provenBy (s : State) (c : Challenge) (cipher sig : Bytes) : Bool :=
  Config.dsaVerify c.key "YZB8 session" (cipher ++ c.nonce ++ s.hub.sec.digest) sig && s.roleOk c.route c.role c.key c.cert

/-- The challenge is used up. -/
def State.usesUp (s : State) (challenge : Nat) : State :=
  s.modDict (fun d => { d with challenges := d.challenges.filter (fun y => y.id ≠ challenge) })

/-- The answer to an open request, a proof or a close. -/
def State.told (s : State) (o : Response) : State := s.modDict (fun d => { d with lastOpen := some o })

/-- The session of a challenge opens under a number. -/
def State.opens (s : State) (c : Challenge) (n : BitVec 16) (cipher : Bytes) : State :=
  let u := s.firstOperator c.role c.key
  u.modDict (fun d => { d with sessions := d.sessions ++ [c.session n cipher u.now] })

section
variable {c : Challenge} {challenge : Nat} {cipher sig : Bytes}
  (found : s.hub.dict.challenges.find? (fun y => y.id = challenge) = some c) (heard : s.hearsOpen c.route = true)
include found heard

/-- A proof that is heard uses its challenge up and is judged. -/
theorem State.proof_heard :
    s.proof challenge cipher sig =
      if !s.provenBy c cipher sig then (s.usesUp challenge).told (bare 0x85 3)
      else if 16 ≤ s.hub.dict.sessions.length then (s.usesUp challenge).told (bare 0x85 0x0C)
      else
        match freeNumber (s.hub.dict.sessions.map (·.num)) with
        | none => (s.usesUp challenge).told (bare 0x85 0x0C)
        | some n => ((s.usesUp challenge).opens c n cipher).told { pt := 0x85, st := 0, ty := 0, tot := 2, value := leBytes 2 n.toNat } := by
  have judged : (!Config.dsaVerify c.key "YZB8 session" (cipher ++ c.nonce ++ s.hub.sec.digest) sig
      || !s.roleOk c.route c.role c.key c.cert) = !s.provenBy c cipher sig := (Bool.not_and ..).symm
  rw [← judged]
  unfold State.proof
  rw [found]
  dsimp only
  rw [heard]
  rfl

theorem State.proof_refused (bad : s.provenBy c cipher sig = false) :
    s.proof challenge cipher sig = (s.usesUp challenge).told (bare 0x85 3) :=
  (s.proof_heard found heard).trans (if_pos (by rw [bad]; rfl))

theorem State.proof_full (good : s.provenBy c cipher sig = true) (full : 16 ≤ s.hub.dict.sessions.length) :
    s.proof challenge cipher sig = (s.usesUp challenge).told (bare 0x85 0x0C) :=
  (s.proof_heard found heard).trans ((if_neg (by rw [good]; decide)).trans (if_pos full))

theorem State.proof_opens (good : s.provenBy c cipher sig = true) (few : s.hub.dict.sessions.length < 16) :
    ∃ n, s.proof challenge cipher sig
        = ((s.usesUp challenge).opens c n cipher).told { pt := 0x85, st := 0, ty := 0, tot := 2, value := leBytes 2 n.toNat }
      ∧ (∀ z ∈ s.hub.dict.sessions, z.num ≠ n) ∧ n ≠ 0 ∧ n ≠ 0xFFFF := by
  obtain ⟨n, free, fresh, proper⟩ := freeNumber_some (l := s.hub.dict.sessions.map (·.num)) (by rw [List.length_map]; exact few)
  refine ⟨n, ?_, fun z hz same => fresh (List.mem_map.mpr ⟨z, hz, same⟩), proper⟩
  rw [s.proof_heard found heard, if_neg (by rw [good]; decide), if_neg (Nat.not_le.mpr few), free]

end

/-! ### Closes and timeouts (R391) -/

/-- An answer to a session that is not there is kept nowhere. -/
theorem State.reply_absent {r : Req} {o : Response} (none : ∀ y ∈ s.hub.dict.sessions, y.num ≠ r.ses) : s.reply r o = s := by
  have same : s.hub.dict.sessions.map (fun y : Session => if decide (y.num = r.ses) then
      { y with rseq := r.rseq, lastAt := s.now, resp := some o } else y) = s.hub.dict.sessions := by
    refine (List.map_congr_left (fun y listed => ?_)).trans (List.map_id _)
    exact if_neg (by rw [decide_eq_true_eq]; exact none y listed)
  exact congrArg (fun l => s.modDict (fun d => { d with sessions := l })) same

theorem Fresh.sessionClose {r : Req} {x : Session} (h : Fresh s r x) :
    ∃ t, exec (.sessionClose r) s = .next t ∧ t.session r.ses = none ∧ t.ports = s.ports
      ∧ t.hub.dict.sessions = s.hub.dict.sessions.filter (fun y => y.num ≠ r.ses)
      ∧ t.hub.dict.lastOpen = some ⟨0x86, 0, 0, 0, [], 0, 0, 0⟩
      ∧ (s.hub.dict.load.st = .receiving → s.hub.dict.load.owner = r.ses → t.hub.dict.load.st = .idle)
      ∧ (s.hub.dict.load.owner ≠ r.ses → t.hub.dict.load = s.hub.dict.load ∧ t.dies = s.dies) := by
  have num := h.num_eq
  obtain ⟨run, up, session, tag, port, -, next, seg⟩ := h
  have heard : s.hearsOpen r.route = true := by rw [port, State.hearsOpen, State.reachedBy, run, up]; rfl
  obtain ⟨ports, sessions, mine, others⟩ := s.closeSession_facts r.ses
  have whole : s.closeReq r = ((s.closeSession r.ses).told (bare 0x86 0)).reply r (bare 0x86 0) := by
    unfold State.closeReq
    rw [heard, State.request_next _ _ _ session tag next (.inl seg), num]
    rfl
  have away : ∀ y ∈ ((s.closeSession r.ses).told (bare 0x86 0)).hub.dict.sessions, y.num ≠ r.ses := by
    intro y listed
    have before : y ∈ s.hub.dict.sessions.filter (fun y => y.num ≠ r.ses) := sessions ▸ listed
    exact of_decide_eq_true (List.mem_filter.mp before).2
  refine ⟨_, congrArg Host.Outcome.next (whole.trans (State.reply_absent away)), State.session_of_filter sessions, ports, sessions, rfl, mine, others⟩

theorem State.sessionTimeout_facts {n : BitVec 16} {x : Session} (hx : s.session n = some x) :
    (x.lastAt + 15000000000 ≤ s.now → s.sessionTimeout n = s.closeSession n)
      ∧ (s.now < x.lastAt + 15000000000 → s.sessionTimeout n = s) := by
  have wait : secCounts 60 = 15000000000 := rfl
  unfold State.sessionTimeout
  rw [hx]
  dsimp only
  rw [wait]
  exact ⟨fun late => if_pos late, fun soon => if_neg (Nat.not_le.mpr soon)⟩

end

/-- Settles O54: an open request by `State.openReq_heard` and `State.enrol_facts`, a proof by `State.proof_heard`, and a close and a
timeout by `State.closeSession_facts`. -/
theorem sessionsOpenAndClose : Obligations.SessionsOpenAndClose := by
  unfold Obligations.SessionsOpenAndClose
  intro s route role key e cipher sig cert n ses r x c h good
  refine ⟨fun run up reached => ?_, fun none => ?_, fun fresh => fresh.sessionClose, fun hx => ?_⟩
  · have heard : s.hearsOpen route = true := by
      rw [State.hearsOpen, reached, up, run]
      rfl
    refine ⟨fun puffed few => ?_, fun none => ?_, fun puffed => ?_, fun found same => ?_⟩
    · obtain ⟨nonce, sent, head⟩ := s.newChallenge_facts route role key cert
      have whole : s.openReq route role key none cert = s.challenged (s.newChallenge route role key cert) := by
        rw [State.openReq_heard heard, if_neg (by rw [puffed]; decide)]
        exact if_neg (Nat.not_le.mpr few)
      refine ⟨s.newChallenge route role key cert, congrArg Host.Outcome.next (whole.trans ?_), rfl, rfl, rfl, rfl, rfl, nonce, sent, head⟩
      rw [State.challenged, sent]
      rfl
    · refine congrArg Host.Outcome.next ?_
      rw [State.openReq_heard heard]
      obtain puffed | full := none
      · exact if_pos puffed
      · by_cases puffed : s.hub.sec.puffed = true
        · exact if_pos puffed
        · exact (if_neg puffed).trans (if_pos full)
    · obtain ⟨ports, sec, sessions⟩ := State.answered_enrolment (route := route) (role := role) (key := key) (cert := cert) (s.enrol e)
      obtain ⟨ports', passes, fails⟩ := s.enrol_facts e
      have whole := (State.openReq_heard (role := role) (key := key) (cert := cert) heard (some e)).trans
        (if_neg (by rw [puffed]; decide))
      refine ⟨_, congrArg Host.Outcome.next whole, ports.trans ports', fun ok => ?_, fun bad => ?_⟩
      · obtain ⟨keys, revoked⟩ := passes ok
        obtain ⟨counter, tenants, record0, record1⟩ := s.hub.sec.enrolled_facts e (State.enrolOk_slot ok)
        rw [sec, sessions]
        generalize (s.enrol e).hub.sec = z at keys
        refine ⟨(congrArg (·.enrCtr) keys).trans counter, fun q => (congrArg (·.tenants[q]) keys).trans (tenants q), fun known => ?_,
          fun unknown q => ?_, (congrArg (·.recordOk 0) keys).trans record0, (congrArg (·.recordOk 1) keys).trans record1, revoked⟩
        · exact if_pos known
        · have absent : s.hub.sec.seen.tenants = .replicate 16 none := if_neg (by rw [unknown]; decide)
          exact (congrArg (·[q]) absent).trans (Vector.getElem_replicate ..)
      · obtain ⟨flagged, tenants, before⟩ := fails bad
        rw [sec, sessions]
        exact ⟨flagged, tenants, before⟩
    · have judged : good = s.provenBy c cipher sig := rfl
      clear_value good
      have heard : s.hearsOpen c.route = true := by rw [same]; exact heard
      cases good with
      | false =>
        exact ⟨_, congrArg Host.Outcome.next (s.proof_refused found heard judged.symm), rfl, rfl, fun _ => ⟨rfl, rfl, rfl⟩,
          fun e => (nomatch e), fun e => (nomatch e)⟩
      | true =>
        by_cases few : s.hub.dict.sessions.length < 16
        · obtain ⟨m, whole, fresh, nonzero, notAll⟩ := s.proof_opens found heard judged.symm few
          obtain ⟨only, dict, now, first⟩ := (s.usesUp n).firstOperator_facts c.role c.key
          have opened : (s.usesUp n).opens c m cipher = ((s.usesUp n).firstOperator c.role c.key).modDict (fun d => { d with
              sessions := d.sessions ++ [c.session m cipher s.now] }) := by
            rw [State.opens, now]
            rfl
          rw [opened] at whole
          generalize (s.usesUp n).firstOperator c.role c.key = u at only dict now first whole
          have only' : OnlyHub s u := by
            have swapped := congrArg (fun v : State => { v with hub := s.hub }) only
            exact swapped
          have kept : u.hub.dict.sessions = s.hub.dict.sessions := congrArg (·.sessions) dict
          refine ⟨_, congrArg Host.Outcome.next whole, only', congrArg (·.challenges) dict, fun e => (nomatch e), fun _ _ => ?_,
            fun _ _ operator none => first operator none⟩
          exact ⟨c.session m cipher s.now, congrArg (· ++ [c.session m cipher s.now]) kept, fresh, nonzero, notAll, rfl, rfl,
            rfl, rfl, rfl, rfl, rfl, rfl⟩
        · exact ⟨_, congrArg Host.Outcome.next (s.proof_full found heard judged.symm (Nat.not_lt.mp few)), rfl, rfl, fun e => (nomatch e),
            fun _ h => absurd h few, fun _ h => absurd h few⟩
  · refine congrArg Host.Outcome.next ?_
    unfold State.proof
    rw [none]
  · obtain ⟨late, soon⟩ := State.sessionTimeout_facts hx
    obtain ⟨ports, sessions, -⟩ := s.closeSession_facts ses
    exact ⟨fun h => ⟨_, congrArg Host.Outcome.next (late h), State.session_of_filter sessions, ports, sessions⟩,
      fun h => congrArg Host.Outcome.next (soon h)⟩

end Sys2Proof.Machine

/-! # Update requests (O53) -/

namespace Sys2Proof.Machine

section
variable {s t u : State} {r : Req} {x : Session} {v : Bytes}

/-! ### Writes of the update entries -/

theorem Fresh.updateCommand (h : Fresh s r x) (operator : x.role = .operator) (b : BitVec 8) :
    ∃ t, s.put r 0x7000 1 [b] = .next t ∧ Responds r (s.updCommand b) t := by
  obtain ⟨t, runs, responds⟩ := h.put_responds 0x7000 1 [b]
  have entry : s.writeEntry x 0x7000 1 [b] noPlan noStandby = s.updCommand b :=
    State.writeEntry_effect (by rw [operator]; decide) rfl rfl rfl (s.laneAway_of_none rfl)
  rw [entry] at responds
  exact ⟨t, runs, responds⟩

theorem Fresh.updateChunk (h : Fresh s r x) (operator : x.role = .operator) :
    ∃ t, s.put r 0x7010 1 v = .next t ∧ Responds r (s.updChunk v) t := by
  obtain ⟨t, runs, responds⟩ := h.put_responds 0x7010 1 v
  have allowed : mayWrite x.role 0x7010 1 = 0 := by rw [operator]; decide
  have entry : s.writeEntry x 0x7010 1 v noPlan noStandby = s.updChunk v := by
    by_cases short : v.length ≤ 4096
    · exact State.writeEntry_effect allowed rfl (decide_eq_true short) rfl (s.laneAway_of_none rfl)
    · rw [State.writeEntry_wrongLength allowed rfl (decide_eq_false short)]
      refine (if_pos ?_).symm
      rw [Bool.or_eq_true, decide_eq_true_eq, decide_eq_true_eq]
      exact .inr (Nat.not_le.mp short)
  rw [entry] at responds
  exact ⟨t, runs, responds⟩

/-! ### The records of the firmware (R356, R401) -/

/-- The records as Marigold takes them depend on firmware and seed alone. -/
theorem Responds.fwSeen {e : State × BitVec 8} (h : Responds r e t) : t.hub.fwSeen = e.1.hub.fwSeen := congrArg (·.hub.fwSeen) h.only

theorem Hub.fwSeen_booted (h : Hub) : h.fwSeen.booted = h.fw.booted ∧ h.fwSeen.svn = h.fw.svn := by
  unfold Hub.fwSeen
  split <;> split <;> exact ⟨rfl, rfl⟩

/-- A floor that is written with its tag reads as written, and leaves the boot record. -/
theorem sealed_floor (h : Hub) (n : U32) :
    (h.sealFloor { h.fw with floor := n }).fwSeen.floor = n ∧ (h.sealFloor { h.fw with floor := n }).fwSeen.trial = h.fwSeen.trial := by
  have ok : (h.sealFloor { h.fw with floor := n }).floorOk = true := decide_eq_true rfl
  have boot : (h.sealFloor { h.fw with floor := n }).bootOk = h.bootOk := rfl
  unfold Hub.fwSeen
  rw [ok, boot]
  cases h.bootOk <;> cases h.floorOk <;> exact ⟨rfl, rfl⟩

/-- A boot record that is written leaves the floor. -/
theorem sealed_boot_floor (h : Hub) (trial : Bool) : (h.sealBoot { h.fw with trial := trial }).fwSeen.floor = h.fwSeen.floor := by
  have ok : (h.sealBoot { h.fw with trial := trial }).floorOk = h.floorOk := rfl
  unfold Hub.fwSeen
  rw [ok]
  cases (h.sealBoot { h.fw with trial := trial }).bootOk <;> cases h.bootOk <;> cases h.floorOk <;> rfl

/-! ### Chunks (R373) -/

theorem Firmware.setSlot_slot (f : Firmware) (b : Bool) (m : Mem) :
    { f.setSlot b m with slotA := f.slotA, slotB := f.slotB } = f ∧ (f.setSlot b m).slot b = m
      ∧ (f.setSlot b m).slot (!b) = f.slot (!b) := by
  cases b <;> exact ⟨rfl, rfl, rfl⟩

/-- The bytes of a chunk behind its offset. -/
theorem chunk_byte (i : Nat) : (v.drop 4).getD i 0 = v.getD (i + 4) 0 := by
  rw [List.getD_eq_getElem?_getD, List.getD_eq_getElem?_getD, List.getElem?_drop, Nat.add_comm]

end

section
variable {s t : State} {r : Req} {chunk : Bytes}

/-- A chunk of a legal length and place, while one is received, is written into the slot. -/
theorem State.updChunk_facts (long : 8 ≤ chunk.length) (short : chunk.length ≤ 4096) :
    (s.hub.fw.upd ≠ .receiving → s.updChunk chunk = (s, 8))
    ∧ (s.hub.fw.upd = .receiving →
        (leAt chunk 0 4 % 4 ≠ 0 ∨ 4194304 < leAt chunk 0 4 + (chunk.length - 4) → s.updChunk chunk = (s, 7))
        ∧ (leAt chunk 0 4 % 4 = 0 → leAt chunk 0 4 + (chunk.length - 4) ≤ 4194304 → s.updChunk chunk
            = (s.modFw (fun f => f.setSlot s.updSlot (Cells.setN (f.slot s.updSlot) (leAt chunk 0 4) (chunk.drop 4))), 0))) := by
  have sized : ¬(decide (chunk.length < 8) || decide (4096 < chunk.length)) = true := by
    rw [Bool.or_eq_true, decide_eq_true_eq, decide_eq_true_eq]
    omega
  have end_ : slotBytes = 4194304 := rfl
  unfold State.updChunk
  dsimp only
  rw [if_neg sized, end_]
  refine ⟨fun away => if_pos away, fun receiving => ?_⟩
  rw [if_neg (not_not_intro receiving)]
  refine ⟨fun bad => if_pos ?_, fun aligned within => if_neg ?_⟩
  · rw [Bool.or_eq_true, decide_eq_true_eq, decide_eq_true_eq]
    exact bad
  · rw [Bool.or_eq_true, decide_eq_true_eq, decide_eq_true_eq]
    omega

/-- The bytes of a slot after a chunk. -/
theorem chunk_written {m : Mem} (wf : Cells.wf m = true) (long : 8 ≤ chunk.length) (off : Nat) :
    (∀ i, i + 4 < chunk.length → Cells.get (Cells.setN m off (chunk.drop 4)) (off + i) = chunk.getD (i + 4) 0)
    ∧ (∀ a, a < off ∨ off + (chunk.length - 4) ≤ a → Cells.get (Cells.setN m off (chunk.drop 4)) a = Cells.get m a) := by
  refine ⟨fun i inside => ?_, fun a outside => ?_⟩
  · rw [Cells.get_setN _ m off _ wf, List.length_drop, if_pos (by omega), Nat.add_sub_cancel_left, chunk_byte]
  · rw [Cells.get_setN _ m off _ wf, List.length_drop, if_neg (by omega)]

theorem State.updBegin_facts (s : State) :
    (s.hub.fw.upd = .idle ∨ s.hub.fw.upd = .failed →
      s.updBegin = (s.modFw (fun f => { f.setSlot s.updSlot [] with upd := .receiving }), 0))
    ∧ (s.hub.fw.upd ≠ .idle → s.hub.fw.upd ≠ .failed → s.updBegin = (s, 8)) := by
  unfold State.updBegin
  simp only [Bool.or_eq_true, decide_eq_true_eq]
  exact ⟨fun ready => if_pos ready, fun notIdle notFailed => if_neg (not_or.mpr ⟨notIdle, notFailed⟩)⟩

theorem State.updAbort_facts (s : State) :
    (s.hub.fw.upd = .idle → s.updAbort = (s, 8))
    ∧ (s.hub.fw.upd = .pending → s.updAbort
        = (s.modHub (fun h => h.sealBoot { h.fw with upd := .idle, pref := !h.fw.pref, trial := false, tries := 0 }), 0))
    ∧ (s.hub.fw.upd ≠ .idle → s.hub.fw.upd ≠ .pending → s.updAbort = (s.modFw (fun f => { f with upd := .idle }), 0)) := by
  unfold State.updAbort
  refine ⟨fun idle => by rw [idle], fun pending => by rw [pending], fun notIdle notPending => ?_⟩
  cases stands : s.hub.fw.upd with
  | idle => exact absurd stands notIdle
  | pending => exact absurd stands notPending
  | receiving => rfl
  | verified => rfl
  | failed => rfl

theorem State.updRestart_facts (s : State) :
    (s.hub.fw.upd = .pending → s.anyPlan = false → s.updRestart = (s.restart, 0))
    ∧ (s.hub.fw.upd ≠ .pending ∨ s.anyPlan = true → s.updRestart = (s, 8)) := by
  unfold State.updRestart
  simp only [Bool.and_eq_true, decide_eq_true_eq, Bool.not_eq_true']
  refine ⟨fun pending unplanned => if_pos ⟨pending, unplanned⟩, fun away => if_neg ?_⟩
  rintro ⟨pending, unplanned⟩
  obtain other | plan := away
  · exact other pending
  · rw [plan] at unplanned
    exact nomatch unplanned

/-- A restart of Marigold leaves the cores of every die. -/
theorem State.restart_cores (s : State) (m : DieIx) : s.restart.dies[m].cores = s.dies[m].cores := by
  have rest : s.restart.dies[m] = { s.dies[m] with loadAtEnd := false } := Vector.getElem_map ..
  rw [rest]

/-- A commit ends the trial, and the floor is at least what it was. -/
theorem State.updCommit_facts (s : State) :
    let ended := s.hub.sealBoot { s.hub.fw with trial := false }
    (s.hub.fwSeen.trial = true → s.hub.fw.booted = (if s.hub.fwSeen.pref then 1 else 0) →
      s.updCommit = ({ s with hub := if s.hub.fwSeen.floor.toNat < s.hub.fw.svn.toNat
          then ended.sealFloor { ended.fw with floor := s.hub.fw.svn } else ended }, 0)
      ∧ s.hub.fwSeen.floor.toNat ≤ s.updCommit.1.hub.fwSeen.floor.toNat ∧ s.updCommit.1.hub.fwSeen.trial = false)
    ∧ (s.hub.fwSeen.trial = false ∨ s.hub.fw.booted ≠ (if s.hub.fwSeen.pref then 1 else 0) → s.updCommit = (s, 8)) := by
  intro ended
  obtain ⟨booted, svn⟩ := s.hub.fwSeen_booted
  unfold State.updCommit
  dsimp only
  rw [booted, svn]
  refine ⟨fun trial runs => ?_, fun away => if_neg ?_⟩
  · have boot : ended.fwSeen.trial = false := (Tests.sealed_boot _ _).1
    have floor : ended.fwSeen.floor = s.hub.fwSeen.floor := sealed_boot_floor s.hub false
    rw [if_pos (by rw [trial]; exact decide_eq_true runs)]
    by_cases rises : s.hub.fwSeen.floor.toNat < s.hub.fw.svn.toNat
    · obtain ⟨new, kept⟩ := sealed_floor ended s.hub.fw.svn
      rw [if_pos rises, if_pos rises]
      exact ⟨rfl, (Nat.le_of_lt rises).trans (Nat.le_of_eq (congrArg BitVec.toNat new).symm), kept.trans boot⟩
    · rw [if_neg rises, if_neg rises]
      exact ⟨rfl, Nat.le_of_eq (congrArg BitVec.toNat floor).symm, boot⟩
  · rw [Bool.and_eq_true, decide_eq_true_eq]
    rintro ⟨trial, runs⟩
    obtain none | other := away
    · rw [none] at trial
      exact nomatch trial
    · exact other runs

end

/-- Settles O53: the write of an update entry has the effect of its command, by `Fresh.updateCommand` and `Fresh.updateChunk`. -/
theorem updateRequests : Obligations.UpdateRequests := by
  unfold Obligations.UpdateRequests
  intro s r x chunk fresh operator f seen b with_ sealed ended off
  have slot : s.updSlot = b := rfl
  refine ⟨?_, ?_, ?_, ?_, ?_, ?_, ?_⟩
  · obtain ⟨t, runs, responds⟩ := fresh.updateCommand operator 1
    obtain ⟨begins, refuses⟩ := s.updBegin_facts
    have erased : s.modFw (fun f => { f.setSlot s.updSlot [] with upd := .receiving })
        = with_ { f with upd := .receiving, slotA := if b then f.slotA else [], slotB := if b then [] else f.slotB } := by
      rw [slot]
      cases b <;> rfl
    refine ⟨t, runs, fun ready => responds.written ?_, fun notIdle notFailed => responds.written (refuses notIdle notFailed)⟩
    rw [← erased]
    exact begins ready
  · obtain ⟨t, runs, responds⟩ := fresh.updateChunk (v := chunk) operator
    refine ⟨t, runs, fun wrong => responds.written (if_pos ?_), fun long short notReceiving => ?_, fun long short receiving => ?_⟩
    · rw [Bool.or_eq_true, decide_eq_true_eq, decide_eq_true_eq]
      exact wrong
    · exact responds.written ((State.updChunk_facts long short).1 notReceiving)
    · obtain ⟨refused, taken⟩ := (State.updChunk_facts long short).2 receiving
      refine ⟨fun bad => responds.written (refused bad), fun aligned within wf => ?_⟩
      have effect := taken aligned within
      obtain ⟨kept, written, other⟩ := f.setSlot_slot b (Cells.setN (f.slot b) off (chunk.drop 4))
      obtain ⟨inside, outside⟩ := chunk_written wf long off
      rw [effect] at responds
      have fw : t.hub.fw = f.setSlot b (Cells.setN (f.slot b) off (chunk.drop 4)) := congrArg (·.hub.fw) responds.only
      refine ⟨responds.answered rfl fresh.session_eq, responds.dies, responds.ports, ?_⟩
      rw [fw, written]
      exact ⟨kept, other, inside, outside⟩
  · obtain ⟨t, runs, responds⟩ := fresh.updateCommand operator 2
    exact ⟨t, runs, fun receiving => responds.written (if_pos receiving), fun away => responds.written (if_neg away)⟩
  · obtain ⟨t, runs, responds⟩ := fresh.updateCommand operator 3
    exact ⟨t, runs, fun verified => responds.written (if_pos verified), fun away => responds.written (if_neg away)⟩
  · obtain ⟨t, runs, responds⟩ := fresh.updateCommand operator 4
    obtain ⟨refuses, reverts, ends⟩ := s.updAbort_facts
    exact ⟨t, runs, fun idle => responds.written (refuses idle), fun pending => responds.written (reverts pending),
      fun notIdle notPending => responds.written (ends notIdle notPending)⟩
  · obtain ⟨t, runs, responds⟩ := fresh.updateCommand operator 5
    obtain ⟨restarts, refuses⟩ := s.updRestart_facts
    refine ⟨t, runs, fun pending unplanned => ?_, fun away => responds.written (refuses away)⟩
    have effect : s.updCommand 5 = (s.restart, 0) := restarts pending unplanned
    rw [effect] at responds
    have fw : t.hub.fw = s.restart.hub.fw := congrArg (·.hub.fw) responds.only
    have none : t.hub.dict.sessions = [] := by
      obtain ⟨tot, idx, sub, rfl⟩ := responds
      rfl
    rw [fw]
    refine ⟨rfl, rfl, none, rfl, rfl, responds.ports, fun m => ?_⟩
    rw [responds.dies]
    exact s.restart_cores m
  · obtain ⟨t, runs, responds⟩ := fresh.updateCommand operator 6
    obtain ⟨commits, refuses⟩ := s.updCommit_facts
    refine ⟨t, runs, fun trial booted => ?_, fun away => responds.written (refuses away)⟩
    obtain ⟨effect, floor, ended⟩ := commits trial booted
    refine ⟨responds.written effect, ?_⟩
    rw [responds.fwSeen]
    exact ⟨floor, ended⟩

end Sys2Proof.Machine

/-! # Security requests (O56) -/

namespace Sys2Proof.Machine

section
variable {s t : State} {r : Req} {x : Session} {v : Bytes} {job : BitVec 8} {seed : Bytes} {k : JobKey}

/-! ### Writes of octet strings -/

/-- A write of an octet string that its role may make is refused where it is too long, and else is judged by its entry. -/
theorem Fresh.octets (h : Fresh s r x) {i j most : Nat} {acc : Access} {e : State × BitVec 8} (allowed : mayWrite x.role i j = 0)
    (kind : kindOf i j = some (kOct acc most)) (lane : laneDie i j = none) (effect : s.effect x i j v noPlan noStandby = e)
    (refused : most < v.length → e = (s, 6)) : ∃ t, s.put r i j v = .next t ∧ Responds r e t := by
  obtain ⟨t, runs, responds⟩ := h.put_responds i j v
  have entry : s.writeEntry x i j v noPlan noStandby = e := by
    by_cases fits_ : v.length ≤ most
    · exact (State.writeEntry_ofKind allowed kind (decide_eq_true fits_) rfl lane).trans effect
    · rw [State.writeEntry_wrongLength allowed kind (decide_eq_false fits_)]
      exact (refused (Nat.not_le.mp fits_)).symm
  rw [entry] at responds
  exact ⟨t, runs, responds⟩

/-! ### Attestation (R405, R406) -/

theorem mayWrite_nonce (role : Role) : mayWrite role 0x6000 1 = 0 := by
  cases role <;> decide

theorem State.dieRecord_length (s : State) (n : DieIx) : (s.dieRecord n).length = 72 := by
  unfold State.dieRecord
  simp only [List.length_append, leBytes_length, slice_length]
  rfl

/-- What lies between two parts of known lengths. -/
theorem slice_between {head middle rest : Bytes} {a n : Nat} (start : head.length = a) (long : middle.length = n) :
    slice (head ++ (middle ++ rest)) a n = middle := by
  subst start long
  unfold slice
  rw [List.drop_left, List.take_left]
  dsimp only
  rw [Nat.sub_self]
  exact List.append_nil middle

/-- The bytes of a report before its nonce, and those behind it. -/
def State.reportHead (s : State) : Bytes :=
  leBytes 4 0x52415A59 ++ leBytes 2 1 ++ leBytes 2 3196 ++ leBytes 4 productCode ++ leBytes 1 0xA1
    ++ leBytes 1 (s.hub.fw.booted.toNat % 128 + 128 * b2n s.hub.fw.fallback) ++ slice [] 0 2
def State.reportTail (s : State) : Bytes :=
  slice s.hub.sec.digest 0 32 ++ slice Config.mRom 0 32 ++ slice s.hub.fw.meas 0 32 ++ leBytes 4 s.hub.fw.svn.toNat
    ++ leBytes 4 s.hub.fwSeen.floor.toNat ++ slice s.hub.sec.mCfg 0 32 ++ leBytes 8 s.hub.time.tc.toNat
    ++ leBytes 4 s.hub.sec.seen.unlocks.toNat ++ leBytes 1 s.hub.sec.scope.toNat ++ slice [] 0 3
    ++ (List.finRange 8).flatMap s.dieRecord

theorem State.reportBody_eq (s : State) : s.reportBody = s.reportHead ++ (slice s.hub.sec.nonce 0 32 ++ s.reportTail) := by
  unfold State.reportBody State.reportHead State.reportTail
  simp only [List.append_assoc]

/-- A report has 776 bytes before its signature, and its nonce behind sixteen. -/
theorem State.reportBody_facts (s : State) :
    s.reportBody.length = 776 ∧ slice s.reportBody 16 32 = slice s.hub.sec.nonce 0 32 := by
  have head : s.reportHead.length = 16 := by
    unfold State.reportHead
    simp only [List.length_append, leBytes_length, slice_length]
  have dies : ((List.finRange 8).flatMap s.dieRecord).length = 576 := by
    rw [List.length_flatMap]
    simp only [State.dieRecord_length]
    rfl
  have tail : s.reportTail.length = 728 := by
    unfold State.reportTail
    simp only [List.length_append, leBytes_length, slice_length, dies]
  rw [State.reportBody_eq, List.length_append, List.length_append, head, tail, slice_length]
  exact ⟨rfl, slice_between head (slice_length ..)⟩

theorem slice_whole {n : Nat} (long : v.length = n) : slice v 0 n = v := by
  subst long
  unfold slice
  rw [List.drop_zero, List.take_length]
  dsimp only
  rw [Nat.sub_self]
  exact List.append_nil v

/-- A nonce is kept, with the report of that instant. -/
theorem State.nonceWrite_facts (s : State) :
    (v.length ≠ 32 → s.nonceWrite v = (s, 6))
    ∧ (v.length = 32 → (s.nonceWrite v).2 = 0 ∧ (s.nonceWrite v).1.session = s.session
        ∧ (s.nonceWrite v).1.dies = s.dies ∧ (s.nonceWrite v).1.ports = s.ports
        ∧ (s.nonceWrite v).1.hub.sec = { s.hub.sec with
            nonce := v, report := [], readyAt := some (s.now + 50000000), snap := (s.nonceWrite v).1.hub.sec.snap }
        ∧ (s.nonceWrite v).1.hub.sec.snap.length = 776 ∧ slice (s.nonceWrite v).1.hub.sec.snap 16 32 = v) := by
  refine ⟨fun wrong => if_pos wrong, fun long => ?_⟩
  let noted := s.modSec (fun x => { x with nonce := v, report := [], readyAt := some (s.now + msCounts 200) })
  have effect : s.nonceWrite v = (noted.modSec (fun x => { x with snap := noted.reportBody }), 0) := if_neg (not_not_intro long)
  obtain ⟨whole, nonce⟩ := noted.reportBody_facts
  rw [effect]
  exact ⟨rfl, rfl, rfl, rfl, rfl, whole, nonce.trans (slice_whole long)⟩

theorem Fresh.attestationNonce (h : Fresh s r x) :
    ∃ t, exec (.attestationNonce r v) s = .next t
      ∧ (v.length ≠ 32 → Written s r 6 t)
      ∧ (v.length = 32 → Answered t r 0x82 0 ∧ t.dies = s.dies ∧ t.ports = s.ports
          ∧ t.hub.sec = { s.hub.sec with nonce := v, report := [], readyAt := some (s.now + 50000000), snap := t.hub.sec.snap }
          ∧ t.hub.sec.snap.length = 776 ∧ slice t.hub.sec.snap 16 32 = v) := by
  obtain ⟨wrong, taken⟩ := s.nonceWrite_facts (v := v)
  obtain ⟨t, runs, responds⟩ := h.octets (v := v) (i := 0x6000) (j := 1) (most := 32) (acc := .wo) (mayWrite_nonce x.role) rfl rfl rfl
    (fun long => wrong (Nat.ne_of_gt long))
  refine ⟨t, runs, fun bad => responds.written (wrong bad), fun long => ?_⟩
  obtain ⟨status, session, dies, ports, sec, snap, nonce⟩ := taken long
  have there : (s.nonceWrite v).1.session r.ses = some x := (congrFun session r.ses).trans h.session_eq
  have same : t.hub.sec = (s.nonceWrite v).1.hub.sec := congrArg (·.hub.sec) responds.only
  refine ⟨responds.answered status there, responds.dies.trans dies, responds.ports.trans ports, ?_⟩
  rw [same]
  exact ⟨sec, snap, nonce⟩

/-! ### Offers (R410) -/

theorem State.offerBytes_facts (s : State) (x : Session) (job : BitVec 8) (seed : Bytes) :
    (s.offerBytes x job seed).length = 3640 ∧ (s.offerBytes x job seed).head? = some job := by
  refine ⟨?_, rfl⟩
  unfold State.offerBytes Sec.sign
  simp only [List.length_append, List.length_cons, slice_length]
  rfl

theorem Session.mayRead_offer (s : State) (x : Session) : s.mayRead x 0x4020 1 = 0 := by
  have reads : s.roleReads x 0x4020 = true := by
    cases role : x.role <;> simp [State.roleReads, role]
  exact State.mayRead_role (k := kOct .ro 3640) reads rfl rfl rfl

/-- A read of the offer of a right length answers what the offer gives. -/
theorem State.readEntry_offer {off : BitVec 32} {len : BitVec 16} (some_ : len ≠ 0) (most : len.toNat ≤ 1024) :
    s.readEntry x 0x4020 1 off.toNat len.toNat =
      match s.offer x (decide (off.toNat = 0)) with
      | (t, some v) => (t, partOf (kOct .ro 3640) v off.toNat len.toNat)
      | (t, none) => (t, bare 0x81 8) := by
  have sized : partBad (kOct .ro 3640) off.toNat len.toNat = false := (partBad_eq_false_iff _ off len).2 ⟨some_, most, .inr rfl⟩
  have kind : kindOf 0x4020 1 = some (kOct .ro 3640) := rfl
  simp only [State.readEntry, Session.mayRead_offer, kind]
  exact (if_neg (Bool.eq_false_iff.1 sized)).trans (if_pos rfl)

theorem partOf_offer_at {off : BitVec 32} {len : BitVec 16} (h : v.length = 3640) :
    (partOf (kOct .ro 3640) v off.toNat len.toNat).at_ 0x4020 1 off = ⟨0x81, 0, 11, 3640, cut v off.toNat len.toNat, 0x4020, 1, off⟩ := by
  rw [Response.at_of_value (k := kOct .ro 3640) rfl rfl rfl (by show v.length ≠ 0; omega)]
  unfold partOf
  rw [h]
  rfl

/-- A read of the offer answers what the entry gives. -/
theorem Fresh.offerRead (h : Fresh s r x) {off : BitVec 32} {len : BitVec 16} {o : Response}
    (effect : s.readEntry x 0x4020 1 off.toNat len.toNat = (t, o)) :
    exec (.jobKeyOffer r off len) s = .next (t.reply r (o.at_ 0x4020 1 off)) :=
  (h.dictRead 0x4020 1 off len).trans
    (congrArg (fun e : State × Response => (.next (e.1.reply r (e.2.at_ 0x4020 1 off)) : Out)) effect)

/-- A fresh offer is drawn by the read of its first bytes. -/
theorem Fresh.freshOffer (h : Fresh s r x) (tenant : x.role = .tenant) (locked : s.hub.sec.unlocked = false) {len : BitVec 16}
    (some_ : len ≠ 0) (most : len.toNat ≤ 1024) :
    ∃ t y p o, exec (.jobKeyOffer r 0 len) s = .next t ∧ OnlySessions s { t with draws := s.draws } ∧ t.draws = s.draws + 1
      ∧ t.session r.ses = some y ∧ y.offer = some (x.job, p) ∧ p.length = 64 ∧ y.resp = some ⟨0x81, 0, 11, 3640, o, 0x4020, 1, 0⟩
      ∧ o.length = len.toNat ∧ o.head? = some x.job := by
  let p := slice (Config.freshBytes s.hubKey 64) 0 64
  let u := s.drew.modSession x.num (fun y => { y with offer := some (x.job, p) })
  let o := cut (u.offerBytes x x.job p) 0 len.toNat
  obtain ⟨long, head⟩ := u.offerBytes_facts x x.job p
  have drawn : s.offer x true = (u, some (u.offerBytes x x.job p)) := by
    unfold State.offer
    rw [if_neg (by rw [tenant, locked]; decide)]
    cases x.offer <;> rfl
  have effect : s.readEntry x 0x4020 1 (0 : BitVec 32).toNat len.toNat = (u, partOf (kOct .ro 3640) (u.offerBytes x x.job p) 0 len.toNat) := by
    rw [State.readEntry_offer some_ most]
    show (match s.offer x true with | (t, some v) => _ | (t, none) => _) = _
    rw [drawn]
    rfl
  have there : u.session r.ses = some { x with offer := some (x.job, p) } := by
    have own : s.drew.session x.num = some x := by
      rw [h.num_eq]
      exact h.session_eq
    rw [← h.num_eq]
    exact State.session_modSession s.drew x.num (fun y => { y with offer := some (x.job, p) }) (fun _ => rfl) x own
  have answer := partOf_offer_at (off := 0) (len := len) long
  have positive : 0 < len.toNat := Nat.pos_of_ne_zero (fun z => some_ (BitVec.eq_of_toNat_eq z))
  refine ⟨_, _, p, o, h.offerRead effect, rfl, rfl, State.session_reply there _, rfl, slice_length .., congrArg some answer, ?_, ?_⟩
  · show (((u.offerBytes x x.job p).drop 0).take len.toNat).length = _
    rw [List.drop_zero, List.length_take, long]
    omega
  · show (((u.offerBytes x x.job p).drop 0).take len.toNat).head? = _
    rw [List.drop_zero, List.head?_take, if_neg (Nat.ne_of_gt positive), head]

/-- A later part comes of the offer that is in progress. -/
theorem Fresh.restOfOffer (h : Fresh s r x) (tenant : x.role = .tenant) (locked : s.hub.sec.unlocked = false) {off : BitVec 32} {len : BitVec 16}
    (some_ : len ≠ 0) (most : len.toNat ≤ 1024) (later : off ≠ 0) (offered : x.offer = some (job, seed)) :
    ∃ t y o, exec (.jobKeyOffer r off len) s = .next t ∧ OnlySessions s t ∧ t.session r.ses = some y
      ∧ y.offer = x.offer ∧ y.resp = some ⟨0x81, 0, 11, 3640, o, 0x4020, 1, off⟩ := by
  have notFirst : decide (off.toNat = 0) = false := decide_eq_false (fun z => later (BitVec.eq_of_toNat_eq z))
  have kept : s.offer x false = (s, some (s.offerBytes x job seed)) := by
    unfold State.offer
    rw [if_neg (by rw [tenant, locked]; decide), offered]
  have effect : s.readEntry x 0x4020 1 off.toNat len.toNat = (s, partOf (kOct .ro 3640) (s.offerBytes x job seed) off.toNat len.toNat) := by
    rw [State.readEntry_offer some_ most, notFirst, kept]
  obtain ⟨long, -⟩ := s.offerBytes_facts x job seed
  exact ⟨_, _, _, h.offerRead effect, rfl, State.session_reply h.session_eq _, rfl, congrArg some (partOf_offer_at long)⟩

theorem Fresh.noOffer (h : Fresh s r x) (away : x.role ≠ .tenant ∨ s.hub.sec.unlocked = true) {off : BitVec 32} {len : BitVec 16}
    (some_ : len ≠ 0) (most : len.toNat ≤ 1024) :
    ∃ t, exec (.jobKeyOffer r off len) s = .next t ∧ Replied s r ((bare 0x81 8).at_ 0x4020 1 off) t := by
  have refused (first : Bool) : s.offer x first = (s, none) := if_pos (by rw [Bool.or_eq_true, decide_eq_true_eq]; exact away)
  have effect : s.readEntry x 0x4020 1 off.toNat len.toNat = (s, bare 0x81 8) := by
    rw [State.readEntry_offer some_ most, refused]
  exact ⟨_, h.offerRead effect, replied_reply s r _⟩

/-! ### Capsules and expiry (R410, R411) -/

/-- The erasure of a job's key takes that key away, with its host sessions, and leaves every other key, plan and core. -/
theorem State.eraseKey_facts (s : State) (job : BitVec 8) :
    (s.eraseKey job).jobKey job = none ∧ (∀ j, j ≠ job → (s.eraseKey job).jobKey j = s.jobKey j)
      ∧ (∀ y ∈ (s.eraseKey job).hub.dict.hostSes, y.2 ≠ job) := by
  refine ⟨?_, fun j other => ?_, fun y listed => of_decide_eq_true (List.mem_filter.mp listed).2⟩
  · show (s.hub.sec.keys.filter (fun k => k.job ≠ job)).find? _ = none
    rw [List.find?_eq_none]
    intro k listed same
    exact of_decide_eq_true (List.mem_filter.mp listed).2 (of_decide_eq_true same)
  · show (s.hub.sec.keys.filter (fun k => k.job ≠ job)).find? _ = s.hub.sec.keys.find? _
    rw [List.find?_filter]
    congr 1
    funext k
    by_cases same : k.job = j
    · rw [decide_eq_true same]
      exact decide_eq_true ⟨decide_eq_true (fun e => other (same.symm.trans e)), rfl⟩
    · rw [decide_eq_false same]
      exact decide_eq_false (fun e => nomatch e.2)

theorem State.keyTimeout_facts (held : s.jobKey job = some k) :
    (k.loaded = false → s.jobRuns job = false → k.at_ + 15000000000 ≤ s.now → s.keyTimeout job = s.eraseKey job)
    ∧ (k.loaded = true ∨ s.now < k.at_ + 15000000000 → s.keyTimeout job = s) := by
  have wait : secCounts 60 = 15000000000 := rfl
  unfold State.keyTimeout
  rw [held]
  dsimp only
  rw [wait]
  refine ⟨fun unloaded idle late => if_pos ?_, fun away => if_neg ?_⟩
  · rw [unloaded, idle, decide_eq_true late]
    rfl
  · rw [Bool.and_eq_true, Bool.and_eq_true, decide_eq_true_eq]
    rintro ⟨⟨unloaded, -⟩, late⟩
    obtain loaded | soon := away
    · rw [loaded] at unloaded
      exact nomatch unloaded
    · omega

/-- The key that a capsule gives. -/
def State.capsuleKey (s : State) (x : Session) (job : BitVec 8) (seed v : Bytes) : JobKey :=
  { job := job, tenant := x.digest,
    key := shakeN 32 (strBytes "YZB8 job" ++ Config.kemDecap seed (slice v 4 1088) ++ [job] ++ x.digest),
    at_ := s.now, maxSerial := 0, loaded := false }

/-- A capsule that is taken gives the job's key in place of another one, and uses the offer up. -/
def State.capsuleTaken (s : State) (x : Session) (k : JobKey) : State :=
  ((s.eraseKey k.job).modSec (fun y => { y with keys := y.keys ++ [k] })).modSession x.num (fun y => { y with offer := none })

/-- How a capsule of the right length is judged. -/
theorem State.capsule_facts (long : v.length = 1092) :
    (x.offer = none → s.capsule x v = (s, 8))
    ∧ (x.offer = some (job, seed) →
        (s.boundElse job x.digest = true → s.capsule x v = (s, 3))
        ∧ (s.boundElse job x.digest = false → s.jobRuns job = true ∨ s.hub.sec.unlocked = true → s.capsule x v = (s, 8))
        ∧ (s.boundElse job x.digest = false → s.jobRuns job = false → s.hub.sec.unlocked = false → v.take 4 = [job, 0, 0, 0] →
            s.capsule x v = (s.capsuleTaken x (s.capsuleKey x job seed v), 0))) := by
  unfold State.capsule
  rw [if_neg (not_not_intro long)]
  refine ⟨fun none => by rw [none], fun offered => ?_⟩
  rw [offered]
  dsimp only
  refine ⟨fun bound => if_pos bound, fun free away => ?_, fun free idle locked begins => ?_⟩
  · rw [if_neg (by rw [free]; decide)]
    exact if_pos (Bool.or_eq_true_iff.mpr away)
  · have head : v.headD 0 = job := by
      cases v with
      | nil => exact nomatch begins
      | cons b w => exact (List.cons.inj begins).1
    have zeros : slice v 1 3 = slice [] 0 3 := by
      have part : (v.drop 1).take 3 = [0, 0, 0] := by
        have dropped := congrArg (List.drop 1) begins
        rw [List.drop_take] at dropped
        exact dropped
      unfold slice
      rw [part]
      rfl
    rw [if_neg (by rw [free]; decide), if_neg (by rw [idle, locked]; decide),
      if_neg (by rw [head, zeros, Bool.or_eq_true, decide_eq_true_eq, decide_eq_true_eq]; exact fun e => e.elim (· rfl) (· rfl))]
    rfl

theorem State.capsuleTaken_facts (s : State) (x : Session) (k : JobKey) (there : s.session x.num = some x) :
    (s.capsuleTaken x k).jobKey k.job = some k ∧ (∀ j, j ≠ k.job → (s.capsuleTaken x k).jobKey j = s.jobKey j)
      ∧ (s.capsuleTaken x k).session x.num = some { x with offer := none } := by
  obtain ⟨erased, others, -⟩ := s.eraseKey_facts k.job
  refine ⟨?_, fun j other => ?_, ?_⟩
  · show ((s.eraseKey k.job).hub.sec.keys ++ [k]).find? _ = _
    rw [List.find?_append, show (s.eraseKey k.job).hub.sec.keys.find? _ = none from erased]
    exact List.find?_cons_of_pos (p := fun y : JobKey => decide (y.job = k.job)) (decide_eq_true rfl)
  · show ((s.eraseKey k.job).hub.sec.keys ++ [k]).find? _ = _
    rw [List.find?_append, List.find?_cons_of_neg (by simpa using fun e => other e.symm)]
    exact (Option.or_none).trans (others j other)
  · have sessions := (keysSettled_eraseKey s k.job).sessions
    refine State.session_modSession ((s.eraseKey k.job).modSec (fun y => { y with keys := y.keys ++ [k] })) x.num
      (fun y => { y with offer := none }) (fun _ => rfl) x ?_
    show (s.eraseKey k.job).hub.dict.sessions.find? _ = _
    rw [sessions]
    exact there

theorem Fresh.jobKeyCapsule (h : Fresh s r x) (tenant : x.role = .tenant) :
    ∃ t, exec (.jobKeyCapsule r v) s = .next t ∧ Responds r (s.capsule x v) t :=
  h.octets (i := 0x4020) (j := 2) (most := 1092) (acc := .wo) (by rw [tenant]; decide) rfl rfl rfl
    (fun long => if_pos (Nat.ne_of_gt long))

/-! ### Debug tokens (R418 to R421) -/

/-- A fresh challenge is drawn after a token. -/
def State.challengedAnew (s : State) : State :=
  (s.modSec (fun x => { x with chal := slice (Config.freshBytes s.hubKey 32) 0 32 })).drew

theorem State.token_facts (s : State) (v : Bytes) :
    (v.length ≠ 2508 → s.token v = (s, 6))
    ∧ (v.length = 2508 → s.hub.sec.tokenOk v = false → s.token v = (s.challengedAnew.modHub (fun h => h.secFault dbgBad), 7))
    ∧ (v.length = 2508 → s.hub.sec.tokenOk v = true → s.token v = (s.challengedAnew.unlock (v.getD 84 0), 0)) := by
  refine ⟨fun wrong => if_pos wrong, fun long bad => ?_, fun long good => ?_⟩
  · exact (if_neg (not_not_intro long)).trans (if_neg (by rw [bad]; exact Bool.false_ne_true))
  · exact (if_neg (not_not_intro long)).trans (if_pos good)

theorem State.secFault_sec (s : State) (b : FBit) :
    (s.modHub (fun h => h.secFault b)).hub.sec
        = { s.hub.sec with fault := setBit s.hub.sec.fault b.bit, setNow := setBit s.hub.sec.setNow b.bit }
      ∧ (s.modHub (fun h => h.secFault b)).hub.dict = s.hub.dict := by
  have only := s.hub.secFault_only b none
  refine ⟨?_, ?_⟩
  · have sec := congrArg (·.sec) only
    exact sec
  · have dict := congrArg (·.dict) only
    exact dict

/-- The dies of a module whose debug is unlocked: no plan and no key is left. -/
def Die.unlocked (now : Nat) (d : Die) : Die := { d.endPlan now with loadAtEnd := false, keyReg := [] }

/-- The count of the unlocks rises, under a new tag. -/
def Sec.counted (x : Sec) : Sec := Sec.sealUnlocks { x with unlocks := satAdd x.unlocks 1 }

/-- What a token opens and ends. -/
theorem State.unlock_facts (s : State) (scope : BitVec 8) :
    (s.unlock scope).draws = s.draws
      ∧ (s.unlock scope).hub.sec = { s.hub.sec.counted with
          keys := [], scope := s.hub.sec.scope ||| scope,
          fault := setBit s.hub.sec.fault 4, setNow := setBit s.hub.sec.setNow 4 }
      ∧ (s.unlock scope).hub.dict.hostSes = [] ∧ (s.unlock scope).hub.dict.bindings = []
      ∧ (s.unlock scope).hub.dict.sessions = s.hub.dict.sessions.filter (fun y => y.role ≠ .tenant)
      ∧ ∀ m : DieIx, (s.unlock scope).dies[m] = s.dies[m].unlocked s.now := by
  unfold State.unlock
  extract_lets a b c d e f
  obtain ⟨sec, dict⟩ := e.secFault_sec dbgUnl
  have dies (m : DieIx) : c.dies[m] = s.dies[m].unlocked s.now := by
    show (((s.dies.map (Die.endPlan s.now)).map (fun (d : Die) => { d with loadAtEnd := false })).map
      (fun (d : Die) => { d with keyReg := [] }))[m] = _
    rw [Fin.getElem_fin, Vector.getElem_map, Vector.getElem_map, Vector.getElem_map]
    rfl
  refine ⟨rfl, ?_, ?_, ?_, ?_, dies⟩
  · exact congrArg (fun z : Sec => { z with scope := z.scope ||| scope }) sec
  · exact congrArg (·.hostSes) dict
  · exact congrArg (·.bindings) dict
  · exact congrArg (·.sessions) dict

/-- A session that the filter keeps is found as before. -/
theorem find?_filter_kept {l : List Session} {p : Session → Bool} {n : BitVec 16} (found : l.find? (fun y => y.num = n) = some x)
    (keeps : p x = true) : (l.filter p).find? (fun y => y.num = n) = some x := by
  induction l with
  | nil => exact nomatch found
  | cons y l ih =>
    by_cases same : decide (y.num = n) = true
    · rw [List.find?_cons_of_pos (p := fun y : Session => decide (y.num = n)) same] at found
      obtain rfl := Option.some.inj found
      rw [List.filter_cons_of_pos keeps, List.find?_cons_of_pos (p := fun y : Session => decide (y.num = n)) same]
    · rw [List.find?_cons_of_neg (p := fun y : Session => decide (y.num = n)) same] at found
      by_cases stays : p y = true
      · rw [List.filter_cons_of_pos stays, List.find?_cons_of_neg (p := fun y : Session => decide (y.num = n)) same]
        exact ih found
      · rw [List.filter_cons_of_neg stays]
        exact ih found

theorem Fresh.debugUnlockToken (h : Fresh s r x) (vendor : x.role = .vendor) :
    ∃ t, exec (.debugUnlockToken r v) s = .next t
      ∧ (v.length ≠ 2508 → Written s r 6 t)
      ∧ (v.length = 2508 → s.hub.sec.tokenOk v = false → Answered t r 0x82 7 ∧ bit t.hub.sec.fault 3 = true
          ∧ t.dies = s.dies ∧ t.ports = s.ports ∧ t.hub.sec.scope = s.hub.sec.scope ∧ t.hub.sec.keys = s.hub.sec.keys
          ∧ t.draws = s.draws + 1)
      ∧ (v.length = 2508 → s.hub.sec.tokenOk v = true → Answered t r 0x82 0 ∧ bit t.hub.sec.fault 4 = true
          ∧ t.hub.sec.scope = s.hub.sec.scope ||| v.getD 84 0 ∧ t.hub.sec.unlocks = satAdd s.hub.sec.unlocks 1
          ∧ t.hub.sec.recordOk 2 = true ∧ t.hub.sec.keys = []
          ∧ t.hub.dict.hostSes = [] ∧ t.hub.dict.bindings = [] ∧ (∀ y ∈ t.hub.dict.sessions, y.role ≠ .tenant)
          ∧ (∀ m : DieIx, t.dies[m].plan = none ∧ t.dies[m].keyReg = []) ∧ t.draws = s.draws + 1) := by
  obtain ⟨wrong, refused, opened⟩ := s.token_facts v
  obtain ⟨t, runs, responds⟩ := h.octets (v := v) (e := s.token v) (i := 0x6030) (j := 1) (most := 2508) (acc := .wo) (by rw [vendor]; decide) rfl rfl
    rfl (fun long => wrong (Nat.ne_of_gt long))
  have session : s.challengedAnew.session r.ses = some x := h.session_eq
  refine ⟨t, runs, fun bad => responds.written (wrong bad), fun long bad => ?_, fun long good => ?_⟩
  · have effect := refused long bad
    rw [effect] at responds
    obtain ⟨sec, dict⟩ := s.challengedAnew.secFault_sec dbgBad
    have same : t.hub.sec = _ := (congrArg (·.hub.sec) responds.only).trans sec
    have there : (s.challengedAnew.modHub (fun h => h.secFault dbgBad)).session r.ses = some x := by
      rw [State.session, dict]
      exact session
    rw [same]
    exact ⟨responds.answered rfl there, bit_setBit_same _ (by decide), responds.dies, responds.ports, rfl, rfl,
      congrArg (·.draws) responds.only⟩
  · have effect := opened long good
    rw [effect] at responds
    obtain ⟨draws, sec, hosts, bindings, sessions, dies⟩ := s.challengedAnew.unlock_facts (v.getD 84 0)
    generalize s.challengedAnew.unlock (v.getD 84 0) = u at draws sec hosts bindings sessions dies responds
    have same : t.hub.sec = _ := (congrArg (·.hub.sec) responds.only).trans sec
    have there : u.session r.ses = some x := by
      rw [State.session, sessions]
      exact find?_filter_kept session (by rw [vendor]; rfl)
    rw [same, responds.dies]
    refine ⟨responds.answered rfl there, bit_setBit_same _ (by decide), rfl, rfl, decide_eq_true rfl, rfl,
      (congrArg (·.hub.dict.hostSes) responds.only).trans hosts, (congrArg (·.hub.dict.bindings) responds.only).trans bindings,
      fun y listed => ?_, fun m => ?_, (congrArg (·.draws) responds.only).trans draws⟩
    · obtain ⟨tot, idx, sub, rfl⟩ := responds
      have listed : y ∈ updWhere _ _ u.hub.dict.sessions := listed
      rw [sessions, updWhere] at listed
      obtain ⟨z, kept, rfl⟩ := List.mem_map.mp listed
      have role : z.role ≠ .tenant := of_decide_eq_true (List.mem_filter.mp kept).2
      split
      · exact role
      · exact role
    · rw [dies m]
      exact ⟨Die.endPlan_plan .., rfl⟩

theorem Fresh.debugUnlockToken_forbidden (h : Fresh s r x) (role : x.role ≠ .vendor) :
    ∃ t, exec (.debugUnlockToken r v) s = .next t ∧ Written s r 3 t := by
  have status : mayWrite x.role 0x6030 1 = 3 := by
    cases e : x.role with
    | operator => decide
    | tenant => decide
    | vendor => exact absurd e role
  have refused := State.writeEntry_forbidden (s := s) (x := x) (v := v) (p := noPlan) (c := noStandby) (m := true) (idx := 0x6030) (sub := 1)
    (by rw [status]; decide)
  rw [status] at refused
  exact h.put_written refused

end

/-- Settles O56: the nonce by `State.nonceWrite_facts`, offers and capsules by `State.readEntry_offer` and `State.capsule_facts`, tokens by
`State.unlock_facts`, and the expiry of a key by `State.eraseKey_facts`. -/
theorem securityRequests : Obligations.SecurityRequests := by
  unfold Obligations.SecurityRequests
  intro s r x v off len job seed k h
  refine ⟨fun fresh => ⟨fresh.attestationNonce, fun tenant locked some_ most => ⟨fresh.freshOffer tenant locked some_ most,
    fun later offered => fresh.restOfOffer tenant locked some_ most later offered⟩, fun away some_ most => fresh.noOffer away some_ most,
    fun tenant => ?_, fun vendor => fresh.debugUnlockToken vendor, fun role => fresh.debugUnlockToken_forbidden role⟩,
    fun due run => ?_, fun none => ?_, fun held => ?_⟩
  · obtain ⟨t, runs, responds⟩ := fresh.jobKeyCapsule (v := v) tenant
    have own : s.session x.num = some x := by
      rw [fresh.num_eq]
      exact fresh.session_eq
    refine ⟨t, runs, fun wrong => responds.written (if_pos wrong), fun long absent => ?_, fun long offered bound => ?_,
      fun long offered free away => ?_, fun long offered free idle locked begins => ?_⟩
    · obtain ⟨refused, -⟩ := State.capsule_facts (s := s) (x := x) (job := job) (seed := seed) long
      exact responds.written (refused absent)
    · obtain ⟨refused, -⟩ := (State.capsule_facts long).2 offered
      exact responds.written (refused bound)
    · obtain ⟨-, refused, -⟩ := (State.capsule_facts long).2 offered
      exact responds.written (refused free away)
    · obtain ⟨-, -, taken⟩ := (State.capsule_facts long).2 offered
      have effect := taken free idle locked begins
      let y := s.capsuleKey x job seed v
      obtain ⟨key, others, session⟩ := s.capsuleTaken_facts x y own
      have ports : (s.capsuleTaken x y).ports = s.ports := (keysSettled_eraseKey s job).ports
      rw [effect] at responds
      have sec : t.hub.sec = (s.capsuleTaken x y).hub.sec := congrArg (·.hub.sec) responds.only
      have keys (j : BitVec 8) : t.jobKey j = (s.capsuleTaken x y).jobKey j := congrArg (fun z : Sec => z.keys.find? (fun (k : JobKey) => k.job = j)) sec
      rw [fresh.num_eq] at session
      refine ⟨responds.answered rfl session, responds.ports.trans ports, y, (keys job).trans key, rfl, rfl, rfl, slice_length ..,
        fun j other => (keys j).trans (others j other), ?_⟩
      obtain ⟨tot, idx, sub, rfl⟩ := responds
      exact ⟨_, State.session_reply session _, rfl⟩
  · have ready : s.reportReady = s.modSec (fun x => { x with
        report := x.snap ++ x.sign "YZB8 attest" x.snap, snap := [], readyAt := none }) :=
      if_pos (by rw [Bool.and_eq_true]; exact ⟨Option.isSome_iff_ne_none.mpr due, run⟩)
    exact ⟨_, _, congrArg Host.Outcome.next ready, slice_length .., rfl⟩
  · refine congrArg Host.Outcome.next (if_neg ?_)
    rw [show s.hub.sec.readyAt = _ from none]
    exact Bool.false_ne_true
  · obtain ⟨erases, stays⟩ := State.keyTimeout_facts held
    refine ⟨fun unloaded idle late => ?_, fun away => congrArg Host.Outcome.next (stays away)⟩
    obtain ⟨erased, others, hosts⟩ := s.eraseKey_facts job
    have settled := keysSettled_eraseKey s job
    exact ⟨_, congrArg Host.Outcome.next (erases unloaded idle late), settled.ports, erased, others, hosts,
      fun m => ⟨congrArg (·.cores) (settled.dies m), settled.plan m⟩⟩

end Sys2Proof.Machine

/-! # Records and test access (O58) -/

namespace Sys2Proof.Machine

/-! ### Slots of the recorder (R436) -/

/-- The lowest empty slot of a rising list: no record has it, and every lower one is filled. -/
theorem lowestEmpty_facts (l : List (Nat × Record)) (n : Nat) (rising : (l.map (·.1)).Pairwise (· < ·)) (above : ∀ y ∈ l, n ≤ y.1) :
    n ≤ lowestEmpty n l ∧ lowestEmpty n l ≤ n + l.length ∧ (∀ y ∈ l, y.1 ≠ lowestEmpty n l)
      ∧ ∀ j, n ≤ j → j < lowestEmpty n l → ∃ y ∈ l, y.1 = j := by
  induction l generalizing n with
  | nil => exact ⟨Nat.le_refl n, Nat.le_refl n, fun _ e => (nomatch e), fun j low high => absurd low (Nat.not_le.mpr high)⟩
  | cons x l ih =>
    obtain ⟨i, z⟩ := x
    rw [List.map_cons, List.pairwise_cons] at rising
    obtain ⟨first, rest⟩ := rising
    have later (y : Nat × Record) (listed : y ∈ l) : i < y.1 := first y.1 (List.mem_map_of_mem listed)
    unfold lowestEmpty
    by_cases filled : i = n
    · subst filled
      rw [if_pos rfl]
      obtain ⟨low, high, empty, below⟩ := ih (i + 1) rest later
      refine ⟨by omega, by rw [List.length_cons]; omega, fun y listed => ?_, fun j lo hi => ?_⟩
      · obtain rfl | listed := List.mem_cons.mp listed
        · show i ≠ _
          omega
        · exact empty y listed
      · by_cases here : j = i
        · exact ⟨(i, z), List.mem_cons_self, here.symm⟩
        · obtain ⟨y, listed, same⟩ := below j (by omega) hi
          exact ⟨y, List.mem_cons_of_mem _ listed, same⟩
    · rw [if_neg filled]
      have start : n ≤ i := above (i, z) List.mem_cons_self
      refine ⟨Nat.le_refl n, by omega, fun y listed => ?_, fun j lo hi => absurd lo (Nat.not_le.mpr hi)⟩
      obtain rfl | listed := List.mem_cons.mp listed
      · exact filled
      · have := later y listed
        omega

/-- A record that is put into a slot stands there, and every record of another slot stays. -/
theorem mem_putRecord (n : Nat) (x : Record) (l : List (Nat × Record)) :
    (n, x) ∈ putRecord n x l ∧ ∀ y ∈ l, y.1 ≠ n → y ∈ putRecord n x l := by
  induction l with
  | nil => exact ⟨List.mem_cons_self, fun _ e => (nomatch e)⟩
  | cons z l ih =>
    obtain ⟨i, z⟩ := z
    obtain ⟨there, others⟩ := ih
    unfold putRecord
    by_cases before : n < i
    · rw [if_pos before]
      exact ⟨List.mem_cons_self, fun y listed _ => List.mem_cons_of_mem _ listed⟩
    · rw [if_neg before]
      by_cases same : n = i
      · rw [if_pos same]
        refine ⟨List.mem_cons_self, fun y listed other => ?_⟩
        obtain rfl | listed := List.mem_cons.mp listed
        · exact absurd same.symm other
        · exact List.mem_cons_of_mem _ listed
      · rw [if_neg same]
        refine ⟨List.mem_cons_of_mem _ there, fun y listed other => ?_⟩
        obtain rfl | listed := List.mem_cons.mp listed
        · exact List.mem_cons_self
        · exact List.mem_cons_of_mem _ (others y listed other)

/-- A fold whose every step leaves the start stays there. -/
theorem foldl_still {α β : Type} {f : β → α → β} {b : β} {l : List α} (h : ∀ x ∈ l, f b x = b) : l.foldl f b = b := by
  induction l with
  | nil => rfl
  | cons x l ih =>
    rw [List.foldl_cons, h x List.mem_cons_self]
    exact ih (fun y listed => h y (List.mem_cons_of_mem _ listed))

/-- A recorder that is full of more severe records has no place. -/
theorem placeFor_none {slots v : Nat} {l : List (Nat × Record)} (full : slots ≤ l.length) (severe : ∀ y ∈ l, v < y.2.ev.sev) :
    placeFor slots v l = none := by
  rw [placeFor, if_neg (Nat.not_lt.mpr full), foldl_still (fun x listed => if_pos (severe x listed))]
  rfl

/-! ### The engine takes an event (R431, R435, R436) -/

section
variable (r : Recorder) (e : Event)

/-- The record of an event. -/
def Recorder.recordOf : Record := { seq := r.seq + 1, seqB := r.seq + 1, ev := { e with arr := none }, optime := r.optime, pwr := r.pwr }

/-- The recorder in the RAM after an event of at least the minimum. -/
def Recorder.inRam : Recorder :=
  match placeFor recorderSlots e.sev r.slots with
  | some n => { r with seq := r.seq + 1, slots := putRecord n (r.recordOf e) r.slots, newest := r.seq + 1, cut := some (n, oldSeqB r.slots n) }
  | none => { r with seq := r.seq + 1, dropped := satAdd r.dropped 1 }

theorem Recorder.take_low (low : e.sev < r.minSev.toNat) : r.take e = r := if_pos low

/-- Above the minimum the RAM takes the event, and from warning on the mirror does too. -/
theorem Recorder.take_above (high : r.minSev.toNat ≤ e.sev) :
    r.take e = if e.sev < 3 then r.inRam e
      else match placeFor mirrorSlots e.sev (r.inRam e).mirror with
        | some n => { r.inRam e with
            mirror := putRecord n (r.recordOf e) (r.inRam e).mirror, cutMirror := some (n, oldSeqB (r.inRam e).mirror n) }
        | none => r.inRam e := if_neg (Nat.not_lt.mpr high)

/-- Above the minimum the mirror alone differs from what the RAM takes. -/
theorem Recorder.take_high (high : r.minSev.toNat ≤ e.sev) :
    { r.take e with mirror := (r.inRam e).mirror, cutMirror := (r.inRam e).cutMirror } = r.inRam e
      ∧ (e.sev < 3 → r.take e = r.inRam e) := by
  rw [r.take_above e high]
  by_cases minor : e.sev < 3
  · rw [if_pos minor]
    exact ⟨rfl, fun _ => rfl⟩
  · rw [if_neg minor]
    refine ⟨?_, fun h => absurd h minor⟩
    cases placeFor mirrorSlots e.sev (r.inRam e).mirror with
    | none => rfl
    | some n => rfl

theorem Recorder.inRam_facts :
    (r.inRam e).takenAt = r.takenAt ∧ (r.inRam e).queue = r.queue ∧ (r.inRam e).seq = r.seq + 1 ∧ (r.inRam e).mirror = r.mirror := by
  unfold Recorder.inRam
  split
  · exact ⟨rfl, rfl, rfl, rfl⟩
  · exact ⟨rfl, rfl, rfl, rfl⟩

/-- Where the recorder has room, the event takes the lowest empty slot. -/
theorem Recorder.inRam_room (rising : (r.slots.map (·.1)).Pairwise (· < ·)) (room : r.slots.length < 8192) :
    ∃ i, i < 8192 ∧ (∀ y ∈ r.slots, y.1 ≠ i) ∧ (∀ j, j < i → ∃ y ∈ r.slots, y.1 = j)
      ∧ (i, r.recordOf e) ∈ (r.inRam e).slots ∧ (∀ y ∈ r.slots, y ∈ (r.inRam e).slots) ∧ (r.inRam e).newest = r.seq + 1 := by
  obtain ⟨-, high, empty, below⟩ := lowestEmpty_facts r.slots 0 rising (fun y _ => Nat.zero_le y.1)
  obtain ⟨there, others⟩ := mem_putRecord (lowestEmpty 0 r.slots) (r.recordOf e) r.slots
  have place : placeFor recorderSlots e.sev r.slots = some (lowestEmpty 0 r.slots) := if_pos room
  unfold Recorder.inRam
  rw [place]
  exact ⟨lowestEmpty 0 r.slots, by omega, empty, fun j => below j (Nat.zero_le j), there, fun y listed => others y listed (empty y listed), rfl⟩

/-- Where every record is more severe, the event is dropped. -/
theorem Recorder.inRam_full (full : 8192 ≤ r.slots.length) (severe : ∀ y ∈ r.slots, e.sev < y.2.ev.sev) :
    (r.inRam e).slots = r.slots ∧ (r.inRam e).dropped = satAdd r.dropped 1 := by
  unfold Recorder.inRam
  rw [placeFor_none (slots := recorderSlots) full severe]
  exact ⟨rfl, rfl⟩

/-- The recorder after the engine has taken an event with its whole write. -/
theorem Recorder.take_kept : (r.take e).takenAt = r.takenAt ∧ (r.take e).queue = r.queue := by
  by_cases low : e.sev < r.minSev.toNat
  · rw [r.take_low e low]
    exact ⟨rfl, rfl⟩
  · obtain ⟨same, -⟩ := r.take_high e (Nat.not_lt.mp low)
    obtain ⟨takenAt, queue, -⟩ := r.inRam_facts e
    have at_ := congrArg Recorder.takenAt same
    have queue_ := congrArg Recorder.queue same
    exact ⟨at_.trans takenAt, queue_.trans queue⟩

/-- The recorder after the engine has taken an event with its whole write. -/
theorem Recorder.taken_facts :
    let t := (r.take e).settle
    t.takenAt = r.takenAt ∧ t.queue = r.queue ∧ t.cut = none ∧ t.cutMirror = none
      ∧ (e.sev < r.minSev.toNat → t = { r with cut := none, cutMirror := none })
      ∧ (r.minSev.toNat ≤ e.sev → t.seq = r.seq + 1
          ∧ ((r.slots.map (·.1)).Pairwise (· < ·) → r.slots.length < 8192 →
              ∃ i, i < 8192 ∧ (∀ y ∈ r.slots, y.1 ≠ i) ∧ (∀ j, j < i → ∃ y ∈ r.slots, y.1 = j)
                ∧ (i, r.recordOf e) ∈ t.slots ∧ (∀ y ∈ r.slots, y ∈ t.slots) ∧ t.newest = r.seq + 1)
          ∧ (8192 ≤ r.slots.length → (∀ y ∈ r.slots, e.sev < y.2.ev.sev) →
              t.slots = r.slots ∧ t.dropped = satAdd r.dropped 1)
          ∧ (e.sev < 3 → t.mirror = r.mirror)) := by
  intro t
  obtain ⟨takenAt, queue⟩ := r.take_kept e
  refine ⟨takenAt, queue, rfl, rfl, fun low => ?_, fun high => ?_⟩
  · show (r.take e).settle = _
    rw [r.take_low e low]
    rfl
  · obtain ⟨same, minor⟩ := r.take_high e high
    obtain ⟨-, -, seq, mirror⟩ := r.inRam_facts e
    have seq_ := congrArg Recorder.seq same
    have slots := congrArg Recorder.slots same
    have newest := congrArg Recorder.newest same
    have dropped := congrArg Recorder.dropped same
    dsimp only at seq_ slots newest dropped
    show (r.take e).seq = _ ∧ (_ → _ → ∃ i, _ ∧ _ ∧ _ ∧ _ ∈ (r.take e).slots ∧ (∀ y ∈ r.slots, y ∈ (r.take e).slots)
      ∧ (r.take e).newest = _) ∧ (_ → _ → (r.take e).slots = _ ∧ (r.take e).dropped = _) ∧ (_ → (r.take e).mirror = _)
    rw [seq_, slots, newest, dropped]
    exact ⟨seq, r.inRam_room e, r.inRam_full e, fun few => (congrArg Recorder.mirror (minor few)).trans mirror⟩

end

/-! ### The first event (R435) -/

section
variable {s : State}

/-- One step of the search for the event that reached the engine first. -/
def State.earlier (s : State) (m : Option (DieIx × Event)) (n : DieIx) : Option (DieIx × Event) :=
  match s.dies[n].evq with
  | [] => m
  | e :: _ =>
    if !s.dies[n].reached then m
    else match m with
      | some y => if e.sooner y.2 then some (n, e) else m
      | none => some (n, e)

/-- A step of the search keeps what it has found, or finds the head of a reached die's queue in its place. -/
theorem State.earlier_cases (s : State) (m : Option (DieIx × Event)) (n : DieIx) :
    (s.earlier m n = m ∧ ∀ w, s.dies[n].reached = true → s.dies[n].evq.head? = some w →
        ∃ z, m = some z ∧ z.2.arr.getD 0 ≤ w.arr.getD 0)
    ∨ ∃ e, s.earlier m n = some (n, e) ∧ s.dies[n].reached = true ∧ s.dies[n].evq.head? = some e
        ∧ ∀ z, m = some z → e.arr.getD 0 ≤ z.2.arr.getD 0 := by
  unfold State.earlier
  cases waits : s.dies[n].evq with
  | nil => exact .inl ⟨rfl, fun w _ e => nomatch e⟩
  | cons e l =>
    dsimp only
    cases reached : s.dies[n].reached with
    | false => exact .inl ⟨rfl, fun w e => nomatch e⟩
    | true =>
      rw [if_neg (by decide)]
      cases m with
      | none => exact .inr ⟨e, rfl, rfl, rfl, fun z none => nomatch none⟩
      | some y =>
        dsimp only
        by_cases sooner : e.sooner y.2 = true
        · rw [if_pos sooner]
          refine .inr ⟨e, rfl, rfl, rfl, fun z same => ?_⟩
          obtain rfl := Option.some.inj same
          exact Nat.le_of_lt (of_decide_eq_true sooner)
        · rw [if_neg sooner]
          refine .inl ⟨rfl, fun w _ head => ⟨y, rfl, ?_⟩⟩
          obtain rfl := Option.some.inj head
          exact Nat.not_lt.mp (fun before => sooner (decide_eq_true before))

/-- The search over a list of dies. -/
theorem State.earliest_facts (s : State) (l : List DieIx) (m : Option (DieIx × Event)) :
    let y := l.foldl s.earlier m
    (∀ z, y = some z → m = some z ∨ (s.dies[z.1].reached = true ∧ s.dies[z.1].evq.head? = some z.2))
    ∧ (∀ z, m = some z → ∃ x, y = some x ∧ x.2.arr.getD 0 ≤ z.2.arr.getD 0)
    ∧ ∀ o ∈ l, ∀ w, s.dies[o].reached = true → s.dies[o].evq.head? = some w → ∃ x, y = some x ∧ x.2.arr.getD 0 ≤ w.arr.getD 0 := by
  induction l generalizing m with
  | nil => exact ⟨fun z same => .inl same, fun z same => ⟨z, same, Nat.le_refl _⟩, fun _ e => nomatch e⟩
  | cons n l ih =>
    intro y
    obtain ⟨found, kept, least⟩ := ih (s.earlier m n)
    rw [← List.foldl_cons] at found kept least
    obtain ⟨same, heads⟩ | ⟨e, new, reached, head, before⟩ := s.earlier_cases m n
    · rw [same] at found kept
      refine ⟨found, kept, fun o listed w up first => ?_⟩
      obtain rfl | listed := List.mem_cons.mp listed
      · obtain ⟨z, there, le⟩ := heads w up first
        obtain ⟨x, result, le'⟩ := kept z there
        exact ⟨x, result, le'.trans le⟩
      · exact least o listed w up first
    · rw [new] at found kept
      obtain ⟨x, result, le⟩ := kept (n, e) rfl
      refine ⟨fun z there => ?_, fun z there => ⟨x, result, le.trans (before z there)⟩, fun o listed w up first => ?_⟩
      · obtain first | later := found z there
        · obtain rfl := Option.some.inj first
          exact .inr ⟨reached, head⟩
        · exact .inr later
      · obtain rfl | listed := List.mem_cons.mp listed
        · obtain rfl := Option.some.inj (head.symm.trans first)
          exact ⟨x, result, le⟩
        · exact least o listed w up first

theorem State.firstEvent_eq (s : State) : s.firstEvent = (List.finRange 8).foldl s.earlier none := rfl

/-- The first event waits at the head of a reached die's queue, and none of another one arrived before it. -/
theorem State.firstEvent_facts {m : DieIx} {y : Event} (first : s.firstEvent = some (m, y)) :
    s.dies[m].reached = true ∧ s.dies[m].evq.head? = some y
      ∧ ∀ o : DieIx, s.dies[o].reached = true → ∀ w, s.dies[o].evq.head? = some w → y.arr.getD 0 ≤ w.arr.getD 0 := by
  obtain ⟨found, -, least⟩ := s.earliest_facts (List.finRange 8) none
  rw [← State.firstEvent_eq, first] at found least
  obtain none | ⟨reached, head⟩ := found (m, y) rfl
  · exact nomatch none
  · refine ⟨reached, head, fun o up w head => ?_⟩
    obtain ⟨x, same, le⟩ := least o (List.mem_finRange o) w up head
    obtain rfl := Option.some.inj same
    exact le

/-- The queue of a die whose lane works is stamped, and nothing else of a die. -/
theorem State.stamped_die (s : State) (m : DieIx) :
    { s.stamped.dies[m] with evq := s.dies[m].evq } = s.dies[m]
      ∧ (s.dies[m].reached = false → s.stamped.dies[m].evq = s.dies[m].evq)
      ∧ (s.dies[m].reached = true → s.stamped.dies[m].evq = s.dies[m].evq.map (Event.reach s.now)) := by
  have whole : s.stamped.dies[m] = if s.dies[m].reached then { s.dies[m] with evq := s.dies[m].evq.map (Event.reach s.now) } else s.dies[m] :=
    Vector.getElem_map ..
  rw [whole]
  cases s.dies[m].reached with
  | false => exact ⟨rfl, fun _ => rfl, fun e => nomatch e⟩
  | true => exact ⟨rfl, fun e => (nomatch e), fun _ => rfl⟩

/-! ### The engine (R435) -/

/-- The engine takes an event of a die, or one of the hub die. -/
def State.tookDie (s : State) (n : DieIx) (e : Event) : State :=
  (s.stamped.modDie n (fun d => { d with evq := d.evq.drop 1 })).modHub (fun h => { h with rec_ := { h.rec_ with takenAt := some s.now }.take e })
def State.tookHub (s : State) (e : Event) : State :=
  s.stamped.modHub (fun h => { h with rec_ := { h.rec_ with queue := h.rec_.queue.drop 1, takenAt := some s.now }.take e })

/-- The writes in progress are done. -/
def State.settled (s : State) : State := s.modHub (fun h => { h with rec_ := h.rec_.settle })

theorem State.engineTake_waits (notReady : s.engineReady = false) : s.engineTake = s :=
  if_pos (by rw [notReady]; simp)

section
variable (up : s.hub.board.rstLow = false) (power : s.hub.board.standby = true) (ready : s.engineReady = true)
include up power ready

theorem State.engineTake_ready :
    s.engineTake = match s.stamped.firstEvent, s.stamped.hub.rec_.queue with
      | some (n, e), [] => s.tookDie n e
      | none, e :: _ => s.tookHub e
      | some (n, e), x :: _ => if x.sooner e then s.tookHub x else s.tookDie n e
      | none, [] => s := by
  unfold State.engineTake
  dsimp only
  rw [if_neg (by rw [up, power, ready]; decide)]
  rfl

variable {n : DieIx} {e z : Event} {q : List Event}

theorem State.engineTake_die (first : s.stamped.firstEvent = some (n, e)) (none_ : s.stamped.hub.rec_.queue = []) :
    s.engineTake = s.tookDie n e := by
  rw [State.engineTake_ready up power ready, first, none_]

theorem State.engineTake_hub (none_ : s.stamped.firstEvent = none) (first : s.stamped.hub.rec_.queue = e :: q) :
    s.engineTake = s.tookHub e := by
  rw [State.engineTake_ready up power ready, none_, first]

theorem State.engineTake_both (die : s.stamped.firstEvent = some (n, e)) (hub : s.stamped.hub.rec_.queue = z :: q) :
    s.engineTake = if z.sooner e then s.tookHub z else s.tookDie n e := by
  rw [State.engineTake_ready up power ready, die, hub]

end

theorem State.engineTake_none (none_ : s.stamped.firstEvent = none) (empty : s.stamped.hub.rec_.queue = []) : s.engineTake = s := by
  by_cases off : (s.hub.board.rstLow || !s.hub.board.standby || !s.engineReady) = true
  · exact if_pos off
  · unfold State.engineTake
    dsimp only
    rw [if_neg off, none_, empty]

/-- What a take of a die's event leaves. -/
theorem State.tookDie_facts (s : State) (n : DieIx) (e : Event) :
    let t := (s.tookDie n e).settled
    t.ports = s.ports ∧ { t.hub with rec_ := s.hub.rec_ } = s.hub
      ∧ t.dies[n] = { s.dies[n] with evq := s.stamped.dies[n].evq.drop 1 } ∧ (∀ m : DieIx, m ≠ n → t.dies[m] = s.stamped.dies[m])
      ∧ t.hub.rec_ = ({ s.stamped.hub.rec_ with takenAt := some s.now }.take e).settle := by
  intro t
  obtain ⟨only, -⟩ := s.stamped_die n
  refine ⟨rfl, rfl, (s.stamped.modDie_same n _).trans ?_, fun m other => s.stamped.modDie_other n m _ other, rfl⟩
  exact congrArg (fun d : Die => { d with evq := s.stamped.dies[n].evq.drop 1 }) only

theorem State.tookHub_facts (s : State) (e : Event) :
    let t := (s.tookHub e).settled
    OnlyHub s.stamped t ∧ t.hub.rec_ = ({ s.stamped.hub.rec_ with queue := s.stamped.hub.rec_.queue.drop 1, takenAt := some s.now }.take e).settle :=
  ⟨rfl, rfl⟩

/-- An event at the head of a stamped queue has reached the engine. -/
theorem State.firstEvent_reached {n : DieIx} {e : Event} (first : s.stamped.firstEvent = some (n, e)) : e.arr ≠ none := by
  obtain ⟨reached, head, -⟩ := State.firstEvent_facts first
  obtain ⟨only, -, stamps⟩ := s.stamped_die n
  have up : s.dies[n].reached = true := by
    have lane := congrArg Die.reached only
    exact lane.symm.trans reached
  rw [stamps up, List.head?_map] at head
  obtain ⟨y, -, rfl⟩ := Option.map_eq_some_iff.mp head
  exact Option.some_ne_none _

end

/-! ### The test access port (R475) -/

section
variable (s : State) (tdi : Bool) (pins : BitVec 12)

/-- Only the shift registers of the test access port change, and TDO. -/
structure TapWork (s t : State) : Prop where
  rest : { t with hub := { t.hub with tap := s.hub.tap }, draws := s.draws } = s
  st : t.hub.tap.st = s.hub.tap.st
  ir : t.hub.tap.ir = s.hub.tap.ir
  bsOut : t.hub.tap.bsOut = s.hub.tap.bsOut

theorem TapWork.refl : TapWork s s := ⟨rfl, rfl, rfl, rfl⟩

theorem tapWork_modTap {s : State} (f : Tap → Tap) (h : ∀ k, (f k).st = k.st ∧ (f k).ir = k.ir ∧ (f k).bsOut = k.bsOut) :
    TapWork s (s.modTap f) := by
  obtain ⟨st, ir, bsOut⟩ := h s.hub.tap
  exact ⟨rfl, st, ir, bsOut⟩

theorem TapWork.drew {s t : State} (h : TapWork s t) : TapWork s t.drew := by
  obtain ⟨rest, st, ir, bsOut⟩ := h
  exact ⟨rest, st, ir, bsOut⟩

/-- A rising edge captures or shifts, and leaves state, instruction and outputs of the port. -/
theorem State.tapRise_only : TapWork s (s.tapRise tdi pins) := by
  unfold State.tapRise
  dsimp only
  split
  · exact tapWork_modTap _ (fun _ => ⟨rfl, rfl, rfl⟩)
  · exact tapWork_modTap _ (fun _ => ⟨rfl, rfl, rfl⟩)
  · split
    · exact (tapWork_modTap (fun k => { k with bsShift := s.boundaryIn pins }) (fun _ => ⟨rfl, rfl, rfl⟩)).drew
    · exact tapWork_modTap _ (fun _ => ⟨rfl, rfl, rfl⟩)
    · exact tapWork_modTap _ (fun _ => ⟨rfl, rfl, rfl⟩)
  · split
    · exact tapWork_modTap _ (fun _ => ⟨rfl, rfl, rfl⟩)
    · exact tapWork_modTap _ (fun _ => ⟨rfl, rfl, rfl⟩)
    · exact tapWork_modTap _ (fun _ => ⟨rfl, rfl, rfl⟩)
  · exact .refl s
/-- A falling edge updates or drives TDO, and leaves the shift registers. -/
theorem State.tapFall_only :
    let t := s.tapFall
    { t with hub := { t.hub with tap := s.hub.tap } } = s ∧ t.hub.tap.st = s.hub.tap.st ∧ t.hub.tap.irShift = s.hub.tap.irShift
      ∧ t.hub.tap.idShift = s.hub.tap.idShift ∧ t.hub.tap.byp = s.hub.tap.byp ∧ t.hub.tap.bsShift = s.hub.tap.bsShift := by
  unfold State.tapFall
  dsimp only
  split
  · exact ⟨rfl, rfl, rfl, rfl, rfl, rfl⟩
  · exact ⟨rfl, rfl, rfl, rfl, rfl, rfl⟩
  · split
    · exact ⟨rfl, rfl, rfl, rfl, rfl, rfl⟩
    · exact ⟨rfl, rfl, rfl, rfl, rfl, rfl⟩
  · exact ⟨rfl, rfl, rfl, rfl, rfl, rfl⟩
  · exact ⟨rfl, rfl, rfl, rfl, rfl, rfl⟩
  · exact ⟨rfl, rfl, rfl, rfl, rfl, rfl⟩

/-- What a falling edge does in the state just entered. -/
theorem State.tapFall_facts :
    (s.hub.tap.st = .reset → s.tapFall.hub.tap.ir = 0x01)
    ∧ (s.hub.tap.st = .updIr → s.tapFall.hub.tap.ir = s.hub.tap.irShift)
    ∧ (s.hub.tap.st = .updDr → s.hub.dataReg = .boundary → s.tapFall.hub.tap.bsOut = s.hub.tap.bsShift)
    ∧ (s.hub.tap.st = .shDr → s.hub.dataReg = .idcode → s.tapFall.hub.tap.tdo = bit s.hub.tap.idShift 0) := by
  unfold State.tapFall
  dsimp only
  refine ⟨fun e => by rw [e]; rfl, fun e => by rw [e]; rfl, fun e reg => ?_, fun e reg => ?_⟩
  · rw [e]
    exact (congrArg (fun u : State => u.hub.tap.bsOut) (if_pos reg)).trans rfl
  · rw [e, reg]
    rfl

/-- A register shifts to the right, and TDI comes in at its top. -/
theorem shifted_toNat {w : Nat} (x : BitVec (w + 1)) (b : Bool) :
    (BitVec.ofNat (w + 1) (x.toNat / 2 + b2n b * 2 ^ w)).toNat = x.toNat / 2 + (if b then 2 ^ w else 0) := by
  have top : b2n b * 2 ^ w = if b then 2 ^ w else 0 := by
    cases b <;> simp [b2n]
  have small := x.isLt
  rw [top, BitVec.toNat_ofNat]
  refine Nat.mod_eq_of_lt ?_
  rw [Nat.pow_succ] at small ⊢
  split <;> omega

/-- What a rising edge captures and shifts. -/
theorem State.tapRise_facts :
    let k := s.hub.tap
    let t := (s.tapRise tdi pins).hub.tap
    (k.st = .capDr → s.hub.dataReg = .idcode → t.idShift = 0x1B8A0433)
    ∧ (k.st = .capDr → s.hub.dataReg = .bypass → t.byp = false)
    ∧ (k.st = .shDr → s.hub.dataReg = .idcode → t.idShift.toNat = k.idShift.toNat / 2 + (if tdi then 2 ^ 31 else 0))
    ∧ (k.st = .shDr → s.hub.dataReg = .bypass → t.byp = tdi)
    ∧ (k.st = .shDr → s.hub.dataReg = .boundary → t.bsShift.toNat = k.bsShift.toNat / 2 + (if tdi then 2 ^ 35 else 0))
    ∧ (k.st = .capIr → t.irShift = 1)
    ∧ (k.st = .shIr → t.irShift.toNat = k.irShift.toNat / 2 + (if tdi then 128 else 0))
    ∧ (k.st = .ex1Ir ∨ k.st = .ex2Ir → t.irShift = k.irShift)
    ∧ (k.st = .ex1Dr ∨ k.st = .ex2Dr → t.bsShift = k.bsShift) := by
  intro k t
  have whole : t = (s.tapRise tdi pins).hub.tap := rfl
  clear_value t
  unfold State.tapRise at whole
  dsimp only at whole
  refine ⟨fun st reg => ?_, fun st reg => ?_, fun st reg => ?_, fun st reg => ?_, fun st reg => ?_, fun st => ?_, fun st => ?_,
    fun st => ?_, fun st => ?_⟩
  · rw [show s.hub.tap.st = _ from st, reg] at whole
    rw [whole]
    rfl
  · rw [show s.hub.tap.st = _ from st, reg] at whole
    rw [whole]
    rfl
  · rw [show s.hub.tap.st = _ from st, reg] at whole
    rw [whole]
    exact shifted_toNat (w := 31) s.hub.tap.idShift tdi
  · rw [show s.hub.tap.st = _ from st, reg] at whole
    rw [whole]
    rfl
  · rw [show s.hub.tap.st = _ from st, reg] at whole
    rw [whole]
    exact shifted_toNat (w := 35) s.hub.tap.bsShift tdi
  · rw [show s.hub.tap.st = _ from st] at whole
    rw [whole]
    rfl
  · rw [show s.hub.tap.st = _ from st] at whole
    rw [whole]
    exact shifted_toNat (w := 7) s.hub.tap.irShift tdi
  · obtain st | st := st
    · rw [show s.hub.tap.st = _ from st] at whole
      rw [whole]
    · rw [show s.hub.tap.st = _ from st] at whole
      rw [whole]
  · obtain st | st := st
    · rw [show s.hub.tap.st = _ from st] at whole
      rw [whole]
    · rw [show s.hub.tap.st = _ from st] at whole
      rw [whole]

/-- The data register of an instruction of R475. -/
theorem Hub.dataReg_facts (h : Hub) :
    (h.tap.ir = 0x01 → h.dataReg = .idcode) ∧ (h.tap.ir = 0x00 ∨ h.tap.ir = 0x02 → h.dataReg = .boundary) := by
  unfold Hub.dataReg
  refine ⟨fun e => by rw [e]; rfl, fun e => ?_⟩
  obtain e | e := e
  · rw [e]
    rfl
  · rw [e]
    rfl

/-- One cycle of TCK with a state to go to: a rising edge, the state that TMS leads to, and a falling edge there. -/
def State.tckCycle (s : State) (tms tdi : Bool) (pins : BitVec 12) : State :=
  ((s.tapRise tdi pins).modTap (fun t => { t with st := t.st.after tms })).tapFall

theorem State.tck_facts (tms : Bool) :
    let k := s.hub.tap
    let t := s.tckCycle tms tdi pins
    { t with hub := { t.hub with tap := k }, draws := s.draws } = s
      ∧ t.hub.tap.st = k.st.after tms
      ∧ (k.st = .capDr → k.ir = 0x01 → t.hub.tap.idShift = 0x1B8A0433)
      ∧ (k.st = .capDr → s.hub.dataReg = .bypass → t.hub.tap.byp = false)
      ∧ (k.st = .shDr → k.ir = 0x01 → t.hub.tap.idShift.toNat = k.idShift.toNat / 2 + (if tdi then 2 ^ 31 else 0)
          ∧ (tms = false → t.hub.tap.tdo = k.idShift.toNat.testBit 1))
      ∧ (k.st = .shDr → s.hub.dataReg = .bypass → t.hub.tap.byp = tdi)
      ∧ (k.st = .shDr → (k.ir = 0x00 ∨ k.ir = 0x02) →
          t.hub.tap.bsShift.toNat = k.bsShift.toNat / 2 + (if tdi then 2 ^ 35 else 0))
      ∧ (k.st = .capIr → t.hub.tap.irShift = 1)
      ∧ (k.st = .shIr → t.hub.tap.irShift.toNat = k.irShift.toNat / 2 + (if tdi then 128 else 0))
      ∧ ((k.st = .ex1Ir ∨ k.st = .ex2Ir) → tms = true → t.hub.tap.ir = k.irShift)
      ∧ ((k.st = .ex1Dr ∨ k.st = .ex2Dr) → tms = true → (k.ir = 0x00 ∨ k.ir = 0x02) → t.hub.tap.bsOut = k.bsShift)
      ∧ (k.st.after tms = .reset → t.hub.tap.ir = 0x01) := by
  intro k t
  obtain ⟨rest, st, ir, bsOut⟩ := s.tapRise_only tdi pins
  obtain ⟨capId, capByp, shId, shByp, shBs, capIr, shIr, keepIr, keepBs⟩ := s.tapRise_facts tdi pins
  have scope : (s.tapRise tdi pins).hub.sec = s.hub.sec := congrArg (·.hub.sec) rest
  have reg : (s.tapRise tdi pins).hub.dataReg = s.hub.dataReg := by
    unfold Hub.dataReg
    rw [ir, scope]
  let u := (s.tapRise tdi pins).modTap (fun t => { t with st := t.st.after tms })
  have reg' : u.hub.dataReg = s.hub.dataReg := reg
  have after : u.hub.tap.st = k.st.after tms := congrArg (·.after tms) st
  obtain ⟨only, stays, irShift, idShift, byp, bsShift⟩ := u.tapFall_only
  obtain ⟨resets, updIr, updDr, tdo⟩ := u.tapFall_facts
  obtain ⟨isId, isBoundary⟩ := s.hub.dataReg_facts
  have irShift' : t.hub.tap.irShift = (s.tapRise tdi pins).hub.tap.irShift := irShift
  have idShift' : t.hub.tap.idShift = (s.tapRise tdi pins).hub.tap.idShift := idShift
  have byp' : t.hub.tap.byp = (s.tapRise tdi pins).hub.tap.byp := byp
  have bsShift' : t.hub.tap.bsShift = (s.tapRise tdi pins).hub.tap.bsShift := bsShift
  have whole : { t with hub := { t.hub with tap := k }, draws := s.draws } = s := by
    have kept := congrArg (fun v : State => { v with hub := { v.hub with tap := k }, draws := s.draws }) only
    exact kept.trans rest
  rw [irShift', idShift', byp', bsShift']
  refine ⟨whole, stays.trans after, fun h e => capId h (isId e), capByp, fun h e => ⟨shId h (isId e), fun low => ?_⟩, shByp,
    fun h e => shBs h (isBoundary e), capIr, shIr, fun h high => ?_, fun h high e => ?_, fun h => resets (after.trans h)⟩
  · have stay : u.hub.tap.st = .shDr := by
      rw [after, h, low]
      rfl
    refine (tdo stay (reg'.trans (isId e))).trans ?_
    have value := shId h (isId e)
    show (s.tapRise tdi pins).hub.tap.idShift.getLsbD 0 = _
    rw [BitVec.getLsbD, value, Nat.testBit_succ, Nat.testBit_zero, Nat.testBit_zero]
    refine decide_eq_decide.mpr ?_
    show (s.hub.tap.idShift.toNat / 2 + _) % 2 = 1 ↔ s.hub.tap.idShift.toNat / 2 % 2 = 1
    split
    · omega
    · rw [Nat.add_zero]
  · have enters : u.hub.tap.st = .updIr := by
      rw [after, high]
      obtain h | h := h
      · rw [h]
        rfl
      · rw [h]
        rfl
    exact (updIr enters).trans (keepIr h)
  · have enters : u.hub.tap.st = .updDr := by
      rw [after, high]
      obtain h | h := h
      · rw [h]
        rfl
      · rw [h]
        rfl
    exact (updDr enters (reg'.trans (isBoundary e))).trans (keepBs h)

end

/-- Settles O58: the engine by `Recorder.taken_facts` and `State.firstEvent_facts`, the test access port by `State.tck_facts`. -/
theorem recordsAndTestAccess : Obligations.RecordsAndTestAccess := by
  unfold Obligations.RecordsAndTestAccess
  intro s n e z q tms tdi pins h rec_ k u idle
  refine ⟨fun up power => ⟨fun none_ empty => ?_, fun notReady => ?_, fun ready first empty => ?_, fun ready none_ first => ?_,
    fun ready die hub => ?_, fun m => ?_⟩, fun run due => ?_, fun early => ?_, fun up differs => ⟨fun due => ?_, fun early => ?_⟩,
    fun off => ?_, fun power open_ => ?_, rfl⟩
  · have empty' : u.hub.rec_.queue = [] := congrArg (List.map (Event.reach s.now)) empty
    exact congrArg (fun t : State => (.next t.settled : Out)) (State.engineTake_none none_ empty')
  · exact congrArg (fun t : State => (.next t.settled : Out)) (State.engineTake_waits notReady)
  · have empty' : u.hub.rec_.queue = [] := congrArg (List.map (Event.reach s.now)) empty
    obtain ⟨ports, hub, die, dies, recorder⟩ := s.tookDie_facts n e
    obtain ⟨takenAt, queue, cut, cutMirror, low, high⟩ := Recorder.taken_facts { s.stamped.hub.rec_ with takenAt := some s.now } e
    refine ⟨(s.tookDie n e).settled, congrArg (fun t : State => (.next t.settled : Out)) (State.engineTake_die up power ready first empty'),
      ports, hub, die, dies, State.firstEvent_reached first, ?_⟩
    rw [recorder]
    refine ⟨takenAt, cut, cutMirror, fun minor => ?_, high⟩
    rw [low minor]
    exact congrArg (fun l => { rec_ with queue := l }) (empty'.trans empty.symm)
  · obtain ⟨only, recorder⟩ := s.tookHub_facts e
    obtain ⟨-, queue, -, -, low, high⟩ :=
      Recorder.taken_facts { s.stamped.hub.rec_ with queue := s.stamped.hub.rec_.queue.drop 1, takenAt := some s.now } e
    refine ⟨(s.tookHub e).settled, congrArg (fun t : State => (.next t.settled : Out)) (State.engineTake_hub up power ready none_ first), only, ?_⟩
    rw [recorder]
    refine ⟨queue.trans (congrArg (List.drop 1) first), fun major => (high major).1, fun minor => ?_⟩
    rw [low minor]
    exact ⟨rfl, rfl⟩
  · have whole := State.engineTake_both up power ready die hub
    by_cases sooner : z.sooner e = true
    · rw [if_pos sooner] at whole
      obtain ⟨only, recorder⟩ := s.tookHub_facts z
      obtain ⟨-, queue, -⟩ :=
        Recorder.taken_facts { s.stamped.hub.rec_ with queue := s.stamped.hub.rec_.queue.drop 1, takenAt := some s.now } z
      refine ⟨(s.tookHub z).settled, congrArg (fun t : State => (.next t.settled : Out)) whole, rfl, fun _ => ⟨rfl, ?_⟩, fun later => ?_⟩
      · rw [recorder]
        exact queue.trans (congrArg (List.drop 1) hub)
      · exact absurd (of_decide_eq_true sooner) (Nat.not_lt.mpr later)
    · rw [if_neg sooner] at whole
      obtain ⟨ports, -, die', -, recorder⟩ := s.tookDie_facts n e
      obtain ⟨-, queue, -⟩ := Recorder.taken_facts { s.stamped.hub.rec_ with takenAt := some s.now } e
      refine ⟨(s.tookDie n e).settled, congrArg (fun t : State => (.next t.settled : Out)) whole, ports,
        fun before => absurd (decide_eq_true before) sooner, fun _ => ⟨?_, die'⟩⟩
      rw [recorder]
      exact queue.trans hub
  · obtain ⟨only, still, stamps⟩ := s.stamped_die m
    have lane (o : DieIx) : u.dies[o].reached = s.dies[o].reached := by
      obtain ⟨same, -⟩ := s.stamped_die o
      have reached := congrArg Die.reached same
      exact reached
    refine ⟨only, still, stamps, fun y first => ?_⟩
    obtain ⟨reached, head, least⟩ := State.firstEvent_facts first
    exact ⟨(lane m).symm.trans reached, head, fun o up => least o ((lane o).trans up)⟩
  · exact congrArg Host.Outcome.next (if_pos (by rw [show s.hub.fw.running = true from run]; exact decide_eq_true due))
  · refine congrArg Host.Outcome.next (if_neg ?_)
    rw [Bool.and_eq_true, decide_eq_true_eq]
    exact fun both => absurd both.2 (Nat.not_le.mpr early)
  · refine (act_runs _ up).trans (congrArg Host.Outcome.next (if_pos ?_))
    rw [Bool.and_eq_true, decide_eq_true_eq, decide_eq_true_eq]
    exact ⟨differs, due⟩
  · refine (act_runs _ up).trans (congrArg Host.Outcome.next (if_neg ?_))
    rw [Bool.and_eq_true, decide_eq_true_eq, decide_eq_true_eq]
    exact fun both => absurd both.2 (Nat.not_le.mpr early)
  · exact if_pos (by rw [show s.hub.board.standby = false from off]; rfl)
  · have runs : exec (.jtagTckEdge tms tdi pins) s = .next (s.tckCycle tms tdi pins) := by
      refine (if_neg (by rw [show s.hub.board.standby = true from power]; decide)).trans (if_neg ?_)
      rw [Bool.and_eq_true, decide_eq_true_eq, decide_eq_true_eq]
      rintro ⟨shifts, isPriv⟩
      exact open_.elim (· shifts) (· isPriv)
    exact ⟨_, runs, s.tck_facts tdi pins tms⟩

end Sys2Proof.Machine

/-! # Reset and start (O47)

The watchdog of Marigold fences the dies that run a plan one after another, and every fence lets a sequence of rails go on. Where that
sequence takes the VCORE of a later die away, its plan is gone before its turn, and it is not fenced. -/

namespace Sys2Proof.Machine

/-- Dies 0 and 1 run a plan, and the sequence in progress is to disable the VCORE rail of die 1. -/
def railsComingDown : State :=
  let s := State.reset.modHub fun h => { h with
    board := { h.board with standby := true, rstLow := false }
    power := { h.power with rails := h.power.rails.set 1 { enabled := true }, goal := .down [1] false false } }
  (s.modDie 0 (fun d => { d with plan := some Tests.plan0 })).modDie 1 (fun d => { d with plan := some Tests.plan0 })

theorem railsComingDown_fenced : (railsComingDown.watchdog.dies[1]).pow.fenced = false := by
  decide +kernel

/-- Refutes O47 in its clause on the watchdog: with `railsComingDown` the fence of die 0 lets the rails go on, which takes VCORE and
plan of die 1 away, so that die 1 is not fenced. -/
theorem not_resetAndStart : ¬ Obligations.ResetAndStart := by
  unfold Obligations.ResetAndStart
  intro h
  obtain ⟨-, -, -, -, -, -, -, -, -, watchdog, -⟩ := h railsComingDown 0 none
  obtain ⟨t, runs, -, -, -, fenced⟩ := watchdog rfl rfl
  obtain rfl : railsComingDown.watchdog = t := Host.Outcome.next.inj runs
  have kept := fenced 1 (by decide +kernel)
  exact Bool.false_ne_true (railsComingDown_fenced.symm.trans kept)

end Sys2Proof.Machine
